-- ==== Sys2Proof/Word.lean ====
section
/-!
DEFINITION. The word types of the YI-96A (R9) and their plainest arithmetic: sign and zero
reading of a bit vector, clamping, and the table of 96 lanes.
-/
namespace Sys2Proof

/-- A byte (R9). -/
abbrev Byte := BitVec 8
/-- A 32-bit word (R9). -/
abbrev Word := BitVec 32
/-- A 64-bit doubleword (R9). -/
abbrev DWord := BitVec 64
/-- One bit for each of the 96 logical lanes (R105). -/
abbrev LaneMask := BitVec 96
/-- One value for each of the 96 logical lanes (R105). -/
abbrev Lanes (α : Type) := Vector α 96

/-- The lanes' values, one from each lane index. -/
def Lanes.tab {α : Type} (f : Fin 96 → α) : Lanes α := Vector.ofFn f

/-- The lane indices 0..95 in increasing order (R15). -/
def laneList : List (Fin 96) := List.finRange 96

/-- The exact value clamped once to lo..hi (R48). -/
def clampInt (lo hi x : Int) : Int := if x < lo then lo else if hi < x then hi else x

/-- A doubleword from the odd (high) and even (low) halves of a pair (R8). -/
def pairOf (hi lo : Word) : DWord := hi ++ lo

/-- Bits [31:0] of a pair value (R8). -/
def loWord (x : DWord) : Word := x.extractLsb' 0 32

/-- Bits [63:32] of a pair value (R8). -/
def hiWord (x : DWord) : Word := x.extractLsb' 32 32

end Sys2Proof
end

