-- ==== Sys2Proof/Syntax.lean ====
section
/-!
DEFINITION. The syntax of the YI-96A: one constructor of `Instr` for every row of the opcode
table. The first 325 rows are instruction words (03_packet.md R85..R94): their fields are held as
the encoding gives them, an immediate field still unread (R86). The other rows are the steps of
the device (95_what_each_step_holds.md): what comes from outside the step (an outcome, a number,
the bytes of a command block) is an argument of the constructor.
-/
namespace Sys2Proof

/-- A group of a launch: context, launch sequence number, linear group index (R304). -/
structure GRef where
  ctx : Nat
  seq : Nat
  lgi : Nat
  deriving DecidableEq, Repr, Inhabited

/-- A warp of a group (R118: wid). -/
structure WRef where
  g : GRef
  w : Nat
  deriving DecidableEq, Repr, Inhabited

/-- The kinds of units of a core that wear (R33, R412 kinds 0..5). -/
inductive UnitKind where
  | lane | quad | bank | scalar | sbank | column
  deriving DecidableEq, Repr, Inhabited

/-- A unit of a core (R412). -/
structure UnitId where
  kind : UnitKind
  core : Nat
  part : Nat
  index : Nat
  deriving DecidableEq, Repr, Inhabited

/-- The steering tables that change at a rewrite point (R37). -/
inductive SteerTable where
  | partition (p : Nat)
  | scratchpad
  deriving DecidableEq, Repr, Inhabited

/-- Who watches a word at its home slice (R263, R346). -/
inductive Watcher where
  | warp (r : WRef)
  | queue (q : Nat)
  deriving DecidableEq, Repr, Inhabited

/-- One change that the host makes before GROUP_RESUME to a part of a halted group's image whose place the spec leaves open: the PC, the
scalar registers, the predicates or the mask of a warp block (R301, R368). The vector registers are read from the image. -/
inductive Edit where
  | pc (w : Nat) (val : Nat)
  | s (w : Nat) (reg : BitVec 7) (val : Word)
  | p (w : Nat) (pred : BitVec 4) (bits : LaneMask)
  | mask (w : Nat) (bits : LaneMask)
  deriving DecidableEq, Repr, Inhabited

/-- What the scrubber finds in a sector (R391). -/
inductive SectorCheck where
  | clean | corrected | uncorrectable | tagFailure
  deriving DecidableEq, Repr, Inhabited

/-- The operations of global and scratchpad atomics (R223, R224). -/
inductive AtomKind where
  | add | min | max | and | or | xor | exch | cas
  deriving DecidableEq, Repr, Inhabited

/-- What a link operation asks of its target (R395, R324). -/
inductive RemoteKind where
  | load (len : Nat)
  | store (data : List Byte)
  | atom (op : AtomKind) (signed : Bool) (esize : Nat) (v cmp : DWord)
  | mbArm (n : Word)
  | mbPost (n : Word)
  | mbBytes (n : Word)
  | mbLand (n : Word)
  deriving DecidableEq, Repr, Inhabited

/-- A link operation (R395): the device that it comes from and the one that it is for, its number in the source's stream, by
which the target knows one that it has performed already (R396), and the clock that it carries (R242): `order` 0 for none, 1 for
an exchange, 2 for an sc access. -/
structure RemoteOp where
  source : Nat
  target : Nat
  number : Nat
  key : Nat
  pa : Nat
  kind : RemoteKind
  order : Nat
  clock : DWord
  deriving DecidableEq, Repr, Inhabited

/-- The target's answer to a link operation (R395): performed, with the bytes that it read, or why it was not: nothing grants it, its
granule is refused or it has no route (R385, R396), or its sector cannot be read (R390). -/
inductive LinkAnswer where
  | performed (data : List Byte)
  | prot | addrFault | eccUncorr
  deriving DecidableEq, Repr, Inhabited

/-- What a flit carries (R393, R395): a link operation, or the target's answer to one, which acknowledges it to its source (R232,
R240). -/
inductive Flit where
  | op (x : RemoteOp)
  | done (source number : Nat) (answer : LinkAnswer)
  deriving DecidableEq, Repr, Inhabited

/-- The class of a floating-point result (R39). -/
inductive FClass where
  | zero | subnormal | normal | infinity | nan
  deriving DecidableEq, Repr, Inhabited

/-- What a shadow unit computes of a result (R39): its class, sign, exponent, and its top significand bits as an integer, the leading
bit the highest. -/
structure Shadow where
  cls : FClass
  neg : Bool
  exp : Int
  sig : Nat
  deriving DecidableEq, Repr, Inhabited

/-- A shadow unit's value beside a result (R39): element `elem` of word (`at_`, `lane`); for a lane `at_` is a vector register and
`lane` a logical lane, for a matrix column `at_` is a row and `lane` a logical column. -/
structure ShadowReading where
  at_ : Nat
  lane : Nat
  elem : Nat
  val : Shadow
  deriving DecidableEq, Repr, Inhabited

/-- A firmware image as bring-up finds it (R405): its 128-byte header, its body, and whether its signature verifies over the header
under the root key of the boot ROM. -/
structure BootImage where
  header : List Byte
  body : List Byte
  signed : Bool
  deriving DecidableEq, Repr, Inhabited

/-- What a step of bring-up finds (R404, R405): each core's image, whether HBM trains, the units that fail the sweep, and whether the
step fails in another way. -/
structure BootInput where
  images : List BootImage
  hbmTrains : Bool
  sweepFails : List UnitId
  stepFails : Bool
  deriving DecidableEq, Repr, Inhabited

/-- What the power core samples (R337, R409). -/
structure PowerInput where
  wattsAvg : Nat
  lowFor10ms : Bool
  temps : List Nat
  deriving DecidableEq, Repr, Inhabited

/-- A context command (18_context.md R365): the tenant to whose command window it is written, and its 64-byte block. The steps of commands
whose block holds an operand name the two apart. -/
structure Cmd where
  tenant : Nat
  block : List Byte
  deriving DecidableEq, Repr, Inhabited

/-- What a received flit holds beside its sequence number and CRC (R393): the acknowledgement of the other direction, and what it carries. -/
structure FlitBody where
  ack : Option (BitVec 16)
  cargo : Option Flit
  deriving DecidableEq, Repr, Inhabited

/-- A negative acknowledgement (R393): the sequence number to replay from, and the strand that the replay counts against. -/
structure Nak where
  seq : BitVec 16
  strand : Nat
  deriving DecidableEq, Repr, Inhabited

/-- The command windows (R365, R411, R414). -/
inductive CommandWindow where
  | context (tenant : Nat)
  | pf
  | diag
  deriving DecidableEq, Repr, Inhabited

/-- The pending groups of a split launch that reach the target of a MIGRATE (R371). -/
structure SplitLaunch where
  seq : Nat
  packet : List Byte
  desc : List Byte
  groups : List Nat
  deriving DecidableEq, Repr, Inhabited

/-- The instructions and steps of the opcode table, one constructor per row. -/
inductive Instr where
  /-- NOP Does nothing; the all-zero word. (R77) -/
  | nop
  /-- EXIT Stops issue for the warp, which enters draining. (R138) -/
  | exit
  /-- YIELD Makes the warp the most recently issued warp of its partition. (R137) -/
  | yield
  /-- SLEEP Puts the warp to sleep for min(n, 16,777,215) cycles. (R138) -/
  | sleep (n : BitVec 7)
  /-- TRAP Raises TRAP_INSN precisely, with argument n in the trap record. (R139) -/
  | trap (n : BitVec 7)
  /-- BRK Raises BREAK precisely, with argument n in the trap record. (R139) -/
  | brk (n : BitVec 7)
  /-- IPF Prefetches m instruction-cache lines at a line offset from the packet, without faulting. (R140) -/
  | ipf (m : BitVec 7) (i : BitVec 7)
  /-- IPF_INV Invalidates the context's lines in the core's instruction cache and discards its fills under way. (R141) -/
  | ipfInv
  /-- SADD Scalar 32-bit add of two registers. (R123) -/
  | sadd (d : BitVec 7) (a : BitVec 7) (b : BitVec 7)
  /-- SSUB Scalar 32-bit subtract of two registers. (R123) -/
  | ssub (d : BitVec 7) (a : BitVec 7) (b : BitVec 7)
  /-- SMUL Scalar low 32-bit product of two registers. (R123) -/
  | smul (d : BitVec 7) (a : BitVec 7) (b : BitVec 7)
  /-- SMULHI_S32 Scalar high word of the signed 64-bit product. (R123) -/
  | smulhiS32 (d : BitVec 7) (a : BitVec 7) (b : BitVec 7)
  /-- SMULHI_U32 Scalar high word of the unsigned 64-bit product. (R123) -/
  | smulhiU32 (d : BitVec 7) (a : BitVec 7) (b : BitVec 7)
  /-- SAND Scalar bitwise AND. (R123) -/
  | sand (d : BitVec 7) (a : BitVec 7) (b : BitVec 7)
  /-- SOR Scalar bitwise OR. (R123) -/
  | sor (d : BitVec 7) (a : BitVec 7) (b : BitVec 7)
  /-- SXOR Scalar bitwise XOR. (R123) -/
  | sxor (d : BitVec 7) (a : BitVec 7) (b : BitVec 7)
  /-- SANDN Scalar a AND NOT b. (R123) -/
  | sandn (d : BitVec 7) (a : BitVec 7) (b : BitVec 7)
  /-- SSHL Scalar left shift by an unsigned count, 0 for counts of 32 or more. (R123) -/
  | sshl (d : BitVec 7) (a : BitVec 7) (b : BitVec 7)
  /-- SSHR Scalar logical right shift. (R123) -/
  | sshr (d : BitVec 7) (a : BitVec 7) (b : BitVec 7)
  /-- SSRA Scalar arithmetic right shift. (R123) -/
  | ssra (d : BitVec 7) (a : BitVec 7) (b : BitVec 7)
  /-- SMIN_S32 Scalar signed minimum. (R123) -/
  | sminS32 (d : BitVec 7) (a : BitVec 7) (b : BitVec 7)
  /-- SMAX_S32 Scalar signed maximum. (R123) -/
  | smaxS32 (d : BitVec 7) (a : BitVec 7) (b : BitVec 7)
  /-- SMIN_U32 Scalar unsigned minimum. (R123) -/
  | sminU32 (d : BitVec 7) (a : BitVec 7) (b : BitVec 7)
  /-- SMAX_U32 Scalar unsigned maximum. (R123) -/
  | smaxU32 (d : BitVec 7) (a : BitVec 7) (b : BitVec 7)
  /-- SADD64 64-bit add of even–odd scalar pairs. (R124) -/
  | sadd64 (d : BitVec 7) (a : BitVec 7) (b : BitVec 7)
  /-- SSUB64 64-bit subtract of even–odd scalar pairs. (R124) -/
  | ssub64 (d : BitVec 7) (a : BitVec 7) (b : BitVec 7)
  /-- SADD_I Scalar add of a sign-extended immediate or literal. (R123) -/
  | saddI (d : BitVec 7) (a : BitVec 7) (i : BitVec 7)
  /-- SSUB_I Scalar subtract of an immediate. (R123) -/
  | ssubI (d : BitVec 7) (a : BitVec 7) (i : BitVec 7)
  /-- SMUL_I Scalar low product with an immediate. (R123) -/
  | smulI (d : BitVec 7) (a : BitVec 7) (i : BitVec 7)
  /-- SMULHI_S32_I Scalar signed high product with an immediate. (R123) -/
  | smulhiS32I (d : BitVec 7) (a : BitVec 7) (i : BitVec 7)
  /-- SMULHI_U32_I Scalar unsigned high product with an immediate. (R123) -/
  | smulhiU32I (d : BitVec 7) (a : BitVec 7) (i : BitVec 7)
  /-- SAND_I Scalar AND with an immediate. (R123) -/
  | sandI (d : BitVec 7) (a : BitVec 7) (i : BitVec 7)
  /-- SOR_I Scalar OR with an immediate. (R123) -/
  | sorI (d : BitVec 7) (a : BitVec 7) (i : BitVec 7)
  /-- SXOR_I Scalar XOR with an immediate. (R123) -/
  | sxorI (d : BitVec 7) (a : BitVec 7) (i : BitVec 7)
  /-- SANDN_I Scalar AND NOT an immediate. (R123) -/
  | sandnI (d : BitVec 7) (a : BitVec 7) (i : BitVec 7)
  /-- SSHL_I Scalar left shift by an immediate count. (R123) -/
  | sshlI (d : BitVec 7) (a : BitVec 7) (i : BitVec 7)
  /-- SSHR_I Scalar logical right shift by an immediate count. (R123) -/
  | sshrI (d : BitVec 7) (a : BitVec 7) (i : BitVec 7)
  /-- SSRA_I Scalar arithmetic right shift by an immediate count. (R123) -/
  | ssraI (d : BitVec 7) (a : BitVec 7) (i : BitVec 7)
  /-- SMIN_S32_I Scalar signed minimum with an immediate. (R123) -/
  | sminS32I (d : BitVec 7) (a : BitVec 7) (i : BitVec 7)
  /-- SMAX_S32_I Scalar signed maximum with an immediate. (R123) -/
  | smaxS32I (d : BitVec 7) (a : BitVec 7) (i : BitVec 7)
  /-- SMIN_U32_I Scalar unsigned minimum with an immediate. (R123) -/
  | sminU32I (d : BitVec 7) (a : BitVec 7) (i : BitVec 7)
  /-- SMAX_U32_I Scalar unsigned maximum with an immediate. (R123) -/
  | smaxU32I (d : BitVec 7) (a : BitVec 7) (i : BitVec 7)
  /-- SCMP Compares two scalar registers under the condition code into a condition bit. (R125) -/
  | scmp (c : BitVec 4) (d : BitVec 3) (a : BitVec 7) (b : BitVec 7)
  /-- SCMP_I Compares a scalar register with an immediate into a condition bit. (R125) -/
  | scmpI (c : BitVec 4) (d : BitVec 3) (a : BitVec 7) (i : BitVec 7)
  /-- CAND Condition bit AND. (R126) -/
  | cand (d : BitVec 3) (a : BitVec 3) (b : BitVec 3)
  /-- COR Condition bit OR. (R126) -/
  | cor (d : BitVec 3) (a : BitVec 3) (b : BitVec 3)
  /-- CXOR Condition bit XOR. (R126) -/
  | cxor (d : BitVec 3) (a : BitVec 3) (b : BitVec 3)
  /-- CANDN Condition bit AND NOT. (R126) -/
  | candn (d : BitVec 3) (a : BitVec 3) (b : BitVec 3)
  /-- SMOV Copies a scalar register. (R127) -/
  | smov (d : BitVec 7) (a : BitVec 7)
  /-- SLI Loads a sign-extended immediate or literal into a scalar register. (R127) -/
  | sli (d : BitVec 7) (i : BitVec 7)
  /-- SBFX_U32 Extracts a zero-extended bit field described by sb. (R128) -/
  | sbfxU32 (d : BitVec 7) (a : BitVec 7) (b : BitVec 7)
  /-- SBFX_S32 Extracts a sign-extended bit field described by sb. (R128) -/
  | sbfxS32 (d : BitVec 7) (a : BitVec 7) (b : BitVec 7)
  /-- SBFI Inserts a bit field of sa into sd. (R128) -/
  | sbfi (d : BitVec 7) (a : BitVec 7) (b : BitVec 7)
  /-- SPOPC Counts set bits of a scalar. (R127) -/
  | spopc (d : BitVec 7) (a : BitVec 7)
  /-- SCLZ Counts leading zeros of a scalar. (R127) -/
  | sclz (d : BitVec 7) (a : BitVec 7)
  /-- SCTZ Counts trailing zeros of a scalar. (R127) -/
  | sctz (d : BitVec 7) (a : BitVec 7)
  /-- SBREV Reverses the bits of a scalar. (R127) -/
  | sbrev (d : BitVec 7) (a : BitVec 7)
  /-- BC Branches by a packet offset when condition bit ci is set. (R129) -/
  | bc (c : BitVec 3) (o : BitVec 20)
  /-- BNC Branches when condition bit ci is clear. (R129) -/
  | bnc (c : BitVec 3) (o : BitVec 20)
  /-- BANY Branches when any activity-mask bit is set. (R129) -/
  | bany (o : BitVec 20)
  /-- BALL Branches when all 96 mask bits are set. (R129) -/
  | ball (o : BitVec 20)
  /-- BNONE Branches when no mask bit is set. (R129) -/
  | bnone (o : BitVec 20)
  /-- BR Unconditional branch by a packet offset. (R130) -/
  | br (o : BitVec 20)
  /-- CALL Branches and writes the next packet's address into s120 and s121. (R130) -/
  | call (o : BitVec 20)
  /-- JMP Jumps to the address in an even scalar pair, faulting MISALIGN if unaligned. (R131) -/
  | jmp (a : BitVec 7)
  /-- RET Jumps to the address held in s120 and s121. (R131) -/
  | ret
  /-- RSR Reads a state register by code into one or two scalar registers. (R133) -/
  | rsr (d : BitVec 7) (r : BitVec 7)
  /-- WSR Writes the draw counter from a scalar pair. (R133) -/
  | wsr (a : BitVec 7) (r : BitVec 7)
  /-- MPUSH Saves the mask into a scalar triple and ANDs the mask with a predicate. (R134) -/
  | mpush (d : BitVec 7) (p : BitVec 4)
  /-- MFLIP Sets the mask to the saved triple AND NOT a predicate. (R134) -/
  | mflip (d : BitVec 7) (p : BitVec 4)
  /-- MPOP Restores the mask from a scalar triple. (R134) -/
  | mpop (d : BitVec 7)
  /-- WAITC Stalls until a path counter is at or below a threshold read from a scalar register. (R136) -/
  | waitc (p : BitVec 4) (b : BitVec 7)
  /-- WAITC_I Stalls until a path counter is at or below an immediate threshold. (R136) -/
  | waitcI (p : BitVec 4) (i : BitVec 7)
  /-- MVPS Copies a predicate of all lanes into a scalar triple or the mask. (R135) -/
  | mvps (d : BitVec 7) (p : BitVec 4)
  /-- MVSP Copies a scalar triple into a predicate of all lanes. (R135) -/
  | mvsp (p : BitVec 4) (a : BitVec 7)
  /-- VADD_S32 Lane 32-bit add of two vector registers. (R147) -/
  | vaddS32 (d : BitVec 7) (a : BitVec 7) (b : BitVec 7)
  /-- VSUB_S32 Lane 32-bit subtract. (R147) -/
  | vsubS32 (d : BitVec 7) (a : BitVec 7) (b : BitVec 7)
  /-- VADD_SAT_S32 Lane signed saturating add. (R147) -/
  | vaddSatS32 (d : BitVec 7) (a : BitVec 7) (b : BitVec 7)
  /-- VADD_SAT_U32 Lane unsigned saturating add. (R147) -/
  | vaddSatU32 (d : BitVec 7) (a : BitVec 7) (b : BitVec 7)
  /-- VSUB_SAT_S32 Lane signed saturating subtract. (R147) -/
  | vsubSatS32 (d : BitVec 7) (a : BitVec 7) (b : BitVec 7)
  /-- VSUB_SAT_U32 Lane unsigned saturating subtract. (R147) -/
  | vsubSatU32 (d : BitVec 7) (a : BitVec 7) (b : BitVec 7)
  /-- VMIN_S32 Lane signed minimum. (R147) -/
  | vminS32 (d : BitVec 7) (a : BitVec 7) (b : BitVec 7)
  /-- VMAX_S32 Lane signed maximum. (R147) -/
  | vmaxS32 (d : BitVec 7) (a : BitVec 7) (b : BitVec 7)
  /-- VMIN_U32 Lane unsigned minimum. (R147) -/
  | vminU32 (d : BitVec 7) (a : BitVec 7) (b : BitVec 7)
  /-- VMAX_U32 Lane unsigned maximum. (R147) -/
  | vmaxU32 (d : BitVec 7) (a : BitVec 7) (b : BitVec 7)
  /-- VSHL Lane left shift. (R147) -/
  | vshl (d : BitVec 7) (a : BitVec 7) (b : BitVec 7)
  /-- VSHR Lane logical right shift. (R147) -/
  | vshr (d : BitVec 7) (a : BitVec 7) (b : BitVec 7)
  /-- VSRA Lane arithmetic right shift. (R147) -/
  | vsra (d : BitVec 7) (a : BitVec 7) (b : BitVec 7)
  /-- VABSD_S32 Lane absolute signed difference as u32. (R147) -/
  | vabsdS32 (d : BitVec 7) (a : BitVec 7) (b : BitVec 7)
  /-- VADD64 Lane 64-bit add of register pairs. (R148) -/
  | vadd64 (d : BitVec 7) (a : BitVec 7) (b : BitVec 7)
  /-- VSUB64 Lane 64-bit subtract of register pairs. (R148) -/
  | vsub64 (d : BitVec 7) (a : BitVec 7) (b : BitVec 7)
  /-- VADD_S32_S Lane add of a broadcast scalar. (R143) -/
  | vaddS32S (d : BitVec 7) (a : BitVec 7) (s : BitVec 7)
  /-- VSUB_S32_S Lane subtract of a broadcast scalar. (R143) -/
  | vsubS32S (d : BitVec 7) (a : BitVec 7) (s : BitVec 7)
  /-- VADD_SAT_S32_S Lane signed saturating add of a scalar. (R143) -/
  | vaddSatS32S (d : BitVec 7) (a : BitVec 7) (s : BitVec 7)
  /-- VADD_SAT_U32_S Lane unsigned saturating add of a scalar. (R143) -/
  | vaddSatU32S (d : BitVec 7) (a : BitVec 7) (s : BitVec 7)
  /-- VSUB_SAT_S32_S Lane signed saturating subtract of a scalar. (R143) -/
  | vsubSatS32S (d : BitVec 7) (a : BitVec 7) (s : BitVec 7)
  /-- VSUB_SAT_U32_S Lane unsigned saturating subtract of a scalar. (R143) -/
  | vsubSatU32S (d : BitVec 7) (a : BitVec 7) (s : BitVec 7)
  /-- VMIN_S32_S Lane signed minimum with a scalar. (R143) -/
  | vminS32S (d : BitVec 7) (a : BitVec 7) (s : BitVec 7)
  /-- VMAX_S32_S Lane signed maximum with a scalar. (R143) -/
  | vmaxS32S (d : BitVec 7) (a : BitVec 7) (s : BitVec 7)
  /-- VMIN_U32_S Lane unsigned minimum with a scalar. (R143) -/
  | vminU32S (d : BitVec 7) (a : BitVec 7) (s : BitVec 7)
  /-- VMAX_U32_S Lane unsigned maximum with a scalar. (R143) -/
  | vmaxU32S (d : BitVec 7) (a : BitVec 7) (s : BitVec 7)
  /-- VSHL_S Lane left shift by a scalar count. (R143) -/
  | vshlS (d : BitVec 7) (a : BitVec 7) (s : BitVec 7)
  /-- VSHR_S Lane logical right shift by a scalar count. (R143) -/
  | vshrS (d : BitVec 7) (a : BitVec 7) (s : BitVec 7)
  /-- VSRA_S Lane arithmetic right shift by a scalar count. (R143) -/
  | vsraS (d : BitVec 7) (a : BitVec 7) (s : BitVec 7)
  /-- VABSD_S32_S Lane absolute difference with a scalar. (R143) -/
  | vabsdS32S (d : BitVec 7) (a : BitVec 7) (s : BitVec 7)
  /-- VADD_S32_I Lane add of an immediate or literal. (R143) -/
  | vaddS32I (d : BitVec 7) (a : BitVec 7) (i : BitVec 7)
  /-- VSUB_S32_I Lane subtract of an immediate. (R143) -/
  | vsubS32I (d : BitVec 7) (a : BitVec 7) (i : BitVec 7)
  /-- VADD_SAT_S32_I Lane signed saturating add of an immediate. (R143) -/
  | vaddSatS32I (d : BitVec 7) (a : BitVec 7) (i : BitVec 7)
  /-- VADD_SAT_U32_I Lane unsigned saturating add of an immediate. (R143) -/
  | vaddSatU32I (d : BitVec 7) (a : BitVec 7) (i : BitVec 7)
  /-- VSUB_SAT_S32_I Lane signed saturating subtract of an immediate. (R143) -/
  | vsubSatS32I (d : BitVec 7) (a : BitVec 7) (i : BitVec 7)
  /-- VSUB_SAT_U32_I Lane unsigned saturating subtract of an immediate. (R143) -/
  | vsubSatU32I (d : BitVec 7) (a : BitVec 7) (i : BitVec 7)
  /-- VMIN_S32_I Lane signed minimum with an immediate. (R143) -/
  | vminS32I (d : BitVec 7) (a : BitVec 7) (i : BitVec 7)
  /-- VMAX_S32_I Lane signed maximum with an immediate. (R143) -/
  | vmaxS32I (d : BitVec 7) (a : BitVec 7) (i : BitVec 7)
  /-- VMIN_U32_I Lane unsigned minimum with an immediate. (R143) -/
  | vminU32I (d : BitVec 7) (a : BitVec 7) (i : BitVec 7)
  /-- VMAX_U32_I Lane unsigned maximum with an immediate. (R143) -/
  | vmaxU32I (d : BitVec 7) (a : BitVec 7) (i : BitVec 7)
  /-- VSHL_I Lane left shift by an immediate count. (R143) -/
  | vshlI (d : BitVec 7) (a : BitVec 7) (i : BitVec 7)
  /-- VSHR_I Lane logical right shift by an immediate count. (R143) -/
  | vshrI (d : BitVec 7) (a : BitVec 7) (i : BitVec 7)
  /-- VSRA_I Lane arithmetic right shift by an immediate count. (R143) -/
  | vsraI (d : BitVec 7) (a : BitVec 7) (i : BitVec 7)
  /-- VABSD_S32_I Lane absolute difference with an immediate. (R143) -/
  | vabsdS32I (d : BitVec 7) (a : BitVec 7) (i : BitVec 7)
  /-- VMUL_LO Lane low 32-bit product. (R149) -/
  | vmulLo (d : BitVec 7) (a : BitVec 7) (b : BitVec 7)
  /-- VMULHI_S32 Lane signed high product word. (R149) -/
  | vmulhiS32 (d : BitVec 7) (a : BitVec 7) (b : BitVec 7)
  /-- VMULHI_U32 Lane unsigned high product word. (R149) -/
  | vmulhiU32 (d : BitVec 7) (a : BitVec 7) (b : BitVec 7)
  /-- VMAD_LO Lane low multiply-add into vd. (R149) -/
  | vmadLo (d : BitVec 7) (a : BitVec 7) (b : BitVec 7)
  /-- VMAD_SAT_S32 Lane signed saturating multiply-add into vd. (R149) -/
  | vmadSatS32 (d : BitVec 7) (a : BitVec 7) (b : BitVec 7)
  /-- VMUL_WIDE_S32 Lane signed 64-bit product into a pair. (R149) -/
  | vmulWideS32 (d : BitVec 7) (a : BitVec 7) (b : BitVec 7)
  /-- VMUL_WIDE_U32 Lane unsigned 64-bit product into a pair. (R149) -/
  | vmulWideU32 (d : BitVec 7) (a : BitVec 7) (b : BitVec 7)
  /-- VAND Lane bitwise AND. (R150) -/
  | vand (d : BitVec 7) (a : BitVec 7) (b : BitVec 7)
  /-- VOR Lane bitwise OR. (R150) -/
  | vor (d : BitVec 7) (a : BitVec 7) (b : BitVec 7)
  /-- VXOR Lane bitwise XOR. (R150) -/
  | vxor (d : BitVec 7) (a : BitVec 7) (b : BitVec 7)
  /-- VANDN Lane a AND NOT b. (R150) -/
  | vandn (d : BitVec 7) (a : BitVec 7) (b : BitVec 7)
  /-- VNOT Lane bitwise NOT. (R150) -/
  | vnot (d : BitVec 7) (a : BitVec 7)
  /-- VPOPC Lane population count. (R150) -/
  | vpopc (d : BitVec 7) (a : BitVec 7)
  /-- VCLZ Lane leading zero count. (R150) -/
  | vclz (d : BitVec 7) (a : BitVec 7)
  /-- VBREV Lane bit reversal. (R150) -/
  | vbrev (d : BitVec 7) (a : BitVec 7)
  /-- VBFX_U32 Lane zero-extended bit-field extract. (R151) -/
  | vbfxU32 (d : BitVec 7) (a : BitVec 7) (b : BitVec 7)
  /-- VBFX_S32 Lane sign-extended bit-field extract. (R151) -/
  | vbfxS32 (d : BitVec 7) (a : BitVec 7) (b : BitVec 7)
  /-- VBFI Lane bit-field insert into vd. (R151) -/
  | vbfi (d : BitVec 7) (a : BitVec 7) (b : BitVec 7)
  /-- VFSHL Lane funnel shift left of vd:va. (R152) -/
  | vfshl (d : BitVec 7) (a : BitVec 7) (b : BitVec 7)
  /-- VFSHR Lane funnel shift right of va:vd. (R152) -/
  | vfshr (d : BitVec 7) (a : BitVec 7) (b : BitVec 7)
  /-- VCMP Lane integer compare under condition and type into a predicate. (R153) -/
  | vcmp (c : BitVec 5) (p : BitVec 4) (t : BitVec 3) (a : BitVec 7) (b : BitVec 7)
  /-- PAND Predicate AND in active lanes. (R154) -/
  | pand (d : BitVec 4) (a : BitVec 4) (b : BitVec 4)
  /-- POR Predicate OR. (R154) -/
  | por (d : BitVec 4) (a : BitVec 4) (b : BitVec 4)
  /-- PXOR Predicate XOR. (R154) -/
  | pxor (d : BitVec 4) (a : BitVec 4) (b : BitVec 4)
  /-- PANDN Predicate AND NOT. (R154) -/
  | pandn (d : BitVec 4) (a : BitVec 4) (b : BitVec 4)
  /-- PNOT Predicate NOT. (R154) -/
  | pnot (d : BitVec 4) (a : BitVec 4)
  /-- PMOV Predicate copy. (R154) -/
  | pmov (d : BitVec 4) (a : BitVec 4)
  /-- PSET Sets a predicate in active lanes. (R154) -/
  | pset (d : BitVec 4)
  /-- PCLR Clears a predicate in active lanes. (R154) -/
  | pclr (d : BitVec 4)
  /-- VSEL Selects va or vb per lane by predicate q, where the minor field holds 8 + q. (R155) -/
  | vsel (q : BitVec 5) (d : BitVec 7) (a : BitVec 7) (b : BitVec 7)
  /-- VSEXT8 Sign-extends byte element e. (R156) -/
  | vsext8 (d : BitVec 7) (a : BitVec 7) (e : BitVec 7)
  /-- VZEXT8 Zero-extends byte element e. (R156) -/
  | vzext8 (d : BitVec 7) (a : BitVec 7) (e : BitVec 7)
  /-- VSEXT16 Sign-extends halfword element e. (R156) -/
  | vsext16 (d : BitVec 7) (a : BitVec 7) (e : BitVec 7)
  /-- VZEXT16 Zero-extends halfword element e. (R156) -/
  | vzext16 (d : BitVec 7) (a : BitVec 7) (e : BitVec 7)
  /-- VSAT_S8_S32 Clamps s32 to s8 range. (R157) -/
  | vsatS8S32 (d : BitVec 7) (a : BitVec 7)
  /-- VSAT_U8_S32 Clamps s32 to u8 range. (R157) -/
  | vsatU8S32 (d : BitVec 7) (a : BitVec 7)
  /-- VSAT_S16_S32 Clamps s32 to s16 range. (R157) -/
  | vsatS16S32 (d : BitVec 7) (a : BitVec 7)
  /-- VSAT_U16_S32 Clamps s32 to u16 range. (R157) -/
  | vsatU16S32 (d : BitVec 7) (a : BitVec 7)
  /-- VSAT_S32_S64 Clamps an s64 pair to s32 range. (R157) -/
  | vsatS32S64 (d : BitVec 7) (a : BitVec 7)
  /-- FADD FP32 add rounded under rm. (R161) -/
  | fadd (r : BitVec 2) (d : BitVec 7) (a : BitVec 7) (b : BitVec 7)
  /-- FSUB FP32 subtract rounded under rm. (R161) -/
  | fsub (r : BitVec 2) (d : BitVec 7) (a : BitVec 7) (b : BitVec 7)
  /-- FMUL FP32 multiply rounded under rm. (R161) -/
  | fmul (r : BitVec 2) (d : BitVec 7) (a : BitVec 7) (b : BitVec 7)
  /-- FMIN FP32 minimum by the min rule. (R162) -/
  | fmin (d : BitVec 7) (a : BitVec 7) (b : BitVec 7)
  /-- FMAX FP32 maximum by the max rule. (R162) -/
  | fmax (d : BitVec 7) (a : BitVec 7) (b : BitVec 7)
  /-- FCOPYSIGN Gives a the sign of b. (R161) -/
  | fcopysign (d : BitVec 7) (a : BitVec 7) (b : BitVec 7)
  /-- FABS Clears the sign of a non-NaN value. (R161) -/
  | fabs (d : BitVec 7) (a : BitVec 7)
  /-- FNEG Inverts the sign of a non-NaN value. (R161) -/
  | fneg (d : BitVec 7) (a : BitVec 7)
  /-- FADD_S FP32 add of a broadcast scalar. (R163) -/
  | faddS (r : BitVec 2) (d : BitVec 7) (a : BitVec 7) (s : BitVec 7)
  /-- FADD_I FP32 add of an immediate or literal. (R163) -/
  | faddI (r : BitVec 2) (d : BitVec 7) (a : BitVec 7) (i : BitVec 7)
  /-- FMUL_S FP32 multiply by a broadcast scalar. (R163) -/
  | fmulS (r : BitVec 2) (d : BitVec 7) (a : BitVec 7) (s : BitVec 7)
  /-- FMUL_I FP32 multiply by an immediate or literal. (R163) -/
  | fmulI (r : BitVec 2) (d : BitVec 7) (a : BitVec 7) (i : BitVec 7)
  /-- FMIN_S FP32 minimum with a scalar. (R163) -/
  | fminS (d : BitVec 7) (a : BitVec 7) (s : BitVec 7)
  /-- FMIN_I FP32 minimum with an immediate. (R163) -/
  | fminI (d : BitVec 7) (a : BitVec 7) (i : BitVec 7)
  /-- FMAX_S FP32 maximum with a scalar. (R163) -/
  | fmaxS (d : BitVec 7) (a : BitVec 7) (s : BitVec 7)
  /-- FMAX_I FP32 maximum with an immediate. (R163) -/
  | fmaxI (d : BitVec 7) (a : BitVec 7) (i : BitVec 7)
  /-- FFMA Fused a·b + d rounded once. (R164) -/
  | ffma (r : BitVec 2) (d : BitVec 7) (a : BitVec 7) (b : BitVec 7)
  /-- FFMS Fused a·b − d. (R164) -/
  | ffms (r : BitVec 2) (d : BitVec 7) (a : BitVec 7) (b : BitVec 7)
  /-- FFNMA Fused −a·b + d. (R164) -/
  | ffnma (r : BitVec 2) (d : BitVec 7) (a : BitVec 7) (b : BitVec 7)
  /-- FFNMS Fused −a·b − d. (R164) -/
  | ffnms (r : BitVec 2) (d : BitVec 7) (a : BitVec 7) (b : BitVec 7)
  /-- FFMA_S Fused a·s + d with a scalar multiplier. (R164) -/
  | ffmaS (r : BitVec 2) (d : BitVec 7) (a : BitVec 7) (s : BitVec 7)
  /-- FFMS_S Fused a·s − d with a scalar. (R164) -/
  | ffmsS (r : BitVec 2) (d : BitVec 7) (a : BitVec 7) (s : BitVec 7)
  /-- FFNMA_S Fused −a·s + d with a scalar. (R164) -/
  | ffnmaS (r : BitVec 2) (d : BitVec 7) (a : BitVec 7) (s : BitVec 7)
  /-- FFNMS_S Fused −a·s − d with a scalar. (R164) -/
  | ffnmsS (r : BitVec 2) (d : BitVec 7) (a : BitVec 7) (s : BitVec 7)
  /-- HADD_F16X2 Packed FP16 add. (R165) -/
  | haddF16x2 (r : BitVec 2) (d : BitVec 7) (a : BitVec 7) (b : BitVec 7)
  /-- HMUL_F16X2 Packed FP16 multiply. (R165) -/
  | hmulF16x2 (r : BitVec 2) (d : BitVec 7) (a : BitVec 7) (b : BitVec 7)
  /-- HFMA_F16X2 Packed FP16 fused multiply-add into vd. (R165) -/
  | hfmaF16x2 (r : BitVec 2) (d : BitVec 7) (a : BitVec 7) (b : BitVec 7)
  /-- HMIN_F16X2 Packed FP16 minimum. (R165) -/
  | hminF16x2 (d : BitVec 7) (a : BitVec 7) (b : BitVec 7)
  /-- HADD_BF16X2 Packed BF16 add. (R165) -/
  | haddBf16x2 (r : BitVec 2) (d : BitVec 7) (a : BitVec 7) (b : BitVec 7)
  /-- HMUL_BF16X2 Packed BF16 multiply. (R165) -/
  | hmulBf16x2 (r : BitVec 2) (d : BitVec 7) (a : BitVec 7) (b : BitVec 7)
  /-- HFMA_BF16X2 Packed BF16 fused multiply-add into vd. (R165) -/
  | hfmaBf16x2 (r : BitVec 2) (d : BitVec 7) (a : BitVec 7) (b : BitVec 7)
  /-- HMIN_BF16X2 Packed BF16 minimum. (R165) -/
  | hminBf16x2 (d : BitVec 7) (a : BitVec 7) (b : BitVec 7)
  /-- VCMP_F32 FP32 compare under a condition into a predicate. (R166) -/
  | vcmpF32 (c : BitVec 5) (p : BitVec 4) (a : BitVec 7) (b : BitVec 7)
  /-- VCVT_WIDEN Converts element e of va from the other format into the wide format (dir 0). (R167) -/
  | vcvtWiden (w : BitVec 2) (o : BitVec 4) (r : BitVec 2) (e : BitVec 3) (d : BitVec 7) (a : BitVec 7)
  /-- VCVT_NARROW Converts the wide value of va into element e of vd (dir 1). (R167) -/
  | vcvtNarrow (w : BitVec 2) (o : BitVec 4) (r : BitVec 2) (e : BitVec 3) (d : BitVec 7) (a : BitVec 7)
  /-- VRCP Correctly rounded reciprocal. (R169) -/
  | vrcp (d : BitVec 7) (a : BitVec 7)
  /-- VRSQ Correctly rounded reciprocal square root. (R169) -/
  | vrsq (d : BitVec 7) (a : BitVec 7)
  /-- VSQRT Correctly rounded square root. (R169) -/
  | vsqrt (d : BitVec 7) (a : BitVec 7)
  /-- VEXP2 Correctly rounded 2^x. (R169) -/
  | vexp2 (d : BitVec 7) (a : BitVec 7)
  /-- VLOG2 Correctly rounded log2 x. (R169) -/
  | vlog2 (d : BitVec 7) (a : BitVec 7)
  /-- VSINPI Correctly rounded sin(πx). (R169) -/
  | vsinpi (d : BitVec 7) (a : BitVec 7)
  /-- VCOSPI Correctly rounded cos(πx). (R169) -/
  | vcospi (d : BitVec 7) (a : BitVec 7)
  /-- VTANH Correctly rounded tanh x. (R169) -/
  | vtanh (d : BitVec 7) (a : BitVec 7)
  /-- FDOT Evaluates one 16-pair narrow-float chunk per lane into vd. (R171) -/
  | fdot (a : BitVec 5) (b : BitVec 5) (d : BitVec 7) (s : BitVec 7)
  /-- IDOT Integer dot product added to vd, low 32 bits. (R172) -/
  | idot (a : BitVec 5) (b : BitVec 5) (d : BitVec 7) (s : BitVec 7)
  /-- IDOT_SAT Integer dot product added to vd, saturated. (R172) -/
  | idotSat (a : BitVec 5) (b : BitVec 5) (d : BitVec 7) (s : BitVec 7)
  /-- VSHFL_IDX Reads va from the lane indexed by vb. (R176) -/
  | vshflIdx (d : BitVec 7) (a : BitVec 7) (b : BitVec 7)
  /-- VSHFL_UP Reads va from lane l − d. (R176) -/
  | vshflUp (d : BitVec 7) (a : BitVec 7) (n : BitVec 7)
  /-- VSHFL_DOWN Reads va from lane l + d. (R176) -/
  | vshflDown (d : BitVec 7) (a : BitVec 7) (n : BitVec 7)
  /-- VSHFL_XOR Reads va from lane l XOR d. (R176) -/
  | vshflXor (d : BitVec 7) (a : BitVec 7) (n : BitVec 7)
  /-- VBCAST Broadcasts va of lane j. (R176) -/
  | vbcast (d : BitVec 7) (a : BitVec 7) (j : BitVec 7)
  /-- VSOME Sets a condition bit when some active lane has the predicate set. (R177) -/
  | vsome (d : BitVec 3) (a : BitVec 4)
  /-- VEVERY Sets a condition bit when every active lane has the predicate set. (R177) -/
  | vevery (d : BitVec 3) (a : BitVec 4)
  /-- VBITS Gathers active predicate bits into a scalar triple. (R177) -/
  | vbits (d : BitVec 7) (a : BitVec 4)
  /-- VRED_ADD_S32 Integer sum over active lanes by the fixed tree. (R178) -/
  | vredAddS32 (d : BitVec 7) (a : BitVec 7)
  /-- VRED_MIN_S32 Signed minimum over active lanes. (R178) -/
  | vredMinS32 (d : BitVec 7) (a : BitVec 7)
  /-- VRED_MAX_S32 Signed maximum over active lanes. (R178) -/
  | vredMaxS32 (d : BitVec 7) (a : BitVec 7)
  /-- VRED_ADD_F32 FP32 sum over active lanes by the fixed tree. (R178) -/
  | vredAddF32 (d : BitVec 7) (a : BitVec 7)
  /-- VRED_MIN_F32 FP32 minimum over active lanes. (R178) -/
  | vredMinF32 (d : BitVec 7) (a : BitVec 7)
  /-- VRED_MAX_F32 FP32 maximum over active lanes. (R178) -/
  | vredMaxF32 (d : BitVec 7) (a : BitVec 7)
  /-- VSCAN_ADD_S32 Inclusive integer prefix sum over active lanes. (R179) -/
  | vscanAddS32 (d : BitVec 7) (a : BitVec 7)
  /-- VSCANX_ADD_S32 Exclusive integer prefix sum over active lanes. (R179) -/
  | vscanxAddS32 (d : BitVec 7) (a : BitVec 7)
  /-- VSCAN_ADD_F32 Inclusive sequential FP32 prefix sum. (R179) -/
  | vscanAddF32 (d : BitVec 7) (a : BitVec 7)
  /-- VRED_AND Bitwise AND over active lanes. (R178) -/
  | vredAnd (d : BitVec 7) (a : BitVec 7)
  /-- VRED_OR Bitwise OR over active lanes. (R178) -/
  | vredOr (d : BitVec 7) (a : BitVec 7)
  /-- VRED_XOR Bitwise XOR over active lanes. (R178) -/
  | vredXor (d : BitVec 7) (a : BitVec 7)
  /-- VMATCH Counts active lanes with an equal value. (R180) -/
  | vmatch (d : BitVec 7) (a : BitVec 7)
  /-- VRANK Counts lower active lanes with an equal value. (R180) -/
  | vrank (d : BitVec 7) (a : BitVec 7)
  /-- VLEAD Marks the lowest active lane of each equal-value set. (R180) -/
  | vlead (d : BitVec 4) (a : BitVec 7)
  /-- VISECT Intersects the multisets of va and vb over active lanes. (R181) -/
  | visect (d : BitVec 7) (a : BitVec 7) (b : BitVec 7)
  /-- VTOPK Delivers the index of the lane of rank l to lane l, for the top k keys. (R182) -/
  | vtopk (d : BitVec 7) (a : BitVec 7) (s : BitVec 7)
  /-- VARGMAX_F32 Index of the active lane with the largest FP32 value. (R183) -/
  | vargmaxF32 (d : BitVec 7) (a : BitVec 7)
  /-- VARGMAX_S32 Index of the active lane with the largest signed value. (R183) -/
  | vargmaxS32 (d : BitVec 7) (a : BitVec 7)
  /-- VLID Writes each active lane's logical index. (R184) -/
  | vlid (d : BitVec 7)
  /-- VRND Fills active lanes from the key, draw counter and lane index, and advances the draw counter. (R185) -/
  | vrnd (d : BitVec 7) (a : BitVec 7)
  /-- CBIND Binds chains of n limbs and clears the carry words. (R187) -/
  | cbind (n : BitVec 7)
  /-- CUNBIND Unbinds chains and clears the carry words. (R188) -/
  | cunbind
  /-- CGET Copies each active chain's carry word into every lane of the chain. (R199) -/
  | cget (d : BitVec 7)
  /-- CGET_P Sets a predicate per chain from carry ≠ 0. (R199) -/
  | cgetP (p : BitVec 4)
  /-- CSET Sets each active chain's carry word from limb 0's lane. (R199) -/
  | cset (a : BitVec 7)
  /-- CADD Chain add with carry out. (R195) -/
  | cadd (d : BitVec 7) (a : BitVec 7) (b : BitVec 7)
  /-- CADC Chain add with carry in and out. (R195) -/
  | cadc (d : BitVec 7) (a : BitVec 7) (b : BitVec 7)
  /-- CSUB Chain subtract with borrow out. (R195) -/
  | csub (d : BitVec 7) (a : BitVec 7) (b : BitVec 7)
  /-- CSBB Chain subtract with borrow in and out. (R195) -/
  | csbb (d : BitVec 7) (a : BitVec 7) (b : BitVec 7)
  /-- CADD_SAT Chain saturating add. (R195) -/
  | caddSat (d : BitVec 7) (a : BitVec 7) (b : BitVec 7)
  /-- CADC_SAT Chain saturating add with carry in. (R195) -/
  | cadcSat (d : BitVec 7) (a : BitVec 7) (b : BitVec 7)
  /-- CSUB_SAT Chain saturating subtract. (R195) -/
  | csubSat (d : BitVec 7) (a : BitVec 7) (b : BitVec 7)
  /-- CSBB_SAT Chain saturating subtract with borrow in. (R195) -/
  | csbbSat (d : BitVec 7) (a : BitVec 7) (b : BitVec 7)
  /-- CCMP Unsigned chain compare into a per-chain predicate; the minor field holds 8 + condition. (R196) -/
  | ccmp (c : BitVec 5) (p : BitVec 4) (a : BitVec 7) (b : BitVec 7)
  /-- CSHL Chain left bit shift through the carry word. (R197) -/
  | cshl (d : BitVec 7) (a : BitVec 7) (s : BitVec 7)
  /-- CSHR Chain right bit shift through the carry word. (R197) -/
  | cshr (d : BitVec 7) (a : BitVec 7) (s : BitVec 7)
  /-- CSHLW Chain left limb shift through the carry word. (R197) -/
  | cshlw (d : BitVec 7) (a : BitVec 7) (s : BitVec 7)
  /-- CSHRW Chain right limb shift through the carry word. (R197) -/
  | cshrw (d : BitVec 7) (a : BitVec 7) (s : BitVec 7)
  /-- CMAC Chain multiply-accumulate of A by limb j of B, high word to the carry. (R198) -/
  | cmac (d : BitVec 7) (a : BitVec 7) (s : BitVec 7)
  /-- CLD Loads each active chain's limbs from a record on path LD. (R200) -/
  | cld (o : BitVec 2) (s : BitVec 2) (c : BitVec 2) (k : BitVec 5) (a : BitVec 7) (d : BitVec 7)
  /-- CST Stores each active chain's limbs through a record on path ST. (R200) -/
  | cst (o : BitVec 2) (s : BitVec 2) (c : BitVec 2) (k : BitVec 5) (a : BitVec 7) (d : BitVec 7)
  /-- LD Global load through a buffer record on path LD. (R218) -/
  | ld (g : BitVec 1) (o : BitVec 2) (s : BitVec 2) (c : BitVec 2) (k : BitVec 5) (a : BitVec 7) (d : BitVec 7)
  /-- ST Global store through a buffer record into the store queue on path ST. (R219) -/
  | st (g : BitVec 1) (o : BitVec 2) (s : BitVec 2) (c : BitVec 2) (k : BitVec 5) (a : BitVec 7) (d : BitVec 7)
  /-- ATOM_ADD Returning atomic add at the home slice. (R223) -/
  | atomAdd (o : BitVec 3) (k : BitVec 5) (a : BitVec 7) (d : BitVec 7)
  /-- ATOM_MIN Returning atomic minimum. (R223) -/
  | atomMin (o : BitVec 3) (k : BitVec 5) (a : BitVec 7) (d : BitVec 7)
  /-- ATOM_MAX Returning atomic maximum. (R223) -/
  | atomMax (o : BitVec 3) (k : BitVec 5) (a : BitVec 7) (d : BitVec 7)
  /-- ATOM_AND Returning atomic AND. (R223) -/
  | atomAnd (o : BitVec 3) (k : BitVec 5) (a : BitVec 7) (d : BitVec 7)
  /-- ATOM_OR Returning atomic OR. (R223) -/
  | atomOr (o : BitVec 3) (k : BitVec 5) (a : BitVec 7) (d : BitVec 7)
  /-- ATOM_XOR Returning atomic XOR. (R223) -/
  | atomXor (o : BitVec 3) (k : BitVec 5) (a : BitVec 7) (d : BitVec 7)
  /-- ATOM_EXCH Returning atomic exchange. (R223) -/
  | atomExch (o : BitVec 3) (k : BitVec 5) (a : BitVec 7) (d : BitVec 7)
  /-- ATOM_CAS Returning atomic compare-and-swap. (R223) -/
  | atomCas (o : BitVec 3) (k : BitVec 5) (a : BitVec 7) (d : BitVec 7)
  /-- RED_ADD Non-returning atomic add. (R223) -/
  | redAdd (o : BitVec 3) (k : BitVec 5) (a : BitVec 7) (d : BitVec 7)
  /-- RED_MIN Non-returning atomic minimum. (R223) -/
  | redMin (o : BitVec 3) (k : BitVec 5) (a : BitVec 7) (d : BitVec 7)
  /-- RED_MAX Non-returning atomic maximum. (R223) -/
  | redMax (o : BitVec 3) (k : BitVec 5) (a : BitVec 7) (d : BitVec 7)
  /-- RED_AND Non-returning atomic AND. (R223) -/
  | redAnd (o : BitVec 3) (k : BitVec 5) (a : BitVec 7) (d : BitVec 7)
  /-- RED_OR Non-returning atomic OR. (R223) -/
  | redOr (o : BitVec 3) (k : BitVec 5) (a : BitVec 7) (d : BitVec 7)
  /-- RED_XOR Non-returning atomic XOR. (R223) -/
  | redXor (o : BitVec 3) (k : BitVec 5) (a : BitVec 7) (d : BitVec 7)
  /-- SLD_U8 Scratchpad load of a zero-extended byte. (R224) -/
  | sldU8 (d : BitVec 7) (a : BitVec 7) (f : BitVec 7)
  /-- SLD_S8 Scratchpad load of a sign-extended byte. (R224) -/
  | sldS8 (d : BitVec 7) (a : BitVec 7) (f : BitVec 7)
  /-- SLD_U16 Scratchpad load of a zero-extended halfword. (R224) -/
  | sldU16 (d : BitVec 7) (a : BitVec 7) (f : BitVec 7)
  /-- SLD_S16 Scratchpad load of a sign-extended halfword. (R224) -/
  | sldS16 (d : BitVec 7) (a : BitVec 7) (f : BitVec 7)
  /-- SLD_B32 Scratchpad load of a word. (R224) -/
  | sldB32 (d : BitVec 7) (a : BitVec 7) (f : BitVec 7)
  /-- SLD_B64 Scratchpad load of a doubleword into a pair. (R224) -/
  | sldB64 (d : BitVec 7) (a : BitVec 7) (f : BitVec 7)
  /-- SST_B8 Scratchpad store of a byte. (R224) -/
  | sstB8 (d : BitVec 7) (a : BitVec 7) (f : BitVec 7)
  /-- SST_B16 Scratchpad store of a halfword. (R224) -/
  | sstB16 (d : BitVec 7) (a : BitVec 7) (f : BitVec 7)
  /-- SST_B32 Scratchpad store of a word. (R224) -/
  | sstB32 (d : BitVec 7) (a : BitVec 7) (f : BitVec 7)
  /-- SST_B64 Scratchpad store of a doubleword. (R224) -/
  | sstB64 (d : BitVec 7) (a : BitVec 7) (f : BitVec 7)
  /-- SATOM_ADD Scratchpad atomic add returning the old value. (R224) -/
  | satomAdd (d : BitVec 7) (a : BitVec 7) (f : BitVec 7)
  /-- SATOM_MIN_S32 Scratchpad atomic signed minimum. (R224) -/
  | satomMinS32 (d : BitVec 7) (a : BitVec 7) (f : BitVec 7)
  /-- SATOM_MAX_S32 Scratchpad atomic signed maximum. (R224) -/
  | satomMaxS32 (d : BitVec 7) (a : BitVec 7) (f : BitVec 7)
  /-- SATOM_MIN_U32 Scratchpad atomic unsigned minimum. (R224) -/
  | satomMinU32 (d : BitVec 7) (a : BitVec 7) (f : BitVec 7)
  /-- SATOM_MAX_U32 Scratchpad atomic unsigned maximum. (R224) -/
  | satomMaxU32 (d : BitVec 7) (a : BitVec 7) (f : BitVec 7)
  /-- SATOM_AND Scratchpad atomic AND. (R224) -/
  | satomAnd (d : BitVec 7) (a : BitVec 7) (f : BitVec 7)
  /-- SATOM_OR Scratchpad atomic OR. (R224) -/
  | satomOr (d : BitVec 7) (a : BitVec 7) (f : BitVec 7)
  /-- SATOM_XOR Scratchpad atomic XOR. (R224) -/
  | satomXor (d : BitVec 7) (a : BitVec 7) (f : BitVec 7)
  /-- SATOM_EXCH Scratchpad atomic exchange. (R224) -/
  | satomExch (d : BitVec 7) (a : BitVec 7) (f : BitVec 7)
  /-- SATOM_CAS Scratchpad atomic compare-and-swap on an even pair. (R224) -/
  | satomCas (d : BitVec 7) (a : BitVec 7) (f : BitVec 7)
  /-- LDREC Loads a 32-byte record through the record cache into a k register on path REC. (R209) -/
  | ldrec (k : BitVec 5) (a : BitVec 7)
  /-- STREC Stores a k register's 32 bytes as a plain store. (R209) -/
  | strec (a : BitVec 7) (k : BitVec 5)
  /-- MKREC Builds a record from eight scalar registers. (R209) -/
  | mkrec (k : BitVec 5) (a : BitVec 7)
  /-- KMOV Copies a record register. (R209) -/
  | kmov (d : BitVec 5) (a : BitVec 5)
  /-- FENCE Holds later M- and T-pipe slots until earlier accesses are performed at the scope. (R227) -/
  | fence (k : BitVec 7)
  /-- RFENCE Drains stores, writes back the L1 and invalidates the record cache. (R228) -/
  | rfence
  /-- PF Prefetches one 512-byte line without faulting. (R229) -/
  | pf (a : BitVec 7) (l : BitVec 7)
  /-- FLUSH Writes back dirty bytes of a range of L1 lines. (R230) -/
  | flush (a : BitVec 7) (b : BitVec 7)
  /-- INVAL Writes back and invalidates a range of L1 lines. (R230) -/
  | inval (a : BitVec 7) (b : BitVec 7)
  /-- CPY32 Per-lane copy of up to 32 global bytes into scratchpad under a tag. (R259) -/
  | cpy32 (t : BitVec 3) (k : BitVec 5) (a : BitVec 7) (b : BitVec 7)
  /-- STAGE Advances the stage counter and releases matching copy-schedule entries. (R255) -/
  | stage (a : BitVec 7) (b : BitVec 7)
  /-- WAITGE Stalls until a 64-bit memory counter reaches a target. (R263) -/
  | waitge (a : BitVec 7) (b : BitVec 7)
  /-- QFENCE Enters an ordering entry into each named queue. (R264) -/
  | qfence (q : BitVec 3)
  /-- RDSTAGE Reads the group's stage counter. (R262) -/
  | rdstage (d : BitVec 7)
  /-- GB_MEET Arrives at a group barrier unless already arrived, then waits for the phase. (R319) -/
  | gbMeet (b : BitVec 7)
  /-- GB_POST Arrives at a group barrier without waiting. (R319) -/
  | gbPost (b : BitVec 7)
  /-- GB_AWAIT Waits until the warp's arrival bit clears. (R319) -/
  | gbAwait (b : BitVec 7)
  /-- GB_AWAIT_PAR Waits until the phase bit differs from q. (R319) -/
  | gbAwaitPar (q : BitVec 1) (b : BitVec 7)
  /-- GB_BYTES Raises a barrier's transaction count. (R319) -/
  | gbBytes (a : BitVec 7) (b : BitVec 7)
  /-- GB_MEMBERS Sets a barrier's member mask and expected count. (R319) -/
  | gbMembers (a : BitVec 7) (b : BitVec 7)
  /-- MB_ARM Initialises a memory transaction barrier. (R326) -/
  | mbArm (a : BitVec 7) (b : BitVec 7)
  /-- MB_POST Releases and adds arrivals to a memory barrier, returning its phase. (R326) -/
  | mbPost (d : BitVec 7) (a : BitVec 7) (b : BitVec 7)
  /-- MB_BYTES Adds transaction bytes to a memory barrier. (R326) -/
  | mbBytes (a : BitVec 7) (b : BitVec 7)
  /-- MB_AWAIT Stalls until a memory barrier's phase differs from a value. (R326) -/
  | mbAwait (a : BitVec 7) (b : BitVec 7)
  /-- NEMIT Releases and offers one 16-byte record per active lane to a node. (R357) -/
  | nemit (n : BitVec 7) (v : BitVec 7)
  /-- COLL Enters a collective-record entry into the warp's collective queue. (R397) -/
  | coll (a : BitVec 7)
  /-- MMA Posts a 96-row matrix multiply-accumulate into the accumulator store. (R272) -/
  | mma (f : BitVec 4) (s : BitVec 4) (v : BitVec 7) (p : BitVec 7)
  /-- MMA_SAT Posts an integer matrix multiply-accumulate with saturation. (R272) -/
  | mmaSat (f : BitVec 4) (s : BitVec 4) (v : BitVec 7) (p : BitVec 7)
  /-- TZERO Zeroes W accumulator columns of the active rows. (R285) -/
  | tzero (w : BitVec 4) (p : BitVec 7)
  /-- TLD Loads scratchpad elements into the accumulator, widened. (R285) -/
  | tld (f : BitVec 4) (w : BitVec 4) (v : BitVec 7) (p : BitVec 7)
  /-- TST Stores accumulator words to scratchpad, converted. (R285) -/
  | tst (f : BitVec 4) (w : BitVec 4) (v : BitVec 7) (p : BitVec 7)
  /-- TGET Reads M accumulator columns into vector registers. (R285) -/
  | tget (m : BitVec 4) (v : BitVec 7) (p : BitVec 7)
  /-- TFILL Writes M vector registers into accumulator columns. (R285) -/
  | tfill (m : BitVec 4) (v : BitVec 7) (p : BitVec 7)
  /-- MCOMMIT Closes the warp's open commit group. (R280) -/
  | mcommit
  /-- MWAIT Stalls until at most n commit groups are outstanding. (R281) -/
  | mwait (n : BitVec 7)
  /-- REGISTER_RESULT_WRITTEN An issued instruction's register results are written, releasing the slot that waits on them. (R82) -/
  | registerResultWritten (r : WRef) (shadows : List ShadowReading)
  /-- SHADOW_RERUN_DONE The rerun self-check ends; the unit is retired if it fails and the instruction replays. (R41) -/
  | shadowRerunDone (r : WRef) (u : UnitId) (pass : Bool)
  /-- COLUMN_RECHECK_DONE The check after a column divergence ends and the chunk is recomputed. (R42) -/
  | columnRecheckDone (core : Nat) (col : Nat) (pass : Bool)
  /-- SELF_CHECK_STEP The mowing checks a lane, quad unit, bank or column, making it suspect on failure. (R35) -/
  | selfCheckStep (u : UnitId) (pass : Bool)
  /-- MOWING_HOLD A unit without an idle cycle for 1 ms gets an issue or access hold of at most 64 cycles for its check. (R35) -/
  | mowingHold (u : UnitId)
  /-- EVACUATION_COMPLETE A bank's background copy ends and the bank awaits the rewrite point. (R36) -/
  | evacuationComplete (u : UnitId)
  /-- REWRITE_POINT Issue stops, issued beats drain and the steering tables swap in one cycle. (R37) -/
  | rewritePoint (core : Nat) (table : SteerTable)
  /-- COLUMN_TABLE_REWRITE The column steering table is rewritten and engine grants resume. (R440) -/
  | columnTableRewrite (core : Nat)
  /-- LOAD_RETURN A load's lane data is written and its LD entry completes in order. (R218) -/
  | loadReturn (r : WRef) (seq : Nat)
  /-- STORE_LEAVES_QUEUE A store entry leaves the warp's FIFO store queue into the L1 and its ST entry completes. (R219) -/
  | storeLeavesQueue (r : WRef)
  /-- SCRATCH_ACCESS_PERFORMED A scratchpad access is performed and its SCR entry completes. (R224) -/
  | scratchAccessPerformed (r : WRef) (seq : Nat)
  /-- RECORD_RETURN An ldrec's record is written into its k register. (R209) -/
  | recordReturn (r : WRef) (seq : Nat)
  /-- ATOMIC_PERFORMED An atomic is performed at the level-2 atomic unit and any return is written. (R223) -/
  | atomicPerformed (r : WRef) (seq : Nat)
  /-- IFETCH_FILL_DONE An instruction-cache line fill arrives and stalled warps fetch from it. (R97) -/
  | ifetchFillDone (core ctx va : Nat)
  /-- TRANSLATION_WALK_DONE A page walk ends, installing a translation or reporting a fault. (R377) -/
  | translationWalkDone (core ctx va : Nat)
  /-- SLEEP_TIMER_LAPSE A sleeping warp's timer lapses and it becomes ready. (R138) -/
  | sleepTimerLapse (r : WRef)
  /-- HALT_BROADCAST A sibling warp receives a halt broadcast and stops within 4 packets. (R309) -/
  | haltBroadcast (r : WRef)
  /-- WATCHDOG A resident group retiring no slot for the watchdog interval raises WATCHDOG. (R309) -/
  | watchdog (g : GRef)
  /-- WARP_DRAINED A draining warp's counters reach zero and its tile entries are performed, so it exits. (R108) -/
  | warpDrained (r : WRef)
  /-- ARRIVAL_APPLIED A posted barrier arrival is applied once the warp's earlier entries complete. (R315) -/
  | arrivalApplied (r : WRef) (b : Nat)
  /-- WRITE_NOTICE A home slice notifies a watching core of a write to a watched line, which is reread. (R263) -/
  | writeNotice (x : Watcher)
  /-- REREAD_INTERVAL A watched word is reread after 1,024 cycles without a notice. (R263) -/
  | rereadInterval (x : Watcher)
  /-- SCHEDULE_READ_DONE A stalled copy-schedule header or entry read completes and the stage releases entries. (R253) -/
  | scheduleReadDone (g : GRef)
  /-- COPY_ENTRY_START A queued copy entry begins moving once earlier entries are performed. (R265) -/
  | copyEntryStart (r : WRef)
  /-- COPY_HOLD_RENEW After 64 KiB under one hold the hold is dropped and pages re-translated. (R266) -/
  | copyHoldRenew (r : WRef)
  /-- COPY_DATA_LANDED Copy rows are written at their destination, lowering barrier transaction bytes for kind 1. (R256) -/
  | copyDataLanded (r : WRef)
  /-- CPY32_COMPLETE Every active lane of a cpy32 has written its 32 bytes and its CP entry completes. (R259) -/
  | cpy32Complete (r : WRef)
  /-- OPERAND_LATCH_TAKE An mma entry takes a free operand latch and its A-row gather starts. (R276) -/
  | operandLatchTake (r : WRef) (seq : Nat)
  /-- GATHER_DONE An mma's A rows are in its latch and it becomes eligible for grant. (R289) -/
  | gatherDone (r : WRef) (seq : Nat)
  /-- COLUMN_CHUNK_GRANT The arbiter grants the next column chunk of the chosen op. (R277) -/
  | columnChunkGrant (core : Nat)
  /-- COLUMN_CHUNK_DONE A column chunk's 96 × 32 words are written, possibly completing the op and its commit group. (R272) -/
  | columnChunkDone (core : Nat) (shadows : List ShadowReading)
  /-- ENGINE_IDLE An engine that has started no chunk for 64 cycles becomes idle. (R278) -/
  | engineIdle (core : Nat)
  /-- ACC_MOVE_PERFORMED An accumulator move runs on the move port and its TIL entry completes. (R286) -/
  | accMovePerformed (r : WRef)
  /-- DISPATCH_SELECT The device-wide dispatcher selects the next pending or evicted group. (R293) -/
  | dispatchSelect
  /-- QUANTUM_EXPIRY A group resident for its tenant's quantum becomes evictable by equal-priority tenants. (R298) -/
  | quantumExpiry (g : GRef)
  /-- EVICT_RETURN_AREA_READY Eviction step 4 proceeds once the return area fits in the image pool. (R300) -/
  | evictReturnAreaReady (g : GRef)
  /-- DIVERSION_ENTRY_FREE A diversion-table entry frees and a waiting eviction proceeds. (R304) -/
  | diversionEntryFree (core : Nat) (g : GRef)
  /-- EVICTION_COMPLETE The eviction procedure ends and the group re-enters dispatch as evicted. (R292) -/
  | evictionComplete (g : GRef)
  /-- DIVERTED_ARRIVAL An arrival for an absent group lands in its image, shadow block or return slot. (R304) -/
  | divertedArrival (r : WRef) (seq : Nat)
  /-- GLEANING_COMPLETE The gleaning ends and the group issues or halts with ABSENT_FAULT. (R306) -/
  | gleaningComplete (g : GRef)
  /-- MIGRATION_DECISION The scheduling firmware migrates a group to a named core. (R308) -/
  | migrationDecision (g : GRef) (target : Nat)
  /-- MIGRATION_STREAM_END The image stream ends and the group is gleaned on the target or re-enters dispatch. (R308) -/
  | migrationStreamEnd (g : GRef)
  /-- HALT_COMPLETE Every warp of a halting group has stopped; the image and trap record are written. (R309) -/
  | haltComplete (g : GRef)
  /-- TRAP_QUEUE_SLOT_FREE A held trap record is placed when the host frees a trap-queue slot. (R364) -/
  | trapQueueSlotFree (ctx : Nat)
  /-- PACKET_NOP A nop packet is consumed. (R348) -/
  | packetNop (q : Nat)
  /-- GRID_LAUNCH A grid launch packet is admitted and takes a launch sequence number. (R350) -/
  | gridLaunch (q : Nat)
  /-- NODE_BIND A node number is bound to a node kernel with a hardware queue and rick. (R353) -/
  | nodeBind (q : Nat)
  /-- NODE_UNBIND A node bind with descriptor 0 starts unbinding the node. (R356) -/
  | nodeUnbind (q : Nat)
  /-- NODE_UNBIND_COMPLETE The node's groups complete, the signal is added and the node is freed. (R356) -/
  | nodeUnbindComplete (ctx node : Nat)
  /-- INDIRECT_BUFFER An indirect packet makes the front end read a buffer of packets one level deeper. (R350) -/
  | indirectBuffer (q : Nat)
  /-- WAIT_PACKET A wait packet makes the queue wait until named words reach their targets. (R350) -/
  | waitPacket (q : Nat)
  /-- SIGNAL_PACKET A signal packet releases and adds an increment. (R350) -/
  | signalPacket (q : Nat)
  /-- RECORD_FENCE Invalidates the record caches of the front end and of cores running the context. (R350) -/
  | recordFence (q : Nat)
  /-- CONTEXT_FENCE Waits for every earlier launch of the context, then releases. (R350) -/
  | contextFence (q : Nat)
  /-- QUEUE_WAIT_SATISFIED A waiting queue's condition or barrier bit holds and the packet is consumed. (R347) -/
  | queueWaitSatisfied (q : Nat)
  /-- LAUNCH_COMPLETE A launch completes; cores release and the completion signal is written. (R343) -/
  | launchComplete (ctx seq : Nat)
  /-- NODE_RECORD_OFFER A record reaches the baler and is accepted into the hardware queue or rick, or refused. (R354) -/
  | nodeRecordOffer (r : WRef) (seq : Nat)
  /-- NODE_TIMER_LAPSE The node timer lapses with records queued and a group is formed. (R355) -/
  | nodeTimerLapse (ctx node : Nat)
  /-- BATCH_FREE_FORMATION A waiting formation proceeds when a batch becomes free. (R355) -/
  | batchFreeFormation (ctx node : Nat)
  /-- CREATE Creates a context from a context record. (R365) -/
  | create (tenant : Nat) (block : List (BitVec 8))
  /-- DESTROY Aborts pending commands, stops queues and halts every group of the context. (R369) -/
  | destroy (c : Cmd)
  /-- DESTROY_COMPLETE Images are freed after their diverted arrivals land and DESTROY completes. (R369) -/
  | destroyComplete (ctx : Nat)
  /-- SUSPEND Stops the context's queues and evicts its resident groups. (R367) -/
  | suspend (c : Cmd)
  /-- SUSPEND_COMPLETE Every non-halted group is evicted and the context is suspended. (R366) -/
  | suspendComplete (ctx : Nat)
  /-- RESUME Returns evicted groups to dispatch and queues to their prior states. (R367) -/
  | resume (c : Cmd)
  /-- QUEUE_ADD Registers a hardware queue from a queue descriptor, in the stopped state. (R365) -/
  | queueAdd (tenant : Nat) (block : List (BitVec 8))
  /-- QUEUE_START Starts a stopped queue. (R365) -/
  | queueStart (tenant : Nat) (block : List (BitVec 8))
  /-- QUEUE_STOP Stops a queue at a packet boundary. (R365) -/
  | queueStop (tenant : Nat) (block : List (BitVec 8))
  /-- QUEUE_RESET Moves a queue in error to stopped. (R365) -/
  | queueReset (tenant : Nat) (block : List (BitVec 8))
  /-- GROUP_RESUME Rechecks a halted group's image and returns it to dispatch. (R368) -/
  | groupResume (tenant : Nat) (block : List (BitVec 8)) (edits : List Edit)
  /-- GROUP_ABORT Retires a halted group and ends its launch with LAUNCH_ABORT. (R368) -/
  | groupAbort (c : Cmd)
  /-- SET_QUANTUM Sets the tenant's quantum. (R298) -/
  | setQuantum (tenant : Nat) (block : List (BitVec 8))
  /-- MIGRATE Stops source queues and sends pending groups of each launch to a target device. (R371) -/
  | migrate (tenant : Nat) (block : List (BitVec 8))
  /-- MIGRATE_COMPLETE No group of the context remains on the source and MIGRATE completes. (R371) -/
  | migrateComplete (ctx : Nat)
  /-- PAGE_BRING_IN The memory manager fills a backed page and writes it present; stalled accesses walk again. (R378) -/
  | pageBringIn (ctx va : Nat) (backing : Option (List (BitVec 8)))
  /-- INVALIDATION_REQUEST A host invalidation request arrives and translations are removed from all caches. (R379) -/
  | invalidationRequest (tenant : Nat) (req : List (BitVec 8))
  /-- INVALIDATION_COMPLETE Holds are dropped, dirty bytes written back and the completion value stored. (R380) -/
  | invalidationComplete (tenant : Nat)
  /-- DIRTY_SECTOR_WRITEBACK A sector dirty for 65,536 cycles is written back to its home slice. (R239) -/
  | dirtySectorWriteback (core pa : Nat)
  /-- CHANNEL_RETIREMENT A channel past an error threshold is retired and its slots given targets. (R386) -/
  | channelRetirement (ch : Nat)
  /-- GRANULE_COPY_START A granule's dirty sectors are written back and its copy to the new channel begins. (R387) -/
  | granuleCopyStart
  /-- GRANULE_COPY_END A granule's copy ends and its accesses go to the new channel. (R387) -/
  | granuleCopyEnd
  /-- SLICE_RETIREMENT A failing slice is drained and its channels reassigned to nearby slices. (R388) -/
  | sliceRetirement (slice : Nat)
  /-- SCRUB_SECTOR The scrubber reads a sector, corrects ECC and checks the tag. (R391) -/
  | scrubSector (sector : Nat) (found : SectorCheck)
  /-- STILE_RELEASE The stile applies a retired group's staged writes in staging order. (R382) -/
  | stileRelease (ctx seq : Nat)
  /-- HOST_ACCESS A host read or write through a virtual function is performed at the home slices or refused outside its windows. (R361) -/
  | hostAccess (tenant pa len : Nat) (data : Option (List (BitVec 8)))
  /-- LINK_ID The host writes the device's 11-bit link identity once per power-on. (R392) -/
  | linkId (id : BitVec 11)
  /-- PORT_ENABLE The host enables a port and its strands start training. (R394) -/
  | portEnable (p : Nat)
  /-- PORT_TRAINED Training ends and the port goes up, degraded or off. (R394) -/
  | portTrained (p strands : Nat) (conflict : Bool)
  /-- PORT_RETRAIN A host retrain restores a degraded port. (R394) -/
  | portRetrain (p : Nat) (ok : Bool)
  /-- PORT_DISABLE A port starts draining on host disable or strand loss. (R394) -/
  | portDisable (p : Nat)
  /-- PORT_DRAINED A draining port's replay buffer empties and it goes off. (R394) -/
  | portDrained (p : Nat)
  /-- STRAND_RETIRE A strand whose replays exceed 1 in 10^6 flits over 1 s is retired. (R393) -/
  | strandRetire (p strand : Nat)
  /-- FLIT_RECEIVE A received flit is checked, acknowledged or negatively acknowledged, and delivered in order. (R393) -/
  | flitReceive (p : Nat) (seq : BitVec 16) (crcOk : Bool) (body : FlitBody)
  /-- FLIT_NAK A negative acknowledgement makes the sender replay from its replay buffer. (R393) -/
  | flitNak (p : Nat) (nak : Nak)
  /-- REMOTE_OPERATION A link operation is checked against the link access table and performed at the target. (R395) -/
  | remoteOperation (op : RemoteOp)
  /-- COLL_ENTRY_PERFORM A collective engine starts a coll entry once earlier queue entries are performed. (R397) -/
  | collEntryPerform (r : WRef)
  /-- COLL_PEER_DATA Peer data of a collective arrive and are folded or checked for agreement. (R401) -/
  | collPeerData (r : WRef) (rank : Nat) (record : List (BitVec 8)) (data : List (BitVec 32))
  /-- COLL_COMPLETE A member's destination is written and its completion is signalled. (R400) -/
  | collComplete (r : WRef)
  /-- BRING_UP After reset release the Switor complex verifies images, trains HBM and opens queues. (R404) -/
  | bringUp (x : BootInput)
  /-- MAILBOX_MESSAGE A Switor core acts on a 64-byte mailbox message. (R403) -/
  | mailboxMessage (src dst : Nat)
  /-- POWER_SAMPLE The power core samples package power and temperature every 100 µs. (R409) -/
  | powerSample (x : PowerInput)
  /-- ATTEST_REQUEST Writing 1 to ATTEST_CTL signs a report with the next Gleku index. (R408) -/
  | attestRequest
  /-- DIAG_RETIREMENT_RECORDS Writes the retirement records to DIAG_ADDR. (R411) -/
  | diagRetirementRecords
  /-- DIAG_CORE_DUMP Writes a core's steering tables and unit states to DIAG_ADDR. (R411) -/
  | diagCoreDump (operand : BitVec 64)
  /-- DIAG_REVIVE Self-checks a retired unit and returns it to live if it passes. (R411) -/
  | diagRevive (operand : BitVec 64) (pass : Bool)
  /-- DIAG_VACATE Excludes a core from placement and migrates its groups. (R411) -/
  | diagVacate (operand : BitVec 64)
  /-- DIAG_VACATE_END Ends a vacate of a core. (R411) -/
  | diagVacateEnd (operand : BitVec 64)
  /-- DIAG_SLOT_TABLE Writes the slot table to DIAG_ADDR. (R411) -/
  | diagSlotTable
  /-- EVENT_CAUSE_CLEAR Writing 1 to an EVENT_CAUSE bit clears it. (R410) -/
  | eventCauseClear (bits : BitVec 64)
  /-- TENANT_SET Sets a tenant's windows, error queue and context limit and enables its virtual function. (R414) -/
  | tenantSet (tenant record : Nat)
  /-- TENANT_CLEAR Removes a tenant's windows, makes its keys plain and disables its virtual function. (R414) -/
  | tenantClear (tenant : Nat)
  /-- KEY_LOAD Loads a key slot from a blob and zeroes the blob. (R414) -/
  | keyLoad (key blob : Nat)
  /-- KEY_CLEAR Makes a key id plain. (R414) -/
  | keyClear (key : Nat)
  /-- LINK_GRANT Adds a grant entry to the link access table. (R414) -/
  | linkGrant (record : Nat)
  /-- LINK_REVOKE Removes a matching grant entry from the link access table. (R414) -/
  | linkRevoke (record : Nat)
  /-- REGISTER_WRITE A write to a management register without behaviour of its own stores or is ignored. (R410) -/
  | registerWrite (off : Nat) (val : BitVec 64)
  /-- ILL_PACKET A warp reaches a packet whose header is malformed (three literal bits, bad guard selector, chain to a literal, pipe or destination clash) and traps at slot 0 with no slot issued. (R74) -/
  | illPacket
  /-- ILL_OP A slot whose word carries a reserved major or an unassigned minor, op, condition or kind code raises ILL_OP at decode. (R90) -/
  | illOp (w : BitVec 32)
  /-- FUTURE_OP A slot with a major in 0x38..0x3F raises FUTURE_OP, changing no state, so the host can emulate it. (R95) -/
  | futureOp (w : BitVec 32)
  /-- SCRATCH_PAGE_SWITCH_DONE A scratchpad page's translation entry finishes switching between frame and scratch image, and accesses waiting on that page proceed with the new placement. (R216) -/
  | scratchPageSwitchDone (g : GRef) (page : Nat)
  /-- WRITE_BACK_LANDED The L1 write-back demanded by a fence, release, rfence, flush or inval reaches its home slices, lifting the hold on the warp. (R227) -/
  | writeBackLanded (r : WRef)
  /-- POWER_OFF Power is removed, and the device loses all state except on-package flash. (R404) -/
  | powerOff
  /-- HOST_ERROR_QUEUE_SLOT_FREE The host frees a slot in a full host error queue, and a held record is placed in it. (R369) -/
  | hostErrorQueueSlotFree (tenant : Nat)
  /-- UNLISTED_COMMAND_CODE A context command block, PF_CMD or DIAG_CMD is written with a code that is not listed, and it ends with status 2 or 3. (R365) -/
  | unlistedCommandCode (x : CommandWindow) (block : List (BitVec 8))
  /-- SPLIT_LAUNCH_ARRIVAL On the target device of a MIGRATE, the pending groups of a split launch arrive and enter dispatch in increasing group index. (R371) -/
  | splitLaunchArrival (ctx : Nat) (x : SplitLaunch)
  /-- TARGET_COMPLETION_REPORT The target of a MIGRATE reports that its groups of a split launch are complete, and the source may then write the completion signal at sys. (R371) -/
  | targetCompletionReport (ctx seq : Nat)
  deriving DecidableEq, Repr, Inhabited

end Sys2Proof
end

