-- ==== Sys2Proof/WellFormed.lean ====
section
/-!
DEFINITION. Well-formed instructions: the conditions under which an instruction word whose
code is assigned does not raise ILL_OP at decode (R87, R88, R90..R94 and the family chapters).
-/
namespace Sys2Proof

/-- A pair field names an even register (R87). -/
def even {n : Nat} (x : BitVec n) : Bool := x.toNat % 2 == 0
/-- The base of a scalar triple (R121, R132, R173). -/
def tripleBase (x : BitVec 7) : Bool := x.toNat ≤ 122
/-- A predicate field holds 0..11 (R87). -/
def predOk {n : Nat} (x : BitVec n) : Bool := x.toNat ≤ 11
/-- The state registers of 64 bits: clk, time, draw (R118). -/
def stateReg64 (code : Nat) : Bool := code == 0 || code == 1 || code == 11
/-- The limb counts that cbind takes (R187). -/
def limbCountOk (n : Nat) : Bool := [2, 3, 4, 6, 8, 12, 16, 24, 32, 48, 96].contains n
/-- Order and scope codes of format M (R92). -/
def orderScopeOk (o s : Nat) : Bool :=
  (o == 0 && s == 0) || (o == 1 && s ≤ 2) || (o == 2 && (s == 1 || s == 2))
/-- Elements of a format code of R91 in a register (R49). -/
def cvtCount (o : Nat) : Nat :=
  if o == 0 || o == 7 || o == 8 then 1
  else if o == 1 || o == 2 || o == 9 || o == 10 then 2
  else if o == 6 || o == 13 || o == 14 then 8
  else 4
/-- The wide code names the same format as the other code (R91). -/
def cvtSame (w o : Nat) : Bool := (w == 0 && o == 0) || (w == 1 && o == 7) || (w == 2 && o == 8)
/-- Codes and element of a vcvt (R91). -/
def cvtOk (w o e : Nat) : Bool := w ≤ 2 && o ≤ 14 && e < cvtCount o && !(cvtSame w o)
/-- A format code of R91 names a floating-point format. -/
def cvtFloat (o : Nat) : Bool := o ≤ 6
/-- vcvt into the wide format honours rm (R168): from f32 or s32 or u32, or any float into an integer. -/
def cvtWidenRounds (w o : Nat) : Bool :=
  if w == 0 then o == 7 || o == 8 else cvtFloat o
/-- vcvt from the wide format honours rm (R168, R65): all but integer into integer. -/
def cvtNarrowRounds (w o : Nat) : Bool := w == 0 || cvtFloat o

/-- The instruction raises no ILL_OP at decode. A step of the device that is no instruction word is
well formed as it stands; ILL_OP and FUTURE_OP stand for the words they carry. -/
def Instr.wf : Instr → Bool
  | .nop => true
  | .exit => true
  | .yield => true
  | .sleep _ => true
  | .trap _ => true
  | .brk _ => true
  | .ipf m _ => 1 ≤ m.toNat && m.toNat ≤ 4
  | .ipfInv => true
  | .sadd _ _ _ => true
  | .ssub _ _ _ => true
  | .smul _ _ _ => true
  | .smulhiS32 _ _ _ => true
  | .smulhiU32 _ _ _ => true
  | .sand _ _ _ => true
  | .sor _ _ _ => true
  | .sxor _ _ _ => true
  | .sandn _ _ _ => true
  | .sshl _ _ _ => true
  | .sshr _ _ _ => true
  | .ssra _ _ _ => true
  | .sminS32 _ _ _ => true
  | .smaxS32 _ _ _ => true
  | .sminU32 _ _ _ => true
  | .smaxU32 _ _ _ => true
  | .sadd64 d a b => even d && even a && even b
  | .ssub64 d a b => even d && even a && even b
  | .saddI _ _ _ => true
  | .ssubI _ _ _ => true
  | .smulI _ _ _ => true
  | .smulhiS32I _ _ _ => true
  | .smulhiU32I _ _ _ => true
  | .sandI _ _ _ => true
  | .sorI _ _ _ => true
  | .sxorI _ _ _ => true
  | .sandnI _ _ _ => true
  | .sshlI _ _ _ => true
  | .sshrI _ _ _ => true
  | .ssraI _ _ _ => true
  | .sminS32I _ _ _ => true
  | .smaxS32I _ _ _ => true
  | .sminU32I _ _ _ => true
  | .smaxU32I _ _ _ => true
  | .scmp c _ _ _ => c.toNat ≤ 9
  | .scmpI c _ _ _ => c.toNat ≤ 9
  | .cand _ _ _ => true
  | .cor _ _ _ => true
  | .cxor _ _ _ => true
  | .candn _ _ _ => true
  | .smov _ _ => true
  | .sli _ _ => true
  | .sbfxU32 _ _ _ => true
  | .sbfxS32 _ _ _ => true
  | .sbfi _ _ _ => true
  | .spopc _ _ => true
  | .sclz _ _ => true
  | .sctz _ _ => true
  | .sbrev _ _ => true
  | .bc _ _ => true
  | .bnc _ _ => true
  | .bany _ => true
  | .ball _ => true
  | .bnone _ => true
  | .br _ => true
  | .call _ => true
  | .jmp a => even a
  | .ret => true
  | .rsr d r => r.toNat ≤ 12 && (!(stateReg64 r.toNat) || even d)
  | .wsr a r => r.toNat == 11 && even a
  | .mpush d p => tripleBase d && predOk p
  | .mflip d p => tripleBase d && predOk p
  | .mpop d => tripleBase d
  | .waitc p _ => p.toNat != 6 && p.toNat != 7
  | .waitcI p _ => p.toNat != 6 && p.toNat != 7
  | .mvps d p => (tripleBase d || d.toNat == 125) && predOk p
  | .mvsp p a => (tripleBase a || a.toNat == 125) && predOk p
  | .vaddS32 _ _ _ => true
  | .vsubS32 _ _ _ => true
  | .vaddSatS32 _ _ _ => true
  | .vaddSatU32 _ _ _ => true
  | .vsubSatS32 _ _ _ => true
  | .vsubSatU32 _ _ _ => true
  | .vminS32 _ _ _ => true
  | .vmaxS32 _ _ _ => true
  | .vminU32 _ _ _ => true
  | .vmaxU32 _ _ _ => true
  | .vshl _ _ _ => true
  | .vshr _ _ _ => true
  | .vsra _ _ _ => true
  | .vabsdS32 _ _ _ => true
  | .vadd64 d a b => even d && even a && even b
  | .vsub64 d a b => even d && even a && even b
  | .vaddS32S _ _ _ => true
  | .vsubS32S _ _ _ => true
  | .vaddSatS32S _ _ _ => true
  | .vaddSatU32S _ _ _ => true
  | .vsubSatS32S _ _ _ => true
  | .vsubSatU32S _ _ _ => true
  | .vminS32S _ _ _ => true
  | .vmaxS32S _ _ _ => true
  | .vminU32S _ _ _ => true
  | .vmaxU32S _ _ _ => true
  | .vshlS _ _ _ => true
  | .vshrS _ _ _ => true
  | .vsraS _ _ _ => true
  | .vabsdS32S _ _ _ => true
  | .vaddS32I _ _ _ => true
  | .vsubS32I _ _ _ => true
  | .vaddSatS32I _ _ _ => true
  | .vaddSatU32I _ _ _ => true
  | .vsubSatS32I _ _ _ => true
  | .vsubSatU32I _ _ _ => true
  | .vminS32I _ _ _ => true
  | .vmaxS32I _ _ _ => true
  | .vminU32I _ _ _ => true
  | .vmaxU32I _ _ _ => true
  | .vshlI _ _ _ => true
  | .vshrI _ _ _ => true
  | .vsraI _ _ _ => true
  | .vabsdS32I _ _ _ => true
  | .vmulLo _ _ _ => true
  | .vmulhiS32 _ _ _ => true
  | .vmulhiU32 _ _ _ => true
  | .vmadLo _ _ _ => true
  | .vmadSatS32 _ _ _ => true
  | .vmulWideS32 d _ _ => even d
  | .vmulWideU32 d _ _ => even d
  | .vand _ _ _ => true
  | .vor _ _ _ => true
  | .vxor _ _ _ => true
  | .vandn _ _ _ => true
  | .vnot _ _ => true
  | .vpopc _ _ => true
  | .vclz _ _ => true
  | .vbrev _ _ => true
  | .vbfxU32 _ _ _ => true
  | .vbfxS32 _ _ _ => true
  | .vbfi _ _ _ => true
  | .vfshl _ _ _ => true
  | .vfshr _ _ _ => true
  | .vcmp c p t _ _ => c.toNat ≤ 5 && predOk p && t.toNat ≤ 1
  | .pand d a b => predOk d && predOk a && predOk b
  | .por d a b => predOk d && predOk a && predOk b
  | .pxor d a b => predOk d && predOk a && predOk b
  | .pandn d a b => predOk d && predOk a && predOk b
  | .pnot d a => predOk d && predOk a
  | .pmov d a => predOk d && predOk a
  | .pset d => predOk d
  | .pclr d => predOk d
  | .vsel q _ _ _ => 8 ≤ q.toNat && q.toNat ≤ 19
  | .vsext8 _ _ e => e.toNat ≤ 3
  | .vzext8 _ _ e => e.toNat ≤ 3
  | .vsext16 _ _ e => e.toNat ≤ 1
  | .vzext16 _ _ e => e.toNat ≤ 1
  | .vsatS8S32 _ _ => true
  | .vsatU8S32 _ _ => true
  | .vsatS16S32 _ _ => true
  | .vsatU16S32 _ _ => true
  | .vsatS32S64 _ a => even a
  | .fadd _ _ _ _ => true
  | .fsub _ _ _ _ => true
  | .fmul _ _ _ _ => true
  | .fmin _ _ _ => true
  | .fmax _ _ _ => true
  | .fcopysign _ _ _ => true
  | .fabs _ _ => true
  | .fneg _ _ => true
  | .faddS _ _ _ _ => true
  | .faddI _ _ _ _ => true
  | .fmulS _ _ _ _ => true
  | .fmulI _ _ _ _ => true
  | .fminS _ _ _ => true
  | .fminI _ _ _ => true
  | .fmaxS _ _ _ => true
  | .fmaxI _ _ _ => true
  | .ffma _ _ _ _ => true
  | .ffms _ _ _ _ => true
  | .ffnma _ _ _ _ => true
  | .ffnms _ _ _ _ => true
  | .ffmaS _ _ _ _ => true
  | .ffmsS _ _ _ _ => true
  | .ffnmaS _ _ _ _ => true
  | .ffnmsS _ _ _ _ => true
  | .haddF16x2 _ _ _ _ => true
  | .hmulF16x2 _ _ _ _ => true
  | .hfmaF16x2 _ _ _ _ => true
  | .hminF16x2 _ _ _ => true
  | .haddBf16x2 _ _ _ _ => true
  | .hmulBf16x2 _ _ _ _ => true
  | .hfmaBf16x2 _ _ _ _ => true
  | .hminBf16x2 _ _ _ => true
  | .vcmpF32 c p _ _ => c.toNat ≤ 7 && predOk p
  | .vcvtWiden w o r e _ _ => cvtOk w.toNat o.toNat e.toNat && (cvtWidenRounds w.toNat o.toNat || r.toNat == 0)
  | .vcvtNarrow w o r e _ _ => cvtOk w.toNat o.toNat e.toNat && (cvtNarrowRounds w.toNat o.toNat || r.toNat == 0)
  | .vrcp _ _ => true
  | .vrsq _ _ => true
  | .vsqrt _ _ => true
  | .vexp2 _ _ => true
  | .vlog2 _ _ => true
  | .vsinpi _ _ => true
  | .vcospi _ _ => true
  | .vtanh _ _ => true
  | .fdot _ _ _ _ => true
  | .idot _ _ _ _ => true
  | .idotSat _ _ _ _ => true
  | .vshflIdx _ _ _ => true
  | .vshflUp _ _ n => n.toNat ≤ 95
  | .vshflDown _ _ n => n.toNat ≤ 95
  | .vshflXor _ _ _ => true
  | .vbcast _ _ j => j.toNat ≤ 95
  | .vsome _ a => predOk a
  | .vevery _ a => predOk a
  | .vbits d a => tripleBase d && predOk a
  | .vredAddS32 _ _ => true
  | .vredMinS32 _ _ => true
  | .vredMaxS32 _ _ => true
  | .vredAddF32 _ _ => true
  | .vredMinF32 _ _ => true
  | .vredMaxF32 _ _ => true
  | .vscanAddS32 _ _ => true
  | .vscanxAddS32 _ _ => true
  | .vscanAddF32 _ _ => true
  | .vredAnd _ _ => true
  | .vredOr _ _ => true
  | .vredXor _ _ => true
  | .vmatch _ _ => true
  | .vrank _ _ => true
  | .vlead d _ => predOk d
  | .visect _ _ _ => true
  | .vtopk _ _ _ => true
  | .vargmaxF32 _ _ => true
  | .vargmaxS32 _ _ => true
  | .vlid _ => true
  | .vrnd _ a => even a
  | .cbind n => limbCountOk n.toNat
  | .cunbind => true
  | .cget _ => true
  | .cgetP p => predOk p
  | .cset _ => true
  | .cadd _ _ _ => true
  | .cadc _ _ _ => true
  | .csub _ _ _ => true
  | .csbb _ _ _ => true
  | .caddSat _ _ _ => true
  | .cadcSat _ _ _ => true
  | .csubSat _ _ _ => true
  | .csbbSat _ _ _ => true
  | .ccmp c p _ _ => 8 ≤ c.toNat && c.toNat ≤ 13 && predOk p
  | .cshl _ _ _ => true
  | .cshr _ _ _ => true
  | .cshlw _ _ _ => true
  | .cshrw _ _ _ => true
  | .cmac _ a _ => even a
  | .cld o s _ _ _ _ => orderScopeOk o.toNat s.toNat
  | .cst o s _ _ _ _ => orderScopeOk o.toNat s.toNat
  | .ld _ o s _ _ _ _ => orderScopeOk o.toNat s.toNat
  | .st _ o s _ _ _ _ => orderScopeOk o.toNat s.toNat
  | .atomAdd o _ _ _ => o.toNat ≤ 5
  | .atomMin o _ _ _ => o.toNat ≤ 5
  | .atomMax o _ _ _ => o.toNat ≤ 5
  | .atomAnd o _ _ _ => o.toNat ≤ 5
  | .atomOr o _ _ _ => o.toNat ≤ 5
  | .atomXor o _ _ _ => o.toNat ≤ 5
  | .atomExch o _ _ _ => o.toNat ≤ 5
  | .atomCas o _ _ _ => o.toNat ≤ 5
  | .redAdd o _ _ _ => o.toNat ≤ 5
  | .redMin o _ _ _ => o.toNat ≤ 5
  | .redMax o _ _ _ => o.toNat ≤ 5
  | .redAnd o _ _ _ => o.toNat ≤ 5
  | .redOr o _ _ _ => o.toNat ≤ 5
  | .redXor o _ _ _ => o.toNat ≤ 5
  | .sldU8 _ _ _ => true
  | .sldS8 _ _ _ => true
  | .sldU16 _ _ _ => true
  | .sldS16 _ _ _ => true
  | .sldB32 _ _ _ => true
  | .sldB64 d _ _ => even d
  | .sstB8 _ _ _ => true
  | .sstB16 _ _ _ => true
  | .sstB32 _ _ _ => true
  | .sstB64 d _ _ => even d
  | .satomAdd _ _ _ => true
  | .satomMinS32 _ _ _ => true
  | .satomMaxS32 _ _ _ => true
  | .satomMinU32 _ _ _ => true
  | .satomMaxU32 _ _ _ => true
  | .satomAnd _ _ _ => true
  | .satomOr _ _ _ => true
  | .satomXor _ _ _ => true
  | .satomExch _ _ _ => true
  | .satomCas d _ _ => even d
  | .ldrec _ a => even a
  | .strec a _ => even a
  | .mkrec _ a => a.toNat % 8 == 0
  | .kmov _ _ => true
  | .fence k => k.toNat ≤ 4
  | .rfence => true
  | .pf a l => even a && l.toNat ≤ 1
  | .flush a _ => even a
  | .inval a _ => even a
  | .cpy32 _ _ a _ => even a
  | .stage _ _ => true
  | .waitge a b => even a && even b
  | .qfence q => q.toNat != 0
  | .rdstage _ => true
  | .gbMeet b => b.toNat ≤ 15
  | .gbPost b => b.toNat ≤ 15
  | .gbAwait b => b.toNat ≤ 15
  | .gbAwaitPar _ b => b.toNat ≤ 15
  | .gbBytes _ b => b.toNat ≤ 15
  | .gbMembers _ b => b.toNat ≤ 15
  | .mbArm a _ => even a
  | .mbPost _ a _ => even a
  | .mbBytes a _ => even a
  | .mbAwait a _ => even a
  | .nemit _ v => v.toNat % 4 == 0
  | .coll a => even a
  | .mma f s _ p => f.toNat ≤ 8 && s.toNat ≤ 11 && even p
  | .mmaSat f s _ p => (f.toNat == 7 || f.toNat == 8) && s.toNat ≤ 11 && even p
  | .tzero w p => w.toNat ≤ 3 && even p
  | .tld f w _ p => f.toNat ≤ 2 && w.toNat ≤ 3 && even p
  | .tst f w _ p => f.toNat ≤ 7 && w.toNat ≤ 3 && even p
  | .tget m v p => m.toNat ≤ 3 && v.toNat % (2 ^ m.toNat) == 0 && even p
  | .tfill m v p => m.toNat ≤ 3 && v.toNat % (2 ^ m.toNat) == 0 && even p
  | .mcommit => true
  | .mwait _ => true
  | .registerResultWritten _ _ => true
  | .shadowRerunDone _ _ _ => true
  | .columnRecheckDone _ _ _ => true
  | .selfCheckStep _ _ => true
  | .mowingHold _ => true
  | .evacuationComplete _ => true
  | .rewritePoint _ _ => true
  | .columnTableRewrite _ => true
  | .loadReturn _ _ => true
  | .storeLeavesQueue _ => true
  | .scratchAccessPerformed _ _ => true
  | .recordReturn _ _ => true
  | .atomicPerformed _ _ => true
  | .ifetchFillDone _ _ _ => true
  | .translationWalkDone _ _ _ => true
  | .sleepTimerLapse _ => true
  | .haltBroadcast _ => true
  | .watchdog _ => true
  | .warpDrained _ => true
  | .arrivalApplied _ _ => true
  | .writeNotice _ => true
  | .rereadInterval _ => true
  | .scheduleReadDone _ => true
  | .copyEntryStart _ => true
  | .copyHoldRenew _ => true
  | .copyDataLanded _ => true
  | .cpy32Complete _ => true
  | .operandLatchTake _ _ => true
  | .gatherDone _ _ => true
  | .columnChunkGrant _ => true
  | .columnChunkDone _ _ => true
  | .engineIdle _ => true
  | .accMovePerformed _ => true
  | .dispatchSelect => true
  | .quantumExpiry _ => true
  | .evictReturnAreaReady _ => true
  | .diversionEntryFree _ _ => true
  | .evictionComplete _ => true
  | .divertedArrival _ _ => true
  | .gleaningComplete _ => true
  | .migrationDecision _ _ => true
  | .migrationStreamEnd _ => true
  | .haltComplete _ => true
  | .trapQueueSlotFree _ => true
  | .packetNop _ => true
  | .gridLaunch _ => true
  | .nodeBind _ => true
  | .nodeUnbind _ => true
  | .nodeUnbindComplete _ _ => true
  | .indirectBuffer _ => true
  | .waitPacket _ => true
  | .signalPacket _ => true
  | .recordFence _ => true
  | .contextFence _ => true
  | .queueWaitSatisfied _ => true
  | .launchComplete _ _ => true
  | .nodeRecordOffer _ _ => true
  | .nodeTimerLapse _ _ => true
  | .batchFreeFormation _ _ => true
  | .create _ _ => true
  | .destroy _ => true
  | .destroyComplete _ => true
  | .suspend _ => true
  | .suspendComplete _ => true
  | .resume _ => true
  | .queueAdd _ _ => true
  | .queueStart _ _ => true
  | .queueStop _ _ => true
  | .queueReset _ _ => true
  | .groupResume _ _ _ => true
  | .groupAbort _ => true
  | .setQuantum _ _ => true
  | .migrate _ _ => true
  | .migrateComplete _ => true
  | .pageBringIn _ _ _ => true
  | .invalidationRequest _ _ => true
  | .invalidationComplete _ => true
  | .dirtySectorWriteback _ _ => true
  | .channelRetirement _ => true
  | .granuleCopyStart => true
  | .granuleCopyEnd => true
  | .sliceRetirement _ => true
  | .scrubSector _ _ => true
  | .stileRelease _ _ => true
  | .hostAccess _ _ _ _ => true
  | .linkId _ => true
  | .portEnable _ => true
  | .portTrained _ _ _ => true
  | .portRetrain _ _ => true
  | .portDisable _ => true
  | .portDrained _ => true
  | .strandRetire _ _ => true
  | .flitReceive _ _ _ _ => true
  | .flitNak _ _ => true
  | .remoteOperation _ => true
  | .collEntryPerform _ => true
  | .collPeerData _ _ _ _ => true
  | .collComplete _ => true
  | .bringUp _ => true
  | .mailboxMessage _ _ => true
  | .powerSample _ => true
  | .attestRequest => true
  | .diagRetirementRecords => true
  | .diagCoreDump _ => true
  | .diagRevive _ _ => true
  | .diagVacate _ => true
  | .diagVacateEnd _ => true
  | .diagSlotTable => true
  | .eventCauseClear _ => true
  | .tenantSet _ _ => true
  | .tenantClear _ => true
  | .keyLoad _ _ => true
  | .keyClear _ => true
  | .linkGrant _ => true
  | .linkRevoke _ => true
  | .registerWrite _ _ => true
  | .illPacket => true
  | .illOp _ => true
  | .futureOp _ => true
  | .scratchPageSwitchDone _ _ => true
  | .writeBackLanded _ => true
  | .powerOff => true
  | .hostErrorQueueSlotFree _ => true
  | .unlistedCommandCode _ _ => true
  | .splitLaunchArrival _ _ => true
  | .targetCompletionReport _ _ => true

end Sys2Proof
end

