-- ==== Sys2Proof/Decode.lean ====
section
/-!
DEFINITION. The decoder and the encoder, from 03_packet.md R72..R94: the fields of an
instruction word, the rows of the opcode map by major, rejection by name (R89), the header of a
packet (R73) and the laying out of words in bytes (R8, R72).
-/
namespace Sys2Proof

/-- Why a word is no instruction (R89, R90, R95). -/
inductive DecodeError where
  | illOp
  | futureOp
  deriving DecidableEq, Repr

/-- Bits [lo + len - 1 : lo] of an instruction word, as a number. -/
def fx (w : Word) (lo len : Nat) : Nat := (w.extractLsb' lo len).toNat

/-- The rows of major 0x00 (R90). -/
def decodeRow00 (w : Word) : Option Instr :=
  if fx w 0 26 == 0 then some (.nop)
  else if fx w 0 26 == 2097152 then some (.exit)
  else if fx w 0 26 == 4194304 then some (.yield)
  else if fx w 0 26 == 14680064 then some (.ipfInv)
  else if fx w 7 19 == 49152 then some (.sleep (w.extractLsb' 0 7))
  else if fx w 7 19 == 65536 then some (.trap (w.extractLsb' 0 7))
  else if fx w 7 19 == 81920 then some (.brk (w.extractLsb' 0 7))
  else if fx w 21 5 == 6 && fx w 7 7 == 0 then some (.ipf (w.extractLsb' 14 7) (w.extractLsb' 0 7))
  else none

/-- The rows of major 0x01 (R90). -/
def decodeRow01 (w : Word) : Option Instr :=
  if fx w 21 5 == 0 then some (.sadd (w.extractLsb' 14 7) (w.extractLsb' 7 7) (w.extractLsb' 0 7))
  else if fx w 21 5 == 1 then some (.ssub (w.extractLsb' 14 7) (w.extractLsb' 7 7) (w.extractLsb' 0 7))
  else if fx w 21 5 == 2 then some (.smul (w.extractLsb' 14 7) (w.extractLsb' 7 7) (w.extractLsb' 0 7))
  else if fx w 21 5 == 3 then some (.smulhiS32 (w.extractLsb' 14 7) (w.extractLsb' 7 7) (w.extractLsb' 0 7))
  else if fx w 21 5 == 4 then some (.smulhiU32 (w.extractLsb' 14 7) (w.extractLsb' 7 7) (w.extractLsb' 0 7))
  else if fx w 21 5 == 5 then some (.sand (w.extractLsb' 14 7) (w.extractLsb' 7 7) (w.extractLsb' 0 7))
  else if fx w 21 5 == 6 then some (.sor (w.extractLsb' 14 7) (w.extractLsb' 7 7) (w.extractLsb' 0 7))
  else if fx w 21 5 == 7 then some (.sxor (w.extractLsb' 14 7) (w.extractLsb' 7 7) (w.extractLsb' 0 7))
  else if fx w 21 5 == 8 then some (.sandn (w.extractLsb' 14 7) (w.extractLsb' 7 7) (w.extractLsb' 0 7))
  else if fx w 21 5 == 9 then some (.sshl (w.extractLsb' 14 7) (w.extractLsb' 7 7) (w.extractLsb' 0 7))
  else if fx w 21 5 == 10 then some (.sshr (w.extractLsb' 14 7) (w.extractLsb' 7 7) (w.extractLsb' 0 7))
  else if fx w 21 5 == 11 then some (.ssra (w.extractLsb' 14 7) (w.extractLsb' 7 7) (w.extractLsb' 0 7))
  else if fx w 21 5 == 12 then some (.sminS32 (w.extractLsb' 14 7) (w.extractLsb' 7 7) (w.extractLsb' 0 7))
  else if fx w 21 5 == 13 then some (.smaxS32 (w.extractLsb' 14 7) (w.extractLsb' 7 7) (w.extractLsb' 0 7))
  else if fx w 21 5 == 14 then some (.sminU32 (w.extractLsb' 14 7) (w.extractLsb' 7 7) (w.extractLsb' 0 7))
  else if fx w 21 5 == 15 then some (.smaxU32 (w.extractLsb' 14 7) (w.extractLsb' 7 7) (w.extractLsb' 0 7))
  else if fx w 21 5 == 16 then some (.sadd64 (w.extractLsb' 14 7) (w.extractLsb' 7 7) (w.extractLsb' 0 7))
  else if fx w 21 5 == 17 then some (.ssub64 (w.extractLsb' 14 7) (w.extractLsb' 7 7) (w.extractLsb' 0 7))
  else none

/-- The rows of major 0x02 (R90). -/
def decodeRow02 (w : Word) : Option Instr :=
  if fx w 21 5 == 0 then some (.saddI (w.extractLsb' 14 7) (w.extractLsb' 7 7) (w.extractLsb' 0 7))
  else if fx w 21 5 == 1 then some (.ssubI (w.extractLsb' 14 7) (w.extractLsb' 7 7) (w.extractLsb' 0 7))
  else if fx w 21 5 == 2 then some (.smulI (w.extractLsb' 14 7) (w.extractLsb' 7 7) (w.extractLsb' 0 7))
  else if fx w 21 5 == 3 then some (.smulhiS32I (w.extractLsb' 14 7) (w.extractLsb' 7 7) (w.extractLsb' 0 7))
  else if fx w 21 5 == 4 then some (.smulhiU32I (w.extractLsb' 14 7) (w.extractLsb' 7 7) (w.extractLsb' 0 7))
  else if fx w 21 5 == 5 then some (.sandI (w.extractLsb' 14 7) (w.extractLsb' 7 7) (w.extractLsb' 0 7))
  else if fx w 21 5 == 6 then some (.sorI (w.extractLsb' 14 7) (w.extractLsb' 7 7) (w.extractLsb' 0 7))
  else if fx w 21 5 == 7 then some (.sxorI (w.extractLsb' 14 7) (w.extractLsb' 7 7) (w.extractLsb' 0 7))
  else if fx w 21 5 == 8 then some (.sandnI (w.extractLsb' 14 7) (w.extractLsb' 7 7) (w.extractLsb' 0 7))
  else if fx w 21 5 == 9 then some (.sshlI (w.extractLsb' 14 7) (w.extractLsb' 7 7) (w.extractLsb' 0 7))
  else if fx w 21 5 == 10 then some (.sshrI (w.extractLsb' 14 7) (w.extractLsb' 7 7) (w.extractLsb' 0 7))
  else if fx w 21 5 == 11 then some (.ssraI (w.extractLsb' 14 7) (w.extractLsb' 7 7) (w.extractLsb' 0 7))
  else if fx w 21 5 == 12 then some (.sminS32I (w.extractLsb' 14 7) (w.extractLsb' 7 7) (w.extractLsb' 0 7))
  else if fx w 21 5 == 13 then some (.smaxS32I (w.extractLsb' 14 7) (w.extractLsb' 7 7) (w.extractLsb' 0 7))
  else if fx w 21 5 == 14 then some (.sminU32I (w.extractLsb' 14 7) (w.extractLsb' 7 7) (w.extractLsb' 0 7))
  else if fx w 21 5 == 15 then some (.smaxU32I (w.extractLsb' 14 7) (w.extractLsb' 7 7) (w.extractLsb' 0 7))
  else none

/-- The rows of major 0x03 (R90). -/
def decodeRow03 (w : Word) : Option Instr :=
  if fx w 20 6 == 40 && fx w 10 7 == 0 && fx w 3 4 == 0 then some (.cand (w.extractLsb' 17 3) (w.extractLsb' 7 3) (w.extractLsb' 0 3))
  else if fx w 20 6 == 44 && fx w 10 7 == 0 && fx w 3 4 == 0 then some (.cor (w.extractLsb' 17 3) (w.extractLsb' 7 3) (w.extractLsb' 0 3))
  else if fx w 20 6 == 48 && fx w 10 7 == 0 && fx w 3 4 == 0 then some (.cxor (w.extractLsb' 17 3) (w.extractLsb' 7 3) (w.extractLsb' 0 3))
  else if fx w 20 6 == 52 && fx w 10 7 == 0 && fx w 3 4 == 0 then some (.candn (w.extractLsb' 17 3) (w.extractLsb' 7 3) (w.extractLsb' 0 3))
  else if fx w 20 2 == 0 && fx w 14 3 == 0 then some (.scmp (w.extractLsb' 22 4) (w.extractLsb' 17 3) (w.extractLsb' 7 7) (w.extractLsb' 0 7))
  else if fx w 20 2 == 2 && fx w 14 3 == 0 then some (.scmpI (w.extractLsb' 22 4) (w.extractLsb' 17 3) (w.extractLsb' 7 7) (w.extractLsb' 0 7))
  else none

/-- The rows of major 0x04 (R90). -/
def decodeRow04 (w : Word) : Option Instr :=
  if fx w 21 5 == 0 && fx w 0 7 == 0 then some (.smov (w.extractLsb' 14 7) (w.extractLsb' 7 7))
  else if fx w 21 5 == 1 && fx w 7 7 == 0 then some (.sli (w.extractLsb' 14 7) (w.extractLsb' 0 7))
  else if fx w 21 5 == 5 && fx w 0 7 == 0 then some (.spopc (w.extractLsb' 14 7) (w.extractLsb' 7 7))
  else if fx w 21 5 == 6 && fx w 0 7 == 0 then some (.sclz (w.extractLsb' 14 7) (w.extractLsb' 7 7))
  else if fx w 21 5 == 7 && fx w 0 7 == 0 then some (.sctz (w.extractLsb' 14 7) (w.extractLsb' 7 7))
  else if fx w 21 5 == 8 && fx w 0 7 == 0 then some (.sbrev (w.extractLsb' 14 7) (w.extractLsb' 7 7))
  else if fx w 21 5 == 2 then some (.sbfxU32 (w.extractLsb' 14 7) (w.extractLsb' 7 7) (w.extractLsb' 0 7))
  else if fx w 21 5 == 3 then some (.sbfxS32 (w.extractLsb' 14 7) (w.extractLsb' 7 7) (w.extractLsb' 0 7))
  else if fx w 21 5 == 4 then some (.sbfi (w.extractLsb' 14 7) (w.extractLsb' 7 7) (w.extractLsb' 0 7))
  else none

/-- The rows of major 0x05 (R90). -/
def decodeRow05 (w : Word) : Option Instr :=
  if fx w 20 6 == 1 then some (.bany (w.extractLsb' 0 20))
  else if fx w 20 6 == 5 then some (.ball (w.extractLsb' 0 20))
  else if fx w 20 6 == 9 then some (.bnone (w.extractLsb' 0 20))
  else if fx w 20 3 == 0 then some (.bc (w.extractLsb' 23 3) (w.extractLsb' 0 20))
  else if fx w 20 3 == 4 then some (.bnc (w.extractLsb' 23 3) (w.extractLsb' 0 20))
  else none

/-- The rows of major 0x06 (R90). -/
def decodeRow06 (w : Word) : Option Instr :=
  if fx w 0 26 == 3145728 then some (.ret)
  else if fx w 7 19 == 16384 then some (.jmp (w.extractLsb' 0 7))
  else if fx w 20 6 == 0 then some (.br (w.extractLsb' 0 20))
  else if fx w 20 6 == 1 then some (.call (w.extractLsb' 0 20))
  else none

/-- The rows of major 0x07 (R90). -/
def decodeRow07 (w : Word) : Option Instr :=
  if fx w 21 5 == 4 && fx w 0 14 == 0 then some (.mpop (w.extractLsb' 14 7))
  else if fx w 21 5 == 2 && fx w 4 10 == 0 then some (.mpush (w.extractLsb' 14 7) (w.extractLsb' 0 4))
  else if fx w 21 5 == 3 && fx w 4 10 == 0 then some (.mflip (w.extractLsb' 14 7) (w.extractLsb' 0 4))
  else if fx w 11 15 == 5120 then some (.waitc (w.extractLsb' 7 4) (w.extractLsb' 0 7))
  else if fx w 11 15 == 5124 then some (.waitcI (w.extractLsb' 7 4) (w.extractLsb' 0 7))
  else if fx w 21 5 == 6 && fx w 4 10 == 0 then some (.mvps (w.extractLsb' 14 7) (w.extractLsb' 0 4))
  else if fx w 18 8 == 56 && fx w 0 7 == 0 then some (.mvsp (w.extractLsb' 14 4) (w.extractLsb' 7 7))
  else if fx w 21 5 == 0 && fx w 7 7 == 0 then some (.rsr (w.extractLsb' 14 7) (w.extractLsb' 0 7))
  else if fx w 14 12 == 128 then some (.wsr (w.extractLsb' 7 7) (w.extractLsb' 0 7))
  else none

/-- The rows of major 0x08 (R90). -/
def decodeRow08 (w : Word) : Option Instr :=
  if fx w 21 5 == 0 then some (.vaddS32 (w.extractLsb' 14 7) (w.extractLsb' 7 7) (w.extractLsb' 0 7))
  else if fx w 21 5 == 1 then some (.vsubS32 (w.extractLsb' 14 7) (w.extractLsb' 7 7) (w.extractLsb' 0 7))
  else if fx w 21 5 == 2 then some (.vaddSatS32 (w.extractLsb' 14 7) (w.extractLsb' 7 7) (w.extractLsb' 0 7))
  else if fx w 21 5 == 3 then some (.vaddSatU32 (w.extractLsb' 14 7) (w.extractLsb' 7 7) (w.extractLsb' 0 7))
  else if fx w 21 5 == 4 then some (.vsubSatS32 (w.extractLsb' 14 7) (w.extractLsb' 7 7) (w.extractLsb' 0 7))
  else if fx w 21 5 == 5 then some (.vsubSatU32 (w.extractLsb' 14 7) (w.extractLsb' 7 7) (w.extractLsb' 0 7))
  else if fx w 21 5 == 6 then some (.vminS32 (w.extractLsb' 14 7) (w.extractLsb' 7 7) (w.extractLsb' 0 7))
  else if fx w 21 5 == 7 then some (.vmaxS32 (w.extractLsb' 14 7) (w.extractLsb' 7 7) (w.extractLsb' 0 7))
  else if fx w 21 5 == 8 then some (.vminU32 (w.extractLsb' 14 7) (w.extractLsb' 7 7) (w.extractLsb' 0 7))
  else if fx w 21 5 == 9 then some (.vmaxU32 (w.extractLsb' 14 7) (w.extractLsb' 7 7) (w.extractLsb' 0 7))
  else if fx w 21 5 == 10 then some (.vshl (w.extractLsb' 14 7) (w.extractLsb' 7 7) (w.extractLsb' 0 7))
  else if fx w 21 5 == 11 then some (.vshr (w.extractLsb' 14 7) (w.extractLsb' 7 7) (w.extractLsb' 0 7))
  else if fx w 21 5 == 12 then some (.vsra (w.extractLsb' 14 7) (w.extractLsb' 7 7) (w.extractLsb' 0 7))
  else if fx w 21 5 == 13 then some (.vabsdS32 (w.extractLsb' 14 7) (w.extractLsb' 7 7) (w.extractLsb' 0 7))
  else if fx w 21 5 == 14 then some (.vadd64 (w.extractLsb' 14 7) (w.extractLsb' 7 7) (w.extractLsb' 0 7))
  else if fx w 21 5 == 15 then some (.vsub64 (w.extractLsb' 14 7) (w.extractLsb' 7 7) (w.extractLsb' 0 7))
  else none

/-- The rows of major 0x09 (R90). -/
def decodeRow09 (w : Word) : Option Instr :=
  if fx w 21 5 == 0 then some (.vaddS32S (w.extractLsb' 14 7) (w.extractLsb' 7 7) (w.extractLsb' 0 7))
  else if fx w 21 5 == 1 then some (.vsubS32S (w.extractLsb' 14 7) (w.extractLsb' 7 7) (w.extractLsb' 0 7))
  else if fx w 21 5 == 2 then some (.vaddSatS32S (w.extractLsb' 14 7) (w.extractLsb' 7 7) (w.extractLsb' 0 7))
  else if fx w 21 5 == 3 then some (.vaddSatU32S (w.extractLsb' 14 7) (w.extractLsb' 7 7) (w.extractLsb' 0 7))
  else if fx w 21 5 == 4 then some (.vsubSatS32S (w.extractLsb' 14 7) (w.extractLsb' 7 7) (w.extractLsb' 0 7))
  else if fx w 21 5 == 5 then some (.vsubSatU32S (w.extractLsb' 14 7) (w.extractLsb' 7 7) (w.extractLsb' 0 7))
  else if fx w 21 5 == 6 then some (.vminS32S (w.extractLsb' 14 7) (w.extractLsb' 7 7) (w.extractLsb' 0 7))
  else if fx w 21 5 == 7 then some (.vmaxS32S (w.extractLsb' 14 7) (w.extractLsb' 7 7) (w.extractLsb' 0 7))
  else if fx w 21 5 == 8 then some (.vminU32S (w.extractLsb' 14 7) (w.extractLsb' 7 7) (w.extractLsb' 0 7))
  else if fx w 21 5 == 9 then some (.vmaxU32S (w.extractLsb' 14 7) (w.extractLsb' 7 7) (w.extractLsb' 0 7))
  else if fx w 21 5 == 10 then some (.vshlS (w.extractLsb' 14 7) (w.extractLsb' 7 7) (w.extractLsb' 0 7))
  else if fx w 21 5 == 11 then some (.vshrS (w.extractLsb' 14 7) (w.extractLsb' 7 7) (w.extractLsb' 0 7))
  else if fx w 21 5 == 12 then some (.vsraS (w.extractLsb' 14 7) (w.extractLsb' 7 7) (w.extractLsb' 0 7))
  else if fx w 21 5 == 13 then some (.vabsdS32S (w.extractLsb' 14 7) (w.extractLsb' 7 7) (w.extractLsb' 0 7))
  else none

/-- The rows of major 0x0A (R90). -/
def decodeRow0A (w : Word) : Option Instr :=
  if fx w 21 5 == 0 then some (.vaddS32I (w.extractLsb' 14 7) (w.extractLsb' 7 7) (w.extractLsb' 0 7))
  else if fx w 21 5 == 1 then some (.vsubS32I (w.extractLsb' 14 7) (w.extractLsb' 7 7) (w.extractLsb' 0 7))
  else if fx w 21 5 == 2 then some (.vaddSatS32I (w.extractLsb' 14 7) (w.extractLsb' 7 7) (w.extractLsb' 0 7))
  else if fx w 21 5 == 3 then some (.vaddSatU32I (w.extractLsb' 14 7) (w.extractLsb' 7 7) (w.extractLsb' 0 7))
  else if fx w 21 5 == 4 then some (.vsubSatS32I (w.extractLsb' 14 7) (w.extractLsb' 7 7) (w.extractLsb' 0 7))
  else if fx w 21 5 == 5 then some (.vsubSatU32I (w.extractLsb' 14 7) (w.extractLsb' 7 7) (w.extractLsb' 0 7))
  else if fx w 21 5 == 6 then some (.vminS32I (w.extractLsb' 14 7) (w.extractLsb' 7 7) (w.extractLsb' 0 7))
  else if fx w 21 5 == 7 then some (.vmaxS32I (w.extractLsb' 14 7) (w.extractLsb' 7 7) (w.extractLsb' 0 7))
  else if fx w 21 5 == 8 then some (.vminU32I (w.extractLsb' 14 7) (w.extractLsb' 7 7) (w.extractLsb' 0 7))
  else if fx w 21 5 == 9 then some (.vmaxU32I (w.extractLsb' 14 7) (w.extractLsb' 7 7) (w.extractLsb' 0 7))
  else if fx w 21 5 == 10 then some (.vshlI (w.extractLsb' 14 7) (w.extractLsb' 7 7) (w.extractLsb' 0 7))
  else if fx w 21 5 == 11 then some (.vshrI (w.extractLsb' 14 7) (w.extractLsb' 7 7) (w.extractLsb' 0 7))
  else if fx w 21 5 == 12 then some (.vsraI (w.extractLsb' 14 7) (w.extractLsb' 7 7) (w.extractLsb' 0 7))
  else if fx w 21 5 == 13 then some (.vabsdS32I (w.extractLsb' 14 7) (w.extractLsb' 7 7) (w.extractLsb' 0 7))
  else none

/-- The rows of major 0x0B (R90). -/
def decodeRow0B (w : Word) : Option Instr :=
  if fx w 21 5 == 0 then some (.vmulLo (w.extractLsb' 14 7) (w.extractLsb' 7 7) (w.extractLsb' 0 7))
  else if fx w 21 5 == 1 then some (.vmulhiS32 (w.extractLsb' 14 7) (w.extractLsb' 7 7) (w.extractLsb' 0 7))
  else if fx w 21 5 == 2 then some (.vmulhiU32 (w.extractLsb' 14 7) (w.extractLsb' 7 7) (w.extractLsb' 0 7))
  else if fx w 21 5 == 3 then some (.vmadLo (w.extractLsb' 14 7) (w.extractLsb' 7 7) (w.extractLsb' 0 7))
  else if fx w 21 5 == 4 then some (.vmadSatS32 (w.extractLsb' 14 7) (w.extractLsb' 7 7) (w.extractLsb' 0 7))
  else if fx w 21 5 == 5 then some (.vmulWideS32 (w.extractLsb' 14 7) (w.extractLsb' 7 7) (w.extractLsb' 0 7))
  else if fx w 21 5 == 6 then some (.vmulWideU32 (w.extractLsb' 14 7) (w.extractLsb' 7 7) (w.extractLsb' 0 7))
  else none

/-- The rows of major 0x0C (R90). -/
def decodeRow0C (w : Word) : Option Instr :=
  if fx w 21 5 == 4 && fx w 0 7 == 0 then some (.vnot (w.extractLsb' 14 7) (w.extractLsb' 7 7))
  else if fx w 21 5 == 5 && fx w 0 7 == 0 then some (.vpopc (w.extractLsb' 14 7) (w.extractLsb' 7 7))
  else if fx w 21 5 == 6 && fx w 0 7 == 0 then some (.vclz (w.extractLsb' 14 7) (w.extractLsb' 7 7))
  else if fx w 21 5 == 7 && fx w 0 7 == 0 then some (.vbrev (w.extractLsb' 14 7) (w.extractLsb' 7 7))
  else if fx w 21 5 == 0 then some (.vand (w.extractLsb' 14 7) (w.extractLsb' 7 7) (w.extractLsb' 0 7))
  else if fx w 21 5 == 1 then some (.vor (w.extractLsb' 14 7) (w.extractLsb' 7 7) (w.extractLsb' 0 7))
  else if fx w 21 5 == 2 then some (.vxor (w.extractLsb' 14 7) (w.extractLsb' 7 7) (w.extractLsb' 0 7))
  else if fx w 21 5 == 3 then some (.vandn (w.extractLsb' 14 7) (w.extractLsb' 7 7) (w.extractLsb' 0 7))
  else if fx w 21 5 == 8 then some (.vbfxU32 (w.extractLsb' 14 7) (w.extractLsb' 7 7) (w.extractLsb' 0 7))
  else if fx w 21 5 == 9 then some (.vbfxS32 (w.extractLsb' 14 7) (w.extractLsb' 7 7) (w.extractLsb' 0 7))
  else if fx w 21 5 == 10 then some (.vbfi (w.extractLsb' 14 7) (w.extractLsb' 7 7) (w.extractLsb' 0 7))
  else if fx w 21 5 == 11 then some (.vfshl (w.extractLsb' 14 7) (w.extractLsb' 7 7) (w.extractLsb' 0 7))
  else if fx w 21 5 == 12 then some (.vfshr (w.extractLsb' 14 7) (w.extractLsb' 7 7) (w.extractLsb' 0 7))
  else none

/-- The rows of major 0x0D (R90). -/
def decodeRow0D (w : Word) : Option Instr :=
  if true then some (.vcmp (w.extractLsb' 21 5) (w.extractLsb' 17 4) (w.extractLsb' 14 3) (w.extractLsb' 7 7) (w.extractLsb' 0 7))
  else none

/-- The rows of major 0x0E (R90). -/
def decodeRow0E (w : Word) : Option Instr :=
  if fx w 18 8 == 48 && fx w 0 14 == 0 then some (.pset (w.extractLsb' 14 4))
  else if fx w 18 8 == 56 && fx w 0 14 == 0 then some (.pclr (w.extractLsb' 14 4))
  else if fx w 18 8 == 32 && fx w 11 3 == 0 && fx w 0 7 == 0 then some (.pnot (w.extractLsb' 14 4) (w.extractLsb' 7 4))
  else if fx w 18 8 == 40 && fx w 11 3 == 0 && fx w 0 7 == 0 then some (.pmov (w.extractLsb' 14 4) (w.extractLsb' 7 4))
  else if fx w 18 8 == 0 && fx w 11 3 == 0 && fx w 4 3 == 0 then some (.pand (w.extractLsb' 14 4) (w.extractLsb' 7 4) (w.extractLsb' 0 4))
  else if fx w 18 8 == 8 && fx w 11 3 == 0 && fx w 4 3 == 0 then some (.por (w.extractLsb' 14 4) (w.extractLsb' 7 4) (w.extractLsb' 0 4))
  else if fx w 18 8 == 16 && fx w 11 3 == 0 && fx w 4 3 == 0 then some (.pxor (w.extractLsb' 14 4) (w.extractLsb' 7 4) (w.extractLsb' 0 4))
  else if fx w 18 8 == 24 && fx w 11 3 == 0 && fx w 4 3 == 0 then some (.pandn (w.extractLsb' 14 4) (w.extractLsb' 7 4) (w.extractLsb' 0 4))
  else if true then some (.vsel (w.extractLsb' 21 5) (w.extractLsb' 14 7) (w.extractLsb' 7 7) (w.extractLsb' 0 7))
  else none

/-- The rows of major 0x0F (R90). -/
def decodeRow0F (w : Word) : Option Instr :=
  if fx w 21 5 == 4 && fx w 0 7 == 0 then some (.vsatS8S32 (w.extractLsb' 14 7) (w.extractLsb' 7 7))
  else if fx w 21 5 == 5 && fx w 0 7 == 0 then some (.vsatU8S32 (w.extractLsb' 14 7) (w.extractLsb' 7 7))
  else if fx w 21 5 == 6 && fx w 0 7 == 0 then some (.vsatS16S32 (w.extractLsb' 14 7) (w.extractLsb' 7 7))
  else if fx w 21 5 == 7 && fx w 0 7 == 0 then some (.vsatU16S32 (w.extractLsb' 14 7) (w.extractLsb' 7 7))
  else if fx w 21 5 == 8 && fx w 0 7 == 0 then some (.vsatS32S64 (w.extractLsb' 14 7) (w.extractLsb' 7 7))
  else if fx w 21 5 == 0 then some (.vsext8 (w.extractLsb' 14 7) (w.extractLsb' 7 7) (w.extractLsb' 0 7))
  else if fx w 21 5 == 1 then some (.vzext8 (w.extractLsb' 14 7) (w.extractLsb' 7 7) (w.extractLsb' 0 7))
  else if fx w 21 5 == 2 then some (.vsext16 (w.extractLsb' 14 7) (w.extractLsb' 7 7) (w.extractLsb' 0 7))
  else if fx w 21 5 == 3 then some (.vzext16 (w.extractLsb' 14 7) (w.extractLsb' 7 7) (w.extractLsb' 0 7))
  else none

/-- The rows of major 0x10 (R90). -/
def decodeRow10 (w : Word) : Option Instr :=
  if fx w 21 5 == 24 && fx w 0 7 == 0 then some (.fabs (w.extractLsb' 14 7) (w.extractLsb' 7 7))
  else if fx w 21 5 == 28 && fx w 0 7 == 0 then some (.fneg (w.extractLsb' 14 7) (w.extractLsb' 7 7))
  else if fx w 21 5 == 12 then some (.fmin (w.extractLsb' 14 7) (w.extractLsb' 7 7) (w.extractLsb' 0 7))
  else if fx w 21 5 == 16 then some (.fmax (w.extractLsb' 14 7) (w.extractLsb' 7 7) (w.extractLsb' 0 7))
  else if fx w 21 5 == 20 then some (.fcopysign (w.extractLsb' 14 7) (w.extractLsb' 7 7) (w.extractLsb' 0 7))
  else if fx w 23 3 == 0 then some (.fadd (w.extractLsb' 21 2) (w.extractLsb' 14 7) (w.extractLsb' 7 7) (w.extractLsb' 0 7))
  else if fx w 23 3 == 1 then some (.fsub (w.extractLsb' 21 2) (w.extractLsb' 14 7) (w.extractLsb' 7 7) (w.extractLsb' 0 7))
  else if fx w 23 3 == 2 then some (.fmul (w.extractLsb' 21 2) (w.extractLsb' 14 7) (w.extractLsb' 7 7) (w.extractLsb' 0 7))
  else none

/-- The rows of major 0x11 (R90). -/
def decodeRow11 (w : Word) : Option Instr :=
  if fx w 21 5 == 8 then some (.fminS (w.extractLsb' 14 7) (w.extractLsb' 7 7) (w.extractLsb' 0 7))
  else if fx w 21 5 == 24 then some (.fminI (w.extractLsb' 14 7) (w.extractLsb' 7 7) (w.extractLsb' 0 7))
  else if fx w 21 5 == 12 then some (.fmaxS (w.extractLsb' 14 7) (w.extractLsb' 7 7) (w.extractLsb' 0 7))
  else if fx w 21 5 == 28 then some (.fmaxI (w.extractLsb' 14 7) (w.extractLsb' 7 7) (w.extractLsb' 0 7))
  else if fx w 23 3 == 0 then some (.faddS (w.extractLsb' 21 2) (w.extractLsb' 14 7) (w.extractLsb' 7 7) (w.extractLsb' 0 7))
  else if fx w 23 3 == 4 then some (.faddI (w.extractLsb' 21 2) (w.extractLsb' 14 7) (w.extractLsb' 7 7) (w.extractLsb' 0 7))
  else if fx w 23 3 == 1 then some (.fmulS (w.extractLsb' 21 2) (w.extractLsb' 14 7) (w.extractLsb' 7 7) (w.extractLsb' 0 7))
  else if fx w 23 3 == 5 then some (.fmulI (w.extractLsb' 21 2) (w.extractLsb' 14 7) (w.extractLsb' 7 7) (w.extractLsb' 0 7))
  else none

/-- The rows of major 0x12 (R90). -/
def decodeRow12 (w : Word) : Option Instr :=
  if fx w 23 3 == 0 then some (.ffma (w.extractLsb' 21 2) (w.extractLsb' 14 7) (w.extractLsb' 7 7) (w.extractLsb' 0 7))
  else if fx w 23 3 == 1 then some (.ffms (w.extractLsb' 21 2) (w.extractLsb' 14 7) (w.extractLsb' 7 7) (w.extractLsb' 0 7))
  else if fx w 23 3 == 2 then some (.ffnma (w.extractLsb' 21 2) (w.extractLsb' 14 7) (w.extractLsb' 7 7) (w.extractLsb' 0 7))
  else if fx w 23 3 == 3 then some (.ffnms (w.extractLsb' 21 2) (w.extractLsb' 14 7) (w.extractLsb' 7 7) (w.extractLsb' 0 7))
  else if fx w 23 3 == 4 then some (.ffmaS (w.extractLsb' 21 2) (w.extractLsb' 14 7) (w.extractLsb' 7 7) (w.extractLsb' 0 7))
  else if fx w 23 3 == 5 then some (.ffmsS (w.extractLsb' 21 2) (w.extractLsb' 14 7) (w.extractLsb' 7 7) (w.extractLsb' 0 7))
  else if fx w 23 3 == 6 then some (.ffnmaS (w.extractLsb' 21 2) (w.extractLsb' 14 7) (w.extractLsb' 7 7) (w.extractLsb' 0 7))
  else if fx w 23 3 == 7 then some (.ffnmsS (w.extractLsb' 21 2) (w.extractLsb' 14 7) (w.extractLsb' 7 7) (w.extractLsb' 0 7))
  else none

/-- The rows of major 0x13 (R90). -/
def decodeRow13 (w : Word) : Option Instr :=
  if fx w 21 5 == 12 then some (.hminF16x2 (w.extractLsb' 14 7) (w.extractLsb' 7 7) (w.extractLsb' 0 7))
  else if fx w 21 5 == 28 then some (.hminBf16x2 (w.extractLsb' 14 7) (w.extractLsb' 7 7) (w.extractLsb' 0 7))
  else if fx w 23 3 == 0 then some (.haddF16x2 (w.extractLsb' 21 2) (w.extractLsb' 14 7) (w.extractLsb' 7 7) (w.extractLsb' 0 7))
  else if fx w 23 3 == 1 then some (.hmulF16x2 (w.extractLsb' 21 2) (w.extractLsb' 14 7) (w.extractLsb' 7 7) (w.extractLsb' 0 7))
  else if fx w 23 3 == 2 then some (.hfmaF16x2 (w.extractLsb' 21 2) (w.extractLsb' 14 7) (w.extractLsb' 7 7) (w.extractLsb' 0 7))
  else if fx w 23 3 == 4 then some (.haddBf16x2 (w.extractLsb' 21 2) (w.extractLsb' 14 7) (w.extractLsb' 7 7) (w.extractLsb' 0 7))
  else if fx w 23 3 == 5 then some (.hmulBf16x2 (w.extractLsb' 21 2) (w.extractLsb' 14 7) (w.extractLsb' 7 7) (w.extractLsb' 0 7))
  else if fx w 23 3 == 6 then some (.hfmaBf16x2 (w.extractLsb' 21 2) (w.extractLsb' 14 7) (w.extractLsb' 7 7) (w.extractLsb' 0 7))
  else none

/-- The rows of major 0x14 (R90). -/
def decodeRow14 (w : Word) : Option Instr :=
  if fx w 14 3 == 0 then some (.vcmpF32 (w.extractLsb' 21 5) (w.extractLsb' 17 4) (w.extractLsb' 7 7) (w.extractLsb' 0 7))
  else none

/-- The rows of major 0x15 (R90). -/
def decodeRow15 (w : Word) : Option Instr :=
  if fx w 19 1 == 0 then some (.vcvtWiden (w.extractLsb' 24 2) (w.extractLsb' 20 4) (w.extractLsb' 17 2) (w.extractLsb' 14 3) (w.extractLsb' 7 7) (w.extractLsb' 0 7))
  else if fx w 19 1 == 1 then some (.vcvtNarrow (w.extractLsb' 24 2) (w.extractLsb' 20 4) (w.extractLsb' 17 2) (w.extractLsb' 14 3) (w.extractLsb' 7 7) (w.extractLsb' 0 7))
  else none

/-- The rows of major 0x16 (R90). -/
def decodeRow16 (w : Word) : Option Instr :=
  if fx w 21 5 == 0 && fx w 0 7 == 0 then some (.vrcp (w.extractLsb' 14 7) (w.extractLsb' 7 7))
  else if fx w 21 5 == 1 && fx w 0 7 == 0 then some (.vrsq (w.extractLsb' 14 7) (w.extractLsb' 7 7))
  else if fx w 21 5 == 2 && fx w 0 7 == 0 then some (.vsqrt (w.extractLsb' 14 7) (w.extractLsb' 7 7))
  else if fx w 21 5 == 3 && fx w 0 7 == 0 then some (.vexp2 (w.extractLsb' 14 7) (w.extractLsb' 7 7))
  else if fx w 21 5 == 4 && fx w 0 7 == 0 then some (.vlog2 (w.extractLsb' 14 7) (w.extractLsb' 7 7))
  else if fx w 21 5 == 5 && fx w 0 7 == 0 then some (.vsinpi (w.extractLsb' 14 7) (w.extractLsb' 7 7))
  else if fx w 21 5 == 6 && fx w 0 7 == 0 then some (.vcospi (w.extractLsb' 14 7) (w.extractLsb' 7 7))
  else if fx w 21 5 == 7 && fx w 0 7 == 0 then some (.vtanh (w.extractLsb' 14 7) (w.extractLsb' 7 7))
  else none

/-- The rows of major 0x17 (R90). -/
def decodeRow17 (w : Word) : Option Instr :=
  if fx w 24 2 == 0 then some (.fdot (w.extractLsb' 19 5) (w.extractLsb' 14 5) (w.extractLsb' 7 7) (w.extractLsb' 0 7))
  else if fx w 24 2 == 1 then some (.idot (w.extractLsb' 19 5) (w.extractLsb' 14 5) (w.extractLsb' 7 7) (w.extractLsb' 0 7))
  else if fx w 24 2 == 2 then some (.idotSat (w.extractLsb' 19 5) (w.extractLsb' 14 5) (w.extractLsb' 7 7) (w.extractLsb' 0 7))
  else none

/-- The rows of major 0x18 (R90). -/
def decodeRow18 (w : Word) : Option Instr :=
  if fx w 21 5 == 0 then some (.vshflIdx (w.extractLsb' 14 7) (w.extractLsb' 7 7) (w.extractLsb' 0 7))
  else if fx w 21 5 == 1 then some (.vshflUp (w.extractLsb' 14 7) (w.extractLsb' 7 7) (w.extractLsb' 0 7))
  else if fx w 21 5 == 2 then some (.vshflDown (w.extractLsb' 14 7) (w.extractLsb' 7 7) (w.extractLsb' 0 7))
  else if fx w 21 5 == 3 then some (.vshflXor (w.extractLsb' 14 7) (w.extractLsb' 7 7) (w.extractLsb' 0 7))
  else if fx w 21 5 == 4 then some (.vbcast (w.extractLsb' 14 7) (w.extractLsb' 7 7) (w.extractLsb' 0 7))
  else none

/-- The rows of major 0x19 (R90). -/
def decodeRow19 (w : Word) : Option Instr :=
  if fx w 17 9 == 0 && fx w 11 3 == 0 && fx w 0 7 == 0 then some (.vsome (w.extractLsb' 14 3) (w.extractLsb' 7 4))
  else if fx w 17 9 == 16 && fx w 11 3 == 0 && fx w 0 7 == 0 then some (.vevery (w.extractLsb' 14 3) (w.extractLsb' 7 4))
  else if fx w 21 5 == 2 && fx w 11 3 == 0 && fx w 0 7 == 0 then some (.vbits (w.extractLsb' 14 7) (w.extractLsb' 7 4))
  else if fx w 21 5 == 3 && fx w 0 7 == 0 then some (.vredAddS32 (w.extractLsb' 14 7) (w.extractLsb' 7 7))
  else if fx w 21 5 == 4 && fx w 0 7 == 0 then some (.vredMinS32 (w.extractLsb' 14 7) (w.extractLsb' 7 7))
  else if fx w 21 5 == 5 && fx w 0 7 == 0 then some (.vredMaxS32 (w.extractLsb' 14 7) (w.extractLsb' 7 7))
  else if fx w 21 5 == 6 && fx w 0 7 == 0 then some (.vredAddF32 (w.extractLsb' 14 7) (w.extractLsb' 7 7))
  else if fx w 21 5 == 7 && fx w 0 7 == 0 then some (.vredMinF32 (w.extractLsb' 14 7) (w.extractLsb' 7 7))
  else if fx w 21 5 == 8 && fx w 0 7 == 0 then some (.vredMaxF32 (w.extractLsb' 14 7) (w.extractLsb' 7 7))
  else if fx w 21 5 == 9 && fx w 0 7 == 0 then some (.vscanAddS32 (w.extractLsb' 14 7) (w.extractLsb' 7 7))
  else if fx w 21 5 == 10 && fx w 0 7 == 0 then some (.vscanxAddS32 (w.extractLsb' 14 7) (w.extractLsb' 7 7))
  else if fx w 21 5 == 11 && fx w 0 7 == 0 then some (.vscanAddF32 (w.extractLsb' 14 7) (w.extractLsb' 7 7))
  else if fx w 21 5 == 12 && fx w 0 7 == 0 then some (.vredAnd (w.extractLsb' 14 7) (w.extractLsb' 7 7))
  else if fx w 21 5 == 13 && fx w 0 7 == 0 then some (.vredOr (w.extractLsb' 14 7) (w.extractLsb' 7 7))
  else if fx w 21 5 == 14 && fx w 0 7 == 0 then some (.vredXor (w.extractLsb' 14 7) (w.extractLsb' 7 7))
  else none

/-- The rows of major 0x1A (R90). -/
def decodeRow1A (w : Word) : Option Instr :=
  if fx w 18 8 == 16 && fx w 0 7 == 0 then some (.vlead (w.extractLsb' 14 4) (w.extractLsb' 7 7))
  else if fx w 21 5 == 0 && fx w 0 7 == 0 then some (.vmatch (w.extractLsb' 14 7) (w.extractLsb' 7 7))
  else if fx w 21 5 == 1 && fx w 0 7 == 0 then some (.vrank (w.extractLsb' 14 7) (w.extractLsb' 7 7))
  else if fx w 21 5 == 5 && fx w 0 7 == 0 then some (.vargmaxF32 (w.extractLsb' 14 7) (w.extractLsb' 7 7))
  else if fx w 21 5 == 6 && fx w 0 7 == 0 then some (.vargmaxS32 (w.extractLsb' 14 7) (w.extractLsb' 7 7))
  else if fx w 21 5 == 3 then some (.visect (w.extractLsb' 14 7) (w.extractLsb' 7 7) (w.extractLsb' 0 7))
  else if fx w 21 5 == 4 then some (.vtopk (w.extractLsb' 14 7) (w.extractLsb' 7 7) (w.extractLsb' 0 7))
  else none

/-- The rows of major 0x1B (R90). -/
def decodeRow1B (w : Word) : Option Instr :=
  if fx w 21 5 == 0 && fx w 0 14 == 0 then some (.vlid (w.extractLsb' 14 7))
  else if fx w 21 5 == 1 && fx w 0 7 == 0 then some (.vrnd (w.extractLsb' 14 7) (w.extractLsb' 7 7))
  else none

/-- The rows of major 0x20 (R90). -/
def decodeRow20 (w : Word) : Option Instr :=
  if fx w 0 26 == 2097152 then some (.cunbind)
  else if fx w 18 8 == 16 && fx w 0 14 == 128 then some (.cgetP (w.extractLsb' 14 4))
  else if fx w 7 19 == 0 then some (.cbind (w.extractLsb' 0 7))
  else if fx w 21 5 == 2 && fx w 0 14 == 0 then some (.cget (w.extractLsb' 14 7))
  else if fx w 14 12 == 384 && fx w 0 7 == 0 then some (.cset (w.extractLsb' 7 7))
  else none

/-- The rows of major 0x21 (R90). -/
noncomputable def decodeRow21 (w : Word) : Option Instr :=
  if fx w 21 5 == 0 then some (.cadd (w.extractLsb' 14 7) (w.extractLsb' 7 7) (w.extractLsb' 0 7))
  else if fx w 21 5 == 1 then some (.cadc (w.extractLsb' 14 7) (w.extractLsb' 7 7) (w.extractLsb' 0 7))
  else if fx w 21 5 == 2 then some (.csub (w.extractLsb' 14 7) (w.extractLsb' 7 7) (w.extractLsb' 0 7))
  else if fx w 21 5 == 3 then some (.csbb (w.extractLsb' 14 7) (w.extractLsb' 7 7) (w.extractLsb' 0 7))
  else if fx w 21 5 == 4 then some (.caddSat (w.extractLsb' 14 7) (w.extractLsb' 7 7) (w.extractLsb' 0 7))
  else if fx w 21 5 == 5 then some (.cadcSat (w.extractLsb' 14 7) (w.extractLsb' 7 7) (w.extractLsb' 0 7))
  else if fx w 21 5 == 6 then some (.csubSat (w.extractLsb' 14 7) (w.extractLsb' 7 7) (w.extractLsb' 0 7))
  else if fx w 21 5 == 7 then some (.csbbSat (w.extractLsb' 14 7) (w.extractLsb' 7 7) (w.extractLsb' 0 7))
  else if fx w 18 3 == 0 then some (.ccmp (w.extractLsb' 21 5) (w.extractLsb' 14 4) (w.extractLsb' 7 7) (w.extractLsb' 0 7))
  else none

/-- The rows of major 0x22 (R90). -/
noncomputable def decodeRow22 (w : Word) : Option Instr :=
  if fx w 21 5 == 0 then some (.cshl (w.extractLsb' 14 7) (w.extractLsb' 7 7) (w.extractLsb' 0 7))
  else if fx w 21 5 == 1 then some (.cshr (w.extractLsb' 14 7) (w.extractLsb' 7 7) (w.extractLsb' 0 7))
  else if fx w 21 5 == 2 then some (.cshlw (w.extractLsb' 14 7) (w.extractLsb' 7 7) (w.extractLsb' 0 7))
  else if fx w 21 5 == 3 then some (.cshrw (w.extractLsb' 14 7) (w.extractLsb' 7 7) (w.extractLsb' 0 7))
  else if fx w 21 5 == 4 then some (.cmac (w.extractLsb' 14 7) (w.extractLsb' 7 7) (w.extractLsb' 0 7))
  else none

/-- The rows of major 0x23 (R90). -/
noncomputable def decodeRow23 (w : Word) : Option Instr :=
  if fx w 25 1 == 0 then some (.cld (w.extractLsb' 23 2) (w.extractLsb' 21 2) (w.extractLsb' 19 2) (w.extractLsb' 14 5) (w.extractLsb' 7 7) (w.extractLsb' 0 7))
  else if fx w 25 1 == 1 then some (.cst (w.extractLsb' 23 2) (w.extractLsb' 21 2) (w.extractLsb' 19 2) (w.extractLsb' 14 5) (w.extractLsb' 7 7) (w.extractLsb' 0 7))
  else none

/-- The rows of major 0x24 (R90). -/
noncomputable def decodeRow24 (w : Word) : Option Instr :=
  if true then some (.ld (w.extractLsb' 25 1) (w.extractLsb' 23 2) (w.extractLsb' 21 2) (w.extractLsb' 19 2) (w.extractLsb' 14 5) (w.extractLsb' 7 7) (w.extractLsb' 0 7))
  else none

/-- The rows of major 0x25 (R90). -/
noncomputable def decodeRow25 (w : Word) : Option Instr :=
  if true then some (.st (w.extractLsb' 25 1) (w.extractLsb' 23 2) (w.extractLsb' 21 2) (w.extractLsb' 19 2) (w.extractLsb' 14 5) (w.extractLsb' 7 7) (w.extractLsb' 0 7))
  else none

/-- The rows of major 0x26 (R90). -/
noncomputable def decodeRow26 (w : Word) : Option Instr :=
  if fx w 22 4 == 0 then some (.atomAdd (w.extractLsb' 19 3) (w.extractLsb' 14 5) (w.extractLsb' 7 7) (w.extractLsb' 0 7))
  else if fx w 22 4 == 1 then some (.atomMin (w.extractLsb' 19 3) (w.extractLsb' 14 5) (w.extractLsb' 7 7) (w.extractLsb' 0 7))
  else if fx w 22 4 == 2 then some (.atomMax (w.extractLsb' 19 3) (w.extractLsb' 14 5) (w.extractLsb' 7 7) (w.extractLsb' 0 7))
  else if fx w 22 4 == 3 then some (.atomAnd (w.extractLsb' 19 3) (w.extractLsb' 14 5) (w.extractLsb' 7 7) (w.extractLsb' 0 7))
  else if fx w 22 4 == 4 then some (.atomOr (w.extractLsb' 19 3) (w.extractLsb' 14 5) (w.extractLsb' 7 7) (w.extractLsb' 0 7))
  else if fx w 22 4 == 5 then some (.atomXor (w.extractLsb' 19 3) (w.extractLsb' 14 5) (w.extractLsb' 7 7) (w.extractLsb' 0 7))
  else if fx w 22 4 == 6 then some (.atomExch (w.extractLsb' 19 3) (w.extractLsb' 14 5) (w.extractLsb' 7 7) (w.extractLsb' 0 7))
  else if fx w 22 4 == 7 then some (.atomCas (w.extractLsb' 19 3) (w.extractLsb' 14 5) (w.extractLsb' 7 7) (w.extractLsb' 0 7))
  else if fx w 22 4 == 8 then some (.redAdd (w.extractLsb' 19 3) (w.extractLsb' 14 5) (w.extractLsb' 7 7) (w.extractLsb' 0 7))
  else if fx w 22 4 == 9 then some (.redMin (w.extractLsb' 19 3) (w.extractLsb' 14 5) (w.extractLsb' 7 7) (w.extractLsb' 0 7))
  else if fx w 22 4 == 10 then some (.redMax (w.extractLsb' 19 3) (w.extractLsb' 14 5) (w.extractLsb' 7 7) (w.extractLsb' 0 7))
  else if fx w 22 4 == 11 then some (.redAnd (w.extractLsb' 19 3) (w.extractLsb' 14 5) (w.extractLsb' 7 7) (w.extractLsb' 0 7))
  else if fx w 22 4 == 12 then some (.redOr (w.extractLsb' 19 3) (w.extractLsb' 14 5) (w.extractLsb' 7 7) (w.extractLsb' 0 7))
  else if fx w 22 4 == 13 then some (.redXor (w.extractLsb' 19 3) (w.extractLsb' 14 5) (w.extractLsb' 7 7) (w.extractLsb' 0 7))
  else none

/-- The rows of major 0x27 (R90). -/
noncomputable def decodeRow27 (w : Word) : Option Instr :=
  if fx w 21 5 == 0 then some (.sldU8 (w.extractLsb' 14 7) (w.extractLsb' 7 7) (w.extractLsb' 0 7))
  else if fx w 21 5 == 1 then some (.sldS8 (w.extractLsb' 14 7) (w.extractLsb' 7 7) (w.extractLsb' 0 7))
  else if fx w 21 5 == 2 then some (.sldU16 (w.extractLsb' 14 7) (w.extractLsb' 7 7) (w.extractLsb' 0 7))
  else if fx w 21 5 == 3 then some (.sldS16 (w.extractLsb' 14 7) (w.extractLsb' 7 7) (w.extractLsb' 0 7))
  else if fx w 21 5 == 4 then some (.sldB32 (w.extractLsb' 14 7) (w.extractLsb' 7 7) (w.extractLsb' 0 7))
  else if fx w 21 5 == 5 then some (.sldB64 (w.extractLsb' 14 7) (w.extractLsb' 7 7) (w.extractLsb' 0 7))
  else if fx w 21 5 == 6 then some (.sstB8 (w.extractLsb' 14 7) (w.extractLsb' 7 7) (w.extractLsb' 0 7))
  else if fx w 21 5 == 7 then some (.sstB16 (w.extractLsb' 14 7) (w.extractLsb' 7 7) (w.extractLsb' 0 7))
  else if fx w 21 5 == 8 then some (.sstB32 (w.extractLsb' 14 7) (w.extractLsb' 7 7) (w.extractLsb' 0 7))
  else if fx w 21 5 == 9 then some (.sstB64 (w.extractLsb' 14 7) (w.extractLsb' 7 7) (w.extractLsb' 0 7))
  else if fx w 21 5 == 16 then some (.satomAdd (w.extractLsb' 14 7) (w.extractLsb' 7 7) (w.extractLsb' 0 7))
  else if fx w 21 5 == 17 then some (.satomMinS32 (w.extractLsb' 14 7) (w.extractLsb' 7 7) (w.extractLsb' 0 7))
  else if fx w 21 5 == 18 then some (.satomMaxS32 (w.extractLsb' 14 7) (w.extractLsb' 7 7) (w.extractLsb' 0 7))
  else if fx w 21 5 == 19 then some (.satomMinU32 (w.extractLsb' 14 7) (w.extractLsb' 7 7) (w.extractLsb' 0 7))
  else if fx w 21 5 == 20 then some (.satomMaxU32 (w.extractLsb' 14 7) (w.extractLsb' 7 7) (w.extractLsb' 0 7))
  else if fx w 21 5 == 21 then some (.satomAnd (w.extractLsb' 14 7) (w.extractLsb' 7 7) (w.extractLsb' 0 7))
  else if fx w 21 5 == 22 then some (.satomOr (w.extractLsb' 14 7) (w.extractLsb' 7 7) (w.extractLsb' 0 7))
  else if fx w 21 5 == 23 then some (.satomXor (w.extractLsb' 14 7) (w.extractLsb' 7 7) (w.extractLsb' 0 7))
  else if fx w 21 5 == 24 then some (.satomExch (w.extractLsb' 14 7) (w.extractLsb' 7 7) (w.extractLsb' 0 7))
  else if fx w 21 5 == 25 then some (.satomCas (w.extractLsb' 14 7) (w.extractLsb' 7 7) (w.extractLsb' 0 7))
  else none

/-- The rows of major 0x28 (R90). -/
noncomputable def decodeRow28 (w : Word) : Option Instr :=
  if fx w 19 7 == 12 && fx w 12 2 == 0 && fx w 0 7 == 0 then some (.kmov (w.extractLsb' 14 5) (w.extractLsb' 7 5))
  else if fx w 19 7 == 0 && fx w 0 7 == 0 then some (.ldrec (w.extractLsb' 14 5) (w.extractLsb' 7 7))
  else if fx w 14 12 == 128 && fx w 5 2 == 0 then some (.strec (w.extractLsb' 7 7) (w.extractLsb' 0 5))
  else if fx w 19 7 == 8 && fx w 0 7 == 0 then some (.mkrec (w.extractLsb' 14 5) (w.extractLsb' 7 7))
  else none

/-- The rows of major 0x29 (R90). -/
noncomputable def decodeRow29 (w : Word) : Option Instr :=
  if fx w 0 26 == 2097152 then some (.rfence)
  else if fx w 7 19 == 0 then some (.fence (w.extractLsb' 0 7))
  else if fx w 14 12 == 256 then some (.pf (w.extractLsb' 7 7) (w.extractLsb' 0 7))
  else if fx w 14 12 == 384 then some (.flush (w.extractLsb' 7 7) (w.extractLsb' 0 7))
  else if fx w 14 12 == 512 then some (.inval (w.extractLsb' 7 7) (w.extractLsb' 0 7))
  else none

/-- The rows of major 0x2A (R90). -/
noncomputable def decodeRow2A (w : Word) : Option Instr :=
  if fx w 0 23 == 3 then some (.qfence (w.extractLsb' 23 3))
  else if fx w 18 8 == 0 && fx w 0 11 == 4 then some (.rdstage (w.extractLsb' 11 7))
  else if fx w 18 8 == 0 && fx w 0 4 == 1 then some (.stage (w.extractLsb' 11 7) (w.extractLsb' 4 7))
  else if fx w 18 8 == 0 && fx w 0 4 == 2 then some (.waitge (w.extractLsb' 11 7) (w.extractLsb' 4 7))
  else if fx w 0 4 == 0 then some (.cpy32 (w.extractLsb' 23 3) (w.extractLsb' 18 5) (w.extractLsb' 11 7) (w.extractLsb' 4 7))
  else none

/-- The rows of major 0x2B (R90). -/
noncomputable def decodeRow2B (w : Word) : Option Instr :=
  if fx w 7 19 == 0 then some (.gbMeet (w.extractLsb' 0 7))
  else if fx w 7 19 == 16384 then some (.gbPost (w.extractLsb' 0 7))
  else if fx w 7 19 == 32768 then some (.gbAwait (w.extractLsb' 0 7))
  else if fx w 15 11 == 129 && fx w 7 7 == 0 then some (.gbAwaitPar (w.extractLsb' 14 1) (w.extractLsb' 0 7))
  else if fx w 14 12 == 384 then some (.gbBytes (w.extractLsb' 7 7) (w.extractLsb' 0 7))
  else if fx w 14 12 == 385 then some (.gbMembers (w.extractLsb' 7 7) (w.extractLsb' 0 7))
  else if fx w 14 12 == 512 then some (.mbArm (w.extractLsb' 7 7) (w.extractLsb' 0 7))
  else if fx w 14 12 == 768 then some (.mbBytes (w.extractLsb' 7 7) (w.extractLsb' 0 7))
  else if fx w 14 12 == 896 then some (.mbAwait (w.extractLsb' 7 7) (w.extractLsb' 0 7))
  else if fx w 21 5 == 5 then some (.mbPost (w.extractLsb' 14 7) (w.extractLsb' 7 7) (w.extractLsb' 0 7))
  else none

/-- The rows of major 0x2C (R90). -/
noncomputable def decodeRow2C (w : Word) : Option Instr :=
  if fx w 14 12 == 128 && fx w 0 7 == 0 then some (.coll (w.extractLsb' 7 7))
  else if fx w 14 12 == 0 then some (.nemit (w.extractLsb' 7 7) (w.extractLsb' 0 7))
  else none

/-- The rows of major 0x30 (R90). -/
noncomputable def decodeRow30 (w : Word) : Option Instr :=
  if fx w 14 4 == 0 then some (.mma (w.extractLsb' 22 4) (w.extractLsb' 18 4) (w.extractLsb' 7 7) (w.extractLsb' 0 7))
  else if fx w 14 4 == 1 then some (.mmaSat (w.extractLsb' 22 4) (w.extractLsb' 18 4) (w.extractLsb' 7 7) (w.extractLsb' 0 7))
  else none

/-- The rows of major 0x31 (R90). -/
noncomputable def decodeRow31 (w : Word) : Option Instr :=
  if fx w 22 4 == 0 && fx w 7 11 == 0 then some (.tzero (w.extractLsb' 18 4) (w.extractLsb' 0 7))
  else if fx w 22 4 == 0 && fx w 14 4 == 3 then some (.tget (w.extractLsb' 18 4) (w.extractLsb' 7 7) (w.extractLsb' 0 7))
  else if fx w 22 4 == 0 && fx w 14 4 == 4 then some (.tfill (w.extractLsb' 18 4) (w.extractLsb' 7 7) (w.extractLsb' 0 7))
  else if fx w 14 4 == 1 then some (.tld (w.extractLsb' 22 4) (w.extractLsb' 18 4) (w.extractLsb' 7 7) (w.extractLsb' 0 7))
  else if fx w 14 4 == 2 then some (.tst (w.extractLsb' 22 4) (w.extractLsb' 18 4) (w.extractLsb' 7 7) (w.extractLsb' 0 7))
  else none

/-- The rows of major 0x32 (R90). -/
noncomputable def decodeRow32 (w : Word) : Option Instr :=
  if fx w 0 26 == 0 then some (.mcommit)
  else if fx w 7 19 == 128 then some (.mwait (w.extractLsb' 0 7))
  else none

/-- The row of the opcode map that a word belongs to (R90). -/
noncomputable def decodeRow (w : Word) : Option Instr :=
  match fx w 26 6 with
  | 0 => decodeRow00 w
  | 1 => decodeRow01 w
  | 2 => decodeRow02 w
  | 3 => decodeRow03 w
  | 4 => decodeRow04 w
  | 5 => decodeRow05 w
  | 6 => decodeRow06 w
  | 7 => decodeRow07 w
  | 8 => decodeRow08 w
  | 9 => decodeRow09 w
  | 10 => decodeRow0A w
  | 11 => decodeRow0B w
  | 12 => decodeRow0C w
  | 13 => decodeRow0D w
  | 14 => decodeRow0E w
  | 15 => decodeRow0F w
  | 16 => decodeRow10 w
  | 17 => decodeRow11 w
  | 18 => decodeRow12 w
  | 19 => decodeRow13 w
  | 20 => decodeRow14 w
  | 21 => decodeRow15 w
  | 22 => decodeRow16 w
  | 23 => decodeRow17 w
  | 24 => decodeRow18 w
  | 25 => decodeRow19 w
  | 26 => decodeRow1A w
  | 27 => decodeRow1B w
  | 32 => decodeRow20 w
  | 33 => decodeRow21 w
  | 34 => decodeRow22 w
  | 35 => decodeRow23 w
  | 36 => decodeRow24 w
  | 37 => decodeRow25 w
  | 38 => decodeRow26 w
  | 39 => decodeRow27 w
  | 40 => decodeRow28 w
  | 41 => decodeRow29 w
  | 42 => decodeRow2A w
  | 43 => decodeRow2B w
  | 44 => decodeRow2C w
  | 48 => decodeRow30 w
  | 49 => decodeRow31 w
  | 50 => decodeRow32 w
  | _ => none

/-- The instruction that a word is, or the decode fault that it raises (R89, R90): FUTURE_OP for a
major of 0x38..0x3F, ILL_OP for every word that no row assigns or whose fields are not well formed (DESIGN CHOICE, log
entry 85). -/
noncomputable def decode (w : Word) : Except DecodeError Instr :=
  if 56 ≤ fx w 26 6 then .error .futureOp
  else
    match decodeRow w with
    | none => .error .illOp
    | some i => if i.wf then .ok i else .error .illOp

/-- The instruction that stands for a word at issue: the decoded one, or the decode fault as the
table's own rows ILL_OP and FUTURE_OP (R90, R95). -/
noncomputable def instrOf (w : Word) : Instr :=
  match decode w with
  | .ok i => i
  | .error .illOp => .illOp w
  | .error .futureOp => .futureOp w

/-- The word of an instruction, field beside field as R85 lays them out. A step of the device that
is no instruction word has none. -/
def encode : Instr → Option Word
  | .nop => some (0#32)
  | .exit => some (2097152#32)
  | .yield => some (4194304#32)
  | .sleep n => some (49152#25 ++ n)
  | .trap n => some (65536#25 ++ n)
  | .brk n => some (81920#25 ++ n)
  | .ipf m i => some (6#11 ++ m ++ 0#7 ++ i)
  | .ipfInv => some (14680064#32)
  | .sadd d a b => some (32#11 ++ d ++ a ++ b)
  | .ssub d a b => some (33#11 ++ d ++ a ++ b)
  | .smul d a b => some (34#11 ++ d ++ a ++ b)
  | .smulhiS32 d a b => some (35#11 ++ d ++ a ++ b)
  | .smulhiU32 d a b => some (36#11 ++ d ++ a ++ b)
  | .sand d a b => some (37#11 ++ d ++ a ++ b)
  | .sor d a b => some (38#11 ++ d ++ a ++ b)
  | .sxor d a b => some (39#11 ++ d ++ a ++ b)
  | .sandn d a b => some (40#11 ++ d ++ a ++ b)
  | .sshl d a b => some (41#11 ++ d ++ a ++ b)
  | .sshr d a b => some (42#11 ++ d ++ a ++ b)
  | .ssra d a b => some (43#11 ++ d ++ a ++ b)
  | .sminS32 d a b => some (44#11 ++ d ++ a ++ b)
  | .smaxS32 d a b => some (45#11 ++ d ++ a ++ b)
  | .sminU32 d a b => some (46#11 ++ d ++ a ++ b)
  | .smaxU32 d a b => some (47#11 ++ d ++ a ++ b)
  | .sadd64 d a b => some (48#11 ++ d ++ a ++ b)
  | .ssub64 d a b => some (49#11 ++ d ++ a ++ b)
  | .saddI d a i => some (64#11 ++ d ++ a ++ i)
  | .ssubI d a i => some (65#11 ++ d ++ a ++ i)
  | .smulI d a i => some (66#11 ++ d ++ a ++ i)
  | .smulhiS32I d a i => some (67#11 ++ d ++ a ++ i)
  | .smulhiU32I d a i => some (68#11 ++ d ++ a ++ i)
  | .sandI d a i => some (69#11 ++ d ++ a ++ i)
  | .sorI d a i => some (70#11 ++ d ++ a ++ i)
  | .sxorI d a i => some (71#11 ++ d ++ a ++ i)
  | .sandnI d a i => some (72#11 ++ d ++ a ++ i)
  | .sshlI d a i => some (73#11 ++ d ++ a ++ i)
  | .sshrI d a i => some (74#11 ++ d ++ a ++ i)
  | .ssraI d a i => some (75#11 ++ d ++ a ++ i)
  | .sminS32I d a i => some (76#11 ++ d ++ a ++ i)
  | .smaxS32I d a i => some (77#11 ++ d ++ a ++ i)
  | .sminU32I d a i => some (78#11 ++ d ++ a ++ i)
  | .smaxU32I d a i => some (79#11 ++ d ++ a ++ i)
  | .scmp c d a b => some (3#6 ++ c ++ 0#2 ++ d ++ 0#3 ++ a ++ b)
  | .scmpI c d a i => some (3#6 ++ c ++ 2#2 ++ d ++ 0#3 ++ a ++ i)
  | .cand d a b => some (232#12 ++ d ++ 0#7 ++ a ++ 0#4 ++ b)
  | .cor d a b => some (236#12 ++ d ++ 0#7 ++ a ++ 0#4 ++ b)
  | .cxor d a b => some (240#12 ++ d ++ 0#7 ++ a ++ 0#4 ++ b)
  | .candn d a b => some (244#12 ++ d ++ 0#7 ++ a ++ 0#4 ++ b)
  | .smov d a => some (128#11 ++ d ++ a ++ 0#7)
  | .sli d i => some (129#11 ++ d ++ 0#7 ++ i)
  | .sbfxU32 d a b => some (130#11 ++ d ++ a ++ b)
  | .sbfxS32 d a b => some (131#11 ++ d ++ a ++ b)
  | .sbfi d a b => some (132#11 ++ d ++ a ++ b)
  | .spopc d a => some (133#11 ++ d ++ a ++ 0#7)
  | .sclz d a => some (134#11 ++ d ++ a ++ 0#7)
  | .sctz d a => some (135#11 ++ d ++ a ++ 0#7)
  | .sbrev d a => some (136#11 ++ d ++ a ++ 0#7)
  | .bc c o => some (5#6 ++ c ++ 0#3 ++ o)
  | .bnc c o => some (5#6 ++ c ++ 4#3 ++ o)
  | .bany o => some (321#12 ++ o)
  | .ball o => some (325#12 ++ o)
  | .bnone o => some (329#12 ++ o)
  | .br o => some (384#12 ++ o)
  | .call o => some (385#12 ++ o)
  | .jmp a => some (3162112#25 ++ a)
  | .ret => some (405798912#32)
  | .rsr d r => some (224#11 ++ d ++ 0#7 ++ r)
  | .wsr a r => some (28800#18 ++ a ++ r)
  | .mpush d p => some (226#11 ++ d ++ 0#10 ++ p)
  | .mflip d p => some (227#11 ++ d ++ 0#10 ++ p)
  | .mpop d => some (228#11 ++ d ++ 0#14)
  | .waitc p b => some (234496#21 ++ p ++ b)
  | .waitcI p i => some (234500#21 ++ p ++ i)
  | .mvps d p => some (230#11 ++ d ++ 0#10 ++ p)
  | .mvsp p a => some (1848#14 ++ p ++ a ++ 0#7)
  | .vaddS32 d a b => some (256#11 ++ d ++ a ++ b)
  | .vsubS32 d a b => some (257#11 ++ d ++ a ++ b)
  | .vaddSatS32 d a b => some (258#11 ++ d ++ a ++ b)
  | .vaddSatU32 d a b => some (259#11 ++ d ++ a ++ b)
  | .vsubSatS32 d a b => some (260#11 ++ d ++ a ++ b)
  | .vsubSatU32 d a b => some (261#11 ++ d ++ a ++ b)
  | .vminS32 d a b => some (262#11 ++ d ++ a ++ b)
  | .vmaxS32 d a b => some (263#11 ++ d ++ a ++ b)
  | .vminU32 d a b => some (264#11 ++ d ++ a ++ b)
  | .vmaxU32 d a b => some (265#11 ++ d ++ a ++ b)
  | .vshl d a b => some (266#11 ++ d ++ a ++ b)
  | .vshr d a b => some (267#11 ++ d ++ a ++ b)
  | .vsra d a b => some (268#11 ++ d ++ a ++ b)
  | .vabsdS32 d a b => some (269#11 ++ d ++ a ++ b)
  | .vadd64 d a b => some (270#11 ++ d ++ a ++ b)
  | .vsub64 d a b => some (271#11 ++ d ++ a ++ b)
  | .vaddS32S d a s => some (288#11 ++ d ++ a ++ s)
  | .vsubS32S d a s => some (289#11 ++ d ++ a ++ s)
  | .vaddSatS32S d a s => some (290#11 ++ d ++ a ++ s)
  | .vaddSatU32S d a s => some (291#11 ++ d ++ a ++ s)
  | .vsubSatS32S d a s => some (292#11 ++ d ++ a ++ s)
  | .vsubSatU32S d a s => some (293#11 ++ d ++ a ++ s)
  | .vminS32S d a s => some (294#11 ++ d ++ a ++ s)
  | .vmaxS32S d a s => some (295#11 ++ d ++ a ++ s)
  | .vminU32S d a s => some (296#11 ++ d ++ a ++ s)
  | .vmaxU32S d a s => some (297#11 ++ d ++ a ++ s)
  | .vshlS d a s => some (298#11 ++ d ++ a ++ s)
  | .vshrS d a s => some (299#11 ++ d ++ a ++ s)
  | .vsraS d a s => some (300#11 ++ d ++ a ++ s)
  | .vabsdS32S d a s => some (301#11 ++ d ++ a ++ s)
  | .vaddS32I d a i => some (320#11 ++ d ++ a ++ i)
  | .vsubS32I d a i => some (321#11 ++ d ++ a ++ i)
  | .vaddSatS32I d a i => some (322#11 ++ d ++ a ++ i)
  | .vaddSatU32I d a i => some (323#11 ++ d ++ a ++ i)
  | .vsubSatS32I d a i => some (324#11 ++ d ++ a ++ i)
  | .vsubSatU32I d a i => some (325#11 ++ d ++ a ++ i)
  | .vminS32I d a i => some (326#11 ++ d ++ a ++ i)
  | .vmaxS32I d a i => some (327#11 ++ d ++ a ++ i)
  | .vminU32I d a i => some (328#11 ++ d ++ a ++ i)
  | .vmaxU32I d a i => some (329#11 ++ d ++ a ++ i)
  | .vshlI d a i => some (330#11 ++ d ++ a ++ i)
  | .vshrI d a i => some (331#11 ++ d ++ a ++ i)
  | .vsraI d a i => some (332#11 ++ d ++ a ++ i)
  | .vabsdS32I d a i => some (333#11 ++ d ++ a ++ i)
  | .vmulLo d a b => some (352#11 ++ d ++ a ++ b)
  | .vmulhiS32 d a b => some (353#11 ++ d ++ a ++ b)
  | .vmulhiU32 d a b => some (354#11 ++ d ++ a ++ b)
  | .vmadLo d a b => some (355#11 ++ d ++ a ++ b)
  | .vmadSatS32 d a b => some (356#11 ++ d ++ a ++ b)
  | .vmulWideS32 d a b => some (357#11 ++ d ++ a ++ b)
  | .vmulWideU32 d a b => some (358#11 ++ d ++ a ++ b)
  | .vand d a b => some (384#11 ++ d ++ a ++ b)
  | .vor d a b => some (385#11 ++ d ++ a ++ b)
  | .vxor d a b => some (386#11 ++ d ++ a ++ b)
  | .vandn d a b => some (387#11 ++ d ++ a ++ b)
  | .vnot d a => some (388#11 ++ d ++ a ++ 0#7)
  | .vpopc d a => some (389#11 ++ d ++ a ++ 0#7)
  | .vclz d a => some (390#11 ++ d ++ a ++ 0#7)
  | .vbrev d a => some (391#11 ++ d ++ a ++ 0#7)
  | .vbfxU32 d a b => some (392#11 ++ d ++ a ++ b)
  | .vbfxS32 d a b => some (393#11 ++ d ++ a ++ b)
  | .vbfi d a b => some (394#11 ++ d ++ a ++ b)
  | .vfshl d a b => some (395#11 ++ d ++ a ++ b)
  | .vfshr d a b => some (396#11 ++ d ++ a ++ b)
  | .vcmp c p t a b => some (13#6 ++ c ++ p ++ t ++ a ++ b)
  | .pand d a b => some (3584#14 ++ d ++ 0#3 ++ a ++ 0#3 ++ b)
  | .por d a b => some (3592#14 ++ d ++ 0#3 ++ a ++ 0#3 ++ b)
  | .pxor d a b => some (3600#14 ++ d ++ 0#3 ++ a ++ 0#3 ++ b)
  | .pandn d a b => some (3608#14 ++ d ++ 0#3 ++ a ++ 0#3 ++ b)
  | .pnot d a => some (3616#14 ++ d ++ 0#3 ++ a ++ 0#7)
  | .pmov d a => some (3624#14 ++ d ++ 0#3 ++ a ++ 0#7)
  | .pset d => some (3632#14 ++ d ++ 0#14)
  | .pclr d => some (3640#14 ++ d ++ 0#14)
  | .vsel q d a b => some (14#6 ++ q ++ d ++ a ++ b)
  | .vsext8 d a e => some (480#11 ++ d ++ a ++ e)
  | .vzext8 d a e => some (481#11 ++ d ++ a ++ e)
  | .vsext16 d a e => some (482#11 ++ d ++ a ++ e)
  | .vzext16 d a e => some (483#11 ++ d ++ a ++ e)
  | .vsatS8S32 d a => some (484#11 ++ d ++ a ++ 0#7)
  | .vsatU8S32 d a => some (485#11 ++ d ++ a ++ 0#7)
  | .vsatS16S32 d a => some (486#11 ++ d ++ a ++ 0#7)
  | .vsatU16S32 d a => some (487#11 ++ d ++ a ++ 0#7)
  | .vsatS32S64 d a => some (488#11 ++ d ++ a ++ 0#7)
  | .fadd r d a b => some (128#9 ++ r ++ d ++ a ++ b)
  | .fsub r d a b => some (129#9 ++ r ++ d ++ a ++ b)
  | .fmul r d a b => some (130#9 ++ r ++ d ++ a ++ b)
  | .fmin d a b => some (524#11 ++ d ++ a ++ b)
  | .fmax d a b => some (528#11 ++ d ++ a ++ b)
  | .fcopysign d a b => some (532#11 ++ d ++ a ++ b)
  | .fabs d a => some (536#11 ++ d ++ a ++ 0#7)
  | .fneg d a => some (540#11 ++ d ++ a ++ 0#7)
  | .faddS r d a s => some (136#9 ++ r ++ d ++ a ++ s)
  | .faddI r d a i => some (140#9 ++ r ++ d ++ a ++ i)
  | .fmulS r d a s => some (137#9 ++ r ++ d ++ a ++ s)
  | .fmulI r d a i => some (141#9 ++ r ++ d ++ a ++ i)
  | .fminS d a s => some (552#11 ++ d ++ a ++ s)
  | .fminI d a i => some (568#11 ++ d ++ a ++ i)
  | .fmaxS d a s => some (556#11 ++ d ++ a ++ s)
  | .fmaxI d a i => some (572#11 ++ d ++ a ++ i)
  | .ffma r d a b => some (144#9 ++ r ++ d ++ a ++ b)
  | .ffms r d a b => some (145#9 ++ r ++ d ++ a ++ b)
  | .ffnma r d a b => some (146#9 ++ r ++ d ++ a ++ b)
  | .ffnms r d a b => some (147#9 ++ r ++ d ++ a ++ b)
  | .ffmaS r d a s => some (148#9 ++ r ++ d ++ a ++ s)
  | .ffmsS r d a s => some (149#9 ++ r ++ d ++ a ++ s)
  | .ffnmaS r d a s => some (150#9 ++ r ++ d ++ a ++ s)
  | .ffnmsS r d a s => some (151#9 ++ r ++ d ++ a ++ s)
  | .haddF16x2 r d a b => some (152#9 ++ r ++ d ++ a ++ b)
  | .hmulF16x2 r d a b => some (153#9 ++ r ++ d ++ a ++ b)
  | .hfmaF16x2 r d a b => some (154#9 ++ r ++ d ++ a ++ b)
  | .hminF16x2 d a b => some (620#11 ++ d ++ a ++ b)
  | .haddBf16x2 r d a b => some (156#9 ++ r ++ d ++ a ++ b)
  | .hmulBf16x2 r d a b => some (157#9 ++ r ++ d ++ a ++ b)
  | .hfmaBf16x2 r d a b => some (158#9 ++ r ++ d ++ a ++ b)
  | .hminBf16x2 d a b => some (636#11 ++ d ++ a ++ b)
  | .vcmpF32 c p a b => some (20#6 ++ c ++ p ++ 0#3 ++ a ++ b)
  | .vcvtWiden w o r e d a => some (21#6 ++ w ++ o ++ 0#1 ++ r ++ e ++ d ++ a)
  | .vcvtNarrow w o r e d a => some (21#6 ++ w ++ o ++ 1#1 ++ r ++ e ++ d ++ a)
  | .vrcp d a => some (704#11 ++ d ++ a ++ 0#7)
  | .vrsq d a => some (705#11 ++ d ++ a ++ 0#7)
  | .vsqrt d a => some (706#11 ++ d ++ a ++ 0#7)
  | .vexp2 d a => some (707#11 ++ d ++ a ++ 0#7)
  | .vlog2 d a => some (708#11 ++ d ++ a ++ 0#7)
  | .vsinpi d a => some (709#11 ++ d ++ a ++ 0#7)
  | .vcospi d a => some (710#11 ++ d ++ a ++ 0#7)
  | .vtanh d a => some (711#11 ++ d ++ a ++ 0#7)
  | .fdot a b d s => some (92#8 ++ a ++ b ++ d ++ s)
  | .idot a b d s => some (93#8 ++ a ++ b ++ d ++ s)
  | .idotSat a b d s => some (94#8 ++ a ++ b ++ d ++ s)
  | .vshflIdx d a b => some (768#11 ++ d ++ a ++ b)
  | .vshflUp d a n => some (769#11 ++ d ++ a ++ n)
  | .vshflDown d a n => some (770#11 ++ d ++ a ++ n)
  | .vshflXor d a n => some (771#11 ++ d ++ a ++ n)
  | .vbcast d a j => some (772#11 ++ d ++ a ++ j)
  | .vsome d a => some (12800#15 ++ d ++ 0#3 ++ a ++ 0#7)
  | .vevery d a => some (12816#15 ++ d ++ 0#3 ++ a ++ 0#7)
  | .vbits d a => some (802#11 ++ d ++ 0#3 ++ a ++ 0#7)
  | .vredAddS32 d a => some (803#11 ++ d ++ a ++ 0#7)
  | .vredMinS32 d a => some (804#11 ++ d ++ a ++ 0#7)
  | .vredMaxS32 d a => some (805#11 ++ d ++ a ++ 0#7)
  | .vredAddF32 d a => some (806#11 ++ d ++ a ++ 0#7)
  | .vredMinF32 d a => some (807#11 ++ d ++ a ++ 0#7)
  | .vredMaxF32 d a => some (808#11 ++ d ++ a ++ 0#7)
  | .vscanAddS32 d a => some (809#11 ++ d ++ a ++ 0#7)
  | .vscanxAddS32 d a => some (810#11 ++ d ++ a ++ 0#7)
  | .vscanAddF32 d a => some (811#11 ++ d ++ a ++ 0#7)
  | .vredAnd d a => some (812#11 ++ d ++ a ++ 0#7)
  | .vredOr d a => some (813#11 ++ d ++ a ++ 0#7)
  | .vredXor d a => some (814#11 ++ d ++ a ++ 0#7)
  | .vmatch d a => some (832#11 ++ d ++ a ++ 0#7)
  | .vrank d a => some (833#11 ++ d ++ a ++ 0#7)
  | .vlead d a => some (6672#14 ++ d ++ a ++ 0#7)
  | .visect d a b => some (835#11 ++ d ++ a ++ b)
  | .vtopk d a s => some (836#11 ++ d ++ a ++ s)
  | .vargmaxF32 d a => some (837#11 ++ d ++ a ++ 0#7)
  | .vargmaxS32 d a => some (838#11 ++ d ++ a ++ 0#7)
  | .vlid d => some (864#11 ++ d ++ 0#14)
  | .vrnd d a => some (865#11 ++ d ++ a ++ 0#7)
  | .cbind n => some (16777216#25 ++ n)
  | .cunbind => some (2149580800#32)
  | .cget d => some (1026#11 ++ d ++ 0#14)
  | .cgetP p => some (8208#14 ++ p ++ 128#14)
  | .cset a => some (131456#18 ++ a ++ 0#7)
  | .cadd d a b => some (1056#11 ++ d ++ a ++ b)
  | .cadc d a b => some (1057#11 ++ d ++ a ++ b)
  | .csub d a b => some (1058#11 ++ d ++ a ++ b)
  | .csbb d a b => some (1059#11 ++ d ++ a ++ b)
  | .caddSat d a b => some (1060#11 ++ d ++ a ++ b)
  | .cadcSat d a b => some (1061#11 ++ d ++ a ++ b)
  | .csubSat d a b => some (1062#11 ++ d ++ a ++ b)
  | .csbbSat d a b => some (1063#11 ++ d ++ a ++ b)
  | .ccmp c p a b => some (33#6 ++ c ++ 0#3 ++ p ++ a ++ b)
  | .cshl d a s => some (1088#11 ++ d ++ a ++ s)
  | .cshr d a s => some (1089#11 ++ d ++ a ++ s)
  | .cshlw d a s => some (1090#11 ++ d ++ a ++ s)
  | .cshrw d a s => some (1091#11 ++ d ++ a ++ s)
  | .cmac d a s => some (1092#11 ++ d ++ a ++ s)
  | .cld o s c k a d => some (70#7 ++ o ++ s ++ c ++ k ++ a ++ d)
  | .cst o s c k a d => some (71#7 ++ o ++ s ++ c ++ k ++ a ++ d)
  | .ld g o s c k a d => some (36#6 ++ g ++ o ++ s ++ c ++ k ++ a ++ d)
  | .st g o s c k a d => some (37#6 ++ g ++ o ++ s ++ c ++ k ++ a ++ d)
  | .atomAdd o k a d => some (608#10 ++ o ++ k ++ a ++ d)
  | .atomMin o k a d => some (609#10 ++ o ++ k ++ a ++ d)
  | .atomMax o k a d => some (610#10 ++ o ++ k ++ a ++ d)
  | .atomAnd o k a d => some (611#10 ++ o ++ k ++ a ++ d)
  | .atomOr o k a d => some (612#10 ++ o ++ k ++ a ++ d)
  | .atomXor o k a d => some (613#10 ++ o ++ k ++ a ++ d)
  | .atomExch o k a d => some (614#10 ++ o ++ k ++ a ++ d)
  | .atomCas o k a d => some (615#10 ++ o ++ k ++ a ++ d)
  | .redAdd o k a d => some (616#10 ++ o ++ k ++ a ++ d)
  | .redMin o k a d => some (617#10 ++ o ++ k ++ a ++ d)
  | .redMax o k a d => some (618#10 ++ o ++ k ++ a ++ d)
  | .redAnd o k a d => some (619#10 ++ o ++ k ++ a ++ d)
  | .redOr o k a d => some (620#10 ++ o ++ k ++ a ++ d)
  | .redXor o k a d => some (621#10 ++ o ++ k ++ a ++ d)
  | .sldU8 d a f => some (1248#11 ++ d ++ a ++ f)
  | .sldS8 d a f => some (1249#11 ++ d ++ a ++ f)
  | .sldU16 d a f => some (1250#11 ++ d ++ a ++ f)
  | .sldS16 d a f => some (1251#11 ++ d ++ a ++ f)
  | .sldB32 d a f => some (1252#11 ++ d ++ a ++ f)
  | .sldB64 d a f => some (1253#11 ++ d ++ a ++ f)
  | .sstB8 d a f => some (1254#11 ++ d ++ a ++ f)
  | .sstB16 d a f => some (1255#11 ++ d ++ a ++ f)
  | .sstB32 d a f => some (1256#11 ++ d ++ a ++ f)
  | .sstB64 d a f => some (1257#11 ++ d ++ a ++ f)
  | .satomAdd d a f => some (1264#11 ++ d ++ a ++ f)
  | .satomMinS32 d a f => some (1265#11 ++ d ++ a ++ f)
  | .satomMaxS32 d a f => some (1266#11 ++ d ++ a ++ f)
  | .satomMinU32 d a f => some (1267#11 ++ d ++ a ++ f)
  | .satomMaxU32 d a f => some (1268#11 ++ d ++ a ++ f)
  | .satomAnd d a f => some (1269#11 ++ d ++ a ++ f)
  | .satomOr d a f => some (1270#11 ++ d ++ a ++ f)
  | .satomXor d a f => some (1271#11 ++ d ++ a ++ f)
  | .satomExch d a f => some (1272#11 ++ d ++ a ++ f)
  | .satomCas d a f => some (1273#11 ++ d ++ a ++ f)
  | .ldrec k a => some (5120#13 ++ k ++ a ++ 0#7)
  | .strec a k => some (163968#18 ++ a ++ 0#2 ++ k)
  | .mkrec k a => some (5128#13 ++ k ++ a ++ 0#7)
  | .kmov d a => some (5132#13 ++ d ++ 0#2 ++ a ++ 0#7)
  | .fence k => some (21495808#25 ++ k)
  | .rfence => some (2753560576#32)
  | .pf a l => some (168192#18 ++ a ++ l)
  | .flush a b => some (168320#18 ++ a ++ b)
  | .inval a b => some (168448#18 ++ a ++ b)
  | .cpy32 t k a b => some (42#6 ++ t ++ k ++ a ++ b ++ 0#4)
  | .stage a b => some (10752#14 ++ a ++ b ++ 1#4)
  | .waitge a b => some (10752#14 ++ a ++ b ++ 2#4)
  | .qfence q => some (42#6 ++ q ++ 3#23)
  | .rdstage d => some (10752#14 ++ d ++ 4#11)
  | .gbMeet b => some (22544384#25 ++ b)
  | .gbPost b => some (22560768#25 ++ b)
  | .gbAwait b => some (22577152#25 ++ b)
  | .gbAwaitPar q b => some (88193#17 ++ q ++ 0#7 ++ b)
  | .gbBytes a b => some (176512#18 ++ a ++ b)
  | .gbMembers a b => some (176513#18 ++ a ++ b)
  | .mbArm a b => some (176640#18 ++ a ++ b)
  | .mbPost d a b => some (1381#11 ++ d ++ a ++ b)
  | .mbBytes a b => some (176896#18 ++ a ++ b)
  | .mbAwait a b => some (177024#18 ++ a ++ b)
  | .nemit n v => some (180224#18 ++ n ++ v)
  | .coll a => some (180352#18 ++ a ++ 0#7)
  | .mma f s v p => some (48#6 ++ f ++ s ++ 0#4 ++ v ++ p)
  | .mmaSat f s v p => some (48#6 ++ f ++ s ++ 1#4 ++ v ++ p)
  | .tzero w p => some (784#10 ++ w ++ 0#11 ++ p)
  | .tld f w v p => some (49#6 ++ f ++ w ++ 1#4 ++ v ++ p)
  | .tst f w v p => some (49#6 ++ f ++ w ++ 2#4 ++ v ++ p)
  | .tget m v p => some (784#10 ++ m ++ 3#4 ++ v ++ p)
  | .tfill m v p => some (784#10 ++ m ++ 4#4 ++ v ++ p)
  | .mcommit => some (3355443200#32)
  | .mwait n => some (26214528#25 ++ n)
  | .registerResultWritten _ _ => none
  | .shadowRerunDone _ _ _ => none
  | .columnRecheckDone _ _ _ => none
  | .selfCheckStep _ _ => none
  | .mowingHold _ => none
  | .evacuationComplete _ => none
  | .rewritePoint _ _ => none
  | .columnTableRewrite _ => none
  | .loadReturn _ _ => none
  | .storeLeavesQueue _ => none
  | .scratchAccessPerformed _ _ => none
  | .recordReturn _ _ => none
  | .atomicPerformed _ _ => none
  | .ifetchFillDone _ _ _ => none
  | .translationWalkDone _ _ _ => none
  | .sleepTimerLapse _ => none
  | .haltBroadcast _ => none
  | .watchdog _ => none
  | .warpDrained _ => none
  | .arrivalApplied _ _ => none
  | .writeNotice _ => none
  | .rereadInterval _ => none
  | .scheduleReadDone _ => none
  | .copyEntryStart _ => none
  | .copyHoldRenew _ => none
  | .copyDataLanded _ => none
  | .cpy32Complete _ => none
  | .operandLatchTake _ _ => none
  | .gatherDone _ _ => none
  | .columnChunkGrant _ => none
  | .columnChunkDone _ _ => none
  | .engineIdle _ => none
  | .accMovePerformed _ => none
  | .dispatchSelect => none
  | .quantumExpiry _ => none
  | .evictReturnAreaReady _ => none
  | .diversionEntryFree _ _ => none
  | .evictionComplete _ => none
  | .divertedArrival _ _ => none
  | .gleaningComplete _ => none
  | .migrationDecision _ _ => none
  | .migrationStreamEnd _ => none
  | .haltComplete _ => none
  | .trapQueueSlotFree _ => none
  | .packetNop _ => none
  | .gridLaunch _ => none
  | .nodeBind _ => none
  | .nodeUnbind _ => none
  | .nodeUnbindComplete _ _ => none
  | .indirectBuffer _ => none
  | .waitPacket _ => none
  | .signalPacket _ => none
  | .recordFence _ => none
  | .contextFence _ => none
  | .queueWaitSatisfied _ => none
  | .launchComplete _ _ => none
  | .nodeRecordOffer _ _ => none
  | .nodeTimerLapse _ _ => none
  | .batchFreeFormation _ _ => none
  | .create _ _ => none
  | .destroy _ => none
  | .destroyComplete _ => none
  | .suspend _ => none
  | .suspendComplete _ => none
  | .resume _ => none
  | .queueAdd _ _ => none
  | .queueStart _ _ => none
  | .queueStop _ _ => none
  | .queueReset _ _ => none
  | .groupResume _ _ _ => none
  | .groupAbort _ => none
  | .setQuantum _ _ => none
  | .migrate _ _ => none
  | .migrateComplete _ => none
  | .pageBringIn _ _ _ => none
  | .invalidationRequest _ _ => none
  | .invalidationComplete _ => none
  | .dirtySectorWriteback _ _ => none
  | .channelRetirement _ => none
  | .granuleCopyStart => none
  | .granuleCopyEnd => none
  | .sliceRetirement _ => none
  | .scrubSector _ _ => none
  | .stileRelease _ _ => none
  | .hostAccess _ _ _ _ => none
  | .linkId _ => none
  | .portEnable _ => none
  | .portTrained _ _ _ => none
  | .portRetrain _ _ => none
  | .portDisable _ => none
  | .portDrained _ => none
  | .strandRetire _ _ => none
  | .flitReceive _ _ _ _ => none
  | .flitNak _ _ => none
  | .remoteOperation _ => none
  | .collEntryPerform _ => none
  | .collPeerData _ _ _ _ => none
  | .collComplete _ => none
  | .bringUp _ => none
  | .mailboxMessage _ _ => none
  | .powerSample _ => none
  | .attestRequest => none
  | .diagRetirementRecords => none
  | .diagCoreDump _ => none
  | .diagRevive _ _ => none
  | .diagVacate _ => none
  | .diagVacateEnd _ => none
  | .diagSlotTable => none
  | .eventCauseClear _ => none
  | .tenantSet _ _ => none
  | .tenantClear _ => none
  | .keyLoad _ _ => none
  | .keyClear _ => none
  | .linkGrant _ => none
  | .linkRevoke _ => none
  | .registerWrite _ _ => none
  | .illPacket => none
  | .illOp w => some w
  | .futureOp w => some w
  | .scratchPageSwitchDone _ _ => none
  | .writeBackLanded _ => none
  | .powerOff => none
  | .hostErrorQueueSlotFree _ => none
  | .unlistedCommandCode _ _ => none
  | .splitLaunchArrival _ _ => none
  | .targetCompletionReport _ _ => none

/-- The fields of a packet's header word (R73). -/
structure Header where
  literal : BitVec 3
  la2 : BitVec 4
  la1 : BitVec 4
  la0 : BitVec 4
  guard2 : BitVec 5
  guard1 : BitVec 5
  guard0 : BitVec 5
  c12 : Bool
  c01 : Bool
  deriving DecidableEq, Repr

/-- The header of R73 read from its word. -/
def decodeHeader (h : Word) : Header :=
  { literal := h.extractLsb' 29 3, la2 := h.extractLsb' 25 4, la1 := h.extractLsb' 21 4, la0 := h.extractLsb' 17 4,
    guard2 := h.extractLsb' 12 5, guard1 := h.extractLsb' 7 5, guard0 := h.extractLsb' 2 5,
    c12 := h.getLsbD 1, c01 := h.getLsbD 0 }

/-- The word of a header (R73). -/
def encodeHeader (h : Header) : Word :=
  h.literal ++ h.la2 ++ h.la1 ++ h.la0 ++ h.guard2 ++ h.guard1 ++ h.guard0 ++ BitVec.ofBool h.c12 ++ BitVec.ofBool h.c01

/-- A packet: header word and three slot words (R72). -/
structure Packet where
  header : Word
  slot0 : Word
  slot1 : Word
  slot2 : Word
  deriving DecidableEq, Repr, Inhabited

/-- The slot word i of a packet (R72). -/
def Packet.slot (p : Packet) : Nat → Word
  | 0 => p.slot0
  | 1 => p.slot1
  | _ => p.slot2

/-- Slot i of the packet is marked literal (R73). -/
def Packet.isLiteral (p : Packet) (i : Nat) : Bool := (decodeHeader p.header).literal.getLsbD i

/-- The lookahead of slot i (R73). -/
def Packet.lookahead (p : Packet) (i : Nat) : Nat :=
  match i with
  | 0 => (decodeHeader p.header).la0.toNat
  | 1 => (decodeHeader p.header).la1.toNat
  | _ => (decodeHeader p.header).la2.toNat

/-- The guard field of slot i: negate bit and selector (R73). -/
def Packet.guard (p : Packet) (i : Nat) : BitVec 5 :=
  match i with
  | 0 => (decodeHeader p.header).guard0
  | 1 => (decodeHeader p.header).guard1
  | _ => (decodeHeader p.header).guard2

/-- The four bytes of a word in memory order (R8). -/
def wordBytes (w : Word) : List Byte :=
  [w.extractLsb' 0 8, w.extractLsb' 8 8, w.extractLsb' 16 8, w.extractLsb' 24 8]

/-- The value of bytes in memory order, the first the least significant (R8). -/
def bytesVal : List Byte → Nat
  | [] => 0
  | b :: bs => b.toNat + 256 * bytesVal bs

/-- The word that four bytes hold (R8). -/
def bytesWord (bs : List Byte) : Word := BitVec.ofNat 32 (bytesVal bs)

/-- The n bytes of a value in memory order (R8). -/
def natBytes : Nat → Nat → List Byte
  | 0, _ => []
  | n + 1, x => BitVec.ofNat 8 x :: natBytes n (x / 256)

/-- The sixteen bytes of a packet (R72). -/
def packetBytes (p : Packet) : List Byte :=
  wordBytes p.header ++ wordBytes p.slot0 ++ wordBytes p.slot1 ++ wordBytes p.slot2

/-- The packet that sixteen bytes hold (R72). -/
def packetOf (bs : List Byte) : Packet :=
  { header := bytesWord (bs.take 4), slot0 := bytesWord ((bs.drop 4).take 4),
    slot1 := bytesWord ((bs.drop 8).take 4), slot2 := bytesWord ((bs.drop 12).take 4) }

/-- The header of a packet whose three slots are unguarded, unchained, of lookahead 0 (R73, R75). -/
def plainHeader : Word := 0x0000C630#32

/-- The opcode table's view of the decoder: the instruction of the word that the table's bits give,
stored little-endian as one slot and read back (R8). -/
noncomputable def decodeTableWord (nbits w : Nat) : Option Instr :=
  match decode (bytesWord (natBytes 4 (w % 2 ^ nbits))) with
  | .ok i => some i
  | .error _ => none

end Sys2Proof
end

