-- ==== Sys2Proof/Machine/Alu.lean ====
section
/-!
DEFINITION. The integer operations on words, doublewords and bits that the scalar unit and each
lane compute (05_scalar.md R123..R128, 06_lane_int.md R147..R157).
-/
namespace Sys2Proof.Machine

/-- High word of a signed product (R123, R149). -/
def mulHiS (a b : Word) : Word := hiWord (a.signExtend 64 * b.signExtend 64)
/-- High word of an unsigned product (R123, R149). -/
def mulHiU (a b : Word) : Word := hiWord (a.setWidth 64 * b.setWidth 64)
/-- a AND NOT b (R123). -/
def andNot (a b : Word) : Word := a &&& ~~~b
/-- Left shift, count unsigned, 32 or more gives 0 (R123). -/
def shl (a b : Word) : Word := if 32 ≤ b.toNat then 0 else a <<< b.toNat
/-- Right shift with zero fill (R123). -/
def shr (a b : Word) : Word := if 32 ≤ b.toNat then 0 else a >>> b.toNat
/-- Right shift with sign fill (R123). -/
def sra (a b : Word) : Word :=
  if 32 ≤ b.toNat then (if a.getLsbD 31 then 0xFFFFFFFF#32 else 0) else a.sshiftRight b.toNat
/-- Signed minimum. -/
def minS (a b : Word) : Word := if a.toInt ≤ b.toInt then a else b
/-- Signed maximum. -/
def maxS (a b : Word) : Word := if a.toInt ≤ b.toInt then b else a
/-- Unsigned minimum. -/
def minU (a b : Word) : Word := if a.toNat ≤ b.toNat then a else b
/-- Unsigned maximum. -/
def maxU (a b : Word) : Word := if a.toNat ≤ b.toNat then b else a

/-- The exact value clamped once to s32 (R48). -/
def satS32 (x : Int) : Word := BitVec.ofInt 32 (clampInt (-2 ^ 31) (2 ^ 31 - 1) x)
/-- The exact value clamped once to u32 (R48). -/
def satU32 (x : Int) : Word := BitVec.ofInt 32 (clampInt 0 (2 ^ 32 - 1) x)

/-- vadd.sat.s32 (R147). -/
def addSatS (a b : Word) : Word := satS32 (a.toInt + b.toInt)
/-- vadd.sat.u32 (R147). -/
def addSatU (a b : Word) : Word := satU32 ((a.toNat : Int) + b.toNat)
/-- vsub.sat.s32 (R147). -/
def subSatS (a b : Word) : Word := satS32 (a.toInt - b.toInt)
/-- vsub.sat.u32 (R147). -/
def subSatU (a b : Word) : Word := satU32 ((a.toNat : Int) - b.toNat)
/-- vabsd.s32 (R147). -/
def absDiffS (a b : Word) : Word := BitVec.ofNat 32 (a.toInt - b.toInt).natAbs
/-- vmad.sat.s32 (R149). -/
def madSatS (a b d : Word) : Word := satS32 (a.toInt * b.toInt + d.toInt)
/-- vmul.wide.s32 (R149). -/
def mulWideS (a b : Word) : DWord := a.signExtend 64 * b.signExtend 64
/-- vmul.wide.u32 (R149). -/
def mulWideU (a b : Word) : DWord := a.setWidth 64 * b.setWidth 64

/-- Number of set bits (R127, R150). -/
def popCount (a : Word) : Word := BitVec.ofNat 32 ((List.range 32).countP a.getLsbD)
/-- Leading zero bits; 32 for zero (R127, R150). -/
def clz (a : Word) : Word := BitVec.ofNat 32 (if a = 0 then 32 else 31 - Nat.log2 a.toNat)
/-- Trailing zero bits; 32 for zero (R127). -/
def ctz (a : Word) : Word := BitVec.ofNat 32 (((List.range 32).find? a.getLsbD).getD 32)
/-- Bit i from bit 31 − i (R127, R150). -/
def bitRev (a : Word) : Word := a.reverse

/-- Position of a field description (R128). -/
def fieldPos (b : Word) : Nat := (b.extractLsb' 0 5).toNat
/-- Length of a field description (R128). -/
def fieldLen (b : Word) : Nat := min (b.extractLsb' 8 6).toNat 32

/-- sbfx.u32, vbfx.u32 (R128, R151). -/
def bfxU (a b : Word) : Word := BitVec.ofNat 32 (a.toNat / 2 ^ fieldPos b % 2 ^ fieldLen b)

/-- sbfx.s32, vbfx.s32: the field of the 64-bit sign extension, itself sign-extended (R128, R151). -/
def bfxS (a b : Word) : Word :=
  let f := (a.signExtend 64).toNat / 2 ^ fieldPos b % 2 ^ fieldLen b
  if fieldLen b = 0 then 0
  else if 2 ^ (fieldLen b - 1) ≤ f then BitVec.ofInt 32 ((f : Int) - 2 ^ fieldLen b) else BitVec.ofNat 32 f

/-- sbfi, vbfi (R128, R151). -/
def bfi (a b d : Word) : Word :=
  let m : Word := BitVec.ofNat 32 ((2 ^ fieldLen b - 1) * 2 ^ fieldPos b)
  (d &&& ~~~m) ||| (BitVec.ofNat 32 (a.toNat * 2 ^ fieldPos b) &&& m)

/-- vfshl (R152). -/
def funnelL (a b d : Word) : Word := hiWord (pairOf d a <<< min b.toNat 64)
/-- vfshr (R152). -/
def funnelR (a b d : Word) : Word := loWord (pairOf a d >>> min b.toNat 64)

/-- Sign extension of element e of n bits (R156). -/
def sextElem (n e : Nat) (a : Word) : Word := (a.extractLsb' (n * e) n).signExtend 32
/-- Zero extension of element e of n bits (R156). -/
def zextElem (n e : Nat) (a : Word) : Word := (a.extractLsb' (n * e) n).setWidth 32
/-- A signed value clamped into lo..hi as a 32-bit register (R157). -/
def satTo (lo hi x : Int) : Word := BitVec.ofInt 32 (clampInt lo hi x)

end Sys2Proof.Machine
end

