-- ==== Sys2Proof/Machine/Flags.lean ====
section
/-!
DEFINITION. The computations of condition and predicate bits: the integer conditions of scmp,
vcmp and ccmp (05_scalar.md R125, 06_lane_int.md R153, 09_chain.md R196), the votes (R177) and the
tests of the mask branches (R129).
-/
namespace Sys2Proof.Machine

/-- The condition codes of scmp (R90, R125). -/
def scmpCond (cond : Nat) (a b : Word) : Bool :=
  match cond with
  | 0 => a == b
  | 1 => a != b
  | 2 => decide (a.toInt < b.toInt)
  | 3 => decide (a.toInt ≤ b.toInt)
  | 4 => decide (b.toInt < a.toInt)
  | 5 => decide (b.toInt ≤ a.toInt)
  | 6 => decide (a.toNat < b.toNat)
  | 7 => decide (a.toNat ≤ b.toNat)
  | 8 => decide (b.toNat < a.toNat)
  | _ => decide (b.toNat ≤ a.toNat)

/-- The six relations of vcmp and ccmp on integers (R153, R196). -/
def relCond (cond : Nat) (a b : Int) : Bool :=
  match cond with
  | 0 => a == b
  | 1 => a != b
  | 2 => decide (a < b)
  | 3 => decide (a ≤ b)
  | 4 => decide (b < a)
  | _ => decide (b ≤ a)

/-- The condition of vcmp under its type: 0 s32, 1 u32 (R153). -/
def vcmpCond (cond type : Nat) (a b : Word) : Bool :=
  if type = 0 then relCond cond a.toInt b.toInt else relCond cond a.toNat b.toNat

/-- Some bit of a lane mask is set (R129, R177). -/
def maskAny (m : LaneMask) : Bool := m != 0
/-- Every bit of a lane mask is set (R129). -/
def maskAll (m : LaneMask) : Bool := m == BitVec.allOnes 96
/-- Every active lane has its bit (R177); true when no lane is active. -/
def voteEvery (act p : LaneMask) : Bool := act &&& ~~~p == 0

end Sys2Proof.Machine
end

