-- ==== Sys2Proof/Machine/Float.lean ====
section
/-!
DEFINITION. The value formats and their arithmetic (02_values.md R47..R66): exact dyadic values,
one rounding under a mode, the floating-point operations of the lanes, the chunk rule and the
conversions.
-/
namespace Sys2Proof.Machine

/-- The rounding modes (R54). -/
inductive Rm where
  | rne
  | rz
  | rd
  | ru
  deriving DecidableEq, Repr, Inhabited

/-- The rounding mode of a code of R54. -/
def Rm.ofBits (b : BitVec 2) : Rm :=
  if b = 0 then .rne else if b = 1 then .rz else if b = 2 then .rd else .ru

/-- The floating-point formats (R47). -/
inductive Fmt where
  | f32
  | f16
  | bf16
  | e4m3
  | e5m2
  | e2m1
  deriving DecidableEq, Repr, Inhabited

/-- Exponent field width (R47). -/
def Fmt.expBits : Fmt → Nat
  | .f32 => 8
  | .f16 => 5
  | .bf16 => 8
  | .e4m3 => 4
  | .e5m2 => 5
  | .e2m1 => 2

/-- Fraction field width (R47). -/
def Fmt.fracBits : Fmt → Nat
  | .f32 => 23
  | .f16 => 10
  | .bf16 => 7
  | .e4m3 => 3
  | .e5m2 => 2
  | .e2m1 => 1

/-- Exponent bias (R47). -/
def Fmt.bias : Fmt → Int
  | .f32 => 127
  | .f16 => 15
  | .bf16 => 127
  | .e4m3 => 7
  | .e5m2 => 15
  | .e2m1 => 1

/-- Width in bits (R47). -/
def Fmt.bits (f : Fmt) : Nat := 1 + f.expBits + f.fracBits

/-- The bits of the largest finite magnitude (R47). -/
def Fmt.maxMag : Fmt → Nat
  | .f32 => 0x7F7FFFFF
  | .f16 => 0x7BFF
  | .bf16 => 0x7F7F
  | .e4m3 => 0x7E
  | .e5m2 => 0x7B
  | .e2m1 => 0x7

/-- The canonical NaN (R50); E2M1 has none and R64 gives +0 for it. -/
def Fmt.nan : Fmt → Nat
  | .f32 => 0x7FC00000
  | .f16 => 0x7E00
  | .bf16 => 0x7FC0
  | .e4m3 => 0x7F
  | .e5m2 => 0x7E
  | .e2m1 => 0

/-- The format has infinities (R47). -/
def Fmt.hasInf : Fmt → Bool
  | .f32 => true
  | .f16 => true
  | .bf16 => true
  | .e4m3 => false
  | .e5m2 => true
  | .e2m1 => false

/-- A floating-point value: NaN, an infinity, or (−1)^neg · mag · 2^exp exactly (R47). -/
inductive FVal where
  | nan
  | inf (neg : Bool)
  | fin (neg : Bool) (mag : Nat) (exp : Int)
  deriving DecidableEq, Repr, Inhabited

/-- The sign bit of a pattern of format f. -/
def Fmt.signOf (f : Fmt) (x : Nat) : Bool := x / 2 ^ (f.bits - 1) % 2 == 1

/-- The exponent field of a pattern. -/
def Fmt.expOf (f : Fmt) (x : Nat) : Nat := x / 2 ^ f.fracBits % 2 ^ f.expBits

/-- The fraction field of a pattern. -/
def Fmt.fracOf (f : Fmt) (x : Nat) : Nat := x % 2 ^ f.fracBits

/-- The integer significand of a pattern, hidden bit explicit (R47, R58). -/
def Fmt.sigOf (f : Fmt) (x : Nat) : Nat :=
  if f.expOf x = 0 then f.fracOf x else 2 ^ f.fracBits + f.fracOf x

/-- The unbiased exponent of a pattern; a subnormal has 1 − bias (R47, R58). -/
def Fmt.unbiased (f : Fmt) (x : Nat) : Int :=
  if f.expOf x = 0 then 1 - f.bias else (f.expOf x : Int) - f.bias

/-- The pattern is a NaN (R47). -/
def Fmt.isNaN (f : Fmt) (x : Nat) : Bool :=
  match f with
  | .e2m1 => false
  | .e4m3 => x % 128 == 127
  | _ => f.expOf x == 2 ^ f.expBits - 1 && f.fracOf x != 0

/-- The pattern is an infinity (R47). -/
def Fmt.isInf (f : Fmt) (x : Nat) : Bool :=
  f.hasInf && f.expOf x == 2 ^ f.expBits - 1 && f.fracOf x == 0

/-- The value of a pattern (R47, R52). -/
def Fmt.val (f : Fmt) (x : Nat) : FVal :=
  if f.isNaN x then .nan
  else if f.isInf x then .inf (f.signOf x)
  else .fin (f.signOf x) (f.sigOf x) (f.unbiased x - f.fracBits)

/-- Bit length of a natural number. -/
def bitLen (m : Nat) : Nat := if m = 0 then 0 else Nat.log2 m + 1

/-- Whether a truncated magnitude is raised by one unit: the remainder rem of a unit 2·half, the
truncated magnitude odd or even, the value negative or not (R54). -/
def roundsUp (mode : Rm) (neg odd : Bool) (rem half : Nat) : Bool :=
  match mode with
  | .rne => decide (half < rem) || (rem == half && odd && rem != 0)
  | .rz => false
  | .rd => neg && rem != 0
  | .ru => !neg && rem != 0

/-- The magnitude m · 2^(−d) rounded to an integer under the mode (R54). -/
def roundShift (mode : Rm) (neg : Bool) (m d : Nat) : Nat :=
  if d = 0 then m
  else
    m / 2 ^ d + (if roundsUp mode neg (m / 2 ^ d % 2 == 1) (m % 2 ^ d) (2 ^ (d - 1)) then 1 else 0)

/-- The pattern of a sign and a magnitude pattern. -/
def Fmt.signed (f : Fmt) (neg : Bool) (mag : Nat) : Nat := (if neg then 2 ^ (f.bits - 1) else 0) + mag

/-- The overflowed result (R55, R63, R64). -/
def Fmt.overflow (f : Fmt) (mode : Rm) (neg : Bool) : Nat :=
  if f.hasInf && (match mode with
      | .rne => true
      | .rz => false
      | .rd => neg
      | .ru => !neg)
  then f.signed neg (f.maxMag + 1) else f.signed neg f.maxMag

/-- One rounding of the exact magnitude m · 2^e into format f (R53..R55): the subnormal grid below
the least normal, overflow by R55. -/
def Fmt.round (f : Fmt) (mode : Rm) (neg : Bool) (m : Nat) (e : Int) : Nat :=
  if m = 0 then f.signed neg 0
  else
    let qmin : Int := 1 - f.bias - f.fracBits
    let q : Int := max (e + (bitLen m : Int) - 1 - f.fracBits) qmin
    let r : Nat := if q ≤ e then m * 2 ^ (e - q).toNat else roundShift mode neg m (q - e).toNat
    let bits : Nat := (q - qmin).toNat * 2 ^ f.fracBits + r
    if f.maxMag < bits then f.overflow mode neg else f.signed neg bits

/-- The pattern of a value in format f, rounded once (R53, R62..R64). An E4M3 or E2M1 destination
takes an infinity to its largest magnitude. -/
def Fmt.pack (f : Fmt) (mode : Rm) : FVal → Nat
  | .nan => f.nan
  | .inf neg => if f.hasInf then f.signed neg (f.maxMag + 1) else f.signed neg f.maxMag
  | .fin neg m e => f.round mode neg m e

/-- Conversion into E4M3 with .nan: a value beyond the range and an infinity give 0x7F (R63). -/
def packE4m3Nan (mode : Rm) (v : FVal) : Nat :=
  match v with
  | .nan => 0x7F
  | .inf _ => 0x7F
  | .fin neg m e =>
    if m = 0 then Fmt.e4m3.signed neg 0
    else
      let q : Int := max (e + (bitLen m : Int) - 4) (-9)
      let r : Nat := if q ≤ e then m * 2 ^ (e - q).toNat else roundShift mode neg m (q - e).toNat
      let bits : Nat := (q + 9).toNat * 8 + r
      if 0x7E < bits then 0x7F else Fmt.e4m3.signed neg bits

/-- The integer of sign and magnitude. -/
def signedInt (neg : Bool) (m : Nat) : Int := if neg then -(m : Int) else m

/-- The exact sum of two values; an exact zero takes its sign from R56. -/
def FVal.add (mode : Rm) (x y : FVal) : FVal :=
  match x, y with
  | .nan, _ => .nan
  | _, .nan => .nan
  | .inf a, .inf b => if a = b then .inf a else .nan
  | .inf a, .fin _ _ _ => .inf a
  | .fin _ _ _, .inf b => .inf b
  | .fin a m e, .fin b n g =>
    let lo := min e g
    let s := signedInt a (m * 2 ^ (e - lo).toNat) + signedInt b (n * 2 ^ (g - lo).toNat)
    if s = 0 then .fin (if a = b then a else decide (mode = .rd)) 0 0
    else .fin (decide (s < 0)) s.natAbs lo

/-- The value with its sign inverted. -/
def FVal.neg : FVal → FVal
  | .nan => .nan
  | .inf a => .inf (!a)
  | .fin a m e => .fin (!a) m e

/-- The exact product (R53, R161). -/
def FVal.mul (x y : FVal) : FVal :=
  match x, y with
  | .nan, _ => .nan
  | _, .nan => .nan
  | .inf a, .inf b => .inf (a != b)
  | .inf a, .fin b n _ => if n = 0 then .nan else .inf (a != b)
  | .fin a m _, .inf b => if m = 0 then .nan else .inf (a != b)
  | .fin a m e, .fin b n g => .fin (a != b) (m * n) (e + g)

/-- The exact comparison of two finite or infinite values: −1, 0 or 1; zeros are equal (R166). -/
def FVal.cmp (x y : FVal) : Int :=
  match x, y with
  | .nan, _ => 0
  | _, .nan => 0
  | .inf a, .inf b => if a = b then 0 else if a then -1 else 1
  | .inf a, .fin _ _ _ => if a then -1 else 1
  | .fin _ _ _, .inf b => if b then 1 else -1
  | .fin a m e, .fin b n g =>
    let lo := min e g
    Int.sign (signedInt a (m * 2 ^ (e - lo).toNat) - signedInt b (n * 2 ^ (g - lo).toNat))

/-- round(mode, a + b) in format f (R161, R165). -/
def Fmt.addBits (f : Fmt) (mode : Rm) (a b : Nat) : Nat := f.pack mode ((f.val a).add mode (f.val b))
/-- round(mode, a − b) in format f (R161). -/
def Fmt.subBits (f : Fmt) (mode : Rm) (a b : Nat) : Nat := f.pack mode ((f.val a).add mode (f.val b).neg)
/-- round(mode, a · b) in format f (R161, R165). -/
def Fmt.mulBits (f : Fmt) (mode : Rm) (a b : Nat) : Nat := f.pack mode ((f.val a).mul (f.val b))
/-- round(mode, ±(a · b) ± d) in format f (R164, R165). -/
def Fmt.fmaBits (f : Fmt) (mode : Rm) (np nd : Bool) (a b d : Nat) : Nat :=
  let p := (f.val a).mul (f.val b)
  let c := f.val d
  f.pack mode ((if np then p.neg else p).add mode (if nd then c.neg else c))

/-- The min rule of R162 on patterns of format f. -/
def Fmt.minBits (f : Fmt) (a b : Nat) : Nat :=
  if f.isNaN a && f.isNaN b then f.nan
  else if f.isNaN a then b
  else if f.isNaN b then a
  else
    let c := (f.val a).cmp (f.val b)
    if c = 0 then (if f.signOf a then a else b) else if c < 0 then a else b

/-- The max rule of R162 on patterns of format f. -/
def Fmt.maxBits (f : Fmt) (a b : Nat) : Nat :=
  if f.isNaN a && f.isNaN b then f.nan
  else if f.isNaN a then b
  else if f.isNaN b then a
  else
    let c := (f.val a).cmp (f.val b)
    if c = 0 then (if f.signOf a then b else a) else if c < 0 then b else a

/-- A word taken as an FP32 pattern and back. -/
def f32Bin (g : Nat → Nat → Nat) (a b : Word) : Word := BitVec.ofNat 32 (g a.toNat b.toNat)

/-- fadd on words (R161). -/
def fAdd (mode : Rm) : Word → Word → Word := f32Bin (Fmt.f32.addBits mode)
/-- fsub on words (R161). -/
def fSub (mode : Rm) : Word → Word → Word := f32Bin (Fmt.f32.subBits mode)
/-- fmul on words (R161). -/
def fMul (mode : Rm) : Word → Word → Word := f32Bin (Fmt.f32.mulBits mode)
/-- fmin on words (R162). -/
def fMin : Word → Word → Word := f32Bin Fmt.f32.minBits
/-- fmax on words (R162). -/
def fMax : Word → Word → Word := f32Bin Fmt.f32.maxBits
/-- The word is an FP32 NaN. -/
def fIsNaN (a : Word) : Bool := Fmt.f32.isNaN a.toNat
/-- The canonical FP32 NaN (R50). -/
def f32NaN : Word := 0x7FC00000#32
/-- Any NaN turned into the canonical NaN (R50). -/
def fCanon (a : Word) : Word := if fIsNaN a then f32NaN else a
/-- fcopysign (R161). -/
def fCopysign (a b : Word) : Word :=
  if fIsNaN a || fIsNaN b then f32NaN else (a &&& 0x7FFFFFFF#32) ||| (b &&& 0x80000000#32)
/-- fabs (R161). -/
def fAbs (a : Word) : Word := if fIsNaN a then f32NaN else a &&& 0x7FFFFFFF#32
/-- fneg (R161). -/
def fNeg (a : Word) : Word := if fIsNaN a then f32NaN else a ^^^ 0x80000000#32
/-- The fused multiply-add family (R164). -/
def fFma (mode : Rm) (np nd : Bool) (a b d : Word) : Word :=
  BitVec.ofNat 32 (Fmt.f32.fmaBits mode np nd a.toNat b.toNat d.toNat)

/-- An integer converted exactly, or under rne, into FP32 bits (R66, R86). -/
def fOfInt (x : Int) : Word := BitVec.ofNat 32 (Fmt.f32.round .rne (decide (x < 0)) x.natAbs 0)

/-- Two packed halves computed apart (R49, R165). -/
def packed2 (g : Nat → Nat → Nat → Nat) (a b d : Word) : Word :=
  BitVec.ofNat 16 (g (a.extractLsb' 16 16).toNat (b.extractLsb' 16 16).toNat (d.extractLsb' 16 16).toNat) ++
  BitVec.ofNat 16 (g (a.extractLsb' 0 16).toNat (b.extractLsb' 0 16).toNat (d.extractLsb' 0 16).toNat)

/-- The conditions of vcmp.f32 (R166). -/
def fCond (cond : Nat) (a b : Word) : Bool :=
  let nan := fIsNaN a || fIsNaN b
  let c := (Fmt.f32.val a.toNat).cmp (Fmt.f32.val b.toNat)
  match cond with
  | 0 => !nan && c == 0
  | 1 => nan || c != 0
  | 2 => !nan && decide (c < 0)
  | 3 => !nan && decide (c ≤ 0)
  | 4 => !nan && decide (0 < c)
  | 5 => !nan && decide (0 ≤ c)
  | 6 => nan
  | _ => !nan

/-! ### The chunk rule -/

/-- The fraction bits F below the largest product (R59): the aligned magnitude less the product width. -/
def chunkF (fa fb : Fmt) : Nat :=
  match fa, fb with
  | .bf16, .bf16 => 10
  | .f16, .f16 => 4
  | _, _ => 18 - (fa.fracBits + fb.fracBits)

/-- One term of a chunk: sign, product of the significands, exponent sum (R58). -/
def chunkTerm (fa fb : Fmt) (p : Nat × Nat) : Bool × Nat × Int :=
  (fa.signOf p.1 != fb.signOf p.2, fa.sigOf p.1 * fb.sigOf p.2, fa.unbiased p.1 + fb.unbiased p.2)

/-- The largest exponent sum of the nonzero terms (R58). -/
def chunkTop : List (Bool × Nat × Int) → Option Int
  | [] => none
  | (_, m, x) :: ts =>
    match chunkTop ts with
    | none => if m = 0 then none else some x
    | some y => if m = 0 then some y else some (max x y)

/-- The sum of the aligned and truncated terms (R58). -/
def chunkSum (f : Nat) (top : Int) : List (Bool × Nat × Int) → Int
  | [] => 0
  | (g, m, x) :: ts => signedInt g (m * 2 ^ f / 2 ^ (top - x).toNat) + chunkSum f top ts

/-- A product of the pair is an infinity of the sign, a NaN, or neither (R60). -/
def chunkSpecial (fa fb : Fmt) (p : Nat × Nat) : FVal := (fa.val p.1).mul (fb.val p.2)

/-- chunk(fa, fb, a, b, s, acc, mode) of R58..R60 on the list of element pairs. -/
def chunk (fa fb : Fmt) (ps : List (Nat × Nat)) (s : Int) (acc : Word) (mode : Rm) : Word :=
  let sp := ps.map (chunkSpecial fa fb)
  let pos := sp.contains (.inf false)
  let neg := sp.contains (.inf true)
  let accv := Fmt.f32.val acc.toNat
  if accv == .nan || sp.contains .nan then f32NaN
  else if pos && neg then f32NaN
  else if pos then (if accv == .inf true then f32NaN else 0x7F800000#32)
  else if neg then (if accv == .inf false then f32NaN else 0xFF800000#32)
  else if accv == .inf true || accv == .inf false then acc
  else
    let ts := ps.map (chunkTerm fa fb)
    match chunkTop ts with
    | none => acc
    | some top =>
      let sum := chunkSum (chunkF fa fb) top ts
      if sum = 0 then acc
      else
        let v : FVal := .fin (decide (sum < 0)) sum.natAbs
          (top - ((fa.fracBits + fb.fracBits : Nat) : Int) - chunkF fa fb + s)
        BitVec.ofNat 32 (Fmt.f32.pack mode (v.add mode accv))

/-! ### Conversions -/

/-- The element formats of vcvt (R91). -/
inductive Elem where
  | flt (f : Fmt)
  | e4m3nan
  | int (signed : Bool) (width : Nat)
  deriving DecidableEq, Repr, Inhabited

/-- The format of an "other" code of R91; 15 is none. -/
def Elem.ofCode : Nat → Option Elem
  | 0 => some (.flt .f32)
  | 1 => some (.flt .f16)
  | 2 => some (.flt .bf16)
  | 3 => some (.flt .e4m3)
  | 4 => some .e4m3nan
  | 5 => some (.flt .e5m2)
  | 6 => some (.flt .e2m1)
  | 7 => some (.int true 32)
  | 8 => some (.int false 32)
  | 9 => some (.int true 16)
  | 10 => some (.int false 16)
  | 11 => some (.int true 8)
  | 12 => some (.int false 8)
  | 13 => some (.int true 4)
  | 14 => some (.int false 4)
  | _ => none

/-- The format of a "wide" code of R91; 3 is none. -/
def Elem.ofWide : Nat → Option Elem
  | 0 => some (.flt .f32)
  | 1 => some (.int true 32)
  | 2 => some (.int false 32)
  | _ => none

/-- Width of an element in bits (R49). -/
def Elem.width : Elem → Nat
  | .flt f => f.bits
  | .e4m3nan => 8
  | .int _ w => w

/-- The element is an integer format. -/
def Elem.isInt : Elem → Bool
  | .int _ _ => true
  | _ => false

/-- The integer that an n-bit pattern stands for. -/
def intOfBits (signed : Bool) (n x : Nat) : Int :=
  if signed && decide (2 ^ (n - 1) ≤ x % 2 ^ n) then ((x % 2 ^ n : Nat) : Int) - 2 ^ n else (x % 2 ^ n : Nat)

/-- The value that an element's pattern stands for (R47, R48); e4m3.nan is read as e4m3 (R91). -/
def Elem.val : Elem → Nat → FVal
  | .flt f, x => f.val (x % 2 ^ f.bits)
  | .e4m3nan, x => Fmt.e4m3.val (x % 256)
  | .int sg n, x => .fin (decide (intOfBits sg n x < 0)) (intOfBits sg n x).natAbs 0

/-- A value rounded to an integer under the mode and saturated to the range (R65). -/
def packInt (signed : Bool) (n : Nat) (mode : Rm) (v : FVal) : Nat :=
  let lo : Int := if signed then -(2 ^ (n - 1)) else 0
  let hi : Int := if signed then 2 ^ (n - 1) - 1 else 2 ^ n - 1
  let x : Int :=
    match v with
    | .nan => 0
    | .inf neg => if neg then lo else hi
    | .fin neg m e => clampInt lo hi (signedInt neg (if 0 ≤ e then m * 2 ^ e.toNat else roundShift mode neg m (-e).toNat))
  (x % 2 ^ n).toNat

/-- convert(x, destination, rm) of R168: the source value into the destination's pattern. -/
def Elem.pack (mode : Rm) : Elem → FVal → Nat
  | .flt f, v => f.pack mode v
  | .e4m3nan, v => packE4m3Nan mode v
  | .int sg n, v => packInt sg n mode v

/-- Element e of width n of a word (R49). -/
def elemOf (n e : Nat) (x : Word) : Nat := x.toNat / 2 ^ (n * e) % 2 ^ n

/-- The word with element e of width n replaced (R49, R91). -/
def setElem (n e : Nat) (x : Word) (y : Nat) : Word :=
  BitVec.ofNat 32 (x.toNat - elemOf n e x * 2 ^ (n * e) + y % 2 ^ n * 2 ^ (n * e))

/-- vcvt with dir = 0 on one lane: element e of the source, in the other format, into the wide one (R167). -/
def cvtWiden (wide other : Elem) (mode : Rm) (e : Nat) (a : Word) : Word :=
  BitVec.ofNat 32 (wide.pack mode (other.val (elemOf other.width e a)))

/-- vcvt with dir = 1 on one lane: the wide value into element e of the old destination (R167). -/
def cvtNarrow (wide other : Elem) (mode : Rm) (e : Nat) (a d : Word) : Word :=
  setElem other.width e d (other.pack mode (wide.val a.toNat))

end Sys2Proof.Machine
end

