-- ==== Sys2Proof/Machine/Cross.lean ====
section
/-!
DEFINITION. The cross-lane operations (08_lane_cross.md R176..R185) on the 96 lanes of a register
and a lane mask: shuffles, the reduction tree, scans, match, rank, intersection, top-k, argmax and
the random numbers of 02_values.md R70.
-/
namespace Sys2Proof.Machine

/-- The value of a lane; lanes beyond 95 do not exist and read 0. -/
def laneAt (v : Lanes Word) (l : Nat) : Word := if h : l < 96 then v[l] else 0

/-- The lanes of a list of values, lane 0 first. -/
def lanesOfList (xs : List Word) : Lanes Word := Lanes.tab fun l => xs.getD l.val 0

/-- A lane mask from a predicate on lanes. -/
def maskOf (f : Nat → Bool) : LaneMask :=
  (List.range 96).foldr (fun l m => m ||| (if f l then BitVec.twoPow 96 l else 0)) 0

/-- The active lanes in increasing order. -/
def activeLanes (act : LaneMask) : List Nat := (List.range 96).filter act.getLsbD

/-- The lane that a shuffle takes for lane l: src l, or l itself where that is undefined (R176). -/
def shuffleLane (src : Nat → Option Nat) (l : Nat) : Nat :=
  match src l with
  | some j => if j ≤ 95 then j else l
  | none => l

/-- A shuffle: lane l takes lane src l, or itself where that is undefined (R176). -/
def shuffle (v : Lanes Word) (src : Nat → Option Nat) : Lanes Word :=
  Lanes.tab fun l => laneAt v (shuffleLane src l.val)

/-- comb of R178. -/
def comb (op : Word → Word → Word) : Option Word → Option Word → Option Word
  | none, y => y
  | x, none => x
  | some a, some b => some (op a b)

/-- One level of the tree: neighbours combined (R178). -/
def combPairs (op : Word → Word → Word) : List (Option Word) → List (Option Word)
  | a :: b :: xs => comb op a b :: combPairs op xs
  | xs => xs

/-- The fixed tree of R178 over the active lanes. -/
def reduce (op : Word → Word → Word) (act : LaneMask) (v : Lanes Word) : Option Word :=
  let x0 := (List.range 96).map fun l => if act.getLsbD l then some (laneAt v l) else none
  let x5 := combPairs op (combPairs op (combPairs op (combPairs op (combPairs op x0))))
  comb op (comb op (x5.getD 0 none) (x5.getD 1 none)) (x5.getD 2 none)

/-- The reduction's result in every lane (R178). -/
def reduceLanes (op : Word → Word → Word) (canon : Bool) (act : LaneMask) (v : Lanes Word) : Lanes Word :=
  let r := (reduce op act v).getD 0
  Lanes.tab fun _ => if canon then fCanon r else r

/-- The inclusive fold of active lanes in increasing order, one value for each lane; an inactive
lane carries the value before it (R179). -/
def scanList (op : Word → Word → Word) (act : LaneMask) (v : Lanes Word) : List Nat → Option Word → List Word
  | [], _ => []
  | l :: ls, acc =>
    if act.getLsbD l then
      let r := match acc with
        | none => laneAt v l
        | some a => op a (laneAt v l)
      r :: scanList op act v ls (some r)
    else acc.getD 0 :: scanList op act v ls acc

/-- The inclusive scan (R179). -/
def scanIncl (op : Word → Word → Word) (act : LaneMask) (v : Lanes Word) : Lanes Word :=
  lanesOfList (scanList op act v (List.range 96) none)

/-- The exclusive integer scan: the inclusive sum less the lane's own value (R179). -/
def scanExcl (act : LaneMask) (v : Lanes Word) : Lanes Word :=
  let s := scanIncl (· + ·) act v
  Lanes.tab fun l => s[l] - v[l]

/-- The FP32 scan; every NaN it writes is canonical (R179). -/
def scanF32 (act : LaneMask) (v : Lanes Word) : Lanes Word :=
  let s := scanIncl (fAdd .rne) act v
  Lanes.tab fun l => fCanon s[l]

/-- Q(l) of R180 as a list of lanes. -/
def sameLanes (act : LaneMask) (v : Lanes Word) (l : Nat) : List Nat :=
  (activeLanes act).filter fun j => laneAt v j == laneAt v l

/-- vmatch (R180). -/
def matchLanes (act : LaneMask) (v : Lanes Word) : Lanes Word :=
  Lanes.tab fun l => BitVec.ofNat 32 (sameLanes act v l.val).length

/-- vrank (R180). -/
def rankLanes (act : LaneMask) (v : Lanes Word) : Lanes Word :=
  Lanes.tab fun l => BitVec.ofNat 32 ((sameLanes act v l.val).countP fun j => decide (j < l.val))

/-- vlead (R180). -/
def leadLanes (act : LaneMask) (v : Lanes Word) : LaneMask :=
  maskOf fun l => (sameLanes act v l).head? == some l

/-- The largest unsigned value of the active lanes; 0 when there is none. -/
def maxActive (act : LaneMask) (v : Lanes Word) : Nat :=
  (activeLanes act).foldl (fun m j => max m (laneAt v j).toNat) 0

/-- visect (R181). -/
def intersect (act : LaneMask) (a b : Lanes Word) : Lanes Word :=
  let m := min (maxActive act a) (maxActive act b)
  let ls := activeLanes act
  let advB := ls.countP fun j => decide ((laneAt b j).toNat ≤ m)
  let advA := ls.countP fun j => decide ((laneAt a j).toNat ≤ m)
  Lanes.tab fun l =>
    let hit := ls.find? fun j => laneAt b j == a[l]
    BitVec.ofNat 32 (hit.getD 0 * 2 ^ 24 + advB * 2 ^ 16 + advA * 2 ^ 8 + (if hit.isSome then 1 else 0))

/-- The rank of an active lane by descending key, equal keys by lower index (R182). -/
def keyRank (act : LaneMask) (v : Lanes Word) (j : Nat) : Nat :=
  (activeLanes act).countP fun i =>
    decide ((laneAt v j).toNat < (laneAt v i).toNat) || (laneAt v i == laneAt v j && decide (i < j))

/-- vtopk (R182). -/
def topK (act : LaneMask) (v : Lanes Word) (k : Word) : Lanes Word :=
  let ls := activeLanes act
  Lanes.tab fun l =>
    if l.val < min k.toNat ls.length then
      BitVec.ofNat 32 ((ls.find? fun j => keyRank act v j == l.val).getD 0)
    else 0xFFFFFFFF#32

/-- The first lane of the list that no other beats, by a strict relation better a b. -/
def bestLane (better : Word → Word → Bool) (v : Lanes Word) : List Nat → Option Nat
  | [] => none
  | l :: ls =>
    match bestLane better v ls with
    | none => some l
    | some j => if better (laneAt v j) (laneAt v l) then some j else some l

/-- a beats b by the max rule of R162, NaNs passed over and +0 above −0 (R183). -/
def betterF32 (a b : Word) : Bool :=
  if fIsNaN a then false
  else if fIsNaN b then true
  else
    let c := (Fmt.f32.val a.toNat).cmp (Fmt.f32.val b.toNat)
    decide (0 < c) || (c == 0 && b.getLsbD 31 && !a.getLsbD 31)

/-- vargmax (R183): the index of the best active lane in every lane. -/
def argMax (better : Word → Word → Bool) (act : LaneMask) (v : Lanes Word) : Lanes Word :=
  Lanes.tab fun _ => BitVec.ofNat 32 ((bestLane better v (activeLanes act)).getD 0)

/-- The value of vrnd for one lane (R70). -/
def rndLane (key draw : DWord) (l : Nat) : Word :=
  let x : DWord := (draw <<< 7) ||| BitVec.ofNat 64 l
  let z0 : DWord := key + x * 0x9E3779B97F4A7C15#64
  let z1 : DWord := (z0 ^^^ (z0 >>> 30)) * 0xBF58476D1CE4E5B9#64
  let z2 : DWord := (z1 ^^^ (z1 >>> 27)) * 0x94D049BB133111EB#64
  loWord (z2 ^^^ (z2 >>> 31))

end Sys2Proof.Machine
end

