-- ==== Sys2Proof/Machine/Limbs.lean ====
section
/-!
DEFINITION. Long integers across lanes (09_chain.md R186..R199) on the lanes of registers and the
carry words: geometry, active chains, the split test, add, subtract, shift and multiply-accumulate.
-/
namespace Sys2Proof.Machine

/-- The carry words of a warp (R192). -/
abbrev Carries := Vector Word 48

/-- The limb counts that cbind takes (R187). -/
def bindCounts : List Nat := [2, 3, 4, 6, 8, 12, 16, 24, 32, 48, 96]

/-- The chains of limb count n (R186); none while unbound. -/
def chainList (n : Nat) : List Nat := if n = 0 then [] else List.range (96 / n)

/-- The lanes of chain c (R186). -/
def chainLanes (n c : Nat) : List Nat := (List.range n).map (c * n + ·)

/-- val(v, c) of R186. -/
def chainVal (v : Lanes Word) (n c : Nat) : Nat :=
  (List.range n).foldr (fun i a => (laneAt v (c * n + i)).toNat * 2 ^ (32 * i) + a) 0

/-- Every lane of chain c is active (R186). -/
def chainActive (n : Nat) (act : LaneMask) (c : Nat) : Bool := (chainLanes n c).all act.getLsbD

/-- Some but not all lanes of chain c are active. -/
def chainPartly (n : Nat) (act : LaneMask) (c : Nat) : Bool :=
  (chainLanes n c).any act.getLsbD && !chainActive n act c

/-- The chains that a mask leaves partly active under n, as the 48-bit mask of R191. -/
def splitChains (n : Nat) (mask : LaneMask) : BitVec 48 :=
  BitVec.ofNat 48 (((chainList n).filter (chainPartly n mask)).foldl (fun a c => a + 2 ^ c) 0)

/-- The chains that a guard splits: mask bits all set, active for some but not all lanes (R145, R190). -/
def guardSplits (n : Nat) (mask act : LaneMask) : BitVec 48 :=
  BitVec.ofNat 48 (((chainList n).filter fun c => chainActive n mask c && chainPartly n act c).foldl
    (fun a c => a + 2 ^ c) 0)

/-- put(vd, c, Y) for every active chain: the limbs of f c (R186). -/
def putChains (n : Nat) (act : LaneMask) (old : Lanes Word) (f : Nat → Nat) : Lanes Word :=
  Lanes.tab fun l =>
    if chainActive n act (l.val / n) then BitVec.ofNat 32 (f (l.val / n) / 2 ^ (32 * (l.val % n))) else old[l]

/-- Carry words of the active chains replaced (R192). -/
def putCarries (n : Nat) (act : LaneMask) (old : Carries) (f : Nat → Nat) : Carries :=
  Vector.ofFn fun c : Fin 48 =>
    if c.val < 96 / n && chainActive n act c.val then BitVec.ofNat 32 (f c.val) else old[c]

/-- The carry word of chain c. -/
def carryAt (k : Carries) (c : Nat) : Word := if h : c < 48 then k[c] else 0

/-- The exact sum or difference of a chain before reduction (R195). -/
def chainSum (n : Nat) (sub cin : Bool) (a b : Lanes Word) (k : Carries) (c : Nat) : Int :=
  let ci : Int := if cin && (carryAt k c).getLsbD 0 then 1 else 0
  if sub then (chainVal a n c : Int) - chainVal b n c - ci else (chainVal a n c : Int) + chainVal b n c + ci

/-- The overflow of R195: a carry out of, or a borrow into, limb n − 1. -/
def chainOver (n : Nat) (sub : Bool) (y : Int) : Bool :=
  if sub then decide (y < 0) else decide ((2 : Int) ^ (32 * n) ≤ y)

/-- The value that R195 writes. -/
def chainSumVal (n : Nat) (sub cin sat : Bool) (a b : Lanes Word) (k : Carries) (c : Nat) : Nat :=
  let y := chainSum n sub cin a b k c
  if sat && chainOver n sub y then (if sub then 0 else 2 ^ (32 * n) - 1) else (y % 2 ^ (32 * n)).toNat

/-- The carry that R195 writes. -/
def chainSumCarry (n : Nat) (sub cin : Bool) (a b : Lanes Word) (k : Carries) (c : Nat) : Nat :=
  if chainOver n sub (chainSum n sub cin a b k c) then 1 else 0

/-- The value of a left shift by s bits, before the split into chain and carry (R197). -/
def chainShl (n s : Nat) (a : Lanes Word) (k : Carries) (c : Nat) : Nat :=
  chainVal a n c * 2 ^ s + (carryAt k c).toNat * 2 ^ s / 2 ^ 32

/-- The value of chain and carry that a right shift moves (R197). -/
def chainShr (n : Nat) (a : Lanes Word) (k : Carries) (c : Nat) : Nat :=
  (carryAt k c).toNat * 2 ^ (32 * n) + chainVal a n c

/-- val(vd, c) + val(va, c)·b with b limb j of the second chain (R198). -/
def chainMac (n j : Nat) (d a b : Lanes Word) (c : Nat) : Nat :=
  chainVal d n c + chainVal a n c * (laneAt b (c * n + j)).toNat

/-- The lanes whose chain is active, as a mask (R186). -/
def chainLaneMask (n : Nat) (act : LaneMask) : LaneMask :=
  if n = 0 then 0 else maskOf fun l => chainActive n act (l / n)

end Sys2Proof.Machine
end

