-- ==== Sys2Proof/Machine/State.lean ====
section
/-!
DEFINITION. The state of the YI-96A as plain data: warps, groups, cores, memory, the host's view
(tenants, contexts, queues, launches, nodes), pages and channels, links, the Switor complex; the
outcomes that are no state; and the state right after reset.
-/
namespace Sys2Proof.Machine

/-! ### The warp -/

/-- The registers of a warp (04_warp.md R105). -/
structure Regs where
  v : Vector (Lanes Word) 128
  s : Vector Word 128
  p : Vector LaneMask 12
  c : BitVec 8
  k : Vector (BitVec 256) 32
  chn : Nat
  carry : Carries
  draw : DWord
  deriving DecidableEq, Repr, Inhabited

/-- All-zero registers (R105, R106). -/
def Regs.zero : Regs :=
  { v := Vector.replicate 128 (Vector.replicate 96 0), s := Vector.replicate 128 0, p := Vector.replicate 12 0, c := 0,
    k := Vector.replicate 32 0, chn := 0, carry := Vector.replicate 48 0, draw := 0 }

/-- A register as the lookahead checks name it (R83, R194). -/
inductive RegId where
  | v (n : Nat)
  | s (n : Nat)
  | p (n : Nat)
  | c (n : Nat)
  | k (n : Nat)
  | chn
  | carry
  | draw
  deriving DecidableEq, Repr, Inhabited

/-- The cause codes of traps (14_group.md R311). -/
inductive Cause where
  | illOp | futureOp | illPacket | laConflict | regRange | badRecord | bounds | misalign | prot
  | addrFault | scratchRange | accRange | chainSplit | chainFault | fetchFault | machineCheck
  | eccUncorr | trapInsn | brk | absentFault | quota | draw | watchdog
  deriving DecidableEq, Repr, Inhabited

/-- What a trap record says beyond the group and its warps (R312). -/
structure TrapInfo where
  cause : Cause
  under : Option Cause
  precise : Bool
  warp : Nat
  arg : Word
  pc : Nat
  mask : LaneMask
  chainMask : Bool
  addr : Option Nat
  fromAbsent : Bool
  deriving DecidableEq, Repr, Inhabited

/-- One lane's part of an access: its address (virtual, or a scratchpad byte address), whether
bounds mode 1 drops it (R207), its operand, and for cpy32 the valid byte count (R259). -/
structure LaneReq where
  lane : Nat
  va : Nat
  drop : Bool
  data : BitVec 128
  len : Nat
  deriving DecidableEq, Repr, Inhabited

/-- A lane that failed after issue: cause and address (R221). -/
structure LaneFail where
  lane : Nat
  cause : Cause
  addr : Nat
  deriving DecidableEq, Repr, Inhabited

/-- What an entry of an in-flight path does when it is performed (R112). -/
inductive PathOp where
  | load (esize : Nat) (signed : Bool)
  | store (esize : Nat)
  | chainLoad (n : Nat)
  | chainStore (n : Nat)
  | atom (k : AtomKind) (signed : Bool) (esize : Nat) (ret : Bool)
  | sload (esize : Nat) (signed : Bool)
  | sstore (esize : Nat)
  | satom (k : AtomKind) (signed : Bool)
  | ldrec
  | strec
  | nemit (node : Nat)
  | mbArm (n : Word)
  | mbPost (n : Word)
  | mbBytes (n : Word)
  | cpy32
  | move
  deriving DecidableEq, Repr, Inhabited

/-- The states of a warp (R108). -/
inductive WStatus where
  | created | ready | stalled | sleeping | draining | exited | halted | evicted
  deriving DecidableEq, Repr, Inhabited

/-- What holds the warp's later M-pipe and T-pipe slots (R220, R227, R228, R230). `upto` is the
number of the first entry that it does not wait for. -/
inductive Hold where
  | none
  | fence (code upto : Nat)
  | rfence (upto : Nat)
  | cache (inval : Bool) (va count : Nat)
  | acquire (seq scope : Nat)
  deriving DecidableEq, Repr, Inhabited

/-- A group barrier's hardware state (15_barrier.md R314), its warps' arrival bits beside it. -/
structure GBar where
  expected : Nat
  arrived : Nat
  phase : Bool
  trans : BitVec 24
  members : BitVec 16
  bits : BitVec 16
  deriving DecidableEq, Repr, Inhabited

/-- A change that a slot makes to a group barrier: its number, and the barrier before and after it. -/
structure Deed where
  bar : Nat
  old : GBar
  new_ : GBar
  deriving DecidableEq, Repr, Inhabited

/-- A warp as it was before a set, which a precise trap of the set puts back (R43, R191): the slot count, the number of the next path
entry, the registers, the status, the open commit group, the hold and whether a gb.meet was met; and what the set has done to barriers. -/
structure Undo where
  clk0 : DWord
  seq0 : Nat
  regs : Regs
  status : WStatus
  cgOpen : Nat
  hold : Hold
  meeting : Bool
  deeds : List Deed
  deriving DecidableEq, Repr, Inhabited

/-- An outstanding instruction on a path (R112, R113). `seq` is its place in the warp's issue order, `set` the number of its
chained set (R41), `clk0` the slot count at its issue (R310); `back`: what its result may put the warp back to (R191);
`parked`: an atomic that waits at a granule being copied, and so is performed at grp (R441). -/
structure PathEntry where
  seq : Nat
  set : Nat
  path : Nat
  pc : Nat
  clk0 : DWord
  op : PathOp
  dst : Nat
  order : Nat
  scope : Nat
  policy : Nat
  reqs : List LaneReq
  writes : List RegId
  pend : Bool
  got : Option (List (Nat × BitVec 128))
  fails : List LaneFail
  done : Bool
  back : Option Undo
  parked : Bool
  deriving DecidableEq, Repr, Inhabited

/-- A lookahead window and its instruction's results (R82, R83, R41): positions left, the registers
that the instruction reads and writes, whether its results are written, and, for a replay or a
MACHINE_CHECK, its word, PC and active lanes, and the warp as it was before its set; `rerun`: it waits for the check after a shadow divergence, `rewrite`: for the rewrite point that follows a failed one;
`suspect`: the unit that diverged. -/
structure LookWindow where
  left : Nat
  set : Nat
  reads : List RegId
  writes : List RegId
  ready : Bool
  entry : Option Nat
  pc : Nat
  shadowed : Bool
  divs : Nat
  rerun : Bool
  rewrite : Bool
  suspect : Option (UnitKind × Nat)
  word : Word
  act : LaneMask
  undo : Undo
  deriving DecidableEq, Repr, Inhabited

/-- The work of a copy queue (12_copy.md R253..R265): a cpy32, a stage whose entries are not released yet (R245), a released schedule
entry with its 64 bytes and biases, or a qfence marker. -/
inductive CopyOp where
  | cpy32 (entry : Nat)
  | stage (number : BitVec 8)
  | sched (index : Nat) (bytes : List Byte) (dy dz : Int)
  | fence (id : Nat)
  deriving DecidableEq, Repr, Inhabited

/-- The states of R265 that an entry stays in. -/
inductive CopyState where
  | queued | moving
  deriving DecidableEq, Repr, Inhabited

/-- A cached translation (19_page.md R377): virtual base, size and the leaf's fields; the A and D bits that it holds, bit 0 those of
the leaf, or bit i those of entry i of a 64 KiB run (R375, R376). -/
structure Tlb where
  ctx : Nat
  va : Nat
  size : Nat
  pa : Nat
  w : Bool
  x : Bool
  a : BitVec 16
  d : BitVec 16
  o : Bool
  key : Nat
  policy : Nat
  deriving DecidableEq, Repr, Inhabited

/-- An entry of a copy queue: the number of its chained set (R41), rows moved so far, the translations held and the bytes moved under the
hold (R266). -/
structure CopyItem where
  set : Nat
  pc : Nat
  clk0 : DWord
  op : CopyOp
  st : CopyState
  rows : Nat
  held : List Tlb
  heldBytes : Nat
  deriving DecidableEq, Repr, Inhabited

/-- The tile operations (13_tile.md R269, R283). -/
inductive TileOp where
  | mma (fmt shape : Nat) (sat : Bool)
  | tzero (w : Nat)
  | tld (f w : Nat)
  | tst (f w : Nat)
  | tget (m v : Nat)
  | tfill (m : Nat) (data : List (Lanes Word))
  | fence (id : Nat)
  deriving DecidableEq, Repr, Inhabited

/-- The states of a tile entry (R289). -/
inductive TileState where
  | posted | gathering | ready | running | saved
  deriving DecidableEq, Repr, Inhabited

/-- An entry of a tile queue and of the core's reservation table (R275); `set`: the number of its chained set (R41), `suspect`: the
physical column whose shadow diverged (R42). -/
structure TileEntry where
  seq : Nat
  set : Nat
  pc : Nat
  clk0 : DWord
  op : TileOp
  act : LaneMask
  addrs : List (Nat × Nat)
  word : Word
  coord : Word
  age : Nat
  st : TileState
  commit : Nat
  rows : List (Nat × List Byte)
  chunks : Nat
  granted : Option (List (Nat × Word))
  divs : Nat
  rerun : Bool
  rewrite : Bool
  suspect : Option Nat
  deriving DecidableEq, Repr, Inhabited

/-- An entry of a collective queue (20_link.md R397..R401): the number of its chained set (R41), its record once read, the peers' data,
and whether its destination is written (R400). -/
structure CollItem where
  set : Nat
  pc : Nat
  clk0 : DWord
  addr : Nat
  fence : Option Nat
  record : Option (List Byte)
  peers : List (Nat × List Word)
  written : Bool
  deriving DecidableEq, Repr, Inhabited

/-- A warp (R105, R108). `meeting`: its gb.meet has posted and waits for the arrival bit to clear (R319, R322). `skidPackets`: the
packets that it has begun since a halt broadcast (R309). `badRegs`: the words of its vector registers, by register and logical lane,
that ECC cannot correct (R23, R33). -/
structure Warp where
  wid : Nat
  pc : Nat
  regs : Regs
  clk : DWord
  nregs : Nat
  status : WStatus
  saved : WStatus
  entries : List PathEntry
  nextSeq : Nat
  windows : List LookWindow
  packet : Option (Nat × Packet)
  sleepLeft : Nat
  copyQ : List CopyItem
  tileQ : List TileEntry
  collQ : List CollItem
  cgOpen : Nat
  slots : List PathEntry
  hold : Hold
  lastIssue : Nat
  setNo : Nat
  stopPc : Nat
  skid : Nat
  skidPackets : Nat
  bcast : Bool
  badRegs : List (Nat × Nat)
  part : Nat
  scSaved : DWord
  meeting : Bool
  deriving DecidableEq, Repr, Inhabited

/-! ### The group -/

/-- A posted arrival that is not applied yet (R315): it waits for the warp's entries below upto, and for its chained set (R41). -/
structure Posted where
  warp : Nat
  set : Nat
  bar : Nat
  upto : Nat
  deriving DecidableEq, Repr, Inhabited

/-- A scratchpad translation entry (10_buffer.md R214), and the placement that it is being repointed to
(R216): the in-memory bit and the index. -/
structure Page where
  valid : Bool
  inMem : Bool
  index : Nat
  toward : Option (Bool × Nat)
  deriving DecidableEq, Repr, Inhabited

/-- A stage that has not been applied yet (R253). -/
structure StageReq where
  warp : Nat
  pc : Nat
  clk0 : DWord
  number : BitVec 8
  dy : Int
  dz : Int
  deriving DecidableEq, Repr, Inhabited

/-- A staged write or red of an ordered page (R339, R340, R382): address, page attributes, and the
bytes or the operation. -/
structure Staged where
  va : Nat
  data : List Byte
  red : Option (AtomKind × Bool × DWord)
  deriving DecidableEq, Repr, Inhabited

/-- A kernel descriptor as admission reads it (16_kernel.md R332). -/
structure Desc where
  entry : Nat
  sched : Nat
  vregs : Nat
  warps : Nat
  pages : Nat
  units : Nat
  draw : Nat
  determ : Bool
  timing : Bool
  partialOk : Bool
  node : Bool
  version : Nat
  timer : Nat
  staging : Nat
  deriving DecidableEq, Repr, Inhabited

/-- The states of a group (14_group.md R292). -/
inductive GStatus where
  | pending | resident | evicting | evicted | resuming | migrating | halting | halted | retired
  deriving DecidableEq, Repr, Inhabited

/-- A task control block (R308): a group's footprint, in warps, registers per lane, accumulator units and scratchpad pages, and the core
that it migrates to. -/
structure TaskBlock where
  warps : Nat
  regs : Nat
  units : Nat
  pages : Nat
  core : Nat
  deriving DecidableEq, Repr, Inhabited

/-- A group (R292, R301). `image`, `scratchImage` and `stagingArea` are virtual addresses of its areas of the
context's image pool (R301, R339), `returnSpace` the bytes of its image's area behind the accumulator rows (R300), `batch`: the batch of a node group (R355); `away`: its warps' state is in the image and its
operations are diverted (R304), while `leaving` holds its pages still move to the scratch image and the core's resources are not freed (R299 steps 5 to 7); `target`: the core that it waits for or is gleaned on (R297, R306); `task`: the block that the firmware migrates it by (R308); `badScratch`,
`badAcc`: the words of its scratchpad and accumulator rows that ECC cannot correct (R27, R31, R33). -/
structure Group where
  ref : GRef
  gx : Word
  gy : Word
  gz : Word
  dx : Word
  dy : Word
  dz : Word
  status : GStatus
  core : Nat
  desc : Desc
  prio : Nat
  warps : List Warp
  bars : List GBar
  shadow : List (Nat × Nat)
  posted : List Posted
  stage : BitVec 8
  scratch : List Host.Cell
  pages : List Page
  acc : List (Nat × Word)
  badScratch : List Nat
  badAcc : List Nat
  staged : List Staged
  stagedSize : Nat
  seen : List Nat
  trap : Option TrapInfo
  dispatchNo : Nat
  quantumOver : Bool
  absentFault : Bool
  schedWait : List StageReq
  image : Nat
  scratchImage : Nat
  stagingArea : Nat
  returnSpace : Nat
  away : Bool
  leaving : Bool
  target : Option Nat
  task : Option TaskBlock
  fenceId : Nat
  batch : Option Nat
  deriving DecidableEq, Repr, Inhabited

/-! ### The core and the die -/

/-- The states of a physical unit (01_fold.md R33). -/
inductive UnitState where
  | live | suspect | evacuating | retired
  deriving DecidableEq, Repr, Inhabited

/-- A partition: its units and its bank steering (R17, R23, R24). `copied`: for each evacuating bank the row that its copy has come
to (R36); `rewriting`: issue to its vector and transcendental pipes is stopped for a rewrite point (R37); `mowing`: the units whose
check step holds issue (R35). -/
structure Partition where
  lanes : List UnitState
  quads : List UnitState
  banks : List UnitState
  scalar : UnitState
  bankOf : List Nat
  newBankOf : Option (List Nat)
  retiredWhole : Bool
  laneTable : List Nat
  copied : List (Nat × Nat)
  rewriting : Bool
  mowing : List (UnitKind × Nat)
  deriving DecidableEq, Repr, Inhabited

/-- A line of an L1 (R210, R211): base address, key id, keep mark, valid sectors, the bytes of the valid
sectors as filled, and the dirty bytes. -/
structure Line where
  base : Nat
  key : Nat
  keep : Bool
  valid : BitVec 4
  clean : List Host.Cell
  dirty : List Host.Cell
  deriving DecidableEq, Repr, Inhabited

/-- A granule of a record cache (R208). -/
structure Granule where
  ctx : Nat
  va : Nat
  data : BitVec 256
  deriving DecidableEq, Repr, Inhabited

/-- A line of an instruction cache (03_packet.md R96). -/
structure CodeLine where
  ctx : Nat
  va : Nat
  data : List Byte
  deriving DecidableEq, Repr, Inhabited

/-- A diversion entry (R304), a forwarding entry once the group is resident elsewhere (R306); `clks`: the warps' slot counts
as the group left the core, before which its operations were issued. -/
structure Divert where
  ref : GRef
  forward : Bool
  clks : List (Nat × DWord)
  deriving DecidableEq, Repr, Inhabited

/-- A core (R3). `copied`: for each evacuating scratchpad bank the row that its copy has come to (R36); `mowing`: its scratchpad banks
and columns whose check step holds access (R35). -/
structure Core where
  parts : List Partition
  sbanks : List UnitState
  sbankRanks : List Nat
  cols : List UnitState
  colTable : List Nat
  l1 : List Line
  recs : List Granule
  icache : List CodeLine
  ifills : List (Nat × Nat)
  tlb : List Tlb
  scClock : DWord
  divert : List Divert
  engineActive : Bool
  colCheck : Bool
  ageNo : Nat
  vacated : Bool
  copied : List (Nat × Nat)
  mowing : List (UnitKind × Nat)
  deriving DecidableEq, Repr, Inhabited

/-- A compute die: its translation cache, its draw ceiling and the junction hold (R377, R337, R409). -/
structure Die where
  tlb : List Tlb
  ceiling : Nat
  hot : Bool
  deriving DecidableEq, Repr, Inhabited

/-! ### The host's view -/

/-- A tenant (R360), with the vectors raised (R362), the 64 bytes of its command window (R365) and what its last read through the virtual function
returned (R361). -/
structure Tenant where
  enabled : Bool
  windows : List (Nat × Nat)
  ctxLimit : Nat
  errBase : Nat
  errLog2 : Nat
  errHeld : List (List Byte)
  quantum : Nat
  vectors : BitVec 4
  block : List Byte
  readData : List Byte
  deriving DecidableEq, Repr, Inhabited

/-- The states of a context (R366). -/
inductive CtxState where
  | created | idle | running | faulted | evicting | suspended | resuming | destroyed
  deriving DecidableEq, Repr, Inhabited

/-- The states of a command queue (17_queue.md R347). -/
inductive QState where
  | idle | active | waiting | error | stopped
  deriving DecidableEq, Repr, Inhabited

/-- What has become of an absent-fault record: nothing yet, passed over by a trap of its group that reported another one, or reported by
one (R313). -/
inductive AbsentMark where
  | fresh | passed | reported
  deriving DecidableEq, Repr, Inhabited

/-- An absent-fault record of a group (R305, R313). -/
structure Absent where
  ref : GRef
  trap : TrapInfo
  mark : AbsentMark
  deriving DecidableEq, Repr, Inhabited

/-- A command of a context that waits for those before it (R365): its code and block, the edits of a GROUP_RESUME (log entry 78), and
whether it is the device's next turn. -/
structure Waiting where
  code : Nat
  cmd : Cmd
  edits : List Edit
  now : Bool
  deriving DecidableEq, Repr, Inhabited

/-- A context (R363, R366). `heldTraps`, `heldAbsent`: the records that are not in its trap queue and absent-fault area yet (R364,
R370, R378); `cmd`: the command that is under way, its code first, `waiting`: those that have come after it, oldest
first (R365); `lost`: the records that its DESTROY has counted (R369). -/
structure Context where
  id : Nat
  tenant : Nat
  state : CtxState
  root : Nat
  poolBase : Nat
  poolPages : Nat
  poolUsed : List (Nat × Nat)
  watchdog : Nat
  dies : BitVec 8
  trapBase : Nat
  trapLog2 : Nat
  afBase : Nat
  afCap : Nat
  nextSeq : Nat
  heldTraps : List (List Byte)
  absent : List Absent
  heldAbsent : List (Absent × List Byte)
  savedQueues : List (Nat × QState)
  destroying : Bool
  migrating : Option Nat
  cmd : Option (Nat × Cmd)
  waiting : List Waiting
  lost : Nat
  deriving DecidableEq, Repr, Inhabited

/-- A nesting level of a queue: virtual address of the next packet and packets left (R350). -/
structure Nest where
  va : Nat
  left : Nat
  deriving DecidableEq, Repr, Inhabited

/-- A hardware queue that holds a command queue (R345..R351); `line`: the packets of the ring that one access has read, by their index
(R346); `stores`: the values that device code has stored to its write index, each with the launch of the storing group, 0 for the host
(R352). -/
structure Queue where
  num : Nat
  ctx : Nat
  ring : Nat
  log2 : Nat
  cap : Nat
  widxVa : Nat
  ridxVa : Nat
  errVa : Nat
  state : QState
  nest : List Nest
  line : List (Nat × List Byte)
  waitFor : Option (List Nat)
  unbind : Option Nat
  stores : List (Nat × Nat)
  deriving DecidableEq, Repr, Inhabited

/-- An admitted launch (R334, R342, R349, R350). `sigQueue`: the queue at which a failing signal is an error, for a node launch that of
its unbind packet (R351, R356); `split`: its pending groups run on the target of a MIGRATE, which has `reported`
them complete; `only`: on that target, the groups still to be dispatched (R371). -/
structure Launch where
  ctx : Nat
  seq : Nat
  queue : Nat
  header : Word
  pktVa : Nat
  level : Nat
  prio : Nat
  desc : Desc
  arg : Nat
  dx : Nat
  dy : Nat
  dz : Nat
  items : Nat
  sigVa : Nat
  sigInc : Nat
  sigQueue : Nat
  acquire : Nat
  release : Nat
  parent : Nat
  next : Nat
  total : Nat
  released : Nat
  acqCores : List Nat
  ranCores : List Nat
  node : Option Nat
  aborted : Bool
  complete : Bool
  split : Bool
  reported : Bool
  only : Option (List Nat)
  deriving DecidableEq, Repr, Inhabited

/-- A node binding with its hardware queue and rick (R353..R356). -/
structure Node where
  ctx : Nat
  num : Nat
  launch : Nat
  arg : Nat
  rickVa : Nat
  quota : Nat
  batches : Nat
  pool : Nat
  hw : List (BitVec 128)
  rick : List (BitVec 128)
  rickHead : Nat
  timerOn : Bool
  freeBatch : List Nat
  formed : Nat
  unbinding : Bool
  deriving DecidableEq, Repr, Inhabited

/-- An invalidation request (19_page.md R379), and whether its translations are removed (R380). -/
structure Invalid where
  tenant : Nat
  ctx : Nat
  va : Nat
  pages : Nat
  compVa : Nat
  value : Nat
  removed : Bool
  deriving DecidableEq, Repr, Inhabited

/-! ### Pages, channels, links, firmware -/

/-- The states of a slot (19_page.md R385). -/
inductive SlotState where
  | data | reserve | withdrawn | moving
  deriving DecidableEq, Repr, Inhabited

/-- An entry of the slot table (R385). -/
structure SlotEntry where
  state : SlotState
  channel : Nat
  target : Nat
  deriving DecidableEq, Repr, Inhabited

/-- A channel's error record and retirement (R386): the times of the errors it corrected, the granules of those it could not,
its place in the order of thresholds met. -/
structure Channel where
  num : Nat
  corrected : List Nat
  badGranules : List Nat
  due : Option Nat
  retired : Bool
  deriving DecidableEq, Repr, Inhabited

/-- The states of a Faore port (20_link.md R394). -/
inductive PState where
  | off | training | up | degraded | draining
  deriving DecidableEq, Repr, Inhabited

/-- A port: its live strands, sequence numbers and replay buffer (R393), and the acknowledgement that it gave last, true, or negative one,
with its sequence number; what it has reported to the host: an identity conflict, or training given up (R392, R394). `sentAt`: when the flits of the last second were sent, `nakAt`: the strands and times of its
replays (R393). -/
structure Port where
  state : PState
  strands : BitVec 8
  attempts : Nat
  conflict : Bool
  gaveUp : Bool
  sendSeq : BitVec 16
  recvSeq : BitVec 16
  replay : List (BitVec 16 × Flit)
  sentAt : List Nat
  nakAt : List (Nat × Nat)
  answered : Option (Bool × BitVec 16)
  deriving DecidableEq, Repr, Inhabited

/-- A write to a granule that is being copied, from a core: it waits for the copy to end (R387, R441). Of an atomic, the warp and the
number of its entry, with the cells that it will write as they now stand; it waits until the entry is performed. -/
structure Parked where
  core : Nat
  key : Nat
  data : List Host.Cell
  atom : Option (WRef × Nat)
  deriving DecidableEq, Repr, Inhabited

/-- A grant of the link access table (21_firmware.md R416). -/
structure Grant where
  source : Nat
  key : Nat
  access : BitVec 3
  base : Nat
  size : Nat
  deriving DecidableEq, Repr, Inhabited

/-- An operation sent to a remote device that its target has not acknowledged yet (R232, R240): its core, the warp that it was made for,
none for one by the firmware, and the trap that it ends in where it is left with no live route, with the slot count at its
instruction's issue (R396). -/
structure Sent where
  number : Nat
  core : Nat
  by_ : Option WRef
  lost : Option (TrapInfo × DWord)
  deriving DecidableEq, Repr, Inhabited

/-- The link core's state (R392..R396): the number of the next operation of this device, the writes whose acknowledgement is still to
come, the flits that wait for a place in a port's replay buffer with the devices that they are for, what this step has written beyond local memory, the
operations performed here with their answers (R396), and the port that the operations to a device take (R396). -/
structure Links where
  identity : Option Nat
  ports : List Port
  routes : List (Nat × List Nat)
  grants : List Grant
  performed : List ((Nat × Nat) × LinkAnswer)
  nextOp : Nat
  sent : List Sent
  waiting : List (Nat × Flit)
  wrote : List Host.Cell
  taken : List (Nat × Nat)
  deriving DecidableEq, Repr, Inhabited

/-- On-package flash: the only state held across power-off (R34, R404, R405, R407). -/
structure Flash where
  retired : List (BitVec 64 × Nat)
  versions : List Nat
  gleku : Nat
  deriving DecidableEq, Repr, Inhabited

/-- A request for a report (R407, R408): its nonce, and its index once flash has passed it. -/
structure Attest where
  nonce : List Nat
  index : Option Nat
  deriving DecidableEq, Repr, Inhabited

/-- The Switor complex (R402..R414); `recs`: the record cache of the queue front end (R333, R350);
`keys`: the key ids that are loaded, each with the number of its load; `material`: the 96 bytes that each key slot was loaded with
(R389, R414); `mail`: the messages on their way, oldest first, `mailWait`: those that their senders wait with (R403); `requests`: the
reports asked for, oldest first (R408); `diagCmd`: the DIAG_CMD that is under way while DIAG_STATUS reads 1 (R410, R411); `pfRun`: the
command block of the physical function that is under way (R414). -/
structure Switor where
  boot : Nat
  measurements : List Nat
  mail : List (List Byte)
  mailWait : List (List Byte)
  requests : List Attest
  attestCtl : Nat
  attestAddr : Nat
  attestNonce : List Nat
  watts : Nat
  hottest : Nat
  diagStatus : Nat
  diagCmd : BitVec 64
  diagAddr : Nat
  cause : BitVec 64
  pf : List Byte
  pfRun : Option (List Byte)
  keys : List (Nat × Nat)
  material : List (Nat × List Byte)
  loads : Nat
  scrubLog : List (List Byte)
  divLog : Nat
  recs : List Granule
  deriving DecidableEq, Repr, Inhabited

/-- A word that ECC has something to say of (R23, R27, R31, R390): an uncorrectable one of a warp's vector register in a logical
lane, of a group's scratchpad or accumulator rows by its number, or a sector of HBM by its number, corrected or not. -/
inductive Upset where
  | reg (r : WRef) (n lane : Nat)
  | frame (g : GRef) (word : Nat)
  | acc (g : GRef) (word : Nat)
  | hbm (sector : Nat) (corrected : Bool)
  deriving DecidableEq, Repr, Inhabited

/-- What moves next: the issue of a partition whose busy pipes the entry lists (R110), an event of
the opcode table, or what has no row there: an ECC error, the next row of an evacuation's copy (R36), a message that a Switor core
sends (R403), a command that has waited for those before it (R365). -/
inductive Turn where
  | issue (core part : Nat) (busy : List Nat)
  | event (i : Instr)
  | upset (u : Upset)
  | copyRow (u : UnitId)
  | mail (msg : List Byte)
  | command (x : Waiting)
  deriving DecidableEq, Repr, Inhabited

/-- A write by the firmware that waits for a page or for the end of a granule's copy (R378, R387). -/
structure HeldPut where
  ctx : Nat
  va : Nat
  data : List Byte
  deriving DecidableEq, Repr, Inhabited

/-- A page for which a bring-in found no place (R378): the warps whose access waits for it and is to fail, and those whose access fails in
this step. -/
structure NoPage where
  ctx : Nat
  entry : Nat
  fails : List WRef
  telling : List WRef
  deriving DecidableEq, Repr, Inhabited

/-- The slot being issued (R72..R82): its address, the address that follows its set, guard field and
lookahead, the packet's literals, the number of its chained set and whether it has another member,
whether a slot of the set trapped or stalled, or was a conditional branch taken or a wsr draw, the number of
the warp's next path entry before the set, the warp as it stood before the set (R79) with what the set has done to barriers, the core,
and the slot's word. -/
structure Issue where
  at_ : Nat
  next : Nat
  guard : BitVec 5
  la : Nat
  lits : List Word
  setNo : Nat
  chained : Bool
  trapped : Bool
  stalled : Bool
  taken : Bool
  drawSet : Bool
  back : Undo
  core : Nat
  word : Word
  deriving DecidableEq, Repr, Inhabited

/-- The machine. `sectorKey`: for each sector that has been written, the code of the key of its tag. `flaws`: the sectors that hold an uncorrectable ECC error which no read has met yet (R390). `lastServed`: for a priority the launch served last (R293). `w`, `g` and `iss` are the issue stage: the warp, group and slot that a step loads
from the tables and puts back. `tick` numbers the free values that have been used (DESIGN CHOICE, log entry 2). -/
structure State where
  w : Warp
  g : Group
  iss : Issue
  groups : List Group
  cores : List Core
  dies : List Die
  mem : List Host.Cell
  poison : List Nat
  sectorKey : List (Nat × Nat)
  slots : List (Nat × SlotEntry)
  channels : List Channel
  moving : Option (Nat × Nat × Bool)
  parked : List Parked
  slices : List Bool
  chanSlice : List (Nat × Nat)
  scStamp : List (Nat × DWord)
  scHigh : List DWord
  tenants : List Tenant
  ctxs : List Context
  queues : List Queue
  launches : List Launch
  nodes : List Node
  invalid : List Invalid
  noPage : List NoPage
  flaws : List Nat
  fwHeld : List HeldPut
  links : Links
  flash : Flash
  switor : Switor
  time : DWord
  dispatchNo : Nat
  lastServed : List (Nat × Nat × Nat)
  issueNo : Nat
  agenda : List Turn
  tick : Nat
  deriving DecidableEq, Repr, Inhabited

/-- A step that the machine cannot take. -/
inductive Fault where
  /-- Raised by `step` when a turn names a core that the part does not have (00_scope.md R2: cores
  0..191). No instruction and no event raises it. Safe: the hardware has no such core to issue from. -/
  | noSuchCore
  deriving DecidableEq, Repr, Inhabited

/-- An instruction that has no meaning here. -/
inductive Refusal where
  /-- Raised by an arm of `exec` whose instruction has not been given its meaning. Safe. -/
  | notModelled (mnemonic : String)
  /-- Raised by `step` when the agenda gives as an event an instruction that only a warp issues: such a
  turn is no input that the device has. Safe. -/
  | notAnEvent
  deriving DecidableEq, Repr, Inhabited

/-! ### Reset -/

/-- A partition as manufactured: every unit live, logical bank b on physical bank b (log entry 4). -/
def Partition.fresh : Partition :=
  { lanes := List.replicate 36 .live, quads := List.replicate 9 .live, banks := List.replicate 26 .live, scalar := .live,
    bankOf := List.range 24, newBankOf := none, retiredWhole := false, laneTable := List.range 36, copied := [], rewriting := false,
    mowing := [] }

/-- A core before bring-up: empty caches, idle engine (DESIGN CHOICE, log entry 5). -/
def Core.fresh : Core :=
  { parts := List.replicate 4 Partition.fresh, sbanks := List.replicate 36 .live, sbankRanks := List.range 36,
    cols := List.replicate 34 .live, colTable := List.range 34, l1 := [], recs := [], icache := [], ifills := [], tlb := [],
    scClock := 0, divert := [], engineActive := false, colCheck := false, ageNo := 0, vacated := false, copied := [], mowing := [] }

/-- A tenant that has not been set up (R360) (DESIGN CHOICE, log entry 89). -/
def Tenant.fresh : Tenant :=
  { enabled := false, windows := [], ctxLimit := 0, errBase := 0, errLog2 := 4, errHeld := [], quantum := 2000, vectors := 0,
    block := List.replicate 64 0, readData := [] }

/-- A port that is off (R394) (DESIGN CHOICE, log entry 90). -/
def Port.fresh : Port :=
  { state := .off, strands := 0xFF, attempts := 0, conflict := false, gaveUp := false, sendSeq := 0, recvSeq := 0, replay := [], sentAt := [],
    nakAt := [], answered := none }

/-- The group barrier of a group of n warps at dispatch (R314). -/
def GBar.fresh (n : Nat) : GBar :=
  { expected := n, arrived := 0, phase := false, trans := 0, members := BitVec.ofNat 16 (2 ^ n - 1), bits := 0 }

/-- A warp at launch, its scalar registers and PC aside (R105). -/
def Warp.fresh (wid nregs pc : Nat) : Warp :=
  { wid := wid, pc := pc, regs := Regs.zero, clk := 0, nregs := nregs, status := .ready, saved := .ready, entries := [],
    nextSeq := 0, windows := [], packet := none, sleepLeft := 0, copyQ := [], tileQ := [], collQ := [], cgOpen := 0,
    slots := [], hold := .none, lastIssue := 0, setNo := 0, stopPc := 0, skid := 0, skidPackets := 0, bcast := false, badRegs := [], part := 0, scSaved := 0, meeting := false }

/-- A descriptor of all zeros. -/
def Desc.zero : Desc :=
  { entry := 0, sched := 0, vregs := 0, warps := 0, pages := 0, units := 0, draw := 0, determ := false, timing := false,
    partialOk := false, node := false, version := 0, timer := 0, staging := 0 }

/-- A group before dispatch. -/
def Group.fresh (ref : GRef) (desc : Desc) : Group :=
  { ref := ref, gx := 0, gy := 0, gz := 0, dx := 0, dy := 0, dz := 0, status := .pending, core := 0, desc := desc, prio := 0,
    warps := [], bars := List.replicate 16 (GBar.fresh desc.warps), shadow := List.replicate 16 (0, 0), posted := [], stage := 0,
    scratch := [], pages := [], acc := [], badScratch := [], badAcc := [], staged := [], stagedSize := 0, seen := [], trap := none, dispatchNo := 0,
    quantumOver := false, absentFault := false, schedWait := [], image := 0, scratchImage := 0, stagingArea := 0,
    returnSpace := 0, away := false, leaving := false, target := none, task := none, fenceId := 0, batch := none }

/-- A warp before anything has issued. -/
def Undo.zero : Undo :=
  { clk0 := 0, seq0 := 0, regs := Regs.zero, status := .ready, cgOpen := 0, hold := .none, meeting := false, deeds := [] }

/-- The issue stage with nothing in it. -/
def Issue.empty : Issue :=
  { at_ := 4, next := 8, guard := 12, la := 0, lits := [], setNo := 0, chained := false, trapped := false, stalled := false, taken := false, drawSet := false, back := Undo.zero,
    core := 0, word := 0 }

/-- Flash as manufactured (log entry 6). -/
def Flash.fresh : Flash := { retired := [], versions := List.replicate 8 0, gleku := 0 }

/-- The Switor complex before bring-up (R404, R410) (DESIGN CHOICE, log entry 91). -/
def Switor.fresh : Switor :=
  { boot := 0, measurements := [], mail := [], mailWait := [], requests := [], attestCtl := 0, attestAddr := 0, attestNonce := List.replicate 4 0,
    watts := 0, hottest := 0, diagStatus := 0, diagCmd := 0, diagAddr := 0, cause := 0,
    pf := List.replicate 64 0, pfRun := none, keys := [], material := [], loads := 0, scrubLog := [], divLog := 0, recs := [] }

/-- The links before bring-up: no identity, every port off (R392, R394, R404). -/
def Links.fresh : Links :=
  { identity := none, ports := List.replicate 12 Port.fresh, routes := [], grants := [], performed := [], nextOp := 0, sent := [],
    waiting := [], wrote := [], taken := [] }

/-- The device right after fundamental reset is released (R404): it holds nothing but flash, no group
is resident and nothing is on the agenda. The issue stage holds a warp of no group (log entry 3). The time register counts from here
(R119) (DESIGN CHOICE, log entry 114). -/
def State.reset : State :=
  { w := Warp.fresh 0 128 4, g := Group.fresh default Desc.zero, iss := Issue.empty, groups := [],
    cores := List.replicate 192 Core.fresh, dies := List.replicate 8 { tlb := [], ceiling := 4, hot := false }, mem := [],
    poison := [], sectorKey := [], slots := [], channels := [], moving := none, parked := [], slices := List.replicate 128 true,
    chanSlice := [], scStamp := [], scHigh := List.replicate 4 0, tenants := List.replicate 16 Tenant.fresh, ctxs := [],
    queues := [], launches := [], nodes := [], invalid := [], noPage := [], flaws := [], fwHeld := [], links := Links.fresh, flash := Flash.fresh, switor := Switor.fresh,
    time := 0, dispatchNo := 0, lastServed := [], issueNo := 0, agenda := [], tick := 0 }

end Sys2Proof.Machine
end

