-- ==== Sys2Proof/Config.lean ====
section
/-!
DEFINITION. What an implementation or the outside world fixes and the spec leaves open: opaque
constants without a body, applied to State.tick or to the operands they depend on. No number of
them can be evaluated or proved.
-/
namespace Sys2Proof.Config

/-- What moves next when the agenda is empty (log entry 1). -/
opaque freeTurn : Nat → Machine.Turn
/-- A byte that a remote device returns, or that host memory outside the device's knowledge holds (R395). -/
opaque remoteByte : Nat → Nat → Byte
/-- The timestamp of a line that a remote device holds (R242, R243). -/
opaque remoteStamp : Nat → Nat → DWord
/-- The row of a physical register bank that holds a warp's vector register (R35, R36) (DESIGN CHOICE, log entry 117). -/
opaque registerRow : WRef → Nat → Nat
/-- The row of a physical scratchpad bank that holds a row of a core's frame (R27, R36) (DESIGN CHOICE, log entry 117). -/
opaque frameRow : Nat → Nat → Nat → Nat
/-- What the host reads of a byte whose sector cannot be read, or whose granule is refused (R361, R385, R390). -/
opaque hostByte : Nat → Nat → Byte
/-- The records that the device can hold beside a full host error queue (R369). -/
opaque errRoom : Nat
/-- A target refuses a link operation because its link access table grants it nothing (R395). -/
opaque remoteRefused : Nat → Nat → Bool
/-- The ports, up to 4, through which the link core's route table reaches a link identity (R396). -/
opaque route : Nat → List Nat
/-- Device nanoseconds that pass before the next step (R119). -/
opaque elapsed : Nat → BitVec 32
/-- An XMSS signature over the preceding bytes (R408). -/
opaque signature : List Byte → Nat → List Byte
/-- The low word of the serial number in DEV_ID (R410). -/
opaque serial : BitVec 32
/-- The revision in DEV_ID and in group images (R302, R410). -/
opaque revision : BitVec 8
/-- Which of the free pages, pool areas, batches and numbers is taken (R292, R355, R365, R378; log entries 23, 25, 53). -/
opaque freePlace : Nat → Nat
/-- A byte of a group image whose layout the spec leaves open: warp blocks, saved tile entries, headers of return slots (R301, R303). -/
opaque imageByte : Machine.Group → Nat → Byte
/-- A byte of the 32-byte record that a host error queue takes of something whose layout there the spec leaves open (R369, R379). -/
opaque hostRecord : List Byte → Nat → Byte
/-- What an ABSENT_FAULT reports when every record of the group was dropped (R313, R370). -/
opaque droppedFault : Nat → Machine.TrapInfo

end Sys2Proof.Config
end

