-- ==== Sys2Proof/Machine/Ops.lean ====
section
/-!
DEFINITION. The named operations over the issue stage: registers (R105), the mask and the guard
(R76, R116), immediates (R86), the checks made before a slot takes effect (R82..R84, R89, R109), taking a
trap (R309) and retiring a slot (R81, R82).
-/
namespace Sys2Proof.Machine

/-! ### Registers -/

/-- Vector register n. -/
def Regs.vget (r : Regs) (n : BitVec 7) : Lanes Word := r.v[n.toNat]'(n.isLt)
/-- Vector register n replaced. -/
def Regs.vset (r : Regs) (n : BitVec 7) (x : Lanes Word) : Regs := { r with v := r.v.set n.toNat x n.isLt }
/-- Scalar register n. -/
def Regs.sget (r : Regs) (n : BitVec 7) : Word := r.s[n.toNat]'(n.isLt)
/-- Scalar register n replaced. -/
def Regs.sset (r : Regs) (n : BitVec 7) (x : Word) : Regs := { r with s := r.s.set n.toNat x n.isLt }
/-- The doubleword of the even–odd pair n, n + 1 (R8). -/
def Regs.spair (r : Regs) (n : BitVec 7) : DWord := pairOf (r.sget (n + 1)) (r.sget n)
/-- The pair n, n + 1 replaced. -/
def Regs.spairSet (r : Regs) (n : BitVec 7) (x : DWord) : Regs := (r.sset n (loWord x)).sset (n + 1) (hiWord x)
/-- The 96 bits of the triple n, n + 1, n + 2 (R134). -/
def Regs.triple (r : Regs) (n : BitVec 7) : LaneMask := r.sget (n + 2) ++ r.sget (n + 1) ++ r.sget n
/-- The triple n, n + 1, n + 2 replaced. -/
def Regs.tripleSet (r : Regs) (n : BitVec 7) (m : LaneMask) : Regs :=
  ((r.sset n (m.extractLsb' 0 32)).sset (n + 1) (m.extractLsb' 32 32)).sset (n + 2) (m.extractLsb' 64 32)
/-- The activity mask s125..s127 (R105). -/
def Regs.mask (r : Regs) : LaneMask := r.triple 125
/-- The activity mask replaced. -/
def Regs.maskSet (r : Regs) (m : LaneMask) : Regs := r.tripleSet 125 m
/-- Predicate n; there are twelve. -/
def Regs.pget (r : Regs) (n : Nat) : LaneMask := if h : n < 12 then r.p[n] else 0
/-- Predicate n replaced. -/
def Regs.pset (r : Regs) (n : Nat) (m : LaneMask) : Regs := if h : n < 12 then { r with p := r.p.set n m h } else r
/-- Condition n. -/
def Regs.cget (r : Regs) (n : Nat) : Bool := r.c.getLsbD n
/-- Condition n replaced. -/
def Regs.cset (r : Regs) (n : Nat) (b : Bool) : Regs :=
  { r with c := if b then r.c ||| BitVec.twoPow 8 n else r.c &&& ~~~(BitVec.twoPow 8 n) }
/-- Record n. -/
def Regs.kget (r : Regs) (n : Nat) : BitVec 256 := if h : n < 32 then r.k[n] else 0
/-- Record n replaced. -/
def Regs.kset (r : Regs) (n : Nat) (x : BitVec 256) : Regs := if h : n < 32 then { r with k := r.k.set n x h } else r

/-- The lanes of x where act is set, the old lanes elsewhere (R142). -/
def mergeLanes (act : LaneMask) (x old : Lanes Word) : Lanes Word :=
  Lanes.tab fun l => if act.getLsbD l.val then x[l] else old[l]

/-- The bits of x where act is set, the old bits elsewhere (R142). -/
def mergeMask (act x old : LaneMask) : LaneMask := (x &&& act) ||| (old &&& ~~~act)

/-- The registers of the warp in the issue stage changed (DESIGN CHOICE, log entry 17). -/
def State.mapRegs (s : State) (f : Regs → Regs) : State := { s with w := { s.w with regs := f s.w.regs } }

/-- The sources of the slot: the registers before its chained set (R79). -/
def State.src (s : State) : Regs := s.iss.back.regs

/-! ### Guard, mask and immediates -/

/-- The lanes that a lane-class guard admits (R75, R76). -/
def guardLanes (g : BitVec 5) (r : Regs) : LaneMask :=
  let sel := (g.extractLsb' 0 4).toNat
  let m := if sel = 12 then BitVec.allOnes 96 else r.pget sel
  if g.getLsbD 4 then ~~~m else m

/-- A scalar-class guard holds (R75, R76). -/
def guardBit (g : BitVec 5) (r : Regs) : Bool :=
  let sel := (g.extractLsb' 0 4).toNat
  let b := if sel = 12 then true else r.cget sel
  if g.getLsbD 4 then !b else b

/-- active(l) of the slot as a mask (R15). -/
def State.active (s : State) : LaneMask := s.src.mask &&& guardLanes s.iss.guard s.src

/-- The register that a guard reads (R83). -/
def guardRegs (lane : Bool) (g : BitVec 5) : List RegId :=
  let sel := (g.extractLsb' 0 4).toNat
  if sel = 12 then [] else if lane then [.p sel] else [.c sel]

/-- The field escapes to a literal (R86). -/
def immEscapes (f : BitVec 7) : Bool := f == 0x40#7 || f == 0x41#7

/-- The packet has the literal that the field asks for (R86). -/
def immOk (f : BitVec 7) (lits : List Word) : Bool :=
  if f == 0x40#7 then decide (1 ≤ lits.length) else if f == 0x41#7 then decide (2 ≤ lits.length) else true

/-- The value of an immediate field: 0..63, −62..−1, or the packet's first or second literal (R86). -/
def immVal (f : BitVec 7) (lits : List Word) : Word :=
  if f == 0x40#7 then lits.getD 0 0
  else if f == 0x41#7 then lits.getD 1 0
  else f.signExtend 32

/-- The value of an immediate field of major 0x11: the integer converted exactly, or the literal's bits (R163). -/
def immF32 (f : BitVec 7) (lits : List Word) : Word :=
  if immEscapes f then immVal f lits else fOfInt f.toInt

/-! ### What a slot uses -/

/-- What the checks before a slot's effect need to know of it: its fields are well formed (R87..R94), the
immediate field with escapes, one past the highest vector register named (R87), the registers it reads
and writes (R83), its guard class (R75), its in-flight path (R112), whether it issues to the M or T
pipe, which fences hold (R227), whether its results are shadowed (R39), whether it performs nothing whatever its guard and so
reads none (R77), and a vector register, among those that it reads, whose lane l it reads at the lane of a map, active or not (R174,
R176). -/
structure Use where
  wf : Bool := true
  imm : Option (BitVec 7) := none
  vtop : Nat := 0
  reads : List RegId := []
  writes : List RegId := []
  lane : Bool := false
  path : Option Nat := none
  mem : Bool := false
  shadowed : Bool := false
  blank : Bool := false
  via : Option (Nat × (Nat → Nat)) := none

/-- The mask words, which every lane slot reads (R116). -/
def maskRegs : List RegId := [.s 125, .s 126, .s 127]

/-- Every register that the slot reads, its guard and the mask included (R83) (DEDUCED, log entry 27). -/
def Use.allReads (u : Use) (g : BitVec 5) : List RegId :=
  u.reads ++ (if u.blank then [] else guardRegs u.lane g) ++ (if u.lane then maskRegs else [])

/-- Two lists of registers meet. -/
def meets (a b : List RegId) : Bool := a.any b.contains

/-- The entries of a path, oldest first. -/
def Warp.onPath (w : Warp) (path : Nat) : List PathEntry := w.entries.filter (·.path == path)

/-- The in-flight counter of a path (R112, R113): the entries from the oldest one not yet lowered past. -/
def Warp.counter (w : Warp) (path : Nat) : Nat := (w.onPath path).length

/-- The registers that entries below a number leave pending under lookahead 15 (R84, R114). -/
def Warp.pending (w : Warp) (upto : Nat) : List RegId :=
  (w.entries.filter fun e => e.pend && decide (e.seq < upto)).flatMap (·.writes)

/-- The slot conflicts with a window that it stands in, or with a register that an entry of an earlier set leaves pending
(R83, R84). -/
def laConflict (reads writes : List RegId) (s : State) : Bool :=
  meets (reads ++ writes) (s.w.pending s.iss.back.seq0) ||
  s.w.windows.any fun x =>
    x.set != s.iss.setNo && decide (0 < x.left) && (meets (reads ++ writes) x.writes || meets writes x.reads)

/-- The slot stands past the window of an instruction whose results are not written (R82, R109), or waits
on a replay (R41). -/
def awaitsResult (s : State) : Bool :=
  s.w.windows.any fun x => x.set != s.iss.setNo && ((x.left == 0 && !x.ready) || x.rerun)

/-- The hold of an rfence, a flush or an inval keeps every later slot from issuing (R228, R230); that of a fence
or an acquire only those of the M and T pipes (R220, R227). -/
def Hold.stopsAll : Hold → Bool
  | .rfence _ => true
  | .cache _ _ _ => true
  | _ => false

/-- ECC cannot correct the word of a vector register in a lane (R23, R33). -/
def Warp.badWord (w : Warp) (x : Nat × Nat) : Bool := w.badRegs.contains x

/-- A slot reads a word that ECC cannot correct in a lane: one of the lane's own, or the one that a shuffle takes for it (R33, R176). -/
def Use.readsBad (u : Use) (w : Warp) (l : Nat) : Bool :=
  let own := match u.via with | some x => u.reads.erase (.v x.1) | none => u.reads
  (w.badRegs.any fun x => x.2 == l && own.contains (.v x.1)) ||
  (match u.via with | some x => w.badWord (x.1, x.2 l) | none => false)

/-- The active lanes in which the slot reads a word that ECC cannot correct (R33). -/
def badLanes (u : Use) (s : State) : List Nat :=
  if s.w.badRegs.isEmpty then [] else (List.range 96).filter fun l => s.active.getLsbD l && u.readsBad s.w l

/-- Such a word is met as the lane's part of the access is performed, not at issue (R221): by the lanes of an access, an
accumulator move apart. -/
def Use.late (u : Use) : Bool := u.lane && u.path.isSome && u.path != some 5

/-- What the checks find. -/
inductive Front where
  | pass
  | off
  | stall
  | trap (c : Cause)
  | split (chains : BitVec 48)
  | bad (lanes : List Nat)
  deriving DecidableEq, Repr

/-- The checks of a slot before its effect, in this order: decode faults (R89), results waited for (R82),
the scalar guard (R76), lookahead conflicts (R83, R84), a chain that the guard splits (R145, R190), the
stalls of a full counter and of a fence (R109, R227), a register word that ECC cannot correct (R33, R221) (DEDUCED, log entry 18;
DESIGN CHOICE, log entries 94, 95). -/
def front (u : Use) (s : State) : Front :=
  if (match u.imm with | some f => !immOk f s.iss.lits | none => false) then .trap .illPacket
  else if !u.wf || (s.iss.la == 15 && u.path.isNone) then .trap .illOp
  else if s.w.nregs < u.vtop then .trap .regRange
  else if awaitsResult s || s.w.hold.stopsAll then .stall
  else if !u.lane && !guardBit s.iss.guard s.src then .off
  else if laConflict (u.allReads s.iss.guard) u.writes s then .trap .laConflict
  else if u.lane && s.src.chn != 0 && guardSplits s.src.chn s.src.mask s.active != 0 then
    .split (guardSplits s.src.chn s.src.mask s.active)
  else if (match u.path with | some p => decide (63 ≤ s.w.counter p) | none => false) then .stall
  else if u.mem && s.w.hold != .none then .stall
  else if !u.late && !(badLanes u s).isEmpty then .bad (badLanes u s)
  else .pass

/-! ### Taking a trap -/

/-- A precise trap of the slot in the issue stage, with no operand. -/
def State.trapOf (s : State) (c : Cause) : TrapInfo :=
  { cause := c, under := none, precise := true, warp := s.w.wid, arg := 0, pc := s.iss.at_, mask := 0, chainMask := false,
    addr := none, fromAbsent := false }

/-- The warp acts on a halt broadcast (R108). -/
def Warp.hears (w : Warp) : Warp :=
  if w.status = .ready ∨ w.status = .stalled ∨ w.status = .sleeping then { w with bcast := true, skid := 0, skidPackets := 0 } else w

/-- A trap reaches its group (R292, R309): a resident or migrating group halts and its other warps hear
the broadcast; an evicting group notes the first trap; a halting group discards it. -/
def Group.raise (g : Group) (t : TrapInfo) : Group :=
  match g.status with
  | .resident => { g with status := .halting, trap := some t, warps := g.warps.map Warp.hears }
  | .migrating => { g with status := .halting, trap := some t, warps := g.warps.map Warp.hears, task := none }
  | .evicting => { g with trap := g.trap.orElse fun _ => some t }
  | .resuming => { g with trap := g.trap.orElse fun _ => some t }
  | _ => g

/-- The warp stops at an address with a skid count (R108, R309, R310). -/
def Warp.stop (w : Warp) (pc skid : Nat) : Warp :=
  { w with status := .halted, saved := if w.status = .halted then w.saved else w.status, pc := pc, stopPc := pc, skid := skid, bcast := false }

/-- The skid count of a warp that stops at a slot with a precise trap: 0, or the slots since the broadcast where the trap is
discarded because a sibling's has halted the group (R310). -/
def Warp.ownSkid (w : Warp) : Nat := if w.bcast then w.skid else 0

/-- Taking a precise trap (R309): the warp stops at the faulting slot, nothing of its chained set is
written, and the trap reaches the group. -/
def takeTrap (t : TrapInfo) (s : State) : State :=
  { s with w := s.w.stop t.pc s.w.ownSkid, g := s.g.raise t, iss := { s.iss with trapped := true } }

/-- The slot stalls (R108, R109): it has not issued, and the warp's PC stays at it. -/
def holdSlot (s : State) : State :=
  { s with w := { s.w with status := .stalled, pc := s.iss.at_ }, iss := { s.iss with stalled := true } }

/-! ### Retiring a slot -/

/-- A position of the dynamic slot sequence passes the open windows (R82). -/
def passWindows (ws : List LookWindow) : List LookWindow :=
  (ws.map fun x => { x with left := x.left - 1 }).filter fun x => decide (0 < x.left) || !x.ready

/-- The words of vector registers that a slot writes whole are good again: those of its active lanes (R33). -/
def Use.mends (u : Use) (s : State) : List (Nat × Nat) :=
  if u.path.isSome then s.w.badRegs
  else s.w.badRegs.filter fun x => !(u.writes.contains (.v x.1) && s.active.getLsbD x.2)

/-- The slot retires: clk counts it (R81), the windows move on (R82), and its own window opens, unless it
is a conditional branch taken (DEDUCED, log entry 9) or has lookahead 15 (DEDUCED, log entry 96). -/
def retire (u : Use) (s t : State) : State :=
  let entry := if u.path.isSome && !u.writes.isEmpty then some s.w.nextSeq else none
  let own : List LookWindow :=
    if t.iss.taken || s.iss.la == 15 || (s.iss.la == 0 && u.writes.isEmpty) then []
    else [{ left := s.iss.la, set := s.iss.setNo, reads := u.allReads s.iss.guard, writes := u.writes, ready := u.writes.isEmpty,
            entry := entry, pc := s.iss.at_, shadowed := u.shadowed, divs := 0, rerun := false, rewrite := false,
            suspect := none, word := s.iss.word, act := s.active, undo := s.iss.back }]
  { t with w := { t.w with clk := s.w.clk + 1, windows := passWindows s.w.windows ++ own, badRegs := u.mends s,
                           skid := if s.w.bcast then s.w.skid + 1 else t.w.skid } }

/-- A slot that its scalar guard suppresses keeps its place in the sequence and does nothing else (R76, R81). -/
def retireOff (s : State) : State :=
  { s with w := { s.w with clk := s.w.clk + 1, windows := passWindows s.w.windows,
                           skid := if s.w.bcast then s.w.skid + 1 else s.w.skid } }

/-- What an effect ends in: done, a precise trap at issue, one that a read has had an effect before (it has poisoned a sector, R390),
a wait whose condition does not hold, or a wait that has had an effect of its own (gb.meet posts its arrival and then waits, R319). -/
inductive Eff where
  | done (s : State)
  | trap (t : TrapInfo)
  | trapIn (t : TrapInfo) (s : State)
  | wait
  | pause (s : State)

/-- A slot writes the mask or binds chains (R190) (DEDUCED, log entry 32). -/
def Use.touchesMask (u : Use) : Bool := u.writes.any fun r => maskRegs.contains r || r == .chn

/-- The CHAIN_SPLIT trap of the slot (R191). -/
def State.splitTrap (s : State) (n : Nat) (chains : BitVec 48) : TrapInfo :=
  { s.trapOf .chainSplit with arg := BitVec.ofNat 32 n, mask := chains.setWidth 96, chainMask := true }

/-- The mask that a slot leaves splits a chain under the limb count that it leaves (R190 items 2 and 3). -/
def leavesSplit (u : Use) (t : State) : Bool :=
  u.touchesMask && t.w.regs.chn != 0 && splitChains t.w.regs.chn t.w.regs.mask != 0

/-- The parts of an entry whose operand words cannot be corrected are not performed and fail (R33, R221): lane by lane, or chain by
chain. -/
def PathEntry.taint (e : PathEntry) (bad : List Nat) : PathEntry :=
  let n := match e.op with | .chainLoad n => n | .chainStore n => n | _ => 1
  let hit (r : LaneReq) : Bool := !r.drop && bad.any fun l => l / n == r.lane / n
  { e with
    reqs := e.reqs.filter fun r => !hit r,
    fails := e.fails ++ (((e.reqs.filter hit).map fun r => r.lane / n).eraseDups.filterMap fun c =>
      (e.reqs.find? fun r => hit r && r.lane / n == c).map fun r => { lane := c, cause := .eccUncorr, addr := r.va }) }

/-- What a slot has raised on a path, without the parts whose operand words cannot be corrected (R221). -/
def State.tainted (t : State) (seq : Nat) (bad : List Nat) : State :=
  if bad.isEmpty then t
  else { t with w := { t.w with entries := t.w.entries.map fun e => if e.seq = seq then e.taint bad else e } }

/-- The ECC_UNCORR trap of the slot: the lanes whose source word cannot be corrected (R33, R221). -/
def State.badTrap (s : State) (lanes : List Nat) : TrapInfo :=
  { s.trapOf .eccUncorr with mask := lanes.foldl (fun m l => m ||| BitVec.twoPow 96 l) 0 }

/-- One slot whole: the checks, the effect, the split rule for what it leaves, and its retirement; in a
chained set the split rule is judged on the set (R190 item 4). -/
def slotDo (u : Use) (body : State → Eff) (s : State) : Host.Outcome State Fault Refusal :=
  .next <|
    match front u s with
    | .trap c => takeTrap (s.trapOf c) s
    | .split m => takeTrap (s.splitTrap s.src.chn m) s
    | .bad lanes => takeTrap (s.badTrap lanes) s
    | .stall => holdSlot s
    | .off => retireOff s
    | .pass =>
      match body s with
      | .trap t => takeTrap t s
      | .trapIn t v => takeTrap t v
      | .wait => holdSlot s
      | .pause t => holdSlot t
      | .done u0 =>
        let t := u0.tainted s.w.nextSeq (badLanes u s)
        if !s.iss.chained && leavesSplit u t then
          takeTrap (s.splitTrap t.w.regs.chn (splitChains t.w.regs.chn t.w.regs.mask)) s
        else retire u s t

/-! ### Writing results -/

/-- Writes a vector register in the active lanes (R142). -/
def State.writeV (s : State) (d : BitVec 7) (x : Lanes Word) : State :=
  s.mapRegs fun r => r.vset d (mergeLanes s.active x (r.vget d))

/-- Writes a predicate in the active lanes (R142). -/
def State.writeP (s : State) (d : Nat) (x : LaneMask) : State :=
  s.mapRegs fun r => r.pset d (mergeMask s.active x (r.pget d))

/-- Writes a scalar register. -/
def State.writeS (s : State) (d : BitVec 7) (x : Word) : State := s.mapRegs (·.sset d x)

/-- A path entry issued (R112). -/
def State.enqueue (s : State) (e : PathEntry) : State :=
  { s with w := { s.w with entries := s.w.entries ++ [e], nextSeq := s.w.nextSeq + 1 } }

/-- The entry that the slot in the issue stage raises on a path. -/
def State.entryOf (s : State) (path : Nat) (op : PathOp) (dst : Nat) (reqs : List LaneReq) (writes : List RegId) : PathEntry :=
  { seq := s.w.nextSeq, set := s.iss.setNo, path := path, pc := s.iss.at_, clk0 := s.w.clk, op := op, dst := dst, order := 0, scope := 0, policy := 0, reqs := reqs,
    writes := writes, pend := s.iss.la == 15, got := none, fails := [], done := false, back := none, parked := false }

end Sys2Proof.Machine
end

