-- ==== Sys2Proof/Machine/Operands.lean ====
section
/-!
DEFINITION. The operand forms of the register instructions (R85..R87, R121, R142, R143, R158, R163,
R173): for each form the registers it names, what it reads and writes, and one slot that applies a
function to the operands.
-/
namespace Sys2Proof.Machine

/-- What executing an instruction answers. -/
abbrev Result := Host.Outcome State Fault Refusal

/-- A vector register as the checks name it. -/
def rv (n : BitVec 7) : RegId := .v n.toNat
/-- A scalar register as the checks name it. -/
def rs (n : BitVec 7) : RegId := .s n.toNat
/-- The registers of an even–odd scalar pair. -/
def rspair (n : BitVec 7) : List RegId := [.s n.toNat, .s (n.toNat + 1)]
/-- The registers of an even–odd vector pair. -/
def rvpair (n : BitVec 7) : List RegId := [.v n.toNat, .v (n.toNat + 1)]
/-- The registers of a scalar triple. -/
def rtriple (n : BitVec 7) : List RegId := [.s n.toNat, .s (n.toNat + 1), .s (n.toNat + 2)]
/-- n consecutive vector registers from a first one. -/
def rvrun (first n : Nat) : List RegId := (List.range n).map fun i => .v (first + i)
/-- One past the highest of the vector registers named (R87). -/
def vtop (l : List (BitVec 7)) : Nat := l.foldr (fun r m => max m (r.toNat + 1)) 0
/-- A function of lanes made from one of each lane. -/
def lanesOf (f : Fin 96 → Word) : Lanes Word := Lanes.tab f

/-! ### Scalar forms -/

/-- op sd, sa, sb (R123). -/
def sBin (f : Word → Word → Word) (d a b : BitVec 7) : State → Result :=
  slotDo { reads := [rs a, rs b], writes := [rs d] } fun s => .done (s.writeS d (f (s.src.sget a) (s.src.sget b)))

/-- op sd, sa, imm (R123). -/
def sBinI (f : Word → Word → Word) (d a i : BitVec 7) : State → Result :=
  slotDo { imm := some i, reads := [rs a], writes := [rs d] } fun s =>
    .done (s.writeS d (f (s.src.sget a) (immVal i s.iss.lits)))

/-- op sd, sa (R127). -/
def sUn (f : Word → Word) (d a : BitVec 7) : State → Result :=
  slotDo { reads := [rs a], writes := [rs d] } fun s => .done (s.writeS d (f (s.src.sget a)))

/-- sadd64, ssub64 (R124). -/
def sBin64 (f : DWord → DWord → DWord) (d a b : BitVec 7) : State → Result :=
  slotDo { wf := even d && even a && even b, reads := rspair a ++ rspair b, writes := rspair d } fun s =>
    .done (s.mapRegs (·.spairSet d (f (s.src.spair a) (s.src.spair b))))

/-- A condition register written from two conditions (R126). -/
def cBin (f : Bool → Bool → Bool) (d a b : BitVec 3) : State → Result :=
  slotDo { reads := [.c a.toNat, .c b.toNat], writes := [.c d.toNat] } fun s =>
    .done (s.mapRegs (·.cset d.toNat (f (s.src.cget a.toNat) (s.src.cget b.toNat))))

/-! ### Lane forms -/

/-- op vd, va, vb on each active lane (R142, R143). -/
def vBin (sh : Bool) (f : Word → Word → Word) (d a b : BitVec 7) : State → Result :=
  slotDo { vtop := vtop [d, a, b], reads := [rv a, rv b], writes := [rv d], lane := true, shadowed := sh } fun s =>
    .done (s.writeV d (lanesOf fun l => f (s.src.vget a)[l] (s.src.vget b)[l]))

/-- op vd, va, sb (R143, R163). -/
def vBinS (sh : Bool) (f : Word → Word → Word) (d a b : BitVec 7) : State → Result :=
  slotDo { vtop := vtop [d, a], reads := [rv a, rs b], writes := [rv d], lane := true, shadowed := sh } fun s =>
    .done (s.writeV d (lanesOf fun l => f (s.src.vget a)[l] (s.src.sget b)))

/-- op vd, va, imm (R143). -/
def vBinI (f : Word → Word → Word) (d a i : BitVec 7) : State → Result :=
  slotDo { imm := some i, vtop := vtop [d, a], reads := [rv a], writes := [rv d], lane := true } fun s =>
    .done (s.writeV d (lanesOf fun l => f (s.src.vget a)[l] (immVal i s.iss.lits)))

/-- op vd, va, imm with an FP32 immediate (R163). -/
def vBinF (f : Word → Word → Word) (d a i : BitVec 7) : State → Result :=
  slotDo { imm := some i, vtop := vtop [d, a], reads := [rv a], writes := [rv d], lane := true, shadowed := true } fun s =>
    .done (s.writeV d (lanesOf fun l => f (s.src.vget a)[l] (immF32 i s.iss.lits)))

/-- op vd, va, vb with vd read as a third operand (R149, R151, R152, R164, R165). -/
def vTri (sh : Bool) (f : Word → Word → Word → Word) (d a b : BitVec 7) : State → Result :=
  slotDo { vtop := vtop [d, a, b], reads := [rv a, rv b, rv d], writes := [rv d], lane := true, shadowed := sh } fun s =>
    .done (s.writeV d (lanesOf fun l => f (s.src.vget a)[l] (s.src.vget b)[l] (s.src.vget d)[l]))

/-- op vd, va, sb with vd read as a third operand (R164). -/
def vTriS (f : Word → Word → Word → Word) (d a b : BitVec 7) : State → Result :=
  slotDo { vtop := vtop [d, a], reads := [rv a, rs b, rv d], writes := [rv d], lane := true, shadowed := true } fun s =>
    .done (s.writeV d (lanesOf fun l => f (s.src.vget a)[l] (s.src.sget b) (s.src.vget d)[l]))

/-- op vd, va (R150, R157, R161, R169). -/
def vUn (sh : Bool) (f : Word → Word) (d a : BitVec 7) : State → Result :=
  slotDo { vtop := vtop [d, a], reads := [rv a], writes := [rv d], lane := true, shadowed := sh } fun s =>
    .done (s.writeV d (lanesOf fun l => f (s.src.vget a)[l]))

/-- op vd, va, e with an element index below n (R156). -/
def vElem (n : Nat) (f : Nat → Word → Word) (d a e : BitVec 7) : State → Result :=
  slotDo { wf := decide (e.toNat < n), vtop := vtop [d, a], reads := [rv a], writes := [rv d], lane := true } fun s =>
    .done (s.writeV d (lanesOf fun l => f e.toNat (s.src.vget a)[l]))

/-- The doublewords of the lanes of a vector pair (R148). -/
def Regs.vpair (r : Regs) (n : BitVec 7) (l : Fin 96) : DWord := pairOf (r.vget (n + 1))[l] (r.vget n)[l]

/-- Writes a vector pair in the active lanes (R142). -/
def State.writeV2 (s : State) (d : BitVec 7) (f : Fin 96 → DWord) : State :=
  (s.writeV d (lanesOf fun l => loWord (f l))).writeV (d + 1) (lanesOf fun l => hiWord (f l))

/-- vadd64, vsub64 (R148). -/
def vBin64 (f : DWord → DWord → DWord) (d a b : BitVec 7) : State → Result :=
  slotDo { wf := even d && even a && even b, vtop := vtop [d + 1, a + 1, b + 1], reads := rvpair a ++ rvpair b,
           writes := rvpair d, lane := true } fun s =>
    .done (s.writeV2 d fun l => f (s.src.vpair a l) (s.src.vpair b l))

/-- vmul.wide: single sources, a pair destination (R149). -/
def vWide (f : Word → Word → DWord) (d a b : BitVec 7) : State → Result :=
  slotDo { wf := even d, vtop := vtop [d + 1, a, b], reads := [rv a, rv b], writes := rvpair d, lane := true } fun s =>
    .done (s.writeV2 d fun l => f (s.src.vget a)[l] (s.src.vget b)[l])

/-- A compare of two vector registers into a predicate (R153, R166). -/
def vCmp (wf : Bool) (f : Word → Word → Bool) (p : BitVec 4) (a b : BitVec 7) : State → Result :=
  slotDo { wf := wf && predOk p, vtop := vtop [a, b], reads := [rv a, rv b], writes := [.p p.toNat], lane := true } fun s =>
    .done (s.writeP p.toNat (maskOf fun l => f (laneAt (s.src.vget a) l) (laneAt (s.src.vget b) l)))

/-- A predicate operation on two predicates (R154). -/
def pBin (f : LaneMask → LaneMask → LaneMask) (d a b : BitVec 4) : State → Result :=
  slotDo { wf := predOk d && predOk a && predOk b, reads := [.p a.toNat, .p b.toNat], writes := [.p d.toNat], lane := true } fun s =>
    .done (s.writeP d.toNat (f (s.src.pget a.toNat) (s.src.pget b.toNat)))

/-- A predicate operation on one predicate (R154). -/
def pUn (f : LaneMask → LaneMask) (d a : BitVec 4) : State → Result :=
  slotDo { wf := predOk d && predOk a, reads := [.p a.toNat], writes := [.p d.toNat], lane := true } fun s =>
    .done (s.writeP d.toNat (f (s.src.pget a.toNat)))

/-- A predicate operation with no source (R154). -/
def pConst (m : LaneMask) (d : BitVec 4) : State → Result :=
  slotDo { wf := predOk d, writes := [.p d.toNat], lane := true } fun s => .done (s.writeP d.toNat m)

/-! ### Cross-lane forms -/

/-- A cross-lane operation on one register, from the active lanes and the register whole (R178..R183). -/
def xUn (sh : Bool) (f : LaneMask → Lanes Word → Lanes Word) (d a : BitVec 7) : State → Result :=
  slotDo { vtop := vtop [d, a], reads := [rv a], writes := [rv d], lane := true, shadowed := sh } fun s =>
    .done (s.writeV d (f s.active (s.src.vget a)))

/-- A shuffle by a lane immediate within its limit (R176). -/
def xShuffle (limit : Nat) (src : Nat → Nat → Option Nat) (d a n : BitVec 7) : State → Result :=
  slotDo { wf := decide (n.toNat ≤ limit), vtop := vtop [d, a], reads := [rv a], writes := [rv d], lane := true,
           via := some (a.toNat, shuffleLane (src n.toNat)) } fun s =>
    .done (s.writeV d (shuffle (s.src.vget a) (src n.toNat)))

/-- A vote into a condition register (R177). -/
def xVote (f : LaneMask → LaneMask → Bool) (d : BitVec 3) (a : BitVec 4) : State → Result :=
  slotDo { wf := predOk a, reads := [.p a.toNat], writes := [.c d.toNat], lane := true } fun s =>
    .done (s.mapRegs (·.cset d.toNat (f s.active (s.src.pget a.toNat))))

/-! ### Chain forms -/

/-- A chain instruction issued while no chain is bound raises ILL_OP (R189). -/
def bound (s : State) (e : Eff) : Eff := if s.src.chn = 0 then .trap (s.trapOf .illOp) else e

/-- Carry words of the active chains replaced (R192). -/
def State.writeCarry (s : State) (f : Nat → Nat) : State :=
  s.mapRegs fun r => { r with carry := putCarries s.src.chn s.active r.carry f }

/-- The limbs of active chains written (R186). -/
def State.writeChains (s : State) (d : BitVec 7) (f : Nat → Nat) : State :=
  s.mapRegs fun r => r.vset d (putChains s.src.chn s.active (r.vget d) f)

/-- The add and subtract family of chains (R195). -/
def chainBin (sub cin sat : Bool) (d a b : BitVec 7) : State → Result :=
  slotDo { vtop := vtop [d, a, b], reads := [rv a, rv b, .chn] ++ (if cin then [.carry] else []), writes := [rv d, .carry],
           lane := true } fun s =>
    bound s <| .done <|
      (s.writeChains d (chainSumVal s.src.chn sub cin sat (s.src.vget a) (s.src.vget b) s.src.carry)).writeCarry
        (chainSumCarry s.src.chn sub cin (s.src.vget a) (s.src.vget b) s.src.carry)

/-- The shifts of chains: the amount in bits from the scalar and the limb count (R197). -/
def chainShift (left : Bool) (amount : Nat → Word → Nat) (d a b : BitVec 7) : State → Result :=
  slotDo { vtop := vtop [d, a], reads := [rv a, rs b, .chn, .carry], writes := [rv d, .carry], lane := true } fun s =>
    bound s <|
      let n := s.src.chn
      let t := amount n (s.src.sget b)
      if left then
        let y := chainShl n t (s.src.vget a) s.src.carry
        .done ((s.writeChains d fun c => y c % 2 ^ (32 * n)).writeCarry fun c => y c / 2 ^ (32 * n) % 2 ^ 32)
      else
        let y := chainShr n (s.src.vget a) s.src.carry
        .done ((s.writeChains d fun c => y c / 2 ^ t % 2 ^ (32 * n)).writeCarry fun c => y c % 2 ^ t * 2 ^ 32 / 2 ^ t)

end Sys2Proof.Machine
end

