-- ==== Sys2Proof/Machine/Control.lean ====
section
/-!
DEFINITION. Branches, jumps, state registers, masks, waits and the system instructions: majors 0x00
and 0x05 to 0x07 (05_scalar.md R129..R141).
-/
namespace Sys2Proof.Machine

/-- The address of the packet that holds the slot (R72). -/
def State.packetAddr (s : State) : Nat := s.iss.at_ - s.iss.at_ % 16

/-- The target of a branch: the packet that many packets on, modulo 2^48 (R129); slot 0 of it (R72). -/
def State.branchTarget (s : State) (o : BitVec 20) : Nat :=
  (((s.packetAddr : Int) + 16 * o.toInt) % 2 ^ 48).toNat + 4

/-- Control moves to an address, whose packet is fetched afresh (R80, R97, R129, R141). -/
def State.jump (s : State) (pc : Nat) : State := { s with w := { s.w with pc := pc, packet := none } }

/-- A conditional branch (R129). -/
def condBranch (wf : Bool) (reads : List RegId) (cond : Regs → Bool) (o : BitVec 20) : State → Result :=
  slotDo { wf := wf, reads := reads } fun s =>
    if cond s.src then .done { s.jump (s.branchTarget o) with iss := { s.iss with taken := true } } else .done s

/-- The address that a pair names, bits [31:16] of the odd register ignored (R130, R209). -/
def Regs.addrPair (r : Regs) (n : BitVec 7) : Nat := ((r.spair n).extractLsb' 0 48).toNat

/-- An indirect transfer (R130, R131): the target must be a multiple of 16. -/
def indirect (a : BitVec 7) (s : State) : Eff :=
  if s.src.addrPair a % 16 = 0 then .done (s.jump (s.src.addrPair a + 4)) else .trap (s.trapOf .misalign)

/-- The linear group index of the group (R118). -/
def Group.linear (g : Group) : Word := g.gx + g.dx * (g.gy + g.dy * g.gz)

/-- The value of a state register, 64 bits wide (R118, R119, R133); time is judged apart. -/
def State.stateReg (s : State) (code : Nat) : DWord :=
  match code with
  | 0 => s.w.clk
  | 1 => if s.g.desc.determ then s.w.clk else s.time
  | 2 => s.g.gx.setWidth 64
  | 3 => s.g.gy.setWidth 64
  | 4 => s.g.gz.setWidth 64
  | 5 => s.g.dx.setWidth 64
  | 6 => s.g.dy.setWidth 64
  | 7 => s.g.dz.setWidth 64
  | 8 => BitVec.ofNat 64 s.w.wid
  | 9 => BitVec.ofNat 64 s.g.warps.length
  | 10 => BitVec.ofNat 64 s.src.chn
  | 11 => s.src.draw
  | _ => if s.g.desc.determ then s.g.linear.setWidth 64 else BitVec.ofNat 64 s.g.core

/-- A wait on an in-flight path: the counter as it stood before the set against the threshold (R136). -/
def waitPath (path t : Nat) (s : State) : Eff :=
  if ((s.w.onPath path).countP fun e => decide (e.seq < s.iss.back.seq0)) ≤ t then .done s else .wait

/-- The lines that an ipf names (R140). -/
def State.ipfLines (s : State) (m : Nat) (i : Word) : List Nat :=
  (List.range m).map fun j => (((s.packetAddr / 128 * 128 : Nat) + 128 * i.toInt + 128 * (j : Int)) % 2 ^ 48).toNat

/-- A core's record changed. -/
def State.updCore (s : State) (c : Nat) (f : Core → Core) : State := { s with cores := s.cores.modify c f }

/-- A core; those beyond 191 do not exist and read as one never used. -/
def State.coreAt (s : State) (c : Nat) : Core := s.cores.getD c Core.fresh

/-- The lines that the core neither holds nor is filling start a fill (R140, R426). -/
def Core.startFills (k : Core) (ctx : Nat) (vas : List Nat) : Core :=
  { k with ifills := k.ifills ++ (vas.filter fun va =>
      !(k.icache.any fun l => l.ctx == ctx && l.va == va) && !k.ifills.contains (ctx, va)).map fun va => (ctx, va) }

/-- BC (R129): Branches by a packet offset when condition bit ci is set. -/
def execBc (c : BitVec 3) (o : BitVec 20) : State → Result :=
  condBranch true ([.c c.toNat]) (fun r => r.cget c.toNat) o

/-- BNC (R129): Branches when condition bit ci is clear. -/
def execBnc (c : BitVec 3) (o : BitVec 20) : State → Result :=
  condBranch true ([.c c.toNat]) (fun r => !r.cget c.toNat) o

/-- BANY (R129): Branches when any activity-mask bit is set. -/
def execBany (o : BitVec 20) : State → Result :=
  condBranch true (maskRegs) (fun r => maskAny r.mask) o

/-- BALL (R129): Branches when all 96 mask bits are set. -/
def execBall (o : BitVec 20) : State → Result :=
  condBranch true (maskRegs) (fun r => maskAll r.mask) o

/-- BNONE (R129): Branches when no mask bit is set. -/
def execBnone (o : BitVec 20) : State → Result :=
  condBranch true (maskRegs) (fun r => !maskAny r.mask) o

/-- BR (R130): Unconditional branch by a packet offset. -/
def execBr (o : BitVec 20) : State → Result :=
  slotDo {} fun s => .done (s.jump (s.branchTarget o))

/-- CALL (R130): Branches and writes the next packet's address into s120 and s121. -/
def execCall (o : BitVec 20) : State → Result :=
  slotDo { writes := rspair 120 } fun s =>
    let link := (s.packetAddr + 16) % 2 ^ 48
    .done ((s.mapRegs (·.spairSet 120 (BitVec.ofNat 64 link))).jump (s.branchTarget o))

/-- JMP (R131): Jumps to the address in an even scalar pair, faulting MISALIGN if unaligned. -/
def execJmp (a : BitVec 7) : State → Result :=
  slotDo { wf := even a, reads := rspair a } (indirect a)

/-- RET (R131): Jumps to the address held in s120 and s121. -/
def execRet : State → Result :=
  slotDo { reads := rspair 120 } (indirect 120)

/-- RSR (R133): Reads a state register by code into one or two scalar registers; draw counts as an operand in the lookahead
checks, chn as none (DEDUCED, log entry 11). -/
def execRsr (d : BitVec 7) (r : BitVec 7) : State → Result :=
  let code := r.toNat
  slotDo { wf := decide (code ≤ 12) && (!stateReg64 code || even d),
           reads := if code == 11 then [.draw] else [],
           writes := if stateReg64 code then rspair d else [rs d] } fun s =>
    if code == 1 && !s.g.desc.determ && !s.g.desc.timing then .trap (s.trapOf .prot)
    else if stateReg64 code then .done (s.mapRegs (·.spairSet d (s.stateReg code)))
    else .done (s.writeS d (loWord (s.stateReg code)))

/-- WSR (R133): Writes the draw counter from a scalar pair. -/
def execWsr (a : BitVec 7) (r : BitVec 7) : State → Result :=
  slotDo { wf := decide (r.toNat = 11) && even a, reads := rspair a, writes := [.draw] } fun s =>
    .done { s.mapRegs (fun g => { g with draw := s.src.spair a }) with iss := { s.iss with drawSet := true } }

/-- MPUSH (R134): Saves the mask into a scalar triple and ANDs the mask with a predicate. -/
def execMpush (d : BitVec 7) (p : BitVec 4) : State → Result :=
  slotDo { wf := tripleBase d && predOk p, reads := maskRegs ++ [.p p.toNat], writes := rtriple d ++ maskRegs } fun s =>
    .done (s.mapRegs fun r => (r.tripleSet d s.src.mask).maskSet (s.src.mask &&& s.src.pget p.toNat))

/-- MFLIP (R134): Sets the mask to the saved triple AND NOT a predicate. -/
def execMflip (d : BitVec 7) (p : BitVec 4) : State → Result :=
  slotDo { wf := tripleBase d && predOk p, reads := rtriple d ++ [.p p.toNat], writes := maskRegs } fun s =>
    .done (s.mapRegs (·.maskSet (s.src.triple d &&& ~~~(s.src.pget p.toNat))))

/-- MPOP (R134): Restores the mask from a scalar triple. -/
def execMpop (d : BitVec 7) : State → Result :=
  slotDo { wf := tripleBase d, reads := rtriple d, writes := maskRegs } fun s =>
    .done (s.mapRegs (·.maskSet (s.src.triple d)))

/-- MVPS (R135): Copies a predicate of all lanes into a scalar triple or the mask. -/
def execMvps (d : BitVec 7) (p : BitVec 4) : State → Result :=
  slotDo { wf := (tripleBase d || d == 125) && predOk p, reads := [.p p.toNat], writes := rtriple d } fun s =>
    .done (s.mapRegs (·.tripleSet d (s.src.pget p.toNat)))

/-- MVSP (R135): Copies a scalar triple into a predicate of all lanes. -/
def execMvsp (p : BitVec 4) (a : BitVec 7) : State → Result :=
  slotDo { wf := (tripleBase a || a == 125) && predOk p, reads := rtriple a, writes := [.p p.toNat] } fun s =>
    .done (s.mapRegs (·.pset p.toNat (s.src.triple a)))

/-- WAITC (R136): Stalls until a path counter is at or below a threshold read from a scalar register. -/
def execWaitc (p : BitVec 4) (b : BitVec 7) : State → Result :=
  slotDo { wf := !(p == 6 || p == 7), reads := [rs b] } fun s => waitPath p.toNat (s.src.sget b).toNat s

/-- WAITC_I (R136): Stalls until a path counter is at or below an immediate threshold. -/
def execWaitcI (p : BitVec 4) (i : BitVec 7) : State → Result :=
  slotDo { wf := !(p == 6 || p == 7), imm := some i } fun s => waitPath p.toNat (immVal i s.iss.lits).toNat s

/-- NOP (R77): Does nothing; the all-zero word. -/
def execNop : State → Result :=
  slotDo { blank := true } fun s => .done s

/-- EXIT (R138): Stops issue for the warp, which enters draining. -/
def execExit : State → Result :=
  slotDo {} fun s => .done { s with w := { s.w with status := .draining } }

/-- YIELD (R137): Makes the warp the most recently issued warp of its partition. -/
def execYield : State → Result :=
  slotDo {} fun s => .done { s with w := { s.w with lastIssue := s.issueNo } }

/-- SLEEP (R138): Puts the warp to sleep for min(n, 16,777,215) cycles. -/
def execSleep (n : BitVec 7) : State → Result :=
  slotDo { imm := some n } fun s =>
    let c := min (immVal n s.iss.lits).toNat 16777215
    if c = 0 then .done { s with w := { s.w with lastIssue := s.issueNo } }
    else .done { s with w := { s.w with status := .sleeping, sleepLeft := c } }

/-- TRAP (R139): Raises TRAP_INSN precisely, with argument n in the trap record. -/
def execTrap (n : BitVec 7) : State → Result :=
  slotDo { imm := some n } fun s => .trap { s.trapOf .trapInsn with arg := immVal n s.iss.lits }

/-- BRK (R139): Raises BREAK precisely, with argument n in the trap record. -/
def execBrk (n : BitVec 7) : State → Result :=
  slotDo { imm := some n } fun s => .trap { s.trapOf .brk with arg := immVal n s.iss.lits }

/-- IPF_INV (R141): Invalidates the context's lines in the core's instruction cache and discards its fills under way. -/
def execIpfInv : State → Result :=
  slotDo {} fun s =>
    .done (s.updCore s.iss.core fun k =>
      { k with icache := k.icache.filter (·.ctx != s.g.ref.ctx), ifills := k.ifills.filter (·.1 != s.g.ref.ctx) })

end Sys2Proof.Machine
end

