-- ==== Sys2Proof/Machine/Memory.lean ====
section
/-!
DEFINITION. Bytes: memory as a canonical list of cells, byte masks, and the little-endian reading of
byte strings (R8, R9).
-/
namespace Sys2Proof.Machine

/-! ### Canonical memory -/

/-- The byte at an address; an unlisted address reads 0 (R387, R404: storage holds zero bytes at bring-up) (DESIGN
CHOICE, log entry 10). -/
def Memory.read : List Host.Cell → Nat → Byte
  | [], _ => 0#8
  | (k, b) :: r, a => if k = a then b else if a < k then 0#8 else Memory.read r a

/-- A byte written. A zero byte is unlisted, so equal memories are equal lists. -/
def Memory.write : List Host.Cell → Nat → Byte → List Host.Cell
  | [], a, b => if b = 0#8 then [] else [(a, b)]
  | (k, c) :: r, a, b =>
    if a < k then (if b = 0#8 then (k, c) :: r else (a, b) :: (k, c) :: r)
    else if a = k then (if b = 0#8 then r else (k, b) :: r)
    else (k, c) :: Memory.write r a b

/-- Every address is above a bound, addresses rise strictly, and no byte is zero. -/
def Memory.wfFrom : Nat → List Host.Cell → Bool
  | _, [] => true
  | lo, (k, b) :: r => decide (lo ≤ k) && b != 0#8 && Memory.wfFrom (k + 1) r

/-- The canonical form of memory: strictly rising addresses, no zero byte listed. -/
def Memory.wf (m : List Host.Cell) : Bool := Memory.wfFrom 0 m

/-- n bytes from an address, lowest first. -/
def Memory.readN (m : List Host.Cell) (a n : Nat) : List Byte := (List.range n).map fun i => Memory.read m (a + i)

/-- Cells written one after another. -/
def Memory.writeCells (m : List Host.Cell) (ps : List Host.Cell) : List Host.Cell :=
  ps.foldl (fun m c => Memory.write m c.1 c.2) m

/-- The cells of a byte string at an address. -/
def cellsAt (a : Nat) (bs : List Byte) : List Host.Cell := (List.range bs.length).map fun i => (a + i, bs.getD i 0)

/-- A byte string written at an address. -/
def Memory.writeN (m : List Host.Cell) (a : Nat) (bs : List Byte) : List Host.Cell := Memory.writeCells m (cellsAt a bs)

/-- n bytes from an address set to zero. -/
def Memory.clear (m : List Host.Cell) (a n : Nat) : List Host.Cell := m.filter fun c => !(decide (a ≤ c.1) && decide (c.1 < a + n))

/-! ### Byte masks -/

/-- The byte that a mask holds at an address. -/
def Marks.get? (m : List Host.Cell) (a : Nat) : Option Byte := (m.find? (·.1 == a)).map (·.2)

/-- A byte added to a mask, addresses rising. -/
def Marks.put : List Host.Cell → Nat → Byte → List Host.Cell
  | [], a, b => [(a, b)]
  | (k, c) :: r, a, b =>
    if a < k then (a, b) :: (k, c) :: r else if a = k then (k, b) :: r else (k, c) :: Marks.put r a b

/-- Cells added to a mask. -/
def Marks.putAll (m ps : List Host.Cell) : List Host.Cell := ps.foldl (fun m c => Marks.put m c.1 c.2) m

/-- A mask without the bytes of n addresses from a. -/
def Marks.drop (m : List Host.Cell) (a n : Nat) : List Host.Cell := Memory.clear m a n

/-- The bytes of a mask at n addresses from a. -/
def Marks.within (m : List Host.Cell) (a n : Nat) : List Host.Cell := m.filter fun c => decide (a ≤ c.1) && decide (c.1 < a + n)

/-! ### Byte order (R8) -/

/-- The number that bytes hold, the first the least significant. -/
def leNat (bs : List Byte) : Nat := bs.foldr (fun b x => b.toNat + 256 * x) 0

/-- The n low bytes of a number, the least significant first. -/
def leBytes (n x : Nat) : List Byte := (List.range n).map fun i => BitVec.ofNat 8 (x / 256 ^ i)

/-- The field of n bytes at an offset of a byte string. -/
def field (bs : List Byte) (off n : Nat) : Nat := leNat ((bs.drop off).take n)

/-- Every byte of n at an offset is zero. -/
def zeros (bs : List Byte) (off n : Nat) : Bool := ((bs.drop off).take n).all (· == 0)

/-- A field of n bits of a number at bit lo. -/
def bitsAt (x lo n : Nat) : Nat := x / 2 ^ lo % 2 ^ n

/-- A number of 2^w read as two's complement. -/
def signedAt (w x : Nat) : Int := if 2 ^ (w - 1) ≤ x then (x : Int) - 2 ^ w else x

end Sys2Proof.Machine

namespace Sys2Proof

open Sys2Proof.Machine

/-! ### Command blocks (R365) -/

/-- The code of a command, byte 0 of its block. -/
def Cmd.code (c : Cmd) : Nat := field c.block 0 1

/-- The context that a command names, bytes 2..3. -/
def Cmd.ctx (c : Cmd) : Nat := field c.block 2 2

/-- The operands, bytes 8..63. -/
def Cmd.operands (c : Cmd) : List Byte := c.block.drop 8

/-- The queue number of QUEUE_START, QUEUE_STOP and QUEUE_RESET, bytes 8..9. -/
def Cmd.queue (c : Cmd) : Nat := field c.block 8 2

/-- The launch and the linear index of the group that GROUP_RESUME and GROUP_ABORT name (DESIGN CHOICE, log entry 124). -/
def Cmd.group (c : Cmd) : GRef := { ctx := c.ctx, seq := field c.block 8 8, lgi := field c.block 16 4 }

/-- The quantum of SET_QUANTUM in µs (DESIGN CHOICE, log entry 124). -/
def Cmd.quantum (c : Cmd) : Nat := field c.block 8 4

/-- The target's link identity of MIGRATE (DESIGN CHOICE, log entry 124). -/
def Cmd.target (c : Cmd) : Nat := field c.block 8 2

/-- Every byte behind the first n is zero, as a command that does not use them asks. -/
def Cmd.clean (c : Cmd) (n : Nat) : Bool := zeros c.block n (64 - n)

/-- The command with bytes of its block replaced, as the device writes them. -/
def Cmd.put (c : Cmd) (off : Nat) (bs : List Byte) : Cmd :=
  { c with block := c.block.take off ++ bs ++ c.block.drop (off + bs.length) }

end Sys2Proof
end

