-- ==== Sys2Proof/Machine/Home.lean ====
section
/-!
DEFINITION. Physical memory: slots, channels and home slices (19_page.md R385, R387, R388), sectors
with their key, tag and poison (R389, R390), reads and writes at the home slices (R213), remote windows
and host memory (20_link.md R395), the sc clocks (11_access.md R242).
-/
namespace Sys2Proof.Machine

/-! ### Where an address lies -/

/-- The end of local HBM (R372). -/
def hbmEnd : Nat := 0xC000000000

/-- The granule of a physical address (R385). -/
def granuleOf (pa : Nat) : Nat := pa / 4096

/-- The slot of a granule (R385). -/
def slotOf (g : Nat) : Nat := (g ^^^ (g / 2048) ^^^ (g / 4194304)) % 3072

/-- The entry of a slot: what the slot table has come to hold, or what it holds at shipment (R385). -/
def State.slotEntry (s : State) (k : Nat) : SlotEntry :=
  ((s.slots.find? (·.1 == k)).map (·.2)).getD
    { state := if k < 3024 then .data else .reserve, channel := k % 384, target := 0 }

/-- The access is refused at the home slice: its granule is in a reserve or withdrawn slot (R385). -/
def State.refused (s : State) (pa : Nat) : Bool :=
  decide (pa < hbmEnd) && (match (s.slotEntry (slotOf (granuleOf pa))).state with
    | .reserve => true | .withdrawn => true | _ => false)

/-- The granule of the address is being copied (R387). -/
def State.copying (s : State) (pa : Nat) : Bool :=
  match s.moving with
  | some (_, g, busy) => busy && decide (pa < hbmEnd) && granuleOf pa == g
  | none => false

/-- The channel of an address: the target once its granule of a moving slot is copied (R387). -/
def State.channelOf (s : State) (pa : Nat) : Nat :=
  let k := slotOf (granuleOf pa)
  let e := s.slotEntry k
  match s.moving with
  | some (m, g, _) => if m == k && decide (granuleOf pa < g) then e.target else e.channel
  | none => e.channel

/-- The slice that fronts a channel (R385, R388). -/
def State.sliceOf (s : State) (ch : Nat) : Nat :=
  ((s.chanSlice.find? (·.1 == ch)).map (·.2)).getD (32 * (ch / 96) + ch % 96 / 3)

/-- The memory die of an address's home slice (R213). -/
def State.memDie (s : State) (pa : Nat) : Nat := s.sliceOf (s.channelOf pa) / 32

/-- The 128-byte sector of an address (R210). -/
def sectorOf (pa : Nat) : Nat := pa / 128 * 128

/-- The sectors that n bytes from an address touch. -/
def sectorsOf (pa n : Nat) : List Nat :=
  if n = 0 then [] else (List.range ((pa + n - 1) / 128 - pa / 128 + 1)).map fun i => (pa / 128 + i) * 128

/-! ### Keys, tags and poison -/

/-- A number that is no key id: a write by the host, which leaves the key of a sector as it is. -/
def hostKey : Nat := 64

/-- What the tag of a sector is made with (R389, R390, R414): a key id, and the load of its key slot, 0 while it is plain. A later
load or a clear of the slot makes another tag. -/
def State.keyCode (s : State) (key : Nat) : Nat :=
  key + 64 * (((s.switor.keys.find? (·.1 == key)).map (·.2)).getD 0)

/-- The sector's tag matches under a key id (R389, R390): the id that it was last written under; a sector
that nothing has written carries the plain device key's tag (R404). -/
def State.tagOk (s : State) (key sec : Nat) : Bool :=
  match s.sectorKey.find? (·.1 == sec) with
  | some (_, k) => k == s.keyCode key
  | none => s.keyCode key == key

/-- A read of the sector under the key id takes ECC_UNCORR (R390). -/
def State.badSector (s : State) (key sec : Nat) : Bool := s.poison.contains sec || s.flaws.contains sec || !s.tagOk key sec

/-- The tag of a sector is the one that the key that it was last written under makes now; a sector that nothing has written carries the
plain device key's (R389, R404). -/
def State.tagStands (s : State) (sec : Nat) : Bool :=
  match s.sectorKey.find? (·.1 == sec) with
  | some (_, k) => k == s.keyCode (k % 64)
  | none => true

/-- A read of the sector under the key that it is stored under fails (R390). -/
def State.badStored (s : State) (sec : Nat) : Bool := s.poison.contains sec || s.flaws.contains sec || !s.tagStands sec

/-! ### Errors that the error-handling core counts and logs (R386, R391) -/

/-- The channel's record. -/
def State.channelAt (s : State) (ch : Nat) : Channel :=
  (s.channels.find? (·.num == ch)).getD { num := ch, corrected := [], badGranules := [], due := none, retired := false }

/-- A channel's record replaced. -/
def State.setChannel (s : State) (c : Channel) : State := { s with channels := c :: s.channels.filter (·.num != c.num) }

/-- A channel meets a threshold: it takes its place in the order of retirements (R386). -/
def State.markDue (s : State) (ch : Nat) : State :=
  let c := s.channelAt ch
  if c.due.isSome ∨ !(decide (4096 < c.corrected.length) || decide (2 ≤ c.badGranules.length)) then s
  else s.setChannel { c with due := some (1 + (s.channels.filterMap (·.due)).foldl max 0) }

/-- Nanoseconds in 24 hours. -/
def dayNs : Nat := 86400000000000

/-- An entry of the error-handling core's log (R391): its kind, its source, and the key id of the sector. -/
def State.logError (s : State) (kind source key sec : Nat) : State :=
  { s with switor := { s.switor with scrubLog := s.switor.scrubLog ++
      [leBytes 1 kind ++ leBytes 1 source ++ leBytes 2 (s.channelOf sec) ++ leBytes 4 0 ++ leBytes 8 sec ++
       leBytes 1 key ++ leBytes 7 0 ++ leBytes 8 s.time.toNat] } }

/-- The key id that a sector was last written under; the plain device key's for one that nothing has written. -/
def State.sectorKeyId (s : State) (sec : Nat) : Nat := ((s.sectorKey.find? (·.1 == sec)).map (·.2)).getD 0 % 64

/-- A sector poisoned (R390). -/
def State.poisonSector (s : State) (sec : Nat) : State :=
  if s.poison.contains sec then s else { s with poison := sec :: s.poison }

/-- A corrected ECC error of a sector logged and counted toward the retirement of its channel (R386, R391). -/
def State.eccCorrected (s : State) (source sec : Nat) : State :=
  let ch := s.channelOf sec
  let now := s.time.toNat
  let t := s.logError 1 source (s.sectorKeyId sec) sec
  (t.setChannel { t.channelAt ch with
    corrected := ((t.channelAt ch).corrected.filter fun x => decide (now < x + dayNs)) ++ [now] }).markDue ch

/-- An uncorrectable ECC error of a sector: the sector is poisoned, and the error logged and counted (R386, R390, R391). -/
def State.eccUncorrectable (s : State) (source sec : Nat) : State :=
  let ch := s.channelOf sec
  let t := (s.logError 2 source (s.sectorKeyId sec) sec).poisonSector sec
  let c := t.channelAt ch
  State.markDue ({ t with flaws := t.flaws.filter (· != sec) }.setChannel
    { c with badGranules := if c.badGranules.contains (granuleOf sec) then c.badGranules else granuleOf sec :: c.badGranules }) ch

/-- A demand read under a key id meets a sector that its ECC cannot correct or whose tag does not match: the sector is poisoned and
the event logged; only the former is counted (R390, R391). -/
def State.tagFailure (s : State) (key pa : Nat) : State :=
  let sec := sectorOf pa
  if s.poison.contains sec then s
  else if s.flaws.contains sec then s.eccUncorrectable 1 sec
  else (s.logError 3 1 key sec).poisonSector sec

/-- The state after a read that fails at its home: the first bad sector of its bytes has been met. -/
def State.afterFail (s : State) (c : Cause) (key pa : Nat) : State := if c = .eccUncorr then s.tagFailure key pa else s

/-! ### Routes and flits (R393, R395, R396) -/

/-- A port accepts flits. -/
def Port.live (q : Port) : Bool := q.state == .up || q.state == .degraded

/-- The port that operations to a link identity take (R394, R396): the one that they took last while it is on the route and live, else
the first live one of the route. -/
def State.routePort (s : State) (identity : Nat) : Option Nat :=
  let live (p : Nat) : Bool := match s.links.ports[p]? with | some q => q.live | none => false
  ((s.links.routes.find? (·.1 == identity)).map (·.2)).bind fun ports =>
    (ports.find? fun p => live p && s.links.taken.contains (identity, p)).orElse fun _ => ports.find? live

/-- The target of a remote window has a live route (R396). -/
def State.routed (s : State) (pa : Nat) : Bool := (s.routePort (pa / 2 ^ 40 % 2048)).isSome

/-- A flit takes a port's next sequence number and a place in its replay buffer (R393) (DESIGN CHOICE, log entry 62). -/
def Port.send (q : Port) (now : Nat) (x : Flit) : Port :=
  { q with sendSeq := q.sendSeq + 1, replay := q.replay ++ [(q.sendSeq, x)],
           sentAt := (q.sentAt.filter fun t => decide (now < t + 1000000000)) ++ [now] }

/-- A flit for a device goes out by its route; one that finds the replay buffer of 64 flits full, or no route, waits, and so do those
behind it (R393, R396). -/
def State.sendFlit (s : State) (target : Nat) (x : Flit) : State :=
  let out := if s.links.waiting.any (·.1 == target) then none
    else (s.routePort target).bind fun p => if ((s.links.ports.getD p Port.fresh).replay.length) < 64 then some p else none
  match out with
  | some p =>
    { s with links := { s.links with ports := s.links.ports.modify p (fun q => q.send s.time.toNat x),
                                     taken := (target, p) :: s.links.taken.filter (·.1 != target) } }
  | none => { s with links := { s.links with waiting := s.links.waiting ++ [(target, x)] } }

/-- The flits that wait tried again in order (R393, R396). -/
def State.sendWaiting (s : State) : State :=
  s.links.waiting.foldl (fun t x => t.sendFlit x.1 x.2) { s with links := { s.links with waiting := [] } }

/-- A kind that may write at its target, for whose acknowledgement a release at sys waits (R232, R240). -/
def linkWrites : RemoteKind → Bool
  | .load _ => false
  | _ => true

/-- The core of a write that no core makes: an engine of the complex, the host, a link (DEDUCED, log entry 84). -/
def noCore : Nat := 192

/-- A link operation of a core sent to the device that holds a remote address, with its clock (R240, R242, R395). An atomic or a
load that returns a value is performed when that value is here (DESIGN CHOICE, log entry 113). -/
def State.sendOp (s : State) (core pa key order : Nat) (kind : RemoteKind) : State :=
  let target := pa / 2 ^ 40 % 2048
  let n := s.links.nextOp
  let x : RemoteOp := { source := s.links.identity.getD 0, target := target, number := n, key := key, pa := pa % 2 ^ 40, kind := kind,
                        order := order,
                        clock := (s.cores.getD core Core.fresh).scClock + (if order = 2 then 1 else 0) }
  let t := s.sendFlit target (.op x)
  { t with links := { t.links with nextOp := n + 1,
                                   sent := if linkWrites kind then t.links.sent ++
                                     [{ number := n, core := core, by_ := if core = noCore then none else some { g := s.g.ref, w := s.w.wid }, lost := none }] else t.links.sent } }

/-- The trap of the operations sent since a number, where one is left with no live route (R396): the failure of its lane or of its copy
(R221, R258, R401). -/
def State.noteSent (s : State) (n : Nat) (t : TrapInfo) (clk0 : DWord) : State :=
  { s with links := { s.links with sent := s.links.sent.map fun x => if n ≤ x.number ∧ x.lost = none then { x with lost := some (t, clk0) } else x } }

/-- Every write of the core to a remote device has been acknowledged (R220, R227, R240). -/
def State.acked (s : State) (core : Nat) : Bool := s.links.sent.all (·.core != core)

/-- Every write to a remote device that was made for a group has been, on whichever core it then stood (R236, R240). -/
def State.ackedFor (s : State) (r : GRef) : Bool := s.links.sent.all fun x => (x.by_.map (·.g)) != some r

/-- Every one that was made for the groups of a launch has been (R343). -/
def State.ackedOf (s : State) (ctx seq : Nat) : Bool :=
  s.links.sent.all fun x => match x.by_ with | some r => !(r.g.ctx == ctx && r.g.seq == seq) | none => true

/-- Why an access at the home fails: a refused granule (R385), no route (R396), a target that grants nothing
(R395), and for a read a sector whose tag or ECC fails (R390). -/
def State.homeFails (s : State) (pa n key : Nat) (reads : Bool) : Option Cause :=
  if s.refused pa then some .addrFault
  else if 2 ^ 51 ≤ pa then
    if !s.routed pa then some .addrFault else if Config.remoteRefused s.tick pa then some .prot else none
  else if reads && decide (pa < hbmEnd) && (sectorsOf pa n).any (s.badSector key) then some .eccUncorr
  else none

/-! ### Reads and writes at the home -/

/-- The byte at the home of an address. What a remote device or the host's memory holds is free, but for what this very step has
written there (R395; log entry 21). -/
def State.homeByte (s : State) (pa : Nat) : Byte :=
  if pa < hbmEnd then Memory.read s.mem pa else (Marks.get? s.links.wrote pa).getD (Config.remoteByte s.tick pa)

/-- n bytes at the home of an address (DESIGN CHOICE, log entry 80). -/
def State.homeRead (s : State) (pa n : Nat) : List Byte := (List.range n).map fun i => s.homeByte (pa + i)

/-- A sector written at its home under a key id: all of it clears its poison, a part of it leaves the
poison; a part of a sector that another key wrote poisons it (R390; log entry 20). -/
def State.putSector (s : State) (key sec : Nat) (ps : List Host.Cell) : State :=
  { s with
    mem := Memory.writeCells s.mem ps,
    flaws := if ps.length = 128 then s.flaws.filter (· != sec) else s.flaws,
    poison := if ps.length = 128 then s.poison.filter (· != sec)
              else if s.tagOk key sec || s.poison.contains sec then s.poison else sec :: s.poison,
    sectorKey := (sec, s.keyCode key) :: s.sectorKey.filter (·.1 != sec) }

/-- A sector written at its home under the key that it is stored under; one that nothing has written keeps the plain device key's tag
(R389; log entry 24). -/
def State.keepSector (s : State) (sec : Nat) (ps : List Host.Cell) : State :=
  if s.sectorKey.any (·.1 == sec) then s.putSector (s.sectorKeyId sec) sec ps
  else
    { s with mem := Memory.writeCells s.mem ps,
             flaws := if ps.length = 128 then s.flaws.filter (· != sec) else s.flaws,
             poison := if ps.length = 128 then s.poison.filter (· != sec) else s.poison }

/-- Cells written at the home slices from a core, sector by sector; those of a granule that is being copied
wait (R387, R441). -/
def State.homeStore (s : State) (core key : Nat) (ps : List Host.Cell) : State :=
  ((ps.map fun c => sectorOf c.1).eraseDups).foldl
    (fun s sec =>
      let qs := ps.filter fun c => sectorOf c.1 == sec
      if s.copying sec then { s with parked := s.parked ++ [{ core := core, key := key, data := qs, atom := none }] }
      else s.putSector key sec qs) s

/-- A byte string written at its home: in local HBM, in host memory (which the device then knows nothing of),
or by a link operation of a kind and order to the device that holds it (R395). -/
def State.homeUpdated (s : State) (core key pa order : Nat) (kind : RemoteKind) (bs : List Byte) : State :=
  if pa < hbmEnd then s.homeStore core key (cellsAt pa bs)
  else
    let t := { s with links := { s.links with wrote := Marks.putAll s.links.wrote (cellsAt pa bs) } }
    if pa < 2 ^ 51 then { t with mem := Memory.writeN t.mem pa bs } else t.sendOp core pa key order kind

/-- A byte string stored at its home, plainly. -/
def State.homeWrite (s : State) (core key pa : Nat) (bs : List Byte) : State := s.homeUpdated core key pa 0 (.store bs) bs

/-- A read of n bytes at the home of an address leaves a link operation where a remote device holds them (R395). -/
def State.sendLoad (s : State) (core key pa order n : Nat) : State :=
  if pa < 2 ^ 51 then s else s.sendOp core pa key order (.load n)

/-- A write of the core waits at a granule that is being copied (R441). -/
def State.coreParked (s : State) (core : Nat) : Bool := s.parked.any (·.core == core)

/-- A load of the core would read bytes that a waiting write of the core writes (R441). -/
def State.parkedOver (s : State) (core pa n : Nat) : Bool :=
  s.parked.any fun p => p.core == core && p.data.any fun c => decide (pa ≤ c.1) && decide (c.1 < pa + n)

/-! ### The sc clocks -/

/-- A core's record changed for its sc clock. -/
def State.scClockOf (s : State) (core : Nat) : DWord := (s.coreAt core).scClock

/-- The timestamp of an address's line: its own, or the high-water mark of its memory die (R242). -/
def State.stampOf (s : State) (pa : Nat) : DWord :=
  match s.scStamp.find? (·.1 == pa / 512) with
  | some (_, t) => t
  | none => s.scHigh.getD (s.memDie pa) 0

/-- The larger of two clocks. -/
def maxClock (a b : DWord) : DWord := if a.toNat ≤ b.toNat then b else a

/-- The timestamp that a home slice assigns to a clock that it is sent, and the line's after it (R242). -/
def stampAfter (sent stamp : DWord) (sc : Bool) : DWord := if sc then maxClock sent stamp + 1 else maxClock sent stamp

/-- The exchange of clocks with a home slice (R242): an sc access adds one at the core and one at the slice;
atomics, releases and acquires at dev or sys exchange without adding (DESIGN CHOICE, log entry 33). The stamp of a line that a remote
device holds is free (R243). -/
def State.exchange (s : State) (core pa : Nat) (sc : Bool) : State :=
  let sent := if sc then s.scClockOf core + 1 else s.scClockOf core
  let far := decide (2 ^ 51 ≤ pa)
  let t := stampAfter sent (if far then Config.remoteStamp s.tick pa else s.stampOf pa) sc
  { s with scStamp := if far then s.scStamp else (pa / 512, t) :: s.scStamp.filter (·.1 != pa / 512),
           cores := s.cores.modify core fun k => { k with scClock := maxClock sent t } }

end Sys2Proof.Machine
end

