-- ==== Sys2Proof/Machine/Translate.lean ====
section
/-!
DEFINITION. Translation: the page table and its walk (19_page.md R372..R376), the translation caches
(R377), and what a lookup answers.
-/
namespace Sys2Proof.Machine

/-- The context of a number. -/
def State.ctxOf (s : State) (ctx : Nat) : Option Context := s.ctxs.find? (·.id == ctx)

/-- The tenant of a context. -/
def State.tenantOf (s : State) (ctx : Nat) : Nat := ((s.ctxOf ctx).map (·.tenant)).getD 16

/-- A context's record changed. -/
def State.updCtx (s : State) (ctx : Nat) (f : Context → Context) : State :=
  { s with ctxs := s.ctxs.map fun c => if c.id = ctx then f c else c }

/-- The addresses from lo to hi lie in some ranges together; the number bounds the ranges that they cross. -/
def coveredBy (ws : List (Nat × Nat)) : Nat → Nat → Nat → Bool
  | 0, lo, hi => decide (hi ≤ lo)
  | n + 1, lo, hi =>
    decide (hi ≤ lo) || match ws.find? fun w => decide (w.1 ≤ lo) && decide (lo < w.1 + w.2) with
      | some w => coveredBy ws n (w.1 + w.2) hi
      | none => false

/-- n bytes at a physical address lie inside the windows of the tenant, none outside every one (R361, R374). -/
def State.inWindows (s : State) (tenant pa n : Nat) : Bool :=
  let ws := (s.tenants.getD tenant Tenant.fresh).windows
  coveredBy ws ws.length pa (pa + n)

/-- The key id belongs to the tenant (R360). -/
def keyOwned (tenant key : Nat) : Bool := key / 4 == tenant

/-! ### Page-table entries (R373) -/

/-- Bytes that an entry of a level covers (R372). -/
def levelSize (level : Nat) : Nat := 2 ^ (39 - 9 * level)

/-- The address field of an entry, [51:12]. -/
def pteAddr (e : DWord) : Nat := (e.extractLsb' 12 40).toNat * 4096

/-- The key id of an entry, [57:52]. -/
def pteKey (e : DWord) : Nat := (e.extractLsb' 52 6).toNat

/-- The entry is a leaf: at level 3, or with L = 1. -/
def pteLeaf (level : Nat) (e : DWord) : Bool := level == 3 || e.getLsbD 7

/-- A reserved bit or a required zero of R373 is set, the first row of R374. -/
def pteBad (level : Nat) (e : DWord) : Bool :=
  e.extractLsb' 58 6 != 0 || e.getLsbD 4 ||
  (if pteLeaf level e then
    level == 0 || (level == 3 && e.getLsbD 7) || (level != 3 && e.getLsbD 9) ||
      (level != 3 && e.getLsbD 0 && pteAddr e % levelSize level != 0)
   else e.extractLsb' 1 11 != 0 || e.extractLsb' 52 6 != 0)

/-- What a walk ends in: a leaf with its address, size and entry address, a failure, a table entry in a sector that cannot be
read, or a page that is backed but not present, with its entry's address and level. -/
inductive WalkEnd where
  | leaf (e : DWord) (ea size : Nat)
  | fail (c : Cause)
  | bad (sec : Nat)
  | away (ea level : Nat)
  deriving DecidableEq, Repr

/-- The entry address that a walk reads in a table (R372). -/
def entryAddr (table level va : Nat) : Nat := table + 8 * (va / levelSize level % 512)

/-- The walk over the levels that are left (R374). Tables are read at the home slices (R375); one in a sector that cannot be read, its
tag checked under the key that it is stored under, fails the access with ECC_UNCORR (R389, R390), one in a refused granule with
ADDR_FAULT (R385) (DEDUCED, log entry 82). -/
def State.walkFrom (s : State) (tenant va : Nat) : List Nat → Nat → WalkEnd
  | [], _ => .fail .addrFault
  | level :: rest, table =>
    let ea := entryAddr table level va
    let e : DWord := BitVec.ofNat 64 (leNat (s.homeRead ea 8))
    if s.refused ea then .fail .addrFault
    else if s.badStored (sectorOf ea) then .bad (sectorOf ea)
    else if pteBad level e then .fail .addrFault
    else if pteLeaf level e && !keyOwned tenant (pteKey e) then .fail .addrFault
    else if e.getLsbD 0 then
      if !s.inWindows tenant (pteAddr e) (if pteLeaf level e then levelSize level else 4096) then .fail .addrFault
      else if pteLeaf level e then .leaf e ea (levelSize level)
      else s.walkFrom tenant va rest (pteAddr e)
    else if e.getLsbD 3 then .away ea level
    else .fail .addrFault

/-- The walk of a virtual address of a context from its root (R372); an address beyond 48 bits is unmapped. -/
def State.walk (s : State) (ctx va : Nat) : WalkEnd :=
  match s.ctxOf ctx with
  | none => .fail .addrFault
  | some c => if 2 ^ 48 ≤ va then .fail .addrFault else s.walkFrom c.tenant va [0, 1, 2, 3] c.root

/-- The 16 entries of a C = 1 run make one 64 KiB page (R376). -/
def State.runOk (s : State) (e : DWord) (ea va : Nat) : Bool :=
  let first := ea - 8 * (va / 4096 % 16)
  let mask : DWord := 0xFFF0000000000F9F#64
  let pbase := pteAddr e - 4096 * (va / 4096 % 16)
  (pbase % 65536 == 0) && decide (4096 * (va / 4096 % 16) ≤ pteAddr e) &&
    (List.range 16).all fun i =>
      let f : DWord := BitVec.ofNat 64 (leNat (s.homeRead (first + 8 * i) 8))
      f.getLsbD 0 && f.getLsbD 9 && (f &&& mask) == (e &&& mask) && pteAddr f == pbase + 4096 * i

/-- A bit of each of the 16 entries of a run. -/
def State.runBits (s : State) (first bit : Nat) : BitVec 16 :=
  (List.range 16).foldl (fun m i =>
    if (BitVec.ofNat 64 (leNat (s.homeRead (first + 8 * i) 8))).getLsbD bit then m ||| BitVec.twoPow 16 i else m) 0

/-- The translation that a walk installs (R376, R377), with the A and D bits that its entries hold. -/
def State.leafTlb (s : State) (ctx va : Nat) (e : DWord) (ea size : Nat) (d : Bool) : Tlb :=
  let big := size == 4096 && e.getLsbD 9 && s.runOk e ea va
  let sz := if big then 65536 else size
  { ctx := ctx, va := va / sz * sz, size := sz,
    pa := if big then pteAddr e - 4096 * (va / 4096 % 16) else pteAddr e,
    w := e.getLsbD 1, x := e.getLsbD 2,
    a := if big then s.runBits (ea - 8 * (va / 4096 % 16)) 5 else 1,
    d := if big then s.runBits (ea - 8 * (va / 4096 % 16)) 6 else if d then 1 else 0, o := e.getLsbD 8, key := pteKey e, policy := (e.extractLsb' 10 2).toNat }

/-! ### Translation caches (R377) -/

/-- A cached translation covers the address. -/
def Tlb.covers (t : Tlb) (ctx va : Nat) : Bool := t.ctx == ctx && decide (t.va ≤ va) && decide (va < t.va + t.size)

/-- The A bit of the address's page is set in the translation, and for a write to a writable page its D bit (R375, R376). -/
def Tlb.marked (t : Tlb) (va : Nat) (write : Bool) : Bool :=
  let i := if t.size = 65536 then (va - t.va) / 4096 else 0
  t.a.getLsbD i && (!(write && t.w) || t.d.getLsbD i)

/-- A translation put first in a cache of n entries, least recently used last (R377). -/
def tlbPut (n : Nat) (l : List Tlb) (t : Tlb) : List Tlb :=
  (t :: l.filter fun u => !(u.ctx == t.ctx && u.va == t.va && u.size == t.size)).take n

/-- The set of a die's cache that a translation goes to (R377) (DESIGN CHOICE, log entry 81). -/
def dieSet (t : Tlb) : Nat := t.va / t.size % 2048

/-- A translation put first in a die's cache of 2,048 sets of 8 ways, the least recently used of a full set dropped (R377). -/
def diePut (l : List Tlb) (t : Tlb) : List Tlb :=
  let l := l.filter fun u => !(u.ctx == t.ctx && u.va == t.va && u.size == t.size)
  let same := l.filter fun u => dieSet u == dieSet t
  let l := if same.length < 8 then l
    else match same.getLast? with | some v => l.filter (· != v) | none => l
  t :: l

/-- The compute die of a core (R2). -/
def dieOf (core : Nat) : Nat := core / 24

/-- A translation installed in a core's cache and its die's (R377). -/
def State.install (s : State) (core : Nat) (t : Tlb) : State :=
  { s with cores := s.cores.modify core fun k => { k with tlb := tlbPut 128 (k.tlb.filter fun u => !u.covers t.ctx t.va) t },
           dies := s.dies.modify (dieOf core) fun d => { d with tlb := diePut (d.tlb.filter fun u => !u.covers t.ctx t.va) t } }

/-- Bits set in a page-table entry by an atomic OR at its home slice (R375). -/
def State.orEntry (s : State) (ea : Nat) (bits : DWord) : State :=
  { s with mem := Memory.writeN s.mem ea (leBytes 8 (BitVec.ofNat 64 (leNat (s.homeRead ea 8)) ||| bits).toNat) }

/-- What a translation answers: the physical address with its translation, a failure, or a page that is being
brought in, on which the access waits (R378). -/
inductive Xl where
  | ok (pa : Nat) (t : Tlb)
  | fail (c : Cause)
  | away
  deriving DecidableEq, Repr

/-- The warp that a core's access is made for; the firmware's, which uses no core, are no warp's. -/
def State.user (s : State) (core : Nat) : WRef :=
  if core < 192 then { g := s.g.ref, w := s.w.wid } else { g := { ctx := 0, seq := 0, lgi := 0 }, w := 16 }

/-- A page for which no place was found fails the accesses that waited for it; a later one tries again (R378) (DESIGN
CHOICE, log entry 102). -/
def State.noPlace (s : State) (core ctx ea : Nat) : Option State :=
  (s.noPage.find? fun x => x.ctx == ctx && x.entry == ea).bind fun x =>
    if !x.fails.contains (s.user core) then none
    else some { s with noPage := s.noPage.map fun y =>
      if y = x ∧ !y.telling.contains (s.user core) then { y with telling := s.user core :: y.telling } else y }

/-- A walk that installs what it finds, with A set, and D for a write to a writable page (R375). -/
def State.walkIn (s : State) (core ctx va : Nat) (write : Bool) : Xl × State :=
  match s.walk ctx va with
  | .fail c => (.fail c, s)
  | .bad sec => (.fail .eccUncorr, s.tagFailure (s.sectorKeyId sec) sec)
  | .away ea _ =>
    match s.noPlace core ctx ea with
    | some t => (.fail .addrFault, t)
    | none => (.away, s)
  | .leaf e ea size =>
    let setD := write && e.getLsbD 1
    let bits : DWord := if setD then 0x60#64 else 0x20#64
    if s.copying ea && (e &&& bits) != bits then (.away, s)
    else
      let s1 := if (e &&& bits) == bits then s else s.orEntry ea bits
      let t := s1.leafTlb ctx va e ea size (setD || e.getLsbD 6)
      (.ok (t.pa + (va - t.va)) t, s1.install core t)

/-- The translation of an address for a core: its own cache, its die's, or a walk; a write through D = 0 walks
again and sets D (R375, R377). A write to a page with W = 0 fails with PROT (R374); a granule of a
refused slot fails with ADDR_FAULT (R385). -/
def State.translate (s : State) (core ctx va : Nat) (write : Bool) : Xl × State :=
  let hit := ((s.coreAt core).tlb.find? (·.covers ctx va)).orElse fun _ =>
    ((s.dies.getD (dieOf core) { tlb := [], ceiling := 4, hot := false }).tlb.find? (·.covers ctx va))
  let r := match hit with
    | some t => if !t.marked va write then s.walkIn core ctx va write else (.ok (t.pa + (va - t.va)) t, s.install core t)
    | none => s.walkIn core ctx va write
  match r with
  | (.ok pa t, s1) =>
    if write && !t.w then (.fail .prot, s1)
    else if s1.refused pa then (.fail .addrFault, s1)
    else (.ok pa t, s1)
  | other => other

/-- The translation of an address without any effect on the caches or the table. -/
def State.peek (s : State) (core ctx va : Nat) (write : Bool) : Xl := (s.translate core ctx va write).1

end Sys2Proof.Machine
end

