-- ==== Sys2Proof/Machine/Cache.lean ====
section
/-!
DEFINITION. The L1 data cache of a core (10_buffer.md R210..R212), its write-back and invalidation
(R220, R230, R236, R237), and the record and instruction caches (R208, R96).
-/
namespace Sys2Proof.Machine

/-- The 512-byte line of an address (R210). -/
def lineOf (pa : Nat) : Nat := pa / 512 * 512

/-- The set of a line (R210): bits [13:9]. -/
def setOf (pa : Nat) : Nat := pa / 512 % 32

/-- The valid bit of the sector of an address. -/
def Line.hasSector (l : Line) (pa : Nat) : Bool := l.valid.getLsbD (pa % 512 / 128)

/-- The byte that a line holds: its dirty byte, or a byte of a valid sector (R210). -/
def Line.byte? (l : Line) (pa : Nat) : Option Byte :=
  match Marks.get? l.dirty pa with
  | some b => some b
  | none => if l.hasSector pa then some (Memory.read l.clean pa) else none

/-- The line of an address, when the L1 holds it. -/
def Core.line? (k : Core) (pa : Nat) : Option Line := k.l1.find? (·.base == lineOf pa)

/-- Dirty bytes become clean once they are written back; in a sector that was never filled they go (R210, R230). -/
def Line.cleaned (l : Line) (ps : List Host.Cell) : Line :=
  { l with dirty := l.dirty.filter fun c => !(ps.any (·.1 == c.1)),
           clean := Memory.writeCells l.clean (ps.filter fun c => l.hasSector c.1) }

/-- The dirty bytes of a line written back to the home slices (R210). -/
def State.writeBackLine (s : State) (core : Nat) (l : Line) : State := s.homeStore core l.key l.dirty

/-- The L1's line replaced in its place. -/
def Core.setLine (k : Core) (l : Line) : Core := { k with l1 := k.l1.map fun m => if m.base = l.base then l else m }

/-- The line that the set of an address gives up: the least recently used one that carries no keep mark, or
of all when every line carries it (R210, R211) (DESIGN CHOICE, log entry 81). -/
def Core.victim (k : Core) (pa : Nat) : Option Line :=
  let ls := k.l1.filter fun l => setOf l.base == setOf pa
  if ls.length < 16 then none
  else ((ls.filter fun l => !l.keep).getLast?).orElse fun _ => ls.getLast?

/-- The line of an address is in the L1, allocated under an effective policy (R211). -/
def State.allocLine (s : State) (core pa key policy : Nat) : State :=
  if ((s.coreAt core).line? pa).isSome then s
  else
    let s1 := match (s.coreAt core).victim pa with
      | none => s
      | some v => (s.writeBackLine core v).updCore core fun k => { k with l1 := k.l1.filter (·.base != v.base) }
    let l : Line := { base := lineOf pa, key := key, keep := false, valid := 0, clean := [], dirty := [] }
    s1.updCore core fun k => { k with l1 := if policy = 1 then k.l1 ++ [l] else l :: k.l1 }

/-- The replacement order and the keep mark after an access (R211). -/
def State.touchLine (s : State) (core pa policy : Nat) : State :=
  s.updCore core fun k =>
    match k.line? pa with
    | none => k
    | some l =>
      let l := if policy = 2 then { l with keep := true } else l
      if policy = 1 then k.setLine l else { k with l1 := l :: k.l1.filter (·.base != l.base) }

/-- A sector filled from its home; dirty bytes are not overwritten (R210). -/
def State.fillSector (s : State) (core pa key : Nat) : State :=
  let sec := sectorOf pa
  s.updCore core fun k =>
    match k.line? pa with
    | none => k
    | some l => k.setLine { l with key := key, valid := l.valid ||| BitVec.twoPow 4 (pa % 512 / 128),
                                   clean := Memory.writeCells (Memory.clear l.clean sec 128) (Marks.within s.mem sec 128) }

/-- The dirty bytes of a sector written back (R212). -/
def State.writeBackSector (s : State) (core pa : Nat) : State :=
  match (s.coreAt core).line? pa with
  | none => s
  | some l =>
    let ps := Marks.within l.dirty (sectorOf pa) 128
    (s.homeStore core l.key ps).updCore core fun k => k.setLine (l.cleaned ps)

/-- A sector invalidated after its write-back (R223). -/
def State.dropSector (s : State) (core pa : Nat) : State :=
  s.updCore core fun k =>
    match k.line? pa with
    | none => k
    | some l => k.setLine { l with valid := l.valid &&& ~~~(BitVec.twoPow 4 (pa % 512 / 128)),
                                   clean := Memory.clear l.clean (sectorOf pa) 128 }

/-- Every dirty byte of the L1 written back, lines kept valid and clean (R220, R227, R236). -/
def State.writeBackAll (s : State) (core : Nat) : State :=
  ((s.coreAt core).l1.foldl (fun s l => s.writeBackLine core l) s).updCore core fun k =>
    { k with l1 := k.l1.map fun l => l.cleaned l.dirty }

/-- The clean lines invalidated: every valid bit cleared, dirty bytes kept (R237). -/
def State.dropClean (s : State) (core : Nat) : State :=
  s.updCore core fun k =>
    { k with l1 := (k.l1.filter fun l => !l.dirty.isEmpty).map fun l => { l with valid := 0, clean := [] } }

/-- What a load finds: bytes, a failure, or a wait. -/
inductive Got where
  | ok (bs : List Byte) (s : State)
  | fail (c : Cause) (s : State)
  | wait

/-- A load of at most a sector's bytes through the L1, or past it under bypass (R210, R212). A load past the L1 leaves no older clean
copy of its sector there (R235) (DEDUCED, log entry 101). Nothing is read past a write of the core that waits at a granule being
copied, also where the L1 holds it (R441). -/
def State.loadBytes (s : State) (core key policy pa n : Nat) : Got :=
  if policy = 3 ∨ hbmEnd ≤ pa then
    let s1 := (s.writeBackSector core pa).dropSector core pa
    if s1.parkedOver core pa n then .wait
    else match s1.homeFails pa n key true with
      | some c => .fail c (s1.afterFail c key pa)
      | none => .ok (s1.homeRead pa n) s1
  else
    let hit := match (s.coreAt core).line? pa with
      | some l => (List.range n).all fun i => (l.byte? (pa + i)).isSome
      | none => false
    if hit && s.parkedOver core pa n then .wait
    else if hit then
      let l := ((s.coreAt core).line? pa).getD default
      .ok ((List.range n).map fun i => (l.byte? (pa + i)).getD 0) (s.touchLine core pa policy)
    else if s.parkedOver core (sectorOf pa) 128 then .wait
    else match s.homeFails (sectorOf pa) 128 key true with
      | some c => .fail c (s.afterFail c key pa)
      | none =>
        let s1 := ((s.allocLine core pa key policy).fillSector core pa key).touchLine core pa policy
        let l := ((s1.coreAt core).line? pa).getD default
        .ok ((List.range n).map fun i => (l.byte? (pa + i)).getD 0) s1

/-- A store of at most a sector's bytes into the L1, or past it under bypass, where the sector's dirty bytes are written back
(R210, R212, R239). -/
def State.storeBytes (s : State) (core key policy pa : Nat) (bs : List Byte) : State :=
  if policy = 3 ∨ hbmEnd ≤ pa then
    let s1 := (s.writeBackSector core pa).updCore core fun k =>
      match k.line? pa with
      | none => k
      | some l => k.setLine { l with clean := if l.hasSector pa then Memory.writeN l.clean pa bs else l.clean }
    s1.homeWrite core key pa bs
  else
    ((s.allocLine core pa key policy).updCore core fun k =>
      match k.line? pa with
      | none => k
      | some l => k.setLine { l with key := key, dirty := Marks.putAll l.dirty (cellsAt pa bs) }).touchLine core pa policy

/-- A policy of the instruction and a translation made effective (R211): 3 of the page is bypass, a nonzero
one of the instruction, else the page's. -/
def effPolicy (page instr : Nat) : Nat := if page = 3 then 3 else if instr = 0 then page else instr

/-! ### The record cache (R208) -/

/-- The set of a granule: virtual address bits [10:5]. -/
def recSet (va : Nat) : Nat := va / 32 % 64

/-- A granule put first, least recently used within its set of 8 dropped (R208). -/
def recPut (l : List Granule) (g : Granule) : List Granule :=
  let l := l.filter fun h => !(h.ctx == g.ctx && h.va == g.va)
  let same := l.filter fun h => recSet h.va == recSet g.va
  let l := if same.length < 8 then l
    else match same.getLast? with | some v => l.filter (· != v) | none => l
  g :: l

/-- A 32-byte granule read through the core's record cache (R208): a hit, or a fill from the home slice. -/
def State.readGranule (s : State) (core ctx va : Nat) : Got :=
  match (s.coreAt core).recs.find? fun h => h.ctx == ctx && h.va == va with
  | some h => .ok (leBytes 32 h.data.toNat) (s.updCore core fun k => { k with recs := recPut k.recs h })
  | none =>
    match s.translate core ctx va false with
    | (.fail c, s1) => .fail c s1
    | (.away, _) => .wait
    | (.ok pa t, s1) =>
      if s1.parkedOver core pa 32 then .wait
      else match s1.homeFails pa 32 t.key true with
        | some c => .fail c (s1.afterFail c t.key pa)
        | none =>
          let bs := s1.homeRead pa 32
          .ok bs ((s1.sendLoad core t.key pa 0 32).updCore core fun k => { k with recs := recPut k.recs { ctx := ctx, va := va, data := BitVec.ofNat 256 (leNat bs) } })

/-- Several granules read one after another; the first failure or wait ends it, with the address it met. -/
def State.readGranules (s : State) (core ctx va : Nat) : Nat → Got
  | 0 => .ok [] s
  | n + 1 =>
    match s.readGranule core ctx va with
    | .ok bs s1 =>
      match s1.readGranules core ctx (va + 32) n with
      | .ok cs s2 => .ok (bs ++ cs) s2
      | other => other
    | other => other

/-! ### The instruction cache (R96) -/

/-- A line put first, least recently used within its set of 8 dropped (R96). -/
def codePut (l : List CodeLine) (c : CodeLine) : List CodeLine :=
  let l := l.filter fun h => !(h.ctx == c.ctx && h.va == c.va)
  let same := l.filter fun h => h.va / 128 % 128 == c.va / 128 % 128
  let l := if same.length < 8 then l
    else match same.getLast? with | some v => l.filter (· != v) | none => l
  c :: l

end Sys2Proof.Machine
end

