-- ==== Sys2Proof/Machine/Access.lean ====
section
/-!
DEFINITION. Global loads, stores and atomics, chain loads and stores: buffer records and the addresses they
give (10_buffer.md R203..R207), the checks at issue (R217, R221), and the instructions of majors 0x23 to
0x26, each of which puts an entry on its path (R112).
-/
namespace Sys2Proof.Machine

/-! ### Buffer records (R203) -/

/-- base, [47:0]. -/
def recBase (k : BitVec 256) : Nat := (k.extractLsb' 0 48).toNat
/-- extent, [103:64]. -/
def recExtent (k : BitVec 256) : Nat := (k.extractLsb' 64 40).toNat
/-- stride_y, [159:128]. -/
def recStrideY (k : BitVec 256) : Int := (k.extractLsb' 128 32).toInt
/-- stride_z, [191:160]. -/
def recStrideZ (k : BitVec 256) : Int := (k.extractLsb' 160 32).toInt
/-- The element format code, [199:192]. -/
def recFmt (k : BitVec 256) : Nat := (k.extractLsb' 192 8).toNat
/-- The bounds mode, [201:200]. -/
def recMode (k : BitVec 256) : Nat := (k.extractLsb' 200 2).toNat

/-- The record is usable (R205). -/
def recUsable (k : BitVec 256) : Bool :=
  k.getLsbD 202 && recMode k != 3 && decide (recFmt k ≤ 8) &&
  k.extractLsb' 48 16 == 0 && k.extractLsb' 104 24 == 0 && k.extractLsb' 203 53 == 0

/-- The element size of a format code (R204). -/
def fmtSize (f : Nat) : Nat := [1, 1, 2, 2, 4, 4, 8, 8, 16].getD f 1
/-- The registers that an element takes (R204). -/
def fmtRegs (f : Nat) : Nat := max 1 (fmtSize f / 4)
/-- The signed codes (R204). -/
def fmtSigned (f : Nat) : Bool := f == 1 || f == 3 || f == 5 || f == 7

/-- A lane's address, its drop by bounds mode 1, or the cause that it fails with at issue. -/
inductive LaneAddr where
  | ok (va : Nat)
  | drop
  | bad (c : Cause) (va : Nat)
  deriving DecidableEq, Repr

/-- The offset after the bounds mode (R207): itself, clamped, or none for a dropped lane; false for BOUNDS. -/
def boundOff (k : BitVec 256) (off : Int) (esize : Nat) : Option (Option Int) :=
  if off < 0 ∨ (recExtent k : Int) < off + esize then
    match recMode k with
    | 1 => some none
    | 2 => if recExtent k < esize then none
           else some (some (if off < 0 then 0 else (recExtent k / esize - 1) * esize))
    | _ => none
  else some (some off)

/-- The address of a lane from its byte offset (R206, R207). -/
def laneAddr (k : BitVec 256) (off : Int) (esize : Nat) : LaneAddr :=
  match boundOff k off esize with
  | none => .bad .bounds (((recBase k + off) % 2 ^ 64).toNat)
  | some none => .drop
  | some (some o) =>
    let a := recBase k + o
    if a < 0 ∨ 2 ^ 48 ≤ a then .bad .addrFault ((a % 2 ^ 64).toNat)
    else if a.toNat % esize != 0 then .bad .misalign a.toNat
    else .ok a.toNat

/-- The offset of a lane, one- or three-dimensional (R206). -/
def laneOffset (r : Regs) (k : BitVec 256) (threeD : Bool) (esize : Nat) (a : BitVec 7) (l : Nat) : Int :=
  let at_ (n : Nat) : Int := ((laneAt (r.vget (a + BitVec.ofNat 7 n)) l).toNat : Int)
  if threeD then at_ 0 * esize + at_ 1 * recStrideY k + at_ 2 * recStrideZ k else at_ 0 * esize

/-- The lanes of a mask in increasing order. -/
def lanesIn (m : LaneMask) : List Nat := (List.range 96).filter m.getLsbD

/-- A mask of the lanes of a list. -/
def maskList (ls : List Nat) : LaneMask := maskOf ls.contains

/-- The failures at issue: the first cause of the order that any lane fails, every lane that fails it, and the
address of the lowest of them (R221, R226). -/
def firstCause (order : List Cause) (fails : List LaneFail) : Option (Cause × LaneMask × Nat) :=
  match order.find? fun c => fails.any (·.cause == c) with
  | none => none
  | some c =>
    let ls := fails.filter (·.cause == c)
    some (c, maskList (ls.map (·.lane)), ((ls.head?).map (·.addr)).getD 0)

/-- The precise trap of lanes that fail at issue (R221, R312). -/
def State.laneTrap (s : State) (c : Cause) (m : LaneMask) (addr : Nat) : TrapInfo :=
  { s.trapOf c with mask := m, addr := some addr }

/-- The causes of R221 in the order in which they are recorded. -/
def addrCauses : List Cause := [.bounds, .addrFault, .misalign]

/-- The lanes' requests, or the trap at issue. -/
def splitLanes (s : State) (xs : List (Nat × LaneAddr × BitVec 128)) : TrapInfo ⊕ List LaneReq :=
  let fails := xs.filterMap fun x => match x with | (l, .bad c a, _) => some { lane := l, cause := c, addr := a } | _ => none
  match firstCause addrCauses fails with
  | some (c, m, a) => .inl (s.laneTrap c m a)
  | none => .inr (xs.filterMap fun x => match x with
      | (l, .ok va, d) => some { lane := l, va := va, drop := false, data := d, len := 0 }
      | (l, .drop, d) => some { lane := l, va := 0, drop := true, data := d, len := 0 }
      | _ => none)

/-! ### Ordering codes -/

/-- The order, scope and policy codes of format M (R92). -/
def mFormOk (o s : BitVec 2) : Bool :=
  o != 3 && s != 3 && (o != 0 || s == 0) && (o != 2 || s != 0)

/-- Order of an order-scope code of format MA (R92): 0 plain, 1 acq_rel, 2 sc. -/
def maOrder (o : BitVec 3) : Nat := if o = 0 then 0 else if o.toNat ≤ 3 then 1 else 2
/-- Scope of an order-scope code of format MA (R92). -/
def maScope (o : BitVec 3) : Nat := [0, 0, 1, 2, 1, 2].getD o.toNat 0

/-- The warp holds later accesses until the acquiring entry has completed (R220). -/
def State.holdFor (s : State) (acquires : Bool) (seq scope : Nat) : State :=
  if acquires then { s with w := { s.w with hold := .acquire seq scope } } else s

/-- The slots of a record register read in the source registers, and its registers' count (R204). -/
def State.recOf (s : State) (k : BitVec 5) : BitVec 256 := s.src.kget k.toNat
/-- Registers of an element of the record that a k field names; 1 for an unusable record. -/
def State.regsOfK (s : State) (k : BitVec 5) : Nat := if recUsable (s.recOf k) then fmtRegs (recFmt (s.recOf k)) else 1

/-! ### ld and st (R217..R221) -/

/-- What ld and st use. -/
def mUse (threeD store : Bool) (o sc : BitVec 2) (k : BitVec 5) (a d : BitVec 7) (s : State) : Use :=
  let data := rvrun d.toNat (s.regsOfK k)
  { wf := mFormOk o sc, vtop := max (d.toNat + 1) (a.toNat + (if threeD then 3 else 1)),
    reads := rvrun a.toNat (if threeD then 3 else 1) ++ [.k k.toNat] ++ (if store then data else []),
    writes := if store then [] else data, lane := true, path := some (if store then 1 else 0), mem := true }

/-- The checks of R217 on the record and the data register; n is the count of registers. -/
def regChecks (s : State) (usable : Bool) (d : BitVec 7) (n : Nat) (ok : Eff) : Eff :=
  if !usable then .trap (s.trapOf .badRecord)
  else if d.toNat % n != 0 then .trap (s.trapOf .illOp)
  else if s.w.nregs < d.toNat + n then .trap (s.trapOf .regRange)
  else ok

/-- The data of a lane: n registers from d, the first the lowest word (R204). -/
def laneData (r : Regs) (d n l : Nat) : BitVec 128 :=
  BitVec.ofNat 128 ((List.range n).foldr (fun i x => (laneAt (r.vget (BitVec.ofNat 7 (d + i))) l).toNat + 2 ^ 32 * x) 0)

/-- The addresses of the active lanes with their data. -/
def laneReqs (s : State) (kr : BitVec 256) (threeD : Bool) (a d : BitVec 7) : List (Nat × LaneAddr × BitVec 128) :=
  let esize := fmtSize (recFmt kr)
  (lanesIn s.active).map fun l => (l, laneAddr kr (laneOffset s.src kr threeD esize a l) esize, laneData s.src d.toNat (fmtRegs (recFmt kr)) l)

/-- ld and st at issue: the checks, then an entry on LD or ST. -/
def mIssue (threeD store : Bool) (o sc pol : BitVec 2) (k : BitVec 5) (a d : BitVec 7) (s : State) : Eff :=
  let kr := s.recOf k
  regChecks s (recUsable kr) d (s.regsOfK k) <|
    match splitLanes s (laneReqs s kr threeD a d) with
    | .inl t => .trap t
    | .inr reqs =>
      let op : PathOp := if store then .store (fmtSize (recFmt kr)) else .load (fmtSize (recFmt kr)) (fmtSigned (recFmt kr))
      let e := s.entryOf (if store then 1 else 0) op d.toNat reqs (if store then [] else rvrun d.toNat (s.regsOfK k))
      .done ((s.enqueue { e with order := o.toNat, scope := sc.toNat, policy := pol.toNat }).holdFor
        (if store then o == 2 else o != 0) s.w.nextSeq sc.toNat)

/-- LD (R217, R218): Loads elements by buffer record, index and bounds mode into vector registers. -/
def execLd (g : BitVec 1) (o s c : BitVec 2) (k : BitVec 5) (a d : BitVec 7) (t : State) : Result :=
  slotDo (mUse (g == 1) false o s k a d t) (mIssue (g == 1) false o s c k a d) t

/-- ST (R217, R219): Stores elements by buffer record, index and bounds mode from vector registers. -/
def execSt (g : BitVec 1) (o s c : BitVec 2) (k : BitVec 5) (a d : BitVec 7) (t : State) : Result :=
  slotDo (mUse (g == 1) true o s k a d t) (mIssue (g == 1) true o s c k a d) t

/-! ### cld and cst (R200..R202) -/

/-- The limbs of a chain's access: its address, or its failure (R201); one out of the extent is reported at limb 0 of the element that it
names (R202) (DESIGN CHOICE, log entry 116). -/
def chainAddr (kr : BitVec 256) (n x : Nat) : LaneAddr :=
  let size := 4 * n
  let at_ (x : Nat) : LaneAddr :=
    if (recBase kr + x * size) % 4 != 0 then .bad .misalign (recBase kr + x * size) else .ok (recBase kr + x * size)
  if x * size + size ≤ recExtent kr then at_ x
  else match recMode kr with
    | 1 => .drop
    | 2 => if recExtent kr < size then .bad .bounds (recBase kr + x * size) else at_ (recExtent kr / size - 1)
    | _ => .bad .bounds (recBase kr + x * size)

/-- The active chains. -/
def activeChains (s : State) : List Nat := (chainList s.src.chn).filter (chainActive s.src.chn s.active)

/-- The requests of a chain access, one for each limb, by logical lane. -/
def chainReqs (s : State) (kr : BitVec 256) (a d : BitVec 7) : List LaneReq :=
  let n := s.src.chn
  (activeChains s).flatMap fun c =>
    match chainAddr kr n (laneAt (s.src.vget a) (c * n)).toNat with
    | .bad _ _ => []
    | .drop => (List.range n).map fun i => { lane := c * n + i, va := 0, drop := true, data := 0, len := 0 }
    | .ok va => (List.range n).map fun i =>
        { lane := c * n + i, va := va + 4 * i, drop := false, data := (laneAt (s.src.vget d) (c * n + i)).setWidth 128, len := 0 }

/-- The chains that fail by bounds or alignment, found when the entry is performed (R201, R202). -/
def chainFails (s : State) (kr : BitVec 256) (a : BitVec 7) : List LaneFail :=
  (activeChains s).filterMap fun c =>
    match chainAddr kr s.src.chn (laneAt (s.src.vget a) (c * s.src.chn)).toNat with
    | .bad cause va => some { lane := c, cause := cause, addr := va }
    | _ => none

/-- What cld and cst use. -/
def cUse (store : Bool) (o sc : BitVec 2) (k : BitVec 5) (a d : BitVec 7) : Use :=
  { wf := mFormOk o sc, vtop := vtop [a, d], reads := [rv a, .k k.toNat, .chn] ++ (if store then [rv d] else []),
    writes := if store then [] else [rv d], lane := true, path := some (if store then 1 else 0), mem := true }

/-- cld and cst at issue: an entry on LD or ST for the active chains. -/
def cIssue (store : Bool) (o sc pol : BitVec 2) (k : BitVec 5) (a d : BitVec 7) (s : State) : Eff :=
  bound s <|
    let kr := s.recOf k
    if !recUsable kr then .trap (s.trapOf .badRecord)
    else
      let op : PathOp := if store then .chainStore s.src.chn else .chainLoad s.src.chn
      let e := s.entryOf (if store then 1 else 0) op d.toNat (chainReqs s kr a d) (if store then [] else [rv d])
      .done ((s.enqueue { e with order := o.toNat, scope := sc.toNat, policy := pol.toNat, fails := chainFails s kr a }).holdFor
        (if store then o == 2 else o != 0) s.w.nextSeq sc.toNat)

/-- CLD (R200, R201): Loads the limbs of each active chain. -/
def execCld (o s c : BitVec 2) (k : BitVec 5) (a d : BitVec 7) : State → Result :=
  slotDo (cUse false o s k a d) (cIssue false o s c k a d)

/-- CST (R200, R201): Stores the limbs of each active chain. -/
def execCst (o s c : BitVec 2) (k : BitVec 5) (a d : BitVec 7) : State → Result :=
  slotDo (cUse true o s k a d) (cIssue true o s c k a d)

/-! ### Global atomics (R223) -/

/-- Registers that an atomic reads from d: its operand, or comparand and new value for cas. -/
def atomRegs (op : AtomKind) (kr : BitVec 256) : Nat := fmtRegs (recFmt kr) * (if op = .cas then 2 else 1)

/-- A record that an atomic takes: usable, with a format of 0x04..0x07 (R205). -/
def atomUsable (kr : BitVec 256) : Bool := recUsable kr && decide (4 ≤ recFmt kr) && decide (recFmt kr ≤ 7)

/-- What an atomic uses; ret for the returning forms. -/
def aUse (op : AtomKind) (ret : Bool) (o : BitVec 3) (k : BitVec 5) (a d : BitVec 7) (s : State) : Use :=
  let kr := s.recOf k
  let n := if atomUsable kr then atomRegs op kr else 1
  { wf := decide (o.toNat ≤ 5), vtop := vtop [a, d], reads := [rv a, .k k.toNat] ++ rvrun d.toNat n,
    writes := if ret then rvrun d.toNat (if atomUsable kr then fmtRegs (recFmt kr) else 1) else [], lane := true,
    path := some 4, mem := true }

/-- A lane's operand: value or new value in the low doubleword, comparand of cas in the high one (R223). -/
def atomData (r : Regs) (op : AtomKind) (d n l : Nat) : BitVec 128 :=
  let x := (laneData r d n l).toNat
  if op = .cas then BitVec.ofNat 128 ((laneData r (d + n) n l).toNat % 2 ^ 64 + 2 ^ 64 * (x % 2 ^ 64)) else BitVec.ofNat 128 (x % 2 ^ 64)

/-- An atomic at issue: the checks of R217, then an entry on ATM. -/
def aIssue (op : AtomKind) (ret : Bool) (o : BitVec 3) (k : BitVec 5) (a d : BitVec 7) (s : State) : Eff :=
  let kr := s.recOf k
  let n := fmtRegs (recFmt kr)
  let esize := fmtSize (recFmt kr)
  regChecks s (atomUsable kr) d (atomRegs op kr) <|
    match splitLanes s ((lanesIn s.active).map fun l =>
        (l, laneAddr kr (laneOffset s.src kr false esize a l) esize, atomData s.src op d.toNat n l)) with
    | .inl t => .trap t
    | .inr reqs =>
      let e := s.entryOf 4 (.atom op (fmtSigned (recFmt kr)) esize ret) d.toNat reqs (if ret then rvrun d.toNat n else [])
      .done ((s.enqueue { e with order := maOrder o, scope := maScope o }).holdFor
        (ret && maOrder o != 0) s.w.nextSeq (maScope o))

/-- A global atomic (R223). -/
def gAtom (op : AtomKind) (ret : Bool) (o : BitVec 3) (k : BitVec 5) (a d : BitVec 7) (s : State) : Result :=
  slotDo (aUse op ret o k a d s) (aIssue op ret o k a d) s

/-- ATOM_ADD (R223): Returning atomic add at the home slice. -/
def execAtomAdd (o : BitVec 3) (k : BitVec 5) (a d : BitVec 7) : State → Result := gAtom .add true o k a d

/-- ATOM_MIN (R223): Returning atomic minimum. -/
def execAtomMin (o : BitVec 3) (k : BitVec 5) (a d : BitVec 7) : State → Result := gAtom .min true o k a d

/-- ATOM_MAX (R223): Returning atomic maximum. -/
def execAtomMax (o : BitVec 3) (k : BitVec 5) (a d : BitVec 7) : State → Result := gAtom .max true o k a d

/-- ATOM_AND (R223): Returning atomic AND. -/
def execAtomAnd (o : BitVec 3) (k : BitVec 5) (a d : BitVec 7) : State → Result := gAtom .and true o k a d

/-- ATOM_OR (R223): Returning atomic OR. -/
def execAtomOr (o : BitVec 3) (k : BitVec 5) (a d : BitVec 7) : State → Result := gAtom .or true o k a d

/-- ATOM_XOR (R223): Returning atomic XOR. -/
def execAtomXor (o : BitVec 3) (k : BitVec 5) (a d : BitVec 7) : State → Result := gAtom .xor true o k a d

/-- ATOM_EXCH (R223): Returning atomic exchange. -/
def execAtomExch (o : BitVec 3) (k : BitVec 5) (a d : BitVec 7) : State → Result := gAtom .exch true o k a d

/-- ATOM_CAS (R223): Returning atomic compare-and-swap. -/
def execAtomCas (o : BitVec 3) (k : BitVec 5) (a d : BitVec 7) : State → Result := gAtom .cas true o k a d

/-- RED_ADD (R223): Non-returning atomic add. -/
def execRedAdd (o : BitVec 3) (k : BitVec 5) (a d : BitVec 7) : State → Result := gAtom .add false o k a d

/-- RED_MIN (R223): Non-returning atomic minimum. -/
def execRedMin (o : BitVec 3) (k : BitVec 5) (a d : BitVec 7) : State → Result := gAtom .min false o k a d

/-- RED_MAX (R223): Non-returning atomic maximum. -/
def execRedMax (o : BitVec 3) (k : BitVec 5) (a d : BitVec 7) : State → Result := gAtom .max false o k a d

/-- RED_AND (R223): Non-returning atomic AND. -/
def execRedAnd (o : BitVec 3) (k : BitVec 5) (a d : BitVec 7) : State → Result := gAtom .and false o k a d

/-- RED_OR (R223): Non-returning atomic OR. -/
def execRedOr (o : BitVec 3) (k : BitVec 5) (a d : BitVec 7) : State → Result := gAtom .or false o k a d

/-- RED_XOR (R223): Non-returning atomic XOR. -/
def execRedXor (o : BitVec 3) (k : BitVec 5) (a d : BitVec 7) : State → Result := gAtom .xor false o k a d

end Sys2Proof.Machine
end

