-- ==== Sys2Proof/Machine/Scratch.lean ====
section
/-!
DEFINITION. Scratchpad (10_buffer.md R214..R216, R224..R226): the group's window, its translation entries,
and the instructions of major 0x27.
-/
namespace Sys2Proof.Machine

/-! ### The window -/

/-- The translation entry of the page that holds a scratchpad address. -/
def Group.pageOf (g : Group) (a : Nat) : Page :=
  g.pages.getD (a / 4096) { valid := false, inMem := false, index := 0, toward := none }

/-- Every byte of n from an address lies in a valid page (R214, R226). -/
def Group.scratchOk (g : Group) (a n : Nat) : Bool :=
  (g.pageOf a).valid && (g.pageOf (a + n - 1)).valid && ((List.range (n / 4096)).all fun i => (g.pageOf (a + 4096 * i)).valid)

/-- A page that n bytes touch is being repointed (R216). -/
def Group.scratchBusy (g : Group) (a n : Nat) : Bool :=
  (List.range ((a + n - 1) / 4096 - a / 4096 + 1)).any fun i => (g.pageOf (4096 * (a / 4096 + i))).toward.isSome

/-- The logical bank of a byte offset of a frame (R27). -/
def frameBank (a : Nat) : Nat := a / 4 % 32

/-- The rank of the live physical bank that holds the word at an offset of frame f, with L banks live (R27). -/
def frameRank (L f a : Nat) : Nat := (frameBank a + 32 * f) % L

/-- The physical bank that holds the word at an offset of a frame of a core. -/
def Core.frameUnit (k : Core) (f a : Nat) : Nat := k.sbankRanks.getD (frameRank k.sbankRanks.length f a) 0

/-- The physical banks and rows of the words that n bytes of the window touch in frames (R27). -/
def State.frameRows (s : State) (a n : Nat) : List (Nat × Nat) :=
  let k := s.coreAt s.g.core
  (List.range ((a + n - 1) / 4 - a / 4 + 1)).filterMap fun i =>
    let b := 4 * (a / 4 + i)
    let p := s.g.pageOf b
    if p.inMem then none else some (k.frameUnit p.index (b % 4096), Config.frameRow s.g.core p.index (b % 4096 / 128))

/-- A write of n bytes meets a row that is being copied out of an evacuating bank (R36). -/
def State.rowHeld (s : State) (a n : Nat) : Bool :=
  let k := s.coreAt s.g.core
  !k.copied.isEmpty && (s.frameRows a n).any k.copied.contains

/-- An access of n bytes waits: a page is being repointed (R216), or a check step holds a bank (R35). -/
def State.scratchShut (s : State) (a n : Nat) : Bool :=
  let k := s.coreAt s.g.core
  s.g.scratchBusy a n || (!k.mowing.isEmpty && (s.frameRows a n).any fun x => k.mowing.contains (.sbank, x.1))

/-- n bytes of the window. -/
def Group.scratchRead (g : Group) (a n : Nat) : List Byte := Memory.readN g.scratch a n

/-- The scratch image of a group, 128 pages of the context's image pool (R301). -/
def Group.imageVa (g : Group) (a : Nat) : Nat := g.scratchImage + a

/-- A word of n bytes of the window is lost (R27, R33): it stays so in the scratch image until it is written (DESIGN CHOICE, log
entry 125). -/
def Group.scratchLost (g : Group) (a n : Nat) : Bool := g.badScratch.any fun w => decide (a / 4 ≤ w) && decide (4 * w < a + n)

/-- Bytes written to the window; those of a page held in memory go through the L1 as a normal-policy store under the context's
translation, or to the home slices for a group that is away (R215, R304). A word written whole is good again (R33). -/
def State.scratchWrite (s : State) (a : Nat) (bs : List Byte) : State :=
  let n := bs.length
  let whole (w : Nat) : Bool := decide (a ≤ 4 * w) && decide (4 * w + 4 ≤ a + n)
  let s1 := { s with g := { s.g with scratch := Memory.writeN s.g.scratch a bs, badScratch := s.g.badScratch.filter fun w => !whole w } }
  (sectorsOf a n).foldl (fun s sec =>
    let lo := max a sec
    let part := (bs.drop (lo - a)).take (sec + 128 - lo)
    if (s.g.pageOf lo).inMem then
      match s.translate s.g.core s.g.ref.ctx (s.g.imageVa lo) true with
      | (.ok pa t, s2) => if s2.g.away then s2.homeWrite noCore t.key pa part else s2.storeBytes s2.g.core t.key 0 pa part
      | _ => s
    else s) s1

/-- A page held in memory that n bytes touch is not present, or its granule is being copied, so that a write of them waits
(R215, R378, R387). -/
def State.scratchWaits (s : State) (a n : Nat) : Bool :=
  (sectorsOf a n).any fun sec =>
    (s.g.pageOf sec).inMem && (match s.peek s.g.core s.g.ref.ctx (s.g.imageVa sec) true with
      | .away => true
      | .ok pa _ => s.copying pa
      | _ => false)

/-- n bytes of one element read: from a frame, or through the L1 as a normal-policy load for a page held in memory (R215). -/
def State.scratchLoad (s : State) (a n : Nat) : Got :=
  if s.g.scratchLost a n then .fail .eccUncorr s
  else if (s.g.pageOf a).inMem then
    match s.translate s.g.core s.g.ref.ctx (s.g.imageVa a) false with
    | (.ok pa t, s1) => s1.loadBytes s1.g.core t.key 0 pa n
    | (.away, _) => .wait
    | (.fail _, _) => .ok (s.g.scratchRead a n) s
  else .ok (s.g.scratchRead a n) s

/-- n bytes of the window read sector by sector, as an engine reads them (R215, R276). -/
def State.scratchRun (s : State) (a n : Nat) : Got :=
  (sectorsOf a n).foldl (fun r sec =>
    match r with
    | .ok bs t =>
      match t.scratchLoad (max a sec) (min (a + n) (sec + 128) - max a sec) with
      | .ok cs u => .ok (bs ++ cs) u
      | other => other
    | other => other) (.ok [] s)

/-- Runs of n bytes read at the addresses of some lanes: the bytes of those that can be read, and the failures of the others (R226);
none while a page waits. -/
def State.scratchRows (s : State) (n : Nat) : List (Nat × Nat) → Option (State × List (Nat × List Byte) × List LaneFail)
  | [] => some (s, [], [])
  | x :: rest =>
    if s.scratchShut x.2 n then none
    else match s.scratchRun x.2 n with
      | .wait => none
      | .fail c s1 => (s1.scratchRows n rest).map fun y => (y.1, y.2.1, { lane := x.1, cause := c, addr := x.2 } :: y.2.2)
      | .ok bs s1 => (s1.scratchRows n rest).map fun y => (y.1, (x.1, bs) :: y.2.1, y.2.2)

/-- A write of n bytes waits: its access waits, a row is being copied (R36), or a page held in memory is not to be
written now (R378, R387). -/
def State.scratchHeld (s : State) (a n : Nat) : Bool := s.scratchShut a n || s.rowHeld a n || s.scratchWaits a n

/-! ### Addresses and checks -/

/-- The byte address of a lane: the vector value plus four times the signed offset, exactly (R224). -/
def scratchAddr (r : Regs) (a : BitVec 7) (f : BitVec 7) (l : Nat) : Int :=
  ((laneAt (r.vget a) l).toNat : Int) + 4 * f.toInt

/-- The cause that a lane's address fails with (R226): the entry that is judged is that of the page in which the address lies, and an
aligned access stays in it (DEDUCED, log entry 12). -/
def scratchCause (g : Group) (x : Int) (n : Nat) : Option Cause :=
  if x < 0 ∨ !g.scratchOk x.toNat 1 then some .scratchRange
  else if x.toNat % n != 0 then some .misalign else none

/-- A lane whose address fails on the range and on its alignment counts for the range alone (R226). -/
def scratchCauses : List Cause := [.scratchRange, .misalign]

/-- The lanes' requests, or the trap at issue (R226). -/
def scratchLanes (s : State) (n : Nat) (xs : List (Nat × Int × BitVec 128)) : TrapInfo ⊕ List LaneReq :=
  let fails := xs.filterMap fun x => (scratchCause s.g x.2.1 n).map fun c =>
    ({ lane := x.1, cause := c, addr := (x.2.1 % 2 ^ 64).toNat } : LaneFail)
  match firstCause scratchCauses fails with
  | some (c, m, a) => .inl (s.laneTrap c m a)
  | none => .inr (xs.map fun x => { lane := x.1, va := x.2.1.toNat, drop := false, data := x.2.2, len := 0 })

/-- A scratchpad access: an entry on SCR (R224). `rd` and `wr` are the registers from d that it reads and writes. -/
def scratchDo (op : PathOp) (n rd wr : Nat) (pair : Bool) (d a f : BitVec 7) : State → Result :=
  slotDo { wf := !pair || even d, vtop := max (a.toNat + 1) (d.toNat + max rd (max wr 1)),
           reads := rv a :: rvrun d.toNat rd, writes := rvrun d.toNat wr, lane := true, path := some 2, mem := true } fun s =>
    match scratchLanes s n ((lanesIn s.active).map fun l => (l, scratchAddr s.src a f l, laneData s.src d.toNat rd l)) with
    | .inl t => .trap t
    | .inr reqs => .done (s.enqueue (s.entryOf 2 op d.toNat reqs (rvrun d.toNat wr)))

/-- A scratchpad load of one register, or a pair for eight bytes (R224). -/
def scratchLoad (n : Nat) (signed : Bool) (d a f : BitVec 7) : State → Result :=
  scratchDo (.sload n signed) n 0 (if n = 8 then 2 else 1) (n == 8) d a f

/-- A scratchpad store (R224). -/
def scratchStore (n : Nat) (d a f : BitVec 7) : State → Result :=
  scratchDo (.sstore n) n (if n = 8 then 2 else 1) 0 (n == 8) d a f

/-- A scratchpad atomic (R224): the operand in vd, for cas the comparand in vd and the new value in vd + 1. -/
def scratchAtom (op : AtomKind) (signed : Bool) (d a f : BitVec 7) : State → Result :=
  scratchDo (.satom op signed) 4 (if op = .cas then 2 else 1) 1 (op == .cas) d a f

/-- SLD_U8 (R224): Scratchpad load of a zero-extended byte. -/
def execSldU8 (d : BitVec 7) (a : BitVec 7) (f : BitVec 7) : State → Result :=
  scratchLoad 1 false d a f

/-- SLD_S8 (R224): Scratchpad load of a sign-extended byte. -/
def execSldS8 (d : BitVec 7) (a : BitVec 7) (f : BitVec 7) : State → Result :=
  scratchLoad 1 true d a f

/-- SLD_U16 (R224): Scratchpad load of a zero-extended halfword. -/
def execSldU16 (d : BitVec 7) (a : BitVec 7) (f : BitVec 7) : State → Result :=
  scratchLoad 2 false d a f

/-- SLD_S16 (R224): Scratchpad load of a sign-extended halfword. -/
def execSldS16 (d : BitVec 7) (a : BitVec 7) (f : BitVec 7) : State → Result :=
  scratchLoad 2 true d a f

/-- SLD_B32 (R224): Scratchpad load of a word. -/
def execSldB32 (d : BitVec 7) (a : BitVec 7) (f : BitVec 7) : State → Result :=
  scratchLoad 4 false d a f

/-- SLD_B64 (R224): Scratchpad load of a doubleword into a pair. -/
def execSldB64 (d : BitVec 7) (a : BitVec 7) (f : BitVec 7) : State → Result :=
  scratchLoad 8 false d a f

/-- SST_B8 (R224): Scratchpad store of a byte. -/
def execSstB8 (d : BitVec 7) (a : BitVec 7) (f : BitVec 7) : State → Result :=
  scratchStore 1 d a f

/-- SST_B16 (R224): Scratchpad store of a halfword. -/
def execSstB16 (d : BitVec 7) (a : BitVec 7) (f : BitVec 7) : State → Result :=
  scratchStore 2 d a f

/-- SST_B32 (R224): Scratchpad store of a word. -/
def execSstB32 (d : BitVec 7) (a : BitVec 7) (f : BitVec 7) : State → Result :=
  scratchStore 4 d a f

/-- SST_B64 (R224): Scratchpad store of a doubleword. -/
def execSstB64 (d : BitVec 7) (a : BitVec 7) (f : BitVec 7) : State → Result :=
  scratchStore 8 d a f

/-- SATOM_ADD (R224): Scratchpad atomic add returning the old value. -/
def execSatomAdd (d : BitVec 7) (a : BitVec 7) (f : BitVec 7) : State → Result :=
  scratchAtom .add false d a f

/-- SATOM_MIN_S32 (R224): Scratchpad atomic signed minimum. -/
def execSatomMinS32 (d : BitVec 7) (a : BitVec 7) (f : BitVec 7) : State → Result :=
  scratchAtom .min true d a f

/-- SATOM_MAX_S32 (R224): Scratchpad atomic signed maximum. -/
def execSatomMaxS32 (d : BitVec 7) (a : BitVec 7) (f : BitVec 7) : State → Result :=
  scratchAtom .max true d a f

/-- SATOM_MIN_U32 (R224): Scratchpad atomic unsigned minimum. -/
def execSatomMinU32 (d : BitVec 7) (a : BitVec 7) (f : BitVec 7) : State → Result :=
  scratchAtom .min false d a f

/-- SATOM_MAX_U32 (R224): Scratchpad atomic unsigned maximum. -/
def execSatomMaxU32 (d : BitVec 7) (a : BitVec 7) (f : BitVec 7) : State → Result :=
  scratchAtom .max false d a f

/-- SATOM_AND (R224): Scratchpad atomic AND. -/
def execSatomAnd (d : BitVec 7) (a : BitVec 7) (f : BitVec 7) : State → Result :=
  scratchAtom .and false d a f

/-- SATOM_OR (R224): Scratchpad atomic OR. -/
def execSatomOr (d : BitVec 7) (a : BitVec 7) (f : BitVec 7) : State → Result :=
  scratchAtom .or false d a f

/-- SATOM_XOR (R224): Scratchpad atomic XOR. -/
def execSatomXor (d : BitVec 7) (a : BitVec 7) (f : BitVec 7) : State → Result :=
  scratchAtom .xor false d a f

/-- SATOM_EXCH (R224): Scratchpad atomic exchange. -/
def execSatomExch (d : BitVec 7) (a : BitVec 7) (f : BitVec 7) : State → Result :=
  scratchAtom .exch false d a f

/-- SATOM_CAS (R224): Scratchpad atomic compare-and-swap on an even pair. -/
def execSatomCas (d : BitVec 7) (a : BitVec 7) (f : BitVec 7) : State → Result :=
  scratchAtom .cas false d a f

end Sys2Proof.Machine
end

