-- ==== Sys2Proof/Machine/Record.lean ====
section
/-!
DEFINITION. Records (10_buffer.md R208, R209) and fences and cache control (R227..R230): majors 0x28 and
0x29.
-/
namespace Sys2Proof.Machine

/-- A precise trap of the slot with an address (R312). -/
def State.addrTrap (s : State) (c : Cause) (a : Nat) : TrapInfo := { s.trapOf c with addr := some a }

/-! ### Records -/

/-- LDREC (R209): Loads a 32-byte record from the address pair into a k register, path REC. -/
def execLdrec (k : BitVec 5) (a : BitVec 7) : State → Result :=
  slotDo { wf := even a, reads := rspair a, writes := [.k k.toNat], path := some 3, mem := true } fun s =>
    let va := s.src.addrPair a
    if va % 32 != 0 then .trap (s.addrTrap .misalign va)
    else .done (s.enqueue (s.entryOf 3 .ldrec k.toNat [{ lane := 0, va := va, drop := false, data := 0, len := 32 }] [.k k.toNat]))

/-- STREC (R209): Stores a k register as 32 bytes, a plain store on path ST. -/
def execStrec (a : BitVec 7) (k : BitVec 5) : State → Result :=
  slotDo { wf := even a, reads := rspair a ++ [.k k.toNat], path := some 1, mem := true } fun s =>
    let va := s.src.addrPair a
    let x := s.src.kget k.toNat
    if va % 32 != 0 then .trap (s.addrTrap .misalign va)
    else .done (s.enqueue (s.entryOf 1 .strec 0
      [{ lane := 0, va := va, drop := false, data := x.extractLsb' 0 128, len := 16 },
       { lane := 1, va := va + 16, drop := false, data := x.extractLsb' 128 128, len := 16 }] []))

/-- MKREC (R209): Builds a record from an octet of scalar registers. -/
def execMkrec (k : BitVec 5) (a : BitVec 7) : State → Result :=
  slotDo { wf := a.toNat % 8 == 0, reads := (List.range 8).map fun i => .s (a.toNat + i), writes := [.k k.toNat], mem := true } fun s =>
    .done (s.mapRegs (·.kset k.toNat (BitVec.ofNat 256
      ((List.range 8).foldr (fun i x => (s.src.sget (BitVec.ofNat 7 (a.toNat + i))).toNat + 2 ^ 32 * x) 0))))

/-- KMOV (R209): Copies a record register. -/
def execKmov (d a : BitVec 5) : State → Result :=
  slotDo { reads := [.k a.toNat], writes := [.k d.toNat], mem := true } fun s =>
    .done (s.mapRegs (·.kset d.toNat (s.src.kget a.toNat)))

/-! ### Fences (R227, R228) -/

/-- Paths whose entries a fence waits for: LD, ST, SCR, REC and ATM (R227). -/
def fencePath (p : Nat) : Bool := decide (p ≤ 4)

/-- Every entry of those paths below a number is performed at grp: an atomic that waits at a granule being copied is (R441). -/
def Warp.fenceMet (w : Warp) (upto : Nat) : Bool :=
  w.entries.all fun e => !(fencePath e.path && decide (e.seq < upto)) || e.done || e.parked

/-- FENCE (R227): Holds later M- and T-pipe slots until earlier accesses are performed at the scope. A fence at grp with
nothing outstanding holds nothing. -/
def execFence (k : BitVec 7) : State → Result :=
  slotDo { wf := decide (k.toNat ≤ 4), mem := true } fun s =>
    if k = 0 ∧ s.w.fenceMet s.w.nextSeq then .done s
    else .done { s with w := { s.w with hold := .fence k.toNat s.w.nextSeq } }

/-- RFENCE (R228): Drains stores, writes back the L1 and invalidates the core's record cache before later slots issue. -/
def execRfence : State → Result :=
  slotDo { mem := true } fun s => .done { s with w := { s.w with hold := .rfence s.w.nextSeq } }

/-! ### Cache control (R229, R230) -/

/-- A line prefetched into the L1: each of its sectors that can be read; an address that does not translate, a page
that is not present and a bypass page are dropped (R229). -/
def State.prefetch (s : State) (va : Nat) : State :=
  match s.translate s.g.core s.g.ref.ctx va false with
  | (.ok pa t, s1) =>
    if t.policy = 3 ∨ hbmEnd ≤ pa ∨ (s.g.desc.determ && t.o) ∨ s1.parkedOver s1.g.core (lineOf pa) 512 then s1
    else (List.range 4).foldl (fun s i =>
      let p := lineOf pa + 128 * i
      if (s.homeFails p 128 t.key true).isSome then s
      else ((s.allocLine s.g.core p t.key t.policy).fillSector s.g.core p t.key).touchLine s.g.core p t.policy) s1
  | (_, s1) => s1

/-- PF (R229): Prefetches the 512-byte line at an address into the L1 and last-level cache, or the last-level cache alone;
failures are dropped (DEDUCED, log entry 83). -/
def execPf (a l : BitVec 7) : State → Result :=
  slotDo { wf := even a && decide (l.toNat ≤ 1), reads := rspair a, mem := true } fun s =>
    .done (if l = 0 then s.prefetch (s.src.addrPair a) else s)

/-- FLUSH (R230): Writes back the dirty bytes of S[sb] lines from an address, or of the whole L1 for 0. -/
def execFlush (a b : BitVec 7) : State → Result :=
  slotDo { wf := even a, reads := rspair a ++ [rs b], mem := true } fun s =>
    .done { s with w := { s.w with hold := .cache false (s.src.addrPair a) (s.src.sget b).toNat } }

/-- INVAL (R230): Writes back and invalidates S[sb] lines from an address, or the whole L1 for 0. -/
def execInval (a b : BitVec 7) : State → Result :=
  slotDo { wf := even a, reads := rspair a ++ [rs b], mem := true } fun s =>
    .done { s with w := { s.w with hold := .cache true (s.src.addrPair a) (s.src.sget b).toNat } }

end Sys2Proof.Machine
end

