-- ==== Sys2Proof/Machine/Undo.lean ====
section
/-!
DEFINITION. The group barriers' record (15_barrier.md R314..R319), and putting a warp and its group back to what they were before a
set that a late precise trap undoes (01_fold.md R43, 09_chain.md R191).
-/
namespace Sys2Proof.Machine

/-! ### Group barriers (R314..R319) -/

/-- A barrier of the group. -/
def Group.bar (g : Group) (b : Nat) : GBar := g.bars.getD b (GBar.fresh 0)

/-- A barrier of the group replaced. -/
def Group.setBar (g : Group) (b : Nat) (x : GBar) : Group := { g with bars := g.bars.set b x }

/-- The test of R316: with E ≥ 1, A = E and T = 0 the phase inverts, and the count and the arrival bits clear. -/
def GBar.test (x : GBar) : GBar :=
  if 1 ≤ x.expected ∧ x.arrived = x.expected ∧ x.trans = 0 then { x with phase := !x.phase, arrived := 0, bits := 0 } else x

/-- The warp is a member of the barrier. -/
def GBar.member (x : GBar) (w : Nat) : Bool := x.members.getLsbD w

/-- The warp's arrival bit. -/
def GBar.bit (x : GBar) (w : Nat) : Bool := x.bits.getLsbD w

/-- A bit of a mask cleared. -/
def clearBit16 (m : BitVec 16) (w : Nat) : BitVec 16 := m &&& ~~~(BitVec.twoPow 16 w)

/-- The arrival of a warp that leaves the mask is taken back: one that is applied from the count, one that is only posted
from those that wait (R319). -/
def Group.retract (g : Group) (b w : Nat) : Group :=
  let x := g.bar b
  let waits := g.posted.any fun p => p.warp == w && p.bar == b
  { g.setBar b { x with bits := clearBit16 x.bits w, arrived := if waits then x.arrived else x.arrived - 1 } with
    posted := g.posted.filter fun p => !(p.warp == w && p.bar == b) }

/-- The warps of a group that have not exited. -/
def Group.liveMask (g : Group) : BitVec 16 :=
  g.warps.foldl (fun m w => if w.status = .exited then m else m ||| BitVec.twoPow 16 w.wid) 0

/-- Bits set in a member mask. -/
def popCount16 (m : BitVec 16) : Nat := (List.range 16).countP m.getLsbD

/-- gb.members (R319): the arrivals of the members that leave are taken back, then the mask, the count and the test. -/
def Group.setMembers (g : Group) (b : Nat) (m : BitVec 16) : Group :=
  let old := g.bar b
  let g1 := (List.range 16).foldl (fun g w => if old.member w && !m.getLsbD w && old.bit w then g.retract b w else g) g
  let m1 := m &&& g.liveMask
  g1.setBar b ({ g1.bar b with members := m1, expected := popCount16 m1 }.test)

/-! ### A set undone (R43, R191) -/

/-- The warp as it was before a set: its registers, status, slot count, windows, entries and hold. What its earlier entries have written
since is kept (DEDUCED, log entry 108). -/
def Warp.backBefore (w : Warp) (x : Undo) : Warp :=
  let older (c : DWord) : Bool := decide ((w.clk - x.clk0).toNat < (w.clk - c).toNat)
  { w with
    regs := x.regs, clk := x.clk0, status := x.status, cgOpen := x.cgOpen, meeting := x.meeting, sleepLeft := 0,
    hold := if w.hold = x.hold then x.hold else .none,
    windows := w.windows.filter fun y => older y.undo.clk0, entries := w.entries.filter fun e => decide (e.seq < x.seq0),
    slots := w.slots.filter fun e => decide (e.seq < x.seq0), copyQ := w.copyQ.filter fun i => older i.clk0,
    tileQ := w.tileQ.filter fun i => older i.clk0, collQ := w.collQ.filter fun i => older i.clk0 }

/-- What a set has done to a barrier taken back: the member mask, and the expected bytes. -/
def Group.undeed (g : Group) (d : Deed) : Group :=
  let g1 := if d.old.members = d.new_.members then g else g.setMembers d.bar d.old.members
  if d.old.trans = d.new_.trans then g1
  else let x := g1.bar d.bar; g1.setBar d.bar ({ x with trans := x.trans - (d.new_.trans - d.old.trans) } : GBar).test

/-- The arrivals that a warp has posted from a set on and that are not applied yet are taken back. -/
def Group.unpost (g : Group) (wid set : Nat) : Group :=
  let gone (p : Posted) : Bool := p.warp == wid && decide (set ≤ p.set)
  (g.posted.filter gone).foldl (fun g p => g.setBar p.bar { g.bar p.bar with bits := clearBit16 (g.bar p.bar).bits wid })
    { g with posted := g.posted.filter fun p => !gone p }

/-- The warp in the issue stage and its group as they were before a set (R43, R191) (DEDUCED, log entry 108). -/
def State.putBack (s : State) (x : Undo) (set : Nat) : State :=
  { s with
    w := s.w.backBefore x,
    g := { x.deeds.foldl Group.undeed (s.g.unpost s.w.wid set) with
           schedWait := s.g.schedWait.filter fun r => !(r.warp == s.w.wid) || decide ((s.w.clk - x.clk0).toNat < (s.w.clk - r.clk0).toNat) } }

end Sys2Proof.Machine
end

