-- ==== Sys2Proof/Machine/Perform.lean ====
section
/-!
DEFINITION. Performing what a warp has put on its paths: the counters (R113), the imprecise traps
(R202, R221, R436), loads and store forwarding (R218, R234), stores (R219, R220), ordered pages (R222,
R251, R383), atomics (R223), records (R209), scratchpad accesses (R225, R241), and the events that perform
them. The warp and its group stand in the issue stage.
-/
namespace Sys2Proof.Machine

/-! ### Warps and groups in the tables -/

/-- A group of the tables. -/
def State.groupOf (s : State) (r : GRef) : Option Group := s.groups.find? (·.ref == r)

/-- A group put back into the tables. -/
def State.putGroup (s : State) (g : Group) : State := { s with groups := s.groups.map fun h => if h.ref = g.ref then g else h }

/-- A warp put back into its group. -/
def Group.putWarp (g : Group) (w : Warp) : Group := { g with warps := g.warps.map fun v => if v.wid = w.wid then w else v }

/-- The issue stage's warp and group put back into the tables. -/
def State.park (s : State) : State := s.putGroup (s.g.putWarp s.w)

/-- A warp and its group taken into the issue stage. -/
def State.load (s : State) (r : WRef) : Option State :=
  match s.groupOf r.g with
  | none => none
  | some g =>
    match g.warps.find? (·.wid == r.w) with
    | none => none
    | some w => some { s with w := w, g := g }

/-- The group is on a core, its warps' state in the core (R292): resident, leaving or halting. -/
def Group.onCore (g : Group) : Bool :=
  !g.away && (match g.status with | .resident => true | .evicting => true | .migrating => true | .halting => true | _ => false)

/-- The group is away, its warps' state in its image (R304). -/
def Group.absent (g : Group) : Bool := g.away && g.status != .retired

/-- An event of a warp of a group on a core; with no such warp, or when the event's conditions do not hold, the
state is unchanged (R108, R292) (DESIGN CHOICE, log entry 31). -/
def onWarp (r : WRef) (f : State → Option State) (s : State) : Result :=
  .next <| match s.load r with
    | none => s
    | some t => if t.g.onCore then ((f t).map State.park).getD s else s

/-! ### Counters (R113) -/

/-- The entries without the run of completed ones that starts at the oldest of each path. -/
def settleList : List Nat → List PathEntry → List PathEntry
  | _, [] => []
  | bl, e :: r => if e.done && !bl.contains e.path then settleList bl r else e :: settleList (e.path :: bl) r

/-- An entry replaced by its number. -/
def Warp.setEntry (w : Warp) (e : PathEntry) : Warp := { w with entries := w.entries.map fun d => if d.seq = e.seq then e else d }

/-- Clean lines invalidated at dev or sys; grp acquires nothing from other cores (R237). -/
def State.acquireAt (s : State) (scope : Nat) : State := if scope = 0 then s else s.dropClean s.g.core

/-- The scope at which an entry is ordered: sys where one of its lanes goes to a remote window (R222, R240). -/
def State.scopeOf (s : State) (e : PathEntry) : Nat :=
  if e.reqs.any fun r => !r.drop && (match s.peek s.g.core s.g.ref.ctx r.va false with | .ok pa _ => decide (2 ^ 51 ≤ pa) | _ => false)
  then 2 else e.scope

/-- A slot of the chained set still waits for its shadowed result: the set writes nothing before it (R41). -/
def Warp.setWaits (w : Warp) (set : Nat) : Bool := w.windows.any fun x => x.set == set && x.shadowed && !x.ready

/-- The entry of a path and number that is still to be performed and whose set lets it. -/
def Warp.entryAt (w : Warp) (seq path : Nat) : Option PathEntry :=
  w.entries.find? fun e => e.seq == seq && e.path == path && !e.done && !w.setWaits e.set

/-- The hold of a fence at grp ends when what it waits for is performed (R227). -/
def Warp.liftFence (w : Warp) : Warp :=
  match w.hold with
  | .fence 0 upto => if w.fenceMet upto then { w with hold := .none } else w
  | _ => w

/-- The entry of that number completes: the counter is lowered past the completed run, pending marks go with
it, its window's results are written (R82), and an acquire's hold ends with the invalidation (R113, R220). -/
def State.complete (s : State) (seq : Nat) : State :=
  let es := s.w.entries.map fun e => if e.seq = seq then { e with done := true } else e
  let ws := s.w.windows.map fun x => if x.entry = some seq then { x with ready := true } else x
  let s1 := { s with w := { s.w with entries := settleList [] es, windows := ws } }
  let s2 := match s1.w.hold with
    | .acquire q scope =>
      let far := match s.w.entries.find? fun (e : PathEntry) => e.seq == seq with | some e => s.scopeOf e | none => 0
      if q = seq then { s1 with w := { s1.w with hold := .none } }.acquireAt (max scope far) else s1
    | _ => s1
  { s2 with w := s2.w.liftFence }

/-! ### Imprecise traps (R221, R309, R310) -/

/-- Slots retired since an instruction issued, the instruction itself not counted, up to 65,535 (R310). -/
def Warp.skidSince (w : Warp) (clk0 : DWord) : Nat := min 65535 ((w.clk - clk0).toNat - 1)

/-- The warp is in a state that a trap of its own halts (R108). -/
def Warp.running (w : Warp) : Bool := w.status == .ready || w.status == .stalled || w.status == .sleeping

/-- An imprecise trap of the warp: it stops where it stands, and the trap reaches the group (R309). Its skid count runs from the
instruction's issue, or from the broadcast where a sibling's trap has halted the group (R310). -/
def State.raiseAfter (s : State) (t : TrapInfo) (clk0 : DWord) : State :=
  let halts := s.g.status == .resident || s.g.status == .migrating || s.g.status == .halting
  let skid := if s.w.bcast then s.w.skid else s.w.skidSince clk0
  { s with w := if halts && s.w.running then s.w.stop s.w.pc skid
                else if s.g.trap.isNone then { s.w with skid := skid } else s.w,
           g := s.g.raise t }

/-- The failure of the lowest lane. -/
def lowestFail (fs : List LaneFail) : Option LaneFail :=
  fs.foldl (fun a f => match a with | none => some f | some b => if f.lane < b.lane then some f else some b) none

/-- The limb count of a chain entry. -/
def PathOp.chains : PathOp → Option Nat
  | .chainLoad n => some n
  | .chainStore n => some n
  | _ => none

/-- The entry's failures are lane by lane. -/
def PathOp.byLane : PathOp → Bool
  | .strec => false
  | .ldrec => false
  | .mbArm _ => false
  | .mbPost _ => false
  | .mbBytes _ => false
  | _ => true

/-- The trap that a completing entry raises (R202, R221): CHAIN_FAULT with its chain mask, or the cause of the lowest
failing lane with the failing lanes. -/
def entryTrap (wid : Nat) (e : PathEntry) : Option TrapInfo :=
  (lowestFail e.fails).map fun f =>
    { cause := if e.op.chains.isSome then .chainFault else f.cause, under := if e.op.chains.isSome then some f.cause else none,
      precise := false, warp := wid, arg := 0, pc := e.pc, mask := if e.op.byLane then maskList (e.fails.map (·.lane)) else 0,
      chainMask := e.op.chains.isSome, addr := match e.op with | .nemit _ => none | _ => some f.addr, fromAbsent := false }

/-- The trap of a lane whose operation is left with no live route (R396). -/
def PathEntry.lostTrap (e : PathEntry) (wid : Nat) (r : LaneReq) : TrapInfo :=
  (entryTrap wid { e with fails := [{ lane := match e.op.chains with | some n => r.lane / n | none => r.lane, cause := .addrFault, addr := r.va }] }).getD default

/-- The entry completes and raises the trap of its failures, in one step (R221, R436). -/
def State.finish (s : State) (e : PathEntry) : State :=
  let s1 := { s with w := s.w.setEntry e }.complete e.seq
  match entryTrap s.w.wid e with
  | none => s1
  | some t => s1.raiseAfter t e.clk0

/-! ### Ordered pages (R222, R251, R383) -/

/-- An access of a core goes to an ordered page of the deterministic launch whose group stands in the issue stage; one of no core,
such as a front end's, belongs to no launch (R384). -/
def State.ordered (s : State) (core : Nat) (t : Tlb) : Bool := decide (core < noCore) && s.g.desc.determ && t.o

/-- The launch of a group. -/
def State.launchOf (s : State) (ctx seq : Nat) : Option Launch := s.launches.find? fun l => l.ctx == ctx && l.seq == seq

/-- Every lower-indexed group of the launch has been released. -/
def State.lowerReleased (s : State) (g : Group) : Bool :=
  match s.launchOf g.ref.ctx g.ref.seq with
  | some l => decide (g.ref.lgi ≤ l.released)
  | none => false

/-- The group's first load of an ordered granule waits for the lower groups and ends with an acquire at dev, which exchanges clocks
(R242); a later one goes on (R251, R383). A returning atomic waits each time. -/
def State.orderedGate (s : State) (va pa : Nat) (always : Bool) : Option State :=
  if !always && s.g.seen.contains (va / 4096) then some s
  else if s.lowerReleased s.g then
    some (({ s with g := { s.g with seen := if s.g.seen.contains (va / 4096) then s.g.seen else va / 4096 :: s.g.seen } }.dropClean
      s.g.core).exchange s.g.core pa false)
  else none

/-- The new value of an atomic (R223): M the old value, v the operand, cmp the comparand, in `bits` bits. -/
def atomNew (op : AtomKind) (signed : Bool) (bits M v cmp : Nat) : Nat :=
  match op with
  | .add => (M + v) % 2 ^ bits
  | .min => if signed then (if signedAt bits M ≤ signedAt bits v then M else v) else min M v
  | .max => if signed then (if signedAt bits M ≤ signedAt bits v then v else M) else max M v
  | .and => M &&& v
  | .or => M ||| v
  | .xor => M ^^^ v
  | .exch => v
  | .cas => if M = cmp then v else M

/-- A staged item applied to memory at a physical address (R340). -/
def applyStaged (m : List Host.Cell) (pa : Nat) (x : Staged) : List Host.Cell :=
  match x.red with
  | none => Memory.writeN m pa x.data
  | some (op, signed, v) =>
    Memory.writeN m pa (leBytes x.data.length (atomNew op signed (8 * x.data.length) (leNat (Memory.readN m pa x.data.length)) v.toNat 0))

/-- n bytes of an ordered page as the group sees them: the home slice's with its own staged items applied over
them in staging order (R340, R383). -/
def State.orderedRead (s : State) (pa n : Nat) : List Byte :=
  Memory.readN (s.g.staged.foldl (fun m x =>
    match s.peek s.g.core s.g.ref.ctx x.va false with
    | .ok q _ => applyStaged m q x
    | _ => m) (if pa < hbmEnd then s.mem else Memory.writeN s.mem pa (s.homeRead pa n))) pa n

/-- The bytes of a group's staging area (R339). -/
def Desc.stagingBytes (d : Desc) : Nat := 4096 * (if d.staging = 0 then 256 else d.staging)

/-- An item staged, or refused with QUOTA when it would go beyond the area (R339; log entry 22). -/
def State.stage (s : State) (x : Staged) : Option State :=
  if s.g.desc.stagingBytes < s.g.stagedSize + x.data.length then none
  else some { s with g := { s.g with staged := s.g.staged ++ [x], stagedSize := s.g.stagedSize + x.data.length } }

/-! ### Loads -/

/-- Bytes that a lane of an entry accesses. -/
def PathOp.size : PathOp → Nat
  | .load n _ => n
  | .store n => n
  | .chainLoad _ => 4
  | .chainStore _ => 4
  | .atom _ _ n _ => n
  | .sload n _ => n
  | .sstore n => n
  | .satom _ _ => 4
  | .ldrec => 32
  | .strec => 16
  | .nemit _ => 16
  | .mbArm _ => 16
  | .mbPost _ => 16
  | .mbBytes _ => 16
  | .cpy32 => 32
  | .move => 0

/-- What the warp's own store queue holds for a load: nothing, all the bytes, or a part (R218). -/
inductive Forward where
  | none
  | all (bs : List Byte)
  | part

/-- The queued stores older than an entry, newest first. -/
def Warp.queuedStores (w : Warp) (seq : Nat) : List PathEntry :=
  (w.entries.filter fun e => e.path == 1 && !e.done && decide (e.seq < seq)).reverse

/-- Their lanes, each with its size, from the highest lane down. -/
def Warp.queued (w : Warp) (seq : Nat) : List (Nat × LaneReq) :=
  (w.queuedStores seq).flatMap fun e => (e.reqs.reverse.filter (!·.drop)).map fun r => (e.op.size, r)

/-- The byte that a queued store would write at an address: its highest lane's (R218, R219). -/
def State.queuedByte (s : State) (e : PathEntry) (a : Nat) : Option Byte :=
  e.reqs.foldl (fun b r =>
    if r.drop then b
    else match s.peek s.g.core s.g.ref.ctx r.va false with
      | .ok q _ => if q ≤ a ∧ a < q + e.op.size then some ((leBytes e.op.size r.data.toNat).getD (a - q) 0) else b
      | _ => b) none

/-- Store-to-load forwarding from the warp's own queue: the newest store that writes one of the bytes serves the load where it
writes them all, by whichever of its lanes (R218). -/
def State.forward (s : State) (seq pa n : Nat) : Forward :=
  (s.w.queuedStores seq).foldl (fun f e =>
    match f with
    | .none =>
      let bs := (List.range n).map fun i => s.queuedByte e (pa + i)
      if bs.all (·.isNone) then .none else if bs.all (·.isSome) then .all (bs.map (·.getD 0)) else .part
    | g => g) .none

/-- The entries that a release or a fence waits for are performed: those of the warp below a number (R236). -/
def Warp.allDone (w : Warp) (upto : Nat) : Bool := w.fenceMet upto

/-- The group's launch is split by a MIGRATE: its orderings at dev are performed at sys (R371). -/
def State.splitNow (s : State) : Bool := (s.launchOf s.g.ref.ctx s.g.ref.seq).any fun l => l.split || l.only.isSome

/-- A release at a scope of the warp's core: at dev and sys the L1 written back, and nothing left waiting at a
granule that is being copied; at sys every earlier remote write acknowledged too, those that the group has made on other cores among
them (R220, R236, R240, R371, R441). -/
def State.release (s : State) (scope : Nat) : Option State :=
  if scope = 0 then some s
  else
    let s1 := s.writeBackAll s.g.core
    if s1.coreParked s1.g.core || ((decide (2 ≤ scope) || s1.splitNow) && !(s1.acked s1.g.core && s1.ackedFor s1.g.ref)) then none else some s1

/-- The clock that a link operation of an ordered access carries: none, an exchange, or an sc access's (R242). -/
def clockOrder (order : Nat) : Nat := if order = 0 then 0 else if order = 2 then 2 else 1

/-- The exchange of clocks of an ordered access at dev or sys (R242); of an access of several lanes, lane by lane in increasing lane
order (DESIGN CHOICE, log entry 103). -/
def State.clockAt (s : State) (order scope pa : Nat) : State :=
  if order = 0 ∨ scope = 0 then s else s.exchange s.g.core pa (order == 2)

/-- One lane of a load: translation, the warp's own queue, then an ordered page, the L1 or the home slice. An acquire at dev or sys
rereads the home slice but for bytes that are dirty in the L1 (R239, R252), and no older clean copy remains beside what an ordered page
gives (R235). -/
def State.loadLane (s : State) (e : PathEntry) (va n : Nat) : Got :=
  match s.translate s.g.core s.g.ref.ctx va false with
  | (.fail c, s1) => .fail c s1
  | (.away, _) => .wait
  | (.ok pa t, s1) =>
    let scope := if 2 ^ 51 ≤ pa then 2 else e.scope
    let gated := if s1.ordered s1.g.core t then s1.orderedGate va pa false else some s1
    match gated with
    | none => .wait
    | some s2 =>
      match s2.forward e.seq pa n with
      | .all bs => .ok bs (s2.clockAt e.order scope pa)
      | .part => .wait
      | .none =>
        if s1.ordered s1.g.core t then
          let s3 := (s2.writeBackSector s2.g.core pa).dropSector s2.g.core pa
          if s3.parkedOver s3.g.core pa n then .wait
          else match s3.homeFails pa n t.key true with
            | some c => .fail c (s3.afterFail c t.key pa)
            | none => .ok (s3.orderedRead pa n) ((s3.sendLoad s3.g.core t.key pa (clockOrder e.order) n).clockAt e.order scope pa)
        else
          let s3 := if e.order = 1 ∧ scope ≠ 0 then s2.dropSector s2.g.core pa else s2
          match s3.loadBytes s3.g.core t.key (if e.order = 2 then 3 else effPolicy t.policy e.policy) pa n with
          | .ok bs s4 => .ok bs ((s4.sendLoad s4.g.core t.key pa (clockOrder e.order) n).clockAt e.order scope pa)
          | other => other

/-- The lanes of a load, in increasing lane order: the bytes of those that succeed and the failures (DESIGN CHOICE, log
entry 30). -/
def State.loadLanes (s : State) (e : PathEntry) : List LaneReq → Option (State × List (Nat × BitVec 128) × List LaneFail)
  | [] => some (s, [], [])
  | r :: rest =>
    if r.drop then (s.loadLanes e rest).map fun x => (x.1, (r.lane, 0) :: x.2.1, x.2.2)
    else
      match s.loadLane e r.va e.op.size with
      | .wait => none
      | .fail c s1 => (s1.loadLanes e rest).map fun x => (x.1, x.2.1, { lane := r.lane, cause := c, addr := r.va } :: x.2.2)
      | .ok bs s1 => (s1.loadLanes e rest).map fun x => (x.1, (r.lane, BitVec.ofNat 128 (leNat bs)) :: x.2.1, x.2.2)

/-- Limb failures gathered into chain failures, each chain's first failing limb (R201, R202). -/
def byChain (n : Nat) (fs : List LaneFail) : List LaneFail :=
  (((fs.map fun f => f.lane / n).eraseDups).filterMap fun c => (fs.find? fun f => f.lane / n == c).map fun f => { f with lane := c })

/-- The failures of an entry once its lanes have been tried, and the lanes that it performs. -/
def PathEntry.judge (e : PathEntry) (vals : List (Nat × BitVec 128)) (fs : List LaneFail) : PathEntry :=
  match e.op.chains with
  | none => { e with got := some vals, fails := e.fails ++ fs }
  | some n =>
    let bad := e.fails ++ byChain n fs
    { e with got := some (vals.filter fun x => !(bad.any fun f => f.lane == x.1 / n)), fails := bad }

/-- The value of a load fixed, with what an sc load carries: the release of R236 before it (R220, R234). -/
def State.fixLoad (s : State) (e : PathEntry) : Option State :=
  if e.got.isSome then some s
  else
    let s0 := if e.order = 2 then (if s.w.allDone e.seq then s.release (s.scopeOf e) else none) else some s
    s0.bind fun s0 => (s0.loadLanes e e.reqs).map fun x => { x.1 with w := x.1.w.setEntry (e.judge x.2.1 x.2.2) }

/-- The loads of the warp below a number fixed in issue order (R234). -/
def State.fixLoads (s : State) (upto : Nat) : Option State :=
  (s.w.entries.filter fun e => e.path == 0 && !e.done && decide (e.seq < upto)).foldlM (fun s e => s.fixLoad e) s

/-- The registers of a lane's loaded element (R204). -/
def loadWords (n : Nat) (signed : Bool) (x : BitVec 128) : List Word :=
  match n with
  | 1 => [if signed then (x.extractLsb' 0 8).signExtend 32 else (x.extractLsb' 0 8).setWidth 32]
  | 2 => [if signed then (x.extractLsb' 0 16).signExtend 32 else (x.extractLsb' 0 16).setWidth 32]
  | _ => (List.range (n / 4)).map fun i => x.extractLsb' (32 * i) 32

/-- Lanes of n registers from dst written with the values of a list. -/
def Regs.putLanes (r : Regs) (dst n : Nat) (vals : List (Nat × List Word)) : Regs :=
  (List.range n).foldl (fun r i =>
    let d := BitVec.ofNat 7 (dst + i)
    r.vset d (Lanes.tab fun l => match vals.find? (·.1 == l.val) with
      | some x => x.2.getD i 0
      | none => (r.vget d)[l])) r

/-- A performed load's registers written in the lanes that did not fail. -/
def Regs.putLoad (r : Regs) (e : PathEntry) (n : Nat) (signed : Bool) : Regs :=
  r.putLanes e.dst (max 1 (n / 4)) ((e.got.getD []).map fun x => (x.1, loadWords n signed x.2))

/-- A load of the LD path performed: the state and the entry, which holds the lanes' data and failures, before any register
is written (DEDUCED, log entry 87). -/
def State.loadPart (s : State) (seq : Nat) : Option (State × PathEntry) :=
  match s.w.entryAt seq 0 with
  | none => none
  | some _ =>
    (s.fixLoads (seq + 1)).bind fun s1 => (s1.w.entries.find? fun e => e.seq == seq).map fun e => (s1, e)

/-- What a performed entry of LD, ATM or REC returns written into its registers (R112). -/
def Regs.putEntry (r : Regs) (e : PathEntry) : Regs :=
  match e.op with
  | .load n signed => r.putLoad e n signed
  | .chainLoad _ => r.putLoad e 4 false
  | .atom _ _ n ret => if ret then r.putLoad e n false else r
  | .sload n signed => r.putLoad e n signed
  | .satom _ _ => r.putLoad e 4 false
  | .ldrec =>
    match e.got with
    | some [lo, hi] => r.kset e.dst (hi.2 ++ lo.2)
    | _ => r
  | .mbPost _ =>
    match e.got with
    | some [x] => r.sset (BitVec.ofNat 7 e.dst) (x.2.extractLsb' 0 32)
    | _ => r
  | _ => r

/-- The entry writes a register's word whole in a lane. -/
def PathEntry.mends (e : PathEntry) (x : Nat × Nat) : Bool :=
  e.writes.contains (.v x.1) && (e.got.getD []).any fun y => y.1 == x.2

/-- Registers written by an entry of that number, in the warp and in what a later instruction would be undone to (R43, R191). -/
def Warp.lateRegs (w : Warp) (seq : Nat) (f : Regs → Regs) : Warp :=
  let late (x : Undo) : Undo := if seq < x.seq0 then { x with regs := f x.regs } else x
  { w with regs := f w.regs, windows := w.windows.map fun x => { x with undo := late x.undo },
           entries := w.entries.map fun d => { d with back := d.back.map late } }

/-- The registers of a performed entry written; a word written whole is good again (R33). -/
def Warp.putEntry (w : Warp) (e : PathEntry) : Warp :=
  { w.lateRegs e.seq (·.putEntry e) with badRegs := w.badRegs.filter fun x => !e.mends x }

/-- A result of the entry would leave a chain split under the mask (R190). -/
def Warp.splitBy (w : Warp) (e : PathEntry) : Bool :=
  let r := w.regs.putEntry e
  meets e.writes maskRegs && r.chn != 0 && splitChains r.chn r.mask != 0

/-- The CHAIN_SPLIT trap of such a result, at the slot that has raised it (R190, R191) (DEDUCED, log entry 32). -/
def Warp.splitLate (w : Warp) (e : PathEntry) : TrapInfo :=
  let r := w.regs.putEntry e
  { cause := .chainSplit, under := none, precise := true, warp := w.wid, arg := BitVec.ofNat 32 r.chn, pc := e.pc,
    mask := (splitChains r.chn r.mask).setWidth 96, chainMask := true, addr := none, fromAbsent := false }

/-- The warp stops before the set of an entry whose result would split a chain: the result is not written (R190, R191). -/
def State.splitBack (s : State) (e : PathEntry) : State :=
  let t := match e.back with | some x => s.putBack x e.set | none => s
  { t with w := t.w.stop e.pc t.w.ownSkid, g := t.g.raise (s.w.splitLate e) }

/-- An entry whose operation is performed writes its registers and completes. A result that would leave a chain split under the
mask is not written (R190). -/
def State.landed (s : State) (e : PathEntry) : State :=
  if s.w.splitBy e then ({ s with w := s.w.setEntry e }.complete e.seq).splitBack e
  else { s with w := s.w.putEntry e }.finish e

/-- The physical register bank that holds a logical lane's registers (R23). -/
def Partition.bankOfLane (p : Partition) (l : Nat) : Nat := p.bankOf.getD (l / 4) 0

/-- A write of vector registers in some lanes meets a row of a bank that is being copied (R36). -/
def State.bankHeld (s : State) (writes : List RegId) (lanes : List Nat) : Bool :=
  let p := (s.coreAt s.g.core).parts.getD s.w.part Partition.fresh
  !p.copied.isEmpty && writes.any fun r =>
    match r with
    | .v n => lanes.any fun l => p.copied.contains (p.bankOfLane l, Config.registerRow (s.user s.g.core) n)
    | _ => false

/-- A return of the entry waits for a row that is being copied (R36). -/
def State.returnHeld (s : State) (seq : Nat) : Bool :=
  match s.w.entries.find? fun e => e.seq == seq && !e.done with
  | some e => s.bankHeld e.writes (e.reqs.map (·.lane))
  | none => false

/-- A load completes: its registers are written and its entry leaves LD in order (R112, R113). -/
def State.loadDone (s : State) (seq : Nat) : Option State := if s.returnHeld seq then none else (s.loadPart seq).map fun x => x.1.landed x.2

/-- LOAD_RETURN (R218): A load's lane data is written and its LD entry completes in order. -/
def execLoadReturn (r : WRef) (seq : Nat) : State → Result := onWarp r (·.loadDone seq)

/-! ### Stores -/

/-- Why a store of a lane fails, before any byte is written (R221). -/
def State.storeCheck (s : State) (va n : Nat) : Option (Option Cause) :=
  match s.translate s.g.core s.g.ref.ctx va true with
  | (.fail c, _) => some (some c)
  | (.away, _) => none
  | (.ok pa t, _) => some (s.homeFails pa n t.key false)

/-- A write over the write index of queues, by a group of a launch, which the queues of its context remember, or by another agent, for
which the launch is 0 (R352). -/
def State.noteStore (s : State) (ctx seq pa : Nat) (bs : List Byte) : State :=
  { s with queues := s.queues.map fun q =>
    match s.peek noCore q.ctx q.widxVa false with
    | .ok at_ _ =>
      if pa < at_ + 8 ∧ at_ < pa + bs.length then
        { q with stores := q.stores ++
          [(leNat ((List.range 8).map fun i =>
              if pa ≤ at_ + i ∧ at_ + i < pa + bs.length then bs.getD (at_ + i - pa) 0 else s.homeByte (at_ + i)),
            if q.ctx = ctx then seq else 0)] }
      else q
    | _ => q }

/-- One lane of a store performed: staged for an ordered page, else into the L1 or to the home slice. The bytes of a release at dev or
sys reach the home slice as the store is performed (R220, R252), an sc store bypasses the L1. -/
def State.storeLane (s : State) (e : PathEntry) (va : Nat) (bs : List Byte) : Except Cause State :=
  match s.translate s.g.core s.g.ref.ctx va true with
  | (.ok pa t, s1) =>
    let core := s1.g.core
    if s1.ordered core t then
      match s1.stage { va := va, data := bs, red := none } with
      | some s2 => .ok (s2.clockAt e.order e.scope pa)
      | none => .error .quota
    else if 2 ^ 51 ≤ pa then
      let s2 := s1.homeUpdated core t.key pa (clockOrder e.order) (.store bs) bs
      .ok ((s2.noteStore s2.g.ref.ctx s2.g.ref.seq pa bs).clockAt e.order 2 pa)
    else
      let s2 := s1.storeBytes core t.key (if e.order = 2 then 3 else effPolicy t.policy e.policy) pa bs
      let s3 := if e.order = 1 ∧ e.scope ≠ 0 then s2.writeBackSector core pa else s2
      .ok ((s3.noteStore s3.g.ref.ctx s3.g.ref.seq pa bs).clockAt e.order e.scope pa)
  | (_, s1) => .ok s1

/-- Lanes of a store that succeed or fail together; the first that fails. -/
def State.storeGroup (s : State) (e : PathEntry) : List LaneReq → Except LaneFail State
  | [] => .ok s
  | r :: rest =>
    match s.storeLane e r.va (leBytes e.op.size r.data.toNat) with
    | .ok s1 => (s1.noteSent s.links.nextOp (e.lostTrap s.w.wid r) e.clk0).storeGroup e rest
    | .error c => .error { lane := r.lane, cause := c, addr := r.va }

/-- The lanes of a store that succeed or fail together: each alone, or the limbs of a chain (R201). -/
def PathEntry.storeGroups (e : PathEntry) (reqs : List LaneReq) : List (List LaneReq) :=
  match e.op.chains with
  | none => reqs.map fun r => [r]
  | some n => ((reqs.map fun r => r.lane / n).eraseDups).map fun c => reqs.filter fun r => r.lane / n == c

/-- The lanes of a store in increasing lane order, so that a later lane's byte remains (R219); of a chain that fails no limb is
written (R201). -/
def State.storeLanes (s : State) (e : PathEntry) : List (List LaneReq) → State × List LaneFail
  | [] => (s, [])
  | g :: rest =>
    match s.storeGroup e g with
    | .ok s1 => s1.storeLanes e rest
    | .error f => let x := s.storeLanes e rest; (x.1, f :: x.2)

/-- The failures of a store's lanes, or none while a page is being brought in (R378). -/
def State.storeFails (s : State) (e : PathEntry) : List LaneReq → Option (List LaneFail)
  | [] => some []
  | r :: rest =>
    if r.drop then s.storeFails e rest
    else
      match s.storeCheck r.va e.op.size with
      | none => none
      | some none => s.storeFails e rest
      | some (some c) => (s.storeFails e rest).map fun fs => { lane := r.lane, cause := c, addr := r.va } :: fs

/-- The state once a store's lanes have been tried: a walk that found a leaf has installed its translation and set A, be the page not
writable (R374, R375); a page for which there is no place has failed the store (R378); a table sector that a walk could not read is
poisoned and logged (R390). -/
def State.storeTried (s : State) (fs : List LaneFail) : State :=
  fs.foldl (fun t f => (t.translate t.g.core t.g.ref.ctx f.addr true).2) s

/-- A lane of the entry writes a granule that is being copied (R387). -/
def State.lanesCopying (s : State) (e : PathEntry) : Bool :=
  s.moving.isSome && e.reqs.any fun r => !r.drop && (match s.peek s.g.core s.g.ref.ctx r.va true with | .ok pa _ => s.copying pa | _ => false)

/-- The entry at the head of the store queue leaves it (R219): earlier loads keep their order (R234), a release waits
for the warp's earlier accesses and writes back the L1 first, an sc store too (R220). An sc store takes its place in the sc order as it
is written, so one to a granule that is being copied stays in the queue (R242, R243) (DEDUCED, log entry 120). -/
def State.storeLeaves (s : State) : Option State :=
  match s.w.entries.find? fun e => e.path == 1 && !e.done with
  | none => none
  | some e =>
    if s.w.setWaits e.set || (e.order == 2 && s.lanesCopying e) then none
    else (s.fixLoads e.seq).bind fun s1 =>
      (if e.order = 0 then some s1 else if s1.w.allDone e.seq then s1.release (s1.scopeOf e) else none).bind fun s2 =>
        (s2.storeFails e e.reqs).map fun fs =>
          let e1 := e.judge [] fs
          let bad (l : Nat) : Bool := match e.op.chains with
            | some n => e1.fails.any (·.lane == l / n)
            | none => fs.any (·.lane == l)
          let x := (s2.storeTried fs).storeLanes e (e.storeGroups (e.reqs.filter fun r => !r.drop && !bad r.lane))
          x.1.finish { e1 with fails := e1.fails ++ (match e.op.chains with | some n => byChain n x.2 | none => x.2) }

/-- STORE_LEAVES_QUEUE (R219): A store entry leaves the warp's FIFO store queue into the L1 and its ST entry completes. -/
def execStoreLeavesQueue (r : WRef) : State → Result := onWarp r (·.storeLeaves)

/-! ### Atomics and memory barriers -/

/-- An operation on an object at its home: the bytes before it and the bytes after it. -/
abbrev HomeOp := List Byte → List Byte

/-- One lane of an update at the home slice (R213, R223): the sector leaves the L1, the old bytes are read, the new ones
written. A granule that is being copied makes it wait (R387). -/
def State.homeUpdate (s : State) (e : PathEntry) (va n : Nat) (rem : RemoteKind) (f : HomeOp) (staged : Option Staged) : Got :=
  match s.translate s.g.core s.g.ref.ctx va true with
  | (.fail c, s1) => .fail c s1
  | (.away, _) => .wait
  | (.ok pa t, s1) =>
    if s1.copying pa then .wait
    else if s1.ordered s1.g.core t then
      match staged with
      | some x => match s1.stage x with | some s2 => .ok [] (s2.clockAt e.order e.scope pa) | none => .fail .quota s1
      | none =>
        match s1.orderedGate va pa true with
        | none => .wait
        | some s2 =>
          let s3 := (s2.writeBackSector s2.g.core pa).dropSector s2.g.core pa
          match s3.homeFails pa n t.key true with
          | some c => .fail c (s3.afterFail c t.key pa)
          | none =>
            let old := s3.orderedRead pa n
            if f old = old then .ok old (s3.clockAt e.order e.scope pa)
            else match s3.stage { va := va, data := f old, red := none } with
              | some s4 => .ok old (s4.clockAt e.order e.scope pa)
              | none => .fail .quota s3
    else
      let s2 := (s1.writeBackSector s1.g.core pa).dropSector s1.g.core pa
      match s2.homeFails pa n t.key true with
      | some c => .fail c (s2.afterFail c t.key pa)
      | none =>
        let old := s2.homeRead pa n
        let s3 := s2.homeUpdated s2.g.core t.key pa (clockOrder e.order) rem (f old)
        .ok old ((if f old = old then s3 else s3.noteStore s3.g.ref.ctx s3.g.ref.seq pa (f old)).clockAt e.order (if 2 ^ 51 ≤ pa then 2 else e.scope) pa)

/-- An earlier store of the warp to the sector of a lane is still in its queue (R223, R234). -/
def State.storeAhead (s : State) (e : PathEntry) : Bool :=
  e.reqs.any fun r => !r.drop &&
    (match s.peek s.g.core s.g.ref.ctx r.va false with
     | .ok pa _ => (s.w.queued e.seq).any fun x =>
         match s.peek s.g.core s.g.ref.ctx x.2.va false with
         | .ok q _ => sectorOf q == sectorOf pa
         | _ => false
     | _ => false)

/-- The lanes of an atomic in increasing logical lane order (R223). -/
def State.atomLanes (s : State) (e : PathEntry) (op : AtomKind) (signed : Bool) (n : Nat) (ret : Bool) :
    List LaneReq → Option (State × List (Nat × BitVec 128) × List LaneFail)
  | [] => some (s, [], [])
  | r :: rest =>
    if r.drop then (s.atomLanes e op signed n ret rest).map fun x => (x.1, (r.lane, 0) :: x.2.1, x.2.2)
    else
      let v : DWord := r.data.extractLsb' 0 64
      let cmp : DWord := r.data.extractLsb' 64 64
      let f : HomeOp := fun old => leBytes n (atomNew op signed (8 * n) (leNat old) (v.toNat % 2 ^ (8 * n)) (cmp.toNat % 2 ^ (8 * n)))
      let item : Option Staged := if ret then none else some { va := r.va, data := leBytes n v.toNat, red := some (op, signed, BitVec.ofNat 64 (v.toNat % 2 ^ (8 * n))) }
      match s.homeUpdate e r.va n (.atom op signed n v cmp) f item with
      | .wait => none
      | .fail c s1 => (s1.atomLanes e op signed n ret rest).map fun x => (x.1, x.2.1, { lane := r.lane, cause := c, addr := r.va } :: x.2.2)
      | .ok old s1 =>
        let s2 := if ret then s1 else s1.noteSent s.links.nextOp (e.lostTrap s.w.wid r) e.clk0
        (s2.atomLanes e op signed n ret rest).map fun x =>
          (x.1, (r.lane, BitVec.ofNat 128 (leNat old)) :: x.2.1, x.2.2)

/-- The fields of a memory transaction barrier (R323) as four words: arrived, expected, bytes, phase. -/
def mbWords (bs : List Byte) : List Nat := (List.range 4).map fun i => field bs (4 * i) 4

/-- The 16 bytes of a memory transaction barrier. -/
def mbBytesOf (arrived expected bytes phase : Nat) : List Byte :=
  leBytes 4 arrived ++ leBytes 4 expected ++ leBytes 4 bytes ++ leBytes 4 phase

/-- The test inside every update (R324). -/
def mbTest (arrived expected bytes phase : Nat) : List Byte :=
  if expected ≤ arrived ∧ bytes = 0 then mbBytesOf (arrived - expected) expected bytes ((phase + 1) % 2 ^ 32)
  else mbBytesOf arrived expected bytes phase

/-- mb.arm (R326). -/
def mbArmed (n : Nat) : HomeOp := fun _ => mbBytesOf 0 n 0 0
/-- Arrivals added (R324, R326). -/
def mbArrived (n : Nat) : HomeOp := fun old => let m := mbWords old; mbTest ((m.getD 0 0 + n) % 2 ^ 32) (m.getD 1 0) (m.getD 2 0) (m.getD 3 0)
/-- Transaction bytes added (R324, R326). -/
def mbRaised (n : Nat) : HomeOp := fun old => let m := mbWords old; mbTest (m.getD 0 0) (m.getD 1 0) ((m.getD 2 0 + n) % 2 ^ 32) (m.getD 3 0)
/-- Landed bytes subtracted (R324). -/
def mbLanded (n : Nat) : HomeOp := fun old => let m := mbWords old; mbTest (m.getD 0 0) (m.getD 1 0) ((m.getD 2 0 + 2 ^ 32 - n % 2 ^ 32) % 2 ^ 32) (m.getD 3 0)

/-- Two virtual addresses of the warp name one object: they are equal, or translate to one physical address. -/
def State.sameObject (s : State) (a b : Nat) : Bool :=
  a == b || (match s.peek s.g.core s.g.ref.ctx a true, s.peek s.g.core s.g.ref.ctx b true with
    | .ok p _, .ok q _ => p == q
    | _, _ => false)

/-- An earlier update of the warp to the same barrier is not performed yet (R326). -/
def State.mbAhead (s : State) (e : PathEntry) : Bool :=
  s.w.entries.any fun d => !d.done && decide (d.seq < e.seq) && !d.op.byLane && d.path == 4 &&
    d.reqs.any fun x => e.reqs.any fun y => s.sameObject x.va y.va

/-- An atomic or a memory-barrier update goes to the home: what R236 asks of acq_rel, sc and the release of mb.post is done, and earlier
updates of its barrier and stores to its sectors are performed (R223, R326). -/
def State.atomReady (s : State) (e : PathEntry) : Option State :=
  match e.op with
  | .atom _ _ _ _ =>
    if e.order = 0 then (if s.storeAhead e then none else some s)
    else if s.w.allDone e.seq then s.release (s.scopeOf e) else none
  | _ =>
    if s.mbAhead e || s.storeAhead e then none
    else match e.op with
      | .mbPost _ => if s.w.allDone e.seq then s.release (max 1 (s.scopeOf e)) else none
      | _ => some s

/-- A memory-barrier update (R326): the update at the home, and the phase before it into sd. -/
def State.mbUpdate (s : State) (e : PathEntry) (rem : RemoteKind) (f : HomeOp) (post : Bool) : Option (State × PathEntry) :=
  let scope := max 1 (s.scopeOf e)
  let va := ((e.reqs.head?).map (·.va)).getD 0
  match s.homeUpdate { e with order := if post then 1 else 0, scope := if post then scope else 0 } va 16 rem f none with
  | .wait => none
  | .fail c s2 => some (s2, { e with fails := [{ lane := 0, cause := c, addr := va }] })
  | .ok old s2 => some (s2, { e with got := some [(0, BitVec.ofNat 128 ((mbWords old).getD 3 0))] })

/-- An atomic or a memory-barrier update performed (R223, R326). No register is written. -/
def State.atomPart (s : State) (seq : Nat) : Option (State × PathEntry) :=
  (s.w.entryAt seq 4).bind fun e => (s.atomReady e).bind fun s1 =>
    let done : Option (State × PathEntry) := match e.op with
      | .atom op signed n ret => (s1.atomLanes e op signed n ret e.reqs).map fun x => (x.1, e.judge x.2.1 x.2.2)
      | .mbArm n => s1.mbUpdate e (.mbArm n) (mbArmed n.toNat) false
      | .mbPost n => s1.mbUpdate e (.mbPost n) (mbArrived n.toNat) true
      | .mbBytes n => s1.mbUpdate e (.mbBytes n) (mbRaised n.toNat) false
      | _ => none
    done.map fun x =>
      ({ x.1 with parked := x.1.parked.filter fun p => p.atom != some ({ g := s.g.ref, w := s.w.wid }, seq) }, x.2)

/-- An atomic waits at a granule that is being copied: it is performed at grp, and until it is written releases and fences of its core
and loads of its bytes wait for it (R387, R441). -/
def State.parkAtom (s : State) (e : PathEntry) : State :=
  let cells := e.reqs.flatMap fun r => if r.drop then [] else
    match s.peek s.g.core s.g.ref.ctx r.va true with
    | .ok pa _ => cellsAt pa (s.homeRead pa e.op.size)
    | _ => []
  { s with
    parked := s.parked ++ [{ core := s.g.core, key := hostKey, data := cells, atom := some ({ g := s.g.ref, w := s.w.wid }, e.seq) }],
    w := (s.w.setEntry { e with parked := true }).liftFence }

/-- An atomic or a memory-barrier update completes, or comes to wait at a granule that is being copied. -/
def State.atomDone (s : State) (seq : Nat) : Option State :=
  if s.returnHeld seq then none
  else match s.atomPart seq with
    | some x => some (x.1.landed x.2)
    | none => (s.w.entryAt seq 4).bind fun e =>
        if e.parked || !s.lanesCopying e then none else (s.atomReady e).map (·.parkAtom e)

/-- ATOMIC_PERFORMED (R223): An atomic is performed at the level-2 atomic unit and any return is written. -/
def execAtomicPerformed (r : WRef) (seq : Nat) : State → Result := onWarp r (·.atomDone seq)

/-! ### Records -/

/-- An ldrec's record arrives through the record cache (R208, R209); its k register is not written yet. -/
def State.recordPart (s : State) (seq : Nat) : Option (State × PathEntry) :=
  (s.w.entryAt seq 3).bind fun e =>
    let va := ((e.reqs.head?).map (·.va)).getD 0
    match s.readGranule s.g.core s.g.ref.ctx va with
    | .wait => none
    | .fail c s1 => some (s1, { e with fails := [{ lane := 0, cause := c, addr := va }] })
    | .ok bs s1 => some (s1, { e with got := some [(0, BitVec.ofNat 128 (field bs 0 16)), (1, BitVec.ofNat 128 (field bs 16 16))] })

/-- An ldrec completes. -/
def State.recordDone (s : State) (seq : Nat) : Option State := (s.recordPart seq).map fun x => x.1.landed x.2

/-- RECORD_RETURN (R209): An ldrec's record is written into its k register. -/
def execRecordReturn (r : WRef) (seq : Nat) : State → Result := onWarp r (·.recordDone seq)

/-! ### Scratchpad accesses -/

/-- An earlier access of the warp to some of the same bytes is not performed yet (R241). -/
def Warp.scratchAhead (w : Warp) (e : PathEntry) : Bool :=
  w.entries.any fun d => d.path == 2 && !d.done && decide (d.seq < e.seq) &&
    d.reqs.any fun x => e.reqs.any fun y => decide (x.va < y.va + e.op.size) && decide (y.va < x.va + d.op.size)

/-- The lanes of a scratchpad access in increasing logical lane order (R225): the old bytes of each; none while a page held in memory
waits. -/
def State.scratchLanesDo (s : State) (e : PathEntry) : List LaneReq → Option (State × List (Nat × BitVec 128) × List LaneFail)
  | [] => some (s, [], [])
  | r :: rest =>
    let n := e.op.size
    match e.op with
    | .sstore _ => (s.scratchWrite r.va (leBytes n r.data.toNat)).scratchLanesDo e rest
    | op =>
      match s.scratchLoad r.va n with
      | .wait => none
      | .fail c s1 =>
        (s1.scratchLanesDo e rest).map fun x => (x.1, x.2.1, { lane := r.lane, cause := c, addr := r.va } :: x.2.2)
      | .ok old s1 =>
        let s2 := match op with
          | .satom k signed =>
            let a := (r.data.extractLsb' 0 32).toNat
            let b := (r.data.extractLsb' 32 32).toNat
            s1.scratchWrite r.va (leBytes 4 (if k = AtomKind.cas then atomNew k signed 32 (leNat old) b a else atomNew k signed 32 (leNat old) a 0))
          | _ => s1
        (s2.scratchLanesDo e rest).map fun x => (x.1, (r.lane, BitVec.ofNat 128 (leNat old)) :: x.2.1, x.2.2)

/-- The operation writes scratchpad bytes. -/
def PathOp.writesScratch : PathOp → Bool
  | .sload _ _ => false
  | _ => true

/-- A page that the access needs is not present, so that it waits (R215). -/
def State.scratchAway (s : State) (e : PathEntry) : Bool :=
  e.reqs.any fun r => (s.g.pageOf r.va).inMem && (match s.peek s.g.core s.g.ref.ctx (s.g.imageVa r.va) e.op.writesScratch with | .away => true | _ => false)

/-- A scratchpad access performed (R224, R225); a page that is being repointed makes it wait (R216), and so does, for a write, a row that
is being copied (R36). -/
def State.scratchDone (s : State) (seq : Nat) : Option State :=
  (s.w.entryAt seq 2).bind fun e =>
    if s.returnHeld seq || s.w.scratchAhead e || s.scratchAway e ||
        e.reqs.any fun r => s.scratchShut r.va e.op.size || (e.op.writesScratch && s.rowHeld r.va e.op.size) then none
    else
      (s.scratchLanesDo e e.reqs).map fun x =>
        let e1 := e.judge x.2.1 x.2.2
        x.1.landed e1

/-- SCRATCH_ACCESS_PERFORMED (R224): A scratchpad access is performed and its SCR entry completes. -/
def execScratchAccessPerformed (r : WRef) (seq : Nat) : State → Result := onWarp r (·.scratchDone seq)

/-! ### Write-backs that a fence, an rfence, a flush or an inval demands -/

/-- The physical lines that a flush or inval names; a line that does not translate is skipped (R230). -/
def State.namedLines (s : State) (va count : Nat) : List Nat :=
  (List.range count).filterMap fun i =>
    match s.peek s.g.core s.g.ref.ctx (va / 512 * 512 + 512 * i) false with
    | .ok pa _ => some (lineOf pa)
    | _ => none

/-- Lines of the L1 written back, and invalidated for inval (R230). -/
def State.cacheLines (s : State) (inval : Bool) (sel : Line → Bool) : State :=
  let c := s.g.core
  let s1 := ((s.coreAt c).l1.filter sel).foldl (fun s l => s.writeBackLine c l) s
  s1.updCore c fun k => { k with l1 := if inval then k.l1.filter (!sel ·) else k.l1.map fun l => if sel l then l.cleaned l.dirty else l }

/-- The hold of the warp is lifted once its write-backs have landed (R227, R228, R230). A fence names no line, so one that is not sc
exchanges no clock (R242) (DESIGN CHOICE, log entry 33). -/
def State.writeBackLanded (s : State) : Option State :=
  let free (s : State) : State := { s with w := { s.w with hold := .none } }
  match s.w.hold with
  | .fence code upto =>
    if !s.w.fenceMet upto then none
    else if code = 0 then some (free s)
    else (s.release (if code = 2 ∨ code = 4 then 2 else 1)).map fun s1 =>
      let s2 := s1.dropClean s1.g.core
      free (if 3 ≤ code then s2.updCore s2.g.core fun k => { k with scClock := k.scClock + 1 } else s2)
  | .rfence upto =>
    if s.w.entries.any fun e => e.path == 1 && !e.done && decide (e.seq < upto) then none
    else (s.release 1).map fun s1 => free (s1.updCore s1.g.core fun k => { k with recs := [] })
  | .cache inval va count =>
    let named := s.namedLines va count
    let s1 := s.cacheLines inval fun l => count == 0 || named.contains l.base
    if s1.coreParked s1.g.core then none else some (free s1)
  | _ => none

/-- WRITE_BACK_LANDED (R227): The L1 write-back demanded by a fence, release, rfence, flush or inval reaches its home
slices, lifting the hold on the warp. -/
def execWriteBackLanded (r : WRef) : State → Result := onWarp r (·.writeBackLanded)

/-- DIRTY_SECTOR_WRITEBACK (R239): A sector dirty for 65,536 cycles is written back to its home slice. -/
def execDirtySectorWriteback (core pa : Nat) (s : State) : Result := .next (s.writeBackSector core pa)

end Sys2Proof.Machine
end

