-- ==== Sys2Proof/Machine/Engine.lean ====
section
/-!
DEFINITION. Reads and writes of virtual memory by engines and firmware at the home slices (R245), trap
records (14_group.md R311, R312), absent-fault records (R305, R370) and group barriers' test (15_barrier.md
R314..R317).
-/
namespace Sys2Proof.Machine

/-! ### Virtual memory at the home slices -/

/-- The parts of n bytes that lie in one 4 KiB page each. -/
def pieces (va n : Nat) : List (Nat × Nat) :=
  (List.range ((va + n + 4095) / 4096 - va / 4096)).filterMap fun i =>
    let lo := max va ((va / 4096 + i) * 4096)
    let hi := min (va + n) ((va / 4096 + i + 1) * 4096)
    if lo < hi then some (lo, hi - lo) else none

/-- What an engine's access ends in: bytes with the translations held, a failure with its address, or a wait. -/
inductive EGot where
  | ok (bs : List Byte) (held : List Tlb) (s : State)
  | fail (c : Cause) (va : Nat) (s : State)
  | wait

/-- A translation that the engine holds, else a new one, which it then holds (R266). -/
def State.heldXl (s : State) (held : List Tlb) (core ctx va : Nat) (write : Bool) : Xl × List Tlb × State :=
  match held.find? fun t => t.covers ctx va && t.marked va write && (!write || t.w) with
  | some t => (.ok (t.pa + (va - t.va)) t, held, s)
  | none =>
    match s.translate core ctx va write with
    | (.ok pa t, s1) => (.ok pa t, t :: held, s1)
    | (x, s1) => (x, held, s1)

/-- The virtual address of the first byte of a piece that cannot be read (R258, R401). -/
def State.firstBad (s : State) (key va pa n : Nat) : Nat :=
  match (sectorsOf pa n).find? (s.badSector key) with
  | some sec => va + (max sec pa - pa)
  | none => va

/-- The address at which a failing read of a piece fails. -/
def State.failAt (s : State) (c : Cause) (key va pa n : Nat) : Nat := if c = .eccUncorr then s.firstBad key va pa n else va

/-- Bytes read at the home slices, page by page (R245). In a deterministic launch a read of an ordered page waits
as a first load would (R384). -/
def State.engineRead (s : State) (core ctx : Nat) (held : List Tlb) : List (Nat × Nat) → EGot
  | [] => .ok [] held s
  | (va, n) :: rest =>
    match s.heldXl held core ctx va false with
    | (.fail c, _, s1) => .fail c va s1
    | (.away, _, _) => .wait
    | (.ok pa t, h, s1) =>
      match (if s1.ordered core t then s1.orderedGate va pa false else some s1) with
      | none => .wait
      | some s2 =>
        match s2.homeFails pa n t.key true with
        | some c => .fail c (s2.failAt c t.key va pa n) (s2.afterFail c t.key (s2.failAt c t.key pa pa n))
        | none =>
          match (s2.sendLoad core t.key pa 0 n).engineRead core ctx h rest with
          | .ok bs h2 s3 => .ok (s2.homeRead pa n ++ bs) h2 s3
          | other => other

/-- Every page of a write translated before any byte is written. -/
def State.engineCheck (s : State) (core ctx : Nat) (held : List Tlb) : List (Nat × Nat) → EGot
  | [] => .ok [] held s
  | (va, n) :: rest =>
    match s.heldXl held core ctx va true with
    | (.fail c, _, s1) => .fail c va s1
    | (.away, _, _) => .wait
    | (.ok pa t, h, s1) =>
      if s1.ordered core t then .fail .prot va s1
      else if s1.copying pa then .wait
      else match s1.homeFails pa n t.key false with
        | some c => .fail c va s1
        | none => s1.engineCheck core ctx h rest

/-- The bytes written page by page once every page is translated. -/
def State.enginePut (s : State) (core ctx : Nat) (held : List Tlb) : List (Nat × Nat) → List Byte → State
  | [], _ => s
  | (va, n) :: rest, bs =>
    match s.heldXl held core ctx va true with
    | (.ok pa t, h, s1) => (s1.homeWrite core t.key pa (bs.take n)).enginePut core ctx h rest (bs.drop n)
    | (_, _, s1) => s1.enginePut core ctx held rest (bs.drop n)

/-- Bytes written at the home slices at a virtual address, all or none. -/
def State.engineWrite (s : State) (core ctx : Nat) (held : List Tlb) (va : Nat) (bs : List Byte) : EGot :=
  match s.engineCheck core ctx held (pieces va bs.length) with
  | .ok _ h s1 => .ok [] h (s1.enginePut core ctx h (pieces va bs.length) bs)
  | other => other

/-- A read by the firmware of the complex, which uses no core's translation cache. -/
def State.fwRead (s : State) (ctx va n : Nat) : EGot := s.engineRead noCore ctx [] (pieces va n)

/-- A write by the firmware of the complex. -/
def State.fwWrite (s : State) (ctx va : Nat) (bs : List Byte) : EGot := s.engineWrite noCore ctx [] va bs

/-- A held write that a later one writes over. -/
def HeldPut.under (x : HeldPut) (ctx va n : Nat) : Bool :=
  x.ctx == ctx && decide (va ≤ x.va) && decide (x.va + x.data.length ≤ va + n)

/-- A write by the firmware to memory of a context. While a page of it is not present, or its granule is being copied, the write
waits, and later ones of the context behind it (R378, R387); a failure drops it. -/
def State.fwPut (s : State) (ctx va : Nat) (bs : List Byte) : State :=
  let hold : State := { s with fwHeld := s.fwHeld.filter (fun x => !x.under ctx va bs.length) ++ [{ ctx := ctx, va := va, data := bs }] }
  if s.fwHeld.any (·.ctx == ctx) then hold
  else match s.fwWrite ctx va bs with
    | .ok _ _ s1 => s1
    | .fail _ _ s1 => s1
    | .wait => hold

/-- The firmware's waiting writes tried again in order (R378, R387). -/
def State.flushPuts (s : State) : State :=
  s.fwHeld.foldl (fun t x => t.fwPut x.ctx x.va x.data) { s with fwHeld := [] }

/-- A write by the firmware would not wait: none that it made before does, its page is present, and its granule is not being copied
(R378, R387). -/
def State.fwReady (s : State) (ctx va n : Nat) : Bool :=
  !(s.fwHeld.any (·.ctx == ctx)) && match s.engineCheck noCore ctx [] (pieces va n) with
  | .wait => false
  | _ => true

/-- The bytes that the firmware reads, all zero where they cannot be read, with the state after it: none while their page is not present
(R378). -/
def State.fwGet (s : State) (ctx va n : Nat) : Option (List Byte × State) :=
  match s.fwRead ctx va n with
  | .ok bs _ t => some (bs, t)
  | .fail _ _ t => some (List.replicate n 0, t)
  | .wait => none

/-- The two indices of a ring, the write index first, as the firmware reads them (R363, R370). -/
def State.fwIndices (s : State) (ctx base : Nat) : Option (Nat × Nat × State) :=
  (s.fwGet ctx (base - 16) 8).bind fun w => (w.2.fwGet ctx (base - 8) 8).map fun r => (leNat w.1, leNat r.1, r.2)

/-- An update of n bytes at their home slice by an engine or the firmware: a link operation where another device holds them (R395).
It waits while its page is not present, and fails with a cause. -/
def State.engineUpdate (s : State) (core ctx va n : Nat) (kind : RemoteKind) (f : HomeOp) : EGot :=
  match s.engineCheck core ctx [] (pieces va n) with
  | .ok _ h s1 =>
    match s1.heldXl h core ctx va true with
    | (.ok pa t, h2, s2) =>
      match s2.homeFails pa n t.key true with
      | some c => .fail c va (s2.afterFail c t.key pa)
      | none => .ok [] h2 ((s2.homeUpdated core t.key pa 1 kind (f (s2.homeRead pa n))).exchange core pa false)
    | (.fail c, _, s2) => .fail c va s2
    | (.away, _, _) => .wait
  | other => other

/-- A 64-bit addition at a word (R257, R350). -/
def State.engineAdd (s : State) (core ctx va inc : Nat) : EGot :=
  s.engineUpdate core ctx va 8 (.atom .add false 8 (BitVec.ofNat 64 inc) 0) fun old => leBytes 8 ((leNat old + inc) % 2 ^ 64)

/-- An arrival on a memory transaction barrier by the copy or collective hardware (R324, R400). -/
def State.engineArrive (s : State) (core ctx va : Nat) : EGot := s.engineUpdate core ctx va 16 (.mbPost 1) (mbArrived 1)

/-! ### Trap records (R311, R312) -/

/-- The 8-bit code of a cause (R311). -/
def causeCode : Cause → Nat
  | .illOp => 0x01 | .futureOp => 0x02 | .illPacket => 0x03 | .laConflict => 0x04 | .regRange => 0x05
  | .badRecord => 0x06 | .bounds => 0x07 | .misalign => 0x08 | .prot => 0x09 | .addrFault => 0x0A
  | .scratchRange => 0x0B | .accRange => 0x0C | .chainSplit => 0x0D | .chainFault => 0x0E | .fetchFault => 0x0F
  | .machineCheck => 0x10 | .eccUncorr => 0x11 | .trapInsn => 0x12 | .brk => 0x13 | .absentFault => 0x14
  | .quota => 0x15 | .draw => 0x16 | .watchdog => 0x17

/-- The code of a warp state in a trap record (R429). -/
def statusCode : WStatus → Nat
  | .created => 0 | .ready => 1 | .stalled => 2 | .sleeping => 3 | .draining => 4 | .exited => 5 | .halted => 6 | .evicted => 7

/-- The state that a warp stopped in: the one it had when it halted or was evicted (R312, R429). -/
def Warp.stopState (w : Warp) : WStatus :=
  match w.status with
  | .halted => w.saved
  | .evicted => w.saved
  | x => x

/-- A warp's entry of a trap record (R312): where it stopped; a warp that an ABSENT_FAULT finds evicted has its saved PC, with skid 0
(R313). -/
def warpEntry (w : Option Warp) : List Byte :=
  match w with
  | none => leBytes 12 0
  | some w => leBytes 6 (if w.status = .halted then w.stopPc else w.pc) ++ leBytes 2 w.skid ++ leBytes 1 (statusCode w.stopState) ++ leBytes 3 0

/-- The 256 bytes of a trap record (R312); more: further absent-fault records name the group (R313). -/
def trapRecord (tenant : Nat) (g : Group) (t : TrapInfo) (more : Bool) : List Byte :=
  leBytes 1 (causeCode t.cause) ++
  leBytes 1 ((if t.precise then 1 else 0) + (if t.fromAbsent then 2 else 0) + (if t.chainMask then 4 else 0) +
             (if t.addr.isSome then 8 else 0) + (if more then 16 else 0)) ++
  leBytes 1 t.warp ++ leBytes 1 ((t.under.map causeCode).getD 0) ++ leBytes 4 t.arg.toNat ++ leBytes 8 t.pc ++
  leBytes 12 t.mask.toNat ++ leBytes 2 g.ref.ctx ++ leBytes 1 tenant ++ leBytes 1 0 ++ leBytes 8 (t.addr.getD 0) ++
  leBytes 4 g.gx.toNat ++ leBytes 4 g.gy.toNat ++ leBytes 4 g.gz.toNat ++ leBytes 4 g.ref.lgi ++ leBytes 8 g.ref.seq ++
  (List.range 16).flatMap fun i => warpEntry (g.warps.find? (·.wid == i))

/-! ### Absent-fault records (R305, R370) -/

/-- A record written to the absent-fault area of a context and put on its pending list; when the area is full the record is dropped,
but the write index advances (R370); one that a trap has reported is no longer pending (R313). None while a page of the area is not
present, its granule is being copied, or an earlier write of the firmware to the context waits (R378, R387). -/
def State.placeAbsent (s : State) (c : Context) (a : Absent) (r : List Byte) : Option State :=
  (s.fwIndices c.id c.afBase).bind fun x =>
    let s := x.2.2
    let at_ := c.afBase + 256 * (x.1 % c.afCap)
    let room := decide (x.1 < x.2.1 + c.afCap)
    if s.fwReady c.id at_ 256 && s.fwReady c.id (c.afBase - 16) 8 then
      let s1 :=
        if !room then s
        else (s.fwPut c.id at_ r).updCtx c.id fun c => { c with absent := if a.mark = .reported then c.absent else c.absent ++ [a] }
      some (s1.fwPut c.id (c.afBase - 16) (leBytes 8 (x.1 + 1)))
    else none

/-- A failure of a diverted operation: its record is placed, or held behind earlier ones until it can be, and the group is marked
(R305, R370). -/
def State.absentFault (s : State) (t : TrapInfo) : State :=
  match s.ctxOf s.g.ref.ctx with
  | none => s
  | some c =>
    let s1 := { s with g := { s.g with absentFault := true } }
    let r := trapRecord c.tenant s1.g t false
    let a : Absent := { ref := s1.g.ref, trap := t, mark := .fresh }
    match (if c.heldAbsent.isEmpty then s1.placeAbsent c a r else none) with
    | some s2 => s2
    | none => s1.updCtx c.id fun c => { c with heldAbsent := c.heldAbsent ++ [(a, r)] }

/-- The oldest held absent-fault record of a context placed, when it can be. -/
def State.placeHeldAbsent (s : State) (ctx : Nat) : State :=
  match s.ctxOf ctx with
  | none => s
  | some c =>
    match c.heldAbsent with
    | [] => s
    | x :: rest => ((s.placeAbsent c x.1 x.2).map fun t => t.updCtx ctx fun c => { c with heldAbsent := rest }).getD s

/-- A failure of an engine's entry: an imprecise trap in the warp, or an absent-group fault (R258, R291, R305). -/
def State.engineTrap (s : State) (t : TrapInfo) (clk0 : DWord) : State :=
  if s.g.absent then s.absentFault t else s.raiseAfter t clk0

/-- An imprecise trap of the warp in the issue stage, with argument and address. -/
def State.lateTrap (s : State) (c : Cause) (pc : Nat) (arg : Nat) (addr : Option Nat) : TrapInfo :=
  { cause := c, under := none, precise := false, warp := s.w.wid, arg := BitVec.ofNat 32 arg, pc := pc, mask := 0,
    chainMask := false, addr := addr, fromAbsent := false }

/-! ### The group image in memory (R301..R303) -/

/-- The 64-bit value of DEV_ID (R410). -/
def devId : Nat := 0x96A0 + 2 ^ 16 * Config.revision.toNat + 2 ^ 32 * Config.serial.toNat

/-- Accumulator rows of a group. -/
def Desc.rows (d : Desc) : Nat := 96 * d.units

/-- The bytes of a group image up to the return slots (R301), to a multiple of 4 KiB. -/
def Desc.imageSize (d : Desc) : Nat :=
  (1024 + d.warps * (2048 + 384 * d.vregs) + 16 * 4096 + 2048 * d.rows + 4095) / 4096 * 4096

/-- The entry has a return slot: LD, ATM or REC (R300). -/
def PathEntry.hasSlot (e : PathEntry) : Bool := e.path == 0 || e.path == 3 || e.path == 4

/-- Words that an entry returns: its register count c, 8 words of a record as two quads (R303), and 1 for an entry that has no vector
destination (DESIGN CHOICE, log entry 128). -/
def PathEntry.slotRegs (e : PathEntry) : Nat := if e.path = 3 then 8 else max 1 e.writes.length

/-- Bytes of a return slot (R300). -/
def PathEntry.slotSize (e : PathEntry) : Nat := 64 + 384 * e.slotRegs

/-- The outstanding entries of a warp that return slots are taken for (R300). -/
def Warp.slotted (w : Warp) : List PathEntry := w.entries.filter fun e => e.hasSlot && !e.done

/-- The entries of a group that return slots are taken for, in the order of their warps (R300). -/
def Group.slotted (g : Group) : List PathEntry := g.warps.flatMap (·.slotted)

/-- Bytes of the return area: the sum of the slots, to a multiple of 4 KiB (R300). -/
def Group.returnSize (g : Group) : Nat := ((g.slotted.map (·.slotSize)).sum + 4095) / 4096 * 4096

/-- The diverted entries of a group that are outstanding: those of LD, ATM, REC and CP, and the released copy-schedule entries
(R302, R446). -/
def Group.outstandingOps (g : Group) : Nat :=
  (g.warps.map fun w => (w.entries.countP fun e => !e.done && (e.hasSlot || decide (8 ≤ e.path))) +
    (w.copyQ.countP fun i => match i.op with | .sched _ _ _ _ => true | _ => false)).sum

/-- The header of a group image (R302). -/
def imageHeader (g : Group) (state : Nat) : List Byte :=
  leBytes 4 0x47490001 ++ leBytes 2 g.ref.ctx ++ leBytes 1 state ++ leBytes 1 g.desc.warps ++ leBytes 8 g.ref.seq ++
  leBytes 4 g.gx.toNat ++ leBytes 4 g.gy.toNat ++ leBytes 4 g.gz.toNat ++ leBytes 4 g.ref.lgi ++ leBytes 1 g.stage.toNat ++
  leBytes 1 (g.desc.vregs / 8) ++ leBytes 2 g.desc.rows ++ leBytes 4 g.outstandingOps ++
  leBytes 8 (if g.returnSpace = 0 then 0 else g.desc.imageSize) ++ leBytes 8 devId ++ leBytes 200 0

/-- A group barrier saved (R314). -/
def GBar.bytes (x : GBar) : List Byte :=
  leBytes 4 (x.expected + 2 ^ 8 * x.arrived + (if x.phase then 2 ^ 16 else 0)) ++ leBytes 4 x.trans.toNat ++
  leBytes 2 x.members.toNat ++ leBytes 6 0

/-- The 384·n bytes of a warp block's vector registers, one register after another by logical lane (R301). -/
def Warp.vectorBytes (w : Warp) (n : Nat) : List Byte :=
  (List.range n).flatMap fun r => (List.range 96).flatMap fun l => leBytes 4 (laneAt (w.regs.vget (BitVec.ofNat 7 r)) l).toNat

/-- Bytes of the image whose layout the spec leaves open: the first 2,048 of a warp block, a saved tile entry, and the header
of a return slot (DESIGN CHOICE, log entry 16). -/
def openBytes (g : Group) (off n : Nat) : List Byte := (List.range n).map fun i => Config.imageByte g (off + i)

/-- The bytes of a group image from the header to the accumulator rows (R301). -/
def imageBytes (g : Group) (state : Nat) : List Byte :=
  let blocks := 2048 + 384 * g.desc.vregs
  imageHeader g state ++ (List.range 16).flatMap (fun b => (g.bars.getD b (GBar.fresh 0)).bytes) ++
  (List.range 16).flatMap (fun b => let x := g.shadow.getD b (0, 0); leBytes 4 x.1 ++ leBytes 4 x.2 ++ leBytes 8 0) ++ leBytes 256 0 ++
  (List.range g.desc.warps).flatMap (fun i =>
    openBytes g (1024 + i * blocks) 2048 ++ (match g.warps.find? (·.wid == i) with
      | some w => w.vectorBytes g.desc.vregs
      | none => leBytes (384 * g.desc.vregs) 0)) ++
  openBytes g (1024 + g.desc.warps * blocks) (16 * 4096) ++
  (List.range (512 * g.desc.rows)).flatMap fun i => leBytes 4 (match g.acc.find? fun (x : Nat × Word) => x.1 == i with | some (x : Nat × Word) => x.2.toNat | none => 0)

/-- The words that a landed value gives its registers: a narrow load's is extended (R204). -/
def slotWords (op : PathOp) (x : BitVec 128) : List Word :=
  match op with
  | .load n signed => loadWords n signed x
  | .sload n signed => loadWords n signed x
  | _ => (List.range 4).map fun i => x.extractLsb' (32 * i) 32

/-- The data of a return slot: 384 bytes per register, by logical lane (R303); word i of a record in lane 0 of register i, and zeros beside
it (DESIGN CHOICE, log entry 128). -/
def slotData (e : PathEntry) : List Byte :=
  if e.path = 3 then
    (List.range 8).flatMap fun i =>
      leBytes 384 (match e.got with
        | some [lo, hi] => (((hi.2 ++ lo.2 : BitVec 256).extractLsb' (32 * i) 32)).toNat
        | _ => 0)
  else
    (List.range e.slotRegs).flatMap fun i => (List.range 96).flatMap fun l =>
      leBytes 4 (match (e.got.getD []).find? fun x => x.1 == l with
        | some (x : Nat × BitVec 128) => ((slotWords e.op x.2).getD i 0).toNat
        | none => 0)

/-- Return slots one after another from an offset of the image, each with its header and the data that has landed (R303); the
header's fields are laid out in a way that the spec leaves open (DESIGN CHOICE, log entry 16). -/
def slotBytes (g : Group) : Nat → List PathEntry → List Byte
  | _, [] => []
  | off, e :: r => openBytes g off 64 ++ slotData e ++ slotBytes g (off + e.slotSize) r

/-- The return slots of a group, in the order of its warps, where they follow the accumulator rows (R301, R303). -/
def returnBytes (g : Group) : List Byte := slotBytes g g.desc.imageSize (g.warps.flatMap (·.slots))

/-- The state in an image's header (R302). -/
def Group.imageState (g : Group) : Nat :=
  match g.status with | .halted => 2 | .halting => 2 | .migrating => 3 | _ => 1

/-- The image of the group in the issue stage written to its area, the return slots behind its accumulator rows from the next multiple of
4 KiB on, where its header says (R301..R303). -/
def State.putImage (s : State) : State :=
  let head := imageBytes s.g s.g.imageState
  s.fwPut s.g.ref.ctx s.g.image (head ++ leBytes (s.g.desc.imageSize - head.length) 0 ++ returnBytes s.g)

/-- The warp put back, and while its group is away the group's image with it (R304). -/
def State.parkAny (s : State) : State :=
  let t := { s with g := s.g.putWarp s.w }
  if t.g.absent then t.putImage.park else t.park

/-- An event of a warp of a group wherever the group stands: engines go on while it is away (R265, R304). -/
def onWarpAny (r : WRef) (f : State → Option State) (s : State) : Result :=
  .next <| match s.load r with
    | none => s
    | some t => if t.g.onCore || t.g.absent || t.g.status == .retired then ((f t).map State.parkAny).getD s else s

/-! ### The group barriers' test (R314..R317) -/

/-- Bytes that land into a barrier: its transaction count falls, or the shadow block holds them while the group is
away (R257, R304, R316, R322). -/
def Group.landBytes (g : Group) (b n : Nat) : Group :=
  if g.absent then { g with shadow := g.shadow.modify b fun x => (x.1, x.2 + n) }
  else g.setBar b ({ g.bar b with trans := (g.bar b).trans - BitVec.ofNat 24 n }.test)

/-- An arrival applied (R315, R322). -/
def Group.arrive (g : Group) (b : Nat) : Group :=
  if g.absent then { g with shadow := g.shadow.modify b fun x => (x.1 + 1, x.2) }
  else g.setBar b ({ g.bar b with arrived := (g.bar b).arrived + 1 }.test)

end Sys2Proof.Machine
end

