-- ==== Sys2Proof/Machine/Copy.lean ====
section
/-!
DEFINITION. The copy unit (12_copy.md R253..R266): cpy32, stage, waitge, qfence and rdstage, copy
schedules, and the events that start, move and complete the entries of a copy queue.
-/
namespace Sys2Proof.Machine

/-! ### cpy32 (R259, R260) -/

/-- The causes of R260 that are found at issue, in the order of its table, the first of which that a lane fails is recorded (DESIGN
CHOICE, log entry 122). -/
def copyCauses : List Cause := [.misalign, .scratchRange, .bounds]

/-- A lane of cpy32: its source address and valid count, or the cause that it fails with (R259, R260). The alignment is that of base + off
before the clamp of mode 2 (DESIGN CHOICE, log entry 122). -/
def copyLane (g : Group) (kr : BitVec 256) (x v a : Nat) : Except (Cause × Nat) (Nat × Nat) :=
  let v := min v 32
  let off := x * fmtSize (recFmt kr)
  if a % 4 != 0 || (recBase kr + off) % 4 != 0 then .error (.misalign, if a % 4 != 0 then a else recBase kr + off)
  else if !g.scratchOk a 32 then .error (.scratchRange, a)
  else if recExtent kr < off + v then
    match recMode kr with
    | 1 => .ok (0, 0)
    | 2 => if recExtent kr < v then .error (.bounds, recBase kr + off) else .ok (recBase kr + (recExtent kr - v) / 4 * 4, v)
    | _ => .error (.bounds, recBase kr + off)
  else .ok (recBase kr + off, v)

/-- CPY32 (R259): Copies up to 32 bytes per active lane from global memory to scratchpad under a tag. -/
def execCpy32 (t : BitVec 3) (k : BitVec 5) (a b : BitVec 7) : State → Result :=
  slotDo { wf := even a, vtop := max (a.toNat + 2) (b.toNat + 1), reads := [rv a, .v (a.toNat + 1), rv b, .k k.toNat],
           lane := true, path := some (8 + t.toNat), mem := true } fun s =>
    let kr := s.recOf k
    if !recUsable kr then .trap (s.trapOf .badRecord)
    else
      let xs := (lanesIn s.active).map fun l =>
        (l, (laneAt (s.src.vget b) l).toNat,
         copyLane s.g kr (laneAt (s.src.vget a) l).toNat (laneAt (s.src.vget (a + 1)) l).toNat (laneAt (s.src.vget b) l).toNat)
      let fails := xs.filterMap fun x => match x.2.2 with
        | .error e => some ({ lane := x.1, cause := e.1, addr := e.2 } : LaneFail)
        | .ok _ => none
      match firstCause copyCauses fails with
      | some (c, m, ad) => .trap (s.laneTrap c m ad)
      | none =>
        let reqs : List LaneReq := xs.filterMap fun x => match x.2.2 with
          | .ok y => some { lane := x.1, va := y.1, drop := false, data := BitVec.ofNat 128 x.2.1, len := y.2 }
          | .error _ => none
        let e := s.entryOf (8 + t.toNat) .cpy32 0 reqs []
        let i : CopyItem := { set := s.iss.setNo, pc := s.iss.at_, clk0 := s.w.clk, op := .cpy32 s.w.nextSeq, st := .queued, rows := 0, held := [], heldBytes := 0 }
        let s1 := s.enqueue e
        .done { s1 with w := { s1.w with copyQ := s1.w.copyQ ++ [i] } }

/-! ### Copy schedules (R253, R254) -/

/-- Word i of a byte string. -/
def wordAt (bs : List Byte) (i : Nat) : Nat := field bs (4 * i) 4

/-- The header is sound: counts and addresses within their limits, reserved words zero (R253, R258). -/
def headerOk (h : List Byte) : Bool :=
  decide (1 ≤ wordAt h 0) && decide (wordAt h 0 ≤ 4095) && decide (wordAt h 1 ≤ 256) &&
  field h 8 6 % 8 == 0 && field h 14 2 == 0 && field h 16 6 % 32 == 0 && field h 22 2 == 0 && zeros h 24 40

/-- The record in the first 32 bytes of a byte string. -/
def recordAt (bs : List Byte) : BitVec 256 := BitVec.ofNat 256 (field bs 0 32)

/-- A schedule entry with the biases of its stage. -/
structure SchedEntry where
  src : BitVec 256
  dest : Option (BitVec 256)
  x : Nat
  y : Nat
  z : Nat
  x0 : Nat
  y0 : Int
  z0 : Int
  dst : Nat
  bar : Nat
  kind : Nat
  inc : Nat
  counter : Nat
  deriving DecidableEq, Repr, Inhabited

/-- An entry's fields, read from its 64 bytes, the header's and D's record (R254); g is the linear group index. -/
def schedFields (bs h : List Byte) (dest : Option (BitVec 256)) (dy dz : Int) (g : Nat) : SchedEntry :=
  let w := wordAt bs
  let k := bitsAt (w 13) 18 2
  { src := recordAt bs, dest := dest, x := w 10 % 65536, y := w 10 / 65536, z := w 11 % 65536, x0 := w 8,
    y0 := (w 9 : Int) + dy, z0 := ((w 11 / 65536 : Nat) : Int) + dz, dst := w 12, bar := bitsAt (w 13) 20 4, kind := k, inc := w 14,
    counter := field h 8 6 + 8 * (wordAt h 1 * g + bitsAt (w 13) 4 8) }

/-- The stage number of an entry (R254). -/
def schedStage (bs : List Byte) : Nat := bitsAt (wordAt bs 13) 24 8

/-- The checks made before any byte of an entry is moved, in the order of R258. -/
def schedCheck (g : Group) (bs h : List Byte) (dest : Option (BitVec 256)) : Option Cause :=
  let w := wordAt bs
  let x := w 10 % 65536
  let y := w 10 / 65536
  let z := w 11 % 65536
  let k := bitsAt (w 13) 18 2
  let dk := bitsAt (w 13) 16 2
  let strides := fun r : BitVec 256 => recStrideY r % 4 != 0 || recStrideZ r % 4 != 0
  if !recUsable (recordAt bs) || bitsAt (w 13) 0 4 != 0 || w 15 != 0 || k == 3 || decide (2 ≤ dk) || y == 0 || z == 0 ||
      decide (x < 4) || decide (65532 < x) || w 14 == 0 || decide (2 ^ 23 < x * y * z) || (dk == 1 && !(dest.map recUsable).getD false) then some .badRecord
  else if w 8 % 4 != 0 || x % 4 != 0 || w 12 % 4 != 0 || strides (recordAt bs) || (dest.map strides).getD false then some .misalign
  else if dk == 0 && !(g.scratchOk (w 12) (x * y * z)) then some .scratchRange
  else if k == 2 && decide (wordAt h 1 ≤ bitsAt (w 13) 4 8) then some .badRecord
  else none

/-- An entry of the schedule: its 64 bytes, its failure, or the item that joins the copy queue when its checks hold (R255, R258). -/
inductive SGot where
  | skip (s : State)
  | item (i : CopyItem) (s : State)
  | fail (t : TrapInfo) (s : State)
  | wait

/-- One entry of the schedule: skipped, released, or failing on its own (R255, R258). An entry or a record D that cannot be read fails with
the read's cause and its address; an entry that a check fails, of which no byte has failed, records no address (DESIGN CHOICE, log entry
123). -/
def State.releaseOne (s : State) (r : StageReq) (h : List Byte) (i : Nat) : SGot :=
  let core := s.g.core
  let ctx := s.g.ref.ctx
  let ea := s.g.desc.sched + 64 + 64 * i
  match s.readGranules core ctx ea 2 with
  | .wait => .wait
  | .fail c s1 => .fail (s1.lateTrap c r.pc i (some ea)) s1
  | .ok bs s1 =>
    if schedStage bs != r.number.toNat then .skip s1
    else
      let dva := field h 16 6 + 32 * bitsAt (wordAt bs 13) 12 4
      let add (s : State) (dest : Option (BitVec 256)) : SGot :=
        match schedCheck s.g bs h dest with
        | some c => .fail (s.lateTrap c r.pc i none) s
        | none => .item { set := 0, pc := r.pc, clk0 := r.clk0, op := .sched i (bs ++ h ++ leBytes 32 ((dest.getD 0).toNat)) r.dy r.dz,
                          st := .queued, rows := 0, held := [], heldBytes := 0 } s
      if bitsAt (wordAt bs 13) 16 2 == 1 then
        match s1.readGranule core ctx dva with
        | .wait => .wait
        | .fail c s2 => .fail (s2.lateTrap c r.pc i (some dva)) s2
        | .ok ds s2 => add s2 (some (recordAt ds))
      else add s1 none

/-- The entries of the schedule in increasing index: those released, and the failures of those that fail, which leave the others as
they are (R258). -/
def State.releaseAll (s : State) (r : StageReq) (h : List Byte) : List Nat → Option (State × List CopyItem × List TrapInfo)
  | [] => some (s, [], [])
  | i :: rest =>
    match s.releaseOne r h i with
    | .wait => none
    | .skip s1 => s1.releaseAll r h rest
    | .item x s1 => (s1.releaseAll r h rest).map fun y => (y.1, x :: y.2.1, y.2.2)
    | .fail t s1 => (s1.releaseAll r h rest).map fun y => (y.1, y.2.1, t :: y.2.2)

/-- The stage's place in the copy queue taken by what it releases (R245, R261). -/
def Warp.putReleased (w : Warp) (n : BitVec 8) (xs : List CopyItem) : Warp :=
  { w with copyQ := (w.copyQ.takeWhile (·.op != .stage n)) ++ xs ++ ((w.copyQ.dropWhile (·.op != .stage n)).drop 1) }

/-- A stage applied: the header, then every entry of the new stage number (R253, R255, R258). None while a page of the
schedule is being brought in. -/
def State.releaseStage (s : State) (r : StageReq) : Option State :=
  let put (s : State) (xs : List CopyItem) (ts : List TrapInfo) : State :=
    ts.foldl (fun s t => s.engineTrap t r.clk0) { s with w := s.w.putReleased r.number xs }
  match s.readGranules s.g.core s.g.ref.ctx s.g.desc.sched 2 with
  | .wait => none
  | .fail c s1 => some (put s1 [] [s1.lateTrap c r.pc 0xFFFFFFFF (some s.g.desc.sched)])
  | .ok h s1 =>
    if headerOk h then (s1.releaseAll r h (List.range (wordAt h 0))).map fun x => put x.1 x.2.1 x.2.2
    else some (put s1 [] [s1.lateTrap .badRecord r.pc 0xFFFFFFFF none])

/-- The group's oldest stage applied when it is of the warp and heads its copy queue, its set written: the reads of its schedule belong
to its performance (R41, R245, R247, R253). -/
def State.nextStage (s : State) : Option State :=
  match s.g.schedWait, s.w.copyQ with
  | r :: rest, i :: _ =>
    if r.warp != s.w.wid || i.op != .stage r.number || s.w.setWaits i.set then none
    else { s with g := { s.g with schedWait := rest } }.releaseStage r
  | _, _ => none

/-- STAGE (R255, R262): Advances the stage counter and enters the copy queue; its entries are released at once, unless it must wait for
an earlier entry of the queue, an earlier stage of the group, a page or the other slots of its set (R41, R245, R247, R253). -/
def execStage (a b : BitVec 7) : State → Result :=
  slotDo { reads := [rs a, rs b], mem := true } fun s =>
    if s.g.desc.sched = 0 then .trap (s.trapOf .illOp)
    else
      let n := s.g.stage + 1
      let r : StageReq := { warp := s.w.wid, pc := s.iss.at_, clk0 := s.w.clk, number := n,
                            dy := (s.src.sget a).toInt, dz := (s.src.sget b).toInt }
      let i : CopyItem := { set := s.iss.setNo, pc := r.pc, clk0 := r.clk0, op := .stage n, st := .queued, rows := 0, held := [], heldBytes := 0 }
      let s1 := { s with g := { s.g with stage := n, schedWait := s.g.schedWait ++ [r] }, w := { s.w with copyQ := s.w.copyQ ++ [i] } }
      .done (if s.iss.chained then s1 else s1.nextStage.getD s1)

/-- SCHEDULE_READ_DONE (R253): A stalled copy-schedule header or entry read completes and the stage releases entries. -/
def execScheduleReadDone (g : GRef) (s : State) : Result :=
  match (s.groupOf g).bind fun h => h.schedWait.head? with
  | none => .next s
  | some r => onWarpAny { g := g, w := r.warp } (·.nextStage) s

/-! ### waitge, qfence and rdstage (R262..R264) -/

/-- A word read at the home slice whose wait ends with an acquire at dev, for waitge and mb.await (R263, R326). The
failures are precise, one of a word that ECC or its tag fails among them (DESIGN CHOICE, log entry 121); a sector that cannot be read is
poisoned and logged (R390). The read of a remote word that ends the wait is a link operation (R395). -/
def State.watch (s : State) (va n : Nat) (met : List Byte → Bool) : Eff :=
  match s.translate s.g.core s.g.ref.ctx va false with
  | (.fail c, s1) => .trapIn (s1.addrTrap c va) s1
  | (.away, _) => .wait
  | (.ok pa t, s1) =>
    if s1.parkedOver s1.g.core pa n then .wait
    else match s1.homeFails pa n t.key true with
      | some c => .trapIn (s1.addrTrap c va) (s1.afterFail c t.key pa)
      | none =>
        if met (s1.homeRead pa n) then .done (((s1.sendLoad s1.g.core t.key pa 1 n).exchange s1.g.core pa false).dropClean s1.g.core)
        else .wait

/-- WAITGE (R263): Stalls until a 64-bit memory counter reaches a target. -/
def execWaitge (a b : BitVec 7) : State → Result :=
  slotDo { wf := even a && even b, reads := rspair a ++ rspair b, mem := true } fun s =>
    let va := s.src.addrPair a
    if va % 8 != 0 then .trap (s.addrTrap .misalign va)
    else s.watch va 8 fun bs => decide ((s.src.spair b).toNat ≤ leNat bs)

/-- QFENCE (R264): Enters one entry in each of the named queues; they are performed together (R247). -/
def execQfence (q : BitVec 3) : State → Result :=
  slotDo { wf := q != 0, mem := true } fun s =>
    let id := s.g.fenceId
    let w := s.w
    let w := if q.getLsbD 0 then { w with copyQ := w.copyQ ++ [{ set := s.iss.setNo, pc := s.iss.at_, clk0 := w.clk, op := .fence id, st := .queued, rows := 0, held := [], heldBytes := 0 }] } else w
    let w := if q.getLsbD 1 then { w with tileQ := w.tileQ ++ [{ seq := 0, set := 0, pc := s.iss.at_, clk0 := w.clk, op := .fence id, act := 0, addrs := [], word := 0, coord := 0, age := 0, st := .posted, commit := 0, rows := [], chunks := 0, granted := none, divs := 0, rerun := false, rewrite := false, suspect := none }] } else w
    let w := if q.getLsbD 2 then { w with collQ := w.collQ ++ [{ set := s.iss.setNo, pc := s.iss.at_, clk0 := w.clk, addr := 0, fence := some id, record := none, peers := [], written := false }] } else w
    .done { s with w := w, g := { s.g with fenceId := id + 1 } }

/-- RDSTAGE (R262): Reads the group's stage counter. -/
def execRdstage (d : BitVec 7) : State → Result :=
  slotDo { writes := [rs d], mem := true } fun s => .done (s.writeS d (s.g.stage.setWidth 32))

/-! ### qfence (R247) -/

/-- The fence that stands at the head of a copy, tile or collective queue. -/
def Warp.headFences (w : Warp) : List (Option Nat) :=
  [match w.copyQ.head? with | some i => (match i.op with | .fence n => some n | _ => none) | none => none,
   match w.tileQ.head? with | some i => (match i.op with | .fence n => some n | _ => none) | none => none,
   match w.collQ.head? with | some i => i.fence | none => none]

/-- Entries of a fence in the three queues. -/
def Warp.fenceCount (w : Warp) (id : Nat) : Nat :=
  (w.copyQ.countP fun i => i.op == .fence id) + (w.tileQ.countP fun i => i.op == .fence id) + (w.collQ.countP fun i => i.fence == some id)

/-- A fence is performed when it has reached the head of every queue it was entered in: its entries then go (R247). -/
def Warp.passFence (w : Warp) (id : Nat) : Warp :=
  if w.headFences.countP (· == some id) = w.fenceCount id then
    { w with copyQ := w.copyQ.filter (·.op != .fence id), tileQ := w.tileQ.filter (·.op != .fence id),
             collQ := w.collQ.filter (·.fence != some id) }
  else w

/-- An mma with no row in act heads its queue: it is performed in order, with no engine time (R273). -/
def Warp.passEmpty (w : Warp) : Warp :=
  match w.tileQ with
  | e :: r => (match e.op with | .mma _ _ _ => if e.act = 0 then { w with tileQ := r } else w | _ => w)
  | [] => w

/-- The fences that have reached the heads of their queues are performed, one after another, and so are mma entries
without rows (R247, R273). -/
def Warp.passFences (w : Warp) : Warp :=
  (List.range (w.copyQ.length + w.tileQ.length + w.collQ.length)).foldl (fun w _ =>
    w.passEmpty.headFences.foldl (fun w f => match f with | some id => w.passFence id | none => w) w.passEmpty) w

/-! ### The copy queue (R256..R266) -/

/-- The head of the copy queue replaced. -/
def State.setCopyHead (s : State) (i : CopyItem) : State := { s with w := { s.w with copyQ := i :: s.w.copyQ.tail } }

/-- The head of the copy queue performed. -/
def State.popCopy (s : State) : State := { s with w := { s.w with copyQ := s.w.copyQ.tail }.passFences }

/-- COPY_ENTRY_START (R265): A queued copy entry begins moving once earlier entries are performed, and its set has written (R41); a
stage that has come to the head of its queue is performed (R245). -/
def execCopyEntryStart (r : WRef) : State → Result :=
  onWarpAny r fun s =>
    let s := { s with w := s.w.passFences }
    match s.w.copyQ with
    | [] => some s
    | i :: _ => match i.op with
      | .fence _ => some s
      | .stage _ => some (s.nextStage.getD s)
      | _ => if i.st == .queued && !s.w.setWaits i.set then some (s.setCopyHead { i with st := .moving }) else some s

/-- The bytes of a row of the source, excluded bytes zero under modes 1 and 2; BOUNDS under mode 0 (R256). -/
def State.rowRead (s : State) (held : List Tlb) (k : BitVec 256) (off : Int) (n : Nat) : EGot :=
  let ext := (recExtent k : Int)
  if (off < 0 ∨ ext < off + n) ∧ recMode k = 0 then
    .fail .bounds (((recBase k + (if off < 0 then off else max off ext)) % 2 ^ 64).toNat) s
  else
    let lo := max off 0
    let hi := min (off + n) ext
    if hi ≤ lo then .ok (List.replicate n 0) held s
    else
      match s.engineRead s.g.core s.g.ref.ctx held (pieces (recBase k + lo.toNat) (hi - lo).toNat) with
      | .ok bs h s1 => .ok (List.replicate (lo - off).toNat 0 ++ bs ++ List.replicate (off + n - hi).toNat 0) h s1
      | other => other

/-- A row written in a destination record: bytes that D excludes are dropped under modes 1 and 2, BOUNDS under mode 0
(R256). -/
def State.rowWrite (s : State) (held : List Tlb) (k : BitVec 256) (off : Int) (bs : List Byte) : EGot :=
  let ext := (recExtent k : Int)
  let n := bs.length
  if (off < 0 ∨ ext < off + n) ∧ recMode k = 0 then
    .fail .bounds (((recBase k + (if off < 0 then off else max off ext)) % 2 ^ 64).toNat) s
  else
    let lo := max off 0
    let hi := min (off + n) ext
    if hi ≤ lo then .ok [] held s
    else s.engineWrite s.g.core s.g.ref.ctx held (recBase k + lo.toNat) ((bs.drop (lo - off).toNat).take (hi - lo).toNat)

/-- The entry that a schedule item holds: its 64 bytes, the header's 64 and D's 32 (R254). -/
def itemEntry (bytes : List Byte) (dy dz : Int) (g : Nat) : SchedEntry :=
  schedFields bytes (bytes.drop 64) (if bitsAt (wordAt bytes 13) 16 2 = 1 then some (recordAt (bytes.drop 128)) else none) dy dz g

/-- The entry fails: later rows are not written, no target is signalled, and the stage's warp traps (R258). -/
def State.copyFails (s : State) (i : CopyItem) (index : Nat) (c : Cause) (va : Nat) : State :=
  s.popCopy.engineTrap (s.lateTrap c i.pc index (some va)) i.clk0

/-- Bytes of a row that a record does not exclude (R256). -/
def insideOf (k : BitVec 256) (off : Int) (n : Nat) : Nat := (min (off + n) (recExtent k : Int) - max off 0).toNat

/-- The clean copies of some virtual bytes leave the core's L1, so that a warp that waited for bytes that landed does not read older
ones (R321) (DEDUCED, log entry 104). -/
def State.dropCopies (s : State) (va n : Nat) : State :=
  (sectorsOf va n).foldl (fun s x =>
    match s.peek s.g.core s.g.ref.ctx x false with
    | .ok pa _ => s.dropSector s.g.core pa
    | _ => s) s

/-- A row of a schedule entry moved (R256): its bytes land, and a group barrier's count falls with each (R257). -/
def State.rowMove (s : State) (i : CopyItem) (index : Nat) (e : SchedEntry) : Option State :=
  let p := i.rows / e.y
  let r := i.rows % e.y
  if 65536 < i.heldBytes + e.x then none
  else
    match s.rowRead i.held e.src (e.x0 + (e.y0 + r) * recStrideY e.src + (e.z0 + p) * recStrideZ e.src) e.x with
    | .wait => none
    | .fail c va s1 => some (s1.copyFails i index c va)
    | .ok bs h s1 =>
      let land (s : State) (h : List Tlb) (n : Nat) : State :=
        let s2 := if e.kind = 1 then { s with g := s.g.landBytes e.bar n } else s
        s2.setCopyHead { i with rows := i.rows + 1, held := h, heldBytes := i.heldBytes + e.x }
      match e.dest with
      | some d =>
        let off : Int := e.dst + r * recStrideY d + p * recStrideZ d
        match s1.rowWrite h d off bs with
        | .wait => none
        | .fail c va s2 => some (s2.copyFails i index c va)
        | .ok _ h2 s2 =>
          let s2 := s2.noteSent s1.links.nextOp (s2.lateTrap .addrFault i.pc index (some (recBase d + (max off 0).toNat))) i.clk0
          let n := insideOf d off e.x
          let s3 := if e.kind = 1 then s2.dropCopies (recBase d + (max off 0).toNat) n else s2
          some (land s3 h2 n)
      | none =>
        let da := e.dst + (p * e.y + r) * e.x
        if s1.scratchHeld da e.x then none else some (land (s1.scratchWrite da bs) h e.x)

/-- A schedule entry's last byte has landed: its completion target is signalled (R257, R258). -/
def State.copyCompletes (s : State) (i : CopyItem) (index : Nat) (e : SchedEntry) : Option State :=
  if e.kind = 2 then
    (s.release 1).bind fun s1 =>
      match s1.engineAdd s1.g.core s1.g.ref.ctx e.counter e.inc with
      | .wait => none
      | .fail c va s2 => some (s2.copyFails i index c va)
      | .ok _ _ s2 => some (s2.noteSent s1.links.nextOp (s2.lateTrap .addrFault i.pc index (some e.counter)) i.clk0).popCopy
  else some s.popCopy

/-- One lane of a cpy32 copied: v bytes from the source, then zeros up to 32 (R259). -/
def State.laneCopy (s : State) (held : List Tlb) (r : LaneReq) : EGot :=
  if r.len = 0 then .ok (List.replicate 32 0) held s
  else match s.engineRead s.g.core s.g.ref.ctx held (pieces r.va r.len) with
    | .ok bs h s1 => .ok (bs ++ List.replicate (32 - r.len) 0) h s1
    | other => other

/-- Data of the head of the copy queue lands: a row of a schedule entry, or a lane of a cpy32 (R256, R259). -/
def State.copyLands (s : State) : Option State :=
  match s.w.copyQ with
  | [] => none
  | i :: _ =>
    if i.st != .moving then none
    else match i.op with
      | .fence _ => none
      | .stage _ => none
      | .sched index bytes dy dz =>
        let e := itemEntry bytes dy dz s.g.linear.toNat
        if i.rows < e.y * e.z then
          (s.rowMove i index e).map fun s1 =>
            match s1.w.copyQ with
            | j :: _ => if j.rows = e.y * e.z ∧ j.op = i.op ∧ j.rows = i.rows + 1 then (s1.copyCompletes j index e).getD s1 else s1
            | [] => s1
        else s.copyCompletes i index e
      | .cpy32 seq =>
        (s.w.entries.find? (·.seq == seq)).bind fun e =>
          (e.reqs[i.rows]?).bind fun r =>
            if s.w.setWaits e.set || s.scratchHeld r.data.toNat 32 then none
            else match s.laneCopy i.held r with
              | .wait => none
              | .fail c _ s1 =>
                some (State.setCopyHead { s1 with w := s1.w.setEntry { e with fails := e.fails ++ [{ lane := r.lane, cause := c, addr := r.va }] } }
                  { i with rows := i.rows + 1 })
              | .ok bs h s1 =>
                some ((s1.scratchWrite r.data.toNat bs).setCopyHead { i with rows := i.rows + 1, held := h, heldBytes := i.heldBytes + 32 })

/-- COPY_DATA_LANDED (R256): Copy rows are written at their destination, lowering barrier transaction bytes for kind 1. -/
def execCopyDataLanded (r : WRef) : State → Result := onWarpAny r (·.copyLands)

/-- COPY_HOLD_RENEW (R266): After 64 KiB under one hold the hold is dropped and pages re-translated. -/
def execCopyHoldRenew (r : WRef) : State → Result :=
  onWarpAny r fun s =>
    match s.w.copyQ with
    | [] => none
    | i :: _ => match i.op with
      | .sched _ bytes dy dz =>
        if i.st == .moving && decide (65536 < i.heldBytes + (itemEntry bytes dy dz 0).x) then
          some (s.setCopyHead { i with held := [], heldBytes := 0 })
        else none
      | _ => none

/-- A completing entry while its group is away: the counter in the image is lowered, and a failure is an absent-group
fault (R304, R305). -/
def State.finishAny (s : State) (e : PathEntry) : State :=
  if s.g.absent then
    let s1 := { s with w := s.w.setEntry e }.complete e.seq
    match entryTrap s.w.wid e with
    | none => s1
    | some t => s1.absentFault t
  else s.finish e

/-- CPY32_COMPLETE (R259): Every active lane of a cpy32 has written its 32 bytes and its CP entry completes. -/
def execCpy32Complete (r : WRef) : State → Result :=
  onWarpAny r fun s =>
    match s.w.copyQ with
    | [] => none
    | i :: _ => match i.op with
      | .cpy32 seq =>
        (s.w.entries.find? (·.seq == seq)).bind fun e =>
          if i.st == .moving && decide (e.reqs.length ≤ i.rows) then some (s.popCopy.finishAny e) else none
      | _ => none

end Sys2Proof.Machine
end

