-- ==== Sys2Proof/Machine/Barrier.lean ====
section
/-!
DEFINITION. Barriers: major 0x2B (15_barrier.md R314..R327), the application of posted arrivals (R315) and
the member's exit (R317).
-/
namespace Sys2Proof.Machine

/-! ### Group barriers (R314..R320) -/

/-- The warp posts an arrival: it waits for the entries issued so far, and the arrival bit is set (R315). -/
def State.post (s : State) (b : Nat) : State :=
  let x := s.g.bar b
  { s with g := { s.g.setBar b { x with bits := x.bits ||| BitVec.twoPow 16 s.w.wid } with
                    posted := s.g.posted ++ [{ warp := s.w.wid, set := s.iss.setNo, bar := b, upto := s.w.nextSeq }] } }

/-- What a group barrier instruction uses (R318). -/
def gbUse (b : BitVec 7) (reads : List RegId) : Use := { wf := decide (b.toNat < 16), reads := reads }

/-- GB_MEET (R319): Posts an arrival and stalls until the phase completes. A gb.meet that waits does not post again (R307),
and goes on once its bit is clear, also where a merge cleared it (R322) (DEDUCED, log entry 35). -/
def execGbMeet (b : BitVec 7) : State → Result :=
  slotDo (gbUse b []) fun s =>
    let x := s.g.bar b.toNat
    let waiting (s : State) : State := { s with w := { s.w with meeting := true } }
    if s.w.meeting then (if x.bit s.w.wid then .pause s else .done { s with w := { s.w with meeting := false } })
    else if !x.member s.w.wid then .trap (s.trapOf .illOp)
    else if x.bit s.w.wid then .pause (waiting s)
    else .pause (waiting (s.post b.toNat))

/-- GB_POST (R319): Posts an arrival without waiting; with its bit set it first waits for that phase to complete. -/
def execGbPost (b : BitVec 7) : State → Result :=
  slotDo (gbUse b []) fun s =>
    let x := s.g.bar b.toNat
    if !x.member s.w.wid then .trap (s.trapOf .illOp)
    else if x.bit s.w.wid then .wait
    else .done (s.post b.toNat)

/-- GB_AWAIT (R319): Stalls until the warp's arrival bit is clear. -/
def execGbAwait (b : BitVec 7) : State → Result :=
  slotDo (gbUse b []) fun s => if (s.g.bar b.toNat).bit s.w.wid then .wait else .done s

/-- GB_AWAIT_PAR (R319): Stalls until the phase bit differs from q. -/
def execGbAwaitPar (q : BitVec 1) (b : BitVec 7) : State → Result :=
  slotDo (gbUse b []) fun s => if (s.g.bar b.toNat).phase == (q == 1) then .wait else .done s

/-- GB_BYTES (R319): Adds expected transaction bytes. -/
def execGbBytes (a b : BitVec 7) : State → Result :=
  slotDo (gbUse b [rs a]) fun s =>
    let x := s.g.bar b.toNat
    let n := s.src.sget a
    if 2 ^ 23 < n.toNat then .trap (s.trapOf .illOp)
    else .done { s with g := s.g.setBar b.toNat ({ x with trans := x.trans + n.setWidth 24 }.test) }

/-- GB_MEMBERS (R319): Sets the member mask and the expected count. -/
def execGbMembers (a b : BitVec 7) : State → Result :=
  slotDo (gbUse b [rs a]) fun s =>
    let m := s.src.sget a
    if 2 ^ s.g.warps.length ≤ m.toNat then .trap (s.trapOf .illOp)
    else .done { s with g := s.g.setMembers b.toNat (m.setWidth 16) }

/-- The exit of a warp: every barrier that holds it drops it, with its arrival, and is tested (R317). -/
def Group.dropMember (g : Group) (w : Nat) : Group :=
  (List.range 16).foldl (fun g b =>
    let x := g.bar b
    if x.member w then
      g.setBar b ({ x with members := clearBit16 x.members w, expected := x.expected - 1, bits := clearBit16 x.bits w,
                           arrived := if x.bit w then x.arrived - 1 else x.arrived }.test)
    else g) g

/-- A posted arrival applied once the warp's earlier entries have completed (R315), and its set has written (R41). -/
def State.applyArrival (s : State) (b : Nat) : Option State :=
  match s.g.posted.find? fun p => p.warp == s.w.wid && p.bar == b with
  | none => none
  | some p =>
    if s.w.fenceMet p.upto && !s.w.setWaits p.set then
      some { s with g := { s.g with posted := s.g.posted.erase p }.arrive b }
    else none

/-- ARRIVAL_APPLIED (R315): A posted barrier arrival is applied once the warp's earlier entries complete (DEDUCED, log
entry 86). -/
def execArrivalApplied (r : WRef) (b : Nat) : State → Result := onWarpAny r (·.applyArrival b)

/-! ### Memory transaction barriers (R323..R327) -/

/-- What mb.arm, mb.post, mb.bytes and mb.await use (R325). -/
def mbUse (a b : BitVec 7) (writes : List RegId) (path : Option Nat) : Use :=
  { wf := even a, reads := rspair a ++ [rs b], writes := writes, path := path, mem := true }

/-- An update of a memory transaction barrier at issue: the count within its limits, the address a multiple of 16, then an
entry on ATM (R326, R327); one that writes the mask keeps what a chain split would put the warp back to (R191). -/
def mbIssue (lo hi : Nat) (op : Word → PathOp) (d : Nat) (writes : List RegId) (a b : BitVec 7) (s : State) : Eff :=
  let va := s.src.addrPair a
  let n := s.src.sget b
  if n.toNat < lo ∨ hi < n.toNat then .trap (s.trapOf .illOp)
  else if va % 16 != 0 then .trap (s.addrTrap .misalign va)
  else .done (s.enqueue { s.entryOf 4 (op n) d [{ lane := 0, va := va, drop := false, data := 0, len := 16 }] writes with
    back := if meets writes maskRegs then some s.iss.back else none })

/-- MB_ARM (R326): Initializes a memory transaction barrier. -/
def execMbArm (a b : BitVec 7) : State → Result :=
  slotDo (mbUse a b [] (some 4)) (mbIssue 1 (2 ^ 24) .mbArm 0 [] a b)

/-- MB_POST (R326): Releases, then adds arrivals and returns the phase before them. -/
def execMbPost (d a b : BitVec 7) : State → Result :=
  slotDo (mbUse a b [rs d] (some 4)) (mbIssue 1 65535 .mbPost d.toNat [rs d] a b)

/-- MB_BYTES (R326): Adds expected transaction bytes. -/
def execMbBytes (a b : BitVec 7) : State → Result :=
  slotDo (mbUse a b [] (some 4)) (mbIssue 0 (2 ^ 31 - 1) .mbBytes 0 [] a b)

/-- MB_AWAIT (R326): Stalls until the phase number differs from S[sb]; the read that ends the stall is an acquire at dev. -/
def execMbAwait (a b : BitVec 7) : State → Result :=
  slotDo (mbUse a b [] none) fun s =>
    let va := s.src.addrPair a
    if va % 16 != 0 then .trap (s.addrTrap .misalign va)
    else s.watch va 16 fun bs => field bs 12 4 != (s.src.sget b).toNat

end Sys2Proof.Machine
end

