-- ==== Sys2Proof/Machine/Chain.lean ====
section
/-!
DEFINITION. Chain arithmetic: majors 0x20 to 0x22 (09_chain.md R186..R199).
-/
namespace Sys2Proof.Machine

/-- CBIND (R187): Binds chains of n limbs and clears the carry words. -/
def execCbind (n : BitVec 7) : State → Result :=
  slotDo { wf := limbCountOk n.toNat, reads := maskRegs, writes := [.chn, .carry] } fun s =>
    .done (s.mapRegs fun r => { r with chn := n.toNat, carry := Vector.replicate 48 0 })

/-- CUNBIND (R188): Unbinds chains and clears the carry words. -/
def execCunbind : State → Result :=
  slotDo { writes := [.chn, .carry] } fun s =>
    .done (s.mapRegs fun r => { r with chn := 0, carry := Vector.replicate 48 0 })

/-- CGET (R199): Copies each active chain's carry word into every lane of the chain. -/
def execCget (d : BitVec 7) : State → Result :=
  slotDo { vtop := vtop [d], reads := [.chn, .carry], writes := [rv d], lane := true } fun s =>
    bound s <| .done <| s.mapRegs fun r =>
      r.vset d (mergeLanes (chainLaneMask s.src.chn s.active) (lanesOf fun l => carryAt s.src.carry (l.val / s.src.chn)) (r.vget d))

/-- CGET_P (R199): Sets a predicate per chain from carry ≠ 0. -/
def execCgetP (p : BitVec 4) : State → Result :=
  slotDo { wf := predOk p, reads := [.chn, .carry], writes := [.p p.toNat], lane := true } fun s =>
    bound s <| .done <| s.mapRegs fun r =>
      r.pset p.toNat (mergeMask (chainLaneMask s.src.chn s.active) (maskOf fun l => carryAt s.src.carry (l / s.src.chn) != 0)
        (r.pget p.toNat))

/-- CSET (R199): Sets each active chain's carry word from limb 0's lane. -/
def execCset (a : BitVec 7) : State → Result :=
  slotDo { vtop := vtop [a], reads := [rv a, .chn], writes := [.carry], lane := true } fun s =>
    bound s <| .done <| s.writeCarry fun c => (laneAt (s.src.vget a) (c * s.src.chn)).toNat

/-- CADD (R195): Chain add with carry out. -/
def execCadd (d : BitVec 7) (a : BitVec 7) (b : BitVec 7) : State → Result :=
  chainBin false false false d a b

/-- CADC (R195): Chain add with carry in and out. -/
def execCadc (d : BitVec 7) (a : BitVec 7) (b : BitVec 7) : State → Result :=
  chainBin false true false d a b

/-- CSUB (R195): Chain subtract with borrow out. -/
def execCsub (d : BitVec 7) (a : BitVec 7) (b : BitVec 7) : State → Result :=
  chainBin true false false d a b

/-- CSBB (R195): Chain subtract with borrow in and out. -/
def execCsbb (d : BitVec 7) (a : BitVec 7) (b : BitVec 7) : State → Result :=
  chainBin true true false d a b

/-- CADD_SAT (R195): Chain saturating add. -/
def execCaddSat (d : BitVec 7) (a : BitVec 7) (b : BitVec 7) : State → Result :=
  chainBin false false true d a b

/-- CADC_SAT (R195): Chain saturating add with carry in. -/
def execCadcSat (d : BitVec 7) (a : BitVec 7) (b : BitVec 7) : State → Result :=
  chainBin false true true d a b

/-- CSUB_SAT (R195): Chain saturating subtract. -/
def execCsubSat (d : BitVec 7) (a : BitVec 7) (b : BitVec 7) : State → Result :=
  chainBin true false true d a b

/-- CSBB_SAT (R195): Chain saturating subtract with borrow in. -/
def execCsbbSat (d : BitVec 7) (a : BitVec 7) (b : BitVec 7) : State → Result :=
  chainBin true true true d a b

/-- CCMP (R196): Unsigned chain compare into a per-chain predicate; the minor field holds 8 + condition. -/
def execCcmp (c : BitVec 5) (p : BitVec 4) (a : BitVec 7) (b : BitVec 7) : State → Result :=
  slotDo { wf := decide (8 ≤ c.toNat) && decide (c.toNat ≤ 13) && predOk p, vtop := vtop [a, b], reads := [rv a, rv b, .chn],
           writes := [.p p.toNat], lane := true } fun s =>
    let n := s.src.chn
    bound s <| .done <| s.mapRegs fun r =>
      r.pset p.toNat (mergeMask (chainLaneMask n s.active)
        (maskOf fun l => relCond (c.toNat - 8) (chainVal (s.src.vget a) n (l / n)) (chainVal (s.src.vget b) n (l / n)))
        (r.pget p.toNat))

/-- CSHL (R197): Chain left bit shift through the carry word. -/
def execCshl (d : BitVec 7) (a : BitVec 7) (s : BitVec 7) : State → Result :=
  chainShift true (fun _ w => (w.extractLsb' 0 5).toNat) d a s

/-- CSHR (R197): Chain right bit shift through the carry word. -/
def execCshr (d : BitVec 7) (a : BitVec 7) (s : BitVec 7) : State → Result :=
  chainShift false (fun _ w => (w.extractLsb' 0 5).toNat) d a s

/-- CSHLW (R197): Chain left limb shift through the carry word. -/
def execCshlw (d : BitVec 7) (a : BitVec 7) (s : BitVec 7) : State → Result :=
  chainShift true (fun n w => 32 * min w.toNat n) d a s

/-- CSHRW (R197): Chain right limb shift through the carry word. -/
def execCshrw (d : BitVec 7) (a : BitVec 7) (s : BitVec 7) : State → Result :=
  chainShift false (fun n w => 32 * min w.toNat n) d a s

/-- CMAC (R198): Chain multiply-accumulate of A by limb j of B, high word to the carry. -/
def execCmac (d : BitVec 7) (a : BitVec 7) (s : BitVec 7) : State → Result :=
  slotDo { wf := even a, vtop := vtop [d, a + 1], reads := [rv a, rv (a + 1), rv d, rs s, .chn], writes := [rv d, .carry],
           lane := true } fun t =>
    let n := t.src.chn
    let j := (t.src.sget s).toNat
    bound t <|
      if n ≤ j then .trap (t.trapOf .illOp)
      else
        let x := chainMac n j (t.src.vget d) (t.src.vget a) (t.src.vget (a + 1))
        .done ((t.writeChains d fun c => x c % 2 ^ (32 * n)).writeCarry fun c => x c / 2 ^ (32 * n))

end Sys2Proof.Machine
end

