-- ==== Sys2Proof/Machine/Shadow.lean ====
section
/-!
DEFINITION. Shadow values (01_fold.md R39, R40): what a shadow unit computes of a floating-point result, and when the result
diverges from it.
-/
namespace Sys2Proof.Machine

/-- The class of a pattern (R39). -/
def Fmt.cls (f : Fmt) (x : Nat) : FClass :=
  if f.isNaN x then .nan else if f.isInf x then .infinity
  else if f.sigOf x = 0 then .zero else if f.expOf x = 0 then .subnormal else .normal

/-- The significand bits that a comparison uses: 8, or the destination's where it has fewer (R40). -/
def Fmt.shadowBits (f : Fmt) : Nat := min 8 (f.fracBits + 1)

/-- The exponent of a finite nonzero pattern, its leading significand bit being the unit (R39) (DESIGN CHOICE, log entry 93). -/
def Fmt.leadExp (f : Fmt) (x : Nat) : Int := f.unbiased x + (bitLen (f.sigOf x) : Int) - 1 - f.fracBits

/-- The significand of a finite nonzero pattern rounded under rne to the bits of the comparison; 2 to that number when the rounding
carries into the next exponent (R40). -/
def Fmt.leadSig (f : Fmt) (x : Nat) : Nat :=
  let p := f.shadowBits
  let m := f.sigOf x
  if bitLen m ≤ p then m * 2 ^ (p - bitLen m) else roundShift .rne false m (bitLen m - p)

/-- The pattern and the shadow's value diverge (R40): classes, signs, exponents, or significands by more than one unit. -/
def Fmt.diverges (f : Fmt) (x : Nat) (sh : Shadow) : Bool :=
  let p := f.shadowBits
  let carried := f.leadSig x == 2 ^ p && sh.exp == f.leadExp x + 1 && sh.sig == 2 ^ (p - 1)
  f.cls x != sh.cls || f.signOf x != sh.neg ||
  ((f.cls x == .normal || f.cls x == .subnormal) && !carried &&
    (f.leadExp x != sh.exp || decide (f.leadSig x + 1 < sh.sig) || decide (sh.sig + 1 < f.leadSig x)))

/-- The format and the elements of a word's destination that the word's instruction leaves a floating-point result in (R165, R167):
two halves of a packed result, one element of a narrowing conversion, the whole word else. -/
def shadowFmt (w : Word) : Fmt × List Nat :=
  if fx w 26 6 = 0x13 then
    match decodeRow13 w with
    | some (.haddF16x2 ..) => (.f16, [0, 1])
    | some (.hmulF16x2 ..) => (.f16, [0, 1])
    | some (.hfmaF16x2 ..) => (.f16, [0, 1])
    | some (.hminF16x2 ..) => (.f16, [0, 1])
    | _ => (.bf16, [0, 1])
  else if fx w 26 6 = 0x15 then
    match decodeRow15 w with
    | some (.vcvtNarrow _ o _ e _ _) =>
      (match Elem.ofCode o.toNat with
       | some (.flt f) => (f, [e.toNat])
       | some .e4m3nan => (.e4m3, [e.toNat])
       | _ => (.f32, []))
    | _ => (.f32, [0])
  else (.f32, [0])

/-- A result of an instruction word and the shadow of one of its elements diverge. -/
def wordDiverges (w x : Word) (r : ShadowReading) : Bool :=
  let f := shadowFmt w
  f.2.contains r.elem && f.1.diverges (x.toNat / 2 ^ (f.1.bits * r.elem) % 2 ^ f.1.bits) r.val

end Sys2Proof.Machine
end

