-- ==== Sys2Proof/Machine/Tile.lean ====
section
/-!
DEFINITION. The matrix engine and the accumulator store (13_tile.md R267..R291): mma, the accumulator moves,
commit groups, and the events that gather, grant, compute and complete the entries of the tile queues.
-/
namespace Sys2Proof.Machine

/-! ### The accumulator store (R267, R268) -/

/-- The word at an index (512·row + column) of an allocation; an unlisted word is +0 (R267). -/
def Acc.read : List (Nat × Word) → Nat → Word
  | [], _ => 0
  | (k, x) :: r, a => if k = a then x else if a < k then 0 else Acc.read r a

/-- A word written; a zero word is unlisted. -/
def Acc.write : List (Nat × Word) → Nat → Word → List (Nat × Word)
  | [], a, x => if x = 0 then [] else [(a, x)]
  | (k, y) :: r, a, x =>
    if a < k then (if x = 0 then (k, y) :: r else (a, x) :: (k, y) :: r)
    else if a = k then (if x = 0 then r else (k, x) :: r)
    else (k, y) :: Acc.write r a x

/-- Words written one after another. -/
def Acc.writeAll (m : List (Nat × Word)) (ps : List (Nat × Word)) : List (Nat × Word) := ps.foldl (fun m p => Acc.write m p.1 p.2) m

/-- Words of the accumulator rows written; one that ECC could not correct is good again (R31, R33). -/
def Group.putAcc (g : Group) (ps : List (Nat × Word)) : Group :=
  { g with acc := Acc.writeAll g.acc ps, badAcc := g.badAcc.filter fun i => !(ps.any (·.1 == i)) }

/-- The row of a coordinate. -/
def coordRow (c : Word) : Nat := (c.extractLsb' 16 16).toNat
/-- The column of a coordinate. -/
def coordCol (c : Word) : Nat := (c.extractLsb' 0 16).toNat

/-- The coordinate covers width W inside the group's allocation (R268). -/
def coordOk (d : Desc) (c : Word) (w : Nat) : Bool :=
  d.units != 0 && coordRow c % 32 == 0 && decide (coordRow c + 96 ≤ 96 * d.units) && coordCol c % 32 == 0 && decide (coordCol c + w ≤ 512)

/-- The index of a word of a lane's row (R268). -/
def accIndex (c : Word) (lane n : Nat) : Nat := 512 * (coordRow c + lane) + coordCol c + n

/-! ### Formats (R93, R271) -/

/-- The element formats of an mma code; the integer codes 7 and 8 have none. -/
def mmaFmts : Nat → Option (Fmt × Fmt)
  | 0 => some (.bf16, .bf16)
  | 1 => some (.f16, .f16)
  | 2 => some (.e4m3, .e4m3)
  | 3 => some (.e4m3, .e5m2)
  | 4 => some (.e5m2, .e4m3)
  | 5 => some (.e5m2, .e5m2)
  | 6 => some (.e2m1, .e2m1)
  | _ => none

/-- Bits of an element. -/
def mmaBits (f : Nat) : Nat := if f ≤ 1 then 16 else if f = 6 ∨ f = 8 then 4 else 8
/-- Products of a k-step, K_c. -/
def mmaKc (f : Nat) : Nat := 128 / mmaBits f
/-- Columns N of a shape. -/
def mmaN (s : Nat) : Nat := 32 * 2 ^ (s % 4)
/-- Depth K of a shape under a format. -/
def mmaK (f s : Nat) : Nat := 2 ^ (1 + s / 4) * mmaKc f
/-- Bytes of an A row. -/
def mmaRow (f s : Nat) : Nat := mmaK f s * mmaBits f / 8
/-- Bytes of the B block. -/
def mmaBlock (f s : Nat) : Nat := mmaRow f s * mmaN s

/-- Element k of a byte string of elements of n bits (R49, R271). -/
def elemAt (n : Nat) (bs : List Byte) (k : Nat) : Nat := bitsAt (field bs (n * k / 8) (max 1 (n / 8))) (n * k % 8) n

/-! ### The queues -/

/-- The entry is an mma. -/
def TileOp.isMma : TileOp → Bool
  | .mma _ _ _ => true
  | _ => false

/-- The entry is an accumulator move. -/
def TileOp.isMove : TileOp → Bool
  | .mma _ _ _ => false
  | .fence _ => false
  | _ => true

/-- The entries of a warp in the reservation table (R275). -/
def Warp.reserved (w : Warp) : Nat := w.tileQ.countP fun e => e.op.isMma || e.op.isMove

/-- The warps whose groups stand on a core, as the tables hold them. -/
def State.warpsOn (s : State) (core : Nat) : List (Group × Warp) :=
  s.groups.flatMap fun g => if g.onCore && g.core == core then g.warps.map fun w => (g, w) else []

/-- All 16 entries of the core's reservation table are taken, with those of the warp in the issue stage (R275). -/
def State.tableFull (s : State) : Bool := decide (16 ≤ ((s.park.warpsOn s.g.core).map fun x => x.2.reserved).sum)

/-- The commit groups that are outstanding (R280): closed, and with an mma entry that is not performed. -/
def Warp.outstanding (w : Warp) : Nat :=
  (((w.tileQ.filter fun e => e.op.isMma && decide (e.commit < w.cgOpen)).map (·.commit)).eraseDups).length

/-- The entry posted, with its age in the core's issue order (R275). An mma with no row is performed as soon as it heads its
queue (R273). -/
def State.postTile (s : State) (op : TileOp) (addrs : List (Nat × Nat)) (word coord : Word) : State :=
  let e : TileEntry := { seq := s.w.nextSeq, set := s.iss.setNo, pc := s.iss.at_, clk0 := s.w.clk, op := op, act := s.active, addrs := addrs, word := word,
                         coord := coord, age := (s.coreAt s.g.core).ageNo, st := .posted, commit := s.w.cgOpen, rows := [], chunks := 0,
                         granted := none, divs := 0, rerun := false, rewrite := false, suspect := none }
  { s with w := { s.w with tileQ := s.w.tileQ ++ [e] }.passFences }.updCore s.g.core fun k => { k with ageNo := k.ageNo + 1 }

/-! ### Checks at issue (R274, R285) -/

/-- The checks of lanes' addresses: a multiple of 16, and n bytes in valid pages (R274) (DEDUCED, log entry 14). -/
def tileLanes (s : State) (v : BitVec 7) (n : Nat) : TrapInfo ⊕ List (Nat × Nat) :=
  let xs := (lanesIn s.active).map fun l => (l, (laneAt (s.src.vget v) l).toNat)
  let fails := xs.filterMap fun x =>
    if x.2 % 16 != 0 then some ({ lane := x.1, cause := .misalign, addr := x.2 } : LaneFail)
    else if !s.g.scratchOk x.2 n then some { lane := x.1, cause := .scratchRange, addr := x.2 } else none
  match firstCause [.misalign, .scratchRange] fails with
  | some (c, m, a) => .inl (s.laneTrap c m a)
  | none => .inr xs

/-- Reserved bits of an operand word, and for an integer format its mode and scale, are zero (R270). -/
def operandOk (x : Word) (plain : Bool) : Bool := x &&& 0x00C80000#32 == 0 && (!plain || x &&& 0xFF300000#32 == 0)

/-- The B address of an operand word (R270). -/
def operandB (x : Word) : Nat := (x.extractLsb' 0 19).toNat
/-- The scale exponent of an operand word. -/
def operandScale (x : Word) : Int := (x.extractLsb' 24 8).toInt
/-- The rounding mode of an operand word. -/
def operandMode (x : Word) : Rm := Rm.ofBits (x.extractLsb' 20 2)

/-- mma and mma.sat (R269, R274). -/
def mmaDo (sat : Bool) (f s : BitVec 4) (v p : BitVec 7) : State → Result :=
  slotDo { wf := decide (f.toNat ≤ 8) && decide (s.toNat ≤ 11) && even p && (!sat || decide (7 ≤ f.toNat)), vtop := v.toNat + 1,
           reads := rv v :: rspair p, lane := true, mem := true } fun t =>
    let word := t.src.sget p
    let coord := t.src.sget (p + 1)
    let fc := f.toNat
    let sc := s.toNat
    if t.tableFull then .wait
    else if t.g.desc.draw = 0 then .trap (t.trapOf .draw)
    else if !operandOk word (decide (7 ≤ fc)) then .trap (t.trapOf .illOp)
    else if !coordOk t.g.desc coord (mmaN sc) then .trap (t.trapOf .accRange)
    else if operandB word % 16 != 0 then .trap (t.addrTrap .misalign (operandB word))
    else if !t.g.scratchOk (operandB word) (mmaBlock fc sc) then .trap (t.addrTrap .scratchRange (operandB word))
    else match tileLanes t v (mmaRow fc sc) with
      | .inl x => .trap x
      | .inr xs =>
        let t1 := t.postTile (.mma fc sc sat) xs word coord
        .done { t1 with w := { t1.w with nextSeq := t1.w.nextSeq + 1 } }

/-- MMA (R269): Posts a 96-row matrix multiply-accumulate to the engine. -/
def execMma (f s : BitVec 4) (v p : BitVec 7) : State → Result := mmaDo false f s v p

/-- MMA_SAT (R269): Integer mma with saturating accumulation. -/
def execMmaSat (f s : BitVec 4) (v p : BitVec 7) : State → Result := mmaDo true f s v p

/-- An accumulator move at issue (R283..R286): the coordinate over its width, its lanes' addresses where it has them, then an
entry in the tile queue and on TIL. -/
def moveDo (op : State → TileOp) (u : Use) (words : Option (Word → Bool)) (width : Nat) (scr : Option (BitVec 7 × Nat)) (p : BitVec 7)
    (dst : Nat) : State → Result :=
  slotDo { u with wf := u.wf && even p, reads := u.reads ++ rspair p, lane := true, path := some 5, mem := true } fun t =>
    let word := t.src.sget p
    let coord := t.src.sget (p + 1)
    if t.tableFull then .wait
    else if !(match words with | some f => f word | none => true) then .trap (t.trapOf .illOp)
    else if !coordOk t.g.desc coord width then .trap (t.trapOf .accRange)
    else
      match (match scr with | some (v, n) => tileLanes t v n | none => .inr []) with
      | .inl x => .trap x
      | .inr xs => .done ((t.postTile (op t) xs word coord).enqueue (t.entryOf 5 .move dst [] u.writes))

/-- The width W of a width code (R283). -/
def widthOf (w : BitVec 4) : Nat := 32 * 2 ^ w.toNat
/-- The count M of a count code (R283). -/
def countOf (m : BitVec 4) : Nat := 2 ^ m.toNat

/-- Bytes of an element of a move format (R284). -/
def moveSize (f : Nat) : Nat := [4, 2, 2, 1, 1, 1, 1, 2].getD f 1

/-- TZERO (R285): Clears accumulator rows of active lanes. -/
def execTzero (w : BitVec 4) (p : BitVec 7) : State → Result :=
  moveDo (fun _ => .tzero (widthOf w)) { wf := decide (w.toNat ≤ 3) } none (widthOf w) none p 0

/-- TLD (R285): Loads scratchpad elements, widened, into accumulator rows. -/
def execTld (f w : BitVec 4) (v p : BitVec 7) : State → Result :=
  moveDo (fun _ => .tld f.toNat (widthOf w)) { wf := decide (f.toNat ≤ 2) && decide (w.toNat ≤ 3), vtop := v.toNat + 1, reads := [rv v] }
    (some (· == 0)) (widthOf w) (some (v, widthOf w * moveSize f.toNat)) p 0

/-- TST (R285): Stores accumulator rows, converted, to scratchpad. -/
def execTst (f w : BitVec 4) (v p : BitVec 7) : State → Result :=
  moveDo (fun _ => .tst f.toNat (widthOf w)) { wf := decide (f.toNat ≤ 7) && decide (w.toNat ≤ 3), vtop := v.toNat + 1, reads := [rv v] }
    (some fun x => operandOk x (f == 0 || f == 6 || f == 7)) (widthOf w) (some (v, widthOf w * moveSize f.toNat)) p 0

/-- TGET (R285): Reads accumulator words into vector registers. -/
def execTget (m : BitVec 4) (v p : BitVec 7) : State → Result :=
  moveDo (fun _ => .tget (countOf m) v.toNat)
    { wf := decide (m.toNat ≤ 3) && v.toNat % countOf m == 0, vtop := v.toNat + countOf m, writes := rvrun v.toNat (countOf m) }
    none (countOf m) none p v.toNat

/-- TFILL (R285): Writes vector registers into accumulator words. -/
def execTfill (m : BitVec 4) (v p : BitVec 7) : State → Result :=
  moveDo (fun t => .tfill (countOf m) ((List.range (countOf m)).map fun i => t.src.vget (v + BitVec.ofNat 7 i)))
    { wf := decide (m.toNat ≤ 3) && v.toNat % countOf m == 0, vtop := v.toNat + countOf m, reads := rvrun v.toNat (countOf m) }
    none (countOf m) none p 0

/-- MCOMMIT (R280): Closes the open commit group. -/
def execMcommit : State → Result :=
  slotDo { mem := true } fun s =>
    if 63 ≤ s.w.outstanding then .wait else .done { s with w := { s.w with cgOpen := s.w.cgOpen + 1 } }

/-- MWAIT (R281): Stalls until at most n commit groups are outstanding. -/
def execMwait (n : BitVec 7) : State → Result :=
  slotDo { mem := true } fun s => if s.w.outstanding ≤ n.toNat then .done s else .wait

/-! ### Gather -/

/-- An entry of a warp's tile queue replaced. -/
def Warp.setTile (w : Warp) (e : TileEntry) : Warp := { w with tileQ := w.tileQ.map fun x => if x.seq = e.seq ∧ x.op.isMma then e else x }

/-- An entry of a warp's tile queue removed; what it held back goes on (R247, R273). -/
def Warp.dropTile (w : Warp) (e : TileEntry) : Warp :=
  { w with tileQ := w.tileQ.filter fun x => !(x.seq == e.seq && (x.op.isMma || x.op.isMove)) }.passFences

/-- An mma entry of a number. -/
def Warp.mmaOf (w : Warp) (seq : Nat) : Option TileEntry := w.tileQ.find? fun e => e.seq == seq && e.op.isMma

/-- The entry holds an operand latch (R276). -/
def TileEntry.latched (e : TileEntry) : Bool :=
  e.op.isMma && (match e.st with | .gathering => true | .ready => true | .running => true | _ => false)

/-- Operand latches of a core that are taken. -/
def State.latches (s : State) (core : Nat) : Nat := ((s.warpsOn core).map fun x => x.2.tileQ.countP (·.latched)).sum

/-- The entries of a queue before a number. -/
def Warp.tileBefore (w : Warp) (seq : Nat) : List TileEntry := w.tileQ.takeWhile fun e => !(e.seq == seq && e.op.isMma)

/-- An mma entry takes a free latch: a latch is free, every earlier mma of its warp holds one and no earlier fence stands
(R276). -/
def State.takeLatch (s : State) (seq : Nat) : Option State :=
  (s.w.mmaOf seq).bind fun e =>
    if e.st == .posted && s.g.status == .resident && !s.w.setWaits e.set && decide (s.latches s.g.core < 2) &&
        ((s.w.tileBefore seq).all fun x => x.op.isMove || x.latched) then
      some { s with w := s.w.setTile { e with st := .gathering } }
    else none

/-- OPERAND_LATCH_TAKE (R276): An mma entry takes a free operand latch and its A-row gather starts. -/
def execOperandLatchTake (r : WRef) (seq : Nat) : State → Result := onWarp r (·.takeLatch seq)

/-- The op stops (R291): its entry goes, and the trap's argument is the number of column chunks written. -/
def State.tileStop (s : State) (e : TileEntry) (c : Cause) : State :=
  { s with w := s.w.dropTile e }.raiseAfter (s.lateTrap c e.pc e.chunks none) e.clk0

/-- The gather of the A rows of the active lanes (R276, R287); a page that is being switched makes it wait. -/
def State.gather (s : State) (seq : Nat) : Option State :=
  (s.w.mmaOf seq).bind fun e =>
    match e.st, e.op with
    | .gathering, .mma f sh _ =>
      (s.scratchRows (mmaRow f sh) e.addrs).map fun x =>
        if x.2.2.isEmpty then { x.1 with w := x.1.w.setTile { e with st := .ready, rows := x.2.1 } } else x.1.tileStop e .eccUncorr
    | _, _ => none

/-- GATHER_DONE (R289): An mma's A rows are in its latch and it becomes eligible for grant. -/
def execGatherDone (r : WRef) (seq : Nat) : State → Result := onWarp r (·.gather seq)

/-! ### Column chunks -/

/-- One k-step on one output (R58..R61, R272). -/
def kStep (f : Nat) (sat : Bool) (ps : List (Nat × Nat)) (s : Int) (mode : Rm) (y : Word) : Word :=
  match mmaFmts f with
  | some (fa, fb) => chunk fa fb ps s y mode
  | none =>
    let x := y.toInt + (ps.map fun p => intOfBits true (mmaBits f) p.1 * intOfBits true (mmaBits f) p.2).sum
    if sat then satS32 x else BitVec.ofInt 32 x

/-- One output over all the k-steps of an op, from an A row and, for each k, the run of B's elements that its chunk reads (R272). -/
def mmaOut (f sh : Nat) (sat : Bool) (word : Word) (row : List Byte) (runs : List (List Byte)) (n : Nat) (y : Word) : Word :=
  (List.range (mmaK f sh / mmaKc f)).foldl (fun y t =>
    kStep f sat ((List.range (mmaKc f)).map fun j =>
      let k := t * mmaKc f + j
      (elemAt (mmaBits f) row k, elemAt (mmaBits f) (runs.getD k []) n)) (operandScale word) (operandMode word) y) y

/-- Bytes of B that a column chunk reads for each k: 32 elements (R271). -/
def runBytes (f : Nat) : Nat := 32 * mmaBits f / 8

/-- The runs of B that a column chunk reads, by k, and their addresses (R271). -/
def chunkRuns (f sh b h : Nat) : List (Nat × Nat) :=
  (List.range (mmaK f sh)).map fun k => (k, b + (k * mmaN sh + 32 * h) * mmaBits f / 8)

/-- The index of the accumulator word of a row and of a column of the entry's next chunk. -/
def TileEntry.chunkIndex (e : TileEntry) (row j : Nat) : Nat := accIndex e.coord row (32 * e.chunks + j)

/-- The words that a column chunk of an op computes, from the accumulator and the runs of B read at its grant (R272). -/
def chunkWords (g : Group) (e : TileEntry) (f sh : Nat) (sat : Bool) (runs : List (List Byte)) : List (Nat × Word) :=
  e.rows.flatMap fun r => (List.range 32).map fun j =>
    let i := e.chunkIndex r.1 j
    (i, mmaOut f sh sat e.word r.2 runs j (Acc.read g.acc i))

/-- A word that a column chunk reads cannot be corrected (R31, R291). -/
def chunkBad (g : Group) (e : TileEntry) : Bool :=
  e.rows.any fun r => (List.range 32).any fun j => g.badAcc.contains (e.chunkIndex r.1 j)

/-- The column chunks of an op. -/
def TileOp.columns : TileOp → Nat
  | .mma _ sh _ => mmaN sh / 32
  | _ => 0

/-- The entry may be granted its next chunk (R277, R289): its rows are gathered, the warp's earlier entries are performed,
and its group is resident, or the op is running. -/
def grantable (g : Group) (w : Warp) (e : TileEntry) : Bool :=
  e.op.isMma && (match w.tileQ.head? with | some x => x.seq == e.seq && x.op.isMma | none => false) &&
    (match e.st with | .ready => g.status == .resident | .running => true | _ => false) && decide (e.chunks < e.op.columns)

/-- The entries of a core that may be granted a chunk, each with its group and warp. -/
def State.grantList (s : State) (core : Nat) : List (Group × Warp × TileEntry) :=
  (s.warpsOn core).flatMap fun x => (x.2.tileQ.filter (grantable x.1 x.2)).map fun e => (x.1, x.2, e)

/-- The engine computes a chunk, or waits for its check (R42, R277). -/
def State.engineBusy (s : State) (core : Nat) : Bool := (s.warpsOn core).any fun x => x.2.tileQ.any fun e => e.granted.isSome

/-- The first of two candidates is ranked before the second (R277): an op with a chunk of a group that leaves, then priority, then age. -/
def outranks (a b : Group × Warp × TileEntry) : Bool :=
  let first (x : Group × Warp × TileEntry) : Bool := x.1.status != .resident && decide (0 < x.2.2.chunks)
  if first a != first b then first a
  else if a.1.prio != b.1.prio then decide (b.1.prio < a.1.prio)
  else decide (a.2.2.age ≤ b.2.2.age)

/-- The candidate that the arbiter picks. -/
def pickGrant : List (Group × Warp × TileEntry) → Option (Group × Warp × TileEntry)
  | [] => none
  | x :: r =>
    match pickGrant r with
    | none => some x
    | some y => if outranks x y then some x else some y

/-- The power rule lets the engine go from idle to active (R278, R336, R337, R409). -/
def State.powerOk (s : State) (core : Nat) (g : Group) : Bool :=
  (s.coreAt core).engineActive ||
    (let d := dieOf core
     let active := ((s.cores.drop (24 * d)).take 24).countP (·.engineActive)
     !((s.dies.map (·.hot)).getD d false) && decide (active < 6 * min g.desc.draw ((s.dies.map (·.ceiling)).getD d 4)))

/-- The grant of a chunk to an op whose warp stands in the issue stage: its words are computed from what the accumulator and
B hold now; a page that is being switched makes it wait, an operand byte or an accumulator word that cannot be corrected stops the op
(R272, R291). -/
def State.grantTo (s : State) (e : TileEntry) : Option State :=
  match e.op with
  | .mma f sh sat =>
    (s.scratchRows (runBytes f) (chunkRuns f sh (operandB e.word) e.chunks)).map fun x =>
      let t := x.1
      if !x.2.2.isEmpty || chunkBad t.g e then t.tileStop e .eccUncorr
      else { t with w := t.w.setTile { e with st := .running, granted := some (chunkWords t.g e f sh sat (x.2.1.map (Prod.snd : Nat × List Byte → List Byte))) } }.updCore t.g.core
        fun k => { k with engineActive := true }
  | _ => none

/-- COLUMN_CHUNK_GRANT (R277): The arbiter grants the next column chunk of the chosen op; a check of a column holds every
grant (R35, R42, R440). -/
def execColumnChunkGrant (core : Nat) (s : State) : Result :=
  .next <|
    if (s.coreAt core).colCheck || (s.coreAt core).mowing.any (·.1 == .column) || s.engineBusy core then s
    else match pickGrant (s.grantList core) with
      | none => s
      | some (g, w, e) =>
        if !s.powerOk core g then s
        else match s.load { g := g.ref, w := w.wid } with
          | none => s
          | some t => ((t.grantTo e).map State.park).getD s

/-- The chunk under way on a core. -/
def State.running (s : State) (core : Nat) : Option (Group × Warp × TileEntry) :=
  (s.warpsOn core).findSome? fun x => (x.2.tileQ.find? fun e => e.granted.isSome).map fun e => (x.1, x.2, e)

/-- A chunk's words written together; the last one performs the op (R272, R280). -/
def State.chunkWritten (s : State) (e : TileEntry) : State :=
  let s1 := { s with g := s.g.putAcc (e.granted.getD []) }
  let e1 := { e with chunks := e.chunks + 1, granted := none, divs := 0 }
  { s1 with w := if e1.op.columns ≤ e1.chunks then s1.w.dropTile e1 else s1.w.setTile e1 }

/-- The first column of a chunk whose shadow values of an mma's outputs differ from them (R39, R40): each a row of the op and a column of
the chunk. The outputs of the integer formats have none. Where several columns diverge at once this one alone is checked (DESIGN CHOICE,
log entry 119). -/
def TileEntry.divergence (e : TileEntry) (shadows : List ShadowReading) : Option Nat :=
  match e.op with
  | .mma f _ _ =>
    if f < 7 then (List.range 32).find? fun j => shadows.any fun r => r.elem == 0 && r.lane == j && (e.granted.getD []).any fun x =>
      x.1 == e.chunkIndex r.at_ j && Fmt.f32.diverges x.2.toNat r.val
    else none
  | _ => none

/-- The engine of a core is live (R31). -/
def Core.engineLive (k : Core) : Bool := decide (8 ≤ k.colTable.length)

/-- The physical columns of the 32 logical ones (R30): none when the engine is retired. -/
def Core.logicalCols (k : Core) : List Nat :=
  if k.engineLive then (List.range 32).map fun j => k.colTable.getD (j % k.colTable.length) 0 else []

/-- COLUMN_CHUNK_DONE (R272): A column chunk's 96 × 32 words are written, possibly completing the op and its commit group;
a chunk that diverged is discarded and waits for the check of its column (R42). -/
def execColumnChunkDone (core : Nat) (shadows : List ShadowReading) (s : State) : Result :=
  .next <|
    match s.running core with
    | none => s
    | some (g, w, e) =>
      if e.rerun then s
      else match s.load { g := g.ref, w := w.wid } with
        | none => s
        | some t => (match e.divergence shadows with
          | some j => { t with w := t.w.setTile { e with rerun := true, suspect := (s.coreAt core).logicalCols[j]? } }
          | none => t.chunkWritten e).park

/-- ENGINE_IDLE (R278): An engine that has started no chunk for 64 cycles becomes idle. -/
def execEngineIdle (core : Nat) (s : State) : Result :=
  .next (if s.engineBusy core then s else s.updCore core fun k => { k with engineActive := false })

/-! ### Accumulator moves (R284..R286) -/

/-- A scratchpad element widened into an accumulator word (R284). -/
def widenTo (f x : Nat) : Word :=
  match f with
  | 1 => BitVec.ofNat 32 (Fmt.f32.pack .rne (Fmt.f16.val x))
  | 2 => BitVec.ofNat 32 (Fmt.f32.pack .rne (Fmt.bf16.val x))
  | _ => BitVec.ofNat 32 x

/-- A value times 2^s (R284). -/
def FVal.scale : FVal → Int → FVal
  | .fin g m e, s => .fin g m (e + s)
  | v, _ => v

/-- An accumulator word converted into a scratchpad element (R284). -/
def narrowTo (f : Nat) (s : Int) (mode : Rm) (y : Word) : Nat :=
  let v := (Fmt.f32.val y.toNat).scale s
  match f with
  | 0 => y.toNat
  | 1 => Fmt.f16.pack mode v
  | 2 => Fmt.bf16.pack mode v
  | 3 => Fmt.e4m3.pack mode v
  | 4 => packE4m3Nan mode v
  | 5 => Fmt.e5m2.pack mode v
  | 6 => (clampInt (-128) 127 y.toInt % 256).toNat
  | _ => (clampInt (-32768) 32767 y.toInt % 65536).toNat

/-- A lane's n accumulator words from the entry's coordinate have one that cannot be corrected (R31). -/
def Group.accBad (g : Group) (e : TileEntry) (n l : Nat) : Bool :=
  (List.range n).any fun j => g.badAcc.contains (accIndex e.coord l j)

/-- The lanes of a move that reads accumulator words fail where one cannot be corrected (R33, R221). -/
def Group.accFails (g : Group) (e : TileEntry) (n : Nat) (ls : List Nat) : List LaneFail :=
  (ls.filter (g.accBad e n)).map fun l => { lane := l, cause := .eccUncorr, addr := 0 }

/-- A move performed on the accumulator, the scratchpad or the registers (R285), and the lanes that fail (DEDUCED, log
entry 28); none while a page held in memory waits. -/
def State.moveRun (s : State) (e : TileEntry) : Option (State × List LaneFail) :=
  let acc (ps : List (Nat × Word)) (s : State) : State := { s with g := s.g.putAcc ps }
  match e.op with
  | .tzero w => some (acc ((lanesIn e.act).flatMap fun l => (List.range w).map fun n => (accIndex e.coord l n, 0)) s, [])
  | .tfill m data =>
    some (acc ((lanesIn e.act).flatMap fun l => (List.range m).map fun j => (accIndex e.coord l j, laneAt (data.getD j (Vector.replicate 96 0)) l)) s, [])
  | .tget m v =>
    let bad := s.g.accFails e m (lanesIn e.act)
    let ok := (lanesIn e.act).filter fun l => !s.g.accBad e m l
    some ({ s with w := s.w.lateRegs e.seq (·.putLanes v m (ok.map fun l => (l, (List.range m).map fun j => Acc.read s.g.acc (accIndex e.coord l j)))) }, bad)
  | .tld f w =>
    let sz := moveSize f
    (s.scratchRows (w * sz) e.addrs).map fun x =>
      (acc (x.2.1.flatMap fun r => (List.range w).map fun n => (accIndex e.coord r.1 n, widenTo f (field r.2 (sz * n) sz))) x.1, x.2.2)
  | .tst f w =>
    let bad := s.g.accFails e w (e.addrs.map (·.1))
    let ok := e.addrs.filter fun x => !s.g.accBad e w x.1
    some (ok.foldl (fun s x => s.scratchWrite x.2 ((List.range w).flatMap fun n =>
      leBytes (moveSize f) (narrowTo f (operandScale e.word) (operandMode e.word) (Acc.read s.g.acc (accIndex e.coord x.1 n))))) s, bad)
  | _ => some (s, [])

/-- Bytes of the scratchpad that each lane of a move touches. -/
def TileOp.laneBytes : TileOp → Nat
  | .tld f w => w * moveSize f
  | .tst f w => w * moveSize f
  | _ => 0

/-- A move writes scratchpad bytes or registers that wait (R36, R216). -/
def State.moveWaits (s : State) (e : TileEntry) : Bool :=
  match e.op with
  | .tst _ _ => e.addrs.any fun x => s.scratchHeld x.2 e.op.laneBytes
  | .tget m v => s.bankHeld (rvrun v m) (lanesIn e.act)
  | _ => false

/-- The move that heads its warp's tile queue is performed (R286); a page that is being switched makes it wait. The words that a tget
writes whole are good again (R33). -/
def State.moveDone (s : State) : Option State :=
  match s.w.tileQ with
  | [] => none
  | e :: _ =>
    if !e.op.isMove || s.g.status != .resident || s.moveWaits e then none
    else
      (s.w.entryAt e.seq 5).bind fun x => (s.moveRun e).map fun r =>
        let w := r.1.w.dropTile e
        let ok (l : Nat) : Bool := e.act.getLsbD l && !(r.2.any (·.lane == l))
        { r.1 with w := { w with badRegs := w.badRegs.filter fun y => !(x.writes.contains (.v y.1) && ok y.2) } }.finish { x with fails := r.2 }

/-- ACC_MOVE_PERFORMED (R286): An accumulator move runs on the move port and its TIL entry completes. -/
def execAccMovePerformed (r : WRef) : State → Result := onWarp r (·.moveDone)

end Sys2Proof.Machine
end

