-- ==== Sys2Proof/Machine/Emit.lean ====
section
/-!
DEFINITION. Major 0x2C: nemit (17_queue.md R357, R358) and coll (20_link.md R397).
-/
namespace Sys2Proof.Machine

/-- The binding of a node number of a context. -/
def State.nodeOf (s : State) (ctx num : Nat) : Option Node := s.nodes.find? fun n => n.ctx == ctx && n.num == num

/-- NEMIT (R357): Emits one 16-byte record per active lane to a bound node's queue. The release at dev and the offer are
performed as the entry reaches the baler, in issue order (NODE_RECORD_OFFER). -/
def execNemit (n v : BitVec 7) : State → Result :=
  slotDo { wf := v.toNat % 4 == 0, vtop := v.toNat + 4, reads := rs n :: rvrun v.toNat 4, lane := true, path := some 4, mem := true } fun s =>
    let num := (s.src.sget n).toNat % 256
    if s.g.desc.determ || (s.nodeOf s.g.ref.ctx num).isNone then .trap (s.trapOf .prot)
    else .done (s.enqueue (s.entryOf 4 (.nemit num) 0
      ((lanesIn s.active).map fun l => { lane := l, va := 0, drop := false, data := laneData s.src v.toNat 4 l, len := 16 }) []))

/-- COLL (R397): Enters one entry for a 64-byte collective record in the warp's collective queue. -/
def execColl (a : BitVec 7) : State → Result :=
  slotDo { wf := even a, reads := rspair a, mem := true } fun s =>
    let va := s.src.addrPair a
    if va % 64 != 0 then .trap (s.addrTrap .misalign va)
    else .done { s with w := { s.w with collQ := s.w.collQ ++
      [{ set := s.iss.setNo, pc := s.iss.at_, clk0 := s.w.clk, addr := va, fence := none, record := none, peers := [], written := false }] } }

end Sys2Proof.Machine
end

