-- ==== Sys2Proof/Machine/Warp.lean ====
section
/-!
DEFINITION. The faults that a packet and a slot word raise at decode (03_packet.md R74, R89, R90, R95), and the
events of a warp's own: sleep, halts, instruction-cache fills, walks (04_warp.md R108, R109; 05_scalar.md R138; 14_group.md R309).
-/
namespace Sys2Proof.Machine

/-! ### Decode faults -/

/-- ILL_PACKET (R74): A packet whose header is malformed traps at slot 0 with no slot issued. -/
def execIllPacket (s : State) : Result := .next (takeTrap (s.trapOf .illPacket) s)

/-- ILL_OP (R90): A slot whose word is reserved or unassigned, or whose fields are not well formed, raises ILL_OP at decode. -/
def execIllOp (_w : BitVec 32) (s : State) : Result := .next (takeTrap (s.trapOf .illOp) s)

/-- FUTURE_OP (R95): A slot with a major in 0x38..0x3F raises FUTURE_OP, changing no state. -/
def execFutureOp (_w : BitVec 32) (s : State) : Result := .next (takeTrap (s.trapOf .futureOp) s)

/-! ### Fetch (R96, R97) -/

/-- A line of code can be read at its home: an executable page whose sector reads well. -/
def State.codeLine (s : State) (core ctx va : Nat) : Xl × State :=
  match s.translate core ctx va false with
  | (.ok pa t, s1) =>
    if !t.x then (.fail .fetchFault, s1)
    else match s1.homeFails pa 128 t.key true with
      | some .eccUncorr => (.fail .eccUncorr, s1.afterFail .eccUncorr t.key pa)
      | some _ => (.fail .fetchFault, s1)
      | none => (.ok pa t, s1)
  | (.away, _) => (.away, s)
  | (.fail .eccUncorr, s1) => (.fail .eccUncorr, s1)
  | (.fail _, s1) => (.fail .fetchFault, s1)

/-- The lines of an ipf as it issues (R140, R430): one that the core holds or is filling is left alone, one whose translation fails is
dropped, and a fill starts for any other. -/
def State.prefetchLines (s : State) (core ctx : Nat) : List Nat → State
  | [] => s
  | va :: rest =>
    if (s.coreAt core).icache.any (fun l => l.ctx == ctx && l.va == va) || (s.coreAt core).ifills.contains (ctx, va) then
      s.prefetchLines core ctx rest
    else match s.translate core ctx va false with
      | (.ok _ t, s1) => (if t.x then s1.updCore core fun k => k.startFills ctx [va] else s1).prefetchLines core ctx rest
      | (.fail .eccUncorr, s1) => s1.prefetchLines core ctx rest
      | _ => s.prefetchLines core ctx rest

/-- IPF (R140): Prefetches m instruction-cache lines at a line offset from the packet, without faulting. -/
def execIpf (m : BitVec 7) (i : BitVec 7) : State → Result :=
  slotDo { wf := decide (1 ≤ m.toNat) && decide (m.toNat ≤ 4), imm := some i } fun s =>
    .done (s.prefetchLines s.iss.core s.g.ref.ctx (s.ipfLines m.toNat (immVal i s.iss.lits)))

/-- IFETCH_FILL_DONE (R97): An instruction-cache line fill arrives and stalled warps fetch from it. A fill of a line that
cannot be read, or whose page is not present, leaves nothing (R98, R140, R427) but the poison of a bad sector (R390); a warp that waits for the line walks again. -/
def execIfetchFillDone (core ctx va : Nat) (s : State) : Result :=
  .next <|
    if !(s.coreAt core).ifills.contains (ctx, va) then s
    else
      let gone (s : State) : State := s.updCore core fun k => { k with ifills := k.ifills.filter (· != (ctx, va)) }
      match s.codeLine core ctx va with
      | (.ok pa _, s1) =>
        gone (s1.updCore core fun k => { k with icache := codePut k.icache { ctx := ctx, va := va, data := s1.homeRead pa 128 } })
      | (.away, _) => gone s
      | (.fail .eccUncorr, s1) => gone s1
      | (.fail _, _) => gone s

/-- TRANSLATION_WALK_DONE (R377): A page walk ends, installing a translation or reporting a fault to the accesses that
joined it, which take it as they go on. -/
def execTranslationWalkDone (core ctx va : Nat) (s : State) : Result :=
  .next <| match s.walkIn core ctx va false with
    | (.ok _ _, t) => t
    | (.fail .eccUncorr, t) => t
    | _ => s

/-! ### Sleep, halts and the watchdog -/

/-- SLEEP_TIMER_LAPSE (R138): A sleeping warp's timer lapses and it becomes ready. -/
def execSleepTimerLapse (r : WRef) : State → Result :=
  onWarp r fun s =>
    if s.w.status = .sleeping ∧ s.g.status = .resident then some { s with w := { s.w with status := .ready, sleepLeft := 0 } } else none

/-- HALT_BROADCAST (R309): A sibling warp that has received a halt broadcast stops, within 4 packets (R310). -/
def execHaltBroadcast (r : WRef) : State → Result :=
  onWarp r fun s => if s.w.bcast && s.w.running then some { s with w := s.w.stop s.w.pc s.w.skid } else none

/-- WATCHDOG (R309): A resident group retiring no slot for the watchdog interval raises WATCHDOG, attributed to warp 0 and
imprecise; the interval 0 disables it (DESIGN CHOICE, log entry 29). -/
def execWatchdog (g : GRef) : State → Result :=
  onWarp { g := g, w := 0 } fun s =>
    match s.ctxOf g.ctx with
    | none => none
    | some c =>
      if c.watchdog = 0 ∨ s.g.status ≠ .resident then none
      else some (s.raiseAfter (s.lateTrap .watchdog s.w.pc 0 none) (s.w.clk - 1))

end Sys2Proof.Machine
end

