-- ==== Sys2Proof/Machine/Group.lean ====
section
/-!
DEFINITION. Groups between core and memory (14_group.md): room on a core and placement (R293..R298), scratchpad
frames (R27, R296), the image pool (R292, R300), leaving a core (R299..R305), the gleaning (R306), migration
(R308), halts (R309), and their events.
-/
namespace Sys2Proof.Machine

/-! ### Room on a core (R6, R17, R20, R25, R294, R295) -/

/-- The live width of a partition (R17). -/
def Partition.width (p : Partition) : Nat := p.lanes.countP (· == .live)

/-- The effective width 96 / B_full times 840, which every beat count of R20 divides; 0 for a partition that has retired. -/
def Partition.effective (p : Partition) : Nat :=
  if p.retiredWhole || p.width < 12 then 0 else 96 * 840 / ((96 + p.width - 1) / p.width)

/-- Registers per lane that a partition has (R25). -/
def Partition.budget (p : Partition) : Nat := if p.bankOf.eraseDups.length < p.bankOf.length then 512 else 1024

/-- The live partitions of a core, in rank order. -/
def Core.liveParts (k : Core) : List Nat :=
  (List.range k.parts.length).filter fun i => !((k.parts.map (·.retiredWhole)).getD i true)

/-- The core on which a group holds slots, registers and units, or for which it is reserved: the one that it leaves to the end of its
leaving (R299 step 7). -/
def Group.seat (g : Group) : Option Nat :=
  if g.leaving then some g.core
  else if g.away || g.status == .pending then g.target else if g.status == .retired then none else some g.core

/-- The groups seated on a core. -/
def State.seated (s : State) (core : Nat) : List Group := s.groups.filter fun g => g.status != .retired && g.seat == some core

/-- Warps of a group that hold a slot of a partition: those that have not exited (R294, R295). -/
def Group.slotsOn (g : Group) (part : Nat) : Nat := g.warps.countP fun w => w.part == part && w.status != .exited

/-- Free warp slots of a partition beside some groups. -/
def freeSlots (gs : List Group) (part : Nat) : Nat := 16 - (gs.map (·.slotsOn part)).sum

/-- Registers per lane of a partition that some groups hold. -/
def usedRegs (gs : List Group) (part : Nat) : Nat := (gs.map fun g => g.slotsOn part * g.desc.vregs).sum

/-- The position of the largest number of a list, the first on a tie. -/
def maxAt (l : List Nat) : Nat := (List.range l.length).foldl (fun b i => if l.getD b 0 < l.getD i 0 then i else b) 0

/-- The partition of a warp on a core beside some groups (R295). -/
def Core.partFor (k : Core) (gs : List Group) (wid : Nat) : Nat :=
  let live := k.liveParts
  let q := maxAt (live.map (freeSlots gs))
  live.getD ((q + wid) % live.length) 0

/-- A group with its warps distributed over a core. -/
def Core.spread (k : Core) (gs : List Group) (g : Group) : Group :=
  { g with warps := g.warps.map fun w => { w with part := k.partFor gs w.wid } }

/-- A core holds a group beside some others (R6, R294). -/
def Core.fits (k : Core) (gs : List Group) (g : Group) : Bool :=
  let h := k.spread gs g
  !k.liveParts.isEmpty && decide (gs.length < 16) &&
  k.liveParts.all (fun i =>
    decide (h.slotsOn i ≤ freeSlots gs i) &&
    decide (usedRegs gs i + h.slotsOn i * g.desc.vregs ≤ ((k.parts.map (·.budget)).getD i 0))) &&
  decide ((gs.map (·.desc.units)).sum + g.desc.units ≤ 21) && (g.desc.units == 0 || k.engineLive)

/-- The score of a core beside some groups (R294), times 840. -/
def Core.score (k : Core) (gs : List Group) : Nat :=
  (k.parts.map (·.effective)).sum * (k.liveParts.map (freeSlots gs)).sum

/-- The cores of the dies admitted for a context that placement may use (R293, R411). -/
def State.admitted (s : State) (ctx : Nat) : List Nat :=
  match s.ctxOf ctx with
  | none => []
  | some c => (List.range 192).filter fun k => c.dies.getLsbD (dieOf k) && !(s.coreAt k).vacated

/-- The other groups seated on a core. -/
def State.others (s : State) (core : Nat) (g : Group) : List Group := (s.seated core).filter (·.ref != g.ref)

/-- The eligible core with the largest score, the lowest number on a tie (R294). -/
def State.bestCore (s : State) (g : Group) : Option Nat :=
  ((s.admitted g.ref.ctx).filter fun k => (s.coreAt k).fits (s.others k g) g).foldl (fun b k =>
    match b with
    | none => some k
    | some j => if (s.coreAt j).score (s.others j g) < (s.coreAt k).score (s.others k g) then some k else some j) none

/-! ### Scratchpad frames (R27, R214, R296) -/

/-- Frames of a core (R27). -/
def Core.frames (k : Core) : Nat := 4 * k.sbankRanks.length

/-- The frames that a group's pages hold or move to. -/
def Group.framesHeld (g : Group) : List Nat :=
  g.pages.flatMap fun p =>
    (if p.valid && !p.inMem then [p.index] else []) ++ (match p.toward with | some (false, i) => [i] | _ => [])

/-- The free frames of a core, lowest first. -/
def State.freeFrames (s : State) (core : Nat) : List Nat :=
  let held := ((s.groups.filter fun g => (!g.away || g.leaving) && g.status != .retired && g.status != .pending && g.core == core).flatMap (·.framesHeld))
  (List.range (s.coreAt core).frames).filter fun f => !held.contains f

/-- The pages of a window placed in frames in increasing page number, those without one in the scratch image (R296). -/
def placePages (n : Nat) (free : List Nat) : List Page :=
  (List.range 128).map fun i =>
    if n ≤ i then { valid := false, inMem := false, index := 0, toward := none }
    else match free[i]? with
      | some f => { valid := true, inMem := false, index := f, toward := none }
      | none => { valid := true, inMem := true, index := i, toward := none }

/-- A list put in order by a relation. -/
def insertBy {α : Type} (le : α → α → Bool) (x : α) : List α → List α
  | [] => [x]
  | y :: r => if le x y then x :: y :: r else y :: insertBy le x r

/-- A list sorted by a relation; equals keep their order. -/
def sortBy {α : Type} (le : α → α → Bool) (l : List α) : List α := l.foldr (insertBy le) []

/-- Freed frames offered to resident groups that have pages in memory: higher priority first, then the group dispatched
earliest, lowest page first; each page moves under the switch rule (R216, R296). -/
def State.offerFrames (s : State) (core : Nat) : State :=
  let gs := sortBy (fun a b => decide (b.prio < a.prio) || (a.prio == b.prio && decide (a.dispatchNo ≤ b.dispatchNo)))
    (s.groups.filter fun g => g.status == .resident && !g.away && g.core == core)
  let wanted := gs.flatMap fun g => ((List.range g.pages.length).filter fun i =>
    match g.pages[i]? with | some p => p.valid && p.inMem && p.toward.isNone | none => false).map fun i => (g.ref, i)
  (wanted.zip (s.freeFrames core)).foldl (fun s x =>
    { s with groups := s.groups.map fun g =>
        if g.ref = x.1.1 then { g with pages := g.pages.modify x.1.2 fun p => { p with toward := some (false, x.2) } } else g }) s

/-! ### The image pool (R292, R300, R363) -/

/-- Two runs of pages meet. -/
def runsMeet (a b : Nat × Nat) : Bool := decide (a.1 < b.1 + b.2) && decide (b.1 < a.1 + a.2)

/-- An area of the context's image pool, at one of the places that are free (log entry 23); its virtual address. `k` tells the
areas that one step takes apart. -/
def State.reserveArea (s : State) (ctx pages k : Nat) : Option (Nat × State) :=
  match s.ctxOf ctx with
  | none => none
  | some c =>
    let free := (List.range (c.poolPages + 1 - pages)).filter fun i => !(c.poolUsed.any (runsMeet (i, pages)))
    match free[Config.freePlace (8 * s.tick + k) % free.length]? with
    | none => none
    | some i => some (c.poolBase + 4096 * i, s.updCtx ctx fun c => { c with poolUsed := (i, pages) :: c.poolUsed })

/-- The image's area holds n bytes behind the accumulator rows: where it lies, when the pages that follow it are free, else at another
place that the pool has for all of it (R300, R301) (log entry 23). The image is not written yet. -/
def State.growImage (s : State) (n : Nat) : Option State :=
  let ctx := s.g.ref.ctx
  (s.ctxOf ctx).bind fun c =>
    let i := (s.g.image - c.poolBase) / 4096
    let p := s.g.desc.imageSize / 4096
    let q := n / 4096
    let rest := c.poolUsed.filter (·.1 != i)
    if i + p + q ≤ c.poolPages ∧ !(rest.any (runsMeet (i, p + q))) then
      some { s.updCtx ctx (fun c => { c with poolUsed := (i, p + q) :: rest }) with g := { s.g with returnSpace := n } }
    else
      ((s.updCtx ctx fun c => { c with poolUsed := rest }).reserveArea ctx (p + q) 3).map fun x =>
        { x.2 with g := { s.g with image := x.1, returnSpace := n } }

/-- The pages of the return slots given back once they have been emptied (R306). -/
def State.shrinkImage (s : State) (g : Group) : State :=
  if g.returnSpace = 0 then s
  else s.updCtx g.ref.ctx fun c => { c with poolUsed := c.poolUsed.map fun x =>
    if c.poolBase + 4096 * x.1 = g.image then (x.1, g.desc.imageSize / 4096) else x }

/-- An area given back to the pool. -/
def State.freeArea (s : State) (ctx va : Nat) : State :=
  if va = 0 then s
  else s.updCtx ctx fun c => { c with poolUsed := c.poolUsed.filter fun x => c.poolBase + 4096 * x.1 != va }

/-- A page of a scratch image starts zero, and no cache keeps what an earlier group left there (R444). -/
def State.clearPage (s : State) (ctx va : Nat) : State :=
  let t : State := match s.peek noCore ctx va true with
    | .ok pa _ => { s with cores := s.cores.map fun k => { k with l1 := k.l1.filter fun l => l.base / 4096 != pa / 4096 } }
    | _ => s
  t.fwPut ctx va (List.replicate 4096 0)

/-- The areas of a group that starts: its image, its scratch image of 128 pages, those of its window cleared, and its staging area in a
deterministic launch (R292, R301, R339, R444). -/
def State.reserveGroup (s : State) (g : Group) : Option (Group × State) :=
  (s.reserveArea g.ref.ctx (g.desc.imageSize / 4096) 0).bind fun a =>
    (a.2.reserveArea g.ref.ctx 128 1).bind fun b =>
      let cleared (t : State) : State := (List.range g.desc.pages).foldl (fun u i => u.clearPage g.ref.ctx (b.1 + 4096 * i)) t
      if g.desc.determ then
        (b.2.reserveArea g.ref.ctx (g.desc.stagingBytes / 4096) 2).map fun c =>
          ({ g with image := a.1, scratchImage := b.1, stagingArea := c.1 }, cleared c.2)
      else some ({ g with image := a.1, scratchImage := b.1 }, cleared b.2)

/-! ### Tables -/

/-- An event of a group: the group stands in the issue stage, and is put back with what its warps have become. -/
def onGroup (r : GRef) (f : State → Option State) (s : State) : Result :=
  .next <| match s.groupOf r with
    | none => s
    | some g => ((f { s with g := g, w := (g.warps.head?).getD s.w }).map fun t => t.putGroup t.g).getD s

/-- A launch's record changed. -/
def State.updLaunch (s : State) (ctx seq : Nat) (f : Launch → Launch) : State :=
  { s with launches := s.launches.map fun l => if l.ctx = ctx ∧ l.seq = seq then f l else l }

/-- A group put into the tables, or appended to them when they do not hold it. -/
def State.setGroup (s : State) (g : Group) : State :=
  if (s.groupOf g.ref).isSome then s.putGroup g else { s with groups := s.groups ++ [g] }

/-- A core and launch that has acquired at the packet's scope on this core (R350). -/
def State.launchRuns (s : State) (g : Group) (core : Nat) : State :=
  s.updLaunch g.ref.ctx g.ref.seq fun l =>
    { l with acqCores := if l.acqCores.contains core then l.acqCores else core :: l.acqCores,
             ranCores := if l.ranCores.contains core then l.ranCores else core :: l.ranCores }

/-- The place in the device-wide order of selections and placements (R293). -/
def State.numbered (s : State) (g : Group) : Group × State :=
  ({ g with dispatchNo := s.dispatchNo }, { s with dispatchNo := s.dispatchNo + 1 })

/-- The standing of warps that are placed: each counts as having issued, in increasing wid order (R110). -/
def State.stand (s : State) (g : Group) : Group × State :=
  ({ g with warps := g.warps.map fun w => { w with lastIssue := s.issueNo + w.wid } }, { s with issueNo := s.issueNo + g.warps.length })

/-! ### Starting a group (R292..R296, R105..R107, R314) -/

/-- The warp of a group at its launch (R105..R107). -/
def launchWarp (d : Desc) (arg : Nat) (gx gy gz : Word) (mask : LaneMask) (wid : Nat) : Warp :=
  let r := Regs.zero
  let r := (r.sset 0 (BitVec.ofNat 32 arg)).sset 1 (BitVec.ofNat 32 (arg / 2 ^ 32 % 2 ^ 16))
  let r := ((r.sset 2 gx).sset 3 gy).sset 4 gz
  { Warp.fresh wid d.vregs (d.entry + 4) with regs := (r.sset 5 (BitVec.ofNat 32 wid)).maskSet mask, status := .created }

/-- The lanes of a warp that start active among the first n of the group (R107). -/
def firstLanes (n wid : Nat) : LaneMask := maskOf fun l => decide (96 * wid + l < n)

/-- Group i of a grid launch before its placement. -/
def Launch.group (l : Launch) (i : Nat) : Group :=
  let x := BitVec.ofNat 32 (i % l.dx)
  let y := BitVec.ofNat 32 (i / l.dx % l.dy)
  let z := BitVec.ofNat 32 (i / l.dx / l.dy)
  let active (w : Nat) : LaneMask :=
    if l.desc.partialOk && i + 1 == l.dx * l.dy * l.dz then firstLanes l.items w else BitVec.allOnes 96
  { Group.fresh { ctx := l.ctx, seq := l.seq, lgi := i } l.desc with
    gx := x, gy := y, gz := z, dx := BitVec.ofNat 32 l.dx, dy := BitVec.ofNat 32 l.dy, dz := BitVec.ofNat 32 l.dz, prio := l.prio,
    warps := (List.range l.desc.warps).map fun w => launchWarp l.desc l.arg x y z (active w) w }

/-- A pending group starts on a core: its warps become ready, its pages take frames, and the core acquires at the packet's scope
for the launch's first group there, at dev for every node group (R110, R295, R296, R350, R357). -/
def State.startOn (s : State) (g : Group) (core : Nat) : State :=
  let l := s.launchOf g.ref.ctx g.ref.seq
  let h := (s.coreAt core).spread (s.others core g) g
  let (h, s) := s.numbered h
  let (h, s) := s.stand h
  let h := { h with status := .resident, core := core, target := none, pages := placePages h.desc.pages (s.freeFrames core),
                    warps := h.warps.map fun w => { w with status := .ready } }
  let acquires := match l with | some l => l.node.isSome || (l.acquire != 0 && !l.acqCores.contains core) | none => false
  ((if acquires then s.dropClean core else s).launchRuns g core).setGroup h

/-- An evicted group is selected: it is gleaned on the core (R292, R306). -/
def State.resumeOn (s : State) (g : Group) (core : Nat) : State :=
  let h := (s.coreAt core).spread (s.others core g) g
  let (h, s) := s.numbered h
  s.setGroup { h with status := .resuming, target := some core }

/-- The selected group is placed on a core. -/
def State.placeOn (s : State) (g : Group) (core : Nat) : State :=
  if g.status = .evicted then s.resumeOn g core else s.startOn g core

/-! ### Leaving a core (R299..R305) -/

/-- An eviction of a group begins (R292): the group stops issuing. A migration is abandoned. -/
def Group.leave (g : Group) : Group :=
  match g.status with
  | .resident => { g with status := .evicting }
  | .resuming => { g with status := .evicting }
  | .migrating => { g with status := .evicting, task := none }
  | _ => g

/-- The evictions of several groups begin. -/
def State.evictAll (s : State) (rs : List GRef) : State :=
  { s with groups := s.groups.map fun g => if rs.contains g.ref then g.leave else g }

/-- The warp has come to the point of step 4 (R299): it has stopped, the results of its lane instructions are written, and its
scratchpad accesses and stores are performed. -/
def Warp.canLeave (w : Warp) : Bool :=
  (w.windows.all fun x => x.ready || x.entry.isSome) && (w.entries.all fun e => e.done || !(e.path == 1 || e.path == 2)) &&
  w.tileQ.all fun e => e.st != .running

/-- The warp holds no core any more: it has exited, or it is on its way out. -/
def Warp.stopped (w : Warp) : Bool :=
  match w.status with | .exited => true | .halted => true | .draining => true | .evicted => true | _ => false

/-- The return area fits in the pool, or is held already (R300). -/
def State.returnsReady (s : State) : Option State :=
  if s.g.returnSize ≤ s.g.returnSpace then some s else s.growImage s.g.returnSize

/-- A tile entry as it is saved: not running, without operands in a latch (R289, R290). -/
def TileEntry.save (e : TileEntry) : TileEntry :=
  match e.op with
  | .fence _ => e
  | _ => { e with st := .saved, rows := [] }

/-- A warp as it is captured (R299, R301). -/
def Warp.captured (sc : DWord) (w : Warp) : Warp :=
  { w with
    saved := if w.status = .halted ∨ w.status = .exited then w.saved else w.status,
    status := if w.status = .halted ∨ w.status = .exited then w.status else .evicted,
    packet := none, slots := w.slotted, tileQ := w.tileQ.map (·.save), scSaved := sc, bcast := false }

/-- A page of the window written from its frame to the scratch image; older copies of it leave the core's L1 (R215, R216). None while
the image's page is not present or its granule is being copied (R378, R387). A word that ECC cannot correct stays lost for the group, the
bytes of the image being plain (DESIGN CHOICE, log entry 125). -/
def State.spillPage (s : State) (i : Nat) : Option State :=
  let va := s.g.imageVa (4096 * i)
  if !s.fwReady s.g.ref.ctx va 4096 then none
  else
    let s1 := match s.peek s.g.core s.g.ref.ctx va true with
      | .ok pa _ => s.updCore s.g.core fun k => { k with l1 := k.l1.filter fun l => l.base / 4096 != pa / 4096 }
      | _ => s
    some (s1.fwPut s.g.ref.ctx va (s.g.scratchRead (4096 * i) 4096))

/-- The page lies in a frame. -/
def Page.framed (p : Page) : Bool := p.valid && !p.inMem

/-- A page of the window as the scratch image holds it. -/
def Page.spilled (p : Page) (i : Nat) : Page := { p with inMem := p.valid, index := if p.valid then i else p.index, toward := none }

/-- The lowest page of the window that is still to leave its frame (R299 step 5). -/
def Group.nextOut (g : Group) : Option Nat := (List.range g.pages.length).find? fun i => (g.pages.getD i default).framed

/-- The switch of the next page of a leaving group begins: pages switch one at a time, in increasing number (R216, R299). -/
def Group.turnOut (g : Group) : Group :=
  match g.nextOut with
  | none => g
  | some i => { g with pages := g.pages.modify i fun p => { p with toward := some (true, i) } }

/-- The pages of a window that lie in frames written to the scratch image and named there (R215, R299). -/
def State.spillPages (s : State) : Option State :=
  let framed := (List.range s.g.pages.length).filter fun i => (s.g.pages.getD i default).framed
  (framed.foldlM State.spillPage s).map fun s1 =>
    { s1 with g := { s1.g with pages := (List.range s1.g.pages.length).map fun i => (s1.g.pages.getD i default).spilled i } }

/-- Steps 2 to 4 of leaving a core (R299): the release, the return area, the diversion entry and the capture of the warps; from then on
arrivals are diverted, and the pages begin to move. None while a step of it waits. -/
def State.divertGroup (s : State) : Option State :=
  let core := s.g.core
  if s.g.away then some s
  else if !(s.g.warps.all (·.canLeave)) || decide (64 ≤ (s.coreAt core).divert.length) then none
  else (s.release 1).bind fun s1 => s1.returnsReady.map fun s2 =>
    let clks := s2.g.warps.map fun w => (w.wid, w.clk)
    let s3 := s2.updCore core fun k => { k with divert := k.divert ++ [{ ref := s2.g.ref, forward := false, clks := clks }] }
    let stays (p : Page) : Page := { p with toward := none }
    { s3 with g := Group.turnOut { s3.g with
        away := true, leaving := true, warps := s3.g.warps.map (Warp.captured (s3.scClockOf core)), pages := s3.g.pages.map stays,
        quantumOver := false } }

/-- The group's state leaves the core for its image, what is left of the steps (R299): none while a step of it waits. -/
def State.capture (s : State) : Option State :=
  s.divertGroup.bind fun t =>
    if t.g.leaving then t.spillPages.map fun u => { u with g := { u.g with leaving := false, target := none, task := none } } else some t

/-! ### Trap queues (R309, R363, R364) -/

/-- A vector of a tenant raised (R362). -/
def State.interrupt (s : State) (tenant v : Nat) : State :=
  { s with tenants := s.tenants.modify tenant fun t => { t with vectors := t.vectors ||| BitVec.twoPow 4 v } }

/-- A trap record placed on the context's trap queue while it has a free slot (R364): none when it is full, or while a page of it is
not present or its granule is being copied (R378, R387). -/
def State.placeTrap (s : State) (c : Context) (r : List Byte) : Option State :=
  (s.fwIndices c.id c.trapBase).bind fun x =>
    let s := x.2.2
    let at_ := c.trapBase + 256 * (x.1 % 2 ^ c.trapLog2)
    if decide (x.1 < x.2.1 + 2 ^ c.trapLog2) && s.fwReady c.id at_ 256 && s.fwReady c.id (c.trapBase - 16) 8 then
      some (((s.fwPut c.id at_ r).fwPut c.id (c.trapBase - 16) (leBytes 8 (x.1 + 1))).interrupt c.tenant 1)
    else none

/-- A group of a context that is being destroyed halts: no trap record (R369). -/
def Context.gone (c : Context) : Bool := c.state == .destroyed

/-- A group has halted (R292, R309, R364, R366): its image carries state 2, its trap record is placed or held, and its context is
faulted. -/
def State.halted (s : State) : State :=
  match s.ctxOf s.g.ref.ctx with
  | none => s
  | some c =>
    let r := trapRecord c.tenant s.g (s.g.trap.getD default) s.g.absentFault
    let s1 := State.putImage { s with g := { s.g with status := .halted, absentFault := false } }
    if c.gone then s1
    else
    let s2 := match (if c.heldTraps.isEmpty then s1.placeTrap c r else none) with
      | some t => t
      | none => s1.updCtx c.id fun c => { c with heldTraps := c.heldTraps ++ [r] }
    s2.updCtx c.id fun c => { c with state := if c.state = .running then .faulted else c.state }

/-- The oldest held trap record of a context placed, when it can be (R364). -/
def State.placeHeldTrap (s : State) (ctx : Nat) : State :=
  match s.ctxOf ctx with
  | none => s
  | some c =>
    match c.heldTraps with
    | [] => s
    | r :: rest => ((s.placeTrap c r).map fun t => t.updCtx ctx fun c => { c with heldTraps := rest }).getD s

/-- TRAP_QUEUE_SLOT_FREE (R364): A held trap record is placed when the host frees a trap-queue slot. -/
def execTrapQueueSlotFree (ctx : Nat) (s : State) : Result := .next (s.placeHeldTrap ctx)

/-- The oldest command that waits for the commands of its context before it is the device's next turn, once none is under way (R365). -/
def State.nextCommand (s : State) (ctx : Nat) : State :=
  match (s.ctxOf ctx).bind fun c => if c.cmd.isSome then none else c.waiting.head? with
  | some x =>
    if x.now then s
    else
      let t := s.updCtx ctx fun c => { c with waiting := { x with now := true } :: c.waiting.tail }
      { t with agenda := .command { x with now := true } :: t.agenda }
  | none => s

/-- What the firmware holds back for a page or a granule tried again: its writes, and the oldest record and command that each context
holds (R364, R365, R370, R378, R387). -/
def State.flushHeld (s : State) : State :=
  (s.ctxs.map (·.id)).foldl (fun t c => ((t.placeHeldAbsent c).placeHeldTrap c).nextCommand c) s.flushPuts

/-! ### Eviction -/

/-- The group is evicted, or halted when a trap was noted while it left (R292). -/
def State.evicted (s : State) : State :=
  if s.g.trap.isSome || ((s.ctxOf s.g.ref.ctx).any (·.gone)) then s.halted
  else State.putImage { s with g := { s.g with status := .evicted, target := none } }

/-- The frames that the group has left are offered (R296). -/
def State.leftCore (s : State) (core : Nat) : State :=
  let t := (s.putGroup s.g).offerFrames core
  { t with g := (t.groupOf s.g.ref).getD s.g }

/-- HALT_COMPLETE (R309): Every warp of a halting group has stopped; the image and trap record are written. -/
def execHaltComplete (g : GRef) : State → Result :=
  onGroup g fun s =>
    if s.g.status = .halting ∧ s.g.warps.all (·.stopped) then s.capture.map fun t => t.halted.leftCore s.g.core else none

/-- EVICTION_COMPLETE (R292): The eviction procedure ends and the group re-enters dispatch as evicted. -/
def execEvictionComplete (g : GRef) : State → Result :=
  onGroup g fun s =>
    if s.g.status = .evicting then s.capture.map fun t => t.evicted.leftCore s.g.core else none

/-- EVICT_RETURN_AREA_READY (R300): Eviction step 4 proceeds once the return area fits in the image pool: the group's operations are
diverted from here on, and its pages move (R299). -/
def execEvictReturnAreaReady (g : GRef) : State → Result :=
  onGroup g fun s =>
    if !s.g.away && (s.g.status == .evicting || s.g.status == .migrating || (s.g.status == .halting && s.g.warps.all (·.stopped))) then
      s.divertGroup.map State.putImage
    else none

/-- Operations that a group issued before a warp's slot count are still to land (R304). -/
def Group.landing (g : Group) (clks : List (Nat × DWord)) : Bool :=
  g.warps.any fun w =>
    match clks.find? (·.1 == w.wid) with
    | none => false
    | some x =>
      let n := x.2
      (w.entries.any fun e => !e.done && decide (e.clk0 < n) && (e.hasSlot || decide (8 ≤ e.path))) ||
      (w.copyQ.any fun e => decide (e.clk0 < n)) || (w.collQ.any fun e => decide (e.clk0 < n)) ||
      g.schedWait.any fun r => r.warp == w.wid && decide (r.clk0 < n)

/-- DIVERSION_ENTRY_FREE (R304): A diversion-table entry frees once every operation that the group issued before it left the core
has landed. -/
def execDiversionEntryFree (core : Nat) (g : GRef) (s : State) : Result :=
  .next <| s.updCore core fun k =>
    { k with divert := k.divert.filter fun d =>
        !(d.ref == g && !((s.groupOf g).any fun h => h.landing d.clks)) }

/-! ### Arrivals while away (R304, R305) -/

/-- A returned entry put into its return slot: its counter falls in issue order, and a failure becomes an absent-fault
record. -/
def State.divertEntry (s : State) (e : PathEntry) : State :=
  let e1 := { e with done := true }
  let s1 := { s with w := { s.w.setEntry e with slots := s.w.slots.map fun (x : PathEntry) => if x.seq = e.seq then e1 else x } }.complete e.seq
  match entryTrap s.w.wid e with
  | none => s1
  | some t => if s.g.absent then s1.absentFault t else s1

/-- A load, atomic or record of an absent group returns (R304); one of a group that was aborted has no return slot any more (R368). -/
def State.divertedArrival (s : State) (seq : Nat) : Option State :=
  if !s.g.absent && s.g.status != .retired then none
  else
    ((s.w.entries.find? fun e => e.seq == seq && !e.done).bind fun e =>
      match e.path with
      | 0 => s.loadPart seq
      | 3 => s.recordPart seq
      | 4 => s.atomPart seq
      | _ => none).map fun x => x.1.divertEntry x.2

/-- DIVERTED_ARRIVAL (R304): An arrival for an absent group lands in its image, shadow block or return slot. -/
def execDivertedArrival (r : WRef) (seq : Nat) : State → Result := onWarpAny r (·.divertedArrival seq)

/-! ### Retirement (R292) -/

/-- The batch of a group goes back to its node (R355). -/
def State.freeBatch (s : State) (g : Group) : State :=
  { s with nodes := s.nodes.map fun (n : Node) =>
    if n.ctx = g.ref.ctx ∧ n.launch = g.ref.seq ∧ g.batch.isSome then { n with freeBatch := n.freeBatch ++ g.batch.toList } else n }

/-- The groups of a launch that have not begun are dropped, with the areas and batches that they hold (R368, R371). -/
def State.dropPending (s : State) (ctx seq : Nat) : State :=
  let gone (g : Group) : Bool := g.ref.ctx == ctx && g.ref.seq == seq && g.status == .pending
  (s.groups.filter gone).foldl (fun t g =>
    (((t.freeArea ctx g.image).freeArea ctx g.scratchImage).freeArea ctx g.stagingArea).freeBatch g)
    { s with groups := s.groups.filter fun g => !gone g }

/-- A group retires: its areas go back to the pool, its batch to the node (R292, R355). -/
def State.retireGroup (s : State) : State :=
  let g := s.g
  let s1 := (s.freeArea g.ref.ctx g.image).freeArea g.ref.ctx g.scratchImage
  { s1.freeBatch g with g := { g with status := .retired, away := false, target := none, batch := none } }

/-! ### The gleaning (R306) -/

/-- A saved tile entry posted again (R290): its age is a fresh one, the order of the group's entries kept. -/
def TileEntry.repost (base : Nat) (ages : List Nat) (e : TileEntry) : TileEntry :=
  match e.op with
  | .fence _ => e
  | _ => { e with st := .posted, age := base + ages.countP (· < e.age) }

/-- The slots that have landed in a warp's image written into its registers in the order of their issue, up to one whose result would
split a chain (R190, R306). -/
def State.takeSlots : List PathEntry → State → State
  | [], s => s
  | e :: r, s => if s.w.splitBy e then s.splitBack e else State.takeSlots r { s with w := s.w.putEntry e }

/-- The warp in the issue stage restored (R115, R306): the landed slots in its registers, the state saved. -/
def State.restore (base : Nat) (ages : List Nat) (s : State) : State :=
  let w := { s.w with
    slots := [], tileQ := s.w.tileQ.map (·.repost base ages), status := if s.w.status = .evicted then s.w.saved else s.w.status,
    stopPc := s.w.pc, skid := 0 }
  State.takeSlots (s.w.slots.filter (·.done)) { s with w := w }

/-- Every warp of the group in the issue stage restored; where one stops at a chain split (R191), or a record of a failed operation is
named (R306), the group halts and all of them have stopped. -/
def State.restoreAll (s : State) (base : Nat) (ages : List Nat) : State :=
  let t := s.g.warps.foldl (fun t v => let u := State.restore base ages { t with w := v }; { u with g := u.g.putWarp u.w }) s
  if t.g.status = .resident then t
  else { t with g := { t.g with warps := t.g.warps.map fun w => if w.status = .exited ∨ w.status = .halted then w else w.stop w.pc 0 } }

/-- The shadow block merged into the barriers, each tested once (R306, R322). -/
def Group.merge (g : Group) : Group :=
  { g with
    bars := (List.range g.bars.length).map fun b =>
      let x := g.bars.getD b (GBar.fresh 0)
      let a := g.shadow.getD b (0, 0)
      ({ x with arrived := x.arrived + a.1, trans := x.trans - BitVec.ofNat 24 a.2 } : GBar).test,
    shadow := List.replicate 16 (0, 0) }

/-- The absent-fault records of a context that may name a group, oldest first: the pending ones, then those that wait for the area. -/
def Context.absentAll (c : Context) : List Absent := c.absent ++ c.heldAbsent.map (·.1)

/-- The record that the next trap of the group reports (R313): the oldest one that no trap of it has reported or passed over. -/
def Absent.next (ref : GRef) (a : Absent) : Bool := a.ref == ref && a.mark == .fresh

/-- The trap of a group whose diverted operations have failed: the oldest record that names it (R306, R313) (DESIGN
CHOICE, log entry 55; DEDUCED, log entry 56). -/
def State.absentTrap (s : State) : Option TrapInfo :=
  if !s.g.absentFault then none
  else
    let t := (((s.ctxOf s.g.ref.ctx).bind fun c => c.absentAll.find? (Absent.next s.g.ref)).map (·.trap)).getD (Config.droppedFault s.tick)
    some { t with cause := .absentFault, under := some t.cause, fromAbsent := true, precise := true }

/-- Further records of the group remain (R313). -/
def State.moreAbsent (s : State) : Bool :=
  match s.ctxOf s.g.ref.ctx with
  | some c => decide (1 < c.absentAll.countP (Absent.next s.g.ref)) || c.absentAll.any fun a => a.ref == s.g.ref && a.mark == .passed
  | none => false

/-- Records after a trap of a group: the oldest is reported, and the others are passed over, for the host to read (R313). -/
def markReported (ref : GRef) : List Absent → List Absent
  | [] => []
  | a :: r =>
    if a.next ref then { a with mark := .reported } :: r.map fun b => if b.next ref then { b with mark := .passed } else b
    else a :: markReported ref r

/-- The records of a context after a trap of a group: the one reported is no longer pending; one that waits for the area still goes there
(R313). -/
def Context.reported (c : Context) (ref : GRef) : Context :=
  let all := markReported ref c.absentAll
  { c with absent := (all.take c.absent.length).filter (·.mark != .reported),
           heldAbsent := (all.drop c.absent.length).zip (c.heldAbsent.map (·.2)) }

/-- The core's reservation table has room for the tile entries that a group posts again (R275, R306). -/
def State.tableRoom (s : State) (core : Nat) (g : Group) : Bool :=
  decide (((s.warpsOn core).map fun x => x.2.reserved).sum + (g.warps.map (·.reserved)).sum ≤ 16)

/-- The gleaning on the core that the group is seated on (R306); a group whose warps have all exited retires (R292). -/
def State.glean (s : State) (core : Nat) : State :=
  let g := s.g
  let ages := g.warps.flatMap fun w => w.tileQ.map (·.age)
  let trap := s.absentTrap
  let clock := g.warps.foldl (fun m w => if w.status = .exited then m else maxClock m w.scSaved) (s.scClockOf core)
  let s1 := ((s.updCore core fun k => { k with ageNo := k.ageNo + ages.length, scClock := clock }).dropClean core).launchRuns g core
  let s2 := s1.updCore g.core fun k => { k with divert := k.divert.map fun d => if d.ref = g.ref then { d with forward := true } else d }
  let s3 := (s2.shrinkImage g).updCtx g.ref.ctx fun c => if trap.isSome then c.reported g.ref else c
  let g1 := { g.merge with
    core := core, target := none, away := false, returnSpace := 0, status := if trap.isSome then .halting else .resident,
    trap := trap, absentFault := trap.isSome && s.moreAbsent, pages := placePages g.desc.pages (s.freeFrames core) }
  let s4 := State.restoreAll { s3 with g := g1 } (s.coreAt core).ageNo ages
  let (g2, s5) := s4.stand s4.g
  let s5 := { s5 with g := g2 }
  if g2.status = .resident ∧ g2.warps.all (·.status == .exited) then s5.retireGroup.leftCore core else s5

/-- GLEANING_COMPLETE (R306): The gleaning ends and the group issues or halts with ABSENT_FAULT. It waits until the core's reservation
table has room for the group's saved tile entries (R275). -/
def execGleaningComplete (g : GRef) : State → Result :=
  onGroup g fun s =>
    if s.g.away ∧ (s.g.status = .resuming ∨ s.g.status = .migrating) then
      s.g.target.bind fun k => if s.tableRoom k s.g then some (s.glean k) else none
    else none

/-! ### Migration (R308) -/

/-- A unit of the core has retired. -/
def Core.worn (k : Core) : Bool :=
  k.parts.any (fun p => p.retiredWhole || (p.lanes ++ p.quads ++ p.banks).contains .retired) || (k.sbanks ++ k.cols).contains .retired

/-- The score of a core beside what it holds (R294). -/
def State.scoreOf (s : State) (core : Nat) : Nat := (s.coreAt core).score (s.seated core)


/-- A partition of the core has retired and the group's warps are unevenly spread over those that live. -/
def State.uneven (s : State) (g : Group) : Bool :=
  let k := s.coreAt g.core
  let ns := k.liveParts.map g.slotsOn
  k.parts.any (·.retiredWhole) && ns.any fun a => ns.any fun b => decide (a + 1 < b)

/-- Groups of the launch are still to begin on this device: not those of an aborted launch, nor those that a MIGRATE gave to its
target (R368, R371); on the target, those that it was given. -/
def Launch.toBegin (l : Launch) : Bool :=
  if l.aborted || l.split then false
  else match l.only with
    | some q => !q.isEmpty
    | none => l.node.isNone && decide (l.next < l.total)

/-- A group waits for placement: one of the tables, or one of a launch that has groups still to begin. -/
def State.someWaits (s : State) : Bool :=
  (s.groups.any fun g => g.status == .pending || g.status == .evicted) || s.launches.any (·.toBegin)

/-- One of the cases in which the scheduling firmware migrates a group (R308): the core is to be vacated, retirement has brought its
score below half of the best of its die while groups wait, or the group's warps are unevenly spread. -/
def State.mayMigrate (s : State) (g : Group) : Bool :=
  (s.coreAt g.core).vacated || s.uneven g ||
  ((s.coreAt g.core).worn && s.someWaits &&
    (List.range 24).any fun i => decide (2 * s.scoreOf g.core < s.scoreOf (24 * dieOf g.core + i)))

/-- The task control block of a group (R308). -/
def Group.taskFor (g : Group) (core : Nat) : TaskBlock :=
  let n := g.warps.countP (·.status != .exited)
  { warps := n, regs := n * g.desc.vregs, units := g.desc.units, pages := g.desc.pages, core := core }

/-- MIGRATION_DECISION (R308): The scheduling firmware migrates a group to a named core of a die that its context is admitted to. -/
def execMigrationDecision (g : GRef) (target : Nat) : State → Result :=
  onGroup g fun s =>
    if s.g.status = .resident ∧ target ≠ s.g.core ∧ (s.admitted s.g.ref.ctx).contains target ∧ s.mayMigrate s.g then
      some { s with g := { s.g with status := .migrating, task := some (s.g.taskFor target) } }
    else none

/-- MIGRATION_STREAM_END (R308): The image stream ends and the group is gleaned on the target or re-enters dispatch. -/
def execMigrationStreamEnd (g : GRef) : State → Result :=
  onGroup g fun s =>
    match s.g.status, !s.g.away || s.g.leaving, s.g.task with
    | .migrating, true, some b =>
      let c := b.core
      s.capture.map fun t =>
        if (t.coreAt c).fits (t.others c t.g) t.g && !(t.coreAt c).vacated && t.g.trap.isNone then
          let (h, u) := t.numbered ((t.coreAt c).spread (t.others c t.g) t.g)
          (State.putImage { u with g := { h with target := some c } }).leftCore s.g.core
        else t.evicted.leftCore s.g.core
    | _, _, _ => none

/-! ### Exit -/

/-- A draining warp with nothing outstanding, its posted arrivals applied and no result left for a check (R41), exits; the last one retires its group (R108, R292, R317). -/
def State.warpExits (s : State) : Option State :=
  if s.w.status = .draining ∧ s.w.entries.isEmpty ∧ s.w.reserved = 0 ∧ !(s.w.windows.any fun x => x.shadowed && !x.ready) ∧ !(s.g.posted.any (·.warp == s.w.wid)) then
    let w := { s.w with status := .exited }
    let g := (s.g.putWarp w).dropMember w.wid
    if g.warps.all (·.status == .exited) && g.status == .resident then
      some (State.leftCore (State.retireGroup { s with w := w, g := g }) g.core)
    else some { s with w := w, g := g }
  else none

/-- WARP_DRAINED (R108): A draining warp's counters reach zero and its tile entries are performed, so it exits. -/
def execWarpDrained (r : WRef) : State → Result := onWarp r (·.warpExits)

/-! ### What a context's launches give it (R365, R366, R368) -/

/-- Every group of the launch that was to begin has retired or been aborted (R342, R368). -/
def State.ended (s : State) (l : Launch) : Bool :=
  !l.toBegin && s.groups.all fun g => !(g.ref.ctx == l.ctx && g.ref.seq == l.seq) || g.status == .retired

/-- The launch counts as complete (R342, R368). -/
def State.settled (s : State) (l : Launch) : Bool := l.complete || (l.aborted && s.ended l)

/-- A group of the context is halted. -/
def State.anyHalted (s : State) (ctx : Nat) : Bool := s.groups.any fun g => g.ref.ctx == ctx && g.status == .halted

/-- The state that a context's groups and launches give it (R366). -/
def State.standing (s : State) (ctx : Nat) : CtxState :=
  if s.anyHalted ctx then .faulted
  else if s.launches.all fun l => l.ctx != ctx || s.settled l then .idle
  else .running

/-- The command window of a command's tenant holds a block (R365). -/
def State.showBlock (s : State) (code : Nat) (c : Cmd) (rest : List Byte) : State :=
  { s with tenants := s.tenants.modify c.tenant fun t => { t with block := (leBytes 1 code ++ rest ++ List.replicate 64 0).take 64 } }

/-- A command completes: the tenant's window holds its block with the status in byte 1, and vector 3 is raised (R362, R365). -/
def State.answer (s : State) (code : Nat) (c : Cmd) (status : Nat) : State :=
  (s.showBlock code c (leBytes 1 status ++ c.block.drop 2)).interrupt c.tenant 3

/-- The command of a context that is under way completes (R365), and the next one that waits is performed. -/
def State.endCommand (s : State) (ctx status : Nat) (put : Cmd → Cmd) : State :=
  match (s.ctxOf ctx).bind (·.cmd) with
  | none => s
  | some x => ((s.updCtx ctx fun c => { c with cmd := none }).answer x.1 (put x.2) status).nextCommand ctx

/-- The groups of a resuming context have returned to dispatch: its state is as it stands, and RESUME completes (R366). -/
def State.resumed (s : State) (ctx : Nat) : State := (s.updCtx ctx fun c => { c with state := s.standing ctx }).endCommand ctx 0 id

/-! ### Dispatch (R293, R297, R298) -/

/-- The groups of a context may be dispatched: it is neither suspended nor on its way there, nor destroyed (R367, R369)
(DEDUCED, log entry 42). -/
def State.dispatches (s : State) (ctx : Nat) : Bool :=
  match s.ctxOf ctx with
  | none => false
  | some c => (match c.state with | .evicting => false | .suspended => false | .destroyed => false | _ => true)

/-- A group of a launch of the least linear index among some. -/
def lowestGroup (gs : List Group) : Option Group :=
  gs.foldl (fun b g => match b with | none => some g | some h => if g.ref.lgi < h.ref.lgi then some g else some h) none

/-- The group of a launch that is to be served next (R293): the evicted ones in increasing index, then the pending ones. A launch
with a group that waits for its core has none (DEDUCED, log entry 40). -/
def State.nextOf (s : State) (l : Launch) : Option Group :=
  let gs := s.groups.filter fun g => g.ref.ctx == l.ctx && g.ref.seq == l.seq
  let waiting (g : Group) : Bool := g.status == .evicted || g.status == .pending
  if gs.any fun g => waiting g && g.target.isSome then none
  else match lowestGroup (gs.filter (·.status == .evicted)) with
    | some g => some g
    | none =>
      if l.aborted then none
      else match lowestGroup (gs.filter (·.status == .pending)) with
        | some g => some g
        | none =>
          match l.only with
          | some (i :: _) => some (l.group i)
          | some [] => none
          | none => if l.node.isNone && !l.split && decide (l.next < l.total) then some (l.group l.next) else none

/-- A group of the launch has been taken from the pending ones. -/
def State.taken (s : State) (g : Group) : State :=
  if (s.groupOf g.ref).isSome then s
  else s.updLaunch g.ref.ctx g.ref.seq fun l =>
    match l.only with
    | some q => { l with only := some q.tail }
    | none => { l with next := l.next + 1 }

/-- The launches in the order in which they are served (R293): higher priority first, and round-robin after the one of that
priority that was served last (DEDUCED, log entry 41). -/
def State.serveOrder (s : State) : List Launch :=
  let ls := s.launches.filter fun l => s.dispatches l.ctx
  ([7, 6, 5, 4, 3, 2, 1, 0] : List Nat).flatMap fun p =>
    let same := ls.filter (·.prio == p)
    match s.lastServed.find? (·.1 == p) with
    | none => same
    | some x =>
      let before := same.takeWhile fun l => !(l.ctx == x.2.1 && l.seq == x.2.2)
      let from_ := same.dropWhile fun l => !(l.ctx == x.2.1 && l.seq == x.2.2)
      from_.drop 1 ++ before ++ from_.take 1

/-- The choices of n elements of a list, in the order of the list. -/
def choices {α : Type} : Nat → List α → List (List α)
  | 0, _ => [[]]
  | _ + 1, [] => []
  | n + 1, x :: r => (choices n r).map (x :: ·) ++ choices (n + 1) r

/-- A resident group may be evicted for another (R297, R298). -/
def State.evictable (s : State) (g v : Group) : Bool :=
  v.status == .resident &&
    (decide (v.prio < g.prio) || (v.prio == g.prio && v.quantumOver && s.tenantOf v.ref.ctx != s.tenantOf g.ref.ctx))

/-- The smallest set of victims that makes a core eligible: lower priority first, then the more recently dispatched (R297). The
groups that leave the core already count as gone (DESIGN CHOICE, log entry 39). -/
def State.victimsOn (s : State) (g : Group) (core : Nat) : Option (List Group) :=
  let gs := s.others core g
  let stays := gs.filter fun v => !(v.status == .evicting || v.status == .halting || (v.status == .migrating && (!v.away || v.leaving)))
  let cand := sortBy (fun a b => decide (a.prio < b.prio) || (a.prio == b.prio && decide (b.dispatchNo ≤ a.dispatchNo)))
    (stays.filter (s.evictable g))
  (List.range (cand.length + 1)).findSome? fun n =>
    (choices n cand).find? fun vs => (s.coreAt core).fits (stays.filter fun x => !(vs.any (·.ref == x.ref))) g

/-- The highest priority of a set. -/
def topPrio (vs : List Group) : Nat := vs.foldl (fun m v => max m v.prio) 0

/-- The core on which evictions make room for a group: the fewest, then the lowest highest priority, then the lowest number
(R297). -/
def State.victims (s : State) (g : Group) : Option (Nat × List Group) :=
  (s.admitted g.ref.ctx).foldl (fun b k =>
    match s.victimsOn g k with
    | none => b
    | some vs =>
      match b with
      | none => some (k, vs)
      | some x =>
        if vs.length < x.2.length ∨ (vs.length = x.2.length ∧ topPrio vs < topPrio x.2) then some (k, vs) else some x) none

/-- The launch has had its turn (R293). -/
def State.servedLaunch (s : State) (l : Launch) : State :=
  { s with lastServed := (l.prio, l.ctx, l.seq) :: s.lastServed.filter (·.1 != l.prio) }

/-- The group that a launch offers is placed, or victims are evicted for it: none when neither can be done (R292, R297). -/
def State.serve (s : State) (l : Launch) : Option State :=
  (s.nextOf l).bind fun g =>
    (if g.status = .pending ∧ g.image = 0 then s.reserveGroup g else some (g, s)).bind fun x =>
      let s1 := x.2.taken g
      match s1.bestCore x.1 with
      | some k => some ((s1.placeOn x.1 k).servedLaunch l)
      | none =>
        (s1.victims x.1).map fun v =>
          ((s1.evictAll (v.2.map (·.ref))).setGroup { x.1 with target := some v.1 }).servedLaunch l

/-- A group that waits for its victims: it is placed once they have left (R297); the wait ends when nothing leaves its core any
more and it still does not fit. -/
def State.serveWaiting (s : State) (g : Group) : Option State :=
  match g.target with
  | none => none
  | some k =>
    if (s.coreAt k).fits (s.others k g) g && !(s.coreAt k).vacated then some (s.placeOn g k)
    else if (s.others k g).any fun v => v.status == .evicting || v.status == .halting || (v.status == .migrating && (!v.away || v.leaving)) then none
    else some (s.putGroup { g with target := none })

/-- The dispatcher's turn (R293, R297): a group that waits for its core first, else the next launch's. -/
def State.select (s : State) : State :=
  let waiting := s.groups.filter fun g => (g.status == .pending || g.status == .evicted) && g.target.isSome && s.dispatches g.ref.ctx
  match waiting.findSome? s.serveWaiting with
  | some t => t
  | none => (s.serveOrder.findSome? s.serve).getD s

/-- DISPATCH_SELECT (R293): The device-wide dispatcher selects the next pending or evicted group. The groups of a context that RESUME
has brought back re-enter dispatch with it (R366, R367). -/
def execDispatchSelect (s : State) : Result :=
  .next (((s.ctxs.filter (·.state == .resuming)).foldl (fun t c => t.resumed c.id) s).select)

/-- QUANTUM_EXPIRY (R298): A group resident for its tenant's quantum becomes evictable by equal-priority tenants. -/
def execQuantumExpiry (g : GRef) : State → Result :=
  onGroup g fun s => if s.g.status = .resident then some { s with g := { s.g with quantumOver := true } } else none

/-! ### Page switches (R216) -/

/-- A page of the window is switched to its new placement; one that leaves its frame is written to the scratch image first. The next page
of a group that leaves its core follows (R299). -/
def State.switchPage (s : State) (i : Nat) : Option State :=
  (s.g.pages[i]?).bind fun p => p.toward.bind fun x =>
    (if x.1 then s.spillPage i else some s).map fun s1 =>
      let g1 := { s1.g with pages := s1.g.pages.set i { p with inMem := x.1, index := x.2, toward := none } }
      { s1 with g := if g1.leaving then g1.turnOut else g1 }

/-- SCRATCH_PAGE_SWITCH_DONE (R216): A scratchpad page's translation entry finishes switching between frame and scratch image. -/
def execScratchPageSwitchDone (g : GRef) (page : Nat) : State → Result := onGroup g (·.switchPage page)

end Sys2Proof.Machine
end

