-- ==== Sys2Proof/Machine/Fold.lean ====
section
/-!
DEFINITION. The fold (01_fold.md): units that fail and retire (R17..R38), shadow divergences and replays
(R39..R43), and the column table (26_prog_retire.md R440).
-/
namespace Sys2Proof.Machine

/-! ### Units (R33, R412) -/

/-- The kind code of a unit (R412). -/
def kindCode : UnitKind → Nat
  | .lane => 0 | .quad => 1 | .bank => 2 | .scalar => 3 | .sbank => 4 | .column => 5

/-- The unit identifier (R412). -/
def unitCode (u : UnitId) : BitVec 64 :=
  BitVec.ofNat 64 (kindCode u.kind + 2 ^ 8 * u.core + 2 ^ 24 * u.part + 2 ^ 32 * u.index)

/-- The state of a unit of a core; none where there is no such unit. -/
def Core.unit (k : Core) (u : UnitId) : Option UnitState :=
  match u.kind with
  | .lane => (k.parts[u.part]?).bind fun p => p.lanes[u.index]?
  | .quad => (k.parts[u.part]?).bind fun p => p.quads[u.index]?
  | .bank => (k.parts[u.part]?).bind fun p => p.banks[u.index]?
  | .scalar => if u.index = 0 then (k.parts[u.part]?).map (·.scalar) else none
  | .sbank => if u.part = 0 then k.sbanks[u.index]? else none
  | .column => if u.part = 0 then k.cols[u.index]? else none

/-- The state of a unit of a core replaced. -/
def Core.setUnit (k : Core) (u : UnitId) (x : UnitState) : Core :=
  match u.kind with
  | .lane => { k with parts := k.parts.modify u.part fun p => { p with lanes := p.lanes.set u.index x } }
  | .quad => { k with parts := k.parts.modify u.part fun p => { p with quads := p.quads.set u.index x } }
  | .bank => { k with parts := k.parts.modify u.part fun p => { p with banks := p.banks.set u.index x } }
  | .scalar => { k with parts := k.parts.modify u.part fun p => { p with scalar := x } }
  | .sbank => { k with sbanks := k.sbanks.set u.index x }
  | .column => { k with cols := k.cols.set u.index x }

/-- A partition's record changed. -/
def State.updPart (s : State) (core part : Nat) (f : Partition → Partition) : State :=
  s.updCore core fun k => { k with parts := k.parts.modify part f }

/-- A partition of a core. -/
def State.partAt (s : State) (core part : Nat) : Partition := (s.coreAt core).parts.getD part Partition.fresh

/-- A record of a unit's retirement in flash: one for each unit (R34, R413). -/
def Flash.retire (f : Flash) (id : BitVec 64) (time : Nat) : Flash :=
  if f.retired.any fun (x : BitVec 64 × Nat) => x.1 == id then f else { f with retired := f.retired ++ [(id, time)] }

/-- A unit retires: its record goes to flash, once, and EVENT_CAUSE tells the host (R33, R34, R410) (DEDUCED, log entry 88). -/
def State.retireUnit (s : State) (u : UnitId) : State :=
  let s1 := s.updCore u.core fun k => k.setUnit u .retired
  { s1 with
    flash := s1.flash.retire (unitCode u) s.time.toNat,
    switor := { s1.switor with cause := s1.switor.cause ||| 1 } }

/-- The indices of a list of unit states that are in a state. -/
def unitsIn (l : List UnitState) (x : UnitState) : List Nat := (List.range l.length).filter fun i => l.getD i .retired == x

/-! ### Lanes and beats (R17, R18) -/

/-- The beat in which a logical lane executes (R18). -/
def Partition.beat (p : Partition) (l : Nat) : Nat := l / p.laneTable.length

/-- The physical lane that a logical lane executes on: the live one of its rank (R18). -/
def Partition.laneUnit (p : Partition) (l : Nat) : Nat := p.laneTable.getD (l % p.laneTable.length) 0

/-- The logical lanes in the order of their beats (R18). -/
def Partition.beatOrder (p : Partition) : List Nat :=
  (List.range 96).flatMap fun b => (List.range 96).filter fun l => p.beat l == b

/-! ### Bank steering (R23, R24) -/

/-- The logical banks that a physical bank holds. -/
def banksOn (table : List Nat) (f : Nat) : List Nat := (List.range table.length).filter fun b => table.getD b 0 == f

/-- The bank table after physical bank f fails, with the spares that are live (R24): none when the partition retires whole. -/
def bankTable (table spares : List Nat) (f : Nat) : Option (List Nat) :=
  match banksOn table f with
  | [] => some table
  | held =>
    match spares with
    | q :: _ => some (table.map fun x => if x = f then q else x)
    | [] =>
      match held with
      | [b] => some (table.set b (table.getD (b ^^^ 1) 0))
      | _ =>
        ((List.range 12).find? fun i => table.getD (2 * i) 0 != table.getD (2 * i + 1) 0).map fun i =>
          let q := table.getD (2 * i + 1) 0
          (table.set (2 * i + 1) (table.getD (2 * i) 0)).map fun x => if x = f then q else x

/-- The live banks of a partition that hold no logical bank under a table, lowest first. -/
def Partition.spares (p : Partition) (table : List Nat) : List Nat :=
  (unitsIn p.banks .live).filter fun b => !table.contains b

/-- The table of a partition that has lost the banks of a list, from the one as manufactured, taken in the list's order (R24, R34)
(DESIGN CHOICE, log entry 105). -/
def tableWithout (p : Partition) : List Nat → List Nat → Option (List Nat)
  | [], t => some t
  | f :: r, t => (bankTable t (p.spares t) f).bind (tableWithout p r)

/-! ### Whole partitions and engines (R20, R22, R25, R31) -/

/-- The groups seated on a core with a warp on a partition that has not exited. -/
def State.groupsOnPart (s : State) (core part : Nat) : List Group := (s.seated core).filter fun g => decide (0 < g.slotsOn part)

/-- A partition retires whole (R22). -/
def State.retirePart (s : State) (core part : Nat) : State :=
  (s.evictAll ((s.groupsOnPart core part).map (·.ref))).updPart core part fun p => { p with retiredWhole := true, newBankOf := none }

/-- The groups that are evicted for a partition's register budget: lowest priority first, then the most recently dispatched,
until the others fit (R25). -/
def overBudget (gs : List Group) (part budget : Nat) : List Group → List GRef
  | [] => []
  | g :: r =>
    if usedRegs gs part ≤ budget then []
    else g.ref :: overBudget (gs.filter (·.ref != g.ref)) part budget r

/-- Groups evicted until the registers of a partition fit its budget (R25). -/
def State.fitBudget (s : State) (core part : Nat) : State :=
  let gs := s.groupsOnPart core part
  s.evictAll (overBudget gs part (s.partAt core part).budget
    (sortBy (fun a b => decide (a.prio < b.prio) || (a.prio == b.prio && decide (b.dispatchNo ≤ a.dispatchNo))) gs))

/-! ### Failures (R21, R22, R33) -/

/-- A bank of a partition is being evacuated, or waits for the rewrite point that ends its evacuation. -/
def Partition.evacuates (p : Partition) : Bool := p.newBankOf.isSome || !(unitsIn p.banks .evacuating).isEmpty

/-- The scratchpad of a core is being laid out afresh, or waits for the rewrite point that ends it (R29). -/
def Core.relays (k : Core) : Bool := k.sbankRanks.any fun b => k.sbanks.getD b .retired == .evacuating || k.sbanks.getD b .retired == .retired

/-- An assigned bank starts its evacuation to the table of R24, its copy at the first row; without a table the partition retires whole
(DEDUCED, log entry 107). -/
def State.evacuateBank (s : State) (u : UnitId) : State :=
  let p := s.partAt u.core u.part
  let s1 := s.updCore u.core fun k => k.setUnit u .evacuating
  match bankTable p.bankOf (p.spares p.bankOf) u.index with
  | some t => s1.updPart u.core u.part fun q => { q with newBankOf := some t, copied := (u.index, 0) :: q.copied }
  | none => s1.retirePart u.core u.part

/-- A scratchpad bank starts its evacuation: the re-layout copies the rows of every bank (R29, R36). -/
def State.evacuateScratch (s : State) (u : UnitId) : State :=
  s.updCore u.core fun k => { k.setUnit u .evacuating with copied := k.sbankRanks.map fun b => (b, 0) }

/-- A live unit fails its self-check (R21, R22, R33, R440). A bank that fails while another of its partition or scratchpad is evacuated
stays suspect until that one's rewrite point (DEDUCED, log entry 107). -/
def State.failUnit (s : State) (u : UnitId) : State :=
  if (s.coreAt u.core).unit u ≠ some .live then s
  else
    let suspect := s.updCore u.core fun k => k.setUnit u .suspect
    match u.kind with
    | .lane => suspect
    | .quad => suspect.updPart u.core u.part fun p =>
        { p with lanes := (List.range p.lanes.length).map fun l =>
            let x := p.lanes.getD l .retired
            if l / 4 = u.index ∧ x = .live then .suspect else x }
    | .bank =>
      let p := s.partAt u.core u.part
      if p.retiredWhole || p.evacuates || !p.bankOf.contains u.index then suspect else s.evacuateBank u
    | .scalar => (s.retireUnit u).retirePart u.core u.part
    | .sbank => if (s.coreAt u.core).relays then suspect else s.evacuateScratch u
    | .column => suspect.updCore u.core fun k => { k with colCheck := true }

/-- The unit's check step begins or ends its hold (R35). -/
def State.setMowing (s : State) (u : UnitId) (on : Bool) : State :=
  let x := (u.kind, u.index)
  let upd (l : List (UnitKind × Nat)) : List (UnitKind × Nat) := if on then x :: l.filter (· != x) else l.filter (· != x)
  if u.kind == .sbank || u.kind == .column then s.updCore u.core fun k => { k with mowing := upd k.mowing }
  else s.updPart u.core u.part fun p => { p with mowing := upd p.mowing }

/-- SELF_CHECK_STEP (R35): The mowing checks a lane, quad unit, bank or column, making it suspect on failure; a hold for the check
ends. -/
def execSelfCheckStep (u : UnitId) (pass : Bool) (s : State) : Result :=
  let t := s.setMowing u false
  .next (if pass then t else t.failUnit u)

/-- MOWING_HOLD (R35): A unit without an idle cycle for 1 ms gets an issue or access hold of at most 64 cycles for its check (DESIGN
CHOICE, log entry 106). -/
def execMowingHold (u : UnitId) (s : State) : Result :=
  .next (if (s.coreAt u.core).unit u = some .live then s.setMowing u true else s)

/-- The copy of a bank's rows goes on to the next, or is over (R29, R36); a bank has 128 rows (R35). -/
def nextRow (f : Nat) (l : List (Nat × Nat)) : List (Nat × Nat) :=
  l.filterMap fun x => if x.1 = f then (if x.2 < 127 then some (f, x.2 + 1) else none) else some x

/-- The copy of an evacuating bank, or of a scratchpad bank in a re-layout, has finished a row (R29, R36). -/
def State.copyRow (s : State) (u : UnitId) : State :=
  match u.kind with
  | .bank => s.updPart u.core u.part fun p => { p with copied := nextRow u.index p.copied }
  | .sbank => s.updCore u.core fun k => { k with copied := nextRow u.index k.copied }
  | _ => s

/-- Rows of the evacuation that the bank leaves by are still to be copied (R29, R36). -/
def State.copyLeft (s : State) (u : UnitId) : Bool :=
  match u.kind with
  | .bank => (s.partAt u.core u.part).copied.any (·.1 == u.index)
  | .sbank => !(s.coreAt u.core).copied.isEmpty
  | _ => false

/-- EVACUATION_COMPLETE (R36): A bank's background copy ends, its last row copied: the bank is retired, and its table waits for the
rewrite point. -/
def execEvacuationComplete (u : UnitId) (s : State) : Result :=
  .next (if (s.coreAt u.core).unit u = some .evacuating ∧ !s.copyLeft u then s.retireUnit u else s)

/-! ### ECC (R23, R27, R31, R33, R390) -/

/-- A warp's record changed where its group's state is on a core. -/
def State.updWarp (s : State) (r : WRef) (f : Warp → Warp) : State :=
  { s with groups := s.groups.map fun g =>
      if g.ref = r.g ∧ g.onCore then { g with warps := g.warps.map fun w => if w.wid = r.w then f w else w } else g }

/-- A group's record changed while it holds frames and accumulator rows of a core. -/
def State.updGroup (s : State) (r : GRef) (f : Group → Group) : State :=
  { s with groups := s.groups.map fun g => if g.ref = r ∧ (g.onCore ∨ g.leaving) then f g else g }

/-- An ECC error (R23, R27, R31, R33, R390): an uncorrectable word of a register bank, of a frame or of the accumulator store is
remembered until it is written whole, through every copy of its bank; a sector of HBM is corrected and counted, or is flawed until a
read meets it. -/
def State.upset (s : State) (u : Upset) : State :=
  match u with
  | .reg r n lane => s.updWarp r fun w => if n < 128 ∧ lane < 96 then { w with badRegs := (n, lane) :: w.badRegs.filter (· != (n, lane)) } else w
  | .frame r word => s.updGroup r fun g =>
      if (g.pageOf (4 * word)).framed then { g with badScratch := word :: g.badScratch.filter (· != word) } else g
  | .acc r word => s.updGroup r fun g => if word < 512 * g.desc.rows then { g with badAcc := word :: g.badAcc.filter (· != word) } else g
  | .hbm sec corrected =>
      if sec % 128 != 0 ∨ hbmEnd ≤ sec then s
      else if corrected then s.eccCorrected 1 sec
      else { s with flaws := sec :: s.flaws.filter (· != sec) }

/-! ### Rewrite points (R29, R37, R38) -/

/-- A slot of a set waits for the check after a divergence, and with it the whole set (R41). -/
def Warp.setReruns (w : Warp) (set : Nat) : Bool := w.windows.any fun y => y.set == set && y.rerun

/-- Every issued lane instruction of a warp has written its results, the sets that wait for a replay apart (R37). -/
def Warp.drained (w : Warp) : Bool := w.windows.all fun x => x.ready || x.entry.isSome || w.setReruns x.set

/-- The warps of a core's groups that are held by the rewrite of a partition, or of all four, have written their results, and no check
step is under way (R37). -/
def State.rewriteReady (s : State) (core : Nat) (part : Option Nat) : Bool :=
  ((s.warpsOn core).all fun x => (match part with | some p => x.2.part != p | none => false) || x.2.drained) &&
  (match part with
   | some p => (s.partAt core p).mowing.isEmpty
   | none => (s.coreAt core).parts.all (·.mowing.isEmpty) && (s.coreAt core).mowing.isEmpty)

/-- Issue to the vector and transcendental pipes of a partition, or of all four, is stopped or resumed (R37). -/
def State.setRewriting (s : State) (core : Nat) (part : Option Nat) (on : Bool) : State :=
  match part with
  | some p => s.updPart core p fun q => { q with rewriting := on }
  | none => s.updCore core fun k => { k with parts := k.parts.map fun q => { q with rewriting := on } }

/-- The suspect units of a partition retire (R33), but for banks that its table names. -/
def State.retireSuspects (s : State) (core part : Nat) : State :=
  let p := s.partAt core part
  let ids (kind : UnitKind) (l : List UnitState) : List UnitId := (unitsIn l .suspect).map fun i => { kind := kind, core := core, part := part, index := i }
  (ids .lane p.lanes ++ ids .quad p.quads ++ (ids .bank p.banks).filter fun u => p.retiredWhole || !(p.newBankOf.getD p.bankOf).contains u.index).foldl
    State.retireUnit s

/-- A replay that waited for the rewrite point of its partition goes on (R41). -/
def Warp.replays (w : Warp) : Warp :=
  { w with windows := w.windows.map fun x => if x.rewrite then { x with rerun := false, rewrite := false } else x }

/-- The windows of a partition's warps after its rewrite point. -/
def State.replayOn (s : State) (core part : Nat) : State :=
  { s with groups := s.groups.map fun g =>
      if g.onCore && g.core == core then { g with warps := g.warps.map fun w => if w.part = part then w.replays else w } else g }

/-- The assigned bank that has waited for its evacuation starts it, once no other is under way (R33). -/
def State.nextEvacuation (s : State) (core part : Nat) : State :=
  let p := s.partAt core part
  if p.retiredWhole || p.evacuates then s
  else match (unitsIn p.banks .suspect).filter p.bankOf.contains with
    | b :: _ => s.evacuateBank { kind := .bank, core := core, part := part, index := b }
    | [] => s

/-- The rewrite point of a partition: suspect units retire, the tables are swapped, and groups that no longer fit are evicted
(R20, R25, R33, R37); an assigned bank that is suspect starts its evacuation. A partition whose units have been revived comes back
(R411) (DEDUCED, log entry 59). -/
def State.rewritePart (s : State) (core part : Nat) : State :=
  let s1 := s.retireSuspects core part
  let p := s1.partAt core part
  let leaving := unitsIn p.banks .evacuating
  let lost := (List.range p.banks.length).filter fun i => p.banks.getD i .retired != .live
  let table := if p.retiredWhole then (tableWithout p lost (List.range 24))
    else some (if leaving.isEmpty then p.newBankOf.getD p.bankOf else p.bankOf)
  if p.width < 12 ∨ p.scalar ≠ .live ∨ table.isNone then
    ((s1.retirePart core part).updPart core part fun q => { q with laneTable := unitsIn q.lanes .live }).replayOn core part
  else
    (((s1.updPart core part fun q =>
      { q with bankOf := table.getD q.bankOf, newBankOf := if leaving.isEmpty then none else q.newBankOf, retiredWhole := false,
               laneTable := unitsIn q.lanes .live }).fitBudget core part).replayOn core part).nextEvacuation core part

/-- The occupied frames of a core in increasing order, those that pages move to among them (R29). -/
def State.occupied (s : State) (core : Nat) : List Nat :=
  (List.range (s.coreAt core).frames).filter fun f => !(s.freeFrames core).contains f

/-- A page after the frames of a core are numbered afresh: in its new frame, or spilled (R29). -/
def Page.renumber (occ : List Nat) (limit i : Nat) (p : Page) : Page :=
  let newNo (f : Nat) : Nat := (occ.takeWhile (· != f)).length
  let q : Page := match p.toward with
    | some (false, f) => { p with toward := if newNo f < limit then some (false, newNo f) else none }
    | _ => p
  if q.valid && !q.inMem then
    if newNo q.index < limit then { q with index := newNo q.index } else { q with inMem := true, index := i, toward := none }
  else q

/-- A page of a group of the tables written to its scratch image. -/
def State.spillOf (s : State) (x : Group × Nat) : Option State :=
  (State.spillPage { s with g := x.1 } x.2).map fun t => { t with g := s.g }

/-- The scratchpad bank that has waited for its evacuation starts it (R33). -/
def State.nextRelay (s : State) (core : Nat) : State :=
  match unitsIn (s.coreAt core).sbanks .suspect with
  | b :: _ => s.evacuateScratch { kind := .sbank, core := core, part := 0, index := b }
  | [] => s

/-- The rewrite point of a scratchpad: the table takes the banks that are not lost, and frames are numbered afresh; the frames that a
revived bank brings are offered (R27, R29, R296). None while a page that must be written out waits. -/
def State.rewriteScratch (s : State) (core : Nat) : Option State :=
  let k := s.coreAt core
  let live := (List.range k.sbanks.length).filter fun b => k.sbanks.getD b .retired == .live || k.sbanks.getD b .retired == .suspect
  if !(unitsIn k.sbanks .evacuating).isEmpty then some s
  else if k.sbankRanks.length ≤ live.length then some <| State.nextRelay (core := core) <| ((s.updCore core fun k => { k with sbankRanks := live }).offerFrames core)
  else
    let occ := s.occupied core
    let limit := 4 * live.length
    let placed (g : Group) : Bool := g.core == core && (!g.away || g.leaving) && g.status != .retired && g.status != .pending
    let page (g : Group) (i : Nat) : Page := (g.pages.getD i default).renumber occ limit i
    let out := (s.groups.filter placed).flatMap fun g =>
      ((List.range g.pages.length).filter fun i => (page g i).inMem && (g.pages.getD i default).framed).map fun i => (g, i)
    let moved (g : Group) : Group := if placed g then { g with pages := (List.range g.pages.length).map (page g) } else g
    (out.foldlM State.spillOf s).map fun s1 =>
      (State.updCore { s1 with groups := s1.groups.map moved } core fun k => { k with sbankRanks := live }).nextRelay core

/-- A rewrite point (R37): issue stops, and once the issued lane instructions have written their results the tables are swapped and
issue resumes (DESIGN CHOICE, log entry 106). -/
def State.rewriteAt (s : State) (core : Nat) (part : Option Nat) (swap : State → Option State) : State :=
  let held := s.setRewriting core part true
  if s.rewriteReady core part then ((swap s).map fun t => t.setRewriting core part false).getD held else held

/-- REWRITE_POINT (R37): Issue stops, issued beats drain and the steering tables swap in one cycle. -/
def execRewritePoint (core : Nat) (table : SteerTable) (s : State) : Result :=
  .next <|
    if 192 ≤ core then s
    else match table with
      | .partition p => if p < 4 then s.rewriteAt core (some p) fun t => some (t.rewritePart core p) else s
      | .scratchpad => s.rewriteAt core none fun t => t.rewriteScratch core

/-! ### Columns (R30..R32, R42, R440) -/

/-- COLUMN_TABLE_REWRITE (R440): The column steering table is rewritten and engine grants resume; an engine of fewer than 8
columns retires, and the groups with accumulator rows leave (R31). -/
def execColumnTableRewrite (core : Nat) (s : State) : Result :=
  .next <|
    let k := s.coreAt core
    if 192 ≤ core ∨ (!k.colCheck && k.colTable == unitsIn k.cols .live) then s
    else
      let s1 := ((unitsIn k.cols .suspect).map fun i => ({ kind := .column, core := core, part := 0, index := i } : UnitId)).foldl State.retireUnit s
      let live := unitsIn k.cols .live
      let s2 := s1.updCore core fun k => { k with colTable := live, colCheck := false }
      let s3 := { s2 with groups := s2.groups.map fun g =>
        if g.onCore && g.core == core then
          { g with warps := g.warps.map fun w => { w with tileQ := w.tileQ.map fun (e : TileEntry) =>
              if e.rewrite then { e with rerun := false, rewrite := false, suspect := none } else e } }
        else g }
      if live.length < 8 then s3.evictAll (((s3.seated core).filter fun g => g.desc.units != 0).map (·.ref)) else s3

/-- The check of the column that diverged ends (R42, R43): the third divergence whose check passes stops the op; a column that
fails becomes suspect, and the chunk waits for the table; it is recomputed at once where a table without the column has come already. -/
def State.recheck (s : State) (core col : Nat) (pass : Bool) (e : TileEntry) : State :=
  let u : UnitId := { kind := .column, core := core, part := 0, index := col }
  let log (s : State) : State := { s with switor := { s.switor with divLog := s.switor.divLog + 1 } }
  let go (e : TileEntry) (s : State) : State := log { s with w := s.w.setTile e }
  if pass then
    if 3 ≤ e.divs + 1 then s.tileStop e .machineCheck
    else go { e with divs := e.divs + 1, rerun := false, suspect := none } s
  else match (s.coreAt core).unit u with
    | some .live => (go { e with rewrite := true } s).failUnit u
    | some .suspect => go { e with rewrite := true } s
    | _ => go { e with rerun := false, suspect := none } s

/-- COLUMN_RECHECK_DONE (R42): The check after a column divergence ends and the chunk is recomputed. -/
def execColumnRecheckDone (core col : Nat) (pass : Bool) (s : State) : Result :=
  .next <|
    match s.running core with
    | none => s
    | some (g, w, e) =>
      if !e.rerun || e.rewrite || e.suspect != some col then s
      else match s.load { g := g.ref, w := w.wid } with
        | none => s
        | some t => (t.recheck core col pass e).park

/-! ### Lane instructions: results, divergences and replays (R39, R41, R43, R82) -/

/-- The oldest window whose results a pipe is still to write, of a set that waits for no check. -/
def Warp.unwritten (w : Warp) : Option LookWindow :=
  w.windows.find? fun x => !x.ready && x.entry.isNone && !w.setReruns x.set

/-- The windows of a chained set changed. -/
def Warp.mapSet (w : Warp) (set : Nat) (f : LookWindow → LookWindow) : Warp :=
  { w with windows := w.windows.map fun x => if x.set = set then f x else x }

/-- A shadow value of one of the instruction's results in an active lane diverges from it (R39, R40). -/
def LookWindow.divergesAt (x : LookWindow) (r : Regs) (l : Nat) (shadows : List ShadowReading) : Bool :=
  x.shadowed && x.act.getLsbD l && shadows.any fun y =>
    y.lane == l && x.writes.contains (.v y.at_) && wordDiverges x.word (laneAt (r.vget (BitVec.ofNat 7 y.at_)) l) y

/-- The word runs on the transcendental and dot pipe, in quad units (R18). -/
def onQuads (w : Word) : Bool := fx w 26 6 == 0x16 || fx w 26 6 == 0x17

/-- The unit that a logical lane of a word runs on (R18). -/
def Partition.unitOf (p : Partition) (w : Word) (l : Nat) : UnitKind × Nat :=
  if onQuads w then (.quad, p.laneUnit l / 4) else (.lane, p.laneUnit l)

/-- The first slot of a set whose result diverges, and the unit of its first diverging lane in the order of the beats (R18, R40): where
several diverge at once, this one's check alone is rerun (DESIGN CHOICE, log entry 119). -/
def State.divergence (s : State) (set : Nat) (shadows : List ShadowReading) : Option (LookWindow × (UnitKind × Nat)) :=
  let p := s.partAt s.g.core s.w.part
  (s.w.windows.filter fun x => x.set == set && x.entry.isNone && !x.ready).findSome? fun x =>
    (p.beatOrder.find? fun l => x.divergesAt s.w.regs l shadows).map fun l => (x, p.unitOf x.word l)

/-- REGISTER_RESULT_WRITTEN (R82): An issued set's register results are written, releasing the slot that waits on them. A set with a
floating-point result that its shadow disagrees with writes nothing and is to be replayed (R39..R41). -/
def execRegisterResultWritten (r : WRef) (shadows : List ShadowReading) : State → Result :=
  onWarp r fun s => s.w.unwritten.bind fun x =>
    match s.divergence x.set shadows with
    | some (y, u) => some { s with w := s.w.mapSet x.set fun z => if z.pc = y.pc then { z with rerun := true, suspect := some u } else z }
    | none =>
      if (s.w.windows.any fun z => z.set == x.set && z.entry.isNone && s.bankHeld z.writes (lanesIn z.act)) then none
      else some { s with w := s.w.mapSet x.set fun z => if z.entry.isNone then { z with ready := true } else z }

/-- The third divergence of an instruction whose check passes (R43): neither its set nor a later slot has written, and the warp stops
at it with MACHINE_CHECK, precisely. -/
def State.machineCheck (s : State) (x : LookWindow) : State :=
  let t := s.putBack x.undo x.set
  { t with w := t.w.stop x.pc t.w.ownSkid, g := t.g.raise { s.lateTrap .machineCheck x.pc 0 none with precise := true } }

/-- The rerun self-check of a diverging instruction's unit ends (R41, R43): the instruction replays, or waits for the rewrite point
when the unit has failed. -/
def State.rerunDone (s : State) (u : UnitId) (pass : Bool) : Option State :=
  (s.w.windows.find? fun x => x.rerun && !x.rewrite).bind fun x =>
    let log (s : State) : State := { s with switor := { s.switor with divLog := s.switor.divLog + 1 } }
    let set (f : LookWindow → LookWindow) (s : State) : State := { s with w := s.w.mapSet x.set fun y => if y.pc = x.pc then f y else y }
    if x.suspect != some (u.kind, u.index) || u.core != s.g.core || u.part != s.w.part then none
    else if pass then
      if 3 ≤ x.divs + 1 then some (s.machineCheck x)
      else some (log (set (fun y => { y with divs := x.divs + 1, rerun := false }) s))
    else match (s.coreAt u.core).unit u with
      | some .live => some (log ((set (fun y => { y with rewrite := true }) s).failUnit u))
      | some .suspect => some (log (set (fun y => { y with rewrite := true }) s))
      | _ => some (log (set (fun y => { y with rerun := false }) s))

/-- SHADOW_RERUN_DONE (R41): The rerun self-check ends; the unit is retired if it fails and the instruction replays. -/
def execShadowRerunDone (r : WRef) (u : UnitId) (pass : Bool) : State → Result := onWarp r (·.rerunDone u pass)

end Sys2Proof.Machine
end

