-- ==== Sys2Proof/Machine/Queue.lean ====
section
/-!
DEFINITION. Command queues (17_queue.md R345..R352), kernel descriptors and admission (16_kernel.md R332..R334), the
completion of launches (R342, R343), host error queues (18_context.md R360), and the packet events.
-/
namespace Sys2Proof.Machine

/-! ### Memory by physical address -/

/-- Cells of one sector written at a physical address by the host or the firmware, under the key id that the sector is stored under (log
entry 24): dropped in a reserved or withdrawn slot (R385), and waiting while their granule is being copied (R387). -/
def State.physSector (s : State) (sec : Nat) (ps : List Host.Cell) : State :=
  if hbmEnd ≤ sec then { s with mem := Memory.writeCells s.mem ps }
  else if s.refused sec then s
  else if s.copying sec then { s with parked := s.parked ++ [{ core := noCore, key := hostKey, data := ps, atom := none }] }
  else s.keepSector sec ps

/-- Bytes written at a physical address by the host or the firmware, sector by sector. -/
def State.physWrite (s : State) (pa : Nat) (bs : List Byte) : State :=
  (sectorsOf pa bs.length).foldl (fun t sec => t.physSector sec ((cellsAt pa bs).filter fun c => sectorOf c.1 == sec)) s

/-- The firmware can read n bytes at a physical address, or write them, now (R385, R387, R390). -/
def State.physReady (s : State) (pa n : Nat) (reads : Bool) : Bool :=
  (sectorsOf pa n).all fun sec => decide (hbmEnd ≤ sec) ||
    !(s.refused sec || s.copying sec || (reads && s.badStored sec))

/-- Bytes that the firmware reads at a physical address, each sector under the key id that it is stored under; none where the read
fails. -/
def State.physRead (s : State) (pa n : Nat) : Option (List Byte) :=
  if 2 ^ 51 ≤ pa || (sectorsOf pa n).any fun sec => s.refused sec || (decide (sec < hbmEnd) && s.badStored sec) then none
  else some (s.homeRead pa n)

/-- A read by the firmware that fails: the bad sectors that it has met are poisoned and logged (R390, R391). -/
def State.physMet (s : State) (pa n : Nat) : State :=
  (sectorsOf pa n).foldl (fun t sec =>
    if sec < hbmEnd ∧ !t.refused sec ∧ t.badStored sec then t.tagFailure (t.sectorKeyId sec) sec else t) s

/-! ### Host error queues (R360, R369, R415) -/

/-- A 32-byte record placed on a tenant's host error queue while it has a free slot, with vector 2: none when it is full, or while its
memory can be neither read nor written (log entry 51). -/
def State.placeError (s : State) (tenant : Nat) (r : List Byte) : Option State :=
  let t := s.tenants.getD tenant Tenant.fresh
  let widx := leNat (s.homeRead (t.errBase - 16) 8)
  let ridx := leNat (s.homeRead (t.errBase - 8) 8)
  let at_ := t.errBase + 32 * (widx % 2 ^ t.errLog2)
  if widx < ridx + 2 ^ t.errLog2 ∧ s.physReady (t.errBase - 16) 16 true ∧ s.physReady at_ 32 false then
    some (((s.physWrite at_ r).physWrite (t.errBase - 16) (leBytes 8 (widx + 1))).interrupt tenant 2)
  else none

/-- A record for a tenant's host error queue: placed, or held while the queue is full; index words that cannot be read are poisoned and
logged (R390, R391) (DEDUCED, log entry 51). -/
def State.hostError (s : State) (tenant : Nat) (r : List Byte) : State :=
  let held := (s.tenants.getD tenant Tenant.fresh).errHeld
  match (if held.isEmpty then s.placeError tenant r else none) with
  | some t => t
  | none =>
    let s := s.physMet ((s.tenants.getD tenant Tenant.fresh).errBase - 16) 16
    { s with tenants := s.tenants.modify tenant fun t => { t with errHeld := t.errHeld ++ [r] } }

/-- HOST_ERROR_QUEUE_SLOT_FREE (R369): The host frees a slot in a full host error queue, and a held record is placed in it. -/
def execHostErrorQueueSlotFree (tenant : Nat) (s : State) : Result :=
  .next <| match (s.tenants.getD tenant Tenant.fresh).errHeld with
    | [] => s
    | r :: rest => ((s.placeError tenant r).map fun t =>
        { t with tenants := t.tenants.modify tenant fun x => { x with errHeld := rest } }).getD (s.physMet ((s.tenants.getD tenant Tenant.fresh).errBase - 16) 16)

/-! ### Queues -/

/-- The queue of a hardware number. -/
def State.queueOf (s : State) (n : Nat) : Option Queue := s.queues.find? (·.num == n)

/-- A queue's record changed. -/
def State.updQueue (s : State) (n : Nat) (f : Queue → Queue) : State :=
  { s with queues := s.queues.map fun q => if q.num = n then f q else q }

/-- The 32-byte error record (R351). -/
def errorRecord (code level num header ridx va : Nat) : List Byte :=
  leBytes 1 code ++ leBytes 1 level ++ leBytes 2 num ++ leBytes 4 header ++ leBytes 8 ridx ++ leBytes 8 va ++ leBytes 8 0

/-- A queue's error record written with a release at sys, or sent to the host error queue when it cannot be (R351): none while its page is
being brought in, or a remote write of the front end is not acknowledged (R240). -/
def State.writeError (s : State) (q : Queue) (r : List Byte) : Option State :=
  if !s.acked noCore then none
  else match s.fwWrite q.ctx q.errVa r with
  | .ok _ _ t => some t
  | .fail _ _ t => some (t.hostError (t.tenantOf q.ctx) r)
  | .wait => none

/-- A queue enters its error state (R351): the record, vector 0, and the read index where it stands. -/
def State.queueError (s : State) (q : Queue) (code level header ridx va : Nat) : Option State :=
  (s.writeError q (errorRecord code level q.num header ridx va)).map fun t =>
    (t.interrupt (t.tenantOf q.ctx) 0).updQueue q.num fun q => { q with state := .error, nest := [], line := [], waitFor := none, unbind := none }

/-! ### Descriptors (R332..R334) -/

/-- A 32-byte granule read through the front end's record cache (R208, R333) (DEDUCED, log entry 47). -/
def State.frontGranule (s : State) (ctx va : Nat) : Got :=
  match s.switor.recs.find? fun h => h.ctx == ctx && h.va == va with
  | some h => .ok (leBytes 32 h.data.toNat) { s with switor := { s.switor with recs := recPut s.switor.recs h } }
  | none =>
    match s.fwRead ctx va 32 with
    | .ok bs _ t => .ok bs { t with switor := { t.switor with recs := recPut t.switor.recs { ctx := ctx, va := va, data := BitVec.ofNat 256 (leNat bs) } } }
    | .fail c _ t => .fail c t
    | .wait => .wait

/-- Granules read one after another. -/
def State.frontGranules (s : State) (ctx va : Nat) : Nat → Got
  | 0 => .ok [] s
  | n + 1 =>
    match s.frontGranule ctx va with
    | .ok bs s1 =>
      match s1.frontGranules ctx (va + 32) n with
      | .ok cs s2 => .ok (bs ++ cs) s2
      | other => other
    | other => other

/-- The fields of a descriptor (R332). -/
def descOf (b : List Byte) : Desc :=
  let f := field b 21 1
  { entry := field b 0 6, sched := field b 8 6, vregs := 8 * field b 16 1, warps := field b 17 1, pages := field b 18 1,
    units := field b 19 1, draw := field b 20 1, determ := f % 2 == 1, timing := f / 2 % 2 == 1, partialOk := f / 4 % 2 == 1,
    node := f / 8 % 2 == 1, version := field b 22 2, timer := field b 24 2, staging := field b 26 2 }

/-- Some core of the admitted dies could hold one group of the launch with no other group resident (R334 DESC_FIT); a core that a
vacate excludes counts. -/
def State.couldHold (s : State) (ctx : Nat) (d : Desc) : Bool :=
  let g : Group := { Group.fresh { ctx := ctx, seq := 0, lgi := 0 } d with warps := (List.range d.warps).map fun w => Warp.fresh w d.vregs 0 }
  match s.ctxOf ctx with
  | none => false
  | some c => (List.range 192).any fun k => c.dies.getLsbD (dieOf k) && (s.coreAt k).fits [] g

/-- The refusal of R334 after the descriptor's read; `node`: the packet is a node bind; items: the item count of a grid launch. -/
def State.refusal (s : State) (ctx : Nat) (b : List Byte) (node : Bool) (items : Nat) : Option Nat :=
  let d := descOf b
  if d.entry % 16 ≠ 0 ∨ d.sched % 64 ≠ 0 then some 2
  else if field b 6 2 ≠ 0 ∨ field b 14 2 ≠ 0 ∨ 16 ≤ field b 21 1 ∨ !zeros b 28 228 then some 3
  else if d.version ≠ 0x0100 then some 4
  else if d.vregs < 16 ∨ 128 < d.vregs ∨ d.warps < 1 ∨ 16 < d.warps ∨ 128 < d.pages ∨ 21 < d.units ∨ 4 < d.draw ∨
      (d.node != (d.timer != 0)) ∨ (!d.determ && d.staging != 0) then some 5
  else if (d.node && d.determ) || (d.node && d.partialOk) || d.node != node then some 6
  else if !node && (if d.partialOk then decide (items < 1) || decide (96 * d.warps < items) else items != 0) then some 7
  else if !s.couldHold ctx d then some 8
  else none

/-! ### Completion (R342, R343, R350) -/

/-- The engines of a launch's groups have nothing left: copies, tile operations, collectives and diverted operations are
performed (R342). -/
def State.enginesDone (s : State) (l : Launch) : Bool :=
  (s.groups.filter fun g => g.ref.ctx == l.ctx && g.ref.seq == l.seq).all fun g =>
    g.schedWait.isEmpty && g.warps.all fun w => w.entries.isEmpty && w.copyQ.isEmpty && w.tileQ.isEmpty && w.collQ.isEmpty

/-- The virtual address of a packet of the ring (R345). -/
def Queue.packetVa (q : Queue) (i : Nat) : Nat := q.ring + 64 * (i % 2 ^ q.log2)

/-- The launch whose store published the packet index, 0 for none or the host (R352) (DEDUCED, log entry 50). -/
def Queue.parentOf (q : Queue) (ridx : Nat) : Nat := ((q.stores.find? fun x => decide (ridx < x.1)).map (·.2)).getD 0

/-- A packet of a queue that a launch has published and that is not consumed yet launches a grid, or may lead to one through a buffer
(R352) (DEDUCED, log entry 109). While its page is not present it may. -/
def State.publishes (s : State) (q : Queue) (seq : Nat) : Bool :=
  (q.stores.any fun x => x.2 == seq) &&
  match s.fwGet q.ctx q.ridxVa 8 with
  | none => true
  | some r =>
    let top := (q.stores.map (·.1)).foldl max 0
    (List.range (top - leNat r.1)).any fun k =>
      let i := leNat r.1 + k
      q.parentOf i == seq &&
        (match (q.line.find? (·.1 == i)).map (·.2) <|> (s.fwGet q.ctx (q.packetVa i) 64).map (·.1) with
         | none => true
         | some b => field b 0 1 == 1 || field b 0 1 == 3)

/-- Every child grid of the launch is complete, those that a packet in a queue still publishes among them (R342, R352). -/
def State.childrenDone (s : State) (l : Launch) : Bool :=
  (s.launches.all fun c => !(c.ctx == l.ctx && c.parent == l.seq) || (c.complete && !c.aborted)) &&
  s.queues.all fun q => !(q.ctx == l.ctx && s.publishes q l.seq)

/-- The launch has nothing left to wait for (R342) (DEDUCED, log entry 48). -/
def State.launchDone (s : State) (l : Launch) : Bool :=
  s.ended l && !l.aborted && (!l.split || l.only.isSome || l.reported) && s.enginesDone l &&
  (!l.desc.determ || decide (l.total ≤ l.released)) && s.childrenDone l

/-- A release at a scope on every core that ran a group of the launch (R343): none while a write of them waits at a granule that is
being copied, whatever the scope (R441), or at sys while a remote write is not acknowledged (R240). -/
def State.releaseCores (s : State) (scope : Nat) : List Nat → Option State
  | [] => if scope = 2 && !s.acked noCore then none else some s
  | k :: r =>
    let t := if scope = 0 then s else s.writeBackAll k
    if t.coreParked k || (scope == 2 && !t.acked k) then none else t.releaseCores scope r

/-- A launch with its child grids, and theirs (R342, R352): they follow their parents in the table. -/
def State.family (s : State) (l : Launch) : List Launch :=
  s.launches.foldl (fun fam c => if c.ctx = l.ctx ∧ c.parent ≠ 0 ∧ fam.any (·.seq == c.parent) then fam ++ [c] else fam) [l]

/-- The cores that ran a group of a launch or of its child grids. -/
def State.familyCores (s : State) (l : Launch) : List Nat := ((s.family l).flatMap (·.ranCores)).eraseDups

/-- The state that a launch's completion is judged on: what its groups and its child grids have stored, a packet or a write index among
it, wherever it lies (R342). -/
def State.lookedAt (s : State) (l : Launch) : State := (s.familyCores l).foldl State.writeBackAll s

/-- The scope at which a launch's completion orders (R343): its packet's, and sys while it is split (R371). -/
def Launch.ends (l : Launch) : Nat := if l.split || l.only.isSome then 2 else l.release

/-- The releases of a completing launch (R343): on every core that ran a group of it or of its child grids, whose writes the reader of
the signal sees as well (R344); at sys their remote writes are acknowledged. -/
def State.releaseLaunch (s : State) (l : Launch) : Option State :=
  if l.ends = 2 ∧ !((s.family l).all fun c => s.ackedOf c.ctx c.seq) then none else s.releaseCores l.ends (s.familyCores l)

/-- The context's state as its launches stand (R366): idle once every admitted launch is complete or aborted. -/
def State.settleCtx (s : State) (ctx : Nat) : State :=
  if s.launches.all fun l => l.ctx != ctx || s.settled l then
    s.updCtx ctx fun c => { c with state := if c.state = .running then .idle else c.state }
  else s

/-- A launch's signal is due: it is added, or its queue enters error with SIGNAL_FAULT at the packet that it has reached, or, when it
is in error or stopped already, the host error queue takes the record (R351). -/
def State.signal (s : State) (l : Launch) : Option State :=
  if l.sigVa = 0 then some s
  else match s.engineAdd noCore l.ctx l.sigVa l.sigInc with
    | .ok _ _ t => some t
    | .wait => none
    | .fail _ _ t =>
      match t.queueOf l.sigQueue with
      | some q =>
        (t.fwGet q.ctx q.ridxVa 8).bind fun r =>
          if q.ctx ≠ l.ctx ∨ q.state = .error ∨ q.state = .stopped then
            some (r.2.hostError (t.tenantOf l.ctx) (errorRecord 0x14 l.level l.sigQueue l.header.toNat (leNat r.1) l.pktVa))
          else r.2.queueError q 0x14 l.level l.header.toNat (leNat r.1) l.pktVa
      | none => some (t.hostError (t.tenantOf l.ctx) (errorRecord 0x14 l.level l.sigQueue l.header.toNat 0 l.pktVa))

/-- The launch is complete. -/
def State.markComplete (s : State) (l : Launch) : State := (s.updLaunch l.ctx l.seq fun l => { l with complete := true }).settleCtx l.ctx

/-- The launch completes (R343): the releases, then its signal; on the target of a MIGRATE the source writes the signal (R371). -/
def State.completeLaunch (s : State) (l : Launch) : Option State :=
  (s.releaseLaunch l).bind fun t =>
    (if l.only.isSome then some t else t.signal l).map (·.markComplete l)

/-- LAUNCH_COMPLETE (R343): A launch completes; cores release and the completion signal is written. An aborted one counts as
complete once what had started has ended, and its signal is never written (R368). A node launch completes at its unbind (R356). -/
def execLaunchComplete (ctx seq : Nat) (s : State) : Result :=
  .next <| match s.launchOf ctx seq with
    | none => s
    | some l =>
      if l.complete || (l.node.isSome && !l.aborted) then s
      else if l.aborted then (if s.ended l then s.markComplete l else s)
      else if (s.lookedAt l).launchDone l then (s.completeLaunch l).getD s
      else s

/-! ### The front end (R345..R351) -/

/-- What the front end finds in a queue. -/
inductive Front1 where
  | later
  | empty (s : State)
  | error (code header va ridx : Nat) (s : State)
  | packet (bs : List Byte) (va level widx ridx : Nat) (s : State)

/-- The packets from index i on that lie in one 512-byte line below the write index, read in one access (R346); `n` bounds them. -/
def State.readLine (s : State) (q : Queue) (widx : Nat) : Nat → Nat → List (Nat × List Byte) × State
  | 0, _ => ([], s)
  | n + 1, i =>
    if widx ≤ i then ([], s)
    else match s.fwRead q.ctx (q.packetVa i) 64 with
      | .ok bs _ t =>
        let x := if (i + 1) % 8 = 0 then ([], t) else t.readLine q widx n (i + 1)
        ((i, bs) :: x.1, x.2)
      | _ => ([], s)

/-- What the read of the packet at the read index gives: the others of its line are read with it (R346). -/
def Queue.lined (q : Queue) (widx ridx : Nat) : EGot → EGot
  | .ok bs _ t =>
    let x := t.readLine q widx 8 ridx
    .ok bs [] (x.2.updQueue q.num fun q => { q with line := x.1 })
  | other => other

/-- The packet at the read index of a ring: from the line that has been read, else with the others of its line (R346). -/
def State.ringPacket (s : State) (q : Queue) (widx ridx : Nat) : EGot :=
  match q.line.find? (·.1 == ridx) with
  | some x => .ok x.2 [] s
  | none => q.lined widx ridx (s.fwRead q.ctx (q.packetVa ridx) 64)

/-- What the read of the next packet gives: it lies at va, at the queue's deepest level. -/
def Queue.next (q : Queue) (va widx ridx : Nat) : EGot → Front1
  | .wait => .later
  | .fail _ _ t => .error 0x10 0 va ridx t
  | .ok bs _ t => .packet bs va q.nest.length widx ridx t

/-- The indices of a queue once its read index can be written (R345, R351): out of range, equal, or with a packet to read. -/
def Queue.indexed (q : Queue) (widx ridx : Nat) : EGot → Front1
  | .wait => .later
  | .fail _ _ t => .error 0x10 0 0 ridx t
  | .ok _ _ s =>
    if widx < ridx ∨ ridx + 2 ^ q.log2 < widx then .error 0x17 0 0 ridx s
    else if widx = ridx then .empty s
    else match q.nest with
      | n :: _ => q.next n.va widx ridx (s.fwRead q.ctx n.va 64)
      | [] => q.next (q.packetVa ridx) widx ridx (s.ringPacket q widx ridx)

/-- What the read of a queue's read index gives. -/
def Queue.ridxRead (q : Queue) (widx : Nat) : EGot → Front1
  | .wait => .later
  | .fail _ _ t => .error 0x10 0 0 0 t
  | .ok r _ s => q.indexed widx (leNat r) (s.engineCheck noCore q.ctx [] (pieces q.ridxVa 8))

/-- What the read of a queue's write index gives. The write index that cannot be read leaves the read index in the error record, where
that can be. -/
def Queue.widxRead (q : Queue) : EGot → Front1
  | .wait => .later
  | .fail _ _ t => match t.fwGet q.ctx q.ridxVa 8 with | none => .later | some r => .error 0x10 0 0 (leNat r.1) r.2
  | .ok w _ s => q.ridxRead (leNat w) (s.fwRead q.ctx q.ridxVa 8)

/-- The front end reads a queue's indices and its next packet, in the order of R351 (DESIGN CHOICE, log entry 46). -/
def State.frontRead (s : State) (q : Queue) : Front1 := q.widxRead (s.fwRead q.ctx q.widxVa 8)

/-- The levels of a queue once the packet at the deepest one is consumed: an indirect packet goes with its last packet. -/
def popNest : List Nest → List Nest
  | [] => []
  | n :: r => if 1 < n.left then { va := n.va + 64, left := n.left - 1 } :: r else popNest r

/-- A packet is consumed (R347, R348): the read index advances once no level is left, with a release at dev (R345). -/
def State.consume (s : State) (q : Queue) (widx ridx : Nat) : State :=
  let rest := popNest q.nest
  let s1 := s.updQueue q.num fun q => { q with nest := rest, waitFor := none, unbind := none, state := .active }
  if rest.isEmpty then
    (match s1.fwWrite q.ctx q.ridxVa (leBytes 8 (ridx + 1)) with | .ok _ _ t => t | _ => s1).updQueue q.num fun q =>
      { q with state := if widx = ridx + 1 then QState.idle else QState.active, stores := q.stores.filter fun x => ridx + 1 < x.1,
               line := q.line.filter fun x => x.1 != ridx }
  else s1

/-- What acting on a packet ends in. -/
inductive Acted where
  | done (s : State)
  | kept (s : State)
  | waits (s : State)
  | error (code : Nat) (s : State)
  | later

/-- Every earlier launch of a queue is complete (R348) (DEDUCED, log entry 49). -/
def State.queueClear (s : State) (q : Queue) : Bool :=
  s.launches.all fun l => !(l.ctx == q.ctx && l.queue == q.num) || l.complete

/-- The header of a packet is sound (R348). -/
def headerSound (h : Nat) : Bool :=
  h / 2 ^ 20 == 0 && h / 2 ^ 16 % 16 == 1 && h / 2 ^ 13 % 8 == 0 && h / 2 ^ 10 % 4 != 3 && h / 2 ^ 8 % 4 != 3 && decide (h % 256 ≤ 7)

/-- A signal's address and increment are sound (R349). -/
def signalSound (va inc : Nat) : Bool := va / 2 ^ 48 == 0 && va % 8 == 0 && (va == 0 || inc != 0)

/-- A launch is admitted (R350, R366): it takes the context's next sequence number. -/
def State.enlist (s : State) (q : Queue) (l : Launch) : State :=
  State.updCtx { s with launches := s.launches ++ [l] } q.ctx fun c =>
    { c with nextSeq := c.nextSeq + 1, state := if c.state = .idle then .running else c.state }

/-- A grid launch packet (R334, R341, R349, R350). -/
def State.actGrid (s : State) (q : Queue) (b : List Byte) (va level ridx : Nat) : Acted :=
  let h := field b 0 4
  let prio := field b 4 1
  let gx := field b 24 4
  let gy := field b 28 4
  let gz := field b 32 4
  let daddr := field b 8 8
  let arg := field b 16 8
  if 8 ≤ prio ∨ q.cap < prio ∨ !zeros b 5 3 ∨ daddr / 2 ^ 48 ≠ 0 ∨ daddr % 256 ≠ 0 ∨ arg / 2 ^ 48 ≠ 0 ∨ arg % 16 ≠ 0 ∨
      gx = 0 ∨ gy = 0 ∨ gz = 0 ∨ 2 ^ 32 < gx * gy * gz ∨ !signalSound (field b 40 8) (field b 48 8) ∨ !zeros b 56 8 then .error 0x12 s
  else match s.frontGranules q.ctx daddr 8 with
    | .wait => .later
    | .fail _ t => .error 0x01 t
    | .ok d t =>
      match t.refusal q.ctx d false (field b 36 4) with
      | some c => .error c t
      | none =>
        .done (t.enlist q {
          ctx := q.ctx, seq := ((t.ctxOf q.ctx).map (·.nextSeq)).getD 1, queue := q.num, header := BitVec.ofNat 32 h, pktVa := va,
          level := level, prio := prio, desc := descOf d, arg := arg, dx := gx, dy := gy, dz := gz, items := field b 36 4,
          sigVa := field b 40 8, sigInc := field b 48 8, sigQueue := q.num, acquire := h / 2 ^ 8 % 4, release := h / 2 ^ 10 % 4,
          parent := q.parentOf ridx, next := 0, total := gx * gy * gz, released := 0, acqCores := [], ranCores := [],
          node := none, aborted := false, complete := false, split := false, reported := false, only := none })

/-- An indirect packet (R350, R351): the front end goes one level deeper. -/
def State.actIndirect (s : State) (q : Queue) (b : List Byte) (level : Nat) : Acted :=
  let va := field b 8 8
  let n := field b 16 4
  if level = 4 then .error 0x13 s
  else if !zeros b 4 4 ∨ va / 2 ^ 48 ≠ 0 ∨ va % 64 ≠ 0 ∨ n = 0 ∨ 2 ^ 20 < n ∨ !zeros b 20 44 then .error 0x12 s
  else .kept (s.updQueue q.num fun q => { q with nest := { va := va, left := n } :: q.nest, waitFor := none, state := .active })

/-- What the words of a wait packet say (R350): a page that is being brought in, a failure, or whether all are at their targets. -/
inductive Reached where
  | later
  | failed (s : State)
  | all (b : Bool) (s : State)

/-- The words of a wait packet are at their targets (R350). -/
def State.wordsReached (s : State) (ctx : Nat) : List (Nat × Nat) → Reached
  | [] => .all true s
  | (va, target) :: r =>
    if va = 0 then s.wordsReached ctx r
    else match s.fwRead ctx va 8 with
      | .wait => .later
      | .fail _ _ t => .failed t
      | .ok bs _ t =>
        match t.wordsReached ctx r with
        | .all b u => .all (b && decide (target ≤ leNat bs)) u
        | other => other

/-- A wait packet (R349, R350). -/
def State.actWait (s : State) (q : Queue) (b : List Byte) : Acted :=
  let ws := ([8, 24, 40] : List Nat).map fun o => (field b o 8, field b (o + 8) 8)
  if !zeros b 4 4 ∨ !zeros b 56 8 ∨ (ws.all fun w => w.1 == 0) ∨ (ws.any fun w => w.1 % 8 != 0 || w.1 / 2 ^ 48 != 0) then .error 0x12 s
  else match s.wordsReached q.ctx ws with
    | .later => .later
    | .failed t => .error 0x14 t
    | .all true t => .done t
    | .all false t => .waits t

/-- The front end's own release at the header's scope has nothing to wait for: at sys its remote writes are acknowledged, at dev it
leaves none behind (R232, R240, R350). -/
def State.frontReleases (s : State) (h : Nat) : Bool := h / 2 ^ 10 % 4 != 2 || s.acked noCore

/-- A signal packet (R349, R350): a release at the header's scope, then the add. -/
def State.actSignal (s : State) (q : Queue) (b : List Byte) : Acted :=
  let va := field b 8 8
  if !zeros b 4 4 ∨ !signalSound va (field b 16 8) ∨ !zeros b 24 40 then .error 0x12 s
  else if !s.frontReleases (field b 0 4) then .later
  else if va = 0 then .done s
  else match s.engineAdd noCore q.ctx va (field b 16 8) with
    | .ok _ _ t => .done t
    | .fail _ _ t => .error 0x14 t
    | .wait => .later

/-- A record fence (R350): the record caches of the front end and of every core that runs a group of the context; a core that ran one
before keeps no granule of it either, since later stage releases read the stored bytes. -/
def State.actRecordFence (s : State) (q : Queue) (b : List Byte) : Acted :=
  if !zeros b 4 60 then .error 0x12 s
  else
    let runs (k : Nat) : Bool := s.groups.any fun g => g.ref.ctx == q.ctx && g.onCore && g.core == k
    .done { s with
      switor := { s.switor with recs := [] },
      cores := (List.range s.cores.length).map fun k => let c := s.coreAt k; { c with recs := if runs k then [] else c.recs.filter (·.ctx != q.ctx) } }

/-- A context fence (R350): the launches that were admitted before it was reached, then a release. -/
def State.actContextFence (s : State) (q : Queue) (b : List Byte) : Acted :=
  if !zeros b 4 60 then .error 0x12 s
  else
    let want := q.waitFor.getD ((s.launches.filter (·.ctx == q.ctx)).map (·.seq))
    if (want.all fun n => s.launches.all fun l => !(l.ctx == q.ctx && l.seq == n) || l.complete) && s.frontReleases (field b 0 4) then .done s
    else .waits (s.updQueue q.num fun q => { q with waitFor := some want })

/-- The kind of a packet: its type, 8 for a node bind that unbinds (R353). -/
def packetKind (b : List Byte) : Nat := if field b 0 1 = 2 ∧ field b 8 8 = 0 then 8 else field b 0 1

/-- The front end's turn on a queue, for a packet of the kinds of a list (R347..R351); `act` is what the packet does. A packet of
another kind is not reached by this turn; errors are found by every one (DEDUCED, log entry 45). -/
def State.frontEnd (s : State) (n : Nat) (kinds : List Nat) (act : State → Queue → List Byte → Nat → Nat → Nat → Acted) : State :=
  match s.queueOf n with
  | none => s
  | some q =>
    if q.state = .error ∨ q.state = .stopped then s
    else match s.frontRead q with
      | .later => s
      | .empty t => t.updQueue n fun q => { q with state := .idle }
      | .error code header va ridx t => (t.queueError q code q.nest.length header ridx va).getD s
      | .packet b va level widx ridx t =>
        let h := field b 0 4
        if !headerSound h then (t.queueError q 0x11 level h ridx va).getD s
        else if !kinds.contains (packetKind b) then s
        else if h / 2 ^ 12 % 2 = 1 ∧ !t.queueClear q then t.updQueue n fun q => { q with state := .waiting }
        else match act (t.updQueue n fun q => { q with state := .active }) q b va level ridx with
          | .done u => u.consume q widx ridx
          | .kept u => u
          | .waits u => u.updQueue n fun q => { q with state := .waiting }
          | .error code u => (u.queueError q code level h ridx va).getD s
          | .later => t

/-- PACKET_NOP (R348): A nop packet is consumed. -/
def execPacketNop (q : Nat) (s : State) : Result :=
  .next (s.frontEnd q [0] fun t _ b _ _ _ => if zeros b 4 60 then .done t else .error 0x12 t)

/-- GRID_LAUNCH (R350): A grid launch packet is admitted and takes a launch sequence number. -/
def execGridLaunch (q : Nat) (s : State) : Result := .next (s.frontEnd q [1] fun t q b va level ridx => t.actGrid q b va level ridx)

/-- INDIRECT_BUFFER (R350): An indirect packet makes the front end read a buffer of packets one level deeper. -/
def execIndirectBuffer (q : Nat) (s : State) : Result := .next (s.frontEnd q [3] fun t q b _ level _ => t.actIndirect q b level)

/-- WAIT_PACKET (R350): A wait packet makes the queue wait until named words reach their targets. -/
def execWaitPacket (q : Nat) (s : State) : Result := .next (s.frontEnd q [4] fun t q b _ _ _ => t.actWait q b)

/-- SIGNAL_PACKET (R350): A signal packet releases and adds an increment. -/
def execSignalPacket (q : Nat) (s : State) : Result := .next (s.frontEnd q [5] fun t q b _ _ _ => t.actSignal q b)

/-- RECORD_FENCE (R350): Invalidates the record caches of the front end and of cores running the context. -/
def execRecordFence (q : Nat) (s : State) : Result := .next (s.frontEnd q [6] fun t q b _ _ _ => t.actRecordFence q b)

/-- CONTEXT_FENCE (R350): Waits for every earlier launch of the context, then releases. -/
def execContextFence (q : Nat) (s : State) : Result := .next (s.frontEnd q [7] fun t q b _ _ _ => t.actContextFence q b)

end Sys2Proof.Machine
end

