-- ==== Sys2Proof/Machine/Node.lean ====
section
/-!
DEFINITION. Node launches (17_queue.md R353..R358): bindings, the hardware queue and the rick, the baler's groups, unbinding;
and the queue's turn whatever its packet (R347).
-/
namespace Sys2Proof.Machine

/-! ### The baler (R354, R355) -/

/-- The group capacity C of a node kernel (R353). -/
def Desc.capacity (d : Desc) : Nat := 96 * d.warps

/-- Bytes from one batch to the next (R353). -/
def batchStride (c : Nat) : Nat := (64 + 16 * c + 255) / 256 * 256

/-- Records queued in the hardware queue and the rick together, R. -/
def Node.queued (n : Node) : Nat := n.hw.length + n.rick.length

/-- A node's record changed. -/
def State.updNode (s : State) (ctx num : Nat) (f : Node → Node) : State :=
  { s with nodes := s.nodes.map fun n => if n.ctx = ctx ∧ n.num = num then f n else n }

/-- The bytes of a batch (R355). -/
def batchBytes (n : Node) (recs : List (BitVec 128)) : List Byte :=
  leBytes 4 recs.length ++ leBytes 4 n.num ++ leBytes 4 n.formed ++ leBytes 4 0 ++ leBytes 8 n.arg ++ leBytes 40 0 ++
  recs.flatMap fun r => leBytes 16 r.toNat

/-- A group of a node launch before its placement (R107, R118, R355). -/
def nodeGroup (l : Launch) (n : Node) (batch count : Nat) : Group :=
  let x := BitVec.ofNat 32 n.formed
  { Group.fresh { ctx := l.ctx, seq := l.seq, lgi := n.formed } l.desc with
    gx := x, dx := 0xFFFFFFFF#32, dy := 1, dz := 1, prio := l.prio, batch := some batch,
    warps := (List.range l.desc.warps).map fun w => launchWarp l.desc batch x 0 0 (firstLanes count w) w }

/-- The batch that a formation takes, any of the free ones, and those that stay free (DESIGN CHOICE, log entry 53). -/
def State.takeBatch (s : State) (n : Node) : Option (Nat × List Nat) :=
  match n.freeBatch with
  | [] => none
  | [b] => some (b, [])
  | b :: c :: r =>
    let x := (b :: c :: r).getD (Config.freePlace (8 * s.tick + 7) % (r.length + 2)) b
    some (x, (b :: c :: r).erase x)

/-- A formed group is pending, its records gone from the hardware queue and the rick (R354, R355); `x`: its batch and those that stay
free. -/
def State.formed (s : State) (n : Node) (l : Launch) (x : Nat × List Nat) (hw rick : List (BitVec 128)) (count : Nat) : State :=
  let s1 := s.updNode n.ctx n.num fun m =>
    { m with hw := hw, rick := rick,
             rickHead := if m.quota = 0 then 0 else (m.rickHead + (n.rick.length - rick.length)) % m.quota,
             freeBatch := x.2, formed := m.formed + 1, timerOn := !hw.isEmpty && !m.unbinding }
  { (s1.updLaunch l.ctx l.seq fun l => { l with total := l.total + 1 }) with
    groups := s1.groups ++ [nodeGroup l n x.1 count], tick := s1.tick + 1 }

/-- The baler forms a group from the oldest records when a batch is free (R355): the batch is written, and the group is pending. The
timer is stopped, and restarted when records remain. The formation waits while the batch cannot be written (R378, R387); there is none
for a launch that is aborted or split (R368; DESIGN CHOICE, log entry 110). -/
def State.formGroup (s : State) (n : Node) (l : Launch) : Option State :=
  if l.aborted || l.split then none
  else (s.takeBatch n).bind fun x =>
    let count := min l.desc.capacity n.queued
    let all := n.hw ++ n.rick
    let left := all.drop count
    let rick := left.drop 256
    let bs := batchBytes n (all.take count)
    if count = 0 then none
    else match s.fwWrite n.ctx x.1 bs with
      | .wait => none
      | .ok _ _ t => some (t.formed n l x (left.take 256) rick count)
      | .fail _ _ t => some (t.formed n l x (left.take 256) rick count)

/-- Groups formed while records and batches are there, at most a number of them. -/
def State.formAll (s : State) (ctx num : Nat) : Nat → State
  | 0 => s
  | k + 1 =>
    match s.nodeOf ctx num with
    | none => s
    | some n =>
      match s.launchOf ctx n.launch with
      | none => s
      | some l =>
        match s.formGroup n l with
        | none => s
        | some t => t.formAll ctx num k

/-- A record accepted into the hardware queue or at the tail of the rick, which lies in memory (R354): none where it is refused.
The timer starts with the first record. -/
def State.acceptRecord (s : State) (n : Node) (r : BitVec 128) : Option State :=
  let timer := n.timerOn || n.queued == 0
  if n.hw.length < 256 then some (s.updNode n.ctx n.num fun m => { m with hw := m.hw ++ [r], timerOn := timer })
  else if n.rick.length < n.quota then
    some ((s.fwPut n.ctx (n.rickVa + 16 * ((n.rickHead + n.rick.length) % n.quota)) (leBytes 16 r.toNat)).updNode n.ctx n.num fun m =>
      { m with rick := m.rick ++ [r], timerOn := timer })
  else none

/-- A record offered to a node (R354, R356, R358): accepted, with the group that it completes formed, or the cause of its
refusal. A formation that finds no batch free waits, the timer stopped (R355). -/
def State.offerRecord (s : State) (ctx num : Nat) (r : BitVec 128) : Except Cause State :=
  match s.nodeOf ctx num with
  | none => .error .prot
  | some n =>
    if n.unbinding then .error .prot
    else match s.acceptRecord n r, s.launchOf ctx n.launch with
      | some t, some l =>
        match t.nodeOf ctx num with
        | none => .ok t
        | some m =>
          if m.queued = l.desc.capacity then
            .ok ((t.formGroup m l).getD (t.updNode ctx num fun m => { m with timerOn := false }))
          else .ok t
      | _, _ => .error .quota

/-- The records of an nemit offered in increasing logical lane order (R357). -/
def State.offerAll (s : State) (num : Nat) : List LaneReq → State × List LaneFail
  | [] => (s, [])
  | r :: rest =>
    match s.offerRecord s.g.ref.ctx num r.data with
    | .ok t => t.offerAll num rest
    | .error c => let x := s.offerAll num rest; (x.1, { lane := r.lane, cause := c, addr := 0 } :: x.2)

/-- An nemit reaches the baler, after those that its warp issued before it and with its release at dev (R236, R357). Its failures
have no address. -/
def State.nemitDone (s : State) (seq : Nat) : Option State :=
  (s.w.entryAt seq 4).bind fun e =>
    match e.op with
    | .nemit num =>
      if (s.w.entries.any fun d => !d.done && decide (d.seq < seq) && (match d.op with | .nemit _ => true | _ => false)) || !s.w.allDone seq then none
      else (s.release 1).map fun t =>
        let x := t.offerAll num e.reqs
        x.1.finishAny { e with fails := x.2 }
    | _ => none

/-- NODE_RECORD_OFFER (R354): A record reaches the baler and is accepted into the hardware queue or rick, or refused
(DESIGN CHOICE, log entry 52). -/
def execNodeRecordOffer (r : WRef) (seq : Nat) : State → Result := onWarpAny r (·.nemitDone seq)

/-- NODE_TIMER_LAPSE (R355): The node timer lapses with records queued and a group is formed; with no batch free the formation
waits, and the timer does not restart. -/
def execNodeTimerLapse (ctx node : Nat) (s : State) : Result :=
  .next <| match s.nodeOf ctx node with
    | none => s
    | some n =>
      if n.timerOn && n.queued != 0 then
        match s.launchOf ctx n.launch with
        | some l => (s.formGroup n l).getD (s.updNode ctx node fun m => { m with timerOn := false })
        | none => s
      else s

/-- BATCH_FREE_FORMATION (R355): A waiting formation proceeds when a batch becomes free. -/
def execBatchFreeFormation (ctx node : Nat) (s : State) : Result :=
  .next <| match s.nodeOf ctx node with
    | none => s
    | some n =>
      if n.timerOn || n.queued == 0 then s
      else match s.launchOf ctx n.launch with
        | some l => (s.formGroup n l).getD s
        | none => s

/-! ### Binding (R353, R356) -/

/-- The body of a node bind packet is within R353. -/
def bindSound (q : Queue) (b : List Byte) : Bool :=
  decide (field b 4 1 < 8) && decide (field b 4 1 ≤ q.cap) && zeros b 6 2 && field b 8 8 / 2 ^ 48 == 0 && field b 8 8 % 256 == 0 &&
  field b 24 8 / 2 ^ 48 == 0 && field b 24 8 % 4096 == 0 && decide (field b 32 4 ≤ 2 ^ 24) &&
  decide (1 ≤ field b 36 4) && decide (field b 36 4 ≤ 65535) && field b 40 8 / 2 ^ 48 == 0 && field b 40 8 % 256 == 0 &&
  signalSound (field b 48 8) (field b 56 8)

/-- Hardware queues in use: command queues and nodes (R353, R360). -/
def State.hardwareQueues (s : State) : Nat := s.queues.length + s.nodes.length

/-- A node bind (R334, R350, R351, R353) (DEDUCED, log entry 58). -/
def State.actBind (s : State) (q : Queue) (b : List Byte) (va level : Nat) : Acted :=
  let h := field b 0 4
  let num := field b 5 1
  if !bindSound q b then .error 0x12 s
  else match s.frontGranules q.ctx (field b 8 8) 8 with
    | .wait => .later
    | .fail _ t => .error 0x01 t
    | .ok d t =>
      match t.refusal q.ctx d true 0 with
      | some c => .error c t
      | none =>
        if (t.nodeOf q.ctx num).isSome then .error 0x15 t
        else if 1024 ≤ t.hardwareQueues then .error 0x16 t
        else
          let seq := ((t.ctxOf q.ctx).map (·.nextSeq)).getD 1
          let pool := field b 40 8
          let n : Node :=
            { ctx := q.ctx, num := num, launch := seq, arg := field b 16 8, rickVa := field b 24 8, quota := field b 32 4,
              batches := field b 36 4, pool := pool, hw := [], rick := [], rickHead := 0, timerOn := false,
              freeBatch := (List.range (field b 36 4)).map fun i => pool + batchStride (descOf d).capacity * i, formed := 0, unbinding := false }
          let l : Launch :=
            { ctx := q.ctx, seq := seq, queue := q.num, header := BitVec.ofNat 32 h, pktVa := va, level := level, prio := field b 4 1,
              desc := descOf d, arg := field b 16 8, dx := 2 ^ 32 - 1, dy := 1, dz := 1, items := 0, sigVa := 0, sigInc := 0, sigQueue := q.num,
              -- the acquire at dev of R357 comes before the node group's first slot, whatever the packet's scope
              acquire := max 1 (h / 2 ^ 8 % 4), release := h / 2 ^ 10 % 4, parent := 0, next := 0, total := 0, released := 0,
              acqCores := [], ranCores := [], node := some num, aborted := false, complete := false, split := false, reported := false,
              only := none }
          .done (State.enlist { t with nodes := t.nodes ++ [n] } q l)

/-- An unbind is reached (R356): the node takes no more records, and the baler forms groups from those that it has. A node whose unbind
was cut short by a stop of its queue is taken over by the packet that comes next (R347). -/
def State.actUnbind (s : State) (q : Queue) (b : List Byte) (va level : Nat) : Acted :=
  let num := field b 5 1
  if q.unbind.isSome then .waits s
  else if !bindSound q b then .error 0x12 s
  else match s.nodeOf q.ctx num with
    | none => .error 0x15 s
    | some n =>
      if s.queues.any fun x => x.ctx == q.ctx && x.unbind == some num then .waits s
      else
        let s1 := s.updNode q.ctx num fun n => { n with unbinding := true, timerOn := false }
        let s2 := s1.formAll q.ctx num (n.queued + 1)
        .waits ((s2.updLaunch q.ctx n.launch fun l =>
            { l with sigQueue := q.num, header := BitVec.ofNat 32 (field b 0 4), pktVa := va, level := level, sigVa := field b 48 8,
                     sigInc := field b 56 8, release := field b 0 4 / 2 ^ 10 % 4 }).updQueue q.num fun q => { q with unbind := some num })

/-- NODE_BIND (R353): A node number is bound to a node kernel with a hardware queue and rick. -/
def execNodeBind (q : Nat) (s : State) : Result := .next (s.frontEnd q [2] fun t q b va level _ => t.actBind q b va level)

/-- NODE_UNBIND (R356): A node bind with descriptor 0 starts unbinding the node (DEDUCED, log entry 44). -/
def execNodeUnbind (q : Nat) (s : State) : Result := .next (s.frontEnd q [8] fun t q b va level _ => t.actUnbind q b va level)

/-- Every group of an unbinding node is complete (R342, R356), on the target of a MIGRATE as well (R371); those of an aborted launch that had started have ended (R368). -/
def State.nodeDone (s : State) (n : Node) (l : Launch) : Bool :=
  n.unbinding && s.ended l && (!l.split || l.reported) && (l.aborted || (n.queued == 0 && s.enginesDone l && s.childrenDone l))

/-- The unbind packet is consumed (R356): none while its queue's indices are not to be had, and the queue in error when they cannot be
read or written (R351). -/
def State.unbound (s : State) (q : Queue) : Option (State × Bool) :=
  match s.frontRead q with
  | .packet _ _ _ widx ridx t => some (t.consume q widx ridx, true)
  | .error code header va ridx t => (t.queueError q code q.nest.length header ridx va).map fun u => (u, false)
  | _ => none

/-- The node and its hardware queue are free, and its launch is complete (R356). -/
def State.freeNode (s : State) (n : Node) (l : Launch) : State :=
  { s.markComplete l with nodes := s.nodes.filter fun m => !(m.ctx == n.ctx && m.num == n.num) }

/-- NODE_UNBIND_COMPLETE (R356): The node's groups complete, the signal is added and the node is freed. A signal that fails stops
the queue at the packet after the unbind (R351); that of an aborted launch is never written (R368). -/
def execNodeUnbindComplete (ctx node : Nat) (s : State) : Result :=
  .next <| match s.nodeOf ctx node, s.queues.find? fun q => q.ctx == ctx && q.unbind == some node with
    | some n, some q =>
      match s.launchOf ctx n.launch with
      | none => s
      | some l =>
        if !((s.lookedAt l).nodeDone n l) ∨ q.state = .error ∨ q.state = .stopped then s
        else
          ((s.releaseLaunch l).bind fun t => (t.unbound q).bind fun x =>
            if !x.2 then some x.1
            else if l.aborted then some (x.1.freeNode n l)
            else (x.1.signal l).map (·.freeNode n l)).getD s
    | _, _ => s

/-! ### The queue's turn whatever its packet (R347) -/

/-- What a packet of any kind does. -/
def State.actAny (s : State) (q : Queue) (b : List Byte) (va level ridx : Nat) : Acted :=
  match packetKind b with
  | 0 => if zeros b 4 60 then .done s else .error 0x12 s
  | 1 => s.actGrid q b va level ridx
  | 2 => s.actBind q b va level
  | 3 => s.actIndirect q b level
  | 4 => s.actWait q b
  | 5 => s.actSignal q b
  | 6 => s.actRecordFence q b
  | 7 => s.actContextFence q b
  | _ => s.actUnbind q b va level

/-- A queue that waits looks again (R346, R347). -/
def State.queueLooks (s : State) (n : Nat) : State :=
  match s.queueOf n with
  | none => s
  | some q => if q.state = .waiting then s.frontEnd n [0, 1, 2, 3, 4, 5, 6, 7, 8] State.actAny else s

/-- A queue looks at its write index (R346, R347): an idle one that finds it above its read index reads the packet there and is
active. -/
def State.queueWakes (s : State) (n : Nat) : State :=
  match s.queueOf n with
  | none => s
  | some q =>
    if q.state ≠ .idle then s.queueLooks n
    else match s.frontRead q with
      | .later => s
      | .empty t => t
      | .error code header va ridx t => (t.queueError q code q.nest.length header ridx va).getD s
      | .packet _ _ _ _ _ t => t.updQueue n fun q => { q with state := .active }

/-- QUEUE_WAIT_SATISFIED (R347): A waiting queue's condition or barrier bit holds and the packet is consumed. -/
def execQueueWaitSatisfied (q : Nat) (s : State) : Result := .next (s.queueLooks q)

/-! ### Watched words (R263, R346) -/

/-- The read of a watched word ends the wait: the word meets its test, or it cannot be read, so that the wait traps when it
issues (R263, R326) (DEDUCED, log entry 79). -/
def State.watchMet (s : State) (va n : Nat) (met : List Byte → Bool) : Bool :=
  match s.peek s.g.core s.g.ref.ctx va false with
  | .fail _ => true
  | .away => false
  | .ok pa t => !s.parkedOver s.g.core pa n && ((s.homeFails pa n t.key true).isSome || met (s.homeRead pa n))

/-- A watched word: its address, its length and the test that ends the wait. -/
structure Watched where
  va : Nat
  len : Nat
  met : List Byte → Bool

/-- The word that the warp's wait watches: of the waitge or the mb.await that it stands at, of the packet that it holds. -/
def Warp.watched (w : Warp) : Option Watched :=
  w.packet.bind fun (a, p) =>
    let x := p.slot ((w.pc - a - 4) / 4)
    let r := w.regs
    if x &&& 0xFFFC000F#32 == 0xA8000002#32 then
      some { va := r.addrPair (x.extractLsb' 11 7), len := 8, met := fun bs => decide ((r.spair (x.extractLsb' 4 7)).toNat ≤ leNat bs) }
    else if x &&& 0xFFFFC000#32 == 0xACE00000#32 then
      some { va := r.addrPair (x.extractLsb' 7 7), len := 16, met := fun bs => field bs 12 4 != (r.sget (x.extractLsb' 0 7)).toNat }
    else none

/-- A stalled warp rereads its watched word, by a link operation where another device holds it (R395), and is ready once that ends the
wait (R108, R263). -/
def State.rewatch (s : State) : Option State :=
  if s.w.status = .stalled then
    s.w.watched.map fun x =>
      let t := match s.peek s.g.core s.g.ref.ctx x.va false with
        | .ok pa t => s.sendLoad s.g.core t.key pa 0 x.len
        | _ => s
      if s.watchMet x.va x.len x.met then { t with w := { t.w with status := .ready } } else t
  else none

/-- The watcher rereads its word. -/
def State.reread (s : State) (x : Watcher) : Result :=
  match x with
  | .warp r => onWarp r State.rewatch s
  | .queue q => .next (s.queueWakes q)

/-- WRITE_NOTICE (R263): A home slice notifies a watching core of a write to a watched line, which is reread. -/
def execWriteNotice (x : Watcher) (s : State) : Result := s.reread x

/-- REREAD_INTERVAL (R263): A watched word is reread after 1,024 cycles without a notice. -/
def execRereadInterval (x : Watcher) (s : State) : Result := s.reread x

end Sys2Proof.Machine
end

