-- ==== Sys2Proof/Machine/Context.lean ====
section
/-!
DEFINITION. Contexts and tenants (18_context.md R360..R371): command blocks, context states, and what the host does to
queues, groups and launches.
-/
namespace Sys2Proof.Machine

/-! ### Command blocks (R365) -/

/-- A command that a tenant's host writes: none through a disabled virtual function (R360); one with a nonzero field that it does not use
ends with status 2 (DESIGN CHOICE, log entry 112). -/
def onCommand (code : Nat) (c : Cmd) (clean : Bool) (f : State → State) (s : State) : Result :=
  .next <|
    if 16 ≤ c.tenant ∨ !(s.tenants.getD c.tenant Tenant.fresh).enabled then s
    else if !clean then s.answer code c 2
    else f s

/-- A command waits behind those of its context that came before: its window holds its block as written (R365). -/
def State.holdCommand (s : State) (w : Waiting) : State :=
  (s.showBlock w.code w.cmd (w.cmd.block.drop 1)).updCtx w.cmd.ctx fun x => { x with waiting := x.waiting ++ [w] }

/-- A command is under way: its window holds its block as written until it completes (R365). -/
def State.startCommand (s : State) (code : Nat) (c : Cmd) : State :=
  (s.showBlock code c (c.block.drop 1)).updCtx c.ctx fun x => { x with cmd := some (code, c) }

/-- A context's turn at a command: it waits while another one is under way, and behind those that came before it; after it the next one
follows (R365). It waits too while the memory that it needs is not present, which is where `f` gives none. -/
def State.command (s : State) (w : Waiting) (x : Context) (f : State → Option State) : State :=
  match x.waiting with
  | [] => if x.cmd.isSome then s.holdCommand w else (f s).getD (s.holdCommand w)
  | y :: rest =>
    if y = { w with now := true } then
      match f (s.updCtx x.id fun c => { c with waiting := rest }) with
      | some t => t.nextCommand x.id
      | none => s.updCtx x.id fun c => { c with waiting := w :: rest }
    else s.holdCommand w

/-- A command on a context of the tenant: status 2 where it names none, 1 in a state that does not accept it. -/
def onContext (code : Nat) (c : Cmd) (edits : List Edit) (clean : Bool) (accepts : CtxState → Bool)
    (f : Context → State → Option State) : State → Result :=
  onCommand code c clean fun s =>
    match s.ctxOf c.ctx with
    | none => s.answer code c 2
    | some x =>
      if x.tenant ≠ c.tenant then s.answer code c 2
      else s.command ⟨code, c, edits, false⟩ x fun t => if accepts x.state then f x t else some (t.answer code c 1)

/-- The states in which the context is not destroyed. -/
def CtxState.exists_ : CtxState → Bool
  | .destroyed => false
  | _ => true

/-! ### Creating a context (R361, R363) -/

/-- A context record is within R363; its pages at the root lie inside the tenant's windows. -/
def State.recordSound (s : State) (tenant : Nat) (r : List Byte) : Bool :=
  field r 0 8 / 2 ^ 52 == 0 && field r 0 8 % 4096 == 0 && s.inWindows tenant (field r 0 8) 4096 &&
  field r 8 8 / 2 ^ 48 == 0 && field r 8 8 % 4096 == 0 && field r 16 4 != 0 && field r 22 1 != 0 && zeros r 23 1 &&
  field r 24 8 % 256 == 0 && decide (4 ≤ field r 32 1) && decide (field r 32 1 ≤ 12) && zeros r 33 7 && field r 40 8 % 256 == 0 &&
  decide (1 ≤ field r 48 2) && decide (field r 48 2 ≤ 4096) && zeros r 50 14

/-- The context of a record (R363, R366) (DEDUCED, log entry 43). -/
def contextOf (id tenant : Nat) (r : List Byte) : Context :=
  { id := id, tenant := tenant, state := .created, root := field r 0 8, poolBase := field r 8 8, poolPages := field r 16 4, poolUsed := [],
    watchdog := field r 20 2, dies := BitVec.ofNat 8 (field r 22 1), trapBase := field r 24 8, trapLog2 := field r 32 1,
    afBase := field r 40 8, afCap := field r 48 2, nextSeq := 1, heldTraps := [], absent := [], heldAbsent := [],
    savedQueues := [], destroying := false, migrating := none, cmd := none, waiting := [], lost := 0 }

/-- CREATE (R365): Creates a context from a context record, in bytes 8.. of the command block; the device picks its number among the
free ones and writes it to bytes 2..3 (log entries 25, 124). -/
def execCreate (tenant : Nat) (block : List Byte) : State → Result :=
  let c : Cmd := { tenant := tenant, block := block }
  onCommand 1 c (zeros c.block 2 2) fun s =>
    let t := s.tenants.getD c.tenant Tenant.fresh
    let live := s.ctxs.filter fun c => c.state != .destroyed || c.destroying
    let free := (List.range 256).filter fun i => !(live.any (·.id == i))
    if !s.recordSound c.tenant c.operands then s.answer 1 c 2
    else if t.ctxLimit ≤ live.countP (·.tenant == c.tenant) then s.answer 1 c 3
    else match free[Config.freePlace (8 * s.tick + 4) % free.length]? with
      | none => s.answer 1 c 3
      | some id =>
        State.answer { s with ctxs := s.ctxs.filter (·.id != id) ++ [contextOf id c.tenant c.operands] } 1 (c.put 2 (leBytes 2 id)) 0

/-! ### Queues (R347, R365) -/

/-- A queue descriptor is within R345. -/
def queueSound (d : List Byte) : Bool :=
  field d 0 8 / 2 ^ 48 == 0 && field d 0 8 % 4096 == 0 && decide (4 ≤ field d 8 1) && decide (field d 8 1 ≤ 20) && decide (field d 9 1 < 8) &&
  zeros d 10 6 && field d 16 8 % 8 == 0 && field d 24 8 % 8 == 0 && field d 32 8 % 32 == 0 && zeros d 40 24

/-- The queue of a descriptor, in the stopped state (R345, R365). -/
def queueFrom (ctx num : Nat) (d : List Byte) : Queue :=
  { num := num, ctx := ctx, ring := field d 0 8, log2 := field d 8 1, cap := field d 9 1, widxVa := field d 16 8, ridxVa := field d 24 8,
    errVa := field d 32 8, state := .stopped, nest := [], line := [], waitFor := none, unbind := none, stores := [] }

/-- QUEUE_ADD (R365): Registers a hardware queue from a queue descriptor, in the stopped state; its number is one of the free ones and
goes to bytes 8..9 (log entries 25, 124). -/
def execQueueAdd (tenant : Nat) (block : List Byte) : State → Result :=
  let c : Cmd := { tenant := tenant, block := block }
  onContext 5 c [] true CtxState.exists_ fun _ s => some <|
    let free := (List.range 1024).filter fun i => !(s.queues.any (·.num == i))
    if !queueSound c.operands then s.answer 5 c 2
    else if 1024 ≤ s.hardwareQueues then s.answer 5 c 3
    else match free[Config.freePlace (8 * s.tick + 5) % free.length]? with
      | none => s.answer 5 c 3
      | some num =>
        State.answer { s with queues := s.queues ++ [queueFrom c.ctx num c.operands] } 5 (c.put 8 (leBytes 2 num)) 0

/-- A command on a queue of the context: status 2 where it names none, 1 in another queue state. -/
def onQueue (code : Nat) (c : Cmd) (accepts : CtxState → Bool) (from_ : QState → Bool) (f : State → State) : State → Result :=
  onContext code c [] (c.clean 10) accepts fun _ s => some <|
    match s.queueOf c.queue with
    | none => s.answer code c 2
    | some x =>
      if x.ctx ≠ c.ctx then s.answer code c 2
      else if !from_ x.state then s.answer code c 1
      else (f s).answer code c 0

/-- Neither destroyed nor suspended. -/
def CtxState.runs : CtxState → Bool
  | .destroyed => false
  | .suspended => false
  | _ => true

/-- QUEUE_START (R365): Starts a stopped queue; a created context becomes idle (R366), or as the launches that have arrived give it
(DEDUCED, log entry 111). -/
def execQueueStart (tenant : Nat) (block : List Byte) : State → Result :=
  let c : Cmd := { tenant := tenant, block := block }
  onQueue 6 c CtxState.runs (fun x => x == .stopped) fun s =>
    (s.updQueue c.queue fun x => { x with state := QState.idle }).updCtx c.ctx fun x =>
      { x with state := if x.state = .created then s.standing c.ctx else x.state }

/-- A queue stopped at a packet boundary: what it has read ahead is read again. -/
def Queue.stopped (q : Queue) : Queue := { q with state := .stopped, line := [] }

/-- QUEUE_STOP (R365): Stops a queue at a packet boundary. -/
def execQueueStop (tenant : Nat) (block : List Byte) : State → Result :=
  let c : Cmd := { tenant := tenant, block := block }
  onQueue 12 c CtxState.runs (fun x => x == .idle || x == .active || x == .waiting) fun s => s.updQueue c.queue Queue.stopped

/-- QUEUE_RESET (R365): Moves a queue in error to stopped; its read index is left where it stands. -/
def execQueueReset (tenant : Nat) (block : List Byte) : State → Result :=
  let c : Cmd := { tenant := tenant, block := block }
  onQueue 7 c CtxState.exists_ (fun x => x == .error) fun s => s.updQueue c.queue Queue.stopped

/-- SET_QUANTUM (R298): Sets the tenant's quantum, 100 µs to 100 ms (R360). -/
def execSetQuantum (tenant : Nat) (block : List Byte) : State → Result :=
  let c : Cmd := { tenant := tenant, block := block }
  onCommand 10 c (zeros c.block 2 2 && c.clean 12) fun s =>
    if c.quantum < 100 ∨ 100000 < c.quantum then s.answer 10 c 2
    else State.answer { s with tenants := s.tenants.modify c.tenant fun t => { t with quantum := c.quantum } } 10 c 0

/-! ### Suspension (R367) -/

/-- The queues of a context that work stop at a packet boundary. -/
def State.stopQueues (s : State) (ctx : Nat) : State :=
  { s with queues := s.queues.map fun (q : Queue) =>
      if q.ctx = ctx ∧ q.state ≠ .error then q.stopped else q }

/-- The groups of a context on cores begin to leave, and those that wait for a core wait no more. -/
def State.clearGroups (s : State) (ctx : Nat) : State :=
  let out (g : Group) : Group :=
    if g.ref.ctx ≠ ctx then g
    else match g.status with
      | .pending => { g with target := none }
      | .evicted => { g with target := none }
      | _ => g.leave
  { s with groups := s.groups.map out }

/-- SUSPEND (R367): Stops the context's queues and evicts its resident groups. -/
def execSuspend (c : Cmd) : State → Result :=
  onContext 3 c [] (c.clean 8) (fun x => x == .created || x == .idle || x == .running || x == .faulted) fun _ s =>
    let saved := (s.queues.filter (·.ctx == c.ctx)).map fun q => (q.num, q.state)
    some ((((s.stopQueues c.ctx).clearGroups c.ctx).updCtx c.ctx fun x => { x with state := .evicting, savedQueues := saved }).startCommand 3 c)

/-- Every group of the context is away or not begun (R366). -/
def State.allAway (s : State) (ctx : Nat) : Bool :=
  s.groups.all fun g => g.ref.ctx != ctx ||
    (match g.status with | .pending => true | .evicted => true | .halted => true | .retired => true | _ => false)

/-- SUSPEND_COMPLETE (R366): Every non-halted group is evicted and the context is suspended. -/
def execSuspendComplete (ctx : Nat) (s : State) : Result :=
  .next <| match s.ctxOf ctx with
    | none => s
    | some c =>
      if c.state = .evicting ∧ s.allAway ctx then (s.updCtx ctx fun c => { c with state := .suspended }).endCommand ctx 0 id
      else s

/-- RESUME (R367): Returns evicted groups to dispatch and queues to their prior states. It completes as the groups re-enter dispatch
(R366). -/
def execResume (c : Cmd) : State → Result :=
  onContext 4 c [] (c.clean 8) (fun x => x == .suspended) fun x s =>
    let back (q : Queue) : Queue :=
      match x.savedQueues.find? fun (y : Nat × QState) => y.1 == q.num with
      | some y => if q.ctx = c.ctx ∧ q.state = .stopped then { q with state := y.2 } else q
      | none => q
    some ((State.updCtx { s with queues := s.queues.map back } c.ctx fun x => { x with state := .resuming, savedQueues := [] }).startCommand 4 c)

/-! ### Halted groups (R368) -/

/-- One change to a halted group's warp (R368). -/
def Warp.edit (w : Warp) (e : Edit) : Warp :=
  match e with
  | .pc i x => if i = w.wid then { w with pc := x, meeting := false } else w
  | .s i n x => if i = w.wid then { w with regs := w.regs.sset n x } else w
  | .p i n x => if i = w.wid then { w with regs := w.regs.pset n.toNat x } else w
  | .mask i x => if i = w.wid then { w with regs := w.regs.maskSet x } else w

/-- A faulted context once its last halted group has gone on (R366). -/
def State.unfault (s : State) (ctx : Nat) : State :=
  s.updCtx ctx fun c => { c with state := if c.state = .faulted then s.standing ctx else c.state }

/-- A command on a halted group of the context: status 2 where it names none. -/
def onHalted (code : Nat) (c : Cmd) (edits : List Edit) (f : Group → State → Option State) : State → Result :=
  onContext code c edits (c.clean 20) (fun x => x == .faulted) fun _ s =>
    match s.groupOf c.group with
    | none => some (s.answer code c 2)
    | some h => if h.status = .halted then f h s else some (s.answer code c 2)

/-- Where the vector registers of a warp lie in its group's image (R301). -/
def Desc.vectorsAt (d : Desc) (wid : Nat) : Nat := 1024 + wid * (2048 + 384 * d.vregs) + 2048

/-- The vector registers of a warp as its group's image holds them (R301, R368); a word that has been changed is good (R33). -/
def Warp.readVectors (n : Nat) (bs : List Byte) (w : Warp) : Warp :=
  let word (r l : Nat) : Word := BitVec.ofNat 32 (field bs (384 * r + 4 * l) 4)
  let same (x : Nat × Nat) : Bool := laneAt (w.regs.vget (BitVec.ofNat 7 x.1)) x.2 == word x.1 x.2
  { w with
    regs := (List.range n).foldl (fun r i => r.vset (BitVec.ofNat 7 i) (Lanes.tab fun k => word i k.val)) w.regs,
    badRegs := w.badRegs.filter same }

/-- A halted group as it goes back to dispatch with what the host has changed in its image (R368). -/
def Group.edited (g : Group) (image : List Byte) (edits : List Edit) : Group :=
  { g with
    status := .evicted, trap := none, target := none,
    warps := g.warps.map fun w =>
      let w := edits.foldl Warp.edit (w.readVectors g.desc.vregs (image.drop (g.desc.vectorsAt w.wid)))
      { w with status := if w.status = .halted then .evicted else w.status, skid := 0 } }

/-- The header, the tile section and the return slots of an image are as the device holds them (R368). -/
def Group.unchanged (g : Group) (image : List Byte) : Bool :=
  let own := imageBytes g g.imageState
  let tiles := 1024 + g.desc.warps * (2048 + 384 * g.desc.vregs)
  image.take 256 == own.take 256 && (image.drop tiles).take 65536 == (own.drop tiles).take 65536 &&
  (image.drop g.desc.imageSize).take (returnBytes g).length == returnBytes g

/-- GROUP_RESUME (R368): Rechecks a halted group's image as memory holds it and returns the group to dispatch with the vector registers
of its image; a change to its header, its tile section or its return slots ends the command with bad field. `edits`: the changes to
parts of the warp blocks whose place the spec leaves open (DESIGN CHOICE, log entries 16, 78). -/
def execGroupResume (tenant : Nat) (block : List Byte) (edits : List Edit) : State → Result :=
  let c : Cmd := { tenant := tenant, block := block }
  onHalted 8 c edits fun h s =>
    (s.fwGet c.ctx h.image (h.desc.imageSize + h.returnSpace)).map fun x =>
      if !h.unchanged x.1 then x.2.answer 8 c 2
      else
        let t := State.putImage { x.2 with g := h.edited x.1 edits }
        ((t.putGroup t.g).unfault c.ctx).answer 8 c 0

/-- A group that is aborted: its saved tile entries and return slots are discarded, with its window; its other operations are still
performed (R265, R304, R368). -/
def Group.discarded (g : Group) : Group :=
  { g with pages := [], warps := g.warps.map fun w =>
      { w with tileQ := [], slots := [], entries := w.entries.filter fun e => e.path != 5, status := .exited } }

/-- The error record of an aborted launch in its queue's error record, without the queue entering error (R368): none while the memory
that it needs is not present. -/
def State.abortRecord (s : State) (ctx seq : Nat) : Option State :=
  match (s.launchOf ctx seq).bind fun l => (s.queueOf l.queue).map fun q => (l, q) with
  | none => some s
  | some (l, q) =>
    if q.ctx ≠ ctx then some s
    else (s.fwGet q.ctx q.ridxVa 8).bind fun r => r.2.writeError q (errorRecord 0x18 l.level q.num l.header.toNat (leNat r.1) l.pktVa)

/-- GROUP_ABORT (R368): Retires a halted group and ends its launch with LAUNCH_ABORT in the queue's error record. -/
def execGroupAbort (c : Cmd) : State → Result :=
  onHalted 9 c [] fun h s =>
    let t := State.retireGroup { s with g := h.discarded }
    let s1 := ((t.putGroup t.g).dropPending c.ctx c.group.seq).updLaunch c.ctx c.group.seq fun l => { l with aborted := true }
    (s1.abortRecord c.ctx c.group.seq).map fun u => (u.unfault c.ctx).answer 9 c 0

/-! ### Destroying a context (R369) -/

/-- A record moved to the tenant's host error queue; its layout there is open. -/
def State.hostRecord (s : State) (tenant : Nat) (src : List Byte) : State :=
  s.hostError tenant ((List.range 32).map (Config.hostRecord src))

/-- A pending absent-fault record moved to the host error queue; beyond those that the device can hold beside a full one, it is
counted (R369). -/
def State.moveRecord (s : State) (c : Context) (src : List Byte) : State :=
  let t := s.hostRecord c.tenant src
  if (s.tenants.getD c.tenant Tenant.fresh).errHeld.length < (t.tenants.getD c.tenant Tenant.fresh).errHeld.length ∧
      Config.errRoom < (t.tenants.getD c.tenant Tenant.fresh).errHeld.length then
    s.updCtx c.id fun c => { c with lost := c.lost + 1 }
  else t

/-- The pending absent-fault records of a context moved to the host error queue, those that wait for the absent-fault area last (R292,
R369) (DESIGN CHOICE, log entry 54). -/
def State.moveAbsent (s : State) (c : Context) : State :=
  let now := (s.ctxOf c.id).getD c
  let pending := now.absentAll.filter (·.mark != .reported)
  (pending.foldl (fun t a =>
    t.moveRecord c (trapRecord c.tenant ((t.groupOf a.ref).getD (Group.fresh a.ref Desc.zero)) a.trap false)) s).updCtx c.id
      fun c => { c with absent := [], heldAbsent := [] }

/-- A group of a destroyed context: one on a core or leaving it halts, one that is away stays there until its arrivals have landed, and one that
has not begun is dropped (R369). -/
def Group.destroyed (g : Group) : Group :=
  match g.status with
  | .retired => g
  | .pending => { g with status := .retired, target := none }
  | _ => if g.away && !g.leaving then { g with status := .halted, trap := none, target := none }
         else { g with status := .halting, trap := none, target := none, warps := g.warps.map Warp.hears }

/-- The command of a context that is under way, and those that wait behind it, end with status 4 (R365, R369). -/
def State.abortCommands (s : State) (x : Context) : State :=
  x.waiting.foldl (fun t y => t.answer y.code y.cmd 4) ((s.updCtx x.id fun x => { x with waiting := [] }).endCommand x.id 4 id)

/-- DESTROY (R369): Aborts pending commands, stops queues and halts every group of the context (DEDUCED, log entry 57). -/
def execDestroy (c : Cmd) : State → Result :=
  onCommand 2 c (c.clean 8) fun s =>
    match s.ctxOf c.ctx with
    | none => s.answer 2 c 2
    | some x =>
      if x.tenant ≠ c.tenant then s.answer 2 c 2
      else if x.destroying ∨ x.state = .destroyed then s.command ⟨2, c, [], false⟩ x fun t => some (t.answer 2 c 1)
      else
        let s1 := (s.abortCommands x).stopQueues c.ctx
        let s2 := { s1 with groups := s1.groups.map fun (g : Group) => if g.ref.ctx = c.ctx then g.destroyed else g }
        let s3 := s2.updCtx c.ctx fun x =>
          { x with state := .destroyed, destroying := true, migrating := none, heldTraps := [], lost := 0 }
        (s3.startCommand 2 c).moveAbsent x

/-- Every operation of a context's groups has landed, those of saved tile entries and of unissued moves apart (R369). -/
def State.allLanded (s : State) (ctx : Nat) : Bool :=
  s.groups.all fun g => g.ref.ctx != ctx ||
    ((g.status == .halted || g.status == .retired) && g.schedWait.isEmpty &&
      g.warps.all fun w => w.copyQ.isEmpty && w.collQ.isEmpty && w.entries.all fun e => e.done || e.path == 5)

/-- Nothing of a context stays where its number, given to another context, would find it (R361): translations, records, code, diversion
entries, its invalidation requests, and what waits for its pages (DEDUCED, log entry 126). -/
def State.purge (s : State) (ctx : Nat) : State :=
  { s with
    cores := s.cores.map fun k =>
      { k with tlb := k.tlb.filter (·.ctx != ctx), recs := k.recs.filter (·.ctx != ctx), icache := k.icache.filter (·.ctx != ctx),
               ifills := k.ifills.filter (·.1 != ctx), divert := k.divert.filter (·.ref.ctx != ctx) },
    dies := s.dies.map fun d => { d with tlb := d.tlb.filter (·.ctx != ctx) },
    switor := { s.switor with recs := s.switor.recs.filter (·.ctx != ctx) },
    noPage := s.noPage.filter (·.ctx != ctx), invalid := s.invalid.filter (·.ctx != ctx), fwHeld := s.fwHeld.filter (·.ctx != ctx) }

/-- DESTROY_COMPLETE (R369): Images are freed after their diverted arrivals land and DESTROY completes, with the records that found no
place in bytes 8..11; the context's queues, nodes and launches go with it. -/
def execDestroyComplete (ctx : Nat) (s : State) : Result :=
  .next <| match s.ctxOf ctx with
    | none => s
    | some c =>
      if c.destroying ∧ s.allLanded ctx then
        let s1 := (s.moveAbsent c).purge ctx
        let s2 := { s1 with
          groups := s1.groups.filter (·.ref.ctx != ctx), launches := s1.launches.filter (·.ctx != ctx),
          nodes := s1.nodes.filter (·.ctx != ctx), queues := s1.queues.filter (·.ctx != ctx) }
        (s2.updCtx ctx fun c => { c with destroying := false, poolUsed := [] }).endCommand ctx 0 fun x =>
          x.put 8 (leBytes 4 (((s1.ctxOf ctx).map (·.lost)).getD 0))
      else s

/-! ### Migration between devices (R371) -/

/-- MIGRATE splits the launch: groups of it are still to begin, or its node may form more. Deterministic launches are never split. -/
def State.splits (s : State) (l : Launch) : Bool :=
  !l.complete && !l.aborted && !l.desc.determ &&
  (l.toBegin || l.node.isSome || s.groups.any fun g => g.ref.ctx == l.ctx && g.ref.seq == l.seq && g.status == .pending)

/-- A launch as MIGRATE splits it. -/
def Launch.migrated (l : Launch) : Launch := { l with split := true, only := l.only.map fun _ => [] }

/-- Every admitted launch of a context split as MIGRATE does. -/
def State.splitAll (s : State) (ctx : Nat) : State :=
  (s.launches.filter fun l => l.ctx == ctx && s.splits l).foldl
    (fun t l => (t.dropPending ctx l.seq).updLaunch ctx l.seq Launch.migrated) s

/-- MIGRATE (R371): Stops source queues and sends pending groups of each launch to a target device. -/
def execMigrate (tenant : Nat) (block : List Byte) : State → Result :=
  let c : Cmd := { tenant := tenant, block := block }
  onContext 11 c [] (c.clean 10) (fun x => x == .running || x == .idle) fun _ s => some <|
    if 2 ^ 11 ≤ c.target then s.answer 11 c 2
    else (((s.stopQueues c.ctx).splitAll c.ctx).updCtx c.ctx fun x => { x with migrating := some c.target }).startCommand 11 c

/-- No group of the context remains: those that began have retired, and none is left to begin here. -/
def State.noneLeft (s : State) (ctx : Nat) : Bool :=
  (s.groups.all fun g => g.ref.ctx != ctx || g.status == .retired) && s.launches.all fun l => l.ctx != ctx || l.complete || s.ended l

/-- MIGRATE_COMPLETE (R371): No group of the context remains on the source and MIGRATE completes. -/
def execMigrateComplete (ctx : Nat) (s : State) : Result :=
  .next <| match s.ctxOf ctx with
    | none => s
    | some c =>
      if c.migrating.isSome ∧ s.noneLeft ctx then
        (s.updCtx ctx fun c => { c with migrating := none }).endCommand ctx 0 id
      else s

/-- SPLIT_LAUNCH_ARRIVAL (R371): On the target device of a MIGRATE, the pending groups of a split launch arrive and enter dispatch
in increasing group index. -/
def execSplitLaunchArrival (ctx : Nat) (x : SplitLaunch) (s : State) : Result :=
  .next <| match s.ctxOf ctx with
    | none => s
    | some c =>
      if c.state = .destroyed ∨ (s.launchOf ctx x.seq).isSome then s
      else
        let h := field x.packet 0 4
        let l : Launch :=
          { ctx := ctx, seq := x.seq, queue := 1024, header := BitVec.ofNat 32 h, pktVa := 0, level := 0, prio := field x.packet 4 1,
            desc := descOf x.desc, arg := field x.packet 16 8, dx := field x.packet 24 4, dy := field x.packet 28 4,
            dz := field x.packet 32 4, items := field x.packet 36 4, sigVa := 0, sigInc := 0, sigQueue := 1024, acquire := h / 2 ^ 8 % 4,
            release := h / 2 ^ 10 % 4, parent := 0, next := 0, total := x.groups.length, released := 0, acqCores := [],
            ranCores := [], node := none, aborted := false, complete := false, split := false, reported := false,
            only := some (sortBy (fun a b => decide (a ≤ b)) x.groups) }
        State.updCtx { s with launches := s.launches ++ [l] } ctx fun c =>
          { c with state := if c.state = .idle then .running else c.state, nextSeq := max c.nextSeq (x.seq + 1) }

/-- TARGET_COMPLETION_REPORT (R371): The target of a MIGRATE reports that its groups of a split launch are complete, and the source
may then write the completion signal at sys. -/
def execTargetCompletionReport (ctx seq : Nat) (s : State) : Result :=
  .next (s.updLaunch ctx seq fun l => if l.split then { l with reported := true } else l)

end Sys2Proof.Machine
end

