-- ==== Sys2Proof/Machine/LaneCross.lean ====
section
/-!
DEFINITION. Cross-lane instructions: majors 0x18 to 0x1B (08_lane_cross.md R173..R185).
-/
namespace Sys2Proof.Machine

/-- VSHFL_IDX (R176): Reads va from the lane indexed by vb. -/
def execVshflIdx (d : BitVec 7) (a : BitVec 7) (b : BitVec 7) (t : State) : Result :=
  slotDo { vtop := vtop [d, a, b], reads := [rv a, rv b], writes := [rv d], lane := true,
           via := some (a.toNat, shuffleLane fun l => some (laneAt (t.src.vget b) l).toNat) } (fun s =>
    .done (s.writeV d (shuffle (s.src.vget a) fun l => some (laneAt (s.src.vget b) l).toNat))) t

/-- VSHFL_UP (R176): Reads va from lane l − d. -/
def execVshflUp (d : BitVec 7) (a : BitVec 7) (n : BitVec 7) : State → Result :=
  xShuffle 95 (fun n l => if n ≤ l then some (l - n) else none) d a n

/-- VSHFL_DOWN (R176): Reads va from lane l + d. -/
def execVshflDown (d : BitVec 7) (a : BitVec 7) (n : BitVec 7) : State → Result :=
  xShuffle 95 (fun n l => some (l + n)) d a n

/-- VSHFL_XOR (R176): Reads va from lane l XOR d. -/
def execVshflXor (d : BitVec 7) (a : BitVec 7) (n : BitVec 7) : State → Result :=
  xShuffle 127 (fun n l => some (l ^^^ n)) d a n

/-- VBCAST (R176): Broadcasts va of lane j. -/
def execVbcast (d : BitVec 7) (a : BitVec 7) (j : BitVec 7) : State → Result :=
  xShuffle 95 (fun n _ => some n) d a j

/-- VSOME (R177): Sets a condition bit when some active lane has the predicate set. -/
def execVsome (d : BitVec 3) (a : BitVec 4) : State → Result :=
  xVote (fun act p => maskAny (act &&& p)) d a

/-- VEVERY (R177): Sets a condition bit when every active lane has the predicate set. -/
def execVevery (d : BitVec 3) (a : BitVec 4) : State → Result :=
  xVote voteEvery d a

/-- VBITS (R177): Gathers active predicate bits into a scalar triple. -/
def execVbits (d : BitVec 7) (a : BitVec 4) : State → Result :=
  slotDo { wf := tripleBase d && predOk a, reads := [.p a.toNat], writes := rtriple d, lane := true } fun s =>
    .done (s.mapRegs (·.tripleSet d (s.active &&& s.src.pget a.toNat)))

/-- VRED_ADD_S32 (R178): Integer sum over active lanes by the fixed tree. -/
def execVredAddS32 (d : BitVec 7) (a : BitVec 7) : State → Result :=
  xUn false (reduceLanes (· + ·) false) d a

/-- VRED_MIN_S32 (R178): Signed minimum over active lanes. -/
def execVredMinS32 (d : BitVec 7) (a : BitVec 7) : State → Result :=
  xUn false (reduceLanes minS false) d a

/-- VRED_MAX_S32 (R178): Signed maximum over active lanes. -/
def execVredMaxS32 (d : BitVec 7) (a : BitVec 7) : State → Result :=
  xUn false (reduceLanes maxS false) d a

/-- VRED_ADD_F32 (R178): FP32 sum over active lanes by the fixed tree. -/
def execVredAddF32 (d : BitVec 7) (a : BitVec 7) : State → Result :=
  xUn true (reduceLanes (fAdd .rne) true) d a

/-- VRED_MIN_F32 (R178): FP32 minimum over active lanes. -/
def execVredMinF32 (d : BitVec 7) (a : BitVec 7) : State → Result :=
  xUn true (reduceLanes fMin true) d a

/-- VRED_MAX_F32 (R178): FP32 maximum over active lanes. -/
def execVredMaxF32 (d : BitVec 7) (a : BitVec 7) : State → Result :=
  xUn true (reduceLanes fMax true) d a

/-- VRED_AND (R178): Bitwise AND over active lanes. -/
def execVredAnd (d : BitVec 7) (a : BitVec 7) : State → Result :=
  xUn false (reduceLanes (· &&& ·) false) d a

/-- VRED_OR (R178): Bitwise OR over active lanes. -/
def execVredOr (d : BitVec 7) (a : BitVec 7) : State → Result :=
  xUn false (reduceLanes (· ||| ·) false) d a

/-- VRED_XOR (R178): Bitwise XOR over active lanes. -/
def execVredXor (d : BitVec 7) (a : BitVec 7) : State → Result :=
  xUn false (reduceLanes (· ^^^ ·) false) d a

/-- VSCAN_ADD_S32 (R179): Inclusive integer prefix sum over active lanes. -/
def execVscanAddS32 (d : BitVec 7) (a : BitVec 7) : State → Result :=
  xUn false (scanIncl (· + ·)) d a

/-- VSCANX_ADD_S32 (R179): Exclusive integer prefix sum over active lanes. -/
def execVscanxAddS32 (d : BitVec 7) (a : BitVec 7) : State → Result :=
  xUn false scanExcl d a

/-- VSCAN_ADD_F32 (R179): Inclusive sequential FP32 prefix sum. -/
def execVscanAddF32 (d : BitVec 7) (a : BitVec 7) : State → Result :=
  xUn true scanF32 d a

/-- VMATCH (R180): Counts active lanes with an equal value. -/
def execVmatch (d : BitVec 7) (a : BitVec 7) : State → Result :=
  xUn false matchLanes d a

/-- VRANK (R180): Counts lower active lanes with an equal value. -/
def execVrank (d : BitVec 7) (a : BitVec 7) : State → Result :=
  xUn false rankLanes d a

/-- VARGMAX_F32 (R183): Index of the active lane with the largest FP32 value. -/
def execVargmaxF32 (d : BitVec 7) (a : BitVec 7) : State → Result :=
  xUn false (argMax betterF32) d a

/-- VARGMAX_S32 (R183): Index of the active lane with the largest signed value. -/
def execVargmaxS32 (d : BitVec 7) (a : BitVec 7) : State → Result :=
  xUn false (argMax fun a b => decide (b.toInt < a.toInt)) d a

/-- VLEAD (R180): Marks the lowest active lane of each equal-value set. -/
def execVlead (d : BitVec 4) (a : BitVec 7) : State → Result :=
  slotDo { wf := predOk d, vtop := vtop [a], reads := [rv a], writes := [.p d.toNat], lane := true } fun s =>
    .done (s.writeP d.toNat (leadLanes s.active (s.src.vget a)))

/-- VISECT (R181): Intersects the multisets of va and vb over active lanes. -/
def execVisect (d : BitVec 7) (a : BitVec 7) (b : BitVec 7) : State → Result :=
  slotDo { vtop := vtop [d, a, b], reads := [rv a, rv b], writes := [rv d], lane := true } fun s =>
    .done (s.writeV d (intersect s.active (s.src.vget a) (s.src.vget b)))

/-- VTOPK (R182): Delivers the index of the lane of rank l to lane l, for the top k keys. -/
def execVtopk (d : BitVec 7) (a : BitVec 7) (s : BitVec 7) : State → Result :=
  slotDo { vtop := vtop [d, a], reads := [rv a, rs s], writes := [rv d], lane := true } fun t =>
    .done (t.writeV d (topK t.active (t.src.vget a) (t.src.sget s)))

/-- VLID (R184): Writes each active lane's logical index. -/
def execVlid (d : BitVec 7) : State → Result :=
  slotDo { vtop := vtop [d], writes := [rv d], lane := true } fun s =>
    .done (s.writeV d (lanesOf fun l => BitVec.ofNat 32 l.val))

/-- VRND (R185): Fills active lanes from the key, draw counter and lane index, and advances the draw counter. -/
def execVrnd (d : BitVec 7) (a : BitVec 7) : State → Result :=
  slotDo { wf := even a, vtop := vtop [d], reads := rspair a ++ [.draw], writes := [rv d, .draw], lane := true } fun s =>
    let t := s.writeV d (lanesOf fun l => rndLane (s.src.spair a) s.src.draw l.val)
    .done (if s.iss.drawSet then t else t.mapRegs fun r => { r with draw := s.src.draw + 1 })

end Sys2Proof.Machine
end

