-- ==== Sys2Proof/Machine/Special.lean ====
section
/-!
DEFINITION. The special functions (02_values.md R67..R69): each is the exact value rounded once
under rne. Algebraic functions are formed by exact division and square root with a sticky bit;
the transcendental ones by fixed-point series carried far below the rounding position (log entry
on the series).
-/
namespace Sys2Proof.Machine

/-- The largest r < 2^n with r·r ≤ x, found bit by bit from the top. -/
def isqrtBits : Nat → Nat → Nat → Nat
  | 0, _, r => r
  | n + 1, x, r => isqrtBits n x (if (r + 2 ^ n) * (r + 2 ^ n) ≤ x then r + 2 ^ n else r)

/-- The integer square root of x. -/
def isqrt (x : Nat) : Nat := isqrtBits (bitLen x / 2 + 1) x 0

/-- Fraction bits of the fixed-point series. -/
def fixBits : Nat := 256

/-- One in fixed point. -/
def fixOne : Nat := 2 ^ fixBits

/-- Product of two fixed-point numbers, truncated. -/
def fixMul (a b : Nat) : Nat := a * b / fixOne

/-- 2·artanh(1/n) = 2·Σ 1/((2k+1)·n^(2k+1)), the first t terms from index k, power p = 1/n^(2k+1). -/
def artanhInv : Nat → Nat → Nat → Nat → Nat
  | 0, _, _, _ => 0
  | t + 1, n2, k, p => 2 * p / (2 * k + 1) + artanhInv t n2 (k + 1) (p / n2)

/-- ln 2 in fixed point: 2·artanh(1/3). -/
def fixLn2 : Nat := artanhInv 90 9 0 (fixOne / 3)

/-- arctan(1/n) by its alternating series: t pairs of terms. -/
def arctanInv : Nat → Nat → Nat → Nat → Nat
  | 0, _, _, _ => 0
  | t + 1, n2, k, p => p / (2 * k + 1) - p / n2 / (2 * k + 3) + arctanInv t n2 (k + 2) (p / n2 / n2)

/-- π in fixed point: 16·arctan(1/5) − 4·arctan(1/239). -/
def fixPi : Nat :=
  16 * arctanInv 60 25 0 (fixOne / 5) - 4 * arctanInv 20 57121 0 (fixOne / 239)

/-- e^y for a fixed-point y of 0..1: t terms from index k, current term p. -/
def expSeries : Nat → Nat → Nat → Nat → Nat
  | 0, _, _, _ => 0
  | t + 1, y, k, p => p + expSeries t y (k + 1) (fixMul p y / (k + 1))

/-- e^y in fixed point for y in 0..1. -/
def fixExp (y : Nat) : Nat := expSeries 70 y 0 fixOne

/-- ln t for t = num/den in 1..2: 2·artanh((num − den)/(num + den)). -/
def lnSeries : Nat → Nat → Nat → Nat → Nat
  | 0, _, _, _ => 0
  | t + 1, z2, k, p => 2 * p / (2 * k + 1) + lnSeries t z2 (k + 1) (fixMul p z2)

/-- ln(num/den) in fixed point for 1 ≤ num/den < 2. -/
def fixLn (num den : Nat) : Nat :=
  let z := (num - den) * fixOne / (num + den)
  lnSeries 90 (fixMul z z) 0 z

/-- 1 − u/((k+1)(k+2)) + u²/… : t pairs of the alternating series from index k, current term p. -/
def cosSeries : Nat → Nat → Nat → Nat → Nat
  | 0, _, _, _ => 0
  | t + 1, u, k, p =>
    let p1 := fixMul p u / ((k + 1) * (k + 2))
    p - p1 + cosSeries t u (k + 4) (fixMul p1 u / ((k + 3) * (k + 4)))

/-- Rounds under rne into FP32 a magnitude m·2^e that is a truncation of an inexact one: the unit
below is marked (R67). -/
def roundInexact (neg : Bool) (m : Nat) (e : Int) : Word :=
  BitVec.ofNat 32 (Fmt.f32.round .rne neg (2 * m + 1) (e - 1))

/-- The FP32 word of a value under rne. -/
def f32Word (v : FVal) : Word := BitVec.ofNat 32 (Fmt.f32.pack .rne v)

/-- FP32 constants. -/
def f32One : Word := 0x3F800000#32
/-- FP32 +∞. -/
def f32Inf : Word := 0x7F800000#32
/-- FP32 −∞. -/
def f32NegInf : Word := 0xFF800000#32
/-- FP32 −0. -/
def f32NegZero : Word := 0x80000000#32

/-- vrcp (R67..R69). -/
def fRcp (x : Word) : Word :=
  match Fmt.f32.val x.toNat with
  | .nan => f32NaN
  | .inf neg => if neg then f32NegZero else 0
  | .fin neg m e =>
    if m = 0 then (if neg then f32NegInf else f32Inf)
    else
      let k := bitLen m + 64
      if 2 ^ k % m = 0 then f32Word (.fin neg (2 ^ k / m) (-(k : Int) - e))
      else roundInexact neg (2 ^ k / m) (-(k : Int) - e)

/-- vsqrt (R67, R68). -/
def fSqrt (x : Word) : Word :=
  match Fmt.f32.val x.toNat with
  | .nan => f32NaN
  | .inf neg => if neg then f32NaN else f32Inf
  | .fin neg m e =>
    if m = 0 then x
    else if neg then f32NaN
    else
      let m1 := if e % 2 = 0 then m * 2 ^ 128 else m * 2 ^ 129
      let e1 : Int := if e % 2 = 0 then (e - 128) / 2 else (e - 129) / 2
      let r := isqrt m1
      if r * r = m1 then f32Word (.fin false r e1) else roundInexact false r e1

/-- vrsq (R67, R68). -/
def fRsq (x : Word) : Word :=
  match Fmt.f32.val x.toNat with
  | .nan => f32NaN
  | .inf neg => if neg then f32NaN else 0
  | .fin neg m e =>
    if m = 0 then (if neg then f32NegInf else f32Inf)
    else if neg then f32NaN
    else
      -- the exponent of the argument is made even, so that 1/√x = √(2^256 / m1) · 2^(−128 − e1/2)
      let m1 := if e % 2 = 0 then m else 2 * m
      let e1 : Int := if e % 2 = 0 then e else e - 1
      let r := isqrt (2 ^ 256 / m1)
      if r * r * m1 = 2 ^ 256 then f32Word (.fin false r (-128 - e1 / 2))
      else roundInexact false r (-128 - e1 / 2)

/-- floor(m·2^e) for a magnitude. -/
def floorDyadic (m : Nat) (e : Int) : Nat := if 0 ≤ e then m * 2 ^ e.toNat else m / 2 ^ (-e).toNat

/-- The fraction of m·2^e in fixed point, exact while e ≥ −256. -/
def fracDyadic (m : Nat) (e : Int) : Nat :=
  if 0 ≤ e then 0 else m % 2 ^ (-e).toNat * fixOne / 2 ^ (-e).toNat

/-- vexp2 (R67, R68). Below 2^−25 in magnitude the value lies nearer to 1 than to its neighbours (UNVERIFIED, log entry 36). -/
def fExp2 (x : Word) : Word :=
  match Fmt.f32.val x.toNat with
  | .nan => f32NaN
  | .inf neg => if neg then 0 else f32Inf
  | .fin neg m e =>
    if m = 0 || e + (bitLen m : Int) ≤ -25 then f32One
    else if 8 < e + (bitLen m : Int) then (if neg then 0 else f32Inf)
    else
      let n := floorDyadic m e
      let f := fracDyadic m e
      -- the floor and the fraction of the signed value
      let i : Int := if neg then (if f = 0 then -(n : Int) else -(n : Int) - 1) else n
      let g := if neg then (if f = 0 then 0 else fixOne - f) else f
      if g = 0 then f32Word (.fin false 1 i)
      else if 128 ≤ i then f32Inf
      else if i < -150 then 0
      else roundInexact false (fixExp (fixMul g fixLn2)) (i - fixBits)

/-- vlog2 (R67, R68). -/
def fLog2 (x : Word) : Word :=
  match Fmt.f32.val x.toNat with
  | .nan => f32NaN
  | .inf neg => if neg then f32NaN else f32Inf
  | .fin neg m e =>
    if m = 0 then f32NegInf
    else if neg then f32NaN
    else
      let k : Int := e + (bitLen m : Int) - 1
      let den := 2 ^ (bitLen m - 1)
      if m = den then f32Word (.fin (decide (k < 0)) k.natAbs 0)
      else
        let v : Int := k * fixOne + ((fixLn m den * fixOne / fixLn2 : Nat) : Int)
        roundInexact (decide (v < 0)) v.natAbs (-fixBits)

/-- |sin(π·r)| for r = m·2^e in 0..1/2, rounded with the given sign: r · π · (1 − u/6 + …), u = (πr)². -/
def sinPiSmall (neg : Bool) (m : Nat) (e : Int) : Word :=
  let r := fracDyadic m e
  let pr := fixMul r fixPi
  let u := fixMul pr pr
  let s := cosSeries 24 u 1 fixOne
  roundInexact neg (m * fixMul fixPi s) (e - fixBits)

/-- cos(π·r) for r = m·2^e in 0..1/4, rounded with the given sign. -/
def cosPiSmall (neg : Bool) (m : Nat) (e : Int) : Word :=
  let pr := fixMul (fracDyadic m e) fixPi
  roundInexact neg (cosSeries 24 (fixMul pr pr) 0 fixOne) (-fixBits)

/-- |sin(π·r)| for r = m·2^e with 0 < r ≤ 1/2. -/
def sinPiHalf (neg : Bool) (m : Nat) (e : Int) : Word :=
  if e + (bitLen m : Int) ≤ -2 || 4 * m ≤ 2 ^ (-e).toNat then sinPiSmall neg m e
  else cosPiSmall neg (2 ^ (-e - 1).toNat - m) e

/-- |cos(π·r)| for r = m·2^e with 0 ≤ r < 1/2. -/
def cosPiHalf (neg : Bool) (m : Nat) (e : Int) : Word :=
  if e + (bitLen m : Int) ≤ -2 || 4 * m ≤ 2 ^ (-e).toNat then cosPiSmall neg m e
  else sinPiSmall neg (2 ^ (-e - 1).toNat - m) e

/-- vsinpi (R67, R68). -/
def fSinpi (x : Word) : Word :=
  match Fmt.f32.val x.toNat with
  | .nan => f32NaN
  | .inf _ => f32NaN
  | .fin neg m e =>
    if m = 0 then x
    else if 0 ≤ e then (if neg then f32NegZero else 0)
    else
      let d := 2 ^ (-e).toNat
      let n := m / d
      let r := m % d
      let s := neg != (n % 2 == 1)
      if r = 0 then (if neg then f32NegZero else 0)
      else if 2 * r = d then (if s then 0xBF800000#32 else f32One)
      else if 2 * r < d then sinPiHalf s r e
      else sinPiHalf s (d - r) e

/-- vcospi (R67, R68). -/
def fCospi (x : Word) : Word :=
  match Fmt.f32.val x.toNat with
  | .nan => f32NaN
  | .inf _ => f32NaN
  | .fin _ m e =>
    if m = 0 then f32One
    else if 0 ≤ e then (if m * 2 ^ e.toNat % 2 = 1 then 0xBF800000#32 else f32One)
    else
      let d := 2 ^ (-e).toNat
      let n := m / d
      let r := m % d
      let s := n % 2 == 1
      if r = 0 then (if s then 0xBF800000#32 else f32One)
      else if 2 * r = d then 0
      else if 2 * r < d then cosPiHalf s r e
      else cosPiHalf (!s) (d - r) e

/-- vtanh (R67, R68). Up to 2^−12 in magnitude the value rounds to x itself. -/
def fTanh (x : Word) : Word :=
  match Fmt.f32.val x.toNat with
  | .nan => f32NaN
  | .inf neg => if neg then 0xBF800000#32 else f32One
  | .fin neg m e =>
    if m = 0 || e + (bitLen m : Int) ≤ -12 then x
    else if 9 ≤ floorDyadic m e then (if neg then 0xBF800000#32 else f32One)
    else
      -- E = e^(2|x|) = 2^n · e^r with 2|x| = n·ln 2 + r
      let y := 2 * floorDyadic m (e + fixBits)
      let n := y / fixLn2
      let ex := fixExp (y % fixLn2) * 2 ^ n
      roundInexact neg ((ex - fixOne) * fixOne / (ex + fixOne)) (-fixBits)

end Sys2Proof.Machine
end

