-- ==== Sys2Proof/Machine/LaneFloat.lean ====
section
/-!
DEFINITION. Floating point, conversions, special functions and dot products of the lanes: majors
0x10 to 0x17 (07_lane_float.md R158..R172).
-/
namespace Sys2Proof.Machine

/-- FADD (R161): FP32 add rounded under rm. -/
def execFadd (r : BitVec 2) (d : BitVec 7) (a : BitVec 7) (b : BitVec 7) : State → Result :=
  vBin true (fAdd (Rm.ofBits r)) d a b

/-- FSUB (R161): FP32 subtract rounded under rm. -/
def execFsub (r : BitVec 2) (d : BitVec 7) (a : BitVec 7) (b : BitVec 7) : State → Result :=
  vBin true (fSub (Rm.ofBits r)) d a b

/-- FMUL (R161): FP32 multiply rounded under rm. -/
def execFmul (r : BitVec 2) (d : BitVec 7) (a : BitVec 7) (b : BitVec 7) : State → Result :=
  vBin true (fMul (Rm.ofBits r)) d a b

/-- FMIN (R162): FP32 minimum by the min rule. -/
def execFmin (d : BitVec 7) (a : BitVec 7) (b : BitVec 7) : State → Result :=
  vBin true fMin d a b

/-- FMAX (R162): FP32 maximum by the max rule. -/
def execFmax (d : BitVec 7) (a : BitVec 7) (b : BitVec 7) : State → Result :=
  vBin true fMax d a b

/-- FCOPYSIGN (R161): Gives a the sign of b. -/
def execFcopysign (d : BitVec 7) (a : BitVec 7) (b : BitVec 7) : State → Result :=
  vBin true fCopysign d a b

/-- FABS (R161): Clears the sign of a non-NaN value. -/
def execFabs (d : BitVec 7) (a : BitVec 7) : State → Result :=
  vUn true fAbs d a

/-- FNEG (R161): Inverts the sign of a non-NaN value. -/
def execFneg (d : BitVec 7) (a : BitVec 7) : State → Result :=
  vUn true fNeg d a

/-- FADD_S (R163): FP32 add of a broadcast scalar. -/
def execFaddS (r : BitVec 2) (d : BitVec 7) (a : BitVec 7) (s : BitVec 7) : State → Result :=
  vBinS true (fAdd (Rm.ofBits r)) d a s

/-- FADD_I (R163): FP32 add of an immediate or literal. -/
def execFaddI (r : BitVec 2) (d : BitVec 7) (a : BitVec 7) (i : BitVec 7) : State → Result :=
  vBinF (fAdd (Rm.ofBits r)) d a i

/-- FMUL_S (R163): FP32 multiply by a broadcast scalar. -/
def execFmulS (r : BitVec 2) (d : BitVec 7) (a : BitVec 7) (s : BitVec 7) : State → Result :=
  vBinS true (fMul (Rm.ofBits r)) d a s

/-- FMUL_I (R163): FP32 multiply by an immediate or literal. -/
def execFmulI (r : BitVec 2) (d : BitVec 7) (a : BitVec 7) (i : BitVec 7) : State → Result :=
  vBinF (fMul (Rm.ofBits r)) d a i

/-- FMIN_S (R163): FP32 minimum with a scalar. -/
def execFminS (d : BitVec 7) (a : BitVec 7) (s : BitVec 7) : State → Result :=
  vBinS true fMin d a s

/-- FMIN_I (R163): FP32 minimum with an immediate. -/
def execFminI (d : BitVec 7) (a : BitVec 7) (i : BitVec 7) : State → Result :=
  vBinF fMin d a i

/-- FMAX_S (R163): FP32 maximum with a scalar. -/
def execFmaxS (d : BitVec 7) (a : BitVec 7) (s : BitVec 7) : State → Result :=
  vBinS true fMax d a s

/-- FMAX_I (R163): FP32 maximum with an immediate. -/
def execFmaxI (d : BitVec 7) (a : BitVec 7) (i : BitVec 7) : State → Result :=
  vBinF fMax d a i

/-- FFMA (R164): Fused a·b + d rounded once. -/
def execFfma (r : BitVec 2) (d : BitVec 7) (a : BitVec 7) (b : BitVec 7) : State → Result :=
  vTri true (fFma (Rm.ofBits r) false false) d a b

/-- FFMA_S (R164): Fused a·s + d with a scalar multiplier. -/
def execFfmaS (r : BitVec 2) (d : BitVec 7) (a : BitVec 7) (s : BitVec 7) : State → Result :=
  vTriS (fFma (Rm.ofBits r) false false) d a s

/-- FFMS (R164): Fused a·b − d. -/
def execFfms (r : BitVec 2) (d : BitVec 7) (a : BitVec 7) (b : BitVec 7) : State → Result :=
  vTri true (fFma (Rm.ofBits r) false true) d a b

/-- FFMS_S (R164): Fused a·s − d with a scalar. -/
def execFfmsS (r : BitVec 2) (d : BitVec 7) (a : BitVec 7) (s : BitVec 7) : State → Result :=
  vTriS (fFma (Rm.ofBits r) false true) d a s

/-- FFNMA (R164): Fused −a·b + d. -/
def execFfnma (r : BitVec 2) (d : BitVec 7) (a : BitVec 7) (b : BitVec 7) : State → Result :=
  vTri true (fFma (Rm.ofBits r) true false) d a b

/-- FFNMA_S (R164): Fused −a·s + d with a scalar. -/
def execFfnmaS (r : BitVec 2) (d : BitVec 7) (a : BitVec 7) (s : BitVec 7) : State → Result :=
  vTriS (fFma (Rm.ofBits r) true false) d a s

/-- FFNMS (R164): Fused −a·b − d. -/
def execFfnms (r : BitVec 2) (d : BitVec 7) (a : BitVec 7) (b : BitVec 7) : State → Result :=
  vTri true (fFma (Rm.ofBits r) true true) d a b

/-- FFNMS_S (R164): Fused −a·s − d with a scalar. -/
def execFfnmsS (r : BitVec 2) (d : BitVec 7) (a : BitVec 7) (s : BitVec 7) : State → Result :=
  vTriS (fFma (Rm.ofBits r) true true) d a s

/-- HADD_F16X2 (R165): Packed FP16 add. -/
def execHaddF16x2 (r : BitVec 2) (d : BitVec 7) (a : BitVec 7) (b : BitVec 7) : State → Result :=
  vBin true (fun a b => packed2 (fun x y _ => Fmt.f16.addBits (Rm.ofBits r) x y) a b 0) d a b

/-- HMUL_F16X2 (R165): Packed FP16 multiply. -/
def execHmulF16x2 (r : BitVec 2) (d : BitVec 7) (a : BitVec 7) (b : BitVec 7) : State → Result :=
  vBin true (fun a b => packed2 (fun x y _ => Fmt.f16.mulBits (Rm.ofBits r) x y) a b 0) d a b

/-- HFMA_F16X2 (R165): Packed FP16 fused multiply-add into vd. -/
def execHfmaF16x2 (r : BitVec 2) (d : BitVec 7) (a : BitVec 7) (b : BitVec 7) : State → Result :=
  vTri true (packed2 (Fmt.f16.fmaBits (Rm.ofBits r) false false)) d a b

/-- HMIN_F16X2 (R165): Packed FP16 minimum. -/
def execHminF16x2 (d : BitVec 7) (a : BitVec 7) (b : BitVec 7) : State → Result :=
  vBin true (fun a b => packed2 (fun x y _ => Fmt.f16.minBits x y) a b 0) d a b

/-- HADD_BF16X2 (R165): Packed BF16 add. -/
def execHaddBf16x2 (r : BitVec 2) (d : BitVec 7) (a : BitVec 7) (b : BitVec 7) : State → Result :=
  vBin true (fun a b => packed2 (fun x y _ => Fmt.bf16.addBits (Rm.ofBits r) x y) a b 0) d a b

/-- HMUL_BF16X2 (R165): Packed BF16 multiply. -/
def execHmulBf16x2 (r : BitVec 2) (d : BitVec 7) (a : BitVec 7) (b : BitVec 7) : State → Result :=
  vBin true (fun a b => packed2 (fun x y _ => Fmt.bf16.mulBits (Rm.ofBits r) x y) a b 0) d a b

/-- HFMA_BF16X2 (R165): Packed BF16 fused multiply-add into vd. -/
def execHfmaBf16x2 (r : BitVec 2) (d : BitVec 7) (a : BitVec 7) (b : BitVec 7) : State → Result :=
  vTri true (packed2 (Fmt.bf16.fmaBits (Rm.ofBits r) false false)) d a b

/-- HMIN_BF16X2 (R165): Packed BF16 minimum. -/
def execHminBf16x2 (d : BitVec 7) (a : BitVec 7) (b : BitVec 7) : State → Result :=
  vBin true (fun a b => packed2 (fun x y _ => Fmt.bf16.minBits x y) a b 0) d a b

/-- VCMP_F32 (R166): FP32 compare under a condition into a predicate. -/
def execVcmpF32 (c : BitVec 5) (p : BitVec 4) (a : BitVec 7) (b : BitVec 7) : State → Result :=
  vCmp (decide (c.toNat ≤ 7)) (fCond c.toNat) p a b

/-- The wide and the other format of a vcvt; a form that R91 does not assign has none. -/
def cvtFormats (w : BitVec 2) (o : BitVec 4) : Elem × Elem :=
  ((Elem.ofWide w.toNat).getD default, (Elem.ofCode o.toNat).getD default)

/-- VCVT_WIDEN (R167): Converts element e of va from the other format into the wide format (dir 0). -/
def execVcvtWiden (w : BitVec 2) (o : BitVec 4) (r : BitVec 2) (e : BitVec 3) (d : BitVec 7) (a : BitVec 7) : State → Result :=
  slotDo { wf := cvtOk w.toNat o.toNat e.toNat && (r == 0 || cvtWidenRounds w.toNat o.toNat), vtop := vtop [d, a],
           reads := [rv a], writes := [rv d], lane := true, shadowed := decide (w.toNat = 0) } fun s =>
    .done (s.writeV d (lanesOf fun l =>
      cvtWiden (cvtFormats w o).1 (cvtFormats w o).2 (Rm.ofBits r) e.toNat (s.src.vget a)[l]))

/-- VCVT_NARROW (R167): Converts the wide value of va into element e of vd (dir 1). -/
def execVcvtNarrow (w : BitVec 2) (o : BitVec 4) (r : BitVec 2) (e : BitVec 3) (d : BitVec 7) (a : BitVec 7) : State → Result :=
  slotDo { wf := cvtOk w.toNat o.toNat e.toNat && (r == 0 || cvtNarrowRounds w.toNat o.toNat), vtop := vtop [d, a],
           reads := [rv a, rv d], writes := [rv d], lane := true, shadowed := cvtFloat o.toNat } fun s =>
    .done (s.writeV d (lanesOf fun l =>
      cvtNarrow (cvtFormats w o).1 (cvtFormats w o).2 (Rm.ofBits r) e.toNat (s.src.vget a)[l] (s.src.vget d)[l]))

/-- VRCP (R169): Correctly rounded reciprocal. -/
def execVrcp (d : BitVec 7) (a : BitVec 7) : State → Result :=
  vUn true fRcp d a

/-- VRSQ (R169): Correctly rounded reciprocal square root. -/
def execVrsq (d : BitVec 7) (a : BitVec 7) : State → Result :=
  vUn true fRsq d a

/-- VSQRT (R169): Correctly rounded square root. -/
def execVsqrt (d : BitVec 7) (a : BitVec 7) : State → Result :=
  vUn true fSqrt d a

/-- VEXP2 (R169): Correctly rounded 2^x. -/
def execVexp2 (d : BitVec 7) (a : BitVec 7) : State → Result :=
  vUn true fExp2 d a

/-- VLOG2 (R169): Correctly rounded log2 x. -/
def execVlog2 (d : BitVec 7) (a : BitVec 7) : State → Result :=
  vUn true fLog2 d a

/-- VSINPI (R169): Correctly rounded sin(πx). -/
def execVsinpi (d : BitVec 7) (a : BitVec 7) : State → Result :=
  vUn true fSinpi d a

/-- VCOSPI (R169): Correctly rounded cos(πx). -/
def execVcospi (d : BitVec 7) (a : BitVec 7) : State → Result :=
  vUn true fCospi d a

/-- VTANH (R169): Correctly rounded tanh x. -/
def execVtanh (d : BitVec 7) (a : BitVec 7) : State → Result :=
  vUn true fTanh d a

/-- The first register of a quad field (R87). -/
def quadReg (q : BitVec 5) : Nat := 4 * q.toNat

/-- Register number n of a lane. -/
def Regs.vlane (r : Regs) (n : Nat) (l : Fin 96) : Word := (r.vget (BitVec.ofNat 7 n))[l]

/-- The bits of the four registers of a quad in one lane, the first register lowest (R171). -/
def Regs.quad (r : Regs) (q : BitVec 5) (l : Fin 96) : BitVec 128 :=
  r.vlane (quadReg q + 3) l ++ r.vlane (quadReg q + 2) l ++ r.vlane (quadReg q + 1) l ++ r.vlane (quadReg q) l

/-- Element i of width n of a quad (R49, R171). -/
def quadElem (n i : Nat) (x : BitVec 128) : Nat := (x.extractLsb' (n * i) n).toNat

/-- The formats of an fdot control word (R170). -/
def fdotFormats : Nat → Option (Fmt × Fmt)
  | 0 => some (.e4m3, .e4m3)
  | 1 => some (.e4m3, .e5m2)
  | 2 => some (.e5m2, .e4m3)
  | 3 => some (.e5m2, .e5m2)
  | 4 => some (.e2m1, .e2m1)
  | _ => none

/-- Signedness of A and B and the element width of an idot control word (R170). -/
def idotFormats : Nat → Bool × Bool × Nat
  | 0 => (true, true, 8)
  | 1 => (true, false, 8)
  | 2 => (false, true, 8)
  | 3 => (false, false, 8)
  | 4 => (true, true, 4)
  | 5 => (false, false, 4)
  | 6 => (true, false, 4)
  | _ => (false, true, 4)

/-- One lane of fdot (R171). -/
def fdotLane (fa fb : Fmt) (w : Word) (x y : BitVec 128) (acc : Word) : Word :=
  chunk fa fb ((List.range 16).map fun i => (quadElem fa.bits i x, quadElem fb.bits i y)) (w.extractLsb' 0 8).toInt acc
    (Rm.ofBits (w.extractLsb' 12 2))

/-- The exact sum of one lane of idot (R172). -/
def idotSum (w : Word) (x y : BitVec 128) (acc : Word) : Int :=
  let f := idotFormats (w.extractLsb' 8 3).toNat
  (List.range (128 / f.2.2)).foldl
    (fun t i => t + intOfBits f.1 f.2.2 (quadElem f.2.2 i x) * intOfBits f.2.1 f.2.2 (quadElem f.2.2 i y)) acc.toInt

/-- The registers that a dot product names (R87, R170). -/
def dotUse (sh : Bool) (a b : BitVec 5) (d s : BitVec 7) : Use :=
  { vtop := max (d.toNat + 1) (max (quadReg a + 4) (quadReg b + 4)),
    reads := rvrun (quadReg a) 4 ++ rvrun (quadReg b) 4 ++ [rv d, rs s], writes := [rv d], lane := true, shadowed := sh }

/-- An idot control word is legal: no rounding, scale or reserved bit (R170). -/
def idotWordOk (w : Word) : Bool := w &&& 0xFFFFF8FF#32 == 0

/-- FDOT (R171): Evaluates one 16-pair narrow-float chunk per lane into vd; its control word is judged after the checks of the slot (R170)
(DESIGN CHOICE, log entry 115). -/
def execFdot (a : BitVec 5) (b : BitVec 5) (d : BitVec 7) (s : BitVec 7) : State → Result :=
  slotDo (dotUse true a b d s) fun t =>
    let w := t.src.sget s
    match fdotFormats (w.extractLsb' 8 3).toNat with
    | none => .trap (t.trapOf .illOp)
    | some (fa, fb) =>
      if w &&& 0xFFFFC800#32 != 0 then .trap (t.trapOf .illOp)
      else .done (t.writeV d (lanesOf fun l => fdotLane fa fb w (t.src.quad a l) (t.src.quad b l) (t.src.vget d)[l]))

/-- IDOT (R172): Integer dot product added to vd, low 32 bits; its control word is judged as fdot's is (DESIGN CHOICE, log entry 115). -/
def execIdot (a : BitVec 5) (b : BitVec 5) (d : BitVec 7) (s : BitVec 7) : State → Result :=
  slotDo (dotUse false a b d s) fun t =>
    let w := t.src.sget s
    if !idotWordOk w then .trap (t.trapOf .illOp)
    else .done (t.writeV d (lanesOf fun l => BitVec.ofInt 32 (idotSum w (t.src.quad a l) (t.src.quad b l) (t.src.vget d)[l])))

/-- IDOT_SAT (R172): Integer dot product added to vd, saturated. -/
def execIdotSat (a : BitVec 5) (b : BitVec 5) (d : BitVec 7) (s : BitVec 7) : State → Result :=
  slotDo (dotUse false a b d s) fun t =>
    let w := t.src.sget s
    if !idotWordOk w then .trap (t.trapOf .illOp)
    else .done (t.writeV d (lanesOf fun l => satS32 (idotSum w (t.src.quad a l) (t.src.quad b l) (t.src.vget d)[l])))

end Sys2Proof.Machine
end

