-- ==== Sys2Proof/Machine/LaneInt.lean ====
section
/-!
DEFINITION. Integer, bit, predicate and extension instructions of the lanes: majors 0x08 to 0x0F
(06_lane_int.md R142..R157).
-/
namespace Sys2Proof.Machine

/-- VADD_S32 (R147): Lane 32-bit add of two vector registers. -/
def execVaddS32 (d : BitVec 7) (a : BitVec 7) (b : BitVec 7) : State → Result :=
  vBin false (· + ·) d a b

/-- VADD_S32_S (R143): Lane add of a broadcast scalar. -/
def execVaddS32S (d : BitVec 7) (a : BitVec 7) (s : BitVec 7) : State → Result :=
  vBinS false (· + ·) d a s

/-- VADD_S32_I (R143): Lane add of an immediate or literal. -/
def execVaddS32I (d : BitVec 7) (a : BitVec 7) (i : BitVec 7) : State → Result :=
  vBinI (· + ·) d a i

/-- VSUB_S32 (R147): Lane 32-bit subtract. -/
def execVsubS32 (d : BitVec 7) (a : BitVec 7) (b : BitVec 7) : State → Result :=
  vBin false (· - ·) d a b

/-- VSUB_S32_S (R143): Lane subtract of a broadcast scalar. -/
def execVsubS32S (d : BitVec 7) (a : BitVec 7) (s : BitVec 7) : State → Result :=
  vBinS false (· - ·) d a s

/-- VSUB_S32_I (R143): Lane subtract of an immediate. -/
def execVsubS32I (d : BitVec 7) (a : BitVec 7) (i : BitVec 7) : State → Result :=
  vBinI (· - ·) d a i

/-- VADD_SAT_S32 (R147): Lane signed saturating add. -/
def execVaddSatS32 (d : BitVec 7) (a : BitVec 7) (b : BitVec 7) : State → Result :=
  vBin false addSatS d a b

/-- VADD_SAT_S32_S (R143): Lane signed saturating add of a scalar. -/
def execVaddSatS32S (d : BitVec 7) (a : BitVec 7) (s : BitVec 7) : State → Result :=
  vBinS false addSatS d a s

/-- VADD_SAT_S32_I (R143): Lane signed saturating add of an immediate. -/
def execVaddSatS32I (d : BitVec 7) (a : BitVec 7) (i : BitVec 7) : State → Result :=
  vBinI addSatS d a i

/-- VADD_SAT_U32 (R147): Lane unsigned saturating add. -/
def execVaddSatU32 (d : BitVec 7) (a : BitVec 7) (b : BitVec 7) : State → Result :=
  vBin false addSatU d a b

/-- VADD_SAT_U32_S (R143): Lane unsigned saturating add of a scalar. -/
def execVaddSatU32S (d : BitVec 7) (a : BitVec 7) (s : BitVec 7) : State → Result :=
  vBinS false addSatU d a s

/-- VADD_SAT_U32_I (R143): Lane unsigned saturating add of an immediate. -/
def execVaddSatU32I (d : BitVec 7) (a : BitVec 7) (i : BitVec 7) : State → Result :=
  vBinI addSatU d a i

/-- VSUB_SAT_S32 (R147): Lane signed saturating subtract. -/
def execVsubSatS32 (d : BitVec 7) (a : BitVec 7) (b : BitVec 7) : State → Result :=
  vBin false subSatS d a b

/-- VSUB_SAT_S32_S (R143): Lane signed saturating subtract of a scalar. -/
def execVsubSatS32S (d : BitVec 7) (a : BitVec 7) (s : BitVec 7) : State → Result :=
  vBinS false subSatS d a s

/-- VSUB_SAT_S32_I (R143): Lane signed saturating subtract of an immediate. -/
def execVsubSatS32I (d : BitVec 7) (a : BitVec 7) (i : BitVec 7) : State → Result :=
  vBinI subSatS d a i

/-- VSUB_SAT_U32 (R147): Lane unsigned saturating subtract. -/
def execVsubSatU32 (d : BitVec 7) (a : BitVec 7) (b : BitVec 7) : State → Result :=
  vBin false subSatU d a b

/-- VSUB_SAT_U32_S (R143): Lane unsigned saturating subtract of a scalar. -/
def execVsubSatU32S (d : BitVec 7) (a : BitVec 7) (s : BitVec 7) : State → Result :=
  vBinS false subSatU d a s

/-- VSUB_SAT_U32_I (R143): Lane unsigned saturating subtract of an immediate. -/
def execVsubSatU32I (d : BitVec 7) (a : BitVec 7) (i : BitVec 7) : State → Result :=
  vBinI subSatU d a i

/-- VMIN_S32 (R147): Lane signed minimum. -/
def execVminS32 (d : BitVec 7) (a : BitVec 7) (b : BitVec 7) : State → Result :=
  vBin false minS d a b

/-- VMIN_S32_S (R143): Lane signed minimum with a scalar. -/
def execVminS32S (d : BitVec 7) (a : BitVec 7) (s : BitVec 7) : State → Result :=
  vBinS false minS d a s

/-- VMIN_S32_I (R143): Lane signed minimum with an immediate. -/
def execVminS32I (d : BitVec 7) (a : BitVec 7) (i : BitVec 7) : State → Result :=
  vBinI minS d a i

/-- VMAX_S32 (R147): Lane signed maximum. -/
def execVmaxS32 (d : BitVec 7) (a : BitVec 7) (b : BitVec 7) : State → Result :=
  vBin false maxS d a b

/-- VMAX_S32_S (R143): Lane signed maximum with a scalar. -/
def execVmaxS32S (d : BitVec 7) (a : BitVec 7) (s : BitVec 7) : State → Result :=
  vBinS false maxS d a s

/-- VMAX_S32_I (R143): Lane signed maximum with an immediate. -/
def execVmaxS32I (d : BitVec 7) (a : BitVec 7) (i : BitVec 7) : State → Result :=
  vBinI maxS d a i

/-- VMIN_U32 (R147): Lane unsigned minimum. -/
def execVminU32 (d : BitVec 7) (a : BitVec 7) (b : BitVec 7) : State → Result :=
  vBin false minU d a b

/-- VMIN_U32_S (R143): Lane unsigned minimum with a scalar. -/
def execVminU32S (d : BitVec 7) (a : BitVec 7) (s : BitVec 7) : State → Result :=
  vBinS false minU d a s

/-- VMIN_U32_I (R143): Lane unsigned minimum with an immediate. -/
def execVminU32I (d : BitVec 7) (a : BitVec 7) (i : BitVec 7) : State → Result :=
  vBinI minU d a i

/-- VMAX_U32 (R147): Lane unsigned maximum. -/
def execVmaxU32 (d : BitVec 7) (a : BitVec 7) (b : BitVec 7) : State → Result :=
  vBin false maxU d a b

/-- VMAX_U32_S (R143): Lane unsigned maximum with a scalar. -/
def execVmaxU32S (d : BitVec 7) (a : BitVec 7) (s : BitVec 7) : State → Result :=
  vBinS false maxU d a s

/-- VMAX_U32_I (R143): Lane unsigned maximum with an immediate. -/
def execVmaxU32I (d : BitVec 7) (a : BitVec 7) (i : BitVec 7) : State → Result :=
  vBinI maxU d a i

/-- VSHL (R147): Lane left shift. -/
def execVshl (d : BitVec 7) (a : BitVec 7) (b : BitVec 7) : State → Result :=
  vBin false shl d a b

/-- VSHL_S (R143): Lane left shift by a scalar count. -/
def execVshlS (d : BitVec 7) (a : BitVec 7) (s : BitVec 7) : State → Result :=
  vBinS false shl d a s

/-- VSHL_I (R143): Lane left shift by an immediate count. -/
def execVshlI (d : BitVec 7) (a : BitVec 7) (i : BitVec 7) : State → Result :=
  vBinI shl d a i

/-- VSHR (R147): Lane logical right shift. -/
def execVshr (d : BitVec 7) (a : BitVec 7) (b : BitVec 7) : State → Result :=
  vBin false shr d a b

/-- VSHR_S (R143): Lane logical right shift by a scalar count. -/
def execVshrS (d : BitVec 7) (a : BitVec 7) (s : BitVec 7) : State → Result :=
  vBinS false shr d a s

/-- VSHR_I (R143): Lane logical right shift by an immediate count. -/
def execVshrI (d : BitVec 7) (a : BitVec 7) (i : BitVec 7) : State → Result :=
  vBinI shr d a i

/-- VSRA (R147): Lane arithmetic right shift. -/
def execVsra (d : BitVec 7) (a : BitVec 7) (b : BitVec 7) : State → Result :=
  vBin false sra d a b

/-- VSRA_S (R143): Lane arithmetic right shift by a scalar count. -/
def execVsraS (d : BitVec 7) (a : BitVec 7) (s : BitVec 7) : State → Result :=
  vBinS false sra d a s

/-- VSRA_I (R143): Lane arithmetic right shift by an immediate count. -/
def execVsraI (d : BitVec 7) (a : BitVec 7) (i : BitVec 7) : State → Result :=
  vBinI sra d a i

/-- VABSD_S32 (R147): Lane absolute signed difference as u32. -/
def execVabsdS32 (d : BitVec 7) (a : BitVec 7) (b : BitVec 7) : State → Result :=
  vBin false absDiffS d a b

/-- VABSD_S32_S (R143): Lane absolute difference with a scalar. -/
def execVabsdS32S (d : BitVec 7) (a : BitVec 7) (s : BitVec 7) : State → Result :=
  vBinS false absDiffS d a s

/-- VABSD_S32_I (R143): Lane absolute difference with an immediate. -/
def execVabsdS32I (d : BitVec 7) (a : BitVec 7) (i : BitVec 7) : State → Result :=
  vBinI absDiffS d a i

/-- VADD64 (R148): Lane 64-bit add of register pairs. -/
def execVadd64 (d : BitVec 7) (a : BitVec 7) (b : BitVec 7) : State → Result :=
  vBin64 (· + ·) d a b

/-- VSUB64 (R148): Lane 64-bit subtract of register pairs. -/
def execVsub64 (d : BitVec 7) (a : BitVec 7) (b : BitVec 7) : State → Result :=
  vBin64 (· - ·) d a b

/-- VMUL_LO (R149): Lane low 32-bit product. -/
def execVmulLo (d : BitVec 7) (a : BitVec 7) (b : BitVec 7) : State → Result :=
  vBin false (· * ·) d a b

/-- VMULHI_S32 (R149): Lane signed high product word. -/
def execVmulhiS32 (d : BitVec 7) (a : BitVec 7) (b : BitVec 7) : State → Result :=
  vBin false mulHiS d a b

/-- VMULHI_U32 (R149): Lane unsigned high product word. -/
def execVmulhiU32 (d : BitVec 7) (a : BitVec 7) (b : BitVec 7) : State → Result :=
  vBin false mulHiU d a b

/-- VAND (R150): Lane bitwise AND. -/
def execVand (d : BitVec 7) (a : BitVec 7) (b : BitVec 7) : State → Result :=
  vBin false (· &&& ·) d a b

/-- VOR (R150): Lane bitwise OR. -/
def execVor (d : BitVec 7) (a : BitVec 7) (b : BitVec 7) : State → Result :=
  vBin false (· ||| ·) d a b

/-- VXOR (R150): Lane bitwise XOR. -/
def execVxor (d : BitVec 7) (a : BitVec 7) (b : BitVec 7) : State → Result :=
  vBin false (· ^^^ ·) d a b

/-- VANDN (R150): Lane a AND NOT b. -/
def execVandn (d : BitVec 7) (a : BitVec 7) (b : BitVec 7) : State → Result :=
  vBin false andNot d a b

/-- VBFX_U32 (R151): Lane zero-extended bit-field extract. -/
def execVbfxU32 (d : BitVec 7) (a : BitVec 7) (b : BitVec 7) : State → Result :=
  vBin false bfxU d a b

/-- VBFX_S32 (R151): Lane sign-extended bit-field extract. -/
def execVbfxS32 (d : BitVec 7) (a : BitVec 7) (b : BitVec 7) : State → Result :=
  vBin false bfxS d a b

/-- VMAD_LO (R149): Lane low multiply-add into vd. -/
def execVmadLo (d : BitVec 7) (a : BitVec 7) (b : BitVec 7) : State → Result :=
  vTri false (fun a b d => a * b + d) d a b

/-- VMAD_SAT_S32 (R149): Lane signed saturating multiply-add into vd. -/
def execVmadSatS32 (d : BitVec 7) (a : BitVec 7) (b : BitVec 7) : State → Result :=
  vTri false madSatS d a b

/-- VBFI (R151): Lane bit-field insert into vd. -/
def execVbfi (d : BitVec 7) (a : BitVec 7) (b : BitVec 7) : State → Result :=
  vTri false bfi d a b

/-- VFSHL (R152): Lane funnel shift left of vd:va. -/
def execVfshl (d : BitVec 7) (a : BitVec 7) (b : BitVec 7) : State → Result :=
  vTri false funnelL d a b

/-- VFSHR (R152): Lane funnel shift right of va:vd. -/
def execVfshr (d : BitVec 7) (a : BitVec 7) (b : BitVec 7) : State → Result :=
  vTri false funnelR d a b

/-- VMUL_WIDE_S32 (R149): Lane signed 64-bit product into a pair. -/
def execVmulWideS32 (d : BitVec 7) (a : BitVec 7) (b : BitVec 7) : State → Result :=
  vWide mulWideS d a b

/-- VMUL_WIDE_U32 (R149): Lane unsigned 64-bit product into a pair. -/
def execVmulWideU32 (d : BitVec 7) (a : BitVec 7) (b : BitVec 7) : State → Result :=
  vWide mulWideU d a b

/-- VNOT (R150): Lane bitwise NOT. -/
def execVnot (d : BitVec 7) (a : BitVec 7) : State → Result :=
  vUn false (~~~ ·) d a

/-- VPOPC (R150): Lane population count. -/
def execVpopc (d : BitVec 7) (a : BitVec 7) : State → Result :=
  vUn false popCount d a

/-- VCLZ (R150): Lane leading zero count. -/
def execVclz (d : BitVec 7) (a : BitVec 7) : State → Result :=
  vUn false clz d a

/-- VBREV (R150): Lane bit reversal. -/
def execVbrev (d : BitVec 7) (a : BitVec 7) : State → Result :=
  vUn false bitRev d a

/-- VSAT_S8_S32 (R157): Clamps s32 to s8 range. -/
def execVsatS8S32 (d : BitVec 7) (a : BitVec 7) : State → Result :=
  vUn false (fun a => satTo (-128) 127 a.toInt) d a

/-- VSAT_U8_S32 (R157): Clamps s32 to u8 range. -/
def execVsatU8S32 (d : BitVec 7) (a : BitVec 7) : State → Result :=
  vUn false (fun a => satTo 0 255 a.toInt) d a

/-- VSAT_S16_S32 (R157): Clamps s32 to s16 range. -/
def execVsatS16S32 (d : BitVec 7) (a : BitVec 7) : State → Result :=
  vUn false (fun a => satTo (-32768) 32767 a.toInt) d a

/-- VSAT_U16_S32 (R157): Clamps s32 to u16 range. -/
def execVsatU16S32 (d : BitVec 7) (a : BitVec 7) : State → Result :=
  vUn false (fun a => satTo 0 65535 a.toInt) d a

/-- VCMP (R153): Lane integer compare under condition and type into a predicate. -/
def execVcmp (c : BitVec 5) (p : BitVec 4) (t : BitVec 3) (a : BitVec 7) (b : BitVec 7) : State → Result :=
  vCmp (decide (c.toNat ≤ 5) && decide (t.toNat ≤ 1)) (vcmpCond c.toNat t.toNat) p a b

/-- PAND (R154): Predicate AND in active lanes. -/
def execPand (d : BitVec 4) (a : BitVec 4) (b : BitVec 4) : State → Result :=
  pBin (· &&& ·) d a b

/-- POR (R154): Predicate OR. -/
def execPor (d : BitVec 4) (a : BitVec 4) (b : BitVec 4) : State → Result :=
  pBin (· ||| ·) d a b

/-- PXOR (R154): Predicate XOR. -/
def execPxor (d : BitVec 4) (a : BitVec 4) (b : BitVec 4) : State → Result :=
  pBin (· ^^^ ·) d a b

/-- PANDN (R154): Predicate AND NOT. -/
def execPandn (d : BitVec 4) (a : BitVec 4) (b : BitVec 4) : State → Result :=
  pBin (fun x y => x &&& ~~~y) d a b

/-- PNOT (R154): Predicate NOT. -/
def execPnot (d : BitVec 4) (a : BitVec 4) : State → Result :=
  pUn (~~~ ·) d a

/-- PMOV (R154): Predicate copy. -/
def execPmov (d : BitVec 4) (a : BitVec 4) : State → Result :=
  pUn id d a

/-- PSET (R154): Sets a predicate in active lanes. -/
def execPset (d : BitVec 4) : State → Result :=
  pConst (BitVec.allOnes 96) d

/-- PCLR (R154): Clears a predicate in active lanes. -/
def execPclr (d : BitVec 4) : State → Result :=
  pConst 0 d

/-- VSEL (R155): Selects va or vb per lane by predicate q, where the minor field holds 8 + q. -/
def execVsel (q : BitVec 5) (d : BitVec 7) (a : BitVec 7) (b : BitVec 7) : State → Result :=
  slotDo { wf := decide (8 ≤ q.toNat) && decide (q.toNat ≤ 19), vtop := vtop [d, a, b],
           reads := [rv a, rv b, .p (q.toNat - 8)], writes := [rv d], lane := true } fun s =>
    .done (s.writeV d (mergeLanes (s.src.pget (q.toNat - 8)) (s.src.vget a) (s.src.vget b)))

/-- VSEXT8 (R156): Sign-extends byte element e. -/
def execVsext8 (d : BitVec 7) (a : BitVec 7) (e : BitVec 7) : State → Result :=
  vElem 4 (sextElem 8) d a e

/-- VZEXT8 (R156): Zero-extends byte element e. -/
def execVzext8 (d : BitVec 7) (a : BitVec 7) (e : BitVec 7) : State → Result :=
  vElem 4 (zextElem 8) d a e

/-- VSEXT16 (R156): Sign-extends halfword element e. -/
def execVsext16 (d : BitVec 7) (a : BitVec 7) (e : BitVec 7) : State → Result :=
  vElem 2 (sextElem 16) d a e

/-- VZEXT16 (R156): Zero-extends halfword element e. -/
def execVzext16 (d : BitVec 7) (a : BitVec 7) (e : BitVec 7) : State → Result :=
  vElem 2 (zextElem 16) d a e

/-- VSAT_S32_S64 (R157): Clamps an s64 pair to s32 range. -/
def execVsatS32S64 (d : BitVec 7) (a : BitVec 7) : State → Result :=
  slotDo { wf := even a, vtop := vtop [d, a + 1], reads := rvpair a, writes := [rv d], lane := true } fun s =>
    .done (s.writeV d (lanesOf fun l => satS32 (s.src.vpair a l).toInt))

end Sys2Proof.Machine
end

