-- ==== Sys2Proof/Machine/Page.lean ====
section
/-!
DEFINITION. Pages and physical memory (19_page.md R378..R391): bring-in, invalidation requests, channel and slice retirement,
the scrubber, the stile's releases, and accesses by the host.
-/
namespace Sys2Proof.Machine

/-! ### Bring-in (R378) -/

/-- The tables of a page table and the pages that its leaves map, as (address, size), from a table at the first of the levels. -/
def State.mappedFrom (s : State) : List Nat → Nat → List (Nat × Nat)
  | [], _ => []
  | level :: rest, table =>
    (table, 4096) :: (List.range 512).flatMap fun i =>
      let e : DWord := BitVec.ofNat 64 (leNat (s.homeRead (table + 8 * i) 8))
      if !e.getLsbD 0 then []
      else if pteLeaf level e then [(pteAddr e, levelSize level)]
      else s.mappedFrom rest (pteAddr e)

/-- The physical ranges that the contexts of a tenant use. -/
def State.tenantUses (s : State) (tenant : Nat) : List (Nat × Nat) :=
  (s.ctxs.filter fun c => c.tenant == tenant && c.state != .destroyed).flatMap fun c => s.mappedFrom [0, 1, 2, 3] c.root

/-- A place for a page of a size (R378): aligned, in local HBM, inside a window of the tenant, clear of the ranges in use, and with no
granule in a reserve or withdrawn slot (R385). -/
def State.placeFree (s : State) (tenant : Nat) (used : List (Nat × Nat)) (size pa : Nat) : Bool :=
  pa % size == 0 && decide (pa + size ≤ hbmEnd) && s.inWindows tenant pa size &&
  (used.all fun u => decide (pa + size ≤ u.1) || decide (u.1 + u.2 ≤ pa)) &&
  (List.range (size / 4096)).all fun i => !s.refused (pa + 4096 * i)

/-- The first free place among the n aligned addresses from one. -/
def State.firstPlace (s : State) (tenant : Nat) (used : List (Nat × Nat)) (size pa : Nat) : Nat → Option Nat
  | 0 => none
  | n + 1 => if s.placeFree tenant used size pa then some pa else s.firstPlace tenant used size (pa + size) n

/-- The place that the memory manager takes: any free one (log entry 23); none where there is no free one. -/
def State.pickPlace (s : State) (tenant size : Nat) : Option Nat :=
  let used := s.tenantUses tenant
  let want := Config.freePlace (8 * s.tick + 6)
  if s.placeFree tenant used size want then some want
  else s.firstPlace tenant used size 0 (hbmEnd / size)

/-- An entry written by the memory manager at its home. -/
def State.putEntry (s : State) (ea : Nat) (e : DWord) : State := { s with mem := Memory.writeN s.mem ea (leBytes 8 e.toNat) }

/-- Some granule of a physical range is being copied (R387). -/
def State.copyingIn (s : State) (pa n : Nat) : Bool :=
  match s.moving with
  | some (_, g, busy) => busy && decide (pa / 4096 ≤ g) && decide (g * 4096 < pa + n)
  | none => false

/-- Something of a warp may stand at a page: an access to it on a path, an engine's entry, or the slot that it stalls at. -/
def Warp.awaits (w : Warp) (va size : Nat) : Bool :=
  (w.entries.any fun e => !e.done && e.reqs.any fun r => !r.drop && decide (r.va < va + size) && decide (va < r.va + e.op.size)) ||
  !w.copyQ.isEmpty || !w.tileQ.isEmpty || !w.collQ.isEmpty || w.status == .stalled

/-- The warps of a context that may stand at a page. -/
def State.awaiting (s : State) (ctx va size : Nat) : List WRef :=
  (s.groups.filter fun g => g.ref.ctx == ctx).flatMap fun g =>
    (g.warps.filter (·.awaits va size)).map fun w => { g := g.ref, w := w.wid }

/-- The firmware may stand at a page of a context: a queue of it works, a launch is to complete, something is held for it, or the page
lies in its image pool, of which the memory manager keeps what is in use present (R378). -/
def State.firmwareAwaits (s : State) (ctx va : Nat) : Bool :=
  (s.queues.any fun q => q.ctx == ctx && q.state != .error && q.state != .stopped) ||
  (s.launches.any fun l => l.ctx == ctx && !l.complete) || s.fwHeld.any (·.ctx == ctx) || s.invalid.any (·.ctx == ctx) ||
  match s.ctxOf ctx with
  | some c => !c.heldTraps.isEmpty || !c.heldAbsent.isEmpty || !c.waiting.isEmpty ||
      c.poolUsed.any fun x => decide (c.poolBase + 4096 * x.1 ≤ va) && decide (va < c.poolBase + 4096 * (x.1 + x.2))
  | none => false

/-- No page was free for an entry: each access that waits for it fails, the firmware's among them (R378). -/
def State.noRoom (s : State) (ctx ea va size : Nat) : State :=
  { s with noPage := { ctx := ctx, entry := ea, fails := s.user noCore :: s.awaiting ctx va size, telling := [] } ::
             s.noPage.filter (fun x => !(x.ctx == ctx && x.entry == ea)),
           tick := s.tick + 1 }

/-- PAGE_BRING_IN (R378): The memory manager brings in a backed page that an access waits for, and stalled accesses walk again. Backing that cannot be read
(none) makes the entry unbacked; without a free page the access that waits fails. -/
def execPageBringIn (ctx va : Nat) (backing : Option (List Byte)) (s : State) : Result :=
  .next <| match s.walk ctx va with
    | .away ea level =>
      let e : DWord := BitVec.ofNat 64 (leNat (s.homeRead ea 8))
      let size := levelSize level
      let base := va / size * size
      if s.copying ea ∨ ((s.awaiting ctx base size).isEmpty ∧ !s.firmwareAwaits ctx va) then s
      else match backing with
        | none => (s.putEntry ea (e &&& ~~~(0x9#64))).flushHeld
        | some bs =>
          match s.pickPlace (s.tenantOf ctx) size with
          | none => (s.noRoom ctx ea base size).flushHeld
          | some pa =>
            if s.copyingIn pa size then s
            else
              let t := s.homeStore noCore (pteKey e) (cellsAt pa ((bs ++ List.replicate size 0).take size))
              State.flushHeld { t.putEntry ea ((e &&& ~~~(0x000FFFFFFFFFF000#64)) ||| BitVec.ofNat 64 pa ||| 0x21#64) with
                tick := t.tick + 1, noPage := t.noPage.filter fun x => !(x.ctx == ctx && x.entry == ea) }
    | _ => s

/-! ### Invalidation requests (R379, R380) -/

/-- The request names an address range; a page count of 0 names the whole context. -/
def Invalid.names (x : Invalid) (ctx va n : Nat) : Bool :=
  x.ctx == ctx && (x.pages == 0 || (decide (va < x.va + 4096 * x.pages) && decide (x.va < va + n)))

/-- Step 1 of R380: every matching translation leaves every core and die cache, and the instruction-cache lines of the pages go
(R428). -/
def State.dropNamed (s : State) (x : Invalid) : State :=
  { s with
    cores := s.cores.map fun k => { k with tlb := k.tlb.filter fun t => !x.names t.ctx t.va t.size,
                                           icache := k.icache.filter fun c => !x.names c.ctx c.va 128 },
    dies := s.dies.map fun d => { d with tlb := d.tlb.filter fun t => !x.names t.ctx t.va t.size } }

/-- The first request of a tenant begins once it is at the front (R379). -/
def State.startInvalid (s : State) (tenant : Nat) : State :=
  match s.invalid.find? (·.tenant == tenant) with
  | none => s
  | some x =>
    if x.removed then s
    else { s.dropNamed x with invalid := s.invalid.map fun y => if y = x then { y with removed := true } else y }

/-- INVALIDATION_REQUEST (R379): A host invalidation request arrives and translations are removed from all caches, once the tenant's
earlier requests are complete. One with a bad field is dropped, with a record. -/
def execInvalidationRequest (tenant : Nat) (req : List (BitVec 8)) (s : State) : Result :=
  .next <|
    if !(s.tenants.getD tenant Tenant.fresh).enabled then s
    else
      let ctx := field req 12 2
      let sound := field req 0 8 / 2 ^ 48 == 0 && field req 0 8 % 4096 == 0 && zeros req 14 2 && field req 16 8 % 8 == 0 &&
        s.ctxs.any fun c => c.id == ctx && c.tenant == tenant && c.state != .destroyed
      if !sound then s.hostRecord tenant req
      else
        let x : Invalid :=
          { tenant := tenant, ctx := ctx, va := field req 0 8, pages := field req 8 4, compVa := field req 16 8, value := field req 24 8,
            removed := false }
        State.startInvalid { s with invalid := s.invalid ++ [x] } tenant

/-- A translation hold on a page that the request names is still held (R266, R380). -/
def State.heldNamed (s : State) (x : Invalid) : Bool :=
  s.groups.any fun g => g.warps.any fun w => w.copyQ.any fun c => c.held.any fun t => x.names t.ctx t.va t.size

/-- Every dirty byte of every core written back (R380 step 3). -/
def State.writeBackCores (s : State) : State := (List.range 192).foldl State.writeBackAll s

/-- INVALIDATION_COMPLETE (R380): Holds are dropped, dirty bytes written back and the completion value stored (DEDUCED,
log entry 60). -/
def execInvalidationComplete (tenant : Nat) (s : State) : Result :=
  .next <| match s.invalid.find? (·.tenant == tenant) with
    | none => s
    | some x =>
      if !x.removed ∨ s.heldNamed x ∨ !s.acked noCore then s
      else
        let t := s.writeBackCores
        if t.parked.any fun p => p.core != noCore && p.core != noCore + 1 then s
        else
          let ended (u : State) : State := State.startInvalid { u with invalid := u.invalid.erase x } tenant
          match t.fwWrite x.ctx x.compVa (leBytes 8 x.value) with
          | .ok _ _ u => ended u
          | .fail _ _ u => ended u
          | .wait => s

/-! ### Channels (R385..R387) -/

/-- A granule of a slot at or above one, among the n granules from it. -/
def granuleFrom (slot g : Nat) : Nat → Option Nat
  | 0 => none
  | n + 1 => if slotOf g = slot then some g else granuleFrom slot (g + 1) n

/-- The next granule of a slot in local HBM. -/
def nextGranule (slot g : Nat) : Option Nat := granuleFrom slot g (hbmEnd / 4096 - g)

/-- An entry of the slot table changed. -/
def State.setSlot (s : State) (k : Nat) (e : SlotEntry) : State := { s with slots := (k, e) :: s.slots.filter (·.1 != k) }

/-- The slots of a channel in a state, in increasing order. -/
def State.slotsOf (s : State) (ch : Nat) (st : SlotState) : List Nat :=
  (List.range 3072).filter fun k => (s.slotEntry k).state == st && (s.slotEntry k).channel == ch

/-- Data slots that a channel holds or has been chosen to take. -/
def State.dataCount (s : State) (ch : Nat) : Nat :=
  (s.slotsOf ch .data).length + ((List.range 3072).filter fun k => (s.slotEntry k).state == .moving && (s.slotEntry k).target == ch).length

/-- The channel that takes the next slot (R386): the live one with the fewest data slots that still holds a reserve slot, the lowest
number among equals. -/
def State.takerOf (s : State) (ch : Nat) : Option Nat :=
  ((sortBy (fun (a b : Nat × Nat) => decide (a.1 < b.1) || (a.1 == b.1 && decide (a.2 ≤ b.2)))
    (((List.range 384).filter fun c => c != ch && !(s.channelAt c).retired && !(s.slotsOf c .reserve).isEmpty).map fun c => (s.dataCount c, c))).head?).map (·.2)

/-- The data slots of a retiring channel given their targets one after another, while reserve slots last (R386). -/
def State.assignSlots (s : State) (ch : Nat) : List Nat → State
  | [] => s
  | k :: rest =>
    match s.takerOf ch with
    | none => s
    | some c =>
      let s1 := match (s.slotsOf c .reserve).head? with
        | some r => s.setSlot r { state := .withdrawn, channel := c, target := 0 }
        | none => s
      (s1.setSlot k { state := .moving, channel := ch, target := c }).assignSlots ch rest

/-- The lowest moving slot at its first granule. -/
def State.firstMoving (s : State) : Option (Nat × Nat × Bool) :=
  ((List.range 3072).find? fun k => (s.slotEntry k).state == .moving).bind fun k => (nextGranule k 0).map fun g => (k, g, false)

/-- The channel that has waited longest for its retirement (R386). -/
def State.dueFirst (s : State) (ch : Nat) : Bool :=
  match (s.channelAt ch).due with
  | none => false
  | some n => s.channels.all fun c => c.retired || (match c.due with | some m => decide (n ≤ m) | none => true)

/-- CHANNEL_RETIREMENT (R386): A channel past an error threshold is retired and its slots given targets. One retirement at a time,
and none once no reserve slot remains. -/
def execChannelRetirement (ch : Nat) (s : State) : Result :=
  .next <|
    if 384 ≤ ch ∨ (s.channelAt ch).retired ∨ !s.dueFirst ch ∨ s.moving.isSome ∨
        !((List.range 3072).any fun k => (s.slotEntry k).state == .reserve) then s
    else
      let own := s.slotsOf ch .reserve
      let s1 := (s.setChannel { s.channelAt ch with retired := true })
      let s2 := own.foldl (fun t k => t.setSlot k { state := .withdrawn, channel := ch, target := 0 }) s1
      let s3 := s2.assignSlots ch (s2.slotsOf ch .data)
      { s3 with moving := s3.firstMoving,
                flash := s3.flash.retire (BitVec.ofNat 64 (6 + 2 ^ 8 * ch)) s3.time.toNat,
                switor := { s3.switor with cause := s3.switor.cause ||| 2 } }

/-- A granule lies inside no tenant's window (R387). -/
def State.unreached (s : State) (g : Nat) : Bool :=
  (List.range 16).all fun t => !((s.tenants.getD t Tenant.fresh).windows.any fun w => decide (g * 4096 < w.1 + w.2) && decide (w.1 < g * 4096 + 4096))

/-- The evacuation goes on after a granule: the slot's next one, or the slot enters the data state on its target and the next moving
slot begins (R387). -/
def State.advanceMove (s : State) (k g : Nat) : State :=
  match nextGranule k (g + 1) with
  | some h => { s with moving := some (k, h, false) }
  | none =>
    let t := s.setSlot k { state := .data, channel := (s.slotEntry k).target, target := 0 }
    { t with moving := t.firstMoving }

/-- The granule's storage as at bring-up: zero bytes, with tags under the plain device key (R387, R404). -/
def State.blankGranule (s : State) (g : Nat) : State :=
  let inside (pa : Nat) : Bool := pa / 4096 == g
  { s with mem := Memory.clear s.mem (g * 4096) 4096, poison := s.poison.filter fun x => !inside x,
           flaws := s.flaws.filter fun x => !inside x,
           sectorKey := s.sectorKey.filter fun (x : Nat × Nat) => !inside x.1 }

/-- GRANULE_COPY_START (R387): A granule's dirty sectors are written back and its copy to the new channel begins, bad sectors that its
read meets poisoned, logged and counted for the old one (R389..R391); one that no agent can reach is switched without a copy. -/
def execGranuleCopyStart (s : State) : Result :=
  .next <| match s.moving with
    | some (k, g, false) =>
      if s.unreached g then (s.blankGranule g).advanceMove k g else { s.physMet (g * 4096) 4096 with moving := some (k, g, true) }
    | _ => s

/-- The sc timestamps of a granule's lines on its new slice: at least what they were (R242, R387). -/
def State.keepStamps (old new_ : State) (g : Nat) : State :=
  (List.range 8).foldl (fun t i =>
    let pa := g * 4096 + 512 * i
    { t with scStamp := (pa / 512, maxClock (old.stampOf pa) (new_.stampOf pa)) :: t.scStamp.filter (·.1 != pa / 512) }) new_

/-- A write that has waited at a granule performed (R387): from a core or an engine under its key id, from the host under the key
that the sector has. -/
def State.unpark (s : State) (p : Parked) : State :=
  match p.data with
  | [] => s
  | c :: _ =>
    if p.key = hostKey then s.physSector (sectorOf c.1) p.data else s.putSector p.key (sectorOf c.1) p.data

/-- The waiting writes of a granule performed in the order in which they came; what their cores held of the sectors is read again from
the new channel (R441). An atomic waits on until its entry is performed. -/
def State.unparkAll (s : State) : State :=
  s.parked.foldl (fun t p => if p.atom.isSome then t else (t.unpark p).dropSector p.core ((p.data.head?.map (·.1)).getD 0))
    { s with parked := s.parked.filter (·.atom.isSome) }

/-- GRANULE_COPY_END (R387): A granule's copy ends and its accesses go to the new channel. -/
def execGranuleCopyEnd (s : State) : Result :=
  .next <| match s.moving with
    | some (k, g, true) => (State.keepStamps s (s.advanceMove k g) g).unparkAll.flushHeld
    | _ => s

/-! ### Slices (R388) -/

/-- The cyclic distance of two slices of a die. -/
def sliceDistance (a b : Nat) : Nat := min ((a + 32 - b) % 32) ((b + 32 - a) % 32)

/-- Channels that a slice fronts. -/
def State.fronts (s : State) (slice : Nat) : List Nat := (List.range 384).filter fun c => s.sliceOf c == slice

/-- The slice of the same die that takes a channel of a slice (R388). -/
def State.sliceTaker (s : State) (slice : Nat) : Option Nat :=
  let live := (List.range 32).map (32 * (slice / 32) + ·) |>.filter fun x => x != slice && s.slices.getD x false
  let key (x : Nat) : Nat × Nat × Nat := (sliceDistance (x % 32) (slice % 32), (s.fronts x).length, x)
  (sortBy (fun a b =>
    let x := key a
    let y := key b
    decide (x.1 < y.1) || (x.1 == y.1 && (decide (x.2.1 < y.2.1) || (x.2.1 == y.2.1 && decide (x.2.2 ≤ y.2.2))))) live).head?

/-- The sc timestamps of a slice's lines folded into its die's high-water mark (R388). -/
def State.foldStamps (s : State) (slice : Nat) : State :=
  let own (x : Nat × DWord) : Bool := s.sliceOf (s.channelOf (x.1 * 512)) == slice
  { s with
    scHigh := s.scHigh.modify (slice / 32) fun h => (s.scStamp.filter own).foldl (fun h x => maxClock h x.2) h,
    scStamp := s.scStamp.filter fun x => !own x }

/-- SLICE_RETIREMENT (R388): A failing slice is drained and its channels reassigned to nearby slices. The last live slice of a die is
never retired. -/
def execSliceRetirement (slice : Nat) (s : State) : Result :=
  .next <|
    if 128 ≤ slice ∨ !s.slices.getD slice false ∨ (s.sliceTaker slice).isNone then s
    else
      let chans := s.fronts slice
      let s1 := s.foldStamps slice
      let s2 := { s1 with slices := s1.slices.set slice false }
      let s3 := chans.foldl (fun t c =>
        match t.sliceTaker slice with
        | some x => { t with chanSlice := (c, x) :: t.chanSlice.filter (·.1 != c) }
        | none => t) s2
      { s3 with flash := s3.flash.retire (BitVec.ofNat 64 (7 + 2 ^ 8 * slice)) s3.time.toNat,
                switor := { s3.switor with cause := s3.switor.cause ||| 1 } }

/-! ### The scrubber (R390, R391) -/

/-- What the scrubber finds in a sector: an error that ECC cannot correct, and a tag that the sector's key did not make, are in the
state; the rest is the event's. -/
def State.scrubFinds (s : State) (sec : Nat) (found : SectorCheck) : SectorCheck :=
  if s.flaws.contains sec then .uncorrectable
  else if found = .clean ∧ !s.tagStands sec then .tagFailure
  else found

/-- The scrubber finds that a sector's tag does not match: it is logged and the sector poisoned (R390, R391). -/
def State.scrubTag (s : State) (sec : Nat) : State := (s.logError 3 0 (s.sectorKeyId sec) sec).poisonSector sec

/-- SCRUB_SECTOR (R391): The scrubber reads a sector of a live channel, by its number, corrects ECC and checks the tag,
also after a correction, where the fresh tag of a sector that matches is the one that it has (DESIGN CHOICE, log entries 34, 67). -/
def execScrubSector (sector : Nat) (found : SectorCheck) (s : State) : Result :=
  .next <|
    let sec := 128 * sector
    if hbmEnd ≤ sec ∨ (s.channelAt (s.channelOf sec)).retired then s
    else match s.scrubFinds sec found with
      | .clean => s
      | .corrected => let t := s.eccCorrected 0 sec; if s.tagStands sec then t else t.scrubTag sec
      | .uncorrectable => s.eccUncorrectable 0 sec
      | .tagFailure => s.scrubTag sec

/-! ### The stile (R382) -/

/-- The bytes that a staged item leaves at its address (R340, R382). -/
def State.stagedBytes (s : State) (pa : Nat) (x : Staged) : List Byte :=
  match x.red with
  | none => x.data
  | some (op, signed, v) =>
    leBytes x.data.length (atomNew op signed (8 * x.data.length) (leNat (s.homeRead pa x.data.length)) v.toNat 0)

/-- The staged items of a launch's group applied at their home slices in staging order (R340, R382): none while a page is brought in or a
granule copied; an item that can no longer be placed is dropped (DEDUCED, log entry 64). -/
def State.applyAll (s : State) (ctx seq : Nat) : List Staged → Option State
  | [] => some s
  | x :: rest =>
    match s.translate noCore ctx x.va true with
    | (.away, _) => none
    | (.fail _, s1) => s1.applyAll ctx seq rest
    | (.ok pa t, s1) =>
      if s1.copying pa then none
      else match s1.homeFails pa x.data.length t.key x.red.isSome with
        | some c => (s1.afterFail c t.key pa).applyAll ctx seq rest
        | none =>
          let bs := s1.stagedBytes pa x
          ((s1.homeWrite noCore t.key pa bs).noteStore ctx seq pa bs).applyAll ctx seq rest

/-- STILE_RELEASE (R251, R382): The stile applies a retired group's staged writes in staging order, after those of every lower group. -/
def execStileRelease (ctx seq : Nat) (s : State) : Result :=
  .next <| match s.launchOf ctx seq with
    | none => s
    | some l =>
      match s.groups.find? fun g => g.ref.ctx == ctx && g.ref.seq == seq && g.ref.lgi == l.released with
      | none => s
      | some g =>
        if !l.desc.determ ∨ g.status ≠ .retired then s
        else match s.applyAll ctx seq g.staged with
          | none => s
          | some t =>
            (((t.updLaunch ctx seq fun l => { l with released := l.released + 1 }).freeArea ctx g.stagingArea).putGroup
              { g with staged := [], stagedSize := 0, stagingArea := 0 })

/-! ### The host (R361) -/

/-- The part of a byte string at an address that lies in a sector, with its address. -/
def partIn (sec pa : Nat) (bs : List Byte) : Nat × List Byte :=
  let lo := max sec pa
  (lo, (bs.drop (lo - pa)).take (min (sec + 128) (pa + bs.length) - lo))

/-- Bytes written by the host through a virtual function: those outside the tenant's windows are dropped (R361); a queue whose write index
they cover is told (R352). -/
def State.hostWrite (s : State) (tenant pa : Nat) (bs : List Byte) : State :=
  (sectorsOf pa bs.length).foldl (fun t sec =>
    let x := partIn sec pa bs
    if t.inWindows tenant sec 128 then (t.physSector sec (cellsAt x.1 x.2)).noteStore 256 0 x.1 x.2 else t) s

/-- A byte that the host reads through a virtual function: all ones outside the tenant's windows (R361), free where the sector cannot be
read (DESIGN CHOICE, log entry 92). -/
def State.hostByte (s : State) (tenant pa : Nat) : Byte :=
  let sec := sectorOf pa
  if !s.inWindows tenant sec 128 then 0xFF
  else if s.refused sec || (decide (sec < hbmEnd) && s.badStored sec) then Config.hostByte s.tick pa
  else s.homeByte pa

/-- A read by the host through a virtual function: what it returns, and the bad sectors that it has met (R390, R391). -/
def State.hostRead (s : State) (tenant pa n : Nat) : State :=
  let met := (sectorsOf pa n).filter fun sec =>
    s.inWindows tenant sec 128 && decide (sec < hbmEnd) && !s.refused sec && s.badStored sec
  let t := met.foldl (fun t sec => t.tagFailure (t.sectorKeyId sec) sec) s
  { t with tenants := t.tenants.modify tenant fun x => { x with readData := (List.range n).map fun i => s.hostByte tenant (pa + i) } }

/-- HOST_ACCESS (R361): A host read or write through a virtual function is performed at the home slices or refused outside its
windows. A read has the length that it names, a write that of its bytes. -/
def execHostAccess (tenant pa len : Nat) (data : Option (List (BitVec 8))) (s : State) : Result :=
  .next <|
    if 16 ≤ tenant ∨ !(s.tenants.getD tenant Tenant.fresh).enabled then s
    else match data with
      | none => s.hostRead tenant pa len
      | some bs => if len ≠ bs.length then s else (s.hostWrite tenant pa bs).flushHeld

end Sys2Proof.Machine
end

