-- ==== Sys2Proof/Machine/Link.lean ====
section
/-!
DEFINITION. Links (20_link.md R392..R396): identity, ports, flits and link operations that reach this device; and the
collective engines (R397..R401).
-/
namespace Sys2Proof.Machine

/-! ### Identity and ports (R392..R394) -/

/-- Bring-up has ended well: the physical function accepts more than reads and power-off (R404) (DEDUCED, log entry 75). -/
def State.ready (s : State) : Bool := s.switor.boot == 0x10

/-- The device's link identity given, once per power-on; later writes are ignored (R392, R410). -/
def State.giveIdentity (s : State) (id : Nat) : State :=
  if s.links.identity = none then { s with links := { s.links with identity := some id } } else s

/-- LINK_ID (R392, R410): The host writes the device's 11-bit link identity once per power-on; later writes are ignored. -/
def execLinkId (id : BitVec 11) (s : State) : Result := .next (if s.ready then s.giveIdentity id.toNat else s)

/-- A port. -/
def State.portAt (s : State) (p : Nat) : Port := s.links.ports.getD p Port.fresh

/-- A port changed. -/
def State.updPort (s : State) (p : Nat) (f : Port → Port) : State :=
  { s with links := { s.links with ports := s.links.ports.modify p f } }

/-- The route table's entries that use a port become live (R394, R396) (DESIGN CHOICE, log entry 61). -/
def State.routesUp (s : State) (p : Nat) : State :=
  let add (t : Nat) : Option (Nat × List Nat) :=
    let now := ((s.links.routes.find? (·.1 == t)).map (·.2)).getD []
    let ports := ((Config.route t).take 4).filter fun q => q == p || now.contains q
    if ports.isEmpty then none else some (t, ports)
  { s with links := { s.links with routes := (List.range 2048).filterMap add } }

/-- Route entries that use a port removed (R394). -/
def State.routesDown (s : State) (p : Nat) : State :=
  { s with links := { s.links with
      routes := (s.links.routes.map fun r => (r.1, r.2.filter (· != p))).filter fun r => !r.2.isEmpty } }

/-- Strands of a port that are live. -/
def strandCount (x : BitVec 8) : Nat := (List.range 8).countP fun i => x.getLsbD i

/-- PORT_ENABLE (R394): The host enables a port and its strands start training. No port leaves off before the device has its
identity (R392). -/
def execPortEnable (p : Nat) (s : State) : Result :=
  .next <|
    if s.ready ∧ s.links.identity.isSome ∧ (s.portAt p).state = .off then
      s.updPort p fun q =>
        { q with state := .training, attempts := 0, conflict := false, gaveUp := false, strands := 0, sendSeq := 0, recvSeq := 0,
                 replay := [], sentAt := [], nakAt := [], answered := none }
    else s

/-- The strands of a port that records of flash retire (R34, R404, R412). -/
def State.barred (s : State) (p : Nat) : BitVec 8 :=
  s.flash.retired.foldl (fun m r =>
    if r.1.extractLsb' 0 8 = 8 ∧ (r.1.extractLsb' 8 16).toNat = p then m ||| BitVec.twoPow 8 (r.1.extractLsb' 32 8).toNat else m) 0

/-- PORT_TRAINED (R392, R394): An attempt at training ends with the strands of an 8-bit mask trained, retired ones apart: the port goes up, degraded, tries
again, or off after 3 attempts. Devices with the same identity keep training, and the host hears of it (DESIGN CHOICE,
log entry 66). -/
def execPortTrained (p strands : Nat) (conflict : Bool) (s : State) : Result :=
  .next <|
    let x := BitVec.ofNat 8 strands &&& ~~~(s.barred p)
    if (s.portAt p).state ≠ .training then s
    else if conflict then s.updPort p fun q => { q with conflict := true }
    else if strandCount x = 8 then
      ((s.updPort p fun q => { q with state := .up, strands := x, conflict := false }).routesUp p).sendWaiting
    else if 4 ≤ strandCount x then
      ((s.updPort p fun q => { q with state := .degraded, strands := x, conflict := false }).routesUp p).sendWaiting
    else s.updPort p fun q =>
      { q with attempts := q.attempts + 1, state := if 2 ≤ q.attempts then .off else .training, gaveUp := decide (2 ≤ q.attempts) }

/-- PORT_RETRAIN (R394): A host retrain restores a degraded port (DEDUCED, log entry 65). -/
def execPortRetrain (p : Nat) (ok : Bool) (s : State) : Result :=
  .next (if s.ready ∧ ok ∧ (s.portAt p).state = .degraded then s.updPort p fun q => { q with state := .up, strands := 0xFF } else s)

/-- The device that a flit is for. -/
def flitFor : Flit → Nat
  | .op x => x.target
  | .done source _ _ => source

/-- An operation of this device ends unperformed: the lane or the copy that it was sent for fails, wherever its group stands
(R221, R305, R396; log entry 127). -/
def State.failSent (s : State) (n : Nat) (c : Cause) : State :=
  let t := { s with links := { s.links with sent := s.links.sent.filter (·.number != n) } }
  match (s.links.sent.find? (·.number == n)).bind fun x => x.by_.bind fun r => x.lost.map fun y => (r, y) with
  | none => t
  | some (r, info, clk0) =>
    match t.load r with
    | none => t
    | some u => State.parkAny (if u.g.onCore then u.raiseAfter { info with cause := c } clk0 else u.absentFault { info with cause := c })

/-- A flit with no live route (R396): an operation fails with ADDR_FAULT, of which a device that only forwards it answers its source;
an answer waits for a route (DESIGN CHOICE, log entry 127). -/
def State.loseFlit (s : State) (target : Nat) (x : Flit) : State :=
  match x with
  | .op y =>
    if s.links.identity = some y.source then s.failSent y.number .addrFault
    else s.sendFlit y.source (.done y.source y.number .addrFault)
  | .done _ _ _ => s.sendFlit target x

/-- The flits that wait for a device with no live route (R396). -/
def State.loseWaiting (s : State) : State :=
  let dead (x : Nat × Flit) : Bool := (s.routePort x.1).isNone
  (s.links.waiting.filter dead).foldl (fun t x => t.loseFlit x.1 x.2)
    { s with links := { s.links with waiting := s.links.waiting.filter fun x => !dead x } }

/-- A port drains (R394): it accepts no new flit; its unacknowledged flits are replayed on another route, and go the way of those with no
live route where there is none (R396). -/
def State.drainPort (s : State) (p : Nat) : State :=
  let old := (s.portAt p).replay
  let t := s.updPort p fun q => { q with state := .draining, replay := [] }
  State.sendWaiting (State.loseWaiting { t with links := { t.links with
    waiting := old.map (fun x => (flitFor x.2, x.2)) ++ t.links.waiting } })

/-- PORT_DISABLE (R394): A port starts draining on host disable. -/
def execPortDisable (p : Nat) (s : State) : Result :=
  .next (if s.ready ∧ (s.portAt p).live then s.drainPort p else s)

/-- PORT_DRAINED (R394): A draining port's replay buffer empties and it goes off; route entries that use it are removed. -/
def execPortDrained (p : Nat) (s : State) : Result :=
  .next <|
    if (s.portAt p).state = .draining ∧ (s.portAt p).replay.isEmpty then
      (s.updPort p fun q => { q with state := .off, strands := 0 }).routesDown p
    else s

/-- The replays of a strand exceed 1 in 10^6 of the flits of the last second (R393) (DESIGN CHOICE, log entry 62). -/
def Port.strandBad (q : Port) (now strand : Nat) : Bool :=
  let recent (t : Nat) : Bool := decide (now < t + 1000000000)
  decide (q.sentAt.countP recent < 1000000 * q.nakAt.countP fun x => x.1 == strand && recent x.2)

/-- STRAND_RETIRE (R393, R394, R412): A strand whose replays exceed 1 in 10^6 flits over 1 s is retired; with fewer than 4 left the port
drains. -/
def execStrandRetire (p strand : Nat) (s : State) : Result :=
  .next <|
    let q := s.portAt p
    if q.live && decide (strand < 8) && q.strands.getLsbD strand && q.strandBad s.time.toNat strand then
      let x := q.strands &&& ~~~(BitVec.twoPow 8 strand)
      let t := s.updPort p fun q => { q with strands := x, state := .degraded }
      let u := if strandCount x < 4 then t.drainPort p else t
      { u with flash := u.flash.retire (BitVec.ofNat 64 (8 + 2 ^ 8 * p + 2 ^ 32 * strand)) u.time.toNat,
               switor := { u.switor with cause := u.switor.cause ||| 1 } }
    else s

/-! ### Link operations that reach this device (R395, R396) -/

/-- Bytes that a link operation accesses. -/
def opLength : RemoteKind → Nat
  | .load n => n
  | .store bs => bs.length
  | .atom _ _ n _ _ => n
  | .mbArm _ => 16
  | .mbPost _ => 16
  | .mbBytes _ => 16
  | .mbLand _ => 16

/-- The bit of a grant's access that a kind needs (R416). -/
def opAccess : RemoteKind → Nat
  | .load _ => 0
  | .store _ => 1
  | .atom _ _ _ _ _ => 1
  | _ => 2

/-- An entry of the link access table admits an operation (R395, R416). -/
def Grant.admits (g : Grant) (x : RemoteOp) : Bool :=
  g.source == x.source && g.key == x.key && g.access.getLsbD (opAccess x.kind) &&
  decide (g.base ≤ x.pa) && decide (x.pa + opLength x.kind ≤ g.base + g.size * 2 ^ 21)

/-- What an operation leaves at the home of its address, from the bytes that were there. -/
def opResult (k : RemoteKind) (old : List Byte) : Option (List Byte) :=
  match k with
  | .load _ => none
  | .store bs => some bs
  | .atom op signed n v cmp =>
    some (leBytes n (atomNew op signed (8 * n) (leNat old) (v.toNat % 2 ^ (8 * n)) (cmp.toNat % 2 ^ (8 * n))))
  | .mbArm n => some (mbArmed n.toNat old)
  | .mbPost n => some (mbArrived n.toNat old)
  | .mbBytes n => some (mbRaised n.toNat old)
  | .mbLand n => some (mbLanded n.toNat old)

/-- A kind that reads the bytes it acts on. -/
def opReads : RemoteKind → Bool
  | .store _ => false
  | _ => true

/-- The clock that a link operation carries exchanged with the line's timestamp (R242). -/
def State.opClock (s : State) (x : RemoteOp) : State :=
  if x.order = 0 then s
  else { s with scStamp := (x.pa / 512, stampAfter x.clock (s.stampOf x.pa) (x.order == 2)) :: s.scStamp.filter (·.1 != x.pa / 512) }

/-- The bytes that an operation answers with, from those that it found (R395). -/
def opAnswer (k : RemoteKind) (old : List Byte) : LinkAnswer := .performed (if opReads k then old else [])

/-- The answer to an operation at its home (R390, R395): where no entry of the link access table admits it, where its address is not there,
and where its sector cannot be read, it is not performed. -/
def State.performHome (s : State) (x : RemoteOp) : State × LinkAnswer :=
  let n := opLength x.kind
  if !(s.links.grants.any fun g => g.admits x) then (s, .prot)
  else if hbmEnd < x.pa + n then (s, .addrFault)
  else match s.homeFails x.pa n x.key (opReads x.kind) with
    | some c => (s.afterFail c x.key x.pa, if c = .eccUncorr then .eccUncorr else .addrFault)
    | none =>
      let old := s.homeRead x.pa n
      match opResult x.kind old with
      | none => (s.opClock x, opAnswer x.kind old)
      | some bs => (((s.homeWrite noCore x.key x.pa bs).opClock x).noteStore 256 0 x.pa bs, opAnswer x.kind old)

/-- A link operation at its target (R395, R396): judged once, and its answer given again when it comes again; none while its granule is
being copied (DEDUCED, log entry 63). -/
def State.performRemote (s : State) (x : RemoteOp) : Option (State × LinkAnswer) :=
  match s.links.performed.find? fun y => y.1 == (x.source, x.number) with
  | some y => some (s, y.2)
  | none =>
    if s.copyingIn x.pa (opLength x.kind) then none
    else
      let r := s.performHome x
      some ({ r.1 with links := { r.1.links with performed := ((x.source, x.number), r.2) :: r.1.links.performed } }, r.2)

/-- An answer at the source of its operation (R240, R395): one that is performed ends the wait of a release at sys, and what the firmware
holds back goes on; any other fails its lane. -/
def State.takeAnswer (s : State) (n : Nat) (a : LinkAnswer) : State :=
  match a with
  | .performed _ => State.flushHeld { s with links := { s.links with sent := s.links.sent.filter (·.number != n) } }
  | .prot => (s.failSent n .prot).flushHeld
  | .addrFault => (s.failSent n .addrFault).flushHeld
  | .eccUncorr => (s.failSent n .eccUncorr).flushHeld

/-- What a flit carries acted on (R395, R396): one for another device is forwarded; an operation is performed and answered to its
source. None while an operation waits at a granule that is being copied. -/
def State.takeFlit (s : State) (x : Flit) : Option State :=
  if s.links.identity ≠ some (flitFor x) then some (s.sendFlit (flitFor x) x).loseWaiting
  else match x with
    | .op x => (s.performRemote x).map fun t => t.1.sendFlit x.source (.done x.source x.number t.2)
    | .done _ n a => some (s.takeAnswer n a)

/-- REMOTE_OPERATION (R395): A link operation is checked against the link access table and performed at the target. -/
def execRemoteOperation (x : RemoteOp) (s : State) : Result := .next ((s.takeFlit (.op x)).getD s)

/-- Acknowledged flits leave a port's replay buffer: those before the sequence number that the peer expects next (R393). -/
def Port.ackTo (q : Port) (n : BitVec 16) : Port :=
  if n = q.sendSeq then { q with replay := [] }
  else if q.replay.any (·.1 == n) then { q with replay := q.replay.dropWhile (·.1 != n) }
  else q

/-- FLIT_RECEIVE (R393): A received flit is checked, acknowledged or negatively acknowledged, and delivered in order: one that fails its
CRC, and one beyond the next sequence number, has the next one asked for again; an earlier one is a duplicate. Its own acknowledgement
names the sequence number that the peer expects next. -/
def execFlitReceive (p : Nat) (seq : BitVec 16) (crcOk : Bool) (body : FlitBody) (s : State) : Result :=
  .next <|
    let q := s.portAt p
    if !(q.live || q.state == .draining) then s
    else if !crcOk then s.updPort p fun q => { q with answered := some (false, q.recvSeq) }
    else
      let t := State.sendWaiting (match body.ack with | some n => s.updPort p (·.ackTo n) | none => s)
      if seq ≠ q.recvSeq then
        t.updPort p fun q => { q with answered := some (decide ((q.recvSeq - seq).toNat < 2 ^ 15), q.recvSeq) }
      else
        let next (u : State) : State := u.updPort p fun q => { q with recvSeq := q.recvSeq + 1, answered := some (true, q.recvSeq + 1) }
        match body.cargo with
        | none => next t
        | some x => ((t.takeFlit x).map next).getD t

/-- FLIT_NAK (R393): A negative acknowledgement makes the sender replay that flit and every later one; those before it have been
received, and leave the replay buffer. The replay counts against the strand that it names. -/
def execFlitNak (p : Nat) (n : Nak) (s : State) : Result :=
  .next <|
    if (s.portAt p).replay.any (·.1 == n.seq) then
      State.sendWaiting (s.updPort p fun q => { q.ackTo n.seq with nakAt := q.nakAt ++ [(n.strand, s.time.toNat)] })
    else s

/-! ### The collective record (R398) -/

/-- The operation of a record: its code. -/
def collOp (b : List Byte) : Nat := field b 0 1 % 16
/-- The reduction of a record. -/
def collRed (b : List Byte) : Nat := field b 0 1 / 16
/-- Members. -/
def collM (b : List Byte) : Nat := field b 2 1
/-- The own rank. -/
def collRank (b : List Byte) : Nat := field b 3 1
/-- Elements per rank. -/
def collN (b : List Byte) : Nat := field b 4 4
/-- k of a top-k merge, or the rebuilt rank. -/
def collK (b : List Byte) : Nat := field b 52 4

/-- The record is within R398. -/
def collSound (b : List Byte) : Bool :=
  let op := collOp b
  let m := collM b
  decide (op ≤ 5) && decide (collRed b ≤ 3) && (op == 0 || op == 2 || collRed b == 0) &&
  decide (field b 1 1 ≤ 2) && (decide (op < 3) || field b 1 1 == 0) &&
  decide (1 ≤ m) && decide (m ≤ 64) && (decide (op < 4) || m == 8) && decide (collRank b < m) &&
  decide (1 ≤ collN b) && decide (collN b ≤ 2 ^ 26) && field b 8 8 % 64 == 0 && field b 16 8 % 4 == 0 && field b 24 8 % 4 == 0 &&
  decide (field b 48 1 ≤ 2) && (field b 48 1 != 1 || (field b 32 8 % 8 == 0 && field b 40 8 != 0)) &&
  (field b 48 1 != 2 || field b 32 8 % 16 == 0) && zeros b 49 3 &&
  (op != 3 || (decide (1 ≤ collK b) && decide (collK b ≤ m * collN b))) && (op != 5 || decide (collK b < 8))

/-- Elements of each rank's source (R399). -/
def collSource (b : List Byte) : Nat := if collOp b = 0 then collM b * collN b else collN b

/-- The ranks that bring a source: all, but for the rebuilt one. -/
def collRanks (b : List Byte) : List Nat := (List.range (collM b)).filter fun q => collOp b != 5 || q != collK b

/-! ### The results (R399) -/

/-- One reduction step on an element type. -/
def redStep (red ty : Nat) (y x : Word) : Word :=
  match red with
  | 0 => if ty = 2 then fAdd .rne y x else y + x
  | 1 => if ty = 2 then fMin y x else if ty = 1 then (if y.sle x then y else x) else (if y ≤ x then y else x)
  | 2 => if ty = 2 then fMax y x else if ty = 1 then (if y.sle x then x else y) else (if y ≤ x then x else y)
  | _ => y ^^^ x

/-- The fold of a column in increasing rank, a NaN as the canonical one in f32 (R399). -/
def foldRanks (red ty : Nat) : List Word → Word
  | [] => 0
  | x :: rest => let r := rest.foldl (redStep red ty) x; if ty = 2 then fCanon r else r

/-- The XOR of words. -/
def xorAll (l : List Word) : Word := l.foldl (· ^^^ ·) 0

/-- The data of a rank. -/
def ofRank (xs : List (Nat × List Word)) (q : Nat) : List Word := ((xs.find? (·.1 == q)).map (·.2)).getD []

/-- Element i of every rank of a list. -/
def column (xs : List (Nat × List Word)) (ranks : List Nat) (i : Nat) : List Word := ranks.map fun q => (ofRank xs q).getD i 0

/-- The pairs of a top-k merge (R399): keys descending, equal keys by their global index. -/
def topPairs (b : List Byte) (xs : List (Nat × List Word)) : List Word :=
  let n := collN b
  let all := (List.range (collM b)).flatMap fun q => (List.range n).map fun i => ((ofRank xs q).getD i 0, q * n + i)
  let ranked := sortBy (fun (x y : Word × Nat) => decide (y.1.toNat < x.1.toNat) || (x.1 == y.1 && decide (x.2 ≤ y.2))) all
  (List.range (collK b)).flatMap fun t =>
    match ranked[t]? with
    | some x => [x.1, BitVec.ofNat 32 x.2]
    | none => [0xFFFFFFFF#32, 0xFFFFFFFF#32]

/-- The words of a member's destination (R399). -/
def collResult (b : List Byte) (xs : List (Nat × List Word)) : List Word :=
  let n := collN b
  let r := collRank b
  let all := List.range (collM b)
  let fold (i : Nat) : Word := foldRanks (collRed b) (field b 1 1) (column xs all i)
  match collOp b with
  | 0 => (List.range n).map fun i => fold (r * n + i)
  | 1 => all.flatMap fun q => (List.range n).map fun i => (ofRank xs q).getD i 0
  | 2 => (List.range n).map fold
  | 3 => topPairs b xs
  | 4 => (List.range n).map fun i => xorAll (column xs (all.filter (· != r)) i)
  | _ => if r = collK b then (List.range n).map fun i => xorAll (column xs (collRanks b) i) else []

/-! ### The collective queue (R397, R400, R401) -/

/-- The head of the collective queue replaced. -/
def State.setColl (s : State) (i : CollItem) : State := { s with w := { s.w with collQ := i :: s.w.collQ.tail } }

/-- The head of the collective queue performed. -/
def State.popColl (s : State) : State := { s with w := { s.w with collQ := s.w.collQ.tail }.passFences }

/-- The entry fails (R401): nothing more is written, no completion is signalled, and its warp traps with the byte offset of the first
failing element. -/
def State.collFails (s : State) (i : CollItem) (c : Cause) (off : Nat) (va : Option Nat) : State :=
  s.popColl.engineTrap (s.lateTrap c i.pc off va) i.clk0

/-- The words of a byte string. -/
def wordsOf (bs : List Byte) : List Word := (List.range (bs.length / 4)).map fun i => BitVec.ofNat 32 (field bs (4 * i) 4)

/-- The link identities of a record's members, from its member table. -/
def memberIds (bs : List Byte) : List Nat := (List.range (bs.length / 2)).map fun i => field bs (2 * i) 2 % 2048

/-- The entry goes on while its peers can be reached (R396, R401): its member table is read at the home slices, and `f` goes on. -/
def State.collReach (s : State) (i : CollItem) (b : List Byte) (f : State → Option State) : Option State :=
  match s.engineRead s.g.core s.g.ref.ctx [] (pieces (field b 8 8) (2 * collM b)) with
  | .wait => none
  | .fail c va s1 => some (s1.collFails i c 0 (some va))
  | .ok ids _ s1 =>
    let peers := (List.range (collM b)).filter fun q => q != collRank b && !(i.peers.any (·.1 == q))
    if peers.any fun q => (s1.routePort ((memberIds ids).getD q 0)).isNone then some (s1.collFails i .addrFault 0 none)
    else f s1

/-- The entry starts with its record sound (R397, R398, R401): its peers can be reached, and its own source is read at the home
slices. -/
def State.collStart (s : State) (i : CollItem) (b : List Byte) : Option State :=
  s.collReach i b fun s1 =>
    let src := field b 16 8
    if !(collRanks b).contains (collRank b) then some (s1.setColl { i with record := some b })
    else
      match s1.engineRead s1.g.core s1.g.ref.ctx [] (pieces src (4 * collSource b)) with
      | .wait => none
      | .fail c va s2 => some (s2.collFails i c (va - src) (some va))
      | .ok bs _ s2 => some (s2.setColl { i with record := some b, peers := [(collRank b, wordsOf bs)] })

/-- The records of two members agree (R398): in every field but the own rank, the source, the destination and the completion. -/
def collAgrees (a b : List Byte) : Bool :=
  (List.range 64).all fun i => i == 3 || (decide (16 ≤ i) && decide (i ≤ 48)) || a.getD i 0 == b.getD i 0

/-- COLL_ENTRY_PERFORM (R397): A collective engine starts a coll entry once earlier queue entries are performed; one that waits for its
peers fails when a peer can no longer be reached (R401). -/
def execCollEntryPerform (r : WRef) : State → Result :=
  onWarpAny r fun s =>
    let s := { s with w := s.w.passFences }
    match s.w.collQ with
    | [] => some s
    | i :: _ =>
      if i.fence.isSome || s.w.setWaits i.set then some s
      else match i.record with
      | some b => if i.written then some s else s.collReach i b some
      | none => match s.readGranules s.g.core s.g.ref.ctx i.addr 2 with
        | .wait => none
        | .fail c s1 => some (s1.collFails i c 0 (some i.addr))
        | .ok b s1 => if collSound b then s1.collStart i b else some (s1.collFails i .badRecord 0 none)

/-- COLL_PEER_DATA (R401): Peer data of a collective arrive and are kept for the fold; a peer whose record disagrees
ends the entry (DESIGN CHOICE, log entry 37). -/
def execCollPeerData (r : WRef) (rank : Nat) (record : List (BitVec 8)) (data : List (BitVec 32)) : State → Result :=
  onWarpAny r fun s =>
    match s.w.collQ with
    | [] => none
    | i :: _ =>
      match i.record with
      | none => none
      | some b =>
        if rank = collRank b ∨ collM b ≤ rank ∨ i.peers.any (·.1 == rank) then none
        else if !collAgrees b record then some (s.collFails i .badRecord 0 none)
        else if !(collRanks b).contains rank then none
        else some (s.setColl { i with peers := i.peers ++ [(rank, data.take (collSource b))] })

/-- The destination written page by page: what was written before a failure stays (R401). -/
def State.collWrite (s : State) (core ctx : Nat) : List (Nat × Nat) → List Byte → EGot
  | [], _ => .ok [] [] s
  | (va, n) :: rest, bs =>
    match s.engineWrite core ctx [] va (bs.take n) with
    | .ok _ _ s1 => s1.collWrite core ctx rest (bs.drop n)
    | other => other

/-- The completion of an entry whose destination is written (R400): a release at sys, then the counter or the barrier
(DEDUCED, log entry 38). -/
def State.collSignal (s : State) (i : CollItem) (b : List Byte) : Option State :=
  let at_ := field b 32 8
  (s.release 2).bind fun s1 =>
    let got : EGot :=
      if at_ = 0 then .ok [] [] s1
      else match field b 48 1 with
        | 1 => s1.engineAdd s1.g.core s1.g.ref.ctx at_ (field b 40 8)
        | 2 => s1.engineArrive s1.g.core s1.g.ref.ctx at_
        | _ => .ok [] [] s1
    match got with
    | .wait => none
    | .fail c va s2 => some (s2.collFails i c 0 (some va))
    | .ok _ _ s2 => some s2.popColl

/-- The member's destination is written (R399, R400). -/
def State.collStore (s : State) (i : CollItem) (b : List Byte) : Option State :=
  let dst := field b 24 8
  let bs := (collResult b i.peers).flatMap fun w => leBytes 4 w.toNat
  match s.collWrite s.g.core s.g.ref.ctx (pieces dst bs.length) bs with
  | .wait => none
  | .fail c va s1 => some (s1.collFails i c (va - dst) (some va))
  | .ok _ _ s1 => some ((s1.noteSent s.links.nextOp (s1.lateTrap .addrFault i.pc 0 (some dst)) i.clk0).setColl { i with written := true })

/-- COLL_COMPLETE (R400): With every rank's data here, the member's destination is written; once that is performed at sys, its
completion is signalled. -/
def execCollComplete (r : WRef) : State → Result :=
  onWarpAny r fun s =>
    match s.w.collQ with
    | [] => none
    | i :: _ =>
      match i.record with
      | none => none
      | some b =>
        if !((collRanks b).all fun q => i.peers.any (·.1 == q)) then none
        else if i.written then s.collSignal i b
        else s.collStore i b

end Sys2Proof.Machine
end

