-- ==== Sys2Proof/Machine/Scalar.lean ====
section
/-!
DEFINITION. Scalar arithmetic, compares, conditions, moves and bitfields: majors 0x01 to 0x04
(05_scalar.md R121..R128).
-/
namespace Sys2Proof.Machine

/-- SADD (R123): Scalar 32-bit add of two registers. -/
def execSadd (d : BitVec 7) (a : BitVec 7) (b : BitVec 7) : State → Result :=
  sBin (· + ·) d a b

/-- SADD_I (R123): Scalar add of a sign-extended immediate or literal. -/
def execSaddI (d : BitVec 7) (a : BitVec 7) (i : BitVec 7) : State → Result :=
  sBinI (· + ·) d a i

/-- SSUB (R123): Scalar 32-bit subtract of two registers. -/
def execSsub (d : BitVec 7) (a : BitVec 7) (b : BitVec 7) : State → Result :=
  sBin (· - ·) d a b

/-- SSUB_I (R123): Scalar subtract of an immediate. -/
def execSsubI (d : BitVec 7) (a : BitVec 7) (i : BitVec 7) : State → Result :=
  sBinI (· - ·) d a i

/-- SMUL (R123): Scalar low 32-bit product of two registers. -/
def execSmul (d : BitVec 7) (a : BitVec 7) (b : BitVec 7) : State → Result :=
  sBin (· * ·) d a b

/-- SMUL_I (R123): Scalar low product with an immediate. -/
def execSmulI (d : BitVec 7) (a : BitVec 7) (i : BitVec 7) : State → Result :=
  sBinI (· * ·) d a i

/-- SMULHI_S32 (R123): Scalar high word of the signed 64-bit product. -/
def execSmulhiS32 (d : BitVec 7) (a : BitVec 7) (b : BitVec 7) : State → Result :=
  sBin mulHiS d a b

/-- SMULHI_S32_I (R123): Scalar signed high product with an immediate. -/
def execSmulhiS32I (d : BitVec 7) (a : BitVec 7) (i : BitVec 7) : State → Result :=
  sBinI mulHiS d a i

/-- SMULHI_U32 (R123): Scalar high word of the unsigned 64-bit product. -/
def execSmulhiU32 (d : BitVec 7) (a : BitVec 7) (b : BitVec 7) : State → Result :=
  sBin mulHiU d a b

/-- SMULHI_U32_I (R123): Scalar unsigned high product with an immediate. -/
def execSmulhiU32I (d : BitVec 7) (a : BitVec 7) (i : BitVec 7) : State → Result :=
  sBinI mulHiU d a i

/-- SAND (R123): Scalar bitwise AND. -/
def execSand (d : BitVec 7) (a : BitVec 7) (b : BitVec 7) : State → Result :=
  sBin (· &&& ·) d a b

/-- SAND_I (R123): Scalar AND with an immediate. -/
def execSandI (d : BitVec 7) (a : BitVec 7) (i : BitVec 7) : State → Result :=
  sBinI (· &&& ·) d a i

/-- SOR (R123): Scalar bitwise OR. -/
def execSor (d : BitVec 7) (a : BitVec 7) (b : BitVec 7) : State → Result :=
  sBin (· ||| ·) d a b

/-- SOR_I (R123): Scalar OR with an immediate. -/
def execSorI (d : BitVec 7) (a : BitVec 7) (i : BitVec 7) : State → Result :=
  sBinI (· ||| ·) d a i

/-- SXOR (R123): Scalar bitwise XOR. -/
def execSxor (d : BitVec 7) (a : BitVec 7) (b : BitVec 7) : State → Result :=
  sBin (· ^^^ ·) d a b

/-- SXOR_I (R123): Scalar XOR with an immediate. -/
def execSxorI (d : BitVec 7) (a : BitVec 7) (i : BitVec 7) : State → Result :=
  sBinI (· ^^^ ·) d a i

/-- SANDN (R123): Scalar a AND NOT b. -/
def execSandn (d : BitVec 7) (a : BitVec 7) (b : BitVec 7) : State → Result :=
  sBin andNot d a b

/-- SANDN_I (R123): Scalar AND NOT an immediate. -/
def execSandnI (d : BitVec 7) (a : BitVec 7) (i : BitVec 7) : State → Result :=
  sBinI andNot d a i

/-- SSHL (R123): Scalar left shift by an unsigned count, 0 for counts of 32 or more. -/
def execSshl (d : BitVec 7) (a : BitVec 7) (b : BitVec 7) : State → Result :=
  sBin shl d a b

/-- SSHL_I (R123): Scalar left shift by an immediate count. -/
def execSshlI (d : BitVec 7) (a : BitVec 7) (i : BitVec 7) : State → Result :=
  sBinI shl d a i

/-- SSHR (R123): Scalar logical right shift. -/
def execSshr (d : BitVec 7) (a : BitVec 7) (b : BitVec 7) : State → Result :=
  sBin shr d a b

/-- SSHR_I (R123): Scalar logical right shift by an immediate count. -/
def execSshrI (d : BitVec 7) (a : BitVec 7) (i : BitVec 7) : State → Result :=
  sBinI shr d a i

/-- SSRA (R123): Scalar arithmetic right shift. -/
def execSsra (d : BitVec 7) (a : BitVec 7) (b : BitVec 7) : State → Result :=
  sBin sra d a b

/-- SSRA_I (R123): Scalar arithmetic right shift by an immediate count. -/
def execSsraI (d : BitVec 7) (a : BitVec 7) (i : BitVec 7) : State → Result :=
  sBinI sra d a i

/-- SMIN_S32 (R123): Scalar signed minimum. -/
def execSminS32 (d : BitVec 7) (a : BitVec 7) (b : BitVec 7) : State → Result :=
  sBin minS d a b

/-- SMIN_S32_I (R123): Scalar signed minimum with an immediate. -/
def execSminS32I (d : BitVec 7) (a : BitVec 7) (i : BitVec 7) : State → Result :=
  sBinI minS d a i

/-- SMAX_S32 (R123): Scalar signed maximum. -/
def execSmaxS32 (d : BitVec 7) (a : BitVec 7) (b : BitVec 7) : State → Result :=
  sBin maxS d a b

/-- SMAX_S32_I (R123): Scalar signed maximum with an immediate. -/
def execSmaxS32I (d : BitVec 7) (a : BitVec 7) (i : BitVec 7) : State → Result :=
  sBinI maxS d a i

/-- SMIN_U32 (R123): Scalar unsigned minimum. -/
def execSminU32 (d : BitVec 7) (a : BitVec 7) (b : BitVec 7) : State → Result :=
  sBin minU d a b

/-- SMIN_U32_I (R123): Scalar unsigned minimum with an immediate. -/
def execSminU32I (d : BitVec 7) (a : BitVec 7) (i : BitVec 7) : State → Result :=
  sBinI minU d a i

/-- SMAX_U32 (R123): Scalar unsigned maximum. -/
def execSmaxU32 (d : BitVec 7) (a : BitVec 7) (b : BitVec 7) : State → Result :=
  sBin maxU d a b

/-- SMAX_U32_I (R123): Scalar unsigned maximum with an immediate. -/
def execSmaxU32I (d : BitVec 7) (a : BitVec 7) (i : BitVec 7) : State → Result :=
  sBinI maxU d a i

/-- SADD64 (R124): 64-bit add of even–odd scalar pairs. -/
def execSadd64 (d : BitVec 7) (a : BitVec 7) (b : BitVec 7) : State → Result :=
  sBin64 (· + ·) d a b

/-- SSUB64 (R124): 64-bit subtract of even–odd scalar pairs. -/
def execSsub64 (d : BitVec 7) (a : BitVec 7) (b : BitVec 7) : State → Result :=
  sBin64 (· - ·) d a b

/-- SCMP (R125): Compares two scalar registers under the condition code into a condition bit. -/
def execScmp (c : BitVec 4) (d : BitVec 3) (a : BitVec 7) (b : BitVec 7) : State → Result :=
  slotDo { wf := decide (c.toNat ≤ 9), reads := [rs a, rs b], writes := [.c d.toNat] } fun s =>
    .done (s.mapRegs (·.cset d.toNat (scmpCond c.toNat (s.src.sget a) (s.src.sget b))))

/-- SCMP_I (R125): Compares a scalar register with an immediate into a condition bit. -/
def execScmpI (c : BitVec 4) (d : BitVec 3) (a : BitVec 7) (i : BitVec 7) : State → Result :=
  slotDo { wf := decide (c.toNat ≤ 9), imm := some i, reads := [rs a], writes := [.c d.toNat] } fun s =>
    .done (s.mapRegs (·.cset d.toNat (scmpCond c.toNat (s.src.sget a) (immVal i s.iss.lits))))

/-- CAND (R126): Condition bit AND. -/
def execCand (d : BitVec 3) (a : BitVec 3) (b : BitVec 3) : State → Result :=
  cBin ((· && ·)) d a b

/-- COR (R126): Condition bit OR. -/
def execCor (d : BitVec 3) (a : BitVec 3) (b : BitVec 3) : State → Result :=
  cBin ((· || ·)) d a b

/-- CXOR (R126): Condition bit XOR. -/
def execCxor (d : BitVec 3) (a : BitVec 3) (b : BitVec 3) : State → Result :=
  cBin ((· != ·)) d a b

/-- CANDN (R126): Condition bit AND NOT. -/
def execCandn (d : BitVec 3) (a : BitVec 3) (b : BitVec 3) : State → Result :=
  cBin (fun x y => x && !y) d a b

/-- SMOV (R127): Copies a scalar register. -/
def execSmov (d : BitVec 7) (a : BitVec 7) : State → Result :=
  sUn id d a

/-- SPOPC (R127): Counts set bits of a scalar. -/
def execSpopc (d : BitVec 7) (a : BitVec 7) : State → Result :=
  sUn popCount d a

/-- SCLZ (R127): Counts leading zeros of a scalar. -/
def execSclz (d : BitVec 7) (a : BitVec 7) : State → Result :=
  sUn clz d a

/-- SCTZ (R127): Counts trailing zeros of a scalar. -/
def execSctz (d : BitVec 7) (a : BitVec 7) : State → Result :=
  sUn ctz d a

/-- SBREV (R127): Reverses the bits of a scalar. -/
def execSbrev (d : BitVec 7) (a : BitVec 7) : State → Result :=
  sUn bitRev d a

/-- SLI (R127): Loads a sign-extended immediate or literal into a scalar register. -/
def execSli (d : BitVec 7) (i : BitVec 7) : State → Result :=
  slotDo { imm := some i, writes := [rs d] } fun s => .done (s.writeS d (immVal i s.iss.lits))

/-- SBFX_U32 (R128): Extracts a zero-extended bit field described by sb. -/
def execSbfxU32 (d : BitVec 7) (a : BitVec 7) (b : BitVec 7) : State → Result :=
  sBin bfxU d a b

/-- SBFX_S32 (R128): Extracts a sign-extended bit field described by sb. -/
def execSbfxS32 (d : BitVec 7) (a : BitVec 7) (b : BitVec 7) : State → Result :=
  sBin bfxS d a b

/-- SBFI (R128): Inserts a bit field of sa into sd. -/
def execSbfi (d : BitVec 7) (a : BitVec 7) (b : BitVec 7) : State → Result :=
  slotDo { reads := [rs a, rs b, rs d], writes := [rs d] } fun s =>
    .done (s.writeS d (bfi (s.src.sget a) (s.src.sget b) (s.src.sget d)))

end Sys2Proof.Machine
end

