-- ==== Sys2Proof/Machine/Shake.lean ====
section
/-!
DEFINITION. SHAKE256, the hash of firmware images and measurements (21_firmware.md R405, R406), as its public standard defines it
(PRESUMED, log entry 118).
-/
namespace Sys2Proof.Machine

/-- The round constants of the permutation, the first round first. -/
def keccakConstants : List DWord :=
  [0x0000000000000001, 0x0000000000008082, 0x800000000000808A, 0x8000000080008000, 0x000000000000808B, 0x0000000080000001,
   0x8000000080008081, 0x8000000000008009, 0x000000000000008A, 0x0000000000000088, 0x0000000080008009, 0x000000008000000A] ++
  [0x000000008000808B, 0x800000000000008B, 0x8000000000008089, 0x8000000000008003, 0x8000000000008002, 0x8000000000000080,
   0x000000000000800A, 0x800000008000000A, 0x8000000080008081, 0x8000000000008080, 0x0000000080000001, 0x8000000080008008]

/-- How far each of the 25 words is rotated; the word of column x and row y is number x + 5y. -/
def keccakTurns : List Nat :=
  [0, 1, 62, 28, 27, 36, 44, 6, 55, 20, 3, 10, 43, 25, 39, 41, 45, 15, 21, 8, 18, 2, 61, 56, 14]

/-- One round on the 25 words: the column parities, the rotation and exchange of words, the rows' combination, the constant. -/
def keccakRound (a : List DWord) (rc : DWord) : List DWord :=
  let par := (List.range 5).map fun x => (List.range 5).foldl (fun p y => p ^^^ a.getD (x + 5 * y) 0) 0
  let mix := (List.range 5).map fun x => par.getD ((x + 4) % 5) 0 ^^^ (par.getD ((x + 1) % 5) 0).rotateLeft 1
  let b := (List.range 25).map fun j =>
    let i := (j % 5 + 3 * (j / 5)) % 5 + 5 * (j % 5)
    (a.getD i 0 ^^^ mix.getD (i % 5) 0).rotateLeft (keccakTurns.getD i 0)
  (List.range 25).map fun j =>
    let row (x : Nat) : DWord := b.getD (x % 5 + 5 * (j / 5)) 0
    row j ^^^ (~~~(row (j + 1)) &&& row (j + 2)) ^^^ (if j = 0 then rc else 0)

/-- The permutation of 24 rounds. -/
def keccak (a : List DWord) : List DWord := keccakConstants.foldl keccakRound a

/-- A message padded to blocks of 136 bytes. -/
def shakePad (m : List Byte) : List Byte :=
  let gap := 135 - m.length % 136
  if gap = 0 then m ++ [0x9F] else m ++ [0x1F] ++ List.replicate (gap - 1) 0 ++ [0x80]

/-- The first 64 bytes of SHAKE256 of a message, byte 0 lowest (R405). -/
def shake256 (m : List Byte) : Nat :=
  let p := shakePad m
  let sum := (List.range (p.length / 136)).foldl (fun a k =>
    keccak ((List.range 25).map fun i => a.getD i 0 ^^^ (if i < 17 then BitVec.ofNat 64 (field p (136 * k + 8 * i) 8) else 0)))
    (List.replicate 25 0)
  ((List.range 8).map fun i => (sum.getD i 0).toNat * 2 ^ (64 * i)).sum

end Sys2Proof.Machine
end

