-- ==== Sys2Proof/Machine/Switor.lean ====
section
/-!
DEFINITION. The Switor complex (21_firmware.md R402..R416): bring-up, attestation, power, management registers, diagnostics,
tenants, keys and link grants.
-/
namespace Sys2Proof.Machine

/-! ### Bring-up (R404..R406) -/

/-- An image's security version (R405). -/
def imageVersion (x : BootImage) : Nat := field x.header 16 4

/-- An image may run (R405): its header names the format, its kind, its core and its length, the reserved bytes are zero, its signature
verifies, its digest is that of the body, and it is no older than the flash counter of its core (PRESUMED, log entry 118). -/
def imageRuns (versions : List Nat) (core : Nat) (x : BootImage) : Bool :=
  let h := x.header
  h.length == 128 && field h 0 4 == 0x53570001 && field h 4 1 == (if core = 4 then 0 else 1) && field h 5 1 == core && zeros h 6 2 &&
  field h 8 8 == x.body.length && zeros h 20 44 && x.signed && field h 64 64 == shake256 x.body &&
  decide (versions.getD core 0 ≤ imageVersion x)

/-- The image of a core is verified: the counter in flash takes its version, and its digest joins the measurement list (R405, R406).
None where it may not run. -/
def State.verifyImage (s : State) (images : List BootImage) (core : Nat) : Option State :=
  (images[core]?).bind fun x =>
    if imageRuns s.flash.versions core x then
      some { s with flash := { s.flash with versions := s.flash.versions.set core (imageVersion x) },
                    switor := { s.switor with measurements := s.switor.measurements ++ [shake256 x.body] } }
    else none

/-- The images of several cores in order; the state as far as it came, and whether all are verified. -/
def State.verifyAll (s : State) (images : List BootImage) : List Nat → State × Bool
  | [] => (s, true)
  | k :: rest =>
    match s.verifyImage images k with
    | some t => t.verifyAll images rest
    | none => (s, false)

/-- A step of bring-up fails: BOOT_STATUS holds 0x80 plus its number (R404). -/
def State.bootFails (s : State) (step : Nat) : State := { s with switor := { s.switor with boot := 0x80 + step } }

/-- The unit that a unit identifier of kind 0..5 names (R412). -/
def unitOf (x : BitVec 64) : Option UnitId :=
  let at_ (kind : UnitKind) : UnitId :=
    { kind := kind, core := (x.extractLsb' 8 16).toNat, part := (x.extractLsb' 24 8).toNat, index := (x.extractLsb' 32 8).toNat }
  match (x.extractLsb' 0 8).toNat with
  | 0 => some (at_ .lane)
  | 1 => some (at_ .quad)
  | 2 => some (at_ .bank)
  | 3 => some (at_ .scalar)
  | 4 => some (at_ .sbank)
  | 5 => some (at_ .column)
  | _ => none

/-- The tables of a core as its retired units leave them, before any work is there (R17, R24, R27, R30, R34). -/
def State.bootTables (s : State) (u : UnitId) : State :=
  match u.kind with
  | .sbank => s.updCore u.core fun k => { k with sbankRanks := unitsIn k.sbanks .live }
  | .column => s.updCore u.core fun k => { k with colTable := unitsIn k.cols .live, colCheck := false }
  | _ => (s.updPart u.core u.part fun p => { p with retiredWhole := true }).rewritePart u.core u.part

/-- A record of flash applied (R34): a unit of a core, a channel (R386), or a slice (R388). A strand's bars it from training
(R394). -/
def State.applyRecord (s : State) (x : BitVec 64) : State :=
  match unitOf x with
  | some u => (s.updCore u.core fun k => k.setUnit u .retired).bootTables u
  | none =>
    let n := (x.extractLsb' 8 16).toNat
    match (x.extractLsb' 0 8).toNat with
    | 6 =>
      let s1 := s.setChannel { s.channelAt n with retired := true }
      let s2 := (s1.slotsOf n .reserve).foldl (fun t k => t.setSlot k { state := .withdrawn, channel := n, target := 0 }) s1
      let s3 := s2.assignSlots n (s2.slotsOf n .data)
      { s3 with slots := s3.slots.map fun e =>
          if e.2.state = .moving then (e.1, { state := .data, channel := e.2.target, target := 0 }) else e }
    | 7 =>
      let chans := s.fronts n
      let s1 := { s with slices := s.slices.set n false }
      chans.foldl (fun t c =>
        match t.sliceTaker n with
        | some y => { t with chanSlice := (c, y) :: t.chanSlice.filter (·.1 != c) }
        | none => t) s1
    | _ => s

/-- A unit that fails the sweep of bring-up is retired with what fails with it (R21, R33, R34), before any work is
admitted (DEDUCED, log entry 74). -/
def State.sweepFail (s : State) (u : UnitId) : State :=
  let s1 := match u.kind with
    | .quad => (s.failUnit u).retireSuspects u.core u.part
    | _ => if (s.coreAt u.core).unit u = some UnitState.live then s.retireUnit u else s
  s1.bootTables u

/-- Memory as scrubbed: zero bytes, every granule's tags under the plain device key (R387, R404). -/
def State.scrubbed (s : State) : State := { s with mem := [], poison := [], flaws := [], sectorKey := [] }

/-- A step of bring-up is done: BOOT_STATUS holds its number (R404). -/
def State.booted (s : State) (step : Nat) : State := { s with switor := { s.switor with boot := step } }

/-- BRING_UP (R404): After reset release the Switor complex verifies images, applies the retirement records, trains HBM, sweeps and opens
queues: the next of the six steps, the last of which leaves BOOT_STATUS 0x10. A failure stops bring-up at its step (DEDUCED,
log entry 74). -/
def execBringUp (x : BootInput) (s : State) : Result :=
  .next <|
    let b := s.switor.boot
    if 6 ≤ b then s
    else if x.stepFails then s.bootFails (b + 1)
    else match b with
      | 0 => match s.verifyImage x.images 4 with | none => s.bootFails 1 | some t => t.booted 1
      | 1 => match s.verifyAll x.images [0, 1, 2, 3, 5, 6, 7] with | (t, ok) => if ok then t.booted 2 else t.bootFails 2
      | 2 => (s.flash.retired.foldl (fun t (r : BitVec 64 × Nat) => t.applyRecord r.1) s).booted 3
      | 3 => if x.hbmTrains then s.scrubbed.booted 4 else s.bootFails 4
      | 4 => (x.sweepFails.foldl State.sweepFail s).booted 5
      | _ => s.booted 0x10

/-! ### Mailboxes (R403) -/

/-- The message goes from one Switor core to another: bytes 0 and 1 name them. -/
def mailOf (src dst : Nat) (m : List Byte) : Bool := field m 0 1 == src && field m 1 1 == dst

/-- A Switor core sends a 64-byte message: it joins the FIFO of its pair, which holds 16; while that is full the sender waits, and what it
sends behind it (R403). -/
def State.sendMail (s : State) (m : List Byte) : State :=
  let pair := mailOf (field m 0 1) (field m 1 1)
  if m.length ≠ 64 ∨ 8 ≤ field m 0 1 ∨ 8 ≤ field m 1 1 then s
  else if 16 ≤ s.switor.mail.countP pair ∨ s.switor.mailWait.any (fun x => field x 0 1 == field m 0 1) then
    { s with switor := { s.switor with mailWait := s.switor.mailWait ++ [m] } }
  else { s with switor := { s.switor with mail := s.switor.mail ++ [m] } }

/-- MAILBOX_MESSAGE (R403): A Switor core acts on the oldest message from another core: it leaves its FIFO, and senders that wait go on.
What its action changes is what the events of its function change (DESIGN CHOICE, log entry 68). -/
def execMailboxMessage (src dst : Nat) (s : State) : Result :=
  .next (s.switor.mailWait.foldl State.sendMail
    { s with switor := { s.switor with mail := s.switor.mail.eraseP (mailOf src dst), mailWait := [] } })

/-- POWER_OFF (R404): Power is removed, and the device loses all state except on-package flash (DESIGN CHOICE, log entry 76). -/
def execPowerOff (s : State) : Result := .next { State.reset with flash := s.flash, tick := s.tick }

/-! ### Power (R337, R409) -/

/-- A die's ceiling after a sample (R337). -/
def nextCeiling (x : PowerInput) (c : Nat) : Nat :=
  if 1950 < x.wattsAvg then max 1 (c - 1)
  else if x.lowFor10ms ∧ x.wattsAvg < 1850 then min 4 (c + 1)
  else c

/-- A die's hold of grants from idle at a junction temperature (R409). -/
def nextHot (hot : Bool) (temp : Nat) : Bool := if 110 < temp then true else if temp < 100 then false else hot

/-- POWER_SAMPLE (R337, R409): The power core samples package power and temperature every 100 µs and sets each die's ceiling. -/
def execPowerSample (x : PowerInput) (s : State) : Result :=
  .next <|
    if !s.ready then s
    else
      let dies := (List.range s.dies.length).map fun d =>
        let k := s.dies.getD d { tlb := [], ceiling := 4, hot := false }
        { k with ceiling := nextCeiling x k.ceiling, hot := nextHot k.hot (x.temps.getD d 0) }
      let changed := (dies.map (·.ceiling)) != (s.dies.map (·.ceiling))
      { s with dies := dies,
               switor := { s.switor with watts := x.wattsAvg, hottest := x.temps.foldl max 0,
                                         cause := if changed then s.switor.cause ||| 4 else s.switor.cause } }

/-! ### Attestation (R407, R408) -/

/-- The bytes of a report before its signature (R408). -/
def State.report (s : State) (nonce : List Nat) (i : Nat) : List Byte :=
  leBytes 4 0x474B0001 ++ leBytes 4 i ++ nonce.flatMap (leBytes 8) ++
  leBytes 2 s.switor.measurements.length ++ leBytes 6 0 ++ s.switor.measurements.flatMap (leBytes 64)

/-- Writing 1 to ATTEST_CTL asks for a report with the nonce that then stands; it is queued behind those before it (R408). -/
def State.askReport (s : State) : State :=
  { s with switor := { s.switor with requests := s.switor.requests ++ [{ nonce := s.switor.attestNonce, index := none }], attestCtl := 1 } }

/-- ATTEST_REQUEST (R407, R408): Core 4 works on the oldest request: flash passes the next Gleku index first, and then the signed report
goes out; with every index spent the request is refused (DESIGN CHOICE, log entry 69). -/
def execAttestRequest (s : State) : Result :=
  .next <|
    let w := s.switor
    match w.requests with
    | [] => s
    | r :: rest =>
      match r.index with
      | none =>
        let i := s.flash.gleku
        if 2 ^ 20 ≤ i then { s with switor := { w with requests := rest, attestCtl := 3 } }
        else { s with flash := { s.flash with gleku := i + 1 }, switor := { w with requests := { r with index := some i } :: rest } }
      | some i =>
        let b := s.report r.nonce i
        State.physWrite { s with switor := { w with requests := rest, attestCtl := 2 } } w.attestAddr (b ++ Config.signature b i)

/-! ### Management registers (R410) -/

/-- Bits of EVENT_CAUSE cleared by writing 1 to them (R410). -/
def State.clearCause (s : State) (bits : BitVec 64) : State := { s with switor := { s.switor with cause := s.switor.cause &&& ~~~bits } }

/-- EVENT_CAUSE_CLEAR (R410): Writing 1 to an EVENT_CAUSE bit clears it. -/
def execEventCauseClear (bits : BitVec 64) (s : State) : Result := .next (if s.ready then s.clearCause bits else s)

/-- DIAG_CMD written (R411): the command is under way; ignored while DIAG_STATUS reads 1. -/
def State.writeDiag (s : State) (val : BitVec 64) : State :=
  if s.switor.diagStatus = 1 then s else { s with switor := { s.switor with diagCmd := val, diagStatus := 1 } }

/-- The doubleword at 0x100 written (R414): the command runs, and byte 1 reads 0xFF; ignored while one runs. -/
def State.writePf (s : State) (val : BitVec 64) : State :=
  if s.switor.pfRun.isSome then s
  else
    let b := leBytes 8 val.toNat ++ s.switor.pf.drop 8
    { s with switor := { s.switor with pf := b.set 1 0xFF#8, pfRun := some b } }

/-- REGISTER_WRITE (R410): A write to a management register stores, starts a command, clears bits or is ignored, as R410 has it for its
offset (DEDUCED, log entry 70). -/
def execRegisterWrite (off : Nat) (val : BitVec 64) (s : State) : Result :=
  .next <|
    if !s.ready then s
    else
      let w := s.switor
      if off = 0x010 then s.giveIdentity (val.toNat % 2 ^ 11)
      else if off = 0x018 then (if val = 1 then s.askReport else s)
      else if off = 0x020 then { s with switor := { w with attestAddr := val.toNat } }
      else if off = 0x028 ∨ off = 0x030 ∨ off = 0x038 ∨ off = 0x040 then
        { s with switor := { w with attestNonce := w.attestNonce.set ((off - 0x028) / 8) val.toNat } }
      else if off = 0x050 then s.writeDiag val
      else if off = 0x060 then { s with switor := { w with diagAddr := val.toNat } }
      else if off = 0x068 then s.clearCause val
      else if off = 0x100 then s.writePf val
      else if 0x108 ≤ off ∧ off ≤ 0x138 ∧ off % 8 = 0 then
        { s with switor := { w with pf := w.pf.take (off - 0x100) ++ leBytes 8 val.toNat ++ w.pf.drop (off - 0x100 + 8) } }
      else s

/-- The physical function's MSI-X vector 0 is raised: a bit of EVENT_CAUSE is set (R410). -/
def State.pfVector (s : State) : Bool := s.switor.cause != 0

/-- POWER_STATUS (R410). -/
def State.powerStatus (s : State) : Nat :=
  s.switor.watts % 2 ^ 16 + ((List.range 8).map fun d => ((s.dies.map (·.ceiling)).getD d 4 - 1) * 2 ^ (16 + 2 * d)).sum +
  s.switor.hottest % 256 * 2 ^ 32

/-- What a management register reads as (R410) (DESIGN CHOICE, log entry 77). -/
def State.readRegister (s : State) (off : Nat) : Nat :=
  if off = 0x000 then devId
  else if off = 0x008 then s.switor.boot
  else if off = 0x010 then s.links.identity.getD 0
  else if off = 0x018 then s.switor.attestCtl
  else if off = 0x020 then s.switor.attestAddr
  else if off = 0x048 then s.powerStatus
  else if off = 0x058 then s.switor.diagStatus
  else if off = 0x060 then s.switor.diagAddr
  else if off = 0x068 then s.switor.cause.toNat
  else if 0x100 ≤ off ∧ off ≤ 0x138 ∧ off % 8 = 0 then field s.switor.pf (off - 0x100) 8
  else 0

/-! ### Diagnostics (R411..R413) -/

/-- A diagnostic command ends: 2 done or 3 failed, and EVENT_CAUSE [3]. -/
def State.diagEnds (s : State) (status : Nat) : State :=
  { s with switor := { s.switor with diagStatus := status, cause := s.switor.cause ||| 8 } }

/-- The code of the DIAG_CMD that is under way. -/
def Switor.diagCode (w : Switor) : Nat := (w.diagCmd.extractLsb' 0 8).toNat

/-- The operand of the DIAG_CMD that is under way, its bits [63:8] (R410, R412). -/
def Switor.diagOperand (w : Switor) : BitVec 64 := w.diagCmd >>> 8

/-- The core of an operand that holds a core number alone, in the number field (R412). -/
def operandCore (x : BitVec 64) : Option Nat :=
  let core := (x.extractLsb' 8 16).toNat
  if x = BitVec.ofNat 64 (256 * core) ∧ core < 192 then some core else none

/-- The diagnostic command of a code, once DIAG_CMD holds it with the operand that the step names, if it names one: f has the operand, and
where it answers none the command fails; what it writes goes to DIAG_ADDR (R411; DESIGN CHOICE, log entry 71). -/
def onDiag (code : Nat) (named : Option (BitVec 64)) (f : BitVec 64 → State → Option State) (s : State) : Result :=
  .next <|
    if s.switor.diagStatus ≠ 1 ∨ s.switor.diagCode ≠ code ∨ named.any (· != s.switor.diagOperand) then s
    else match f s.switor.diagOperand s with
      | some t => t.diagEnds 2
      | none => s.diagEnds 3

/-- DIAG_RETIREMENT_RECORDS (R411, R413): Writes the retirement records to DIAG_ADDR. -/
def execDiagRetirementRecords : State → Result :=
  onDiag 1 none fun x s =>
    if x ≠ 0 then none
    else some (s.physWrite s.switor.diagAddr
      (leBytes 4 0x44520001 ++ leBytes 4 s.flash.retired.length ++ leBytes 56 0 ++
        s.flash.retired.flatMap fun (x : BitVec 64 × Nat) => leBytes 8 x.1.toNat ++ leBytes 8 x.2))

/-- A unit state byte (R413). -/
def unitByte (x : UnitState) (assigned : Bool) : Byte :=
  match x with
  | .live => if assigned then 0 else 1
  | .suspect => 2
  | .evacuating => 3
  | .retired => 4

/-- The state bytes of units, by physical number. -/
def unitBytes (l : List UnitState) (assigned : Nat → Bool) : List Byte :=
  (List.range l.length).map fun i => unitByte (l.getD i .retired) (assigned i)

/-- A table of n bytes, 0xFF beyond its end. -/
def tableBytes (n : Nat) (l : List Nat) : List Byte :=
  (List.range n).map fun i => match l[i]? with | some x => BitVec.ofNat 8 x | none => 0xFF#8

/-- A partition block of the core dump (R413): in a retired partition each unit that has not itself retired reads as a live spare. -/
def Partition.dump (p : Partition) : List Byte :=
  let gone := p.retiredWhole
  let seen (x : UnitState) : UnitState := if gone && x != .retired then .live else x
  let w := if gone then 0 else p.laneTable.length
  leBytes 1 w ++ leBytes 1 (if gone then 0 else (96 + w - 1) / w) ++ leBytes 1 (if gone then 0 else p.budget / 512) ++
  [unitByte (seen p.scalar) !gone] ++ unitBytes (p.lanes.map seen) (fun i => !gone && p.laneTable.contains i) ++ unitBytes (p.quads.map seen) (fun _ => !gone) ++
  unitBytes (p.banks.map seen) (fun i => !gone && p.bankOf.contains i) ++ leBytes 1 0 ++
  tableBytes 36 (if gone then [] else p.laneTable) ++ tableBytes 24 (if gone then [] else p.bankOf) ++ leBytes 120 0

/-- The 1,344 bytes of a core dump (R413). -/
def Core.dump (k : Core) (core : Nat) : List Byte :=
  leBytes 4 0x44530002 ++ leBytes 2 core ++
  leBytes 1 (((List.range 4).map fun p => if (k.parts.getD p Partition.fresh).retiredWhole then 0 else 2 ^ p).sum) ++
  leBytes 1 k.colTable.length ++ leBytes 1 k.sbankRanks.length ++ leBytes 55 0 ++
  (List.range 4).flatMap (fun p => (k.parts.getD p Partition.fresh).dump) ++
  unitBytes k.sbanks (fun i => k.sbankRanks.contains i) ++ tableBytes 36 k.sbankRanks ++ leBytes 56 0 ++
  unitBytes k.cols (fun i => k.engineLive && k.logicalCols.contains i) ++ tableBytes 32 k.logicalCols ++ leBytes 62 0

/-- DIAG_CORE_DUMP (R411, R413): Writes a core's steering tables and unit states to DIAG_ADDR. -/
def execDiagCoreDump (operand : BitVec 64) : State → Result :=
  onDiag 2 operand fun x s => (operandCore x).map fun core => s.physWrite s.switor.diagAddr ((s.coreAt core).dump core)

/-- DIAG_REVIVE (R411): Self-checks a retired unit and returns it to live if it passes, its flash record erased; the tables take it up at
their next rewrite point (DEDUCED, log entry 72). -/
def execDiagRevive (operand : BitVec 64) (pass : Bool) : State → Result :=
  onDiag 3 operand fun x s => (unitOf x).bind fun u =>
    if pass ∧ unitCode u = x ∧ u.core < 192 ∧ (s.coreAt u.core).unit u = some .retired then
      let t := s.updCore u.core fun k => k.setUnit u .live
      some { t with flash := { t.flash with retired := t.flash.retired.filter fun (y : BitVec 64 × Nat) => y.1 != x } }
    else none

/-- The groups of a vacated core start to migrate (R308): each to the eligible core of the largest score, or out to memory; those that are
on their way to it turn back. -/
def State.vacate (s : State) (core : Nat) : State :=
  { s with groups := s.groups.map fun (g : Group) =>
      if g.status = .resident ∧ g.core = core then
        match s.bestCore g with
        | some k => { g with status := .migrating, task := some (g.taskFor k) }
        | none => g.leave
      else if (g.status = .resuming ∨ g.status = .migrating) ∧ g.target = some core then g.leave
      else g }

/-- DIAG_VACATE (R411): Excludes a core from placement and migrates its groups. -/
def execDiagVacate (operand : BitVec 64) : State → Result :=
  onDiag 4 operand fun x s => (operandCore x).map fun core => (s.updCore core fun k => { k with vacated := true }).vacate core

/-- DIAG_VACATE_END (R411): Ends a vacate of a core. -/
def execDiagVacateEnd (operand : BitVec 64) : State → Result :=
  onDiag 5 operand fun x s => (operandCore x).map fun core => s.updCore core fun k => { k with vacated := false }

/-- A slot table entry as a word (R385). -/
def SlotEntry.word (e : SlotEntry) : Nat :=
  e.channel + 2 ^ 9 * e.target + 2 ^ 18 * (match e.state with | .data => 0 | .reserve => 1 | .withdrawn => 2 | .moving => 3)

/-- DIAG_SLOT_TABLE (R411): Writes the slot table to DIAG_ADDR. -/
def execDiagSlotTable : State → Result :=
  onDiag 6 none fun x s =>
    if x ≠ 0 then none
    else some (s.physWrite s.switor.diagAddr ((List.range 3072).flatMap fun k => leBytes 4 (s.slotEntry k).word))

/-! ### Physical-function commands (R414..R416) -/

/-- The fields of a block of the physical function that its command does not use are zero (R414): `used` says of byte 2 and of bytes 8..15
whether it uses them. The status byte is not judged (DEDUCED, log entry 73). -/
def pfClean (b : List Byte) (used : Bool × Bool) : Bool :=
  (used.1 || zeros b 2 1) && zeros b 3 5 && (used.2 || zeros b 8 8) && zeros b 16 48

/-- The command of the physical function ends: byte 1 of the block holds its status, and EVENT_CAUSE [4] is set (R414). -/
def State.pfEnds (s : State) (status : Nat) : State :=
  { s with switor := { s.switor with pf := s.switor.pf.set 1 (BitVec.ofNat 8 status), pfRun := none, cause := s.switor.cause ||| 16 } }

/-- The command of the physical function that runs, of a code: byte 2 and bytes 8..15 of its block are the operands that the step names,
and zero where it names none; f has them, and answers a state and a status. -/
def onPf (code : Nat) (byte word : Option Nat) (f : Nat → Nat → State → State × Nat) (s : State) : Result :=
  .next <|
    match s.switor.pfRun with
    | none => s
    | some b =>
      if field b 0 1 ≠ code ∨ byte.any (· != field b 2 1) ∨ word.any (· != field b 8 8) then s
      else if !pfClean b (byte.isSome, word.isSome) then s.pfEnds 2
      else
        let x := f (field b 2 1) (field b 8 8) s
        x.1.pfEnds x.2

/-- The windows of a tenant record (R415): base and size in bytes. -/
def recordWindows (r : List Byte) : List (Nat × Nat) :=
  ((List.range 8).map fun i => (field r (32 + 16 * i) 8, field r (40 + 16 * i) 4 * 2 ^ 21)).filter fun w => w.2 != 0

/-- A window lies inside local HBM, host memory or the remote ranges (R372, R395, R415). -/
def windowPlace (w : Nat × Nat) : Bool :=
  decide (w.1 + w.2 ≤ hbmEnd) || (decide (hbmEnd ≤ w.1) && decide (w.1 + w.2 ≤ 2 ^ 51)) ||
  (decide (2 ^ 51 ≤ w.1) && decide (w.1 + w.2 ≤ 2 ^ 52))

/-- Two address ranges overlap. -/
def rangesMeet (a b : Nat × Nat) : Bool := decide (a.1 < b.1 + b.2) && decide (b.1 < a.1 + a.2)

/-- A tenant record is within R415, beside the windows of the other tenants. -/
def State.tenantSound (s : State) (t : Nat) (r : List Byte) : Bool :=
  let base := field r 0 8
  let ws := recordWindows r
  decide (base < 2 ^ 52) && base % 256 == 0 && decide (4 ≤ field r 8 1) && decide (field r 8 1 ≤ 16) &&
  (ws.any fun w => decide (w.1 + 16 ≤ base) && decide (base + 32 * 2 ^ field r 8 1 ≤ w.1 + w.2)) &&
  decide (1 ≤ field r 9 1) && decide (field r 9 1 ≤ 16) && zeros r 10 22 &&
  ((List.range 8).all fun i => decide (field r (32 + 16 * i) 8 < 2 ^ 52) && field r (32 + 16 * i) 8 % 2 ^ 21 == 0 && zeros r (44 + 16 * i) 4) &&
  ws.all windowPlace && zeros r 160 96 &&
  (List.range 16).all fun u => u == t || (s.tenants.getD u Tenant.fresh).windows.all fun v => ws.all fun w => !rangesMeet v w

/-- The tenant has no context other than destroyed ones (R414). -/
def State.noContext (s : State) (t : Nat) : Bool := s.ctxs.all fun c => c.tenant != t || (c.state == .destroyed && !c.destroying)

/-- TENANT_SET (R414, R415): Sets a tenant's windows, error queue and context limit and enables its virtual function. -/
def execTenantSet (tenant record : Nat) : State → Result :=
  onPf 0x21 tenant record fun t pa s =>
    if 16 ≤ t then (s, 2)
    else if !s.noContext t then (s, 1)
    else match s.physRead pa 256 with
      | none => (s.physMet pa 256, 2)
      | some r =>
        if s.tenantSound t r then
          ({ s with tenants := s.tenants.modify t fun x =>
            { x with enabled := true, windows := recordWindows r, ctxLimit := field r 9 1, errBase := field r 0 8, errLog2 := field r 8 1,
                     quantum := 2000 } }, 0)
        else (s, 2)

/-- A key id becomes plain: what its loaded key wrote fails its tag from then on (R389, R414). -/
def State.plainKey (s : State) (key : Nat) : State :=
  { s with switor := { s.switor with keys := s.switor.keys.filter fun (x : Nat × Nat) => x.1 != key,
                                     material := s.switor.material.filter fun (x : Nat × List Byte) => x.1 != key } }

/-- TENANT_CLEAR (R414): Removes a tenant's windows, makes its keys plain and disables its virtual function. -/
def execTenantClear (tenant : Nat) : State → Result :=
  onPf 0x22 tenant none fun t _ s =>
    if 16 ≤ t then (s, 2)
    else if !s.noContext t then (s, 1)
    else
      let s1 := (List.range 4).foldl (fun u i => u.plainKey (4 * t + i)) s
      ({ s1 with tenants := s1.tenants.modify t fun x => { x with enabled := false, windows := [], quantum := 2000 } }, 0)

/-- KEY_LOAD (R414): Loads a key slot from a blob and zeroes the blob. -/
def execKeyLoad (key blob : Nat) : State → Result :=
  onPf 0x23 key blob fun key pa s =>
    if 64 ≤ key then (s, 2)
    else if !(s.tenants.getD (key / 4) Tenant.fresh).enabled then (s, 1)
    else match s.physRead pa 96 with
      | none => (s.physMet pa 96, 2)
      | some blob =>
        let w := s.switor
        (State.physWrite { s with switor := { w with
          keys := (key, w.loads + 1) :: w.keys.filter fun (x : Nat × Nat) => x.1 != key,
          material := (key, blob) :: w.material.filter fun (x : Nat × List Byte) => x.1 != key, loads := w.loads + 1 } } pa (leBytes 96 0), 0)

/-- KEY_CLEAR (R414): Makes a key id plain. -/
def execKeyClear (key : Nat) : State → Result :=
  onPf 0x24 key none fun key _ s => if 64 ≤ key then (s, 2) else (s.plainKey key, 0)

/-- A link grant entry is within R416. -/
def grantOf (r : List Byte) : Option Grant :=
  if field r 0 2 < 2 ^ 11 ∧ field r 2 1 < 64 ∧ field r 3 1 < 8 ∧ zeros r 4 4 ∧ field r 8 8 < 2 ^ 40 ∧ field r 8 8 % 2 ^ 21 = 0 ∧
      1 ≤ field r 16 4 ∧ zeros r 20 12 then
    some { source := field r 0 2, key := field r 2 1, access := BitVec.ofNat 3 (field r 3 1), base := field r 8 8, size := field r 16 4 }
  else none

/-- LINK_GRANT (R414, R416): Adds a grant entry to the link access table of 256 entries. -/
def execLinkGrant (record : Nat) : State → Result :=
  onPf 0x25 none record fun _ pa s =>
    match (s.physRead pa 32).bind grantOf with
    | none => (s.physMet pa 32, 2)
    | some g =>
      if 256 ≤ s.links.grants.length then (s, 3)
      else ({ s with links := { s.links with grants := s.links.grants ++ [g] } }, 0)

/-- Two grant entries are equal in identity, key id, base and size (R414). -/
def Grant.same (a b : Grant) : Bool := a.source == b.source && a.key == b.key && a.base == b.base && a.size == b.size

/-- LINK_REVOKE (R414): Removes a matching grant entry from the link access table. -/
def execLinkRevoke (record : Nat) : State → Result :=
  onPf 0x26 none record fun _ pa s =>
    match (s.physRead pa 32).bind grantOf with
    | none => (s.physMet pa 32, 2)
    | some g =>
      if s.links.grants.any g.same then ({ s with links := { s.links with grants := s.links.grants.eraseP g.same } }, 0)
      else (s, 2)

/-- UNLISTED_COMMAND_CODE (R365, R411, R414): A command whose code is not listed ends with status 2, or 3 for a diagnostic; `block` is what
its window holds. -/
def execUnlistedCommandCode (x : CommandWindow) (block : List Byte) (s : State) : Result :=
  match x with
  | .context tenant =>
    let c : Cmd := { tenant := tenant, block := block }
    if 1 ≤ c.code ∧ c.code ≤ 12 then .next s else onCommand c.code c true (fun s => s.answer c.code c 2) s
  | .pf => .next <|
    if s.switor.pfRun = some block ∧ ¬(0x21 ≤ field block 0 1 ∧ field block 0 1 ≤ 0x26) then s.pfEnds 2 else s
  | .diag => .next <|
    if s.switor.diagStatus = 1 ∧ leBytes 8 s.switor.diagCmd.toNat = block ∧ (s.switor.diagCode = 0 ∨ 6 < s.switor.diagCode) then s.diagEnds 3
    else s

end Sys2Proof.Machine
end

