-- ==== Sys2Proof/Machine/Dispatch.lean ====
section
/-!
DEFINITION. The dispatch: one arm for each constructor of Instr, in the order of the opcode table, each a direct call of the
meaning of that row.
-/
namespace Sys2Proof.Machine

/-- What an instruction or a step of the device does to the state. -/
def exec (i : Instr) (s : State) : Host.Outcome State Fault Refusal :=
  match i with
  | .nop => Sys2Proof.Machine.execNop s
  | .exit => Sys2Proof.Machine.execExit s
  | .yield => Sys2Proof.Machine.execYield s
  | .sleep x1 => Sys2Proof.Machine.execSleep x1 s
  | .trap x1 => Sys2Proof.Machine.execTrap x1 s
  | .brk x1 => Sys2Proof.Machine.execBrk x1 s
  | .ipf x1 x2 => Sys2Proof.Machine.execIpf x1 x2 s
  | .ipfInv => Sys2Proof.Machine.execIpfInv s
  | .sadd x1 x2 x3 => Sys2Proof.Machine.execSadd x1 x2 x3 s
  | .ssub x1 x2 x3 => Sys2Proof.Machine.execSsub x1 x2 x3 s
  | .smul x1 x2 x3 => Sys2Proof.Machine.execSmul x1 x2 x3 s
  | .smulhiS32 x1 x2 x3 => Sys2Proof.Machine.execSmulhiS32 x1 x2 x3 s
  | .smulhiU32 x1 x2 x3 => Sys2Proof.Machine.execSmulhiU32 x1 x2 x3 s
  | .sand x1 x2 x3 => Sys2Proof.Machine.execSand x1 x2 x3 s
  | .sor x1 x2 x3 => Sys2Proof.Machine.execSor x1 x2 x3 s
  | .sxor x1 x2 x3 => Sys2Proof.Machine.execSxor x1 x2 x3 s
  | .sandn x1 x2 x3 => Sys2Proof.Machine.execSandn x1 x2 x3 s
  | .sshl x1 x2 x3 => Sys2Proof.Machine.execSshl x1 x2 x3 s
  | .sshr x1 x2 x3 => Sys2Proof.Machine.execSshr x1 x2 x3 s
  | .ssra x1 x2 x3 => Sys2Proof.Machine.execSsra x1 x2 x3 s
  | .sminS32 x1 x2 x3 => Sys2Proof.Machine.execSminS32 x1 x2 x3 s
  | .smaxS32 x1 x2 x3 => Sys2Proof.Machine.execSmaxS32 x1 x2 x3 s
  | .sminU32 x1 x2 x3 => Sys2Proof.Machine.execSminU32 x1 x2 x3 s
  | .smaxU32 x1 x2 x3 => Sys2Proof.Machine.execSmaxU32 x1 x2 x3 s
  | .sadd64 x1 x2 x3 => Sys2Proof.Machine.execSadd64 x1 x2 x3 s
  | .ssub64 x1 x2 x3 => Sys2Proof.Machine.execSsub64 x1 x2 x3 s
  | .saddI x1 x2 x3 => Sys2Proof.Machine.execSaddI x1 x2 x3 s
  | .ssubI x1 x2 x3 => Sys2Proof.Machine.execSsubI x1 x2 x3 s
  | .smulI x1 x2 x3 => Sys2Proof.Machine.execSmulI x1 x2 x3 s
  | .smulhiS32I x1 x2 x3 => Sys2Proof.Machine.execSmulhiS32I x1 x2 x3 s
  | .smulhiU32I x1 x2 x3 => Sys2Proof.Machine.execSmulhiU32I x1 x2 x3 s
  | .sandI x1 x2 x3 => Sys2Proof.Machine.execSandI x1 x2 x3 s
  | .sorI x1 x2 x3 => Sys2Proof.Machine.execSorI x1 x2 x3 s
  | .sxorI x1 x2 x3 => Sys2Proof.Machine.execSxorI x1 x2 x3 s
  | .sandnI x1 x2 x3 => Sys2Proof.Machine.execSandnI x1 x2 x3 s
  | .sshlI x1 x2 x3 => Sys2Proof.Machine.execSshlI x1 x2 x3 s
  | .sshrI x1 x2 x3 => Sys2Proof.Machine.execSshrI x1 x2 x3 s
  | .ssraI x1 x2 x3 => Sys2Proof.Machine.execSsraI x1 x2 x3 s
  | .sminS32I x1 x2 x3 => Sys2Proof.Machine.execSminS32I x1 x2 x3 s
  | .smaxS32I x1 x2 x3 => Sys2Proof.Machine.execSmaxS32I x1 x2 x3 s
  | .sminU32I x1 x2 x3 => Sys2Proof.Machine.execSminU32I x1 x2 x3 s
  | .smaxU32I x1 x2 x3 => Sys2Proof.Machine.execSmaxU32I x1 x2 x3 s
  | .scmp x1 x2 x3 x4 => Sys2Proof.Machine.execScmp x1 x2 x3 x4 s
  | .scmpI x1 x2 x3 x4 => Sys2Proof.Machine.execScmpI x1 x2 x3 x4 s
  | .cand x1 x2 x3 => Sys2Proof.Machine.execCand x1 x2 x3 s
  | .cor x1 x2 x3 => Sys2Proof.Machine.execCor x1 x2 x3 s
  | .cxor x1 x2 x3 => Sys2Proof.Machine.execCxor x1 x2 x3 s
  | .candn x1 x2 x3 => Sys2Proof.Machine.execCandn x1 x2 x3 s
  | .smov x1 x2 => Sys2Proof.Machine.execSmov x1 x2 s
  | .sli x1 x2 => Sys2Proof.Machine.execSli x1 x2 s
  | .sbfxU32 x1 x2 x3 => Sys2Proof.Machine.execSbfxU32 x1 x2 x3 s
  | .sbfxS32 x1 x2 x3 => Sys2Proof.Machine.execSbfxS32 x1 x2 x3 s
  | .sbfi x1 x2 x3 => Sys2Proof.Machine.execSbfi x1 x2 x3 s
  | .spopc x1 x2 => Sys2Proof.Machine.execSpopc x1 x2 s
  | .sclz x1 x2 => Sys2Proof.Machine.execSclz x1 x2 s
  | .sctz x1 x2 => Sys2Proof.Machine.execSctz x1 x2 s
  | .sbrev x1 x2 => Sys2Proof.Machine.execSbrev x1 x2 s
  | .bc x1 x2 => Sys2Proof.Machine.execBc x1 x2 s
  | .bnc x1 x2 => Sys2Proof.Machine.execBnc x1 x2 s
  | .bany x1 => Sys2Proof.Machine.execBany x1 s
  | .ball x1 => Sys2Proof.Machine.execBall x1 s
  | .bnone x1 => Sys2Proof.Machine.execBnone x1 s
  | .br x1 => Sys2Proof.Machine.execBr x1 s
  | .call x1 => Sys2Proof.Machine.execCall x1 s
  | .jmp x1 => Sys2Proof.Machine.execJmp x1 s
  | .ret => Sys2Proof.Machine.execRet s
  | .rsr x1 x2 => Sys2Proof.Machine.execRsr x1 x2 s
  | .wsr x1 x2 => Sys2Proof.Machine.execWsr x1 x2 s
  | .mpush x1 x2 => Sys2Proof.Machine.execMpush x1 x2 s
  | .mflip x1 x2 => Sys2Proof.Machine.execMflip x1 x2 s
  | .mpop x1 => Sys2Proof.Machine.execMpop x1 s
  | .waitc x1 x2 => Sys2Proof.Machine.execWaitc x1 x2 s
  | .waitcI x1 x2 => Sys2Proof.Machine.execWaitcI x1 x2 s
  | .mvps x1 x2 => Sys2Proof.Machine.execMvps x1 x2 s
  | .mvsp x1 x2 => Sys2Proof.Machine.execMvsp x1 x2 s
  | .vaddS32 x1 x2 x3 => Sys2Proof.Machine.execVaddS32 x1 x2 x3 s
  | .vsubS32 x1 x2 x3 => Sys2Proof.Machine.execVsubS32 x1 x2 x3 s
  | .vaddSatS32 x1 x2 x3 => Sys2Proof.Machine.execVaddSatS32 x1 x2 x3 s
  | .vaddSatU32 x1 x2 x3 => Sys2Proof.Machine.execVaddSatU32 x1 x2 x3 s
  | .vsubSatS32 x1 x2 x3 => Sys2Proof.Machine.execVsubSatS32 x1 x2 x3 s
  | .vsubSatU32 x1 x2 x3 => Sys2Proof.Machine.execVsubSatU32 x1 x2 x3 s
  | .vminS32 x1 x2 x3 => Sys2Proof.Machine.execVminS32 x1 x2 x3 s
  | .vmaxS32 x1 x2 x3 => Sys2Proof.Machine.execVmaxS32 x1 x2 x3 s
  | .vminU32 x1 x2 x3 => Sys2Proof.Machine.execVminU32 x1 x2 x3 s
  | .vmaxU32 x1 x2 x3 => Sys2Proof.Machine.execVmaxU32 x1 x2 x3 s
  | .vshl x1 x2 x3 => Sys2Proof.Machine.execVshl x1 x2 x3 s
  | .vshr x1 x2 x3 => Sys2Proof.Machine.execVshr x1 x2 x3 s
  | .vsra x1 x2 x3 => Sys2Proof.Machine.execVsra x1 x2 x3 s
  | .vabsdS32 x1 x2 x3 => Sys2Proof.Machine.execVabsdS32 x1 x2 x3 s
  | .vadd64 x1 x2 x3 => Sys2Proof.Machine.execVadd64 x1 x2 x3 s
  | .vsub64 x1 x2 x3 => Sys2Proof.Machine.execVsub64 x1 x2 x3 s
  | .vaddS32S x1 x2 x3 => Sys2Proof.Machine.execVaddS32S x1 x2 x3 s
  | .vsubS32S x1 x2 x3 => Sys2Proof.Machine.execVsubS32S x1 x2 x3 s
  | .vaddSatS32S x1 x2 x3 => Sys2Proof.Machine.execVaddSatS32S x1 x2 x3 s
  | .vaddSatU32S x1 x2 x3 => Sys2Proof.Machine.execVaddSatU32S x1 x2 x3 s
  | .vsubSatS32S x1 x2 x3 => Sys2Proof.Machine.execVsubSatS32S x1 x2 x3 s
  | .vsubSatU32S x1 x2 x3 => Sys2Proof.Machine.execVsubSatU32S x1 x2 x3 s
  | .vminS32S x1 x2 x3 => Sys2Proof.Machine.execVminS32S x1 x2 x3 s
  | .vmaxS32S x1 x2 x3 => Sys2Proof.Machine.execVmaxS32S x1 x2 x3 s
  | .vminU32S x1 x2 x3 => Sys2Proof.Machine.execVminU32S x1 x2 x3 s
  | .vmaxU32S x1 x2 x3 => Sys2Proof.Machine.execVmaxU32S x1 x2 x3 s
  | .vshlS x1 x2 x3 => Sys2Proof.Machine.execVshlS x1 x2 x3 s
  | .vshrS x1 x2 x3 => Sys2Proof.Machine.execVshrS x1 x2 x3 s
  | .vsraS x1 x2 x3 => Sys2Proof.Machine.execVsraS x1 x2 x3 s
  | .vabsdS32S x1 x2 x3 => Sys2Proof.Machine.execVabsdS32S x1 x2 x3 s
  | .vaddS32I x1 x2 x3 => Sys2Proof.Machine.execVaddS32I x1 x2 x3 s
  | .vsubS32I x1 x2 x3 => Sys2Proof.Machine.execVsubS32I x1 x2 x3 s
  | .vaddSatS32I x1 x2 x3 => Sys2Proof.Machine.execVaddSatS32I x1 x2 x3 s
  | .vaddSatU32I x1 x2 x3 => Sys2Proof.Machine.execVaddSatU32I x1 x2 x3 s
  | .vsubSatS32I x1 x2 x3 => Sys2Proof.Machine.execVsubSatS32I x1 x2 x3 s
  | .vsubSatU32I x1 x2 x3 => Sys2Proof.Machine.execVsubSatU32I x1 x2 x3 s
  | .vminS32I x1 x2 x3 => Sys2Proof.Machine.execVminS32I x1 x2 x3 s
  | .vmaxS32I x1 x2 x3 => Sys2Proof.Machine.execVmaxS32I x1 x2 x3 s
  | .vminU32I x1 x2 x3 => Sys2Proof.Machine.execVminU32I x1 x2 x3 s
  | .vmaxU32I x1 x2 x3 => Sys2Proof.Machine.execVmaxU32I x1 x2 x3 s
  | .vshlI x1 x2 x3 => Sys2Proof.Machine.execVshlI x1 x2 x3 s
  | .vshrI x1 x2 x3 => Sys2Proof.Machine.execVshrI x1 x2 x3 s
  | .vsraI x1 x2 x3 => Sys2Proof.Machine.execVsraI x1 x2 x3 s
  | .vabsdS32I x1 x2 x3 => Sys2Proof.Machine.execVabsdS32I x1 x2 x3 s
  | .vmulLo x1 x2 x3 => Sys2Proof.Machine.execVmulLo x1 x2 x3 s
  | .vmulhiS32 x1 x2 x3 => Sys2Proof.Machine.execVmulhiS32 x1 x2 x3 s
  | .vmulhiU32 x1 x2 x3 => Sys2Proof.Machine.execVmulhiU32 x1 x2 x3 s
  | .vmadLo x1 x2 x3 => Sys2Proof.Machine.execVmadLo x1 x2 x3 s
  | .vmadSatS32 x1 x2 x3 => Sys2Proof.Machine.execVmadSatS32 x1 x2 x3 s
  | .vmulWideS32 x1 x2 x3 => Sys2Proof.Machine.execVmulWideS32 x1 x2 x3 s
  | .vmulWideU32 x1 x2 x3 => Sys2Proof.Machine.execVmulWideU32 x1 x2 x3 s
  | .vand x1 x2 x3 => Sys2Proof.Machine.execVand x1 x2 x3 s
  | .vor x1 x2 x3 => Sys2Proof.Machine.execVor x1 x2 x3 s
  | .vxor x1 x2 x3 => Sys2Proof.Machine.execVxor x1 x2 x3 s
  | .vandn x1 x2 x3 => Sys2Proof.Machine.execVandn x1 x2 x3 s
  | .vnot x1 x2 => Sys2Proof.Machine.execVnot x1 x2 s
  | .vpopc x1 x2 => Sys2Proof.Machine.execVpopc x1 x2 s
  | .vclz x1 x2 => Sys2Proof.Machine.execVclz x1 x2 s
  | .vbrev x1 x2 => Sys2Proof.Machine.execVbrev x1 x2 s
  | .vbfxU32 x1 x2 x3 => Sys2Proof.Machine.execVbfxU32 x1 x2 x3 s
  | .vbfxS32 x1 x2 x3 => Sys2Proof.Machine.execVbfxS32 x1 x2 x3 s
  | .vbfi x1 x2 x3 => Sys2Proof.Machine.execVbfi x1 x2 x3 s
  | .vfshl x1 x2 x3 => Sys2Proof.Machine.execVfshl x1 x2 x3 s
  | .vfshr x1 x2 x3 => Sys2Proof.Machine.execVfshr x1 x2 x3 s
  | .vcmp x1 x2 x3 x4 x5 => Sys2Proof.Machine.execVcmp x1 x2 x3 x4 x5 s
  | .pand x1 x2 x3 => Sys2Proof.Machine.execPand x1 x2 x3 s
  | .por x1 x2 x3 => Sys2Proof.Machine.execPor x1 x2 x3 s
  | .pxor x1 x2 x3 => Sys2Proof.Machine.execPxor x1 x2 x3 s
  | .pandn x1 x2 x3 => Sys2Proof.Machine.execPandn x1 x2 x3 s
  | .pnot x1 x2 => Sys2Proof.Machine.execPnot x1 x2 s
  | .pmov x1 x2 => Sys2Proof.Machine.execPmov x1 x2 s
  | .pset x1 => Sys2Proof.Machine.execPset x1 s
  | .pclr x1 => Sys2Proof.Machine.execPclr x1 s
  | .vsel x1 x2 x3 x4 => Sys2Proof.Machine.execVsel x1 x2 x3 x4 s
  | .vsext8 x1 x2 x3 => Sys2Proof.Machine.execVsext8 x1 x2 x3 s
  | .vzext8 x1 x2 x3 => Sys2Proof.Machine.execVzext8 x1 x2 x3 s
  | .vsext16 x1 x2 x3 => Sys2Proof.Machine.execVsext16 x1 x2 x3 s
  | .vzext16 x1 x2 x3 => Sys2Proof.Machine.execVzext16 x1 x2 x3 s
  | .vsatS8S32 x1 x2 => Sys2Proof.Machine.execVsatS8S32 x1 x2 s
  | .vsatU8S32 x1 x2 => Sys2Proof.Machine.execVsatU8S32 x1 x2 s
  | .vsatS16S32 x1 x2 => Sys2Proof.Machine.execVsatS16S32 x1 x2 s
  | .vsatU16S32 x1 x2 => Sys2Proof.Machine.execVsatU16S32 x1 x2 s
  | .vsatS32S64 x1 x2 => Sys2Proof.Machine.execVsatS32S64 x1 x2 s
  | .fadd x1 x2 x3 x4 => Sys2Proof.Machine.execFadd x1 x2 x3 x4 s
  | .fsub x1 x2 x3 x4 => Sys2Proof.Machine.execFsub x1 x2 x3 x4 s
  | .fmul x1 x2 x3 x4 => Sys2Proof.Machine.execFmul x1 x2 x3 x4 s
  | .fmin x1 x2 x3 => Sys2Proof.Machine.execFmin x1 x2 x3 s
  | .fmax x1 x2 x3 => Sys2Proof.Machine.execFmax x1 x2 x3 s
  | .fcopysign x1 x2 x3 => Sys2Proof.Machine.execFcopysign x1 x2 x3 s
  | .fabs x1 x2 => Sys2Proof.Machine.execFabs x1 x2 s
  | .fneg x1 x2 => Sys2Proof.Machine.execFneg x1 x2 s
  | .faddS x1 x2 x3 x4 => Sys2Proof.Machine.execFaddS x1 x2 x3 x4 s
  | .faddI x1 x2 x3 x4 => Sys2Proof.Machine.execFaddI x1 x2 x3 x4 s
  | .fmulS x1 x2 x3 x4 => Sys2Proof.Machine.execFmulS x1 x2 x3 x4 s
  | .fmulI x1 x2 x3 x4 => Sys2Proof.Machine.execFmulI x1 x2 x3 x4 s
  | .fminS x1 x2 x3 => Sys2Proof.Machine.execFminS x1 x2 x3 s
  | .fminI x1 x2 x3 => Sys2Proof.Machine.execFminI x1 x2 x3 s
  | .fmaxS x1 x2 x3 => Sys2Proof.Machine.execFmaxS x1 x2 x3 s
  | .fmaxI x1 x2 x3 => Sys2Proof.Machine.execFmaxI x1 x2 x3 s
  | .ffma x1 x2 x3 x4 => Sys2Proof.Machine.execFfma x1 x2 x3 x4 s
  | .ffms x1 x2 x3 x4 => Sys2Proof.Machine.execFfms x1 x2 x3 x4 s
  | .ffnma x1 x2 x3 x4 => Sys2Proof.Machine.execFfnma x1 x2 x3 x4 s
  | .ffnms x1 x2 x3 x4 => Sys2Proof.Machine.execFfnms x1 x2 x3 x4 s
  | .ffmaS x1 x2 x3 x4 => Sys2Proof.Machine.execFfmaS x1 x2 x3 x4 s
  | .ffmsS x1 x2 x3 x4 => Sys2Proof.Machine.execFfmsS x1 x2 x3 x4 s
  | .ffnmaS x1 x2 x3 x4 => Sys2Proof.Machine.execFfnmaS x1 x2 x3 x4 s
  | .ffnmsS x1 x2 x3 x4 => Sys2Proof.Machine.execFfnmsS x1 x2 x3 x4 s
  | .haddF16x2 x1 x2 x3 x4 => Sys2Proof.Machine.execHaddF16x2 x1 x2 x3 x4 s
  | .hmulF16x2 x1 x2 x3 x4 => Sys2Proof.Machine.execHmulF16x2 x1 x2 x3 x4 s
  | .hfmaF16x2 x1 x2 x3 x4 => Sys2Proof.Machine.execHfmaF16x2 x1 x2 x3 x4 s
  | .hminF16x2 x1 x2 x3 => Sys2Proof.Machine.execHminF16x2 x1 x2 x3 s
  | .haddBf16x2 x1 x2 x3 x4 => Sys2Proof.Machine.execHaddBf16x2 x1 x2 x3 x4 s
  | .hmulBf16x2 x1 x2 x3 x4 => Sys2Proof.Machine.execHmulBf16x2 x1 x2 x3 x4 s
  | .hfmaBf16x2 x1 x2 x3 x4 => Sys2Proof.Machine.execHfmaBf16x2 x1 x2 x3 x4 s
  | .hminBf16x2 x1 x2 x3 => Sys2Proof.Machine.execHminBf16x2 x1 x2 x3 s
  | .vcmpF32 x1 x2 x3 x4 => Sys2Proof.Machine.execVcmpF32 x1 x2 x3 x4 s
  | .vcvtWiden x1 x2 x3 x4 x5 x6 => Sys2Proof.Machine.execVcvtWiden x1 x2 x3 x4 x5 x6 s
  | .vcvtNarrow x1 x2 x3 x4 x5 x6 => Sys2Proof.Machine.execVcvtNarrow x1 x2 x3 x4 x5 x6 s
  | .vrcp x1 x2 => Sys2Proof.Machine.execVrcp x1 x2 s
  | .vrsq x1 x2 => Sys2Proof.Machine.execVrsq x1 x2 s
  | .vsqrt x1 x2 => Sys2Proof.Machine.execVsqrt x1 x2 s
  | .vexp2 x1 x2 => Sys2Proof.Machine.execVexp2 x1 x2 s
  | .vlog2 x1 x2 => Sys2Proof.Machine.execVlog2 x1 x2 s
  | .vsinpi x1 x2 => Sys2Proof.Machine.execVsinpi x1 x2 s
  | .vcospi x1 x2 => Sys2Proof.Machine.execVcospi x1 x2 s
  | .vtanh x1 x2 => Sys2Proof.Machine.execVtanh x1 x2 s
  | .fdot x1 x2 x3 x4 => Sys2Proof.Machine.execFdot x1 x2 x3 x4 s
  | .idot x1 x2 x3 x4 => Sys2Proof.Machine.execIdot x1 x2 x3 x4 s
  | .idotSat x1 x2 x3 x4 => Sys2Proof.Machine.execIdotSat x1 x2 x3 x4 s
  | .vshflIdx x1 x2 x3 => Sys2Proof.Machine.execVshflIdx x1 x2 x3 s
  | .vshflUp x1 x2 x3 => Sys2Proof.Machine.execVshflUp x1 x2 x3 s
  | .vshflDown x1 x2 x3 => Sys2Proof.Machine.execVshflDown x1 x2 x3 s
  | .vshflXor x1 x2 x3 => Sys2Proof.Machine.execVshflXor x1 x2 x3 s
  | .vbcast x1 x2 x3 => Sys2Proof.Machine.execVbcast x1 x2 x3 s
  | .vsome x1 x2 => Sys2Proof.Machine.execVsome x1 x2 s
  | .vevery x1 x2 => Sys2Proof.Machine.execVevery x1 x2 s
  | .vbits x1 x2 => Sys2Proof.Machine.execVbits x1 x2 s
  | .vredAddS32 x1 x2 => Sys2Proof.Machine.execVredAddS32 x1 x2 s
  | .vredMinS32 x1 x2 => Sys2Proof.Machine.execVredMinS32 x1 x2 s
  | .vredMaxS32 x1 x2 => Sys2Proof.Machine.execVredMaxS32 x1 x2 s
  | .vredAddF32 x1 x2 => Sys2Proof.Machine.execVredAddF32 x1 x2 s
  | .vredMinF32 x1 x2 => Sys2Proof.Machine.execVredMinF32 x1 x2 s
  | .vredMaxF32 x1 x2 => Sys2Proof.Machine.execVredMaxF32 x1 x2 s
  | .vscanAddS32 x1 x2 => Sys2Proof.Machine.execVscanAddS32 x1 x2 s
  | .vscanxAddS32 x1 x2 => Sys2Proof.Machine.execVscanxAddS32 x1 x2 s
  | .vscanAddF32 x1 x2 => Sys2Proof.Machine.execVscanAddF32 x1 x2 s
  | .vredAnd x1 x2 => Sys2Proof.Machine.execVredAnd x1 x2 s
  | .vredOr x1 x2 => Sys2Proof.Machine.execVredOr x1 x2 s
  | .vredXor x1 x2 => Sys2Proof.Machine.execVredXor x1 x2 s
  | .vmatch x1 x2 => Sys2Proof.Machine.execVmatch x1 x2 s
  | .vrank x1 x2 => Sys2Proof.Machine.execVrank x1 x2 s
  | .vlead x1 x2 => Sys2Proof.Machine.execVlead x1 x2 s
  | .visect x1 x2 x3 => Sys2Proof.Machine.execVisect x1 x2 x3 s
  | .vtopk x1 x2 x3 => Sys2Proof.Machine.execVtopk x1 x2 x3 s
  | .vargmaxF32 x1 x2 => Sys2Proof.Machine.execVargmaxF32 x1 x2 s
  | .vargmaxS32 x1 x2 => Sys2Proof.Machine.execVargmaxS32 x1 x2 s
  | .vlid x1 => Sys2Proof.Machine.execVlid x1 s
  | .vrnd x1 x2 => Sys2Proof.Machine.execVrnd x1 x2 s
  | .cbind x1 => Sys2Proof.Machine.execCbind x1 s
  | .cunbind => Sys2Proof.Machine.execCunbind s
  | .cget x1 => Sys2Proof.Machine.execCget x1 s
  | .cgetP x1 => Sys2Proof.Machine.execCgetP x1 s
  | .cset x1 => Sys2Proof.Machine.execCset x1 s
  | .cadd x1 x2 x3 => Sys2Proof.Machine.execCadd x1 x2 x3 s
  | .cadc x1 x2 x3 => Sys2Proof.Machine.execCadc x1 x2 x3 s
  | .csub x1 x2 x3 => Sys2Proof.Machine.execCsub x1 x2 x3 s
  | .csbb x1 x2 x3 => Sys2Proof.Machine.execCsbb x1 x2 x3 s
  | .caddSat x1 x2 x3 => Sys2Proof.Machine.execCaddSat x1 x2 x3 s
  | .cadcSat x1 x2 x3 => Sys2Proof.Machine.execCadcSat x1 x2 x3 s
  | .csubSat x1 x2 x3 => Sys2Proof.Machine.execCsubSat x1 x2 x3 s
  | .csbbSat x1 x2 x3 => Sys2Proof.Machine.execCsbbSat x1 x2 x3 s
  | .ccmp x1 x2 x3 x4 => Sys2Proof.Machine.execCcmp x1 x2 x3 x4 s
  | .cshl x1 x2 x3 => Sys2Proof.Machine.execCshl x1 x2 x3 s
  | .cshr x1 x2 x3 => Sys2Proof.Machine.execCshr x1 x2 x3 s
  | .cshlw x1 x2 x3 => Sys2Proof.Machine.execCshlw x1 x2 x3 s
  | .cshrw x1 x2 x3 => Sys2Proof.Machine.execCshrw x1 x2 x3 s
  | .cmac x1 x2 x3 => Sys2Proof.Machine.execCmac x1 x2 x3 s
  | .cld x1 x2 x3 x4 x5 x6 => Sys2Proof.Machine.execCld x1 x2 x3 x4 x5 x6 s
  | .cst x1 x2 x3 x4 x5 x6 => Sys2Proof.Machine.execCst x1 x2 x3 x4 x5 x6 s
  | .ld x1 x2 x3 x4 x5 x6 x7 => Sys2Proof.Machine.execLd x1 x2 x3 x4 x5 x6 x7 s
  | .st x1 x2 x3 x4 x5 x6 x7 => Sys2Proof.Machine.execSt x1 x2 x3 x4 x5 x6 x7 s
  | .atomAdd x1 x2 x3 x4 => Sys2Proof.Machine.execAtomAdd x1 x2 x3 x4 s
  | .atomMin x1 x2 x3 x4 => Sys2Proof.Machine.execAtomMin x1 x2 x3 x4 s
  | .atomMax x1 x2 x3 x4 => Sys2Proof.Machine.execAtomMax x1 x2 x3 x4 s
  | .atomAnd x1 x2 x3 x4 => Sys2Proof.Machine.execAtomAnd x1 x2 x3 x4 s
  | .atomOr x1 x2 x3 x4 => Sys2Proof.Machine.execAtomOr x1 x2 x3 x4 s
  | .atomXor x1 x2 x3 x4 => Sys2Proof.Machine.execAtomXor x1 x2 x3 x4 s
  | .atomExch x1 x2 x3 x4 => Sys2Proof.Machine.execAtomExch x1 x2 x3 x4 s
  | .atomCas x1 x2 x3 x4 => Sys2Proof.Machine.execAtomCas x1 x2 x3 x4 s
  | .redAdd x1 x2 x3 x4 => Sys2Proof.Machine.execRedAdd x1 x2 x3 x4 s
  | .redMin x1 x2 x3 x4 => Sys2Proof.Machine.execRedMin x1 x2 x3 x4 s
  | .redMax x1 x2 x3 x4 => Sys2Proof.Machine.execRedMax x1 x2 x3 x4 s
  | .redAnd x1 x2 x3 x4 => Sys2Proof.Machine.execRedAnd x1 x2 x3 x4 s
  | .redOr x1 x2 x3 x4 => Sys2Proof.Machine.execRedOr x1 x2 x3 x4 s
  | .redXor x1 x2 x3 x4 => Sys2Proof.Machine.execRedXor x1 x2 x3 x4 s
  | .sldU8 x1 x2 x3 => Sys2Proof.Machine.execSldU8 x1 x2 x3 s
  | .sldS8 x1 x2 x3 => Sys2Proof.Machine.execSldS8 x1 x2 x3 s
  | .sldU16 x1 x2 x3 => Sys2Proof.Machine.execSldU16 x1 x2 x3 s
  | .sldS16 x1 x2 x3 => Sys2Proof.Machine.execSldS16 x1 x2 x3 s
  | .sldB32 x1 x2 x3 => Sys2Proof.Machine.execSldB32 x1 x2 x3 s
  | .sldB64 x1 x2 x3 => Sys2Proof.Machine.execSldB64 x1 x2 x3 s
  | .sstB8 x1 x2 x3 => Sys2Proof.Machine.execSstB8 x1 x2 x3 s
  | .sstB16 x1 x2 x3 => Sys2Proof.Machine.execSstB16 x1 x2 x3 s
  | .sstB32 x1 x2 x3 => Sys2Proof.Machine.execSstB32 x1 x2 x3 s
  | .sstB64 x1 x2 x3 => Sys2Proof.Machine.execSstB64 x1 x2 x3 s
  | .satomAdd x1 x2 x3 => Sys2Proof.Machine.execSatomAdd x1 x2 x3 s
  | .satomMinS32 x1 x2 x3 => Sys2Proof.Machine.execSatomMinS32 x1 x2 x3 s
  | .satomMaxS32 x1 x2 x3 => Sys2Proof.Machine.execSatomMaxS32 x1 x2 x3 s
  | .satomMinU32 x1 x2 x3 => Sys2Proof.Machine.execSatomMinU32 x1 x2 x3 s
  | .satomMaxU32 x1 x2 x3 => Sys2Proof.Machine.execSatomMaxU32 x1 x2 x3 s
  | .satomAnd x1 x2 x3 => Sys2Proof.Machine.execSatomAnd x1 x2 x3 s
  | .satomOr x1 x2 x3 => Sys2Proof.Machine.execSatomOr x1 x2 x3 s
  | .satomXor x1 x2 x3 => Sys2Proof.Machine.execSatomXor x1 x2 x3 s
  | .satomExch x1 x2 x3 => Sys2Proof.Machine.execSatomExch x1 x2 x3 s
  | .satomCas x1 x2 x3 => Sys2Proof.Machine.execSatomCas x1 x2 x3 s
  | .ldrec x1 x2 => Sys2Proof.Machine.execLdrec x1 x2 s
  | .strec x1 x2 => Sys2Proof.Machine.execStrec x1 x2 s
  | .mkrec x1 x2 => Sys2Proof.Machine.execMkrec x1 x2 s
  | .kmov x1 x2 => Sys2Proof.Machine.execKmov x1 x2 s
  | .fence x1 => Sys2Proof.Machine.execFence x1 s
  | .rfence => Sys2Proof.Machine.execRfence s
  | .pf x1 x2 => Sys2Proof.Machine.execPf x1 x2 s
  | .flush x1 x2 => Sys2Proof.Machine.execFlush x1 x2 s
  | .inval x1 x2 => Sys2Proof.Machine.execInval x1 x2 s
  | .cpy32 x1 x2 x3 x4 => Sys2Proof.Machine.execCpy32 x1 x2 x3 x4 s
  | .stage x1 x2 => Sys2Proof.Machine.execStage x1 x2 s
  | .waitge x1 x2 => Sys2Proof.Machine.execWaitge x1 x2 s
  | .qfence x1 => Sys2Proof.Machine.execQfence x1 s
  | .rdstage x1 => Sys2Proof.Machine.execRdstage x1 s
  | .gbMeet x1 => Sys2Proof.Machine.execGbMeet x1 s
  | .gbPost x1 => Sys2Proof.Machine.execGbPost x1 s
  | .gbAwait x1 => Sys2Proof.Machine.execGbAwait x1 s
  | .gbAwaitPar x1 x2 => Sys2Proof.Machine.execGbAwaitPar x1 x2 s
  | .gbBytes x1 x2 => Sys2Proof.Machine.execGbBytes x1 x2 s
  | .gbMembers x1 x2 => Sys2Proof.Machine.execGbMembers x1 x2 s
  | .mbArm x1 x2 => Sys2Proof.Machine.execMbArm x1 x2 s
  | .mbPost x1 x2 x3 => Sys2Proof.Machine.execMbPost x1 x2 x3 s
  | .mbBytes x1 x2 => Sys2Proof.Machine.execMbBytes x1 x2 s
  | .mbAwait x1 x2 => Sys2Proof.Machine.execMbAwait x1 x2 s
  | .nemit x1 x2 => Sys2Proof.Machine.execNemit x1 x2 s
  | .coll x1 => Sys2Proof.Machine.execColl x1 s
  | .mma x1 x2 x3 x4 => Sys2Proof.Machine.execMma x1 x2 x3 x4 s
  | .mmaSat x1 x2 x3 x4 => Sys2Proof.Machine.execMmaSat x1 x2 x3 x4 s
  | .tzero x1 x2 => Sys2Proof.Machine.execTzero x1 x2 s
  | .tld x1 x2 x3 x4 => Sys2Proof.Machine.execTld x1 x2 x3 x4 s
  | .tst x1 x2 x3 x4 => Sys2Proof.Machine.execTst x1 x2 x3 x4 s
  | .tget x1 x2 x3 => Sys2Proof.Machine.execTget x1 x2 x3 s
  | .tfill x1 x2 x3 => Sys2Proof.Machine.execTfill x1 x2 x3 s
  | .mcommit => Sys2Proof.Machine.execMcommit s
  | .mwait x1 => Sys2Proof.Machine.execMwait x1 s
  | .registerResultWritten x1 x2 => Sys2Proof.Machine.execRegisterResultWritten x1 x2 s
  | .shadowRerunDone x1 x2 x3 => Sys2Proof.Machine.execShadowRerunDone x1 x2 x3 s
  | .columnRecheckDone x1 x2 x3 => Sys2Proof.Machine.execColumnRecheckDone x1 x2 x3 s
  | .selfCheckStep x1 x2 => Sys2Proof.Machine.execSelfCheckStep x1 x2 s
  | .mowingHold x1 => Sys2Proof.Machine.execMowingHold x1 s
  | .evacuationComplete x1 => Sys2Proof.Machine.execEvacuationComplete x1 s
  | .rewritePoint x1 x2 => Sys2Proof.Machine.execRewritePoint x1 x2 s
  | .columnTableRewrite x1 => Sys2Proof.Machine.execColumnTableRewrite x1 s
  | .loadReturn x1 x2 => Sys2Proof.Machine.execLoadReturn x1 x2 s
  | .storeLeavesQueue x1 => Sys2Proof.Machine.execStoreLeavesQueue x1 s
  | .scratchAccessPerformed x1 x2 => Sys2Proof.Machine.execScratchAccessPerformed x1 x2 s
  | .recordReturn x1 x2 => Sys2Proof.Machine.execRecordReturn x1 x2 s
  | .atomicPerformed x1 x2 => Sys2Proof.Machine.execAtomicPerformed x1 x2 s
  | .ifetchFillDone x1 x2 x3 => Sys2Proof.Machine.execIfetchFillDone x1 x2 x3 s
  | .translationWalkDone x1 x2 x3 => Sys2Proof.Machine.execTranslationWalkDone x1 x2 x3 s
  | .sleepTimerLapse x1 => Sys2Proof.Machine.execSleepTimerLapse x1 s
  | .haltBroadcast x1 => Sys2Proof.Machine.execHaltBroadcast x1 s
  | .watchdog x1 => Sys2Proof.Machine.execWatchdog x1 s
  | .warpDrained x1 => Sys2Proof.Machine.execWarpDrained x1 s
  | .arrivalApplied x1 x2 => Sys2Proof.Machine.execArrivalApplied x1 x2 s
  | .writeNotice x1 => Sys2Proof.Machine.execWriteNotice x1 s
  | .rereadInterval x1 => Sys2Proof.Machine.execRereadInterval x1 s
  | .scheduleReadDone x1 => Sys2Proof.Machine.execScheduleReadDone x1 s
  | .copyEntryStart x1 => Sys2Proof.Machine.execCopyEntryStart x1 s
  | .copyHoldRenew x1 => Sys2Proof.Machine.execCopyHoldRenew x1 s
  | .copyDataLanded x1 => Sys2Proof.Machine.execCopyDataLanded x1 s
  | .cpy32Complete x1 => Sys2Proof.Machine.execCpy32Complete x1 s
  | .operandLatchTake x1 x2 => Sys2Proof.Machine.execOperandLatchTake x1 x2 s
  | .gatherDone x1 x2 => Sys2Proof.Machine.execGatherDone x1 x2 s
  | .columnChunkGrant x1 => Sys2Proof.Machine.execColumnChunkGrant x1 s
  | .columnChunkDone x1 x2 => Sys2Proof.Machine.execColumnChunkDone x1 x2 s
  | .engineIdle x1 => Sys2Proof.Machine.execEngineIdle x1 s
  | .accMovePerformed x1 => Sys2Proof.Machine.execAccMovePerformed x1 s
  | .dispatchSelect => Sys2Proof.Machine.execDispatchSelect s
  | .quantumExpiry x1 => Sys2Proof.Machine.execQuantumExpiry x1 s
  | .evictReturnAreaReady x1 => Sys2Proof.Machine.execEvictReturnAreaReady x1 s
  | .diversionEntryFree x1 x2 => Sys2Proof.Machine.execDiversionEntryFree x1 x2 s
  | .evictionComplete x1 => Sys2Proof.Machine.execEvictionComplete x1 s
  | .divertedArrival x1 x2 => Sys2Proof.Machine.execDivertedArrival x1 x2 s
  | .gleaningComplete x1 => Sys2Proof.Machine.execGleaningComplete x1 s
  | .migrationDecision x1 x2 => Sys2Proof.Machine.execMigrationDecision x1 x2 s
  | .migrationStreamEnd x1 => Sys2Proof.Machine.execMigrationStreamEnd x1 s
  | .haltComplete x1 => Sys2Proof.Machine.execHaltComplete x1 s
  | .trapQueueSlotFree x1 => Sys2Proof.Machine.execTrapQueueSlotFree x1 s
  | .packetNop x1 => Sys2Proof.Machine.execPacketNop x1 s
  | .gridLaunch x1 => Sys2Proof.Machine.execGridLaunch x1 s
  | .nodeBind x1 => Sys2Proof.Machine.execNodeBind x1 s
  | .nodeUnbind x1 => Sys2Proof.Machine.execNodeUnbind x1 s
  | .nodeUnbindComplete x1 x2 => Sys2Proof.Machine.execNodeUnbindComplete x1 x2 s
  | .indirectBuffer x1 => Sys2Proof.Machine.execIndirectBuffer x1 s
  | .waitPacket x1 => Sys2Proof.Machine.execWaitPacket x1 s
  | .signalPacket x1 => Sys2Proof.Machine.execSignalPacket x1 s
  | .recordFence x1 => Sys2Proof.Machine.execRecordFence x1 s
  | .contextFence x1 => Sys2Proof.Machine.execContextFence x1 s
  | .queueWaitSatisfied x1 => Sys2Proof.Machine.execQueueWaitSatisfied x1 s
  | .launchComplete x1 x2 => Sys2Proof.Machine.execLaunchComplete x1 x2 s
  | .nodeRecordOffer x1 x2 => Sys2Proof.Machine.execNodeRecordOffer x1 x2 s
  | .nodeTimerLapse x1 x2 => Sys2Proof.Machine.execNodeTimerLapse x1 x2 s
  | .batchFreeFormation x1 x2 => Sys2Proof.Machine.execBatchFreeFormation x1 x2 s
  | .create tenant block => Sys2Proof.Machine.execCreate tenant block s
  | .destroy x1 => Sys2Proof.Machine.execDestroy x1 s
  | .destroyComplete x1 => Sys2Proof.Machine.execDestroyComplete x1 s
  | .suspend x1 => Sys2Proof.Machine.execSuspend x1 s
  | .suspendComplete x1 => Sys2Proof.Machine.execSuspendComplete x1 s
  | .resume x1 => Sys2Proof.Machine.execResume x1 s
  | .queueAdd tenant block => Sys2Proof.Machine.execQueueAdd tenant block s
  | .queueStart tenant block => Sys2Proof.Machine.execQueueStart tenant block s
  | .queueStop tenant block => Sys2Proof.Machine.execQueueStop tenant block s
  | .queueReset tenant block => Sys2Proof.Machine.execQueueReset tenant block s
  | .groupResume tenant block edits => Sys2Proof.Machine.execGroupResume tenant block edits s
  | .groupAbort x1 => Sys2Proof.Machine.execGroupAbort x1 s
  | .setQuantum tenant block => Sys2Proof.Machine.execSetQuantum tenant block s
  | .migrate tenant block => Sys2Proof.Machine.execMigrate tenant block s
  | .migrateComplete x1 => Sys2Proof.Machine.execMigrateComplete x1 s
  | .pageBringIn x1 x2 x3 => Sys2Proof.Machine.execPageBringIn x1 x2 x3 s
  | .invalidationRequest x1 x2 => Sys2Proof.Machine.execInvalidationRequest x1 x2 s
  | .invalidationComplete x1 => Sys2Proof.Machine.execInvalidationComplete x1 s
  | .dirtySectorWriteback x1 x2 => Sys2Proof.Machine.execDirtySectorWriteback x1 x2 s
  | .channelRetirement x1 => Sys2Proof.Machine.execChannelRetirement x1 s
  | .granuleCopyStart => Sys2Proof.Machine.execGranuleCopyStart s
  | .granuleCopyEnd => Sys2Proof.Machine.execGranuleCopyEnd s
  | .sliceRetirement x1 => Sys2Proof.Machine.execSliceRetirement x1 s
  | .scrubSector x1 x2 => Sys2Proof.Machine.execScrubSector x1 x2 s
  | .stileRelease x1 x2 => Sys2Proof.Machine.execStileRelease x1 x2 s
  | .hostAccess x1 x2 x3 x4 => Sys2Proof.Machine.execHostAccess x1 x2 x3 x4 s
  | .linkId x1 => Sys2Proof.Machine.execLinkId x1 s
  | .portEnable x1 => Sys2Proof.Machine.execPortEnable x1 s
  | .portTrained x1 x2 x3 => Sys2Proof.Machine.execPortTrained x1 x2 x3 s
  | .portRetrain x1 x2 => Sys2Proof.Machine.execPortRetrain x1 x2 s
  | .portDisable x1 => Sys2Proof.Machine.execPortDisable x1 s
  | .portDrained x1 => Sys2Proof.Machine.execPortDrained x1 s
  | .strandRetire x1 x2 => Sys2Proof.Machine.execStrandRetire x1 x2 s
  | .flitReceive x1 x2 x3 x4 => Sys2Proof.Machine.execFlitReceive x1 x2 x3 x4 s
  | .flitNak x1 x2 => Sys2Proof.Machine.execFlitNak x1 x2 s
  | .remoteOperation x1 => Sys2Proof.Machine.execRemoteOperation x1 s
  | .collEntryPerform x1 => Sys2Proof.Machine.execCollEntryPerform x1 s
  | .collPeerData x1 x2 x3 x4 => Sys2Proof.Machine.execCollPeerData x1 x2 x3 x4 s
  | .collComplete x1 => Sys2Proof.Machine.execCollComplete x1 s
  | .bringUp x1 => Sys2Proof.Machine.execBringUp x1 s
  | .mailboxMessage x1 x2 => Sys2Proof.Machine.execMailboxMessage x1 x2 s
  | .powerSample x1 => Sys2Proof.Machine.execPowerSample x1 s
  | .attestRequest => Sys2Proof.Machine.execAttestRequest s
  | .diagRetirementRecords => Sys2Proof.Machine.execDiagRetirementRecords s
  | .diagCoreDump operand => Sys2Proof.Machine.execDiagCoreDump operand s
  | .diagRevive operand pass => Sys2Proof.Machine.execDiagRevive operand pass s
  | .diagVacate operand => Sys2Proof.Machine.execDiagVacate operand s
  | .diagVacateEnd operand => Sys2Proof.Machine.execDiagVacateEnd operand s
  | .diagSlotTable => Sys2Proof.Machine.execDiagSlotTable s
  | .eventCauseClear x1 => Sys2Proof.Machine.execEventCauseClear x1 s
  | .tenantSet tenant record => Sys2Proof.Machine.execTenantSet tenant record s
  | .tenantClear tenant => Sys2Proof.Machine.execTenantClear tenant s
  | .keyLoad key blob => Sys2Proof.Machine.execKeyLoad key blob s
  | .keyClear key => Sys2Proof.Machine.execKeyClear key s
  | .linkGrant record => Sys2Proof.Machine.execLinkGrant record s
  | .linkRevoke record => Sys2Proof.Machine.execLinkRevoke record s
  | .registerWrite x1 x2 => Sys2Proof.Machine.execRegisterWrite x1 x2 s
  | .illPacket => Sys2Proof.Machine.execIllPacket s
  | .illOp x1 => Sys2Proof.Machine.execIllOp x1 s
  | .futureOp x1 => Sys2Proof.Machine.execFutureOp x1 s
  | .scratchPageSwitchDone x1 x2 => Sys2Proof.Machine.execScratchPageSwitchDone x1 x2 s
  | .writeBackLanded x1 => Sys2Proof.Machine.execWriteBackLanded x1 s
  | .powerOff => Sys2Proof.Machine.execPowerOff s
  | .hostErrorQueueSlotFree x1 => Sys2Proof.Machine.execHostErrorQueueSlotFree x1 s
  | .unlistedCommandCode x block => Sys2Proof.Machine.execUnlistedCommandCode x block s
  | .splitLaunchArrival x1 x2 => Sys2Proof.Machine.execSplitLaunchArrival x1 x2 s
  | .targetCompletionReport x1 x2 => Sys2Proof.Machine.execTargetCompletionReport x1 x2 s

end Sys2Proof.Machine
end

