-- ==== Sys2Proof/Machine/Issue.lean ====
section
/-!
DEFINITION. Issue: the checks of a packet's header (03_packet.md R74..R78, R86, R89), fetching a packet (R96, R97),
issuing a slot or a chained set (R78..R82), and the choice of the warp (04_warp.md R110).
-/
namespace Sys2Proof.Machine

/-! ### The opcode map's columns (R90) -/

/-- The pipes of R78. -/
inductive Pipe where
  | scalar | vector | transc | memory | tile
  deriving DecidableEq, Repr

/-- The number that a busy list gives a pipe. -/
def Pipe.code : Pipe → Nat
  | .scalar => 0 | .vector => 1 | .transc => 2 | .memory => 3 | .tile => 4

/-- The minor of the formats with five bits at [25:21]. -/
def minorOf (w : Word) : Nat := fx w 21 5

/-- The pipe that a word's major, and where the map says so its minor, issues to; none for a reserved or future major, and an
unassigned minor of 0x20 and 0x2B goes with the greater part of its major (R78) (DESIGN CHOICE, log entry 97). -/
def pipeOf (w : Word) : Option Pipe :=
  let m := fx w 26 6
  if m ≤ 0x07 then some .scalar
  else if m = 0x16 ∨ m = 0x17 then some .transc
  else if m ≤ 0x1B then some .vector
  else if m = 0x20 then (if minorOf w ≤ 1 then some .scalar else some .vector)
  else if m = 0x21 ∨ m = 0x22 then some .vector
  else if 0x23 ≤ m ∧ m ≤ 0x2A then some .memory
  else if m = 0x2B then (if minorOf w ≤ 3 then some .scalar else some .memory)
  else if m = 0x2C then some .memory
  else if 0x30 ≤ m ∧ m ≤ 0x32 then some .tile
  else none

/-- The guard class of a word: true for the lane class, under which a word of no family is read too, an unassigned minor of 0x2A
apart (R75) (DEDUCED, log entry 26). -/
def laneClass (w : Word) : Bool :=
  let m := fx w 26 6
  if m ≤ 0x07 then false
  else if m = 0x20 then decide (2 ≤ minorOf w)
  else if m = 0x28 ∨ m = 0x29 ∨ m = 0x2B ∨ m = 0x32 then false
  else if m = 0x2A then fx w 0 4 == 0
  else if m = 0x2C then minorOf w != 1
  else true

/-- The word has an immediate field with escapes, in its bits [6:0] (R86, R90); a word of an unassigned minor has none
(DEDUCED, log entry 98). -/
def hasImm (w : Word) : Bool :=
  let m := fx w 26 6
  (m == 0x00 && decide (3 ≤ minorOf w) && decide (minorOf w ≤ 6)) || (m == 0x02 && decide (minorOf w ≤ 15)) ||
  (m == 0x03 && fx w 21 1 == 1 && decide (fx w 22 4 ≤ 9)) || (m == 0x04 && minorOf w == 1) ||
  (m == 0x07 && minorOf w == 5 && fx w 13 1 == 1) || (m == 0x0A && decide (minorOf w ≤ 13)) || (m == 0x11 && fx w 25 1 == 1)

/-- The registers that a destination field of n registers names. -/
def destRun (r : Nat → RegId) (first n : Nat) : List RegId := (List.range n).map fun i => r (first + i)

/-- The destination registers that a word names in its fields, partners of pairs, triples and quads counted (R78, R87)
(DEDUCED, log entry 19); the field of an unassigned minor as its major has it (DESIGN CHOICE, log entry 97). -/
def destOf (w : Word) : List RegId :=
  let m := fx w 26 6
  let n := minorOf w
  let d := fx w 14 7
  let v (k : Nat) := destRun .v d k
  let s (k : Nat) := destRun .s d k
  if m = 0x01 then s (if 16 ≤ n then 2 else 1)
  else if m = 0x02 ∨ m = 0x04 then s 1
  else if m = 0x03 then [.c (fx w 17 3)]
  else if m = 0x07 then
    (if n = 0 then s (if stateReg64 (fx w 0 7) then 2 else 1) else if n = 2 ∨ n = 6 then s 3 else if n = 7 then [.p (fx w 14 4)] else [])
  else if m = 0x08 then v (if 14 ≤ n then 2 else 1)
  else if m = 0x0B then v (if 5 ≤ n then 2 else 1)
  else if m = 0x0D ∨ m = 0x14 then [.p (fx w 17 4)]
  else if m = 0x0E then (if n ≤ 7 then [.p (fx w 14 4)] else v 1)
  else if m = 0x15 ∨ m = 0x17 then destRun .v (fx w 7 7) 1
  else if m = 0x19 then (if n ≤ 1 then [.c (fx w 14 3)] else if n = 2 then s 3 else v 1)
  else if m = 0x1A then (if n = 2 then [.p (fx w 14 4)] else v 1)
  else if m = 0x20 then (if n = 2 then (if fx w 7 7 = 0 then v 1 else [.p (fx w 14 4)]) else [])
  else if m = 0x21 then (if n ≤ 7 then v 1 else [.p (fx w 14 4)])
  else if 0x08 ≤ m ∧ m ≤ 0x1B ∨ m = 0x22 then v 1
  else if m = 0x23 then (if fx w 25 1 = 0 then destRun .v (fx w 0 7) 1 else [])
  else if m = 0x24 then destRun .v (fx w 0 7) 1
  else if m = 0x26 then (if fx w 22 4 ≤ 7 then destRun .v (fx w 0 7) 1 else [])
  else if m = 0x27 then (if n = 5 then v 2 else if n ≤ 4 ∨ 16 ≤ n then v 1 else [])
  else if m = 0x28 then (if n = 1 then [] else [.k (fx w 14 5)])
  else if m = 0x2A then (if fx w 0 4 = 4 then destRun .s (fx w 11 7) 1 else [])
  else if m = 0x2B then (if n = 5 then s 1 else [])
  else if m = 0x31 then (if fx w 14 4 = 3 then destRun .v (fx w 7 7) (2 ^ (fx w 18 4)) else [])
  else []

end Sys2Proof.Machine

namespace Sys2Proof
open Machine

/-! ### The header checks (R74, R75, R78, R86, R89) -/

/-- The literal words of a packet, lowest slot first (R86). -/
def Packet.literals (p : Packet) : List Word := ((List.range 3).filter p.isLiteral).map p.slot

/-- A guard field passes for a word (R75). -/
def guardFieldOk (g : BitVec 5) (w : Word) : Bool :=
  let sel := fx (g.setWidth 32) 0 4
  decide (sel ≤ 12) && !(sel == 12 && g.getLsbD 4) && (laneClass w || decide (sel ≤ 7) || sel == 12)

/-- One slot passes: a literal with zero guard and lookahead, or an instruction with a good guard field and the literal
that its immediate asks for (R74, R75, R86). -/
def Packet.slotOk (p : Packet) (i : Nat) : Bool :=
  if p.isLiteral i then p.guard i == 0 && p.lookahead i == 0
  else guardFieldOk (p.guard i) (p.slot i) && (!hasImm (p.slot i) || immOk ((p.slot i).extractLsb' 0 7) p.literals)

/-- Slots i and i + 1 are chained (R73). -/
def Packet.chain (p : Packet) (i : Nat) : Bool :=
  if i = 0 then (decodeHeader p.header).c01 else if i = 1 then (decodeHeader p.header).c12 else false

/-- Two slots of a chained set agree: different pipes and no destination register in common (R78). -/
def pairOk (a b : Word) : Bool :=
  (match pipeOf a, pipeOf b with | some x, some y => x != y | _, _ => true) && !meets (destOf a) (destOf b)

/-- The packet's header is well formed (R74, R75, R78, R86). -/
def Packet.ok (p : Packet) : Bool :=
  !(p.isLiteral 0 && p.isLiteral 1 && p.isLiteral 2) && (List.range 3).all p.slotOk &&
  (!p.chain 0 || (!p.isLiteral 0 && !p.isLiteral 1 && pairOk p.slot0 p.slot1)) &&
  (!p.chain 1 || (!p.isLiteral 1 && !p.isLiteral 2 && pairOk p.slot1 p.slot2)) &&
  (!(p.chain 0 && p.chain 1) || pairOk p.slot0 p.slot2)

/-- The first instruction slot of a packet from an index on. -/
def Packet.firstFrom (p : Packet) (i : Nat) : Option Nat := (List.range 3).find? fun j => decide (i ≤ j) && !p.isLiteral j

/-- The slots of the set that starts at a slot (R78). -/
def Packet.setFrom (p : Packet) (i : Nat) : List Nat :=
  if p.chain i then (if p.chain (i + 1) then [i, i + 1, i + 2] else [i, i + 1]) else [i]

/-- The address of slot i of the packet at a. -/
def slotAddr (a i : Nat) : Nat := a + 4 + 4 * i

/-- Slot 0 of the packet after the one at a (R72, R80). -/
def nextPacket (a : Nat) : Nat := (a + 16) % 2 ^ 48 + 4

/-- The address that follows a set whose last slot is i: the next instruction slot, or the next packet. -/
def Packet.after (p : Packet) (a i : Nat) : Nat :=
  match p.firstFrom (i + 1) with
  | some j => slotAddr a j
  | none => nextPacket a

end Sys2Proof

namespace Sys2Proof.Machine

/-! ### Fetch (R96, R97) -/

/-- What a fetch answers. -/
inductive Fetched where
  | packet (p : Packet) (s : State)
  | stall (s : State)
  | trap (c : Cause) (s : State)

/-- The packet at an address for the warp in the issue stage: the one that it has fetched already, one of the core's
instruction cache, or a miss, which starts a fill and stalls, or traps where the line cannot be read. -/
def State.fetch (s : State) (core a : Nat) : Fetched :=
  let held := match s.w.packet with | some (b, p) => if b = a then some p else none | none => none
  match held with
  | some p => .packet p s
  | none =>
    let ctx := s.g.ref.ctx
    let va := a / 128 * 128
    match (s.coreAt core).icache.find? fun l => l.ctx == ctx && l.va == va with
    | some l =>
      let p := packetOf ((l.data.drop (a - va)).take 16)
      .packet p { (s.updCore core fun k => { k with icache := codePut k.icache l }) with w := { s.w with packet := some (a, p) } }
    | none =>
      if (s.coreAt core).ifills.contains (ctx, va) then .stall s
      else match s.codeLine core ctx va with
        | (.ok _ _, s1) => .stall (s1.updCore core fun k => k.startFills ctx [va])
        | (.away, _) => .stall s
        | (.fail c, s1) => .trap c s1

/-! ### One slot or one chained set (R78..R82) -/

/-- A set to be issued: its packet, its address, the indices of its slots, the address that follows it, the core, and the
state before it. -/
structure SetCtx where
  p : Packet
  a : Nat
  slots : List Nat
  next : Nat
  core : Nat
  before : State

/-- What a late precise trap of the warp's next set puts it back to (R43, R191). -/
def Warp.undo (w : Warp) : Undo :=
  { clk0 := w.clk, seq0 := w.nextSeq, regs := w.regs, status := w.status, cgOpen := w.cgOpen, hold := w.hold, meeting := w.meeting, deeds := [] }

/-- The issue stage set up for slot i of a set (R79, R82): the sources are the registers before the set. -/
def State.enter (s : State) (c : SetCtx) (i : Nat) : State :=
  { s with
    iss := { at_ := slotAddr c.a i, next := c.next, guard := c.p.guard i, la := c.p.lookahead i, lits := c.p.literals,
             setNo := c.before.w.setNo, chained := decide (1 < c.slots.length), trapped := false, stalled := false, taken := false,
             drawSet := s.iss.drawSet, back := c.before.w.undo, core := c.core,
             word := c.p.slot i } }

/-- A set that has issued: a warp that was stalled is ready again, and it is the one that issued last (R108, R110). -/
def State.issued (s : State) : State :=
  { s with w := { s.w with status := if s.w.status = .stalled then .ready else s.w.status, lastIssue := s.issueNo },
           issueNo := s.issueNo + 1 }

/-- A trap of a member prevents the whole set from writing (R79): the warp stops at the member, the rest of the state is as
it was before the set, but for what a failing read has done to the sector that it met (R390). -/
def SetCtx.trapBack (c : SetCtx) (t : State) : State :=
  if c.slots.length = 1 then t
  else
    let s := c.before
    { s with iss := t.iss, w := s.w.stop t.iss.at_ s.w.ownSkid,
             g := { s.g with status := t.g.status, trap := t.g.trap, warps := t.g.warps, task := t.g.task },
             poison := t.poison, flaws := t.flaws, channels := t.channels, switor := t.switor }

/-- A set that stalls has not issued: the state is as it was before it, but for what gb.meet has posted, and a warp whose gb.meet has
posted still has (R109, R319). -/
def SetCtx.stallBack (c : SetCtx) (t : State) : State :=
  if c.slots.length = 1 then t
  else
    let s := c.before
    let g := if t.w.meeting && !s.w.meeting then { s.g with posted := t.g.posted, bars := t.g.bars } else s.g
    { s with iss := t.iss, g := g, w := { s.w with status := .stalled, meeting := s.w.meeting || t.w.meeting } }

/-- What a set has done to the expected bytes and the members of the group's barriers. -/
def SetCtx.deeds (c : SetCtx) (t : State) : List Deed :=
  (List.range 16).filterMap fun b =>
    let old := c.before.g.bar b
    let new_ := t.g.bar b
    if old.trans = new_.trans ∧ old.members = new_.members then none else some { bar := b, old := old, new_ := new_ }

/-- A chained set has issued: a late trap of it is to undo what it has done to barriers (R43, R79), and under the limb count that it
leaves the carry words of c ≥ 96/n are zero (R192) (DEDUCED, log entry 100). -/
def SetCtx.settle (c : SetCtx) (t : State) : State :=
  let ds := c.deeds t
  let no := c.before.w.setNo
  let n := t.w.regs.chn
  let keep (x : Undo) : Undo := { x with deeds := ds }
  { t with w := { t.w with
      windows := t.w.windows.map fun x => if x.set = no then { x with undo := keep x.undo } else x,
      entries := t.w.entries.map fun e => if e.set = no then { e with back := e.back.map keep } else e,
      regs := { t.w.regs with carry := Vector.ofFn fun i : Fin 48 => if n = 0 ∨ 96 / n ≤ i.val then 0 else t.w.regs.carry[i] } } }

/-- The end of a set: a chained set that leaves a chain split traps at the slot that wrote the mask or bound (R190, R191). A set whose
scalar slot its guard suppresses counts as issued too (R76, R110) (DEDUCED, log entry 99). -/
def SetCtx.close (c : SetCtx) (mark : Option Nat) (t : State) : State :=
  let r := t.w.regs
  if c.slots.length = 1 then t.issued
  else if r.chn = 0 ∨ splitChains r.chn r.mask = 0 then (c.settle t).issued
  else
    match mark with
    | none => (c.settle t).issued
    | some at_ =>
      let s := { c.before with iss := { t.iss with at_ := at_ } }
      c.trapBack (takeTrap (s.splitTrap r.chn (splitChains r.chn r.mask)) s)

/-- A next state changed by what the step adds. -/
def mapNext (r : Result) (f : State → State) : Result :=
  match r with
  | .next s => .next (f s)
  | .fault x => .fault x
  | .refused x => .refused x

/-- The slots of a set in order, each executed as the instruction that its word is; `mark` is the first that changed the
mask or the limb count. A trap or a stall ends the set. True: the set has issued or trapped. -/
noncomputable def SetCtx.run (c : SetCtx) : List Nat → Option Nat → State → Bool × Result
  | [], mark, t => (true, .next (c.close mark t))
  | i :: rest, mark, t =>
    match exec (instrOf (c.p.slot i)) (t.enter c i) with
    | .next u =>
      if u.iss.trapped then (true, .next (c.trapBack u))
      else if u.iss.stalled then (false, .next (c.stallBack u))
      else
        let wrote := u.w.regs.mask != t.w.regs.mask || u.w.regs.chn != t.w.regs.chn
        c.run rest (if wrote then mark.orElse fun _ => some (slotAddr c.a i) else mark) u
    | .fault x => (true, .fault x)
    | .refused x => (true, .refused x)

/-- The warp traps at a fetch: no slot of the packet issues, the warp's PC stays, and the record gives the packet's address as the
stop PC too (R97, R427) (DEDUCED, log entry 13). -/
def State.trapAt (s : State) (t : TrapInfo) : State :=
  let u := takeTrap t s
  { u with w := { u.w with pc := s.w.pc } }

/-- A pipe of a partition is held: the vector and the transcendental one for a rewrite point, and those that a unit under a held check
step serves (R35, R37). -/
def Partition.holds (p : Partition) (x : Pipe) : Bool :=
  let lanes := x == .vector || x == .transc
  (p.rewriting && lanes) ||
  p.mowing.any fun u => match u.1 with
    | .lane => x == .vector
    | .quad => x == .transc
    | .bank => lanes || x == .memory || x == .tile
    | .scalar => x == .scalar
    | _ => false

/-- The pipes that slots of a packet issue to. -/
def pipesOf (p : Packet) (slots : List Nat) : List Pipe := slots.filterMap fun j => pipeOf (p.slot j)

/-- The packets that a warp has begun since a halt broadcast, once it takes the packet at an address (R309). -/
def Warp.begun (w : Warp) (a : Nat) : Nat :=
  if !w.bcast then 0
  else if w.skidPackets == 0 || w.packet.map (·.1) != some a then w.skidPackets + 1 else w.skidPackets

/-- The warp in the issue stage tries to issue its next slot or chained set on a core. False: it stalls, or a pipe that it
needs is busy, and then it is ready, or a halt broadcast leaves it no slot or packet more (R109, R110, R309, R310). -/
noncomputable def State.tryIssue (s : State) (core : Nat) (busy : List Nat) : Bool × Result :=
  let a := s.w.pc / 16 * 16
  let begun := s.w.begun a
  if 4 < begun then (false, .next s)
  else match s.fetch core a with
  | .stall s1 => (false, .next { s1 with w := { s1.w with status := .stalled } })
  | .trap c s1 =>
    let s2 := { s1 with w := { s1.w with status := .stalled } }
    (true, .next (s2.trapAt { s2.trapOf c with pc := a, addr := some a }))
  | .packet p s0 =>
    let s1 := { s0 with w := { s0.w with skidPackets := begun } }
    let ready := { s1.w with status := if s1.w.status = .stalled then .ready else s1.w.status }
    if !p.ok then
      (true, mapNext (exec .illPacket { s1 with w := ready, iss := { s1.iss with at_ := a + 4, core := core } }) fun t => t)
    else
      match p.firstFrom ((s1.w.pc - a - 4) / 4) with
      | none => (false, .next { s1 with w := { s1.w with pc := nextPacket a } })
      | some i =>
        let slots := p.setFrom i
        let pipes := pipesOf p slots
        if s1.w.bcast && decide (12 < s1.w.skid + slots.length) then (false, .next s1)
        else if pipes.any ((s1.coreAt core).parts.getD s1.w.part Partition.fresh).holds then
          (false, .next { s1 with w := { s1.w with status := .stalled } })
        else
          let next := p.after a (slots.getLastD i)
          let s2 := { s1 with w := { ready with pc := next, setNo := s1.w.setNo + 1 }, iss := { s1.iss with drawSet := false } }
          let c : SetCtx := { p := p, a := a, slots := slots, next := next, core := core,
                              before := { s2 with w := { s2.w with pc := slotAddr a i } } }
          let r := c.run slots none s2
          if r.1 && pipes.any fun x => busy.contains x.code then (false, .next { s1 with w := ready }) else r

/-! ### The choice of the warp (R108, R110) -/

/-- The warp may issue: it is ready or stalled, and its group is resident, or halting with the broadcast still on its way. -/
def mayIssue (g : Group) (w : Warp) : Bool :=
  (w.status == .ready || w.status == .stalled) && (g.status == .resident || (g.status == .halting && w.bcast))

/-- The warps that a partition may issue from, with their last issue. -/
def State.candidates (s : State) (core part : Nat) : List (Nat × WRef) :=
  s.groups.flatMap fun g =>
    if g.core == core then
      (g.warps.filter fun w => w.part == part && mayIssue g w).map fun w => (w.lastIssue, { g := g.ref, w := w.wid })
    else []

/-- A pair put into a list that rises by its first part. -/
def insertByNo (x : Nat × WRef) : List (Nat × WRef) → List (Nat × WRef)
  | [] => [x]
  | y :: r => if x.1 ≤ y.1 then x :: y :: r else y :: insertByNo x r

/-- The candidates, the one that issued least recently first (R110). -/
def State.ranked (s : State) (core part : Nat) : List WRef :=
  ((s.candidates core part).foldr insertByNo []).map (·.2)

/-- The first of the warps that can issue does so; those that stall before it are marked so (R108, R110). -/
noncomputable def State.issueFrom (s : State) (core : Nat) (busy : List Nat) : List WRef → Result
  | [] => .next s
  | r :: rest =>
    match s.load r with
    | none => s.issueFrom core busy rest
    | some t =>
      match t.tryIssue core busy with
      | (true, o) => mapNext o State.park
      | (false, .next u) => u.park.issueFrom core busy rest
      | (false, o) => o

/-- A partition's turn to issue (DESIGN CHOICE, log entry 15). -/
noncomputable def State.issue (s : State) (core part : Nat) (busy : List Nat) : Result := s.issueFrom core busy (s.ranked core part)

/-! ### What moves next -/

/-- The next turn: the head of the agenda, or a free one (log entry 1). -/
def State.turn (s : State) : Turn :=
  match s.agenda with
  | t :: _ => t
  | [] => Config.freeTurn s.tick

/-- The state as the turn finds it: the agenda moved on, the free values numbered on, and time passed (log entries 1, 7); warps that a
page without a place has failed are done with it (R378). -/
def State.turned (s : State) : State :=
  { s with agenda := s.agenda.tail, tick := s.tick + 1, time := s.time + (Config.elapsed s.tick).setWidth 64,
           noPage := s.noPage.filterMap fun x =>
             let left := x.fails.filter fun r => !x.telling.contains r
             if left.isEmpty then none else some { x with fails := left, telling := [] },
           links := { s.links with wrote := [] } }

/-- A step of the device: a constructor that is no instruction word and no fault of one. -/
def isEvent (i : Instr) : Bool := (encode i).isNone && i != .illPacket

/-- The instruction of a command that has waited, by its code (R365). -/
noncomputable def Waiting.instr (x : Waiting) : Option Instr :=
  match x.code with
  | 2 => some (.destroy x.cmd)
  | 3 => some (.suspend x.cmd)
  | 4 => some (.resume x.cmd)
  | 5 => some (.queueAdd x.cmd.tenant x.cmd.block)
  | 6 => some (.queueStart x.cmd.tenant x.cmd.block)
  | 7 => some (.queueReset x.cmd.tenant x.cmd.block)
  | 8 => some (.groupResume x.cmd.tenant x.cmd.block x.edits)
  | 9 => some (.groupAbort x.cmd)
  | 11 => some (.migrate x.cmd.tenant x.cmd.block)
  | 12 => some (.queueStop x.cmd.tenant x.cmd.block)
  | _ => none

/-- What a turn does. -/
noncomputable def State.take (s : State) (t : Turn) : Result :=
  match t with
  | .issue core part busy => if core < 192 then s.issue core part busy else .fault .noSuchCore
  | .event i => if isEvent i then exec i s else .refused .notAnEvent
  | .upset u => .next (s.upset u)
  | .copyRow u => .next (s.copyRow u)
  | .mail msg => .next (s.sendMail msg)
  | .command x => (x.instr.map fun i => exec i s).getD (.next s)

/-! ### A word placed where the next step fetches it -/

/-- The core, context, launch and address at which withFetchWord places a program. -/
def probeRef : GRef := { ctx := 0, seq := 1, lgi := 0 }

/-- The packet that holds a word in slot 0, its header all defaults, and no-operations behind it. -/
def probePacket (w : Nat) : Packet :=
  { header := plainHeader, slot0 := bytesWord (natBytes 4 w), slot1 := 0, slot2 := 0 }

/-- The group of one warp that runs it: 128 vector registers, at slot 0 of the packet at 0x1000 (DESIGN CHOICE, log entry 8). -/
def probeGroup : Group :=
  let d := { Desc.zero with vregs := 128, warps := 1, entry := 0x1000 }
  { Group.fresh probeRef d with
    dx := 1, dy := 1, dz := 1, status := .resident,
    warps := [{ Warp.fresh 0 128 0x1004 with regs := Regs.zero.maskSet (BitVec.allOnes 96) }] }

/-- The bytes of the code line that holds the packet. -/
def probeLine (w : Nat) : CodeLine :=
  { ctx := 0, va := 0x1000, data := packetBytes (probePacket w) ++ List.replicate 112 0 }

end Sys2Proof.Machine
end

