-- ==== Sys2Proof/Machine/Step.lean ====
section
/-!
DEFINITION. One step of the device, and the placing of a word where the next step runs it.
-/
namespace Sys2Proof.Machine

/-- One step: the next turn of the device. -/
noncomputable def step (s : State) : Host.Outcome State Fault Refusal := s.turned.take s.turn

/-- The state with an instruction stored where the next step fetches it: a group of one warp, resident on core 0, whose
packet the core's instruction cache holds, and the turn of its partition next (the log entry on how a program comes to
run). -/
def State.withFetchWord (s : State) (nbits w : Nat) : State :=
  { s with
    groups := probeGroup :: s.groups.filter fun g => g.ref != probeRef && !(g.core == 0 && g.onCore),
    cores := s.cores.modify 0 fun k => { k with icache := codePut k.icache (probeLine (w % 2 ^ nbits)) },
    agenda := .issue 0 0 [] :: s.agenda }

end Sys2Proof.Machine
end

