-- ==== Sys2Proof/Safety.lean ====
section
/-!
DEFINITION. What a safe step and a sound state are: the terms that the statements use.
-/
namespace Sys2Proof.Machine

/-- The step ends in a next state. -/
def Completes (s : State) : Prop := ∃ t, step s = .next t

/-- The invariant of memory: the canonical form of the local storage. -/
def State.MemOk (s : State) : Prop := Memory.wf s.mem = true

/-- Nothing keeps or turns away a slot that uses u: the literal that its immediate asks for is there (R86), its
fields are well formed (R87, R89, R94), lookahead 15 stands on an instruction with a path (R84), its registers lie
below nregs (R87), no result is waited for and no rfence, flush or inval holds the warp (R82, R228, R230), its scalar
guard holds (R76), no lookahead window or pending register conflicts (R83, R84), its guard splits no bound chain
(R190), its path's counter is below 63 (R112), no fence or acquire holds it (R220, R227), and ECC can correct the register words
that it reads (R33). -/
structure Free (u : Use) (s : State) : Prop where
  literal : ∀ f, u.imm = some f → immOk f s.iss.lits = true
  fields : u.wf = true
  lookahead : s.iss.la = 15 → u.path.isSome = true
  registers : u.vtop ≤ s.w.nregs
  results : awaitsResult s = false
  cache : s.w.hold.stopsAll = false
  guard : u.lane = false → guardBit s.iss.guard s.src = true
  windows : laConflict (u.allReads s.iss.guard) u.writes s = false
  chains : u.lane = true → s.src.chn ≠ 0 → guardSplits s.src.chn s.src.mask s.active = 0
  room : ∀ p, u.path = some p → s.w.counter p < 63
  fence : u.mem = true → s.w.hold = .none
  words : badLanes u s = []

/-- Instruction i completes with the effect t: where nothing keeps or turns away its slot, and the effect leaves no
chain split (R190), exec answers a next state, which is t with the slot retired (R81, R82). -/
def Retires (i : Instr) (u : Use) (s t : State) : Prop :=
  Free u s → s.iss.chained = true ∨ leavesSplit u t = false → exec i s = .next (retire u s t)

/-- Instruction i raises the precise trap x: where nothing keeps or turns away its slot, exec answers a next state, in
which the trap is taken (R309). -/
def Traps (i : Instr) (u : Use) (s : State) (x : TrapInfo) : Prop := Free u s → exec i s = .next (takeTrap x s)

/-- Instruction i stalls with the effect t: where nothing keeps or turns away its slot, exec answers a next state, in which
the slot has not issued (R109). -/
def Stalls (i : Instr) (u : Use) (s t : State) : Prop := Free u s → exec i s = .next (holdSlot t)

/-- What a lane fails with as its address is formed, if it fails: its cause and its address (R221). -/
def LaneAddr.failure : LaneAddr → Option (Cause × Nat)
  | .bad c va => some (c, va)
  | _ => none

/-- Of the causes of `order`, c is the first that an active lane fails: m marks the active lanes that fail it, and va is the address of
the lowest of them (R221, R226). -/
structure FirstFails (order : List Cause) (act : LaneMask) (fail : Nat → Option (Cause × Nat)) (c : Cause) (m : LaneMask) (va : Nat) : Prop where
  ranked : ∃ before after, order = before ++ c :: after ∧ ∀ x ∈ before, ∀ l ∈ lanesIn act, (fail l).map (·.1) ≠ some x
  marked : ∀ l < 96, m.getLsbD l = (act.getLsbD l && decide ((fail l).map (·.1) = some c))
  lowest : ∃ l ∈ lanesIn act, fail l = some (c, va) ∧ ∀ j ∈ lanesIn act, j < l → (fail j).map (·.1) ≠ some c

/-- What a lane of a tile instruction fails with: an address that is no multiple of 16, or n bytes that reach a page which is not valid
(R274). -/
def rowFailure (g : Group) (n : Nat) (place : Nat → Nat) (l : Nat) : Option (Cause × Nat) :=
  if place l % 16 ≠ 0 then some (.misalign, place l) else if g.scratchOk (place l) n = false then some (.scratchRange, place l) else none

/-- Each lane from its own value, active lanes alone (R142). -/
def State.putLanes (s : State) (d : BitVec 7) (f : Fin 96 → Word) : State :=
  s.mapRegs fun r => r.vset d (Lanes.tab fun l => if s.active.getLsbD l.val then f l else (r.vget d)[l])

/-- t is s with warp r taken into the issue stage, its group on a core (R292). -/
def State.Holds (s : State) (r : WRef) (t : State) : Prop := s.load r = some t ∧ t.g.onCore = true

/-- t is s with warp r taken into the issue stage, its group on a core, away or retired: where engines go on (R265, R304). -/
def State.HoldsAny (s : State) (r : WRef) (t : State) : Prop :=
  s.load r = some t ∧ (t.g.onCore || t.g.absent || t.g.status == .retired) = true

/-- t is s with a group taken into the issue stage, its first warp with it. -/
def State.HoldsGroup (s : State) (r : GRef) (t : State) : Prop :=
  ∃ g, s.groupOf r = some g ∧ t = { s with g := g, w := (g.warps.head?).getD s.w }

/-- The device takes a command: its tenant is enabled, and the fields that its code does not use are zero (R360, R365). -/
def State.Takes (s : State) (c : Cmd) (clean : Bool) : Prop :=
  c.tenant < 16 ∧ (s.tenants.getD c.tenant Tenant.fresh).enabled = true ∧ clean = true

/-- The device takes a command for a context of its tenant, which has no other under way or waiting (R365). -/
def State.TakesFor (s : State) (c : Cmd) (clean : Bool) (x : Context) : Prop :=
  s.Takes c clean ∧ s.ctxOf c.ctx = some x ∧ x.tenant = c.tenant ∧ x.cmd = none ∧ x.waiting = []

/-! ### Frames -/

/-- Register r holds the same in two register files. -/
def Regs.same (r : RegId) (a b : Regs) : Prop :=
  match r with
  | .v n => a.v[n]? = b.v[n]?
  | .s n => a.s[n]? = b.s[n]?
  | .p n => a.p[n]? = b.p[n]?
  | .c n => a.c.getLsbD n = b.c.getLsbD n
  | .k n => a.k[n]? = b.k[n]?
  | .chn => a.chn = b.chn
  | .carry => a.carry = b.carry
  | .draw => a.draw = b.draw

end Sys2Proof.Machine

namespace Sys2Proof
open Machine

/-- The registers that an instruction word may write as it issues: its destination, with the partners of a pair or a triple (R87),
the mask (R116, R134), the link pair of call (R130), the limb count and the carry words of the chain instructions (R187..R199), the draw
counter (R133, R185). What a path returns is written when it returns (R113). -/
def Instr.results : Instr → List RegId
  | .sadd d _ _ | .ssub d _ _ | .smul d _ _ | .smulhiS32 d _ _ | .smulhiU32 d _ _ | .sand d _ _ | .sor d _ _ | .sxor d _ _
  | .sandn d _ _ | .sshl d _ _ | .sshr d _ _ | .ssra d _ _ | .sminS32 d _ _ | .smaxS32 d _ _ | .sminU32 d _ _ | .smaxU32 d _ _
  | .saddI d _ _ | .ssubI d _ _ | .smulI d _ _ | .smulhiS32I d _ _ | .smulhiU32I d _ _ | .sandI d _ _ | .sorI d _ _ | .sxorI d _ _
  | .sandnI d _ _ | .sshlI d _ _ | .sshrI d _ _ | .ssraI d _ _ | .sminS32I d _ _ | .smaxS32I d _ _ | .sminU32I d _ _
  | .smaxU32I d _ _ | .smov d _ | .sli d _ | .sbfxU32 d _ _ | .sbfxS32 d _ _ | .sbfi d _ _ | .spopc d _ | .sclz d _ | .sctz d _
  | .sbrev d _ | .rdstage d => [.s d.toNat]
  | .sadd64 d _ _ | .ssub64 d _ _ => [.s d.toNat, .s (d.toNat + 1)]
  | .rsr d r => if stateReg64 r.toNat then [.s d.toNat, .s (d.toNat + 1)] else [.s d.toNat]
  | .wsr _ _ => [.draw]
  | .call _ => [.s 120, .s 121]
  | .scmp _ d _ _ | .scmpI _ d _ _ | .cand d _ _ | .cor d _ _ | .cxor d _ _ | .candn d _ _ | .vsome d _ | .vevery d _ => [.c d.toNat]
  | .mpush d _ => rtriple d ++ maskRegs
  | .mflip _ _ | .mpop _ => maskRegs
  | .mvps d _ | .vbits d _ => rtriple d
  | .mvsp p _ | .vcmp _ p _ _ _ | .vcmpF32 _ p _ _ | .ccmp _ p _ _ | .cgetP p => [.p p.toNat]
  | .pand d _ _ | .por d _ _ | .pxor d _ _ | .pandn d _ _ | .pnot d _ | .pmov d _ | .pset d | .pclr d | .vlead d _ => [.p d.toNat]
  | .vaddS32 d _ _ | .vsubS32 d _ _ | .vaddSatS32 d _ _ | .vaddSatU32 d _ _ | .vsubSatS32 d _ _ | .vsubSatU32 d _ _ | .vminS32 d _ _
  | .vmaxS32 d _ _ | .vminU32 d _ _ | .vmaxU32 d _ _ | .vshl d _ _ | .vshr d _ _ | .vsra d _ _ | .vabsdS32 d _ _
  | .vaddS32S d _ _ | .vsubS32S d _ _ | .vaddSatS32S d _ _ | .vaddSatU32S d _ _ | .vsubSatS32S d _ _ | .vsubSatU32S d _ _
  | .vminS32S d _ _ | .vmaxS32S d _ _ | .vminU32S d _ _ | .vmaxU32S d _ _ | .vshlS d _ _ | .vshrS d _ _ | .vsraS d _ _ | .vabsdS32S d _ _
  | .vaddS32I d _ _ | .vsubS32I d _ _ | .vaddSatS32I d _ _ | .vaddSatU32I d _ _ | .vsubSatS32I d _ _ | .vsubSatU32I d _ _
  | .vminS32I d _ _ | .vmaxS32I d _ _ | .vminU32I d _ _ | .vmaxU32I d _ _ | .vshlI d _ _ | .vshrI d _ _ | .vsraI d _ _ | .vabsdS32I d _ _
  | .vmulLo d _ _ | .vmulhiS32 d _ _ | .vmulhiU32 d _ _ | .vmadLo d _ _ | .vmadSatS32 d _ _ | .vand d _ _ | .vor d _ _ | .vxor d _ _
  | .vandn d _ _ | .vnot d _ | .vpopc d _ | .vclz d _ | .vbrev d _ | .vbfxU32 d _ _ | .vbfxS32 d _ _ | .vbfi d _ _ | .vfshl d _ _
  | .vfshr d _ _ | .vsel _ d _ _ | .vsext8 d _ _ | .vzext8 d _ _ | .vsext16 d _ _ | .vzext16 d _ _ | .vsatS8S32 d _ | .vsatU8S32 d _
  | .vsatS16S32 d _ | .vsatU16S32 d _ | .vsatS32S64 d _ | .fadd _ d _ _ | .fsub _ d _ _ | .fmul _ d _ _ | .fmin d _ _ | .fmax d _ _
  | .fcopysign d _ _ | .fabs d _ | .fneg d _ | .faddS _ d _ _ | .fmulS _ d _ _ | .fminS d _ _ | .fmaxS d _ _ | .faddI _ d _ _
  | .fmulI _ d _ _ | .fminI d _ _ | .fmaxI d _ _ | .ffma _ d _ _ | .ffms _ d _ _ | .ffnma _ d _ _ | .ffnms _ d _ _ | .ffmaS _ d _ _
  | .ffmsS _ d _ _ | .ffnmaS _ d _ _ | .ffnmsS _ d _ _ | .haddF16x2 _ d _ _ | .hmulF16x2 _ d _ _ | .hfmaF16x2 _ d _ _ | .hminF16x2 d _ _
  | .haddBf16x2 _ d _ _ | .hmulBf16x2 _ d _ _ | .hfmaBf16x2 _ d _ _ | .hminBf16x2 d _ _ | .vcvtWiden _ _ _ _ d _ | .vcvtNarrow _ _ _ _ d _
  | .vrcp d _ | .vrsq d _ | .vsqrt d _ | .vexp2 d _ | .vlog2 d _ | .vsinpi d _ | .vcospi d _ | .vtanh d _ | .fdot _ _ d _ | .idot _ _ d _
  | .idotSat _ _ d _ | .vshflIdx d _ _ | .vshflUp d _ _ | .vshflDown d _ _ | .vshflXor d _ _ | .vbcast d _ _ | .vredAddS32 d _
  | .vredMinS32 d _ | .vredMaxS32 d _ | .vredAddF32 d _ | .vredMinF32 d _ | .vredMaxF32 d _ | .vscanAddS32 d _ | .vscanxAddS32 d _
  | .vscanAddF32 d _ | .vredAnd d _ | .vredOr d _ | .vredXor d _ | .vmatch d _ | .vrank d _ | .visect d _ _ | .vtopk d _ _
  | .vargmaxF32 d _ | .vargmaxS32 d _ | .vlid d | .cget d => [.v d.toNat]
  | .vadd64 d _ _ | .vsub64 d _ _ | .vmulWideS32 d _ _ | .vmulWideU32 d _ _ => [.v d.toNat, .v (d.toNat + 1)]
  | .vrnd d _ => [.v d.toNat, .draw]
  | .cbind _ | .cunbind => [.chn, .carry]
  | .cset _ => [.carry]
  | .cadd d _ _ | .cadc d _ _ | .csub d _ _ | .csbb d _ _ | .caddSat d _ _ | .cadcSat d _ _ | .csubSat d _ _ | .csbbSat d _ _
  | .cshl d _ _ | .cshr d _ _ | .cshlw d _ _ | .cshrw d _ _ | .cmac d _ _ => [.v d.toNat, .carry]
  | .mkrec k _ => [.k k.toNat]
  | .kmov d _ => [.k d.toNat]
  | _ => []

end Sys2Proof
end

