-- ==== Sys2Proof/Certificates/Slice0/Obligations.lean ====
section
/-!
DEFINITION. The statements for the provers.
-/
open Sys2Proof Sys2Proof.Machine

/-! ### Scalar instructions (05_scalar.md) -/

/-- R123: the two-register forms of the scalar arithmetic write S[sd], and nothing else of the registers. -/
def Obligations.ScalarRegisterForms : Prop :=
  ∀ q ∈ ([(.sadd, fun a b => a + b), (.ssub, fun a b => a - b), (.smul, fun a b => a * b),
      (.smulhiS32, fun a b => BitVec.ofInt 32 (a.toInt * b.toInt / 2 ^ 32)),
      (.smulhiU32, fun a b => BitVec.ofNat 32 (a.toNat * b.toNat / 2 ^ 32)),
      (.sand, fun a b => a &&& b), (.sor, fun a b => a ||| b), (.sxor, fun a b => a ^^^ b), (.sandn, fun a b => a &&& ~~~b),
      (.sshl, fun a b => if 32 ≤ b.toNat then 0 else a <<< b.toNat), (.sshr, fun a b => if 32 ≤ b.toNat then 0 else a >>> b.toNat),
      (.ssra, fun a b => a.sshiftRight (min b.toNat 31)),
      (.sminS32, fun a b => if a.toInt < b.toInt then a else b), (.smaxS32, fun a b => if a.toInt < b.toInt then b else a),
      (.sminU32, fun a b => if a.toNat < b.toNat then a else b), (.smaxU32, fun a b => if a.toNat < b.toNat then b else a)] :
        List ((BitVec 7 → BitVec 7 → BitVec 7 → Instr) × (Word → Word → Word))),
    ∀ d a b s, Retires (q.1 d a b) { reads := [.s a.toNat, .s b.toNat], writes := [.s d.toNat] } s
      (s.mapRegs (·.sset d (q.2 (s.src.sget a) (s.src.sget b))))

/-- R86, R123: the immediate forms of the scalar arithmetic do the same with the immediate in place of S[sb]. R86: an
immediate field gives 0..63, the packet's first or second literal, or −62..−1. -/
def Obligations.ScalarImmediateForms : Prop :=
  (∀ q ∈ ([(.saddI, fun a b => a + b), (.ssubI, fun a b => a - b), (.smulI, fun a b => a * b),
       (.smulhiS32I, fun a b => BitVec.ofInt 32 (a.toInt * b.toInt / 2 ^ 32)),
       (.smulhiU32I, fun a b => BitVec.ofNat 32 (a.toNat * b.toNat / 2 ^ 32)),
       (.sandI, fun a b => a &&& b), (.sorI, fun a b => a ||| b), (.sxorI, fun a b => a ^^^ b), (.sandnI, fun a b => a &&& ~~~b),
       (.sshlI, fun a b => if 32 ≤ b.toNat then 0 else a <<< b.toNat), (.sshrI, fun a b => if 32 ≤ b.toNat then 0 else a >>> b.toNat),
       (.ssraI, fun a b => a.sshiftRight (min b.toNat 31)),
       (.sminS32I, fun a b => if a.toInt < b.toInt then a else b), (.smaxS32I, fun a b => if a.toInt < b.toInt then b else a),
       (.sminU32I, fun a b => if a.toNat < b.toNat then a else b), (.smaxU32I, fun a b => if a.toNat < b.toNat then b else a)] :
         List ((BitVec 7 → BitVec 7 → BitVec 7 → Instr) × (Word → Word → Word))),
     ∀ d a i s, Retires (q.1 d a i) { imm := some i, reads := [.s a.toNat], writes := [.s d.toNat] } s
       (s.mapRegs (·.sset d (q.2 (s.src.sget a) (immVal i s.iss.lits))))) ∧
  (∀ (f : BitVec 7) (lits : List Word),
     (f.toNat ≤ 63 → immVal f lits = BitVec.ofNat 32 f.toNat) ∧
     (f = 0x40#7 → immVal f lits = lits.getD 0 0) ∧ (f = 0x41#7 → immVal f lits = lits.getD 1 0) ∧
     (66 ≤ f.toNat → immVal f lits = BitVec.ofInt 32 (f.toNat - 128)))

/-- R124, R127, R128: pairs (an odd register raises ILL_OP), copies, immediates, counts and bit fields of the scalar registers. -/
def Obligations.ScalarOtherForms : Prop :=
  (∀ q ∈ ([(.sadd64, fun a b => a + b), (.ssub64, fun a b => a - b)] :
      List ((BitVec 7 → BitVec 7 → BitVec 7 → Instr) × (DWord → DWord → DWord))),
    ∀ d a b s, Retires (q.1 d a b) { wf := even d && even a && even b, reads := rspair a ++ rspair b, writes := rspair d } s
        (s.mapRegs (·.spairSet d (q.2 (s.src.spair a) (s.src.spair b)))) ∧
      ((even d && even a && even b) = false → exec (q.1 d a b) s = .next (takeTrap (s.trapOf .illOp) s))) ∧
  (∀ q ∈ ([(.smov, fun a => a), (.spopc, fun a => BitVec.ofNat 32 ((List.range 32).countP a.getLsbD)),
      (.sclz, fun a => BitVec.ofNat 32 (if a = 0 then 32 else 31 - Nat.log2 a.toNat)),
      (.sctz, fun a => BitVec.ofNat 32 (((List.range 32).find? a.getLsbD).getD 32)), (.sbrev, fun a => a.reverse)] :
      List ((BitVec 7 → BitVec 7 → Instr) × (Word → Word))),
    ∀ d a s, Retires (q.1 d a) { reads := [.s a.toNat], writes := [.s d.toNat] } s (s.mapRegs (·.sset d (q.2 (s.src.sget a))))) ∧
  (∀ d i s, Retires (.sli d i) { imm := some i, writes := [.s d.toNat] } s (s.mapRegs (·.sset d (immVal i s.iss.lits)))) ∧
  (∀ q ∈ ([(.sbfxU32, bfxU), (.sbfxS32, bfxS)] : List ((BitVec 7 → BitVec 7 → BitVec 7 → Instr) × (Word → Word → Word))),
    ∀ d a b s, Retires (q.1 d a b) { reads := [.s a.toNat, .s b.toNat], writes := [.s d.toNat] } s
      (s.mapRegs (·.sset d (q.2 (s.src.sget a) (s.src.sget b))))) ∧
  (∀ d a b s, Retires (.sbfi d a b) { reads := [.s a.toNat, .s b.toNat, .s d.toNat], writes := [.s d.toNat] } s
    (s.mapRegs (·.sset d (bfi (s.src.sget a) (s.src.sget b) (s.src.sget d)))))

/-- R128: with position p and length n (32 at most), sbfx and vbfx.u32 take the n bits from p up with zeros above, the
signed form the n bits of the value sign-extended to 64 bits, and the insert replaces bits p to p + n − 1 of the
destination that lie below 32. -/
def Obligations.BitFieldValues : Prop :=
  ∀ a b d : Word, ∀ i < 32,
    let p := b.toNat % 32
    let n := min (b.toNat / 2 ^ 8 % 64) 32
    (bfxU a b).getLsbD i = (decide (i < n) && a.getLsbD (p + i)) ∧
    (bfxS a b).getLsbD i = (decide (0 < n) && (a.signExtend 64).getLsbD (p + min i (n - 1))) ∧
    (bfi a b d).getLsbD i = if p ≤ i ∧ i < p + n then a.getLsbD (i - p) else d.getLsbD i

/-- R125, R126: scmp writes the relation that its code names, the condition operations their result. -/
def Obligations.ConditionForms : Prop :=
  (∀ (c : BitVec 4) (d : BitVec 3) (a b : BitVec 7) s,
    Retires (.scmp c d a b) { wf := decide (c.toNat ≤ 9), reads := [.s a.toNat, .s b.toNat], writes := [.c d.toNat] } s
      (s.mapRegs (·.cset d.toNat (scmpCond c.toNat (s.src.sget a) (s.src.sget b))))) ∧
  (∀ (c : BitVec 4) (d : BitVec 3) (a i : BitVec 7) s,
    Retires (.scmpI c d a i) { wf := decide (c.toNat ≤ 9), imm := some i, reads := [.s a.toNat], writes := [.c d.toNat] } s
      (s.mapRegs (·.cset d.toNat (scmpCond c.toNat (s.src.sget a) (immVal i s.iss.lits))))) ∧
  (∀ a b : Word,
    scmpCond 0 a b = decide (a = b) ∧ scmpCond 1 a b = decide (a ≠ b) ∧ scmpCond 2 a b = a.slt b ∧ scmpCond 3 a b = a.sle b ∧
    scmpCond 4 a b = b.slt a ∧ scmpCond 5 a b = b.sle a ∧ scmpCond 6 a b = a.ult b ∧ scmpCond 7 a b = a.ule b ∧
    scmpCond 8 a b = b.ult a ∧ scmpCond 9 a b = b.ule a) ∧
  (∀ q ∈ ([(.cand, fun x y => x && y), (.cor, fun x y => x || y), (.cxor, fun x y => x ^^ y), (.candn, fun x y => x && !y)] :
      List ((BitVec 3 → BitVec 3 → BitVec 3 → Instr) × (Bool → Bool → Bool))),
    ∀ d a b s, Retires (q.1 d a b) { reads := [.c a.toNat, .c b.toNat], writes := [.c d.toNat] } s
      (s.mapRegs (·.cset d.toNat (q.2 (s.src.cget a.toNat) (s.src.cget b.toNat)))))

/-- R129: a conditional branch goes to slot 0 of the packet that many packets on, modulo 2^48, where its condition
holds, and else issue goes on behind it; the packet that it goes to is fetched afresh (R97). -/
def Obligations.ConditionalBranches : Prop :=
  ∀ (o : BitVec 20) (s : State),
    let target := (((s.iss.at_ / 16 * 16 : Nat) + 16 * o.toInt) % 2 ^ 48).toNat + 4
    let went := { s with w := { s.w with pc := target, packet := none }, iss := { s.iss with taken := true } }
    (∀ c : BitVec 3, Retires (.bc c o) { reads := [.c c.toNat] } s (if s.src.cget c.toNat then went else s)) ∧
    (∀ c : BitVec 3, Retires (.bnc c o) { reads := [.c c.toNat] } s (if s.src.cget c.toNat then s else went)) ∧
    Retires (.bany o) { reads := maskRegs } s (if s.src.mask = 0 then s else went) ∧
    Retires (.ball o) { reads := maskRegs } s (if s.src.mask = BitVec.allOnes 96 then went else s) ∧
    Retires (.bnone o) { reads := maskRegs } s (if s.src.mask = 0 then went else s)

/-- R130, R131: br and call go to the packet that many packets on; call writes the address of the packet after its own
into s120 and s121; jmp and ret go to the address of a pair, which is a multiple of 16, and trap with MISALIGN on
another. -/
def Obligations.Transfers : Prop :=
  (∀ (o : BitVec 20) (s : State),
    let target := (((s.iss.at_ / 16 * 16 : Nat) + 16 * o.toInt) % 2 ^ 48).toNat + 4
    Retires (.br o) {} s { s with w := { s.w with pc := target, packet := none } } ∧
    Retires (.call o) { writes := [.s 120, .s 121] } s
      { s with w := { s.w with pc := target, packet := none,
                               regs := s.w.regs.spairSet 120 (BitVec.ofNat 64 ((s.iss.at_ / 16 * 16 + 16) % 2 ^ 48)) } }) ∧
  (∀ (a : BitVec 7) (s : State),
    let va := (s.src.spair a).toNat % 2 ^ 48
    let u : Use := { wf := even a, reads := rspair a }
    (va % 16 = 0 → Retires (.jmp a) u s { s with w := { s.w with pc := va + 4, packet := none } }) ∧
    (va % 16 ≠ 0 → Traps (.jmp a) u s (s.trapOf .misalign))) ∧
  (∀ s : State,
    let va := (s.src.spair 120).toNat % 2 ^ 48
    (va % 16 = 0 → Retires .ret { reads := [.s 120, .s 121] } s { s with w := { s.w with pc := va + 4, packet := none } }) ∧
    (va % 16 ≠ 0 → Traps .ret { reads := [.s 120, .s 121] } s (s.trapOf .misalign)))

/-- R118, R119, R133: rsr completes with the state register of its code in its destination, a pair for the 64-bit ones: clk, time, the group's
index and dimensions, the warp's index and number, the limb count, the draw counter, and the core number (the linear group index in a
deterministic launch); time traps with PROT in a group that is neither deterministic nor allowed to time; a code above 12 and an odd pair
raise ILL_OP. wsr completes with draw written from its pair, and raises ILL_OP on any other register and on an odd pair. -/
def Obligations.StateRegisters : Prop :=
  (∀ (d r : BitVec 7) (s : State),
    let code := r.toNat
    let wide := code ≤ 1 ∨ code = 11
    let u : Use := { wf := decide (code ≤ 12) && (decide ¬wide || even d),
                     reads := if code = 11 then [.draw] else [],
                     writes := if wide then [.s d.toNat, .s (d.toNat + 1)] else [.s d.toNat] }
    let v : DWord := match code with
      | 0 => s.w.clk
      | 1 => if s.g.desc.determ then s.w.clk else s.time
      | 2 => s.g.gx.setWidth 64 | 3 => s.g.gy.setWidth 64 | 4 => s.g.gz.setWidth 64
      | 5 => s.g.dx.setWidth 64 | 6 => s.g.dy.setWidth 64 | 7 => s.g.dz.setWidth 64
      | 8 => BitVec.ofNat 64 s.w.wid | 9 => BitVec.ofNat 64 s.g.warps.length | 10 => BitVec.ofNat 64 s.src.chn
      | 11 => s.src.draw
      | _ => if s.g.desc.determ then (s.g.gx + s.g.dx * (s.g.gy + s.g.dy * s.g.gz)).setWidth 64 else BitVec.ofNat 64 s.g.core
    (12 < code ∨ (wide ∧ even d = false) → exec (.rsr d r) s = .next (takeTrap (s.trapOf .illOp) s)) ∧
    (code = 1 → s.g.desc.determ = false → s.g.desc.timing = false → Traps (.rsr d r) u s (s.trapOf .prot)) ∧
    (code ≠ 1 ∨ s.g.desc.determ = true ∨ s.g.desc.timing = true →
      Retires (.rsr d r) u s (s.mapRegs fun x => if wide then x.spairSet d v else x.sset d (v.setWidth 32)))) ∧
  (∀ (a r : BitVec 7) (s : State),
    (r.toNat ≠ 11 ∨ even a = false → exec (.wsr a r) s = .next (takeTrap (s.trapOf .illOp) s)) ∧
    Retires (.wsr a r) { wf := decide (r.toNat = 11) && even a, reads := rspair a, writes := [.draw] } s
      { s.mapRegs (fun x => { x with draw := s.src.spair a }) with iss := { s.iss with drawSet := true } })

/-- R134, R135: the mask instructions and the moves between predicates and scalar triples. -/
def Obligations.MaskForms : Prop :=
  ∀ (d : BitVec 7) (p : BitVec 4) (s : State),
    let pr := s.src.pget p.toNat
    Retires (.mpush d p) { wf := tripleBase d && predOk p, reads := maskRegs ++ [.p p.toNat], writes := rtriple d ++ maskRegs } s
      (s.mapRegs fun r => (r.tripleSet d s.src.mask).maskSet (s.src.mask &&& pr)) ∧
    Retires (.mflip d p) { wf := tripleBase d && predOk p, reads := rtriple d ++ [.p p.toNat], writes := maskRegs } s
      (s.mapRegs (·.maskSet (s.src.triple d &&& ~~~pr))) ∧
    Retires (.mpop d) { wf := tripleBase d, reads := rtriple d, writes := maskRegs } s (s.mapRegs (·.maskSet (s.src.triple d))) ∧
    Retires (.mvps d p) { wf := (tripleBase d || d == 125) && predOk p, reads := [.p p.toNat], writes := rtriple d } s
      (s.mapRegs (·.tripleSet d pr)) ∧
    Retires (.mvsp p d) { wf := (tripleBase d || d == 125) && predOk p, reads := rtriple d, writes := [.p p.toNat] } s
      (s.mapRegs (·.pset p.toNat (s.src.triple d)))

/-- R77, R80, R136..R141: nop, exit, yield, sleep, the waits on a path and the instruction prefetches. -/
def Obligations.WaitsAndHints : Prop :=
  (∀ s, Retires .nop { blank := true } s s) ∧
  (∀ s, Retires .exit {} s { s with w := { s.w with status := .draining } }) ∧
  (∀ s, Retires .yield {} s { s with w := { s.w with lastIssue := s.issueNo } }) ∧
  (∀ (n : BitVec 7) (s : State),
    let c := min (immVal n s.iss.lits).toNat 16777215
    Retires (.sleep n) { imm := some n } s
      (if c = 0 then { s with w := { s.w with lastIssue := s.issueNo } }
       else { s with w := { s.w with status := .sleeping, sleepLeft := c } })) ∧
  (∀ (p : BitVec 4) (b : BitVec 7) (s : State),
    let outstanding := (s.w.entries.filter fun e => e.path == p.toNat && decide (e.seq < s.iss.back.seq0)).length
    let u : Use := { wf := decide (p ≠ 6) && decide (p ≠ 7), reads := [.s b.toNat] }
    let v : Use := { wf := decide (p ≠ 6) && decide (p ≠ 7), imm := some b }
    (outstanding ≤ (s.src.sget b).toNat → Retires (.waitc p b) u s s) ∧
    ((s.src.sget b).toNat < outstanding → Stalls (.waitc p b) u s s) ∧
    (outstanding ≤ (immVal b s.iss.lits).toNat → Retires (.waitcI p b) v s s) ∧
    ((immVal b s.iss.lits).toNat < outstanding → Stalls (.waitcI p b) v s s)) ∧
  (∀ (m i : BitVec 7) (s : State),
    let line (j : Nat) : Nat := (((s.iss.at_ / 16 * 16 / 128 * 128 : Nat) + 128 * (immVal i s.iss.lits).toInt + 128 * (j : Int)) % 2 ^ 48).toNat
    Retires (.ipf m i) { wf := decide (1 ≤ m.toNat) && decide (m.toNat ≤ 4), imm := some i } s
      (s.prefetchLines s.iss.core s.g.ref.ctx ((List.range m.toNat).map line))) ∧
  (∀ (s u : State) core ctx va rest pa t,
    let there := (∃ l ∈ (s.coreAt core).icache, l.ctx = ctx ∧ l.va = va) ∨ (ctx, va) ∈ (s.coreAt core).ifills
    s.prefetchLines core ctx [] = s ∧
    (there → s.prefetchLines core ctx (va :: rest) = s.prefetchLines core ctx rest) ∧
    (¬there → s.translate core ctx va false = (.ok pa t, u) → t.x = true →
      s.prefetchLines core ctx (va :: rest) = (u.updCore core fun k => k.startFills ctx [va]).prefetchLines core ctx rest) ∧
    (¬there → s.translate core ctx va false = (.fail .addrFault, u) →
      s.prefetchLines core ctx (va :: rest) = s.prefetchLines core ctx rest)) ∧
  (∀ s : State, Retires .ipfInv {} s
    { s with cores := s.cores.modify s.iss.core fun k =>
        { k with icache := k.icache.filter (·.ctx != s.g.ref.ctx), ifills := k.ifills.filter (·.1 != s.g.ref.ctx) } })

/-- R74, R89, R90, R95, R139, R309: trap and brk raise their cause precisely with the argument; a malformed packet, a
reserved or unassigned word and a word of a future major raise theirs. -/
def Obligations.TrapInstructions : Prop :=
  (∀ (n : BitVec 7) (s : State),
    Traps (.trap n) { imm := some n } s { s.trapOf .trapInsn with arg := immVal n s.iss.lits } ∧
    Traps (.brk n) { imm := some n } s { s.trapOf .brk with arg := immVal n s.iss.lits }) ∧
  (∀ s : State, exec .illPacket s = .next (takeTrap (s.trapOf .illPacket) s)) ∧
  (∀ (w : Word) (s : State), exec (.illOp w) s = .next (takeTrap (s.trapOf .illOp) s)) ∧
  (∀ (w : Word) (s : State), exec (.futureOp w) s = .next (takeTrap (s.trapOf .futureOp) s))

/-- R108, R309: a precise trap stops the warp at the faulting slot with no register written; a resident group halts
with the trap on record, and its other warps that run hear the halt. -/
def Obligations.PreciseTrapTaken : Prop :=
  ∀ (t : TrapInfo) (s : State),
    let u := takeTrap t s
    u.w.regs = s.w.regs ∧ u.w.status = .halted ∧ (s.w.status ≠ .halted → u.w.saved = s.w.status) ∧ u.w.pc = t.pc ∧ u.w.stopPc = t.pc ∧
    (s.w.bcast = false → u.w.skid = 0) ∧ (s.w.bcast = true → u.w.skid = s.w.skid) ∧
    (∀ c, (s.trapOf c).pc = s.iss.at_ ∧ (s.trapOf c).cause = c ∧ (s.trapOf c).precise = true) ∧
    { u with w := s.w, g := s.g, iss := s.iss } = s ∧
    (s.g.status = .resident → u.g.status = .halting ∧ u.g.trap = some t ∧
      ∀ x ∈ u.g.warps, x.status = .ready ∨ x.status = .stalled ∨ x.status = .sleeping → x.bcast = true ∧ x.skid = 0)

/-! ### Lanes (06_lane_int.md to 08_lane_cross.md) -/

/-- R142, R143, R147, R149..R151: the integer forms on each active lane, from two registers, a register and a scalar,
or a register and an immediate. -/
def Obligations.LaneBinaryForms : Prop :=
  (∀ q ∈ ([(.vaddS32, .vaddS32S, .vaddS32I, fun a b => a + b), (.vsubS32, .vsubS32S, .vsubS32I, fun a b => a - b),
      (.vaddSatS32, .vaddSatS32S, .vaddSatS32I, fun a b => BitVec.ofInt 32 (max (-2 ^ 31) (min (2 ^ 31 - 1) (a.toInt + b.toInt)))),
      (.vaddSatU32, .vaddSatU32S, .vaddSatU32I, fun a b => BitVec.ofNat 32 (min (2 ^ 32 - 1) (a.toNat + b.toNat))),
      (.vsubSatS32, .vsubSatS32S, .vsubSatS32I, fun a b => BitVec.ofInt 32 (max (-2 ^ 31) (min (2 ^ 31 - 1) (a.toInt - b.toInt)))),
      (.vsubSatU32, .vsubSatU32S, .vsubSatU32I, fun a b => BitVec.ofNat 32 (a.toNat - b.toNat)),
      (.vminS32, .vminS32S, .vminS32I, fun a b => if a.toInt < b.toInt then a else b),
      (.vmaxS32, .vmaxS32S, .vmaxS32I, fun a b => if a.toInt < b.toInt then b else a),
      (.vminU32, .vminU32S, .vminU32I, fun a b => if a.toNat < b.toNat then a else b),
      (.vmaxU32, .vmaxU32S, .vmaxU32I, fun a b => if a.toNat < b.toNat then b else a),
      (.vshl, .vshlS, .vshlI, fun a b => if 32 ≤ b.toNat then 0 else a <<< b.toNat),
      (.vshr, .vshrS, .vshrI, fun a b => if 32 ≤ b.toNat then 0 else a >>> b.toNat),
      (.vsra, .vsraS, .vsraI, fun a b => a.sshiftRight (min b.toNat 31)),
      (.vabsdS32, .vabsdS32S, .vabsdS32I, fun a b => BitVec.ofNat 32 (a.toInt - b.toInt).natAbs)] :
        List ((BitVec 7 → BitVec 7 → BitVec 7 → Instr) × (BitVec 7 → BitVec 7 → BitVec 7 → Instr) ×
          (BitVec 7 → BitVec 7 → BitVec 7 → Instr) × (Word → Word → Word))),
    ∀ d a b s,
      Retires (q.1 d a b) { vtop := vtop [d, a, b], reads := [.v a.toNat, .v b.toNat], writes := [.v d.toNat], lane := true } s
        (s.putLanes d fun l => q.2.2.2 (s.src.vget a)[l] (s.src.vget b)[l]) ∧
      Retires (q.2.1 d a b) { vtop := vtop [d, a], reads := [.v a.toNat, .s b.toNat], writes := [.v d.toNat], lane := true } s
        (s.putLanes d fun l => q.2.2.2 (s.src.vget a)[l] (s.src.sget b)) ∧
      Retires (q.2.2.1 d a b) { imm := some b, vtop := vtop [d, a], reads := [.v a.toNat], writes := [.v d.toNat], lane := true } s
        (s.putLanes d fun l => q.2.2.2 (s.src.vget a)[l] (immVal b s.iss.lits))) ∧
  (∀ q ∈ ([(.vmulLo, fun a b => a * b), (.vmulhiS32, fun a b => BitVec.ofInt 32 (a.toInt * b.toInt / 2 ^ 32)),
      (.vmulhiU32, fun a b => BitVec.ofNat 32 (a.toNat * b.toNat / 2 ^ 32)), (.vand, fun a b => a &&& b), (.vor, fun a b => a ||| b),
      (.vxor, fun a b => a ^^^ b), (.vandn, fun a b => a &&& ~~~b), (.vbfxU32, bfxU), (.vbfxS32, bfxS)] :
        List ((BitVec 7 → BitVec 7 → BitVec 7 → Instr) × (Word → Word → Word))),
    ∀ d a b s,
      Retires (q.1 d a b) { vtop := vtop [d, a, b], reads := [.v a.toNat, .v b.toNat], writes := [.v d.toNat], lane := true } s
        (s.putLanes d fun l => q.2 (s.src.vget a)[l] (s.src.vget b)[l]))

/-- R148..R152, R156, R157: the other integer forms of the lanes: a destination that is read too, pairs, one source,
elements. -/
def Obligations.LaneOtherForms : Prop :=
  (∀ q ∈ ([(.vmadLo, fun a b d => a * b + d),
      (.vmadSatS32, fun a b d => BitVec.ofInt 32 (max (-2 ^ 31) (min (2 ^ 31 - 1) (a.toInt * b.toInt + d.toInt)))), (.vbfi, bfi),
      (.vfshl, fun a b d => hiWord (pairOf d a <<< min b.toNat 64)), (.vfshr, fun a b d => loWord (pairOf a d >>> min b.toNat 64))] :
        List ((BitVec 7 → BitVec 7 → BitVec 7 → Instr) × (Word → Word → Word → Word))),
    ∀ d a b s,
      Retires (q.1 d a b)
        { vtop := vtop [d, a, b], reads := [.v a.toNat, .v b.toNat, .v d.toNat], writes := [.v d.toNat], lane := true } s
        (s.putLanes d fun l => q.2 (s.src.vget a)[l] (s.src.vget b)[l] (s.src.vget d)[l])) ∧
  (∀ q ∈ ([(.vadd64, fun a b => a + b), (.vsub64, fun a b => a - b)] :
        List ((BitVec 7 → BitVec 7 → BitVec 7 → Instr) × (DWord → DWord → DWord))),
    ∀ d a b s,
      let y (l : Fin 96) : DWord := q.2 (pairOf (s.src.vget (a + 1))[l] (s.src.vget a)[l]) (pairOf (s.src.vget (b + 1))[l] (s.src.vget b)[l])
      Retires (q.1 d a b)
        { wf := even d && even a && even b, vtop := vtop [d + 1, a + 1, b + 1], reads := rvpair a ++ rvpair b, writes := rvpair d,
          lane := true } s ((s.putLanes d fun l => loWord (y l)).putLanes (d + 1) fun l => hiWord (y l))) ∧
  (∀ q ∈ ([(.vmulWideS32, fun a b => BitVec.ofInt 64 (a.toInt * b.toInt)), (.vmulWideU32, fun a b => BitVec.ofNat 64 (a.toNat * b.toNat))] :
        List ((BitVec 7 → BitVec 7 → BitVec 7 → Instr) × (Word → Word → DWord))),
    ∀ d a b s,
      let y (l : Fin 96) : DWord := q.2 (s.src.vget a)[l] (s.src.vget b)[l]
      Retires (q.1 d a b)
        { wf := even d, vtop := vtop [d + 1, a, b], reads := [.v a.toNat, .v b.toNat], writes := rvpair d, lane := true } s
        ((s.putLanes d fun l => loWord (y l)).putLanes (d + 1) fun l => hiWord (y l))) ∧
  (∀ q ∈ ([(.vnot, fun a => ~~~a), (.vpopc, fun a => BitVec.ofNat 32 ((List.range 32).countP a.getLsbD)),
      (.vclz, fun a => BitVec.ofNat 32 (if a = 0 then 32 else 31 - Nat.log2 a.toNat)), (.vbrev, fun a => a.reverse),
      (.vsatS8S32, fun a => BitVec.ofInt 32 (max (-128) (min 127 a.toInt))), (.vsatU8S32, fun a => BitVec.ofInt 32 (max 0 (min 255 a.toInt))),
      (.vsatS16S32, fun a => BitVec.ofInt 32 (max (-32768) (min 32767 a.toInt))),
      (.vsatU16S32, fun a => BitVec.ofInt 32 (max 0 (min 65535 a.toInt)))] : List ((BitVec 7 → BitVec 7 → Instr) × (Word → Word))),
    ∀ d a s,
      Retires (q.1 d a) { vtop := vtop [d, a], reads := [.v a.toNat], writes := [.v d.toNat], lane := true } s
        (s.putLanes d fun l => q.2 (s.src.vget a)[l])) ∧
  (∀ q ∈ ([(.vsext8, 4, fun e x => (x.extractLsb' (8 * e) 8).signExtend 32), (.vzext8, 4, fun e x => (x.extractLsb' (8 * e) 8).setWidth 32),
      (.vsext16, 2, fun e x => (x.extractLsb' (16 * e) 16).signExtend 32), (.vzext16, 2, fun e x => (x.extractLsb' (16 * e) 16).setWidth 32)] :
        List ((BitVec 7 → BitVec 7 → BitVec 7 → Instr) × Nat × (Nat → Word → Word))),
    ∀ d a e s,
      Retires (q.1 d a e)
        { wf := decide (e.toNat < q.2.1), vtop := vtop [d, a], reads := [.v a.toNat], writes := [.v d.toNat], lane := true } s
        (s.putLanes d fun l => q.2.2 e.toNat (s.src.vget a)[l])) ∧
  (∀ d a s,
    Retires (.vsatS32S64 d a) { wf := even a, vtop := vtop [d, a + 1], reads := rvpair a, writes := [.v d.toNat], lane := true } s
      (s.putLanes d fun l => BitVec.ofInt 32
        (max (-2 ^ 31) (min (2 ^ 31 - 1) (pairOf (s.src.vget (a + 1))[l] (s.src.vget a)[l]).toInt))))

/-- R153..R155, R166: the compares write the bit of each active lane, the predicate operations each active lane's bit,
and vsel takes each active lane from one of two registers. -/
def Obligations.PredicateForms : Prop :=
  (∀ (c : BitVec 5) (p : BitVec 4) (t : BitVec 3) (a b : BitVec 7) s,
    Retires (.vcmp c p t a b)
      { wf := (decide (c.toNat ≤ 5) && decide (t.toNat ≤ 1)) && predOk p, vtop := vtop [a, b], reads := [.v a.toNat, .v b.toNat],
        writes := [.p p.toNat], lane := true } s
      (s.writeP p.toNat (maskOf fun l => vcmpCond c.toNat t.toNat (laneAt (s.src.vget a) l) (laneAt (s.src.vget b) l)))) ∧
  (∀ x y : Word, ∀ t ≤ 1,
    vcmpCond 0 t x y = decide (x = y) ∧ vcmpCond 1 t x y = decide (x ≠ y) ∧
    vcmpCond 2 t x y = (if t = 0 then x.slt y else x.ult y) ∧ vcmpCond 3 t x y = (if t = 0 then x.sle y else x.ule y) ∧
    vcmpCond 4 t x y = (if t = 0 then y.slt x else y.ult x) ∧ vcmpCond 5 t x y = (if t = 0 then y.sle x else y.ule x)) ∧
  (∀ (c : BitVec 5) (p : BitVec 4) (a b : BitVec 7) s,
    Retires (.vcmpF32 c p a b)
      { wf := decide (c.toNat ≤ 7) && predOk p, vtop := vtop [a, b], reads := [.v a.toNat, .v b.toNat], writes := [.p p.toNat],
        lane := true } s
      (s.writeP p.toNat (maskOf fun l => fCond c.toNat (laneAt (s.src.vget a) l) (laneAt (s.src.vget b) l)))) ∧
  (∀ q ∈ ([(.pand, fun x y => x &&& y), (.por, fun x y => x ||| y), (.pxor, fun x y => x ^^^ y), (.pandn, fun x y => x &&& ~~~y)] :
      List ((BitVec 4 → BitVec 4 → BitVec 4 → Instr) × (LaneMask → LaneMask → LaneMask))),
    ∀ d a b s,
      Retires (q.1 d a b)
        { wf := predOk d && predOk a && predOk b, reads := [.p a.toNat, .p b.toNat], writes := [.p d.toNat], lane := true } s
        (s.writeP d.toNat (q.2 (s.src.pget a.toNat) (s.src.pget b.toNat)))) ∧
  (∀ (d a : BitVec 4) s,
    let u : Use := { wf := predOk d && predOk a, reads := [.p a.toNat], writes := [.p d.toNat], lane := true }
    let v : Use := { wf := predOk d, writes := [.p d.toNat], lane := true }
    Retires (.pnot d a) u s (s.writeP d.toNat (~~~(s.src.pget a.toNat))) ∧
    Retires (.pmov d a) u s (s.writeP d.toNat (s.src.pget a.toNat)) ∧
    Retires (.pset d) v s (s.writeP d.toNat (BitVec.allOnes 96)) ∧ Retires (.pclr d) v s (s.writeP d.toNat 0)) ∧
  (∀ (q : BitVec 5) (d a b : BitVec 7) s,
    Retires (.vsel q d a b)
      { wf := decide (8 ≤ q.toNat) && decide (q.toNat ≤ 19), vtop := vtop [d, a, b],
        reads := [.v a.toNat, .v b.toNat, .p (q.toNat - 8)], writes := [.v d.toNat], lane := true } s
      (s.putLanes d fun l => if (s.src.pget (q.toNat - 8)).getLsbD l.val then (s.src.vget a)[l] else (s.src.vget b)[l])) ∧
  (∀ (s : State) (d : BitVec 4) (x : LaneMask), predOk d = true → ∀ l < 96,
    ((s.writeP d.toNat x).w.regs.pget d.toNat).getLsbD l =
      if s.active.getLsbD l then x.getLsbD l else (s.w.regs.pget d.toNat).getLsbD l)

/-- R158..R165: the FP32 and packed 16-bit forms on each active lane, with the rounding mode of the word. -/
def Obligations.FloatForms : Prop :=
  (∀ (r : BitVec 2), ∀ q ∈ ([(.fadd r, fAdd (Rm.ofBits r)), (.fsub r, fSub (Rm.ofBits r)), (.fmul r, fMul (Rm.ofBits r)), (.fmin, fMin),
      (.fmax, fMax), (.fcopysign, fun a b => if fIsNaN a || fIsNaN b then f32NaN else (a &&& 0x7FFFFFFF#32) ||| (b &&& 0x80000000#32)),
      (.haddF16x2 r, fun a b => packed2 (fun x y _ => Fmt.f16.addBits (Rm.ofBits r) x y) a b 0),
      (.hmulF16x2 r, fun a b => packed2 (fun x y _ => Fmt.f16.mulBits (Rm.ofBits r) x y) a b 0),
      (.hminF16x2, fun a b => packed2 (fun x y _ => Fmt.f16.minBits x y) a b 0),
      (.haddBf16x2 r, fun a b => packed2 (fun x y _ => Fmt.bf16.addBits (Rm.ofBits r) x y) a b 0),
      (.hmulBf16x2 r, fun a b => packed2 (fun x y _ => Fmt.bf16.mulBits (Rm.ofBits r) x y) a b 0),
      (.hminBf16x2, fun a b => packed2 (fun x y _ => Fmt.bf16.minBits x y) a b 0)] :
        List ((BitVec 7 → BitVec 7 → BitVec 7 → Instr) × (Word → Word → Word))),
    ∀ d a b s,
      Retires (q.1 d a b)
        { vtop := vtop [d, a, b], reads := [.v a.toNat, .v b.toNat], writes := [.v d.toNat], lane := true, shadowed := true } s
        (s.putLanes d fun l => q.2 (s.src.vget a)[l] (s.src.vget b)[l])) ∧
  (∀ (r : BitVec 2), ∀ q ∈ ([(.faddS r, .faddI r, fAdd (Rm.ofBits r)), (.fmulS r, .fmulI r, fMul (Rm.ofBits r)), (.fminS, .fminI, fMin),
      (.fmaxS, .fmaxI, fMax)] :
        List ((BitVec 7 → BitVec 7 → BitVec 7 → Instr) × (BitVec 7 → BitVec 7 → BitVec 7 → Instr) × (Word → Word → Word))),
    ∀ d a b s,
      Retires (q.1 d a b)
        { vtop := vtop [d, a], reads := [.v a.toNat, .s b.toNat], writes := [.v d.toNat], lane := true, shadowed := true } s
        (s.putLanes d fun l => q.2.2 (s.src.vget a)[l] (s.src.sget b)) ∧
      Retires (q.2.1 d a b)
        { imm := some b, vtop := vtop [d, a], reads := [.v a.toNat], writes := [.v d.toNat], lane := true, shadowed := true } s
        (s.putLanes d fun l => q.2.2 (s.src.vget a)[l] (immF32 b s.iss.lits))) ∧
  (∀ (r : BitVec 2), ∀ q ∈ ([(.ffma r, fFma (Rm.ofBits r) false false), (.ffms r, fFma (Rm.ofBits r) false true),
      (.ffnma r, fFma (Rm.ofBits r) true false), (.ffnms r, fFma (Rm.ofBits r) true true),
      (.hfmaF16x2 r, packed2 (Fmt.f16.fmaBits (Rm.ofBits r) false false)), (.hfmaBf16x2 r, packed2 (Fmt.bf16.fmaBits (Rm.ofBits r) false false))] :
        List ((BitVec 7 → BitVec 7 → BitVec 7 → Instr) × (Word → Word → Word → Word))),
    ∀ d a b s,
      Retires (q.1 d a b)
        { vtop := vtop [d, a, b], reads := [.v a.toNat, .v b.toNat, .v d.toNat], writes := [.v d.toNat], lane := true,
          shadowed := true } s
        (s.putLanes d fun l => q.2 (s.src.vget a)[l] (s.src.vget b)[l] (s.src.vget d)[l])) ∧
  (∀ (r : BitVec 2), ∀ q ∈ ([(.ffmaS r, fFma (Rm.ofBits r) false false), (.ffmsS r, fFma (Rm.ofBits r) false true),
      (.ffnmaS r, fFma (Rm.ofBits r) true false), (.ffnmsS r, fFma (Rm.ofBits r) true true)] :
        List ((BitVec 7 → BitVec 7 → BitVec 7 → Instr) × (Word → Word → Word → Word))),
    ∀ d a b s,
      Retires (q.1 d a b)
        { vtop := vtop [d, a], reads := [.v a.toNat, .s b.toNat, .v d.toNat], writes := [.v d.toNat], lane := true, shadowed := true } s
        (s.putLanes d fun l => q.2 (s.src.vget a)[l] (s.src.sget b) (s.src.vget d)[l])) ∧
  (∀ q ∈ ([(.fabs, fun a => if fIsNaN a then f32NaN else a &&& 0x7FFFFFFF#32),
      (.fneg, fun a => if fIsNaN a then f32NaN else a ^^^ 0x80000000#32), (.vrcp, fRcp), (.vrsq, fRsq), (.vsqrt, fSqrt),
      (.vexp2, fExp2), (.vlog2, fLog2), (.vsinpi, fSinpi), (.vcospi, fCospi), (.vtanh, fTanh)] :
        List ((BitVec 7 → BitVec 7 → Instr) × (Word → Word))),
    ∀ d a s,
      Retires (q.1 d a) { vtop := vtop [d, a], reads := [.v a.toNat], writes := [.v d.toNat], lane := true, shadowed := true } s
        (s.putLanes d fun l => q.2 (s.src.vget a)[l]))

/-- R91, R167..R172: the conversions of an element of each active lane, and the dot products under their control word. -/
def Obligations.ConversionAndDotForms : Prop :=
  (∀ (w : BitVec 2) (o : BitVec 4) (r : BitVec 2) (e : BitVec 3) (d a : BitVec 7) s,
    Retires (.vcvtWiden w o r e d a)
      { wf := cvtOk w.toNat o.toNat e.toNat && (r == 0 || cvtWidenRounds w.toNat o.toNat), vtop := vtop [d, a], reads := [.v a.toNat],
        writes := [.v d.toNat], lane := true, shadowed := decide (w.toNat = 0) } s
      (s.putLanes d fun l => cvtWiden (cvtFormats w o).1 (cvtFormats w o).2 (Rm.ofBits r) e.toNat (s.src.vget a)[l]) ∧
    Retires (.vcvtNarrow w o r e d a)
      { wf := cvtOk w.toNat o.toNat e.toNat && (r == 0 || cvtNarrowRounds w.toNat o.toNat), vtop := vtop [d, a],
        reads := [.v a.toNat, .v d.toNat], writes := [.v d.toNat], lane := true, shadowed := cvtFloat o.toNat } s
      (s.putLanes d fun l => cvtNarrow (cvtFormats w o).1 (cvtFormats w o).2 (Rm.ofBits r) e.toNat (s.src.vget a)[l] (s.src.vget d)[l])) ∧
  (∀ (a b : BitVec 5) (d c : BitVec 7) s,
    let w := s.src.sget c
    let u (shadowed : Bool) : Use :=
      { vtop := max (d.toNat + 1) (max (4 * a.toNat + 4) (4 * b.toNat + 4)),
        reads := rvrun (4 * a.toNat) 4 ++ rvrun (4 * b.toNat) 4 ++ [.v d.toNat, .s c.toNat], writes := [.v d.toNat], lane := true,
        shadowed := shadowed }
    (∀ fa fb, fdotFormats (w.extractLsb' 8 3).toNat = some (fa, fb) → w &&& 0xFFFFC800#32 = 0 →
      Retires (.fdot a b d c) (u true) s
        (s.putLanes d fun l => fdotLane fa fb w (s.src.quad a l) (s.src.quad b l) (s.src.vget d)[l])) ∧
    (fdotFormats (w.extractLsb' 8 3).toNat = none ∨ w &&& 0xFFFFC800#32 ≠ 0 → Traps (.fdot a b d c) (u true) s (s.trapOf .illOp)) ∧
    (w &&& 0xFFFFF8FF#32 = 0 →
      Retires (.idot a b d c) (u false) s
        (s.putLanes d fun l => BitVec.ofInt 32 (idotSum w (s.src.quad a l) (s.src.quad b l) (s.src.vget d)[l])) ∧
      Retires (.idotSat a b d c) (u false) s
        (s.putLanes d fun l => BitVec.ofInt 32
          (max (-2 ^ 31) (min (2 ^ 31 - 1) (idotSum w (s.src.quad a l) (s.src.quad b l) (s.src.vget d)[l]))))) ∧
    (w &&& 0xFFFFF8FF#32 ≠ 0 →
      Traps (.idot a b d c) (u false) s (s.trapOf .illOp) ∧ Traps (.idotSat a b d c) (u false) s (s.trapOf .illOp)))

/-- R176, R184, R185: the shuffles take each active lane from a lane of the source, its own where there is none, and raise
ILL_OP for a lane immediate past their range; vlid
writes the lane's number and vrnd the random number of R70. -/
def Obligations.ShuffleForms : Prop :=
  (∀ (d a b : BitVec 7) s,
    let v := s.src.vget a
    let from_ (l : Nat) : Nat := if (laneAt (s.src.vget b) l).toNat ≤ 95 then (laneAt (s.src.vget b) l).toNat else l
    Retires (.vshflIdx d a b)
      { vtop := vtop [d, a, b], reads := [.v a.toNat, .v b.toNat], writes := [.v d.toNat], lane := true, via := some (a.toNat, from_) } s
      (s.putLanes d fun l => if ((s.src.vget b)[l]).toNat ≤ 95 then laneAt v ((s.src.vget b)[l]).toNat else v[l])) ∧
  (∀ (d a n : BitVec 7) s,
    let v := s.src.vget a
    let u (limit : Nat) (from_ : Nat → Nat) : Use :=
      { wf := decide (n.toNat ≤ limit), vtop := vtop [d, a], reads := [.v a.toNat], writes := [.v d.toNat], lane := true,
        via := some (a.toNat, from_) }
    Retires (.vshflUp d a n) (u 95 fun l => if n.toNat ≤ l ∧ l ≤ 95 + n.toNat then l - n.toNat else l) s
      (s.putLanes d fun l => if n.toNat ≤ l.val then laneAt v (l.val - n.toNat) else v[l]) ∧
    Retires (.vshflDown d a n) (u 95 fun l => if l + n.toNat ≤ 95 then l + n.toNat else l) s
      (s.putLanes d fun l => if l.val + n.toNat ≤ 95 then laneAt v (l.val + n.toNat) else v[l]) ∧
    Retires (.vshflXor d a n) (u 127 fun l => if l ^^^ n.toNat ≤ 95 then l ^^^ n.toNat else l) s
      (s.putLanes d fun l => if l.val ^^^ n.toNat ≤ 95 then laneAt v (l.val ^^^ n.toNat) else v[l]) ∧
    Retires (.vbcast d a n) (u 95 fun l => if n.toNat ≤ 95 then n.toNat else l) s
      (s.putLanes d fun l => if n.toNat ≤ 95 then laneAt v n.toNat else v[l]) ∧
    (95 < n.toNat → ∀ i ∈ ([.vshflUp d a n, .vshflDown d a n, .vbcast d a n] : List Instr),
      exec i s = .next (takeTrap (s.trapOf .illOp) s))) ∧
  (∀ (d : BitVec 7) s,
    Retires (.vlid d) { vtop := vtop [d], writes := [.v d.toNat], lane := true } s (s.putLanes d fun l => BitVec.ofNat 32 l.val)) ∧
  (∀ (d a : BitVec 7) s,
    Retires (.vrnd d a) { wf := even a, vtop := vtop [d], reads := rspair a ++ [.draw], writes := [.v d.toNat, .draw], lane := true } s
      ((s.putLanes d fun l => rndLane (s.src.spair a) s.src.draw l.val).mapRegs fun r =>
        if s.iss.drawSet then r else { r with draw := s.src.draw + 1 }))

/-- R177, R178..R183: votes, reductions over the fixed tree, scans in lane order, and the searches among the active
lanes. -/
def Obligations.CrossLaneForms : Prop :=
  (∀ (d : BitVec 3) (p : BitVec 4) s,
    let u : Use := { wf := predOk p, reads := [.p p.toNat], writes := [.c d.toNat], lane := true }
    Retires (.vsome d p) u s (s.mapRegs (·.cset d.toNat (decide (s.active &&& s.src.pget p.toNat ≠ 0)))) ∧
    Retires (.vevery d p) u s (s.mapRegs (·.cset d.toNat (decide (s.active &&& ~~~(s.src.pget p.toNat) = 0))))) ∧
  (∀ (d : BitVec 7) (p : BitVec 4) s,
    Retires (.vbits d p) { wf := tripleBase d && predOk p, reads := [.p p.toNat], writes := rtriple d, lane := true } s
      (s.mapRegs (·.tripleSet d (s.active &&& s.src.pget p.toNat)))) ∧
  (∀ q ∈ ([(.vredAddS32, false, reduceLanes (fun a b => a + b) false), (.vredMinS32, false, reduceLanes minS false),
      (.vredMaxS32, false, reduceLanes maxS false), (.vredAnd, false, reduceLanes (fun a b => a &&& b) false),
      (.vredOr, false, reduceLanes (fun a b => a ||| b) false), (.vredXor, false, reduceLanes (fun a b => a ^^^ b) false),
      (.vredAddF32, true, reduceLanes (fAdd .rne) true), (.vredMinF32, true, reduceLanes fMin true),
      (.vredMaxF32, true, reduceLanes fMax true), (.vscanAddS32, false, scanIncl (fun a b => a + b)), (.vscanxAddS32, false, scanExcl),
      (.vscanAddF32, true, scanF32), (.vmatch, false, matchLanes), (.vrank, false, rankLanes), (.vargmaxF32, false, argMax betterF32),
      (.vargmaxS32, false, argMax fun a b => b.slt a)] :
        List ((BitVec 7 → BitVec 7 → Instr) × Bool × (LaneMask → Lanes Word → Lanes Word))),
    ∀ d a s,
      Retires (q.1 d a) { vtop := vtop [d, a], reads := [.v a.toNat], writes := [.v d.toNat], lane := true, shadowed := q.2.1 } s
        (s.putLanes d fun l => (q.2.2 s.active (s.src.vget a))[l])) ∧
  (∀ (d : BitVec 4) (a : BitVec 7) s,
    Retires (.vlead d a) { wf := predOk d, vtop := vtop [a], reads := [.v a.toNat], writes := [.p d.toNat], lane := true } s
      (s.writeP d.toNat (leadLanes s.active (s.src.vget a)))) ∧
  (∀ (d a b : BitVec 7) s,
    Retires (.visect d a b) { vtop := vtop [d, a, b], reads := [.v a.toNat, .v b.toNat], writes := [.v d.toNat], lane := true } s
      (s.putLanes d fun l => (intersect s.active (s.src.vget a) (s.src.vget b))[l]) ∧
    Retires (.vtopk d a b) { vtop := vtop [d, a], reads := [.v a.toNat, .s b.toNat], writes := [.v d.toNat], lane := true } s
      (s.putLanes d fun l => (topK s.active (s.src.vget a) (s.src.sget b))[l]))

/-! ### Chains (09_chain.md) -/

/-- R187..R194: binding and unbinding clear the carry words; cget, cget.p and cset move them for the active chains; a
chain instruction without a binding traps with ILL_OP. R195..R198: chain addition and subtraction with carry,
saturation, the compares, shifts and the multiply-accumulate, on every active chain of the limb count bound; without a
binding they trap with ILL_OP. -/
def Obligations.ChainForms : Prop :=
  ((∀ (n : BitVec 7) s,
     Retires (.cbind n) { wf := bindCounts.contains n.toNat, reads := maskRegs, writes := [.chn, .carry] } s
       (s.mapRegs fun r => { r with chn := n.toNat, carry := Vector.replicate 48 0 })) ∧
   (∀ s, Retires .cunbind { writes := [.chn, .carry] } s (s.mapRegs fun r => { r with chn := 0, carry := Vector.replicate 48 0 })) ∧
   (∀ (d : BitVec 7) s,
     let u : Use := { vtop := vtop [d], reads := [.chn, .carry], writes := [.v d.toNat], lane := true }
     (s.src.chn = 0 → Traps (.cget d) u s (s.trapOf .illOp)) ∧
     (s.src.chn ≠ 0 → Retires (.cget d) u s (s.mapRegs fun r => r.vset d (mergeLanes (chainLaneMask s.src.chn s.active)
       (Lanes.tab fun l => carryAt s.src.carry (l.val / s.src.chn)) (r.vget d))))) ∧
   (∀ (p : BitVec 4) s,
     let u : Use := { wf := predOk p, reads := [.chn, .carry], writes := [.p p.toNat], lane := true }
     (s.src.chn = 0 → Traps (.cgetP p) u s (s.trapOf .illOp)) ∧
     (s.src.chn ≠ 0 → Retires (.cgetP p) u s (s.mapRegs fun r => r.pset p.toNat (mergeMask (chainLaneMask s.src.chn s.active)
       (maskOf fun l => decide (carryAt s.src.carry (l / s.src.chn) ≠ 0)) (r.pget p.toNat))))) ∧
   (∀ (a : BitVec 7) s,
     let u : Use := { vtop := vtop [a], reads := [.v a.toNat, .chn], writes := [.carry], lane := true }
     (s.src.chn = 0 → Traps (.cset a) u s (s.trapOf .illOp)) ∧
     (s.src.chn ≠ 0 → Retires (.cset a) u s (s.writeCarry fun c => (laneAt (s.src.vget a) (c * s.src.chn)).toNat)))) ∧
  ((∀ q ∈ ([(.cadd, false, false, false), (.cadc, false, true, false), (.csub, true, false, false), (.csbb, true, true, false),
       (.caddSat, false, false, true), (.cadcSat, false, true, true), (.csubSat, true, false, true), (.csbbSat, true, true, true)] :
         List ((BitVec 7 → BitVec 7 → BitVec 7 → Instr) × Bool × Bool × Bool)),
     ∀ d a b s,
       let n := s.src.chn
       let va := s.src.vget a
       let vb := s.src.vget b
       let u : Use := { vtop := vtop [d, a, b], reads := [.v a.toNat, .v b.toNat, .chn] ++ (if q.2.2.1 then [.carry] else []),
                        writes := [.v d.toNat, .carry], lane := true }
       let cin (c : Nat) : Int := if q.2.2.1 ∧ (carryAt s.src.carry c).getLsbD 0 then 1 else 0
       let y (c : Nat) : Int := if q.2.1 then (chainVal va n c : Int) - chainVal vb n c - cin c else (chainVal va n c : Int) + chainVal vb n c + cin c
       let past (c : Nat) : Bool := if q.2.1 then decide (y c < 0) else decide (2 ^ (32 * n) ≤ y c)
       (n = 0 → Traps (q.1 d a b) u s (s.trapOf .illOp)) ∧
       (n ≠ 0 → Retires (q.1 d a b) u s
         ((s.writeChains d fun c => if q.2.2.2 ∧ past c then (if q.2.1 then 0 else 2 ^ (32 * n) - 1) else (y c % 2 ^ (32 * n)).toNat).writeCarry
           fun c => if past c then 1 else 0))) ∧
   (∀ (c : BitVec 5) (p : BitVec 4) (a b : BitVec 7) s,
     let n := s.src.chn
     let u : Use := { wf := decide (8 ≤ c.toNat) && decide (c.toNat ≤ 13) && predOk p, vtop := vtop [a, b],
                      reads := [.v a.toNat, .v b.toNat, .chn], writes := [.p p.toNat], lane := true }
     (n = 0 → Traps (.ccmp c p a b) u s (s.trapOf .illOp)) ∧
     (n ≠ 0 → Retires (.ccmp c p a b) u s (s.mapRegs fun r => r.pset p.toNat (mergeMask (chainLaneMask n s.active)
       (maskOf fun l => relCond (c.toNat - 8) (chainVal (s.src.vget a) n (l / n)) (chainVal (s.src.vget b) n (l / n)))
       (r.pget p.toNat))))) ∧
   (∀ (d a b : BitVec 7) s,
     let n := s.src.chn
     let va := s.src.vget a
     let k := s.src.carry
     let u : Use := { vtop := vtop [d, a], reads := [.v a.toNat, .s b.toNat, .chn, .carry], writes := [.v d.toNat, .carry], lane := true }
     let left (t : Nat) : State :=
       (s.writeChains d fun c => chainShl n t va k c % 2 ^ (32 * n)).writeCarry fun c => chainShl n t va k c / 2 ^ (32 * n) % 2 ^ 32
     let right (t : Nat) : State :=
       (s.writeChains d fun c => chainShr n va k c / 2 ^ t % 2 ^ (32 * n)).writeCarry fun c => chainShr n va k c % 2 ^ t * 2 ^ 32 / 2 ^ t
     (n = 0 → ∀ i ∈ ([.cshl d a b, .cshr d a b, .cshlw d a b, .cshrw d a b] : List Instr), Traps i u s (s.trapOf .illOp)) ∧
     (n ≠ 0 → Retires (.cshl d a b) u s (left ((s.src.sget b).toNat % 32)) ∧ Retires (.cshr d a b) u s (right ((s.src.sget b).toNat % 32)) ∧
       Retires (.cshlw d a b) u s (left (32 * min (s.src.sget b).toNat n)) ∧
       Retires (.cshrw d a b) u s (right (32 * min (s.src.sget b).toNat n)))) ∧
   (∀ (d a b : BitVec 7) s,
     let n := s.src.chn
     let j := (s.src.sget b).toNat
     let x := chainMac n j (s.src.vget d) (s.src.vget a) (s.src.vget (a + 1))
     let u : Use := { wf := even a, vtop := vtop [d, a + 1], reads := [.v a.toNat, .v (a + 1).toNat, .v d.toNat, .s b.toNat, .chn],
                      writes := [.v d.toNat, .carry], lane := true }
     (n ≤ j → Traps (.cmac d a b) u s (s.trapOf .illOp)) ∧
     (j < n → Retires (.cmac d a b) u s ((s.writeChains d fun c => x c % 2 ^ (32 * n)).writeCarry fun c => x c / 2 ^ (32 * n)))))

/-! ### Memory instructions (10_buffer.md, 11_access.md) -/

/-- R206, R207: the offset of a lane, and its address: base plus offset inside the extent; outside it BOUNDS in mode
0, dropped in mode 1, the first or the last element in mode 2; beyond 48 bits ADDR_FAULT, off its alignment MISALIGN. -/
def Obligations.LaneAddresses : Prop :=
  (∀ (r : Regs) (k : BitVec 256) (size : Nat) (a : BitVec 7), ∀ l < 96,
    laneOffset r k false size a l = ((laneAt (r.vget a) l).toNat : Int) * size ∧
    laneOffset r k true size a l = ((laneAt (r.vget a) l).toNat : Int) * size + ((laneAt (r.vget (a + 1)) l).toNat : Int) * recStrideY k +
      ((laneAt (r.vget (a + 2)) l).toNat : Int) * recStrideZ k) ∧
  (∀ (k : BitVec 256) (off : Int) (size : Nat),
    let outside := off < 0 ∨ (recExtent k : Int) < off + size
    let reach (off : Int) : LaneAddr :=
      let at_ := recBase k + off
      if at_ < 0 ∨ 2 ^ 48 ≤ at_ then .bad .addrFault (at_ % 2 ^ 64).toNat
      else if at_ % size ≠ 0 then .bad .misalign at_.toNat else .ok at_.toNat
    let last : Int := (recExtent k / size - 1) * size
    (¬outside → laneAddr k off size = reach off) ∧
    (outside → recMode k = 0 → laneAddr k off size = .bad .bounds ((recBase k + off) % 2 ^ 64).toNat) ∧
    (outside → recMode k = 1 → laneAddr k off size = .drop) ∧
    (outside → recMode k = 2 → size ≤ recExtent k → laneAddr k off size = reach (if off < 0 then 0 else last)) ∧
    (outside → recMode k = 2 → recExtent k < size → laneAddr k off size = .bad .bounds ((recBase k + off) % 2 ^ 64).toNat))

/-- R112, R204, R217..R220: a load or a store whose record is usable, whose data registers fit and whose active lanes
have addresses enters one entry of its lanes on LD or ST; an ordered load and an acquiring store hold the warp. An
unusable record traps with BAD_RECORD; then a data register off its alignment with ILL_OP, and one whose partners do not fit with
REG_RANGE; then the first of BOUNDS, ADDR_FAULT and MISALIGN that an active lane fails, with the lanes that fail it and the address of
the lowest. -/
def Obligations.LoadStoreForms : Prop :=
  ∀ (g : BitVec 1) (o sc c : BitVec 2) (k : BitVec 5) (a d : BitVec 7) (s : State) (place : Nat → Option Nat),
    let kr := s.src.kget k.toNat
    let n := fmtRegs (recFmt kr)
    let size := fmtSize (recFmt kr)
    let reqs : List LaneReq := (lanesIn s.active).map fun l =>
      { lane := l, va := (place l).getD 0, drop := (place l).isNone, data := laneData s.src d.toNat n l, len := 0 }
    let e (path : Nat) (op : PathOp) (writes : List RegId) : PathEntry :=
      { s.entryOf path op d.toNat reqs writes with order := o.toNat, scope := sc.toNat, policy := c.toNat }
    let addressed := recUsable kr = true ∧ d.toNat % n = 0 ∧ d.toNat + n ≤ s.w.nregs ∧
      ∀ l ∈ lanesIn s.active, laneAddr kr (laneOffset s.src kr (g == 1) size a l) size =
        match place l with | some x => .ok x | none => .drop
    (addressed →
      Retires (.ld g o sc c k a d) (mUse (g == 1) false o sc k a d s) s
        ((s.enqueue (e 0 (.load size (fmtSigned (recFmt kr))) (rvrun d.toNat n))).holdFor (decide (o ≠ 0)) s.w.nextSeq sc.toNat) ∧
      Retires (.st g o sc c k a d) (mUse (g == 1) true o sc k a d s) s
        ((s.enqueue (e 1 (.store size) [])).holdFor (decide (o = 2)) s.w.nextSeq sc.toNat)) ∧
    let traps (x : TrapInfo) : Prop :=
      Traps (.ld g o sc c k a d) (mUse (g == 1) false o sc k a d s) s x ∧ Traps (.st g o sc c k a d) (mUse (g == 1) true o sc k a d s) s x
    (recUsable kr = false → traps (s.trapOf .badRecord)) ∧
    (recUsable kr = true → d.toNat % n ≠ 0 → traps (s.trapOf .illOp)) ∧
    (recUsable kr = true → d.toNat % n = 0 → s.w.nregs < d.toNat + n → traps (s.trapOf .regRange)) ∧
    (∀ cause m va, recUsable kr = true → d.toNat % n = 0 → d.toNat + n ≤ s.w.nregs →
      FirstFails [.bounds, .addrFault, .misalign] s.active
        (fun l => (laneAddr kr (laneOffset s.src kr (g == 1) size a l) size).failure) cause m va →
      traps { s.trapOf cause with mask := m, addr := some va })

/-- R200..R202: cld and cst with a usable record under a binding enter one entry with the limbs of the active chains;
without a binding they trap with ILL_OP, with an unusable record with BAD_RECORD. -/
def Obligations.ChainAccessForms : Prop :=
  ∀ (o sc c : BitVec 2) (k : BitVec 5) (a d : BitVec 7) (s : State),
    let kr := s.src.kget k.toNat
    let e (path : Nat) (op : PathOp) (writes : List RegId) : PathEntry :=
      { s.entryOf path op d.toNat (chainReqs s kr a d) writes with
        order := o.toNat, scope := sc.toNat, policy := c.toNat, fails := chainFails s kr a }
    let u := cUse false o sc k a d
    let v := cUse true o sc k a d
    (s.src.chn ≠ 0 → recUsable kr = true →
      Retires (.cld o sc c k a d) u s
        ((s.enqueue (e 0 (.chainLoad s.src.chn) [.v d.toNat])).holdFor (decide (o ≠ 0)) s.w.nextSeq sc.toNat) ∧
      Retires (.cst o sc c k a d) v s
        ((s.enqueue (e 1 (.chainStore s.src.chn) [])).holdFor (decide (o = 2)) s.w.nextSeq sc.toNat)) ∧
    (s.src.chn = 0 → Traps (.cld o sc c k a d) u s (s.trapOf .illOp) ∧ Traps (.cst o sc c k a d) v s (s.trapOf .illOp)) ∧
    (s.src.chn ≠ 0 → recUsable kr = false →
      Traps (.cld o sc c k a d) u s (s.trapOf .badRecord) ∧ Traps (.cst o sc c k a d) v s (s.trapOf .badRecord))

/-- R92, R205, R223: an atomic on a record of formats 0x04 to 0x07 enters one entry on ATM with the operand of each
active lane (for cas the new value, and the comparand above it); the returning forms name their result registers and,
when ordered, hold the warp. On another record it traps with BAD_RECORD; then operand registers off their alignment trap with ILL_OP,
and registers that do not fit with REG_RANGE; then the first of BOUNDS, ADDR_FAULT and MISALIGN that an active lane fails. -/
def Obligations.AtomicForms : Prop :=
  ∀ q ∈ ([(.atomAdd, .add, true), (.atomMin, .min, true), (.atomMax, .max, true), (.atomAnd, .and, true), (.atomOr, .or, true),
      (.atomXor, .xor, true), (.atomExch, .exch, true), (.atomCas, .cas, true), (.redAdd, .add, false), (.redMin, .min, false),
      (.redMax, .max, false), (.redAnd, .and, false), (.redOr, .or, false), (.redXor, .xor, false)] :
        List ((BitVec 3 → BitVec 5 → BitVec 7 → BitVec 7 → Instr) × AtomKind × Bool)),
    ∀ (o : BitVec 3) (k : BitVec 5) (a d : BitVec 7) (s : State) (place : Nat → Option Nat),
      let kr := s.src.kget k.toNat
      let n := fmtRegs (recFmt kr)
      let size := fmtSize (recFmt kr)
      let m := if q.2.1 = .cas then 2 * n else n
      let order := if o = 0 then 0 else if o.toNat ≤ 3 then 1 else 2
      let scope := [0, 0, 1, 2, 1, 2].getD o.toNat 0
      let reqs : List LaneReq := (lanesIn s.active).map fun l =>
        { lane := l, va := (place l).getD 0, drop := (place l).isNone, data := atomData s.src q.2.1 d.toNat n l, len := 0 }
      let e : PathEntry :=
        { s.entryOf 4 (.atom q.2.1 (fmtSigned (recFmt kr)) size q.2.2) d.toNat reqs (if q.2.2 then rvrun d.toNat n else []) with
          order := order, scope := scope }
      (atomUsable kr = true → d.toNat % m = 0 → d.toNat + m ≤ s.w.nregs →
        (∀ l ∈ lanesIn s.active, laneAddr kr (laneOffset s.src kr false size a l) size =
          match place l with | some x => .ok x | none => .drop) →
        Retires (q.1 o k a d) (aUse q.2.1 q.2.2 o k a d s) s
          ((s.enqueue e).holdFor (q.2.2 && decide (order ≠ 0)) s.w.nextSeq scope)) ∧
      let traps (x : TrapInfo) : Prop := Traps (q.1 o k a d) (aUse q.2.1 q.2.2 o k a d s) s x
      (atomUsable kr = false → traps (s.trapOf .badRecord)) ∧
      (atomUsable kr = true → d.toNat % m ≠ 0 → traps (s.trapOf .illOp)) ∧
      (atomUsable kr = true → d.toNat % m = 0 → s.w.nregs < d.toNat + m → traps (s.trapOf .regRange)) ∧
      (∀ cause lanes va, atomUsable kr = true → d.toNat % m = 0 → d.toNat + m ≤ s.w.nregs →
        FirstFails [.bounds, .addrFault, .misalign] s.active (fun l => (laneAddr kr (laneOffset s.src kr false size a l) size).failure)
          cause lanes va →
        traps { s.trapOf cause with mask := lanes, addr := some va })

/-- R224, R226: a scratchpad access whose active lanes have addresses in valid pages and on their alignment enters one
entry of its lanes on SCR. It traps with SCRATCH_RANGE where an active lane's address is negative or in a page that is not valid, with
MISALIGN where none is and one is off its alignment, with the lanes that fail the cause and the address of the lowest. -/
def Obligations.ScratchForms : Prop :=
  ∀ q ∈ ([(.sldU8, .sload 1 false, 1, 0, 1), (.sldS8, .sload 1 true, 1, 0, 1), (.sldU16, .sload 2 false, 2, 0, 1), (.sldS16, .sload 2 true, 2, 0, 1),
      (.sldB32, .sload 4 false, 4, 0, 1), (.sldB64, .sload 8 false, 8, 0, 2), (.sstB8, .sstore 1, 1, 1, 0), (.sstB16, .sstore 2, 2, 1, 0),
      (.sstB32, .sstore 4, 4, 1, 0), (.sstB64, .sstore 8, 8, 2, 0), (.satomAdd, .satom .add false, 4, 1, 1),
      (.satomMinS32, .satom .min true, 4, 1, 1), (.satomMaxS32, .satom .max true, 4, 1, 1), (.satomMinU32, .satom .min false, 4, 1, 1),
      (.satomMaxU32, .satom .max false, 4, 1, 1), (.satomAnd, .satom .and false, 4, 1, 1), (.satomOr, .satom .or false, 4, 1, 1),
      (.satomXor, .satom .xor false, 4, 1, 1), (.satomExch, .satom .exch false, 4, 1, 1), (.satomCas, .satom .cas false, 4, 2, 1)] :
        List ((BitVec 7 → BitVec 7 → BitVec 7 → Instr) × PathOp × Nat × Nat × Nat)),
    ∀ (d a f : BitVec 7) (s : State),
      let size := q.2.2.1
      let rd := q.2.2.2.1
      let wr := q.2.2.2.2
      let place (l : Nat) : Int := ((laneAt (s.src.vget a) l).toNat : Int) + 4 * f.toInt
      let u : Use :=
        { wf := !(decide (rd = 2) || decide (wr = 2)) || even d, vtop := max (a.toNat + 1) (d.toNat + max rd (max wr 1)),
          reads := .v a.toNat :: rvrun d.toNat rd, writes := rvrun d.toNat wr, lane := true, path := some 2, mem := true }
      ((∀ l ∈ lanesIn s.active, 0 ≤ place l ∧ s.g.scratchOk (place l).toNat 1 = true ∧ (place l).toNat % size = 0) →
      Retires (q.1 d a f) u s
        (s.enqueue (s.entryOf 2 q.2.1 d.toNat
          ((lanesIn s.active).map fun l =>
            { lane := l, va := (place l).toNat, drop := false, data := laneData s.src d.toNat rd l, len := 0 })
          (rvrun d.toNat wr)))) ∧
      (∀ cause m va,
        FirstFails [.scratchRange, .misalign] s.active
          (fun l =>
            if place l < 0 ∨ s.g.scratchOk (place l).toNat 1 = false then some (.scratchRange, (place l % 2 ^ 64).toNat)
            else if (place l).toNat % size ≠ 0 then some (.misalign, (place l % 2 ^ 64).toNat) else none) cause m va →
        Traps (q.1 d a f) u s { s.trapOf cause with mask := m, addr := some va })

/-- R209: ldrec and strec enter an entry of 32 bytes on REC and ST, at an address that is a multiple of 32, and trap
with MISALIGN on another; mkrec makes a record of eight scalar registers, the lowest word first, and kmov copies one. -/
def Obligations.RecordForms : Prop :=
  (∀ (k : BitVec 5) (a : BitVec 7) (s : State),
    let va := s.src.addrPair a
    let x := s.src.kget k.toNat
    let u : Use := { wf := even a, reads := rspair a, writes := [.k k.toNat], path := some 3, mem := true }
    let v : Use := { wf := even a, reads := rspair a ++ [.k k.toNat], path := some 1, mem := true }
    (va % 32 = 0 →
      Retires (.ldrec k a) u s
        (s.enqueue (s.entryOf 3 .ldrec k.toNat [{ lane := 0, va := va, drop := false, data := 0, len := 32 }] [.k k.toNat])) ∧
      Retires (.strec a k) v s
        (s.enqueue (s.entryOf 1 .strec 0
          [{ lane := 0, va := va, drop := false, data := x.extractLsb' 0 128, len := 16 },
           { lane := 1, va := va + 16, drop := false, data := x.extractLsb' 128 128, len := 16 }] []))) ∧
    (va % 32 ≠ 0 → Traps (.ldrec k a) u s { s.trapOf .misalign with addr := some va } ∧
      Traps (.strec a k) v s { s.trapOf .misalign with addr := some va })) ∧
  (∀ (k : BitVec 5) (a : BitVec 7) (s : State),
    let w (i : Nat) : Word := s.src.sget (BitVec.ofNat 7 (a.toNat + i))
    Retires (.mkrec k a)
      { wf := a.toNat % 8 == 0, reads := (List.range 8).map fun i => .s (a.toNat + i), writes := [.k k.toNat], mem := true } s
      (s.mapRegs (·.kset k.toNat (w 7 ++ w 6 ++ w 5 ++ w 4 ++ w 3 ++ w 2 ++ w 1 ++ w 0)))) ∧
  (∀ (d a : BitVec 5) (s : State),
    Retires (.kmov d a) { reads := [.k a.toNat], writes := [.k d.toNat], mem := true } s
      (s.mapRegs (·.kset d.toNat (s.src.kget a.toNat))))

/-- R227..R230: a fence, an rfence, a flush and an inval hold the warp until what they name is done, a fence at grp
with nothing outstanding holds nothing (an atomic that waits at a granule being copied is performed at grp, R441); pf brings sectors of the line at its address into the L1, or with 1 in its
field leaves it. (That pf fills in its own step is the model's choice, log entry 83; so is that a fill of the last-level cache leaves the
state, which has no lines of that cache, log entry 80.) -/
def Obligations.FenceForms : Prop :=
  (∀ (k : BitVec 7) (s : State),
    let idle := ∀ e ∈ s.w.entries, e.path ≤ 4 → e.seq < s.w.nextSeq → e.done = true ∨ e.parked = true
    let u : Use := { wf := decide (k.toNat ≤ 4), mem := true }
    (k = 0 → idle → Retires (.fence k) u s s) ∧
    (k ≠ 0 ∨ ¬idle → Retires (.fence k) u s { s with w := { s.w with hold := .fence k.toNat s.w.nextSeq } })) ∧
  (∀ s : State, Retires .rfence { mem := true } s { s with w := { s.w with hold := .rfence s.w.nextSeq } }) ∧
  (∀ (a b : BitVec 7) (s : State),
    let u : Use := { wf := even a, reads := rspair a ++ [.s b.toNat], mem := true }
    Retires (.flush a b) u s { s with w := { s.w with hold := .cache false (s.src.addrPair a) (s.src.sget b).toNat } } ∧
    Retires (.inval a b) u s { s with w := { s.w with hold := .cache true (s.src.addrPair a) (s.src.sget b).toNat } }) ∧
  (∀ (a l : BitVec 7) (s : State),
    Retires (.pf a l) { wf := even a && decide (l.toNat ≤ 1), reads := rspair a, mem := true } s
      (if l = 0 then s.prefetch (s.src.addrPair a) else s))

/-! ### Copies, barriers, tiles, emission (12_copy.md to 15_barrier.md, 17_queue.md, 20_link.md) -/

/-- R112, R259, R260: a cpy32 whose record is usable and whose active lanes have sources and destinations enters one
entry on its tag's path and one in the warp's copy queue; it traps with BAD_RECORD on another record, and with the first of MISALIGN,
SCRATCH_RANGE and BOUNDS that an active lane fails (that order, and the alignment before the clamp, are the model's: log entry 122). R253, R255, R262..R264: stage moves the stage number on and
releases its entries or leaves them to be released; waitge waits for a counter and acquires; qfence enters its marks;
rdstage reads the stage number. -/
def Obligations.CopyForms : Prop :=
  (∀ (t : BitVec 3) (k : BitVec 5) (a b : BitVec 7) (s : State) (src : Nat → Nat × Nat),
     let kr := s.src.kget k.toNat
     let to_ (l : Nat) : Nat := (laneAt (s.src.vget b) l).toNat
     let u : Use :=
       { wf := even a, vtop := max (a.toNat + 2) (b.toNat + 1), reads := [.v a.toNat, .v (a.toNat + 1), .v b.toNat, .k k.toNat],
         lane := true, path := some (8 + t.toNat), mem := true }
     let e := s.entryOf (8 + t.toNat) .cpy32 0
       ((lanesIn s.active).map fun l =>
         { lane := l, va := (src l).1, drop := false, data := BitVec.ofNat 128 (to_ l), len := (src l).2 }) []
     let i : CopyItem :=
       { set := s.iss.setNo, pc := s.iss.at_, clk0 := s.w.clk, op := .cpy32 s.w.nextSeq, st := .queued, rows := 0, held := [], heldBytes := 0 }
     (recUsable kr = true →
       (∀ l ∈ lanesIn s.active,
         copyLane s.g kr (laneAt (s.src.vget a) l).toNat (laneAt (s.src.vget (a + 1)) l).toNat (to_ l) = .ok (src l)) →
       Retires (.cpy32 t k a b) u s
         { s with w := { s.w with entries := s.w.entries ++ [e], nextSeq := s.w.nextSeq + 1, copyQ := s.w.copyQ ++ [i] } }) ∧
     (recUsable kr = false → Traps (.cpy32 t k a b) u s (s.trapOf .badRecord)) ∧
     (∀ cause m va, recUsable kr = true →
       FirstFails [.misalign, .scratchRange, .bounds] s.active
         (fun l => match copyLane s.g kr (laneAt (s.src.vget a) l).toNat (laneAt (s.src.vget (a + 1)) l).toNat (to_ l) with
           | .error x => some x
           | .ok _ => none) cause m va →
       Traps (.cpy32 t k a b) u s { s.trapOf cause with mask := m, addr := some va })) ∧
  ((∀ (a b : BitVec 7) (s : State),
     let u : Use := { reads := [.s a.toNat, .s b.toNat], mem := true }
     let r : StageReq := { warp := s.w.wid, pc := s.iss.at_, clk0 := s.w.clk, number := s.g.stage + 1,
                           dy := (s.src.sget a).toInt, dz := (s.src.sget b).toInt }
     let i : CopyItem := { set := s.iss.setNo, pc := s.iss.at_, clk0 := s.w.clk, op := .stage (s.g.stage + 1), st := .queued, rows := 0, held := [], heldBytes := 0 }
     let later (waits : List StageReq) : State :=
       { s with g := { s.g with stage := s.g.stage + 1, schedWait := waits }, w := { s.w with copyQ := s.w.copyQ ++ [i] } }
     (s.g.desc.sched = 0 → Traps (.stage a b) u s (s.trapOf .illOp)) ∧
     (s.g.desc.sched ≠ 0 →
       (s.iss.chained = false → let x := later (s.g.schedWait ++ [r]); Retires (.stage a b) u s (x.nextStage.getD x)) ∧
       (s.g.schedWait ≠ [] ∨ s.w.copyQ ≠ [] ∨ s.iss.chained = true → (∀ q l, s.g.schedWait = q :: l → q.warp ≠ s.w.wid) →
         (∀ x ∈ s.w.copyQ, x.op ≠ .stage (s.g.stage + 1)) → Retires (.stage a b) u s (later (s.g.schedWait ++ [r]))) ∧
       (s.g.schedWait = [] → s.w.copyQ = [] → s.iss.chained = false → (later [r]).w.setWaits s.iss.setNo = false →
         ((later []).releaseStage r = none → Retires (.stage a b) u s (later [r])) ∧
         (∀ t, (later []).releaseStage r = some t → Retires (.stage a b) u s t)))) ∧
   (∀ (a b : BitVec 7) (s s1 : State) (pa : Nat) (t : Tlb),
     let va := s.src.addrPair a
     let u : Use := { wf := even a && even b, reads := rspair a ++ rspair b, mem := true }
     (va % 8 ≠ 0 → Traps (.waitge a b) u s { s.trapOf .misalign with addr := some va }) ∧
     (va % 8 = 0 → s.translate s.g.core s.g.ref.ctx va false = (.ok pa t, s1) → s1.parkedOver s1.g.core pa 8 = false →
       s1.homeFails pa 8 t.key true = none →
       ((s.src.spair b).toNat ≤ leNat (s1.homeRead pa 8) →
         Retires (.waitge a b) u s (((s1.sendLoad s1.g.core t.key pa 1 8).exchange s1.g.core pa false).dropClean s1.g.core)) ∧
       (leNat (s1.homeRead pa 8) < (s.src.spair b).toNat → Stalls (.waitge a b) u s s))) ∧
   (∀ (q : BitVec 3) (s : State),
     let id := s.g.fenceId
     let c : CopyItem := { set := s.iss.setNo, pc := s.iss.at_, clk0 := s.w.clk, op := .fence id, st := .queued, rows := 0, held := [], heldBytes := 0 }
     let t : TileEntry := { seq := 0, set := 0, pc := s.iss.at_, clk0 := s.w.clk, op := .fence id, act := 0, addrs := [], word := 0, coord := 0, age := 0,
                            st := .posted, commit := 0, rows := [], chunks := 0, granted := none, divs := 0, rerun := false, rewrite := false, suspect := none }
     let l : CollItem :=
       { set := s.iss.setNo, pc := s.iss.at_, clk0 := s.w.clk, addr := 0, fence := some id, record := none, peers := [], written := false }
     Retires (.qfence q) { wf := decide (q ≠ 0), mem := true } s
       { s with w := { s.w with copyQ := s.w.copyQ ++ (if q.getLsbD 0 then [c] else []), tileQ := s.w.tileQ ++ (if q.getLsbD 1 then [t] else []),
                                collQ := s.w.collQ ++ (if q.getLsbD 2 then [l] else []) },
                g := { s.g with fenceId := id + 1 } }) ∧
   (∀ (d : BitVec 7) (s : State),
     Retires (.rdstage d) { writes := [.s d.toNat], mem := true } s (s.mapRegs (·.sset d (s.g.stage.setWidth 32)))))

/-- R315, R318..R320, R322: the group barrier instructions: gb.meet posts and stalls until its arrival bit is clear,
gb.post waits for an earlier arrival and posts, the awaits wait for the bit or the phase, and gb.bytes and gb.members
change the barrier and test it. R323..R327: the updates of a memory transaction barrier enter one entry on ATM where
the count is within its limits and the address a multiple of 16, and trap elsewhere; mb.await waits until the phase
number at address + 12 differs, and acquires. -/
def Obligations.BarrierForms : Prop :=
  (∀ (b : BitVec 7) (s : State),
     let x := s.g.bar b.toNat
     let u : Use := { wf := decide (b.toNat < 16) }
     let me := s.w.wid
     let met (s : State) : State := { s with w := { s.w with meeting := true } }
     (s.w.meeting = true → x.bits.getLsbD me = false → Retires (.gbMeet b) u s { s with w := { s.w with meeting := false } }) ∧
     (s.w.meeting = true → x.bits.getLsbD me = true → Stalls (.gbMeet b) u s s) ∧
     (s.w.meeting = false → x.members.getLsbD me = true → x.bits.getLsbD me = false → Stalls (.gbMeet b) u s (met (s.post b.toNat))) ∧
     (s.w.meeting = false → x.members.getLsbD me = true → x.bits.getLsbD me = true → Stalls (.gbMeet b) u s (met s)) ∧
     (s.w.meeting = false → x.members.getLsbD me = false → Traps (.gbMeet b) u s (s.trapOf .illOp)) ∧
     (x.members.getLsbD me = true → x.bits.getLsbD me = false → Retires (.gbPost b) u s (s.post b.toNat)) ∧
     (x.members.getLsbD me = true → x.bits.getLsbD me = true → Stalls (.gbPost b) u s s) ∧
     (x.members.getLsbD me = false → Traps (.gbPost b) u s (s.trapOf .illOp)) ∧
     (x.bits.getLsbD me = false → Retires (.gbAwait b) u s s) ∧ (x.bits.getLsbD me = true → Stalls (.gbAwait b) u s s) ∧
     (∀ q : BitVec 1, (x.phase ≠ decide (q = 1) → Retires (.gbAwaitPar q b) u s s) ∧
       (x.phase = decide (q = 1) → Stalls (.gbAwaitPar q b) u s s)) ∧
     (∀ a : BitVec 7,
       let n := s.src.sget a
       let v : Use := { wf := decide (b.toNat < 16), reads := [.s a.toNat] }
       (n.toNat ≤ 2 ^ 23 → Retires (.gbBytes a b) v s
         { s with g := s.g.setBar b.toNat ({ x with trans := x.trans + n.setWidth 24 }.test) }) ∧
       (2 ^ 23 < n.toNat → Traps (.gbBytes a b) v s (s.trapOf .illOp)) ∧
       (n.toNat < 2 ^ s.g.warps.length → Retires (.gbMembers a b) v s { s with g := s.g.setMembers b.toNat (n.setWidth 16) }) ∧
       (2 ^ s.g.warps.length ≤ n.toNat → Traps (.gbMembers a b) v s (s.trapOf .illOp)))) ∧
  ((∀ (d a b : BitVec 7) (s : State),
     let va := s.src.addrPair a
     let n := s.src.sget b
     let u (writes : List RegId) : Use := { wf := even a, reads := rspair a ++ [.s b.toNat], writes := writes, path := some 4, mem := true }
     let went (op : PathOp) (dst : Nat) (writes : List RegId) : State :=
       s.enqueue { s.entryOf 4 op dst [{ lane := 0, va := va, drop := false, data := 0, len := 16 }] writes with
         back := if meets writes maskRegs then some s.iss.back else none }
     (va % 16 = 0 → 1 ≤ n.toNat → n.toNat ≤ 2 ^ 24 → Retires (.mbArm a b) (u []) s (went (.mbArm n) 0 [])) ∧
     (va % 16 = 0 → 1 ≤ n.toNat → n.toNat ≤ 65535 → Retires (.mbPost d a b) (u [.s d.toNat]) s (went (.mbPost n) d.toNat [.s d.toNat])) ∧
     (va % 16 = 0 → n.toNat < 2 ^ 31 → Retires (.mbBytes a b) (u []) s (went (.mbBytes n) 0 [])) ∧
     (n.toNat = 0 ∨ 2 ^ 24 < n.toNat → Traps (.mbArm a b) (u []) s (s.trapOf .illOp)) ∧
     (n.toNat = 0 ∨ 65535 < n.toNat → Traps (.mbPost d a b) (u [.s d.toNat]) s (s.trapOf .illOp)) ∧
     (2 ^ 31 ≤ n.toNat → Traps (.mbBytes a b) (u []) s (s.trapOf .illOp)) ∧
     (va % 16 ≠ 0 → 1 ≤ n.toNat → n.toNat ≤ 65535 → ∀ i ∈ ([(.mbArm a b, []), (.mbPost d a b, [.s d.toNat]), (.mbBytes a b, [])] :
         List (Instr × List RegId)), Traps i.1 (u i.2) s { s.trapOf .misalign with addr := some va })) ∧
   (∀ (a b : BitVec 7) (s s1 : State) (pa : Nat) (t : Tlb),
     let va := s.src.addrPair a
     let u : Use := { wf := even a, reads := rspair a ++ [.s b.toNat], mem := true }
     (va % 16 ≠ 0 → Traps (.mbAwait a b) u s { s.trapOf .misalign with addr := some va }) ∧
     (va % 16 = 0 → s.translate s.g.core s.g.ref.ctx va false = (.ok pa t, s1) → s1.parkedOver s1.g.core pa 16 = false →
       s1.homeFails pa 16 t.key true = none →
       (field (s1.homeRead pa 16) 12 4 ≠ (s.src.sget b).toNat →
         Retires (.mbAwait a b) u s (((s1.sendLoad s1.g.core t.key pa 1 16).exchange s1.g.core pa false).dropClean s1.g.core)) ∧
       (field (s1.homeRead pa 16) 12 4 = (s.src.sget b).toNat → Stalls (.mbAwait a b) u s s))))

/-- R269..R275: an mma whose operand word, coordinate and addresses pass its checks is posted to the tile queue with
its lanes; it waits while the reservation table is full. In the order of R274 it traps with DRAW in a group with no draw, with ILL_OP for
its operand word, with ACC_RANGE for its coordinate, with MISALIGN and SCRATCH_RANGE for the address of its B block, and with the first of
the two that an active lane's row fails (the rank of the two among lanes is the model's: log entry 14). -/
def Obligations.MatrixForms : Prop :=
  ∀ q ∈ ([(.mma, false), (.mmaSat, true)] : List ((BitVec 4 → BitVec 4 → BitVec 7 → BitVec 7 → Instr) × Bool)),
    ∀ (f sh : BitVec 4) (v p : BitVec 7) (s : State),
      let word := s.src.sget p
      let coord := s.src.sget (p + 1)
      let place (l : Nat) : Nat := (laneAt (s.src.vget v) l).toNat
      let u : Use :=
        { wf := decide (f.toNat ≤ 8) && decide (sh.toNat ≤ 11) && even p && (!q.2 || decide (7 ≤ f.toNat)), vtop := v.toNat + 1,
          reads := .v v.toNat :: rspair p, lane := true, mem := true }
      let t1 := s.postTile (.mma f.toNat sh.toNat q.2) ((lanesIn s.active).map fun l => (l, place l)) word coord
      (s.tableFull = true → Stalls (q.1 f sh v p) u s s) ∧
      (s.tableFull = false → s.g.desc.draw = 0 → Traps (q.1 f sh v p) u s (s.trapOf .draw)) ∧
      (s.tableFull = false → s.g.desc.draw ≠ 0 → operandOk word (decide (7 ≤ f.toNat)) = true → coordOk s.g.desc coord (mmaN sh.toNat) = true →
        operandB word % 16 = 0 → s.g.scratchOk (operandB word) (mmaBlock f.toNat sh.toNat) = true →
        (∀ l ∈ lanesIn s.active, place l % 16 = 0 ∧ s.g.scratchOk (place l) (mmaRow f.toNat sh.toNat) = true) →
        Retires (q.1 f sh v p) u s { t1 with w := { t1.w with nextSeq := t1.w.nextSeq + 1 } }) ∧
      (s.tableFull = false → s.g.desc.draw ≠ 0 →
        let wordOk := operandOk word (decide (7 ≤ f.toNat)) = true
        let placed := coordOk s.g.desc coord (mmaN sh.toNat) = true
        let bFits := s.g.scratchOk (operandB word) (mmaBlock f.toNat sh.toNat) = true
        (¬wordOk → Traps (q.1 f sh v p) u s (s.trapOf .illOp)) ∧
        (wordOk → ¬placed → Traps (q.1 f sh v p) u s (s.trapOf .accRange)) ∧
        (wordOk → placed → operandB word % 16 ≠ 0 → Traps (q.1 f sh v p) u s { s.trapOf .misalign with addr := some (operandB word) }) ∧
        (wordOk → placed → operandB word % 16 = 0 → ¬bFits →
          Traps (q.1 f sh v p) u s { s.trapOf .scratchRange with addr := some (operandB word) }) ∧
        (∀ cause m va, wordOk → placed → operandB word % 16 = 0 → bFits →
          FirstFails [.misalign, .scratchRange] s.active (rowFailure s.g (mmaRow f.toNat sh.toNat) place) cause m va →
          Traps (q.1 f sh v p) u s { s.trapOf cause with mask := m, addr := some va }))

/-- R280, R281, R283..R286: the accumulator moves whose operand word, coordinate and addresses pass their checks are
posted to the tile queue and on TIL; they wait while the reservation table is full, and trap with ILL_OP for the operand word, then with
ACC_RANGE for the coordinate, then with the first of MISALIGN and SCRATCH_RANGE that an active lane fails (log entry 14); mcommit closes the open commit group, and mwait waits until at most n are
outstanding. -/
def Obligations.TileMoveForms : Prop :=
  (∀ (f w m : BitVec 4) (v p : BitVec 7) (s : State),
    let word := s.src.sget p
    let coord := s.src.sget (p + 1)
    let place (l : Nat) : Nat := (laneAt (s.src.vget v) l).toNat
    let lanes := (lanesIn s.active).map fun l => (l, place l)
    let width := 32 * 2 ^ w.toNat
    let count := 2 ^ m.toNat
    let size := moveSize f.toNat
    let u (wf : Bool) (vtop : Nat) (reads writes : List RegId) : Use :=
      { wf := wf && even p, vtop := vtop, reads := reads ++ rspair p, writes := writes, lane := true, path := some 5, mem := true }
    let went (op : TileOp) (xs : List (Nat × Nat)) (dst : Nat) (writes : List RegId) : State :=
      (s.postTile op xs word coord).enqueue (s.entryOf 5 .move dst [] writes)
    let fits := ∀ l ∈ lanesIn s.active, place l % 16 = 0 ∧ s.g.scratchOk (place l) (width * size) = true
    let plain := f == 0 || f == 6 || f == 7
    let regs := rvrun v.toNat count
    let uZero := u (decide (w.toNat ≤ 3)) 0 [] []
    let uLd := u (decide (f.toNat ≤ 2) && decide (w.toNat ≤ 3)) (v.toNat + 1) [.v v.toNat] []
    let uSt := u (decide (f.toNat ≤ 7) && decide (w.toNat ≤ 3)) (v.toNat + 1) [.v v.toNat] []
    let uGet := u (decide (m.toNat ≤ 3) && v.toNat % count == 0) (v.toNat + count) [] regs
    let uFill := u (decide (m.toNat ≤ 3) && v.toNat % count == 0) (v.toNat + count) regs []
    (s.tableFull = true → ∀ i ∈ [(.tzero w p, uZero), (.tld f w v p, uLd), (.tst f w v p, uSt), (.tget m v p, uGet), (.tfill m v p, uFill)],
      Stalls i.1 i.2 s s) ∧
    (s.tableFull = false →
    (word ≠ 0 → Traps (.tld f w v p) uLd s (s.trapOf .illOp)) ∧
    (operandOk word plain = false → Traps (.tst f w v p) uSt s (s.trapOf .illOp)) ∧
    (coordOk s.g.desc coord width = false →
      Traps (.tzero w p) uZero s (s.trapOf .accRange) ∧ (word = 0 → Traps (.tld f w v p) uLd s (s.trapOf .accRange)) ∧
      (operandOk word plain = true → Traps (.tst f w v p) uSt s (s.trapOf .accRange))) ∧
    (coordOk s.g.desc coord count = false →
      Traps (.tget m v p) uGet s (s.trapOf .accRange) ∧ Traps (.tfill m v p) uFill s (s.trapOf .accRange)) ∧
    (∀ cause lanes va, coordOk s.g.desc coord width = true →
      FirstFails [.misalign, .scratchRange] s.active (rowFailure s.g (width * size) place) cause lanes va →
      (word = 0 → Traps (.tld f w v p) uLd s { s.trapOf cause with mask := lanes, addr := some va }) ∧
      (operandOk word plain = true → Traps (.tst f w v p) uSt s { s.trapOf cause with mask := lanes, addr := some va })) ∧
    (coordOk s.g.desc coord width = true →
      Retires (.tzero w p) uZero s (went (.tzero width) [] 0 []) ∧
      (word = 0 → fits →
        Retires (.tld f w v p) uLd s
          (went (.tld f.toNat width) lanes 0 [])) ∧
      (operandOk word plain = true → fits →
        Retires (.tst f w v p) uSt s
          (went (.tst f.toNat width) lanes 0 []))) ∧
    (coordOk s.g.desc coord count = true →
      Retires (.tget m v p) uGet s (went (.tget count v.toNat) [] v.toNat regs) ∧
      Retires (.tfill m v p) uFill s
        (went (.tfill count ((List.range count).map fun i => s.src.vget (v + BitVec.ofNat 7 i))) [] 0 [])))) ∧
  (∀ s : State,
    (s.w.outstanding < 63 → Retires .mcommit { mem := true } s { s with w := { s.w with cgOpen := s.w.cgOpen + 1 } }) ∧
    (63 ≤ s.w.outstanding → Stalls .mcommit { mem := true } s s) ∧
    (∀ n : BitVec 7, (s.w.outstanding ≤ n.toNat → Retires (.mwait n) { mem := true } s s) ∧
      (n.toNat < s.w.outstanding → Stalls (.mwait n) { mem := true } s s)))

/-- R357, R358, R397: nemit in a group that is not deterministic, to a node that is bound, enters one entry on ATM
with the 16 bytes of each active lane, and traps with PROT otherwise; coll enters its record's address, a multiple of
64, in the collective queue. -/
def Obligations.EmissionForms : Prop :=
  (∀ (n v : BitVec 7) (s : State),
    let num := (s.src.sget n).toNat % 256
    let isBound := s.g.desc.determ = false ∧ ∃ b, s.nodeOf s.g.ref.ctx num = some b
    let u : Use := { wf := v.toNat % 4 == 0, vtop := v.toNat + 4, reads := .s n.toNat :: rvrun v.toNat 4, lane := true, path := some 4, mem := true }
    (isBound → Retires (.nemit n v) u s
      (s.enqueue (s.entryOf 4 (.nemit num) 0
        ((lanesIn s.active).map fun l => { lane := l, va := 0, drop := false, data := laneData s.src v.toNat 4 l, len := 16 }) []))) ∧
    (¬isBound → Traps (.nemit n v) u s (s.trapOf .prot))) ∧
  (∀ (a : BitVec 7) (s : State),
    let va := s.src.addrPair a
    let u : Use := { wf := even a, reads := rspair a, mem := true }
    (va % 64 = 0 → Retires (.coll a) u s
      { s with w := { s.w with collQ := s.w.collQ ++
          [{ set := s.iss.setNo, pc := s.iss.at_, clk0 := s.w.clk, addr := va, fence := none, record := none, peers := [], written := false }] } }) ∧
    (va % 64 ≠ 0 → Traps (.coll a) u s { s.trapOf .misalign with addr := some va }))

/-! ### Events of a warp (04_warp.md, 10_buffer.md, 11_access.md) -/

/-- R112, R113, R218, R209, R223: what a load, a record load or an atomic fetched is written into its registers when
the operation is performed, and its entry completes; a store leaves the warp's queue lane by lane, in order, and its
entry completes (R219). R224, R225: a scratchpad access is performed lane by lane, once no earlier access of the warp
to its bytes is outstanding and none of its pages is being switched (R216); a load or an atomic writes its registers.
R190, R191: a result that would leave a chain split under the mask is not written, and raises CHAIN_SPLIT precisely at the slot that
raised it, with the registers as they were before its set (that an in-flight result is judged when it lands, and at its writer, is the
model's reading, log entry 32). -/
def Obligations.PathEvents : Prop :=
  let splits (u : State) (e : PathEntry) : Prop :=
    let r := u.w.regs.putEntry e
    meets e.writes maskRegs = true ∧ r.chn ≠ 0 ∧ splitChains r.chn r.mask ≠ 0
  let written (u : State) (e : PathEntry) : Host.Outcome State Fault Refusal :=
    .next (State.finish { u with w := u.w.putEntry e } e).park
  (∀ (s : State) (r : WRef) (t : State), s.Holds r t →
     (∀ seq u e, t.returnHeld seq = false → t.loadPart seq = some (u, e) → ¬splits u e → exec (.loadReturn r seq) s = written u e) ∧
     (∀ seq u e, t.recordPart seq = some (u, e) → ¬splits u e → exec (.recordReturn r seq) s = written u e) ∧
     (∀ seq u e, t.returnHeld seq = false → t.atomPart seq = some (u, e) →
       (¬splits u e → exec (.atomicPerformed r seq) s = written u e) ∧
       (splits u e → ∃ v, exec (.atomicPerformed r seq) s = .next (State.park v) ∧
         v.w.regs = (match e.back with | some x => x.regs | none => u.w.regs) ∧
         (u.g.status = .resident → ∃ x, v.g.trap = some x ∧ x.cause = .chainSplit ∧ x.precise = true ∧ x.pc = e.pc))) ∧
     (∀ e u v, (t.w.entries.find? fun e => e.path == 1 && !e.done) = some e → t.w.setWaits e.set = false →
       (e.order = 2 → t.lanesCopying e = false) → t.fixLoads e.seq = some u →
       (e.order = 0 ∧ v = u ∨ e.order ≠ 0 ∧ u.w.allDone e.seq = true ∧ u.release (u.scopeOf e) = some v) →
       v.storeFails e e.reqs = some [] → e.op.chains = none →
       let x := v.storeLanes e ((e.reqs.filter fun q => !q.drop).map fun q => [q])
       exec (.storeLeavesQueue r) s = .next (x.1.finish { e with got := some [], fails := e.fails ++ x.2 }).park)) ∧
  (∀ (s : State) (r : WRef) (t : State) seq e x, s.Holds r t → t.w.entryAt seq 2 = some e → t.returnHeld seq = false →
     t.w.scratchAhead e = false → t.scratchAway e = false →
     (∀ q ∈ e.reqs, t.scratchShut q.va e.op.size = false ∧ (e.op.writesScratch = true → t.rowHeld q.va e.op.size = false)) →
     t.scratchLanesDo e e.reqs = some x →
     let e1 := e.judge x.2.1 x.2.2
     (¬splits x.1 e1 → exec (.scratchAccessPerformed r seq) s = written x.1 e1) ∧
     (∀ (g : Regs) n signed, e.op = .sload n signed → g.putEntry e1 = g.putLoad e1 n signed) ∧
     (∀ (g : Regs) n, e.op = .sstore n → g.putEntry e1 = g) ∧
     (∀ (g : Regs) op signed, e.op = .satom op signed → g.putEntry e1 = g.putLoad e1 4 false))

/-- R227, R228, R230, R239: a fence, an rfence, a flush or an inval ends when what it waits for is performed and
written back; a sector dirty for too long is written back to its home slice. R97, R377, R375: an instruction-cache
fill brings a line of 128 bytes from its home; a walk that ends in a leaf sets A in the leaf and installs the
translation. -/
def Obligations.CacheEvents : Prop :=
  ((∀ (s : State) (r : WRef) (t : State), s.Holds r t →
     let freed (u : State) : Host.Outcome State Fault Refusal := .next { u with w := { u.w with hold := .none } }.park
     (∀ upto, t.w.hold = .fence 0 upto → t.w.fenceMet upto = true → exec (.writeBackLanded r) s = freed t) ∧
     (∀ code upto u, t.w.hold = .fence code upto → 1 ≤ code → code < 3 → t.w.fenceMet upto = true → t.release code = some u →
       exec (.writeBackLanded r) s = freed (u.dropClean u.g.core)) ∧
     (∀ code upto u, t.w.hold = .fence code upto → 3 ≤ code → code ≤ 4 → t.w.fenceMet upto = true → t.release (code - 2) = some u →
       exec (.writeBackLanded r) s =
         freed ((u.dropClean u.g.core).updCore u.g.core fun k => { k with scClock := k.scClock + 1 })) ∧
     (∀ upto u, t.w.hold = .rfence upto → (∀ e ∈ t.w.entries, e.path = 1 → e.seq < upto → e.done = true) → t.release 1 = some u →
       exec (.writeBackLanded r) s = freed (u.updCore u.g.core fun k => { k with recs := [] })) ∧
     (∀ inval va count, t.w.hold = .cache inval va count →
       let u := t.cacheLines inval fun l => count == 0 || (t.namedLines va count).contains l.base
       u.coreParked u.g.core = false → exec (.writeBackLanded r) s = freed u)) ∧
   (∀ (s : State) core pa l, (s.coreAt core).line? pa = some l →
     let ps := Marks.within l.dirty (sectorOf pa) 128
     exec (.dirtySectorWriteback core pa) s =
       .next ((s.homeStore core l.key ps).updCore core fun k => k.setLine (l.cleaned ps)))) ∧
  (∀ (s : State) (core ctx va : Nat),
     (∀ pa t u, (s.coreAt core).ifills.contains (ctx, va) = true → s.translate core ctx va false = (.ok pa t, u) → t.x = true →
       u.homeFails pa 128 t.key true = none →
       exec (.ifetchFillDone core ctx va) s = .next ((u.updCore core fun k =>
         { k with icache := codePut k.icache { ctx := ctx, va := va, data := u.homeRead pa 128 } }).updCore core fun k =>
         { k with ifills := k.ifills.filter (· != (ctx, va)) })) ∧
     (∀ e ea size, s.walk ctx va = .leaf e ea size → e.getLsbD 5 = true →
       exec (.translationWalkDone core ctx va) s = .next (s.install core (s.leafTlb ctx va e ea size (e.getLsbD 6)))) ∧
     (∀ e ea size, s.walk ctx va = .leaf e ea size → e.getLsbD 5 = false → s.copying ea = false →
       exec (.translationWalkDone core ctx va) s =
         .next ((s.orEntry ea 0x20).install core ((s.orEntry ea 0x20).leafTlb ctx va e ea size (e.getLsbD 6)))))

/-- R138, R309, R310, R263, R108: a sleeping warp wakes when its timer lapses; a warp that a halt broadcast reaches
stops where it stands; the watchdog halts a group as a trap of warp 0 does; at a notice or the interval a warp stalled at a
waitge or an mb.await has its word reread, by a link operation where it is remote (R395), and is ready if its wait ends (R263, R326); a draining warp exits once nothing of it
is outstanding and no shadowed result waits for its write (R41). R315: an arrival that a warp has posted is applied to its barrier once the warp's earlier entries have completed. -/
def Obligations.WarpEvents : Prop :=
  (∀ (s : State) (r : WRef) (t : State), s.Holds r t →
     (t.w.status = .sleeping → t.g.status = .resident →
       exec (.sleepTimerLapse r) s = .next { t with w := { t.w with status := .ready, sleepLeft := 0 } }.park) ∧
     (t.w.bcast = true → t.w.status = .ready ∨ t.w.status = .stalled ∨ t.w.status = .sleeping →
       exec (.haltBroadcast r) s = .next { t with w := { t.w with status := .halted, saved := t.w.status, stopPc := t.w.pc, bcast := false } }.park) ∧
     (∀ c, r.w = 0 → t.ctxOf r.g.ctx = some c → c.watchdog ≠ 0 → t.g.status = .resident →
       exec (.watchdog r.g) s = .next (t.raiseAfter (t.lateTrap .watchdog t.w.pc 0 none) (t.w.clk - 1)).park) ∧
     (∀ a p (x : Word) pa (k : Tlb), t.w.status = .stalled → t.w.packet = some (a, p) → p.slot ((t.w.pc - a - 4) / 4) = x →
       (x &&& 0xFFFC000F = 0xA8000002 →
         t.peek t.g.core t.g.ref.ctx (t.w.regs.addrPair (x.extractLsb' 11 7)) false = .ok pa k →
         t.parkedOver t.g.core pa 8 = false → t.homeFails pa 8 k.key true = none →
         ∀ i ∈ [Instr.writeNotice (.warp r), .rereadInterval (.warp r)],
           let u := t.sendLoad t.g.core k.key pa 0 8
           exec i s = .next (if (t.w.regs.spair (x.extractLsb' 4 7)).toNat ≤ leNat (t.homeRead pa 8)
             then { u with w := { u.w with status := .ready } } else u).park) ∧
       (x &&& 0xFFFFC000 = 0xACE00000 →
         t.peek t.g.core t.g.ref.ctx (t.w.regs.addrPair (x.extractLsb' 7 7)) false = .ok pa k →
         t.parkedOver t.g.core pa 16 = false → t.homeFails pa 16 k.key true = none →
         ∀ i ∈ [Instr.writeNotice (.warp r), .rereadInterval (.warp r)],
           let u := t.sendLoad t.g.core k.key pa 0 16
           exec i s = .next (if field (t.homeRead pa 16) 12 4 ≠ (t.w.regs.sget (x.extractLsb' 0 7)).toNat
             then { u with w := { u.w with status := .ready } } else u).park)) ∧
     (t.w.status = .draining → t.w.entries = [] → t.w.reserved = 0 → (∀ x ∈ t.w.windows, x.shadowed = true → x.ready = true) → (∀ p ∈ t.g.posted, p.warp ≠ t.w.wid) →
       let w := { t.w with status := .exited }
       let g := (t.g.putWarp w).dropMember w.wid
       ((∃ v ∈ g.warps, v.status ≠ .exited) → exec (.warpDrained r) s = .next { t with w := w, g := g }.park) ∧
       ((∀ v ∈ g.warps, v.status = .exited) → g.status = .resident →
         exec (.warpDrained r) s = .next (State.leftCore (State.retireGroup { t with w := w, g := g }) g.core).park))) ∧
  (∀ (s : State) (r : WRef) (t : State) b p, s.HoldsAny r t →
     (t.g.posted.find? fun p => p.warp == t.w.wid && p.bar == b) = some p → t.w.fenceMet p.upto = true → t.w.setWaits p.set = false →
     exec (.arrivalApplied r b) s = .next { t with g := { t.g with posted := t.g.posted.erase p }.arrive b }.parkAny ∧
     (t.g.absent = false → b < t.g.bars.length →
       ({ t.g with posted := t.g.posted.erase p }.arrive b).bars[b]? =
         some ({ t.g.bar b with arrived := (t.g.bar b).arrived + 1 }.test)))

/-! ### Events of the copy unit and the matrix engine (12_copy.md, 13_tile.md) -/

/-- R41, R245, R253, R256, R259, R265, R266: a stage that waited, and that heads its copy queue with its set written, reads its schedule and
goes on; a queued copy entry starts once its set is written; a hold is
dropped after 64 KiB; a row of a schedule entry lands in scratch, and a lane of a cpy32; a cpy32 completes once all
its lanes have landed. -/
def Obligations.CopyEvents : Prop :=
  ∀ (s : State) (r : WRef) (t : State), s.HoldsAny r t →
    (∀ q l g h u x, s.groupOf r.g = some g → g.schedWait.head? = some q → q.warp = r.w → t.g.schedWait = q :: l → q.warp = t.w.wid →
      (∃ i m, t.w.copyQ = i :: m ∧ i.op = .stage q.number ∧ t.w.setWaits i.set = false) →
      (let t1 := { t with g := { t.g with schedWait := l } }
       t1.readGranules t1.g.core t1.g.ref.ctx t1.g.desc.sched 2 = .ok h u) → headerOk h = true →
      u.releaseAll q h (List.range (wordAt h 0)) = some x →
      let v : State := { x.1 with w := x.1.w.putReleased q.number x.2.1 }
      exec (.scheduleReadDone r.g) s = .next (x.2.2.foldl (fun v f => v.engineTrap f q.clk0) v).parkAny) ∧
    (∀ i l, t.w.passFences.copyQ = i :: l → (∀ n, i.op ≠ .fence n) → (∀ n, i.op ≠ .stage n) → i.st = .queued →
      t.w.passFences.setWaits i.set = false →
      exec (.copyEntryStart r) s =
        .next { t with w := { t.w.passFences with copyQ := { i with st := .moving } :: l } }.parkAny) ∧
    (∀ i l n bytes dy dz, t.w.copyQ = i :: l → i.op = .sched n bytes dy dz → i.st = .moving →
      let e := itemEntry bytes dy dz t.g.linear.toNat
      (65536 < i.heldBytes + (itemEntry bytes dy dz 0).x →
        exec (.copyHoldRenew r) s = .next { t with w := { t.w with copyQ := { i with held := [], heldBytes := 0 } :: l } }.parkAny) ∧
      (∀ bs held u, i.rows + 1 < e.y * e.z → i.heldBytes + e.x ≤ 65536 → e.dest = none →
        t.rowRead i.held e.src (e.x0 + (e.y0 + (i.rows % e.y : Nat)) * recStrideY e.src + (e.z0 + (i.rows / e.y : Nat)) * recStrideZ e.src) e.x =
          .ok bs held u → u.w = t.w →
        let place := e.dst + (i.rows / e.y * e.y + i.rows % e.y) * e.x
        u.scratchHeld place e.x = false →
        let v := u.scratchWrite place bs
        exec (.copyDataLanded r) s =
          .next ((if e.kind = 1 then { v with g := v.g.landBytes e.bar e.x } else v).setCopyHead
            { i with rows := i.rows + 1, held := held, heldBytes := i.heldBytes + e.x }).parkAny)) ∧
    (∀ i l seq e, t.w.copyQ = i :: l → i.op = .cpy32 seq → i.st = .moving → (t.w.entries.find? (·.seq == seq)) = some e →
      (∀ q bs held u, e.reqs[i.rows]? = some q → t.w.setWaits e.set = false → t.scratchHeld q.data.toNat 32 = false →
        t.laneCopy i.held q = .ok bs held u →
        exec (.copyDataLanded r) s =
          .next ((u.scratchWrite q.data.toNat bs).setCopyHead
            { i with rows := i.rows + 1, held := held, heldBytes := i.heldBytes + 32 }).parkAny) ∧
      (e.reqs.length ≤ i.rows → t.g.absent = false → e.fails = [] →
        exec (.cpy32Complete r) s =
          .next (({ t with w := ({ t.w with copyQ := l }.passFences).setEntry e }).complete seq).parkAny))

/-- R276, R289, R272, R277, R278, R286: an mma takes an operand latch, gathers its rows, is granted a column chunk,
whose words are computed from the accumulator and B as they are then, and writes it; an engine that computes nothing
becomes idle; an accumulator move at the head of its queue is performed. -/
def Obligations.MatrixEvents : Prop :=
  (∀ (s : State) (r : WRef) (t : State), s.Holds r t →
    (∀ seq e, t.w.mmaOf seq = some e →
      (e.st = .posted → t.g.status = .resident → t.w.setWaits e.set = false → t.latches t.g.core < 2 →
        (∀ x ∈ t.w.tileBefore seq, (x.op.isMove || x.latched) = true) →
        exec (.operandLatchTake r seq) s = .next { t with w := t.w.setTile { e with st := .gathering } }.park) ∧
      (∀ f sh sat x, e.op = .mma f sh sat → e.st = .gathering → t.scratchRows (mmaRow f sh) e.addrs = some x →
        (x.2.2 = [] → exec (.gatherDone r seq) s =
          .next (State.park { x.1 with w := x.1.w.setTile { e with st := .ready, rows := x.2.1 } })) ∧
        (x.2.2 ≠ [] → exec (.gatherDone r seq) s = .next (x.1.tileStop e .eccUncorr).park))) ∧
    (∀ e l x u, t.w.tileQ = e :: l → e.op.isMove = true → t.g.status = .resident → t.moveWaits e = false →
      t.w.entryAt e.seq 5 = some x → t.moveRun e = some u →
      let w := u.1.w.dropTile e
      exec (.accMovePerformed r) s =
        .next (State.finish { u.1 with w := { w with badRegs := w.badRegs.filter fun y =>
          !(x.writes.contains (.v y.1) && (e.act.getLsbD y.2 && !(u.2.any (·.lane == y.2)))) } } { x with fails := u.2 }).park)) ∧
  (∀ (s : State) (core : Nat),
    (∀ g w e t f sh sat x, (s.coreAt core).colCheck = false → (∀ m ∈ (s.coreAt core).mowing, m.1 ≠ .column) →
      s.engineBusy core = false → pickGrant (s.grantList core) = some (g, w, e) →
      s.powerOk core g = true → s.load ⟨g.ref, w.wid⟩ = some t → e.op = .mma f sh sat →
      t.scratchRows (runBytes f) (chunkRuns f sh (operandB e.word) e.chunks) = some x →
      (x.2.2 = [] → chunkBad x.1.g e = false →
        exec (.columnChunkGrant core) s =
          .next (State.updCore { x.1 with w := x.1.w.setTile { e with st := .running, granted := some (chunkWords x.1.g e f sh sat (x.2.1.map Prod.snd)) } }
            x.1.g.core fun k => { k with engineActive := true }).park) ∧
      (x.2.2 ≠ [] ∨ chunkBad x.1.g e = true → exec (.columnChunkGrant core) s = .next (x.1.tileStop e .eccUncorr).park)) ∧
    (∀ g w e t, s.running core = some (g, w, e) → e.rerun = false → s.load ⟨g.ref, w.wid⟩ = some t →
      (∀ xs j, e.divergence xs = some j →
        exec (.columnChunkDone core xs) s =
          .next { t with w := t.w.setTile { e with rerun := true, suspect := (s.coreAt core).logicalCols[j]? } }.park) ∧
      (∀ xs, e.divergence xs = none →
        let e1 := { e with chunks := e.chunks + 1, granted := none, divs := 0 }
        exec (.columnChunkDone core xs) s =
          .next { t with g := t.g.putAcc (e.granted.getD []),
                         w := if e.op.columns ≤ e.chunks + 1 then t.w.dropTile e1 else t.w.setTile e1 }.park) ∧
      e.divergence [] = none ∧ (∀ f sh sat xs, e.op = .mma f sh sat → 7 ≤ f → e.divergence xs = none)) ∧
    (s.engineBusy core = false →
      exec (.engineIdle core) s = .next (s.updCore core fun k => { k with engineActive := false })))

/-! ### Events of the fold (01_fold.md, 26_prog_retire.md) -/

/-- R82, R39, R41, R42, R43: results are written, or a divergence marks the instruction for its check; a check that
passes sends the instruction or the chunk back, the third one stops it with MACHINE_CHECK, its registers and its slot count as they were
before its set, and one that fails retires the unit it blames. R40: a shadow of another class or sign diverges from a result; one of the
same class and sign diverges where the result is finite and not zero and the exponents differ, or the significands by more than one unit,
a significand that carries into the next exponent apart. (That what the set has done is put back so far at the third divergence is the
model's reading, log entry 108; that a subnormal is read by its leading bit is its choice, log entry 93.) -/
def Obligations.DivergenceEvents : Prop :=
  let logged (v : State) : State := { v with switor := { v.switor with divLog := v.switor.divLog + 1 } }
  (∀ (s : State) (r : WRef) (t : State), s.Holds r t →
    (∀ x, t.w.unwritten = some x →
      (∀ xs, t.divergence x.set xs = none →
        (∀ z ∈ t.w.windows, z.set = x.set → z.entry = none → t.bankHeld z.writes (lanesIn z.act) = false) →
        exec (.registerResultWritten r xs) s =
          .next { t with w := t.w.mapSet x.set fun (z : LookWindow) => if z.entry.isNone then { z with ready := true } else z }.park) ∧
      (∀ xs y u, t.divergence x.set xs = some (y, u) →
        exec (.registerResultWritten r xs) s =
          .next { t with w := t.w.mapSet x.set fun (z : LookWindow) => if z.pc = y.pc then { z with rerun := true, suspect := some u } else z }.park) ∧
      t.divergence x.set [] = none ∧
      ((∀ z ∈ t.w.windows, z.set = x.set → z.shadowed = false) → ∀ xs, t.divergence x.set xs = none)) ∧
    (∀ x u, (t.w.windows.find? fun x => x.rerun && !x.rewrite) = some x → x.suspect = some (u.kind, u.index) → u.core = t.g.core →
      u.part = t.w.part →
      (x.divs < 2 → exec (.shadowRerunDone r u true) s =
        .next (logged { t with w := t.w.mapSet x.set fun (y : LookWindow) => if y.pc = x.pc then { y with divs := x.divs + 1, rerun := false } else y }).park) ∧
      (2 ≤ x.divs → exec (.shadowRerunDone r u true) s = .next (t.machineCheck x).park ∧
        (t.machineCheck x).w.regs = x.undo.regs ∧ (t.machineCheck x).w.clk = x.undo.clk0 ∧ (t.machineCheck x).w.pc = x.pc ∧
        (t.machineCheck x).w.status = .halted) ∧
      ((t.coreAt u.core).unit u = some .live → exec (.shadowRerunDone r u false) s =
        .next (logged (State.failUnit { t with w := t.w.mapSet x.set fun (y : LookWindow) => if y.pc = x.pc then { y with rewrite := true } else y } u)).park) ∧
      ((t.coreAt u.core).unit u = some .suspect → exec (.shadowRerunDone r u false) s =
        .next (logged { t with w := t.w.mapSet x.set fun (y : LookWindow) => if y.pc = x.pc then { y with rewrite := true } else y }).park))) ∧
  (∀ (s : State) core col g w e t, s.running core = some (g, w, e) → e.rerun = true → e.rewrite = false → e.suspect = some col →
    s.load ⟨g.ref, w.wid⟩ = some t →
    (e.divs < 2 → exec (.columnRecheckDone core col true) s =
      .next (logged { t with w := t.w.setTile { e with divs := e.divs + 1, rerun := false, suspect := none } }).park) ∧
    (2 ≤ e.divs → exec (.columnRecheckDone core col true) s = .next (t.tileStop e .machineCheck).park) ∧
    (let u : UnitId := { kind := .column, core := core, part := 0, index := col }
     let waits := logged { t with w := t.w.setTile { e with rewrite := true } }
     ((t.coreAt core).unit u = some .live → exec (.columnRecheckDone core col false) s = .next (waits.failUnit u).park) ∧
     ((t.coreAt core).unit u = some .suspect → exec (.columnRecheckDone core col false) s = .next waits.park))) ∧
  (∀ (f : Fmt) (x : Nat) (sh : Shadow),
    (f.cls x ≠ sh.cls ∨ f.signOf x ≠ sh.neg → f.diverges x sh = true) ∧
    (f.cls x = sh.cls → f.signOf x = sh.neg →
      (f.cls x ≠ .normal → f.cls x ≠ .subnormal → f.diverges x sh = false) ∧
      (f.cls x = .normal ∨ f.cls x = .subnormal →
        let carried := f.leadSig x = 2 ^ f.shadowBits ∧ sh.exp = f.leadExp x + 1 ∧ sh.sig = 2 ^ (f.shadowBits - 1)
        (f.diverges x sh = true ↔ ¬carried ∧ (f.leadExp x ≠ sh.exp ∨ f.leadSig x + 1 < sh.sig ∨ sh.sig + 1 < f.leadSig x)))))

/-- R21, R22, R33, R34, R35, R36, R410: a check that a unit fails makes it suspect, or starts the evacuation of a bank, or
retires a scalar pipe with its partition; a unit whose evacuation ends is retired, with its record in flash and bit 0
of EVENT_CAUSE. R20, R22, R24, R25, R27, R29, R31, R37, R38, R440: the tables of a partition, of a scratchpad and of
an engine are rewritten from its live units; suspect units retire first; issue is held until the lanes' results are written. (That an
assigned bank that fails is evacuating at once, its table and copy begun in that step, is the model's reading, log entry 107.) -/
def Obligations.UnitEvents : Prop :=
  ((∀ (s : State) u, ((s.coreAt u.core).unit u = some .live → exec (.mowingHold u) s = .next (s.setMowing u true)) ∧
     exec (.selfCheckStep u true) s = .next (s.setMowing u false)) ∧
   (∀ (s : State) u,
     let s1 := s.setMowing u false
     let p := s1.partAt u.core u.part
     let suspect := s1.updCore u.core fun k => k.setUnit u .suspect
     (s1.coreAt u.core).unit u = some .live →
     (u.kind = .lane → exec (.selfCheckStep u false) s = .next suspect) ∧
     (u.kind = .quad → exec (.selfCheckStep u false) s = .next (suspect.updPart u.core u.part fun p =>
       { p with lanes := (List.range p.lanes.length).map fun l =>
           if l / 4 = u.index ∧ p.lanes.getD l .retired = .live then .suspect else p.lanes.getD l .retired })) ∧
     (u.kind = .bank → p.retiredWhole = true ∨ p.evacuates = true ∨ u.index ∉ p.bankOf → exec (.selfCheckStep u false) s = .next suspect) ∧
     (u.kind = .bank → p.retiredWhole = false → p.evacuates = false → u.index ∈ p.bankOf →
       let leaving := s1.updCore u.core fun k => k.setUnit u .evacuating
       (∀ t, bankTable p.bankOf (p.spares p.bankOf) u.index = some t →
         exec (.selfCheckStep u false) s =
           .next (leaving.updPart u.core u.part fun q => { q with newBankOf := some t, copied := (u.index, 0) :: q.copied })) ∧
       (bankTable p.bankOf (p.spares p.bankOf) u.index = none →
         exec (.selfCheckStep u false) s = .next (leaving.retirePart u.core u.part))) ∧
     (u.kind = .scalar → exec (.selfCheckStep u false) s = .next ((s1.retireUnit u).retirePart u.core u.part)) ∧
     (u.kind = .sbank →
       ((s1.coreAt u.core).relays = true → exec (.selfCheckStep u false) s = .next suspect) ∧
       ((s1.coreAt u.core).relays = false → exec (.selfCheckStep u false) s =
         .next (s1.updCore u.core fun k => { k.setUnit u .evacuating with copied := k.sbankRanks.map fun b => (b, 0) }))) ∧
     (u.kind = .column → exec (.selfCheckStep u false) s = .next (suspect.updCore u.core fun k => { k with colCheck := true }))) ∧
   (∀ (s : State) u, (s.coreAt u.core).unit u = some .evacuating → s.copyLeft u = false → (∀ x ∈ s.flash.retired, x.1 ≠ unitCode u) →
     exec (.evacuationComplete u) s =
       .next { s with cores := (s.updCore u.core fun k => k.setUnit u .retired).cores,
                      flash := { s.flash with retired := s.flash.retired ++ [(unitCode u, s.time.toNat)] },
                      switor := { s.switor with cause := s.switor.cause ||| 1 } })) ∧
  (∀ (s : State) core, core < 192 →
     (∀ part, part < 4 →
       let held := s.setRewriting core (some part) true
       let u := s.retireSuspects core part
       let q := u.partAt core part
       let moved := (unitsIn q.banks .evacuating).isEmpty
       (s.rewriteReady core (some part) = false → exec (.rewritePoint core (.partition part)) s = .next held) ∧
       (s.rewriteReady core (some part) = true → q.retiredWhole = false →
         (12 ≤ q.width → q.scalar = .live → exec (.rewritePoint core (.partition part)) s =
           .next (((((u.updPart core part fun x =>
             { x with bankOf := if moved then q.newBankOf.getD q.bankOf else q.bankOf, newBankOf := if moved then none else x.newBankOf,
                      retiredWhole := false, laneTable := unitsIn x.lanes .live }).fitBudget core part).replayOn core part).nextEvacuation
               core part).setRewriting core (some part) false)) ∧
         (q.width < 12 ∨ q.scalar ≠ .live → exec (.rewritePoint core (.partition part)) s =
           .next ((((u.retirePart core part).updPart core part fun x => { x with laneTable := unitsIn x.lanes .live }).replayOn core part).setRewriting
             core (some part) false)))) ∧
     (let held := s.setRewriting core none true
      let k := s.coreAt core
      let live := (List.range k.sbanks.length).filter fun b => k.sbanks.getD b .retired == .live || k.sbanks.getD b .retired == .suspect
      (s.rewriteReady core none = false → exec (.rewritePoint core .scratchpad) s = .next held) ∧
      (s.rewriteReady core none = true → unitsIn (s.coreAt core).sbanks .evacuating = [] →
       (s.coreAt core).sbankRanks.length ≤ live.length →
       exec (.rewritePoint core .scratchpad) s =
         .next ((((s.updCore core fun k => { k with sbankRanks := live }).offerFrames core).nextRelay core).setRewriting core none false))) ∧
     (let live := unitsIn (s.coreAt core).cols .live
      (s.coreAt core).colCheck = true → unitsIn (s.coreAt core).cols .suspect = [] → 8 ≤ live.length →
       exec (.columnTableRewrite core) s =
         .next { s with
           cores := (s.updCore core fun k => { k with colTable := live, colCheck := false }).cores,
           groups := s.groups.map fun g =>
             if g.onCore && g.core == core then
               { g with warps := g.warps.map fun w => { w with tileQ := w.tileQ.map fun (e : TileEntry) =>
                   if e.rewrite then { e with rerun := false, rewrite := false, suspect := none } else e } }
             else g }))

/-! ### Events of groups (14_group.md) -/

/-- R293, R294, R297: once the contexts that RESUME brings back have re-entered dispatch (R366), the dispatcher serves the
launches in the order of R293: a group that an eligible core can hold is placed on the best one; for one that none can
hold victims are evicted; a group that waits for its victims is placed once its core can hold it. R216, R304, R364: a
page of a scratchpad window is switched to its new place; what arrives for an absent group goes to its return slot,
and a diversion entry goes when nothing more can arrive; a held trap record is placed when its queue has room. -/
def Obligations.DispatchEvents : Prop :=
  (∀ (s0 : State),
     let s := (s0.ctxs.filter (·.state == .resuming)).foldl (fun t c => t.resumed c.id) s0
     let waiting := s.groups.filter fun g => (g.status == .pending || g.status == .evicted) && g.target.isSome && s.dispatches g.ref.ctx
     (∀ l r g h u, waiting = [] → s.serveOrder = l :: r → s.nextOf l = some g →
       (g.status = .pending ∧ g.image = 0 → s.reserveGroup g = some (h, u)) →
       ((g.status = .pending → g.image ≠ 0) → h = g ∧ u = s) →
       (∀ k, (u.taken g).bestCore h = some k →
         exec .dispatchSelect s0 = .next (((u.taken g).placeOn h k).servedLaunch l)) ∧
       (∀ k vs, (u.taken g).bestCore h = none → (u.taken g).victims h = some (k, vs) →
         exec .dispatchSelect s0 =
           .next ((((u.taken g).evictAll (vs.map (·.ref))).setGroup { h with target := some k }).servedLaunch l))) ∧
     (∀ g r k, waiting = g :: r → g.target = some k → (s.coreAt k).fits (s.others k g) g = true → (s.coreAt k).vacated = false →
       exec .dispatchSelect s0 = .next (s.placeOn g k))) ∧
  ((∀ (s : State) (r : GRef) (t : State) i p f, s.HoldsGroup r t → t.g.pages[i]? = some p →
     let put (u : State) (m : Bool) : Host.Outcome State Fault Refusal :=
       let g := { u.g with pages := u.g.pages.set i { p with inMem := m, index := f, toward := none } }
       let h := if g.leaving then g.turnOut else g
       .next (State.putGroup { u with g := h } h)
     (p.toward = some (false, f) → exec (.scratchPageSwitchDone r i) s = put t false) ∧
     (p.toward = some (true, f) →
       (t.fwReady t.g.ref.ctx (t.g.imageVa (4096 * i)) 4096 = false → exec (.scratchPageSwitchDone r i) s = .next s) ∧
       (∀ pa l, t.fwReady t.g.ref.ctx (t.g.imageVa (4096 * i)) 4096 = true →
         t.peek t.g.core t.g.ref.ctx (t.g.imageVa (4096 * i)) true = .ok pa l →
         let u := t.updCore t.g.core fun k => { k with l1 := k.l1.filter fun l => l.base / 4096 != pa / 4096 }
         exec (.scratchPageSwitchDone r i) s =
           put (u.fwPut t.g.ref.ctx (t.g.imageVa (4096 * i)) (u.g.scratchRead (4096 * i) 4096)) true))) ∧
   (∀ (s : State) (r : WRef) (t : State) seq e u d, s.HoldsAny r t → t.g.absent = true →
     (t.w.entries.find? fun e => e.seq == seq && !e.done) = some e →
     (e.path = 0 ∧ t.loadPart seq = some (u, d) ∨ e.path = 3 ∧ t.recordPart seq = some (u, d) ∨ e.path = 4 ∧ t.atomPart seq = some (u, d)) →
     exec (.divertedArrival r seq) s = .next (u.divertEntry d).parkAny) ∧
   (∀ (s : State) core (r : GRef), (∀ g, s.groupOf r = some g → ∀ d ∈ (s.coreAt core).divert, d.ref = r → g.landing d.clks = false) →
     core < s.cores.length →
     exec (.diversionEntryFree core r) s = .next (s.updCore core fun k => { k with divert := k.divert.filter fun d => d.ref != r })) ∧
   (∀ (s : State) ctx c x rest widx ridx u, s.ctxOf ctx = some c → c.heldTraps = x :: rest →
     s.fwIndices c.id c.trapBase = some (widx, ridx, u) → widx < ridx + 2 ^ c.trapLog2 →
     let at_ := c.trapBase + 256 * (widx % 2 ^ c.trapLog2)
     u.fwReady c.id at_ 256 = true → u.fwReady c.id (c.trapBase - 16) 8 = true →
     exec (.trapQueueSlotFree ctx) s =
       .next (((((u.fwPut c.id at_ x).fwPut c.id (c.trapBase - 16) (leBytes 8 (widx + 1))).interrupt c.tenant 1).updCtx ctx fun c =>
         { c with heldTraps := rest }))))

/-- R292, R299, R300, R306, R308, R309: a group leaves its core with its image written, evicted, halted with its trap
record, or migrating; the gleaning brings it back on the core that it was given, once that core's reservation table has room
for its tile entries (R275). -/
def Obligations.LeavingEvents : Prop :=
  ∀ (s : State) (r : GRef) (t : State), s.HoldsGroup r t →
    let ended (u : State) : Host.Outcome State Fault Refusal := .next (u.putGroup u.g)
    (t.g.status = .resident → exec (.quantumExpiry r) s = ended { t with g := { t.g with quantumOver := true } }) ∧
    (∀ k, t.g.status = .resident → k ≠ t.g.core → k ∈ t.admitted t.g.ref.ctx → t.mayMigrate t.g = true →
      exec (.migrationDecision r k) s = ended { t with g := { t.g with status := .migrating, task := some (t.g.taskFor k) } }) ∧
    (t.g.away = false → (t.g.status = .evicting ∨ t.g.status = .migrating ∨ t.g.status = .halting ∧ ∀ w ∈ t.g.warps, w.stopped = true) →
      (∀ w ∈ t.g.warps, w.canLeave = true) →
      (t.coreAt t.g.core).divert.length < 64 → ∀ u v, t.release 1 = some u →
      (u.g.returnSize ≤ u.g.returnSpace ∧ v = u ∨ u.g.returnSpace < u.g.returnSize ∧ u.growImage u.g.returnSize = some v) →
      exec (.evictReturnAreaReady r) s =
        let x := v.updCore t.g.core fun k => { k with divert := k.divert ++
          [{ ref := v.g.ref, forward := false, clks := v.g.warps.map fun w => (w.wid, w.clk) }] }
        ended (State.putImage { x with g := Group.turnOut { x.g with
          away := true, leaving := true, quantumOver := false, warps := x.g.warps.map (Warp.captured (x.scClockOf t.g.core)),
          pages := x.g.pages.map fun p => { p with toward := none } } })) ∧
    (∀ u, t.g.status = .evicting → t.capture = some u → u.g.trap = none → (∀ c, u.ctxOf u.g.ref.ctx = some c → c.state ≠ .destroyed) →
      exec (.evictionComplete r) s =
        ended ((State.putImage { u with g := { u.g with status := .evicted, target := none } }).leftCore t.g.core)) ∧
    (∀ u, t.g.status = .halting → (∀ w ∈ t.g.warps, w.stopped = true) → t.capture = some u →
      exec (.haltComplete r) s = ended (u.halted.leftCore t.g.core)) ∧
    (∀ b u, t.g.status = .migrating → t.g.away = false ∨ t.g.leaving = true → t.g.task = some b → t.capture = some u →
      ((u.coreAt b.core).fits (u.others b.core u.g) u.g = true → (u.coreAt b.core).vacated = false → u.g.trap = none →
        let x := u.numbered ((u.coreAt b.core).spread (u.others b.core u.g) u.g)
        exec (.migrationStreamEnd r) s = ended ((State.putImage { x.2 with g := { x.1 with target := some b.core } }).leftCore t.g.core)) ∧
      ((u.coreAt b.core).fits (u.others b.core u.g) u.g = false →
        exec (.migrationStreamEnd r) s = ended (u.evicted.leftCore t.g.core))) ∧
    (∀ c, t.g.away = true → t.g.status = .resuming ∨ t.g.status = .migrating → t.g.target = some c → t.tableRoom c t.g = true →
      exec (.gleaningComplete r) s = ended (t.glean c) ∧
      (t.g.absentFault = false → (t.g.warps.map (·.wid)).Nodup → (∃ w ∈ t.g.warps, w.status ≠ .exited ∧ w.saved ≠ .exited) →
        (∀ w ∈ t.g.warps, ∀ e ∈ w.slots, e.done = true → meets e.writes maskRegs = false) →
        (t.glean c).g.status = .resident ∧ (t.glean c).g.core = c ∧ (t.glean c).g.away = false))

/-! ### Packets, launches and nodes (16_kernel.md, 17_queue.md) -/

/-- R347, R348, R349, R350, R351, R353, R356: the front end reads the packet b of a queue that is neither stopped nor in error. A header
that is not sound puts the queue in error; a barrier bit that is not met leaves it waiting. A packet whose body is sound has its effect
and is consumed: a nop, a grid launch or a node bind that R334 admits, a wait whose words are at their targets, a signal that is added, a
record fence, a context fence whose launches are complete. An indirect packet opens its next level; a wait or context fence that is not
met, and an unbind, leave the queue waiting. A queue that was waiting does the same when it looks again. A body that is not sound, a
descriptor that cannot be read, a launch or bind that R334 refuses, a node number that is bound, or not, no free hardware queue, a fifth
level, and a word of a wait or a signal that fails put the queue in error with the code and the record of R351, as do indices out of
range and a packet that cannot be read. An idle queue that reads a packet is active. That the barrier bit and the context fence wait for
the launches of bound nodes as well is the model's choice (DEDUCED, log entry 49), and so is the order of the reads (DESIGN CHOICE, log
entry 46). -/
def Obligations.PacketEvents : Prop :=
  ∀ (s : State) n q, s.queueOf n = some q → q.state ≠ .error → q.state ≠ .stopped →
    let evs : List Instr := [.packetNop n, .gridLaunch n, .nodeBind n, .indirectBuffer n, .waitPacket n, .signalPacket n, .recordFence n,
      .contextFence n, .nodeUnbind n]
    let looks : List Instr := if q.state = .waiting then [.queueWaitSatisfied n, .writeNotice (.queue n), .rereadInterval (.queue n)] else []
    (∀ b va level widx ridx t, s.frontRead q = .packet b va level widx ridx t →
      let u := t.updQueue n fun q => { q with state := .active }
      let consumed (v : State) : Host.Outcome State Fault Refusal := .next (v.consume q widx ridx)
      let waits (v : State) : Host.Outcome State Fault Refusal := .next (v.updQueue n fun q => { q with state := .waiting })
      let fails (v : State) (code : Nat) (is : List Instr) : Prop :=
        ∀ x, v.queueError q code level (field b 0 4) ridx va = some x → ∀ i ∈ is, exec i s = .next x
      let seq (w : State) : Nat := ((w.ctxOf q.ctx).map (·.nextSeq)).getD 1
      (headerSound (field b 0 4) = false → fails t 0x11 (evs ++ looks)) ∧
      (q.state = .idle → ∀ i ∈ [Instr.writeNotice (.queue n), .rereadInterval (.queue n)], exec i s = .next u) ∧
      (headerSound (field b 0 4) = true →
        (field b 0 4 / 2 ^ 12 % 2 = 1 → t.queueClear q = false →
          ∀ e, evs[packetKind b]? = some e → ∀ i ∈ e :: looks, exec i s = waits t) ∧
        ((field b 0 4 / 2 ^ 12 % 2 = 1 → t.queueClear q = true) →
          (packetKind b = 0 → let is := Instr.packetNop n :: looks
            (zeros b 4 60 = true → ∀ i ∈ is, exec i s = consumed u) ∧ (zeros b 4 60 = false → fails u 0x12 is)) ∧
          (packetKind b = 1 → let is := Instr.gridLaunch n :: looks
            let sound : Prop := field b 4 1 < 8 ∧ field b 4 1 ≤ q.cap ∧ zeros b 5 3 = true ∧ field b 8 8 < 2 ^ 48 ∧ field b 8 8 % 256 = 0 ∧
              field b 16 8 < 2 ^ 48 ∧ field b 16 8 % 16 = 0 ∧ 1 ≤ field b 24 4 ∧ 1 ≤ field b 28 4 ∧ 1 ≤ field b 32 4 ∧
              field b 24 4 * field b 28 4 * field b 32 4 ≤ 2 ^ 32 ∧ signalSound (field b 40 8) (field b 48 8) = true ∧ zeros b 56 8 = true
            (¬sound → fails u 0x12 is) ∧
            (sound → (∀ c w, u.frontGranules q.ctx (field b 8 8) 8 = .fail c w → fails w 0x01 is) ∧
              ∀ d w, u.frontGranules q.ctx (field b 8 8) 8 = .ok d w →
              (w.refusal q.ctx d false (field b 36 4) = none →
                ∃ l : Launch, l.ctx = q.ctx ∧ l.seq = seq w ∧ l.queue = q.num ∧ l.prio = field b 4 1 ∧ l.desc = descOf d ∧
                  l.arg = field b 16 8 ∧ l.dx = field b 24 4 ∧ l.dy = field b 28 4 ∧ l.dz = field b 32 4 ∧ l.items = field b 36 4 ∧
                  l.sigVa = field b 40 8 ∧ l.sigInc = field b 48 8 ∧ l.total = field b 24 4 * field b 28 4 * field b 32 4 ∧ l.next = 0 ∧
                  l.complete = false ∧ l.node = none ∧ ∀ i ∈ is, exec i s = consumed (w.enlist q l)) ∧
              (∀ c, w.refusal q.ctx d false (field b 36 4) = some c → fails w c is))) ∧
          (packetKind b = 2 → let is := Instr.nodeBind n :: looks
            (bindSound q b = false → fails u 0x12 is) ∧
            (bindSound q b = true → (∀ c w, u.frontGranules q.ctx (field b 8 8) 8 = .fail c w → fails w 0x01 is) ∧
              ∀ d w, u.frontGranules q.ctx (field b 8 8) 8 = .ok d w →
              (∀ c, w.refusal q.ctx d true 0 = some c → fails w c is) ∧
              (w.refusal q.ctx d true 0 = none →
                (w.nodeOf q.ctx (field b 5 1) ≠ none → fails w 0x15 is) ∧
                (w.nodeOf q.ctx (field b 5 1) = none → 1024 ≤ w.hardwareQueues → fails w 0x16 is) ∧
                (w.nodeOf q.ctx (field b 5 1) = none → w.hardwareQueues < 1024 →
                  ∃ (m : Node) (l : Launch), m.ctx = q.ctx ∧ m.num = field b 5 1 ∧ m.launch = seq w ∧ m.arg = field b 16 8 ∧
                    m.rickVa = field b 24 8 ∧ m.quota = field b 32 4 ∧ m.batches = field b 36 4 ∧ m.pool = field b 40 8 ∧ m.hw = [] ∧
                    m.rick = [] ∧ l.ctx = q.ctx ∧ l.seq = seq w ∧ l.queue = q.num ∧ l.prio = field b 4 1 ∧ l.desc = descOf d ∧
                    l.node = some (field b 5 1) ∧ l.complete = false ∧
                    ∀ i ∈ is, exec i s = consumed (State.enlist { w with nodes := w.nodes ++ [m] } q l))))) ∧
          (packetKind b = 8 → q.unbind = none → let is := Instr.nodeUnbind n :: looks
            (bindSound q b = false → fails u 0x12 is) ∧
            (bindSound q b = true → u.nodeOf q.ctx (field b 5 1) = none → fails u 0x15 is) ∧
            (bindSound q b = true → (∀ x ∈ u.queues, x.ctx = q.ctx → x.unbind ≠ some (field b 5 1)) →
              ∀ m, u.nodeOf q.ctx (field b 5 1) = some m →
              let v := (u.updNode q.ctx (field b 5 1) fun m => { m with unbinding := true, timerOn := false }).formAll q.ctx (field b 5 1) (m.queued + 1)
              ∀ i ∈ is, exec i s = waits ((v.updLaunch q.ctx m.launch fun l =>
                { l with sigQueue := q.num, header := BitVec.ofNat 32 (field b 0 4), pktVa := va, level := level, sigVa := field b 48 8,
                         sigInc := field b 56 8, release := field b 0 4 / 2 ^ 10 % 4 }).updQueue q.num fun q =>
                  { q with unbind := some (field b 5 1) }))) ∧
          (packetKind b = 3 → let is := Instr.indirectBuffer n :: looks
            let sound : Prop := zeros b 4 4 = true ∧ field b 8 8 < 2 ^ 48 ∧ field b 8 8 % 64 = 0 ∧ 1 ≤ field b 16 4 ∧ field b 16 4 ≤ 2 ^ 20 ∧
              zeros b 20 44 = true
            (level = 4 → fails u 0x13 is) ∧ (level < 4 → ¬sound → fails u 0x12 is) ∧
            (level < 4 → sound → ∀ i ∈ is, exec i s = .next (u.updQueue q.num fun q =>
              { q with nest := { va := field b 8 8, left := field b 16 4 } :: q.nest, waitFor := none, state := .active }))) ∧
          (packetKind b = 4 → let is := Instr.waitPacket n :: looks
            let ws := ([8, 24, 40] : List Nat).map fun o => (field b o 8, field b (o + 8) 8)
            let sound : Prop := zeros b 4 4 = true ∧ zeros b 56 8 = true ∧ (∃ w ∈ ws, w.1 ≠ 0) ∧ ∀ w ∈ ws, w.1 % 8 = 0 ∧ w.1 < 2 ^ 48
            (¬sound → fails u 0x12 is) ∧
            (sound → (∀ v, u.wordsReached q.ctx ws = .all true v → ∀ i ∈ is, exec i s = consumed v) ∧
              (∀ v, u.wordsReached q.ctx ws = .all false v → ∀ i ∈ is, exec i s = waits v) ∧
              (∀ v, u.wordsReached q.ctx ws = .failed v → fails v 0x14 is))) ∧
          (packetKind b = 5 → let is := Instr.signalPacket n :: looks
            let sound : Prop := zeros b 4 4 = true ∧ signalSound (field b 8 8) (field b 16 8) = true ∧ zeros b 24 40 = true
            (¬sound → fails u 0x12 is) ∧
            (sound → u.frontReleases (field b 0 4) = true →
              (field b 8 8 = 0 → ∀ i ∈ is, exec i s = consumed u) ∧
              (field b 8 8 ≠ 0 →
                (∀ bs h v, u.engineAdd noCore q.ctx (field b 8 8) (field b 16 8) = .ok bs h v → ∀ i ∈ is, exec i s = consumed v) ∧
                (∀ c a v, u.engineAdd noCore q.ctx (field b 8 8) (field b 16 8) = .fail c a v → fails v 0x14 is)))) ∧
          (packetKind b = 6 → let is := Instr.recordFence n :: looks
            (zeros b 4 60 = false → fails u 0x12 is) ∧
            (zeros b 4 60 = true → ∃ v, (∀ i ∈ is, exec i s = consumed v) ∧ v.switor.recs = [] ∧
              (∀ k, k < u.cores.length →
                v.coreAt k = { u.coreAt k with recs :=
                  if (u.groups.any fun g => g.ref.ctx == q.ctx && g.onCore && g.core == k) then [] else (u.coreAt k).recs.filter (·.ctx != q.ctx) }) ∧
              v = { u with switor := v.switor, cores := v.cores })) ∧
          (packetKind b = 7 → let is := Instr.contextFence n :: looks
            (zeros b 4 60 = false → fails u 0x12 is) ∧
            (zeros b 4 60 = true → let want := q.waitFor.getD ((u.launches.filter (·.ctx == q.ctx)).map (·.seq))
              ((∀ l ∈ u.launches, l.ctx = q.ctx → l.seq ∈ want → l.complete = true) → u.frontReleases (field b 0 4) = true →
                ∀ i ∈ is, exec i s = consumed u) ∧
              ((∃ l ∈ u.launches, l.ctx = q.ctx ∧ l.seq ∈ want ∧ l.complete = false) →
                ∀ i ∈ is, exec i s = waits (u.updQueue q.num fun q => { q with waitFor := some want }))))))) ∧
    (∀ code h va ridx w x, s.frontRead q = .error code h va ridx w → w.queueError q code q.nest.length h ridx va = some x →
      ∀ i ∈ evs ++ looks, exec i s = .next x) ∧
    (∀ w a s1 r c s2 d e s3, s.fwRead q.ctx q.widxVa 8 = .ok w a s1 → s1.fwRead q.ctx q.ridxVa 8 = .ok r c s2 →
      s2.engineCheck noCore q.ctx [] (pieces q.ridxVa 8) = .ok d e s3 →
      (leNat w < leNat r ∨ leNat r + 2 ^ q.log2 < leNat w → s.frontRead q = .error 0x17 0 0 (leNat r) s3) ∧
      (leNat r < leNat w → leNat w ≤ leNat r + 2 ^ q.log2 →
        (∀ m l f g v, q.nest = m :: l → s3.fwRead q.ctx m.va 64 = .fail f g v → s.frontRead q = .error 0x10 0 m.va (leNat r) v) ∧
        (∀ f g v, q.nest = [] → (∀ x ∈ q.line, x.1 ≠ leNat r) → s3.fwRead q.ctx (q.packetVa (leNat r)) 64 = .fail f g v →
          s.frontRead q = .error 0x10 0 (q.packetVa (leNat r)) (leNat r) v))) ∧
    (∀ (t : State) code level h ridx va bs c v, t.acked noCore = true →
      t.fwWrite q.ctx q.errVa (leBytes 1 code ++ leBytes 1 level ++ leBytes 2 q.num ++ leBytes 4 h ++ leBytes 8 ridx ++ leBytes 8 va ++ leBytes 8 0) =
        .ok bs c v →
      t.queueError q code level h ridx va = some ((v.interrupt (v.tenantOf q.ctx) 0).updQueue q.num fun q =>
        { q with state := .error, nest := [], line := [], waitFor := none, unbind := none }))

/-- R342, R343, R350, R356, R368: a launch with nothing left to wait for, as it stands once what its cores hold is written back,
completes: the cores of it and of its child grids release at the packet's scope, or at sys where it is split (R371), and its signal
is added; an aborted one signals nothing; an unbound node is freed with its signal. R354, R355, R357, R358: the
records of an nemit are offered lane by lane after its release, a record with room joins the hardware queue, and the
baler forms a group when the timer lapses or a batch becomes free. -/
def Obligations.CompletionEvents : Prop :=
  (∀ (s : State) ctx,
     (∀ seq l u bs h v, s.launchOf ctx seq = some l → l.complete = false → l.node = none → l.aborted = false → l.only = none →
       (s.lookedAt l).launchDone l = true → s.releaseLaunch l = some u → l.sigVa ≠ 0 →
       u.engineAdd noCore l.ctx l.sigVa l.sigInc = .ok bs h v →
       exec (.launchComplete ctx seq) s = .next ((v.updLaunch l.ctx l.seq fun l => { l with complete := true }).settleCtx l.ctx)) ∧
     (∀ l : Launch, l.ends = if l.split || l.only.isSome then 2 else l.release) ∧
     (∀ seq l, s.launchOf ctx seq = some l → l.complete = false → l.aborted = true → s.ended l = true →
       exec (.launchComplete ctx seq) s = .next ((s.updLaunch l.ctx l.seq fun l => { l with complete := true }).settleCtx l.ctx)) ∧
     (∀ num n q l u t, s.nodeOf ctx num = some n → (s.queues.find? fun q => q.ctx == ctx && q.unbind == some num) = some q →
       s.launchOf ctx n.launch = some l → (s.lookedAt l).nodeDone n l = true → q.state ≠ .error → q.state ≠ .stopped →
       s.releaseLaunch l = some u → u.unbound q = some (t, true) →
       let freed (v : State) : Host.Outcome State Fault Refusal :=
         .next (let x := (v.updLaunch l.ctx l.seq fun l => { l with complete := true }).settleCtx l.ctx
           { x with nodes := v.nodes.filter fun m => !(m.ctx == n.ctx && m.num == n.num) })
       (∀ v, l.aborted = false → t.signal l = some v → exec (.nodeUnbindComplete ctx num) s = freed v) ∧
       (l.aborted = true → exec (.nodeUnbindComplete ctx num) s = freed t))) ∧
  ((∀ (s : State) (r : WRef) (t : State) seq e num u, s.HoldsAny r t →
     t.w.entryAt seq 4 = some e → e.op = .nemit num → t.w.allDone seq = true →
     (∀ d ∈ t.w.entries, d.done = false → d.seq < seq → ∀ m, d.op ≠ .nemit m) → t.release 1 = some u →
     exec (.nodeRecordOffer r seq) s = .next ((u.offerAll num e.reqs).1.finishAny { e with fails := (u.offerAll num e.reqs).2 }).parkAny) ∧
   (∀ (s : State) ctx num n l, s.nodeOf ctx num = some n → s.launchOf ctx n.launch = some l →
     (∀ r, n.unbinding = false → n.hw.length < 256 → n.queued + 1 ≠ l.desc.capacity →
       s.offerRecord ctx num r =
         .ok (s.updNode n.ctx n.num fun m => { m with hw := m.hw ++ [r], timerOn := n.timerOn || n.queued == 0 })) ∧
     (n.queued ≠ 0 → l.aborted = false → l.split = false → 0 < l.desc.warps →
       let count := min (96 * l.desc.warps) n.queued
       let all := n.hw ++ n.rick
       ∀ x bs h t, s.takeBatch n = some x → s.fwWrite n.ctx x.1 (batchBytes n (all.take count)) = .ok bs h t →
       let formed := t.formed n l x ((all.drop count).take 256) ((all.drop count).drop 256) count
       (n.timerOn = true → exec (.nodeTimerLapse ctx num) s = .next formed) ∧
       (n.timerOn = false → exec (.batchFreeFormation ctx num) s = .next formed)) ∧
     (n.timerOn = true → n.queued ≠ 0 → n.freeBatch = [] →
       exec (.nodeTimerLapse ctx num) s = .next (s.updNode ctx num fun m => { m with timerOn := false }))))

/-! ### Contexts (18_context.md) -/

/-- R361, R363, R365: a sound record makes a context, with one of the numbers that no context has; a sound descriptor
makes a stopped queue, with one of the free numbers; an unsound one is answered with status 2, and so is a command that
names no context of its tenant; a command waits behind one of its context that is under way. R360, R365, R366, R367, R371: a queue is
started, stopped or reset from the states that allow it; a context is suspended, resumed or migrated, and the command completes when its
groups have gone or come back, with the next one's turn; the quantum of a tenant is set within its limits. Which free number is taken is
the model's choice (log entry 25), and so are the places of the operands in a block (log entry 124) and status 2 for one that is not zero
where its command has none (log entry 112); that QUEUE_START leaves a created context running where launches have arrived by a MIGRATE,
and not idle as R366 has it, is log entry 111 (DEDUCED). -/
def Obligations.ContextCommands : Prop :=
  ((∀ (s : State) c, s.Takes c (zeros c.block 2 2) →
     let live := s.ctxs.filter fun c => c.state != .destroyed || c.destroying
     (s.recordSound c.tenant c.operands = false → exec (.create c.tenant c.block) s = .next (s.answer 1 c 2)) ∧
     (s.recordSound c.tenant c.operands = true →
       live.countP (·.tenant == c.tenant) < (s.tenants.getD c.tenant Tenant.fresh).ctxLimit → (∃ i < 256, ∀ c ∈ live, c.id ≠ i) →
       ∃ id < 256, (∀ c ∈ live, c.id ≠ id) ∧ exec (.create c.tenant c.block) s =
         .next (State.answer { s with ctxs := s.ctxs.filter (·.id != id) ++ [contextOf id c.tenant c.operands] } 1
           (c.put 2 (leBytes 2 id)) 0))) ∧
   (∀ (s : State) c x, s.TakesFor c true x → x.state ≠ .destroyed →
     (queueSound c.operands = false → exec (.queueAdd c.tenant c.block) s = .next (s.answer 5 c 2)) ∧
     (queueSound c.operands = true → s.queues.length + s.nodes.length < 1024 →
       (∃ i < 1024, ∀ q ∈ s.queues, q.num ≠ i) →
       ∃ q : Queue, q.num < 1024 ∧ (∀ x ∈ s.queues, x.num ≠ q.num) ∧
         q = { num := q.num, ctx := c.ctx, ring := field c.operands 0 8, log2 := field c.operands 8 1, cap := field c.operands 9 1,
               widxVa := field c.operands 16 8, ridxVa := field c.operands 24 8, errVa := field c.operands 32 8, state := .stopped,
               nest := [], line := [], waitFor := none, unbind := none, stores := [] } ∧
         exec (.queueAdd c.tenant c.block) s = .next (State.answer { s with queues := s.queues ++ [q] } 5 (c.put 8 (leBytes 2 q.num)) 0))) ∧
   (∀ (s : State) c edits, s.Takes c true →
     let onCtx : List (Nat × Bool × List Edit × Instr) :=
       [(3, c.clean 8, [], .suspend c), (4, c.clean 8, [], .resume c), (5, true, [], .queueAdd c.tenant c.block), (6, c.clean 10, [], .queueStart c.tenant c.block),
        (7, c.clean 10, [], .queueReset c.tenant c.block), (8, c.clean 20, edits, .groupResume c.tenant c.block edits), (9, c.clean 20, [], .groupAbort c),
        (11, c.clean 10, [], .migrate c.tenant c.block), (12, c.clean 10, [], .queueStop c.tenant c.block)]
     (∀ i ∈ (1, zeros c.block 2 2, [], .create c.tenant c.block) :: (2, c.clean 8, [], .destroy c) ::
         (10, zeros c.block 2 2 && c.clean 12, [], .setQuantum c.tenant c.block) :: onCtx,
       i.2.1 = false → exec i.2.2.2 s = .next (s.answer i.1 c 2)) ∧
     (s.ctxOf c.ctx = none ∨ (∃ x, s.ctxOf c.ctx = some x ∧ x.tenant ≠ c.tenant) →
       ∀ i ∈ (2, c.clean 8, [], .destroy c) :: onCtx, i.2.1 = true → exec i.2.2.2 s = .next (s.answer i.1 c 2)) ∧
     (∀ x, s.ctxOf c.ctx = some x → x.tenant = c.tenant → x.cmd ≠ none → x.waiting = [] →
       ∀ i ∈ onCtx, i.2.1 = true → exec i.2.2.2 s = .next (s.holdCommand ⟨i.1, c, i.2.2.1, false⟩)))) ∧
  ((∀ (s : State) c x y, s.TakesFor c (c.clean 10) x → s.queueOf c.queue = some y → y.ctx = c.ctx →
     (x.state ≠ .destroyed → x.state ≠ .suspended → y.state = .stopped →
       exec (.queueStart c.tenant c.block) s =
         .next (((s.updQueue c.queue fun x => { x with state := QState.idle }).updCtx c.ctx fun x =>
           { x with state := if x.state = .created then s.standing c.ctx else x.state }).answer 6 c 0)) ∧
     (x.state ≠ .destroyed → x.state ≠ .suspended → y.state = .idle ∨ y.state = .active ∨ y.state = .waiting →
       exec (.queueStop c.tenant c.block) s = .next ((s.updQueue c.queue fun x => { x with state := QState.stopped, line := [] }).answer 12 c 0)) ∧
     (x.state ≠ .destroyed → y.state = .error →
       exec (.queueReset c.tenant c.block) s = .next ((s.updQueue c.queue fun x => { x with state := QState.stopped, line := [] }).answer 7 c 0)) ∧
     (x.state = .destroyed ∨ x.state = .suspended →
       exec (.queueStart c.tenant c.block) s = .next (s.answer 6 c 1) ∧ exec (.queueStop c.tenant c.block) s = .next (s.answer 12 c 1))) ∧
   (∀ (s : State) c x, s.TakesFor c (c.clean 8) x →
     (x.state = .created ∨ x.state = .idle ∨ x.state = .running ∨ x.state = .faulted →
       exec (.suspend c) s = .next ((((s.stopQueues c.ctx).clearGroups c.ctx).updCtx c.ctx fun x =>
         { x with state := .evicting, savedQueues := (s.queues.filter (·.ctx == c.ctx)).map fun q => (q.num, q.state) }).startCommand 3 c)) ∧
     (x.state = .suspended →
       exec (.resume c) s = .next ((State.updCtx { s with queues := s.queues.map fun (q : Queue) =>
         match (x.savedQueues.find? fun (y : Nat × QState) => y.1 == q.num) with
         | some y => if q.ctx = c.ctx ∧ q.state = QState.stopped then { q with state := y.2 } else q
         | none => q } c.ctx fun x => { x with state := .resuming, savedQueues := [] }).startCommand 4 c)) ∧
     (x.state = .destroyed → exec (.suspend c) s = .next (s.answer 3 c 1) ∧ exec (.resume c) s = .next (s.answer 4 c 1))) ∧
   (∀ (s : State) c x, s.TakesFor c (c.clean 10) x →
     (x.state = .running ∨ x.state = .idle → c.target < 2 ^ 11 →
       exec (.migrate c.tenant c.block) s =
         .next ((((s.stopQueues c.ctx).splitAll c.ctx).updCtx c.ctx fun x => { x with migrating := some c.target }).startCommand 11 c)) ∧
     (x.state = .destroyed → exec (.migrate c.tenant c.block) s = .next (s.answer 11 c 1))) ∧
   (∀ (s : State) ctx c, s.ctxOf ctx = some c →
     (c.state = .evicting → s.allAway ctx = true →
       exec (.suspendComplete ctx) s = .next ((s.updCtx ctx fun c => { c with state := .suspended }).endCommand ctx 0 id)) ∧
     (c.migrating ≠ none → s.noneLeft ctx = true →
       exec (.migrateComplete ctx) s = .next ((s.updCtx ctx fun c => { c with migrating := none }).endCommand ctx 0 id)) ∧
     (∀ n k status put, c.cmd = some (n, k) →
       s.endCommand ctx status put = ((s.updCtx ctx fun c => { c with cmd := none }).answer n (put k) status).nextCommand ctx)) ∧
   (∀ (s : State) c, s.Takes c (zeros c.block 2 2 && c.clean 12) →
     (100 ≤ c.quantum → c.quantum ≤ 100000 → exec (.setQuantum c.tenant c.block) s =
       .next (State.answer { s with tenants := s.tenants.modify c.tenant fun t => { t with quantum := c.quantum } } 10 c 0)) ∧
     (c.quantum < 100 ∨ 100000 < c.quantum → exec (.setQuantum c.tenant c.block) s = .next (s.answer 10 c 2))))

/-- R368, R369, R371: a halted group whose image is as the device holds it but for what the host may change goes back to dispatch with
its vector registers and the edits, or is aborted with its launch; a context is destroyed, the command of it that is under way and those
that wait ending with status 4, and goes with its queues, nodes and launches once everything has landed; a split launch arrives at its
target, which reports to the source. That queues, nodes and launches go when DESTROY completes is log entry 57 (DEDUCED); where the pending
absent-fault records go, and when they are counted as lost, is log entries 51, 54 and 56; that the parts of a warp block which the spec
places nowhere are changed by the edits is log entry 78. -/
def Obligations.ContextEndings : Prop :=
  (∀ (s : State) c x g, s.TakesFor c (c.clean 20) x → x.state = .faulted → s.groupOf c.group = some g → g.status = .halted →
    (∀ edits im u, s.fwGet c.ctx g.image (g.desc.imageSize + g.returnSpace) = some (im, u) →
      (g.unchanged im = true →
        ((g.edited im edits).status = .evicted ∧ (g.edited im edits).trap = none ∧ (g.edited im edits).warps = g.warps.map fun w =>
          let w := edits.foldl Warp.edit (w.readVectors g.desc.vregs (im.drop (g.desc.vectorsAt w.wid)))
          { w with status := if w.status = .halted then .evicted else w.status, skid := 0 }) ∧
        exec (.groupResume c.tenant c.block edits) s =
          .next ((((State.putImage { u with g := g.edited im edits }).putGroup
            (State.putImage { u with g := g.edited im edits }).g).unfault c.ctx).answer 8 c 0)) ∧
      (g.unchanged im = false → exec (.groupResume c.tenant c.block edits) s = .next (u.answer 8 c 2))) ∧
    (let t := State.retireGroup { s with g := g.discarded }
     let v := ((t.putGroup t.g).dropPending c.ctx c.group.seq).updLaunch c.ctx c.group.seq fun l => { l with aborted := true }
     ∀ l q r u w, v.launchOf c.ctx c.group.seq = some l → v.queueOf l.queue = some q → q.ctx = c.ctx →
      v.fwGet q.ctx q.ridxVa 8 = some (r, u) →
      u.writeError q (errorRecord 0x18 l.level q.num l.header.toNat (leNat r) l.pktVa) = some w →
      exec (.groupAbort c) s = .next ((w.unfault c.ctx).answer 9 c 0))) ∧
  (∀ (s : State) c x, s.Takes c (c.clean 8) → s.ctxOf c.ctx = some x → x.tenant = c.tenant → x.state ≠ .destroyed → x.destroying = false →
    (let u := (s.abortCommands x).stopQueues c.ctx
     exec (.destroy c) s =
      .next (((State.updCtx { u with groups := u.groups.map fun (g : Group) => if g.ref.ctx = c.ctx then g.destroyed else g } c.ctx fun x =>
        { x with state := .destroyed, destroying := true, migrating := none, heldTraps := [], lost := 0 }).startCommand 2 c).moveAbsent x)) ∧
    (∀ n k, x.cmd = some (n, k) → s.abortCommands x = x.waiting.foldl (fun t y => t.answer y.code y.cmd 4)
      (((s.updCtx x.id fun c => { c with waiting := [] }).updCtx x.id fun c => { c with cmd := none }).answer n k 4)) ∧
    (x.cmd = none → x.waiting = [] → s.abortCommands x = s.updCtx x.id fun c => { c with waiting := [] })) ∧
  (∀ (s : State) ctx c, s.ctxOf ctx = some c →
    (c.destroying = true → s.allLanded ctx = true →
      let u := (s.moveAbsent c).purge ctx
      exec (.destroyComplete ctx) s =
        .next ((State.updCtx { u with
          groups := u.groups.filter (·.ref.ctx != ctx), launches := u.launches.filter (·.ctx != ctx),
          nodes := u.nodes.filter (·.ctx != ctx), queues := u.queues.filter (·.ctx != ctx) } ctx fun c =>
            { c with destroying := false, poolUsed := [] }).endCommand ctx 0 fun k =>
              k.put 8 (leBytes 4 (((u.ctxOf ctx).map (·.lost)).getD 0)))) ∧
    (∀ x, c.state ≠ .destroyed → s.launchOf ctx x.seq = none →
      ∃ t l, exec (.splitLaunchArrival ctx x) s = .next t ∧ t.launches = s.launches ++ [l] ∧ l.ctx = ctx ∧ l.seq = x.seq ∧
        l.only = some (sortBy (fun a b => decide (a ≤ b)) x.groups) ∧ l.desc = descOf x.desc)) ∧
  (∀ (s : State) ctx seq, exec (.targetCompletionReport ctx seq) s =
    .next (s.updLaunch ctx seq fun l => if l.split then { l with reported := true } else l))

/-! ### Pages, physical memory, the host (19_page.md) -/

/-- R378, R379, R380: a page that is backed is brought in at a place inside its tenant's windows, or becomes unbacked,
or finds no place; an invalidation request removes the translations that it names, and completes with every dirty byte
written back and its value stored; an unsound one is dropped with a record. What the firmware held back for a page is
tried again. (The place among free ones is the model's choice, log entry 23; that the completion writes back every dirty byte of every
core, where R380 names those of the pages, is its reading, log entry 60.) -/
def Obligations.PageEvents : Prop :=
  (∀ (s : State) ctx va ea level, s.walk ctx va = .away ea level → s.copying ea = false →
    let base := va / levelSize level * levelSize level
    s.awaiting ctx base (levelSize level) ≠ [] ∨ s.firmwareAwaits ctx va = true →
    let e : DWord := BitVec.ofNat 64 (leNat (s.homeRead ea 8))
    let free (pa : Nat) : Prop := s.placeFree (s.tenantOf ctx) (s.tenantUses (s.tenantOf ctx)) (levelSize level) pa = true
    exec (.pageBringIn ctx va none) s =
      .next (State.flushHeld { s with mem := Memory.writeN s.mem ea (leBytes 8 (e &&& ~~~(0x9#64)).toNat) }) ∧
    (∀ bs, s.moving = none → (∃ pa, pa % levelSize level = 0 ∧ free pa) →
      ∃ pa, free pa ∧
        let t := s.homeStore noCore (pteKey e) (cellsAt pa ((bs ++ List.replicate (levelSize level) 0).take (levelSize level)))
        exec (.pageBringIn ctx va (some bs)) s =
          .next (State.flushHeld { t.putEntry ea ((e &&& ~~~(0x000FFFFFFFFFF000#64)) ||| BitVec.ofNat 64 pa ||| 0x21#64) with
            tick := t.tick + 1, noPage := t.noPage.filter fun x => !(x.ctx == ctx && x.entry == ea) })) ∧
    (∀ bs, (∀ pa, ¬ free pa) → exec (.pageBringIn ctx va (some bs)) s = .next (s.noRoom ctx ea base (levelSize level)).flushHeld)) ∧
  (∀ (s : State) tenant req, (s.tenants.getD tenant Tenant.fresh).enabled = true →
    (2 ^ 48 ≤ field req 0 8 ∨ field req 0 8 % 4096 ≠ 0 ∨ zeros req 14 2 = false ∨ field req 16 8 % 8 ≠ 0 ∨
        (∀ c ∈ s.ctxs, c.id = field req 12 2 → c.tenant = tenant → c.state = .destroyed) →
      exec (.invalidationRequest tenant req) s = .next (s.hostRecord tenant req)) ∧
    (field req 0 8 < 2 ^ 48 → field req 0 8 % 4096 = 0 → zeros req 14 2 = true → field req 16 8 % 8 = 0 →
     (∃ c ∈ s.ctxs, c.id = field req 12 2 ∧ c.tenant = tenant ∧ c.state ≠ .destroyed) → (∀ x ∈ s.invalid, x.tenant ≠ tenant) →
     let x : Invalid := { tenant := tenant, ctx := field req 12 2, va := field req 0 8, pages := field req 8 4, compVa := field req 16 8,
                          value := field req 24 8, removed := false }
     ∃ t, exec (.invalidationRequest tenant req) s = .next t ∧ (∃ y ∈ t.invalid, y = { x with removed := true }) ∧
       (∀ k ∈ t.cores, ∀ u ∈ k.tlb, x.names u.ctx u.va u.size = false) ∧
       (∀ k ∈ t.cores, ∀ l ∈ k.icache, x.names l.ctx l.va 128 = false) ∧ ∀ d ∈ t.dies, ∀ u ∈ d.tlb, x.names u.ctx u.va u.size = false)) ∧
  (∀ (s : State) tenant x bs h u, (s.invalid.find? (·.tenant == tenant)) = some x → x.removed = true → s.heldNamed x = false →
    s.acked noCore = true → (∀ p ∈ s.writeBackCores.parked, p.core = noCore ∨ p.core = noCore + 1) →
    s.writeBackCores.fwWrite x.ctx x.compVa (leBytes 8 x.value) = .ok bs h u →
    exec (.invalidationComplete tenant) s = .next (State.startInvalid { u with invalid := u.invalid.erase x } tenant))

/-- R385, R386, R387, R388, R391: a channel's slots are given targets and copied granule by granule; a slice's
channels go to nearby slices; the scrubber logs, poisons and counts what it finds. R251, R361, R369, R382: the stile
applies a retired group's staged writes after those of every lower group; the host reads and writes inside its windows
alone; a held host error record is placed when its queue has room. (The key id that the scrubber logs, the tag of a part written under
another, and that an ECC error is logged before the tag's failure are the model's choices, log entry 20.) -/
def Obligations.MemoryDeviceEvents : Prop :=
  ((∀ (s : State) ch, ch < 384 → (s.channelAt ch).retired = false → s.dueFirst ch = true → s.moving = none →
     (∃ k < 3072, (s.slotEntry k).state = .reserve) → (∀ x ∈ s.flash.retired, x.1 ≠ BitVec.ofNat 64 (6 + 2 ^ 8 * ch)) →
     ∃ t, exec (.channelRetirement ch) s = .next t ∧ t.mem = s.mem ∧ t.switor.cause = s.switor.cause ||| 2 ∧
       t.flash.retired = s.flash.retired ++ [(BitVec.ofNat 64 (6 + 2 ^ 8 * ch), s.time.toNat)] ∧ t.moving = t.firstMoving) ∧
   (∀ (s : State) k g, s.moving = some (k, g, false) →
     (s.unreached g = false → exec .granuleCopyStart s = .next { s.physMet (g * 4096) 4096 with moving := some (k, g, true) }) ∧
     (s.unreached g = true → exec .granuleCopyStart s = .next ((s.blankGranule g).advanceMove k g))) ∧
   (∀ (s : State) k g, s.moving = some (k, g, true) →
     exec .granuleCopyEnd s = .next (State.keepStamps s (s.advanceMove k g) g).unparkAll.flushHeld) ∧
   (∀ (s : State) slice, slice < 128 → s.slices.getD slice false = true → s.sliceTaker slice ≠ none →
     (∀ x ∈ s.flash.retired, x.1 ≠ BitVec.ofNat 64 (7 + 2 ^ 8 * slice)) →
     ∃ t, exec (.sliceRetirement slice) s = .next t ∧ t.mem = s.mem ∧ t.slices = s.slices.set slice false ∧
       t.flash.retired = s.flash.retired ++ [(BitVec.ofNat 64 (7 + 2 ^ 8 * slice), s.time.toNat)]) ∧
   (∀ (s : State) sector, let sec := 128 * sector
     sec < hbmEnd → (s.channelAt (s.channelOf sec)).retired = false →
     let entry (kind : Nat) : List Byte := leBytes 1 kind ++ leBytes 1 0 ++ leBytes 2 (s.channelOf sec) ++ leBytes 4 0 ++ leBytes 8 sec ++
       leBytes 1 (s.sectorKeyId sec) ++ leBytes 7 0 ++ leBytes 8 s.time.toNat
     let c := s.channelAt (s.channelOf sec)
     let logged (kind : Nat) : State := { s with switor := { s.switor with scrubLog := s.switor.scrubLog ++ [entry kind] } }
     (sec ∉ s.flaws → s.tagStands sec = true → exec (.scrubSector sector .clean) s = .next s) ∧
     let corrected := ((logged 1).setChannel
       { c with corrected := (c.corrected.filter fun t => decide (s.time.toNat < t + 86400000000000)) ++ [s.time.toNat] }).markDue
         (s.channelOf sec)
     (sec ∉ s.flaws → s.tagStands sec = true → exec (.scrubSector sector .corrected) s = .next corrected) ∧
     (sec ∉ s.flaws → s.tagStands sec = false → exec (.scrubSector sector .corrected) s = .next (State.poisonSector
       { corrected with switor := { corrected.switor with scrubLog := corrected.switor.scrubLog ++ [entry 3] } } sec)) ∧
     (sec ∉ s.flaws → s.tagStands sec = false →
       exec (.scrubSector sector .clean) s = .next ((logged 3).poisonSector sec)) ∧
     (sec ∉ s.flaws → exec (.scrubSector sector .tagFailure) s = .next ((logged 3).poisonSector sec)) ∧
     (∀ found, sec ∈ s.flaws ∨ found = .uncorrectable → ∃ t, exec (.scrubSector sector found) s = .next t ∧ t.poison.contains sec = true ∧
       t.switor.scrubLog = s.switor.scrubLog ++ [entry 2] ∧ t.mem = s.mem))) ∧
  ((∀ (s : State) ctx seq l g t, s.launchOf ctx seq = some l →
     (s.groups.find? fun g => g.ref.ctx == ctx && g.ref.seq == seq && g.ref.lgi == l.released) = some g → l.desc.determ = true →
     g.status = .retired → s.applyAll ctx seq g.staged = some t →
     exec (.stileRelease ctx seq) s =
       .next (((t.updLaunch ctx seq fun l => { l with released := l.released + 1 }).freeArea ctx g.stagingArea).putGroup
         { g with staged := [], stagedSize := 0, stagingArea := 0 })) ∧
   (∀ (s : State) tenant pa len, tenant < 16 → (s.tenants.getD tenant Tenant.fresh).enabled = true →
     (∃ t, exec (.hostAccess tenant pa len none) s = .next t ∧ t.mem = s.mem ∧
       t.tenants = s.tenants.modify tenant fun x => { x with readData := (List.range len).map fun i => s.hostByte tenant (pa + i) }) ∧
     (s.inWindows tenant (sectorOf pa) 128 = false → s.hostByte tenant pa = 0xFF) ∧
     (s.inWindows tenant (sectorOf pa) 128 = true → s.refused (sectorOf pa) = false →
       s.badStored (sectorOf pa) = false → s.hostByte tenant pa = s.homeByte pa)) ∧
   (∀ (s : State) tenant pa bs, tenant < 16 → (s.tenants.getD tenant Tenant.fresh).enabled = true →
     exec (.hostAccess tenant pa bs.length (some bs)) s = .next (s.hostWrite tenant pa bs).flushHeld ∧
     (0 < bs.length → pa % 128 + bs.length ≤ 128 →
       (s.inWindows tenant (sectorOf pa) 128 = false → s.hostWrite tenant pa bs = s) ∧
       (s.inWindows tenant (sectorOf pa) 128 = true → pa < hbmEnd → s.refused (sectorOf pa) = false → s.moving = none →
         (s.hostWrite tenant pa bs).mem = Memory.writeCells s.mem (cellsAt pa bs)))) ∧
   (∀ (s : State) tenant r rest t, (s.tenants.getD tenant Tenant.fresh).errHeld = r :: rest → s.placeError tenant r = some t →
     exec (.hostErrorQueueSlotFree tenant) s =
       .next { t with tenants := t.tenants.modify tenant fun x => { x with errHeld := rest } }))

/-! ### Links and collectives (20_link.md) -/

/-- R392, R393, R394: the identity is written once; a port trains, goes up or degraded by its strands that no record
retires, drains with its flits sent by another route, and goes off once none is left; a flit is taken and acknowledged
with a good CRC and the next number, else the next one is asked for again, and a negative acknowledgement leaves the
flits to be sent again. R395, R396, R416: a link operation for another device is forwarded, and one that has no live route fails with
ADDR_FAULT; one that no entry of the link access table admits changes nothing here and is answered with PROT; one that is admitted is
performed once, at the home slice, with its data in the answer. The coding of acknowledgements and negative acknowledgements, the test of
a duplicate by 2^15 and the freeing of replay entries are the model's choice (DESIGN CHOICE, log entry 62), a retrain to all eight strands
is log entry 65, the mask of strands that have trained log entry 66, and where a lost operation's failure goes log entry 127. -/
def Obligations.LinkEvents : Prop :=
  ((∀ (s : State) (id : BitVec 11),
     (s.switor.boot = 0x10 → s.links.identity = none →
       exec (.linkId id) s = .next { s with links := { s.links with identity := some id.toNat } }) ∧
     (s.links.identity ≠ none → exec (.linkId id) s = .next s)) ∧
   (∀ (s : State) p,
     (s.switor.boot = 0x10 → s.links.identity ≠ none → (s.portAt p).state = .off →
       exec (.portEnable p) s = .next (s.updPort p fun q =>
         { q with state := .training, attempts := 0, conflict := false, gaveUp := false, strands := 0, sendSeq := 0, recvSeq := 0,
                  replay := [], sentAt := [], nakAt := [], answered := none })) ∧
     (∀ m, (s.portAt p).state = .training →
       let x := BitVec.ofNat 8 m &&& ~~~(s.barred p)
       exec (.portTrained p m true) s = .next (s.updPort p fun q => { q with conflict := true }) ∧
       (strandCount x = 8 → exec (.portTrained p m false) s =
         .next ((s.updPort p fun q => { q with state := .up, strands := x, conflict := false }).routesUp p).sendWaiting) ∧
       (4 ≤ strandCount x → strandCount x < 8 → exec (.portTrained p m false) s =
         .next ((s.updPort p fun q => { q with state := .degraded, strands := x, conflict := false }).routesUp p).sendWaiting) ∧
       (strandCount x < 4 → exec (.portTrained p m false) s = .next (s.updPort p fun q =>
         { q with attempts := q.attempts + 1, state := if 2 ≤ q.attempts then .off else .training, gaveUp := decide (2 ≤ q.attempts) }))) ∧
     (s.switor.boot = 0x10 → (s.portAt p).state = .degraded →
       exec (.portRetrain p true) s = .next (s.updPort p fun q => { q with state := .up, strands := 0xFF })) ∧
     (s.switor.boot = 0x10 → (s.portAt p).state = .up ∨ (s.portAt p).state = .degraded →
       exec (.portDisable p) s = .next (s.drainPort p)) ∧
     (let t := s.updPort p fun q => { q with state := .draining, replay := [] }
      let u : State := { t with links := { t.links with
        waiting := (s.portAt p).replay.map (fun x => (flitFor x.2, x.2)) ++ t.links.waiting } }
      s.drainPort p = u.loseWaiting.sendWaiting ∧ ((∀ x ∈ u.links.waiting, u.routePort x.1 ≠ none) → u.loseWaiting = u)) ∧
     (∀ target y,
       (s.links.identity = some y.source → s.loseFlit target (.op y) = s.failSent y.number .addrFault) ∧
       (s.links.identity ≠ some y.source → s.loseFlit target (.op y) = s.sendFlit y.source (.done y.source y.number .addrFault))) ∧
     ((s.portAt p).state = .draining →
       ((s.portAt p).replay = [] →
         exec (.portDrained p) s = .next ((s.updPort p fun q => { q with state := .off, strands := 0 }).routesDown p)) ∧
       ((s.portAt p).replay ≠ [] → exec (.portDrained p) s = .next s)) ∧
     (∀ i, (s.portAt p).state = .up ∨ (s.portAt p).state = .degraded → i < 8 → (s.portAt p).strands.getLsbD i = true →
       (s.portAt p).strandBad s.time.toNat i = true →
       let x := (s.portAt p).strands &&& ~~~(BitVec.twoPow 8 i)
       let t := s.updPort p fun q => { q with strands := x, state := .degraded }
       let noted (u : State) : Host.Outcome State Fault Refusal := .next { u with
         flash := u.flash.retire (BitVec.ofNat 64 (8 + 2 ^ 8 * p + 2 ^ 32 * i)) u.time.toNat,
         switor := { u.switor with cause := u.switor.cause ||| 1 } }
       (4 ≤ strandCount x → exec (.strandRetire p i) s = noted t) ∧
       (strandCount x < 4 → exec (.strandRetire p i) s = noted (t.drainPort p))) ∧
     (∀ (f : Flash) id n, ((∀ x ∈ f.retired, x.1 ≠ id) → f.retire id n = { f with retired := f.retired ++ [(id, n)] }) ∧
       ((∃ x ∈ f.retired, x.1 = id) → f.retire id n = f)) ∧
     (∀ seq ack body, (s.portAt p).state = .up ∨ (s.portAt p).state = .degraded ∨ (s.portAt p).state = .draining →
       let q := s.portAt p
       let t := State.sendWaiting (match ack with | some n => s.updPort p (·.ackTo n) | none => s)
       let taken (u : State) : Host.Outcome State Fault Refusal :=
         .next (u.updPort p fun q => { q with recvSeq := q.recvSeq + 1, answered := some (true, q.recvSeq + 1) })
       exec (.flitReceive p seq false ⟨ack, body⟩) s = .next (s.updPort p fun q => { q with answered := some (false, q.recvSeq) }) ∧
       (seq ≠ q.recvSeq → exec (.flitReceive p seq true ⟨ack, body⟩) s =
         .next (t.updPort p fun q => { q with answered := some (decide ((q.recvSeq - seq).toNat < 2 ^ 15), q.recvSeq) })) ∧
       exec (.flitReceive p q.recvSeq true ⟨ack, none⟩) s = taken t ∧
       (∀ x u, t.takeFlit x = some u → exec (.flitReceive p q.recvSeq true ⟨ack, some x⟩) s = taken u)) ∧
     (∀ seq strand,
       ((∃ x ∈ (s.portAt p).replay, x.1 = seq) → exec (.flitNak p ⟨seq, strand⟩) s =
         .next (s.updPort p fun q => { q.ackTo seq with nakAt := q.nakAt ++ [(strand, s.time.toNat)] }).sendWaiting) ∧
       ((∀ x ∈ (s.portAt p).replay, x.1 ≠ seq) → exec (.flitNak p ⟨seq, strand⟩) s = .next s)))) ∧
  (∀ (s : State) x,
     (s.links.identity ≠ some x.target → exec (.remoteOperation x) s = .next (s.sendFlit x.target (.op x)).loseWaiting) ∧
     (s.links.identity = some x.target →
       let n := opLength x.kind
       let acked (t : State) (a : LinkAnswer) : Host.Outcome State Fault Refusal := .next (t.sendFlit x.source (.done x.source x.number a))
       let once (t : State) (a : LinkAnswer) : Host.Outcome State Fault Refusal :=
         acked { t with links := { t.links with performed := ((x.source, x.number), a) :: t.links.performed } } a
       (∀ y, (s.links.performed.find? fun y => y.1 == (x.source, x.number)) = some y → exec (.remoteOperation x) s = acked s y.2) ∧
       ((∀ y ∈ s.links.performed, y.1 ≠ (x.source, x.number)) →
         (s.copyingIn x.pa n = true → exec (.remoteOperation x) s = .next s) ∧
         (s.copyingIn x.pa n = false →
           ((∀ g ∈ s.links.grants, g.admits x = false) → exec (.remoteOperation x) s = once s .prot) ∧
           ((∃ g ∈ s.links.grants, g.admits x = true) →
             (hbmEnd < x.pa + n → exec (.remoteOperation x) s = once s .addrFault) ∧
             (x.pa + n ≤ hbmEnd →
               (s.homeFails x.pa n x.key (opReads x.kind) = some .eccUncorr →
                 exec (.remoteOperation x) s = once (s.afterFail .eccUncorr x.key x.pa) .eccUncorr) ∧
               (s.homeFails x.pa n x.key (opReads x.kind) = none →
                 (∀ m, x.kind = .load m → exec (.remoteOperation x) s = once (s.opClock x) (.performed (s.homeRead x.pa n))) ∧
                 (∀ bs, opResult x.kind (s.homeRead x.pa n) = some bs →
                   exec (.remoteOperation x) s =
                     once (((s.homeWrite noCore x.key x.pa bs).opClock x).noteStore 256 0 x.pa bs)
                       (.performed (if opReads x.kind then s.homeRead x.pa n else []))))))))))

/-- R396, R397, R398, R399, R400, R401: a collective starts with a sound record and its own source, keeps its peers' data as they
arrive with records that agree, fails when a peer that it waits for can no longer be reached, and completes once every rank's data are
there: its destination is written, and once that is performed at sys its completion is signalled. That a record that disagrees, and a
member out of reach, fail at offset 0 with no address is the model's choice (DESIGN CHOICE, log entry 37). -/
def Obligations.CollectiveEvents : Prop :=
  ∀ (s : State) (r : WRef) (t : State), s.HoldsAny r t →
    let t1 := { t with w := t.w.passFences }
    (∀ i l b u ids h v bs h2 z, t1.w.collQ = i :: l → i.fence = none → t1.w.setWaits i.set = false → i.record = none →
      t1.readGranules t1.g.core t1.g.ref.ctx i.addr 2 = .ok b u → collSound b = true →
      u.engineRead u.g.core u.g.ref.ctx [] (pieces (field b 8 8) (2 * collM b)) = .ok ids h v →
      (∀ q < collM b, q ≠ collRank b → v.routePort ((memberIds ids).getD q 0) ≠ none) → collRank b ∈ collRanks b →
      v.engineRead v.g.core v.g.ref.ctx [] (pieces (field b 16 8) (4 * collSource b)) = .ok bs h2 z →
      exec (.collEntryPerform r) s = .next (z.setColl { i with record := some b, peers := [(collRank b, wordsOf bs)] }).parkAny) ∧
    (∀ i l b ids h v q, t1.w.collQ = i :: l → i.fence = none → t1.w.setWaits i.set = false → i.record = some b → i.written = false →
      t1.engineRead t1.g.core t1.g.ref.ctx [] (pieces (field b 8 8) (2 * collM b)) = .ok ids h v →
      q < collM b → q ≠ collRank b → (∀ y ∈ i.peers, y.1 ≠ q) → v.routePort ((memberIds ids).getD q 0) = none →
      exec (.collEntryPerform r) s = .next (v.collFails i .addrFault 0 none).parkAny) ∧
    (∀ i l b rank data, t.w.collQ = i :: l → i.record = some b → rank ≠ collRank b → rank < collM b → (∀ x ∈ i.peers, x.1 ≠ rank) →
      ∀ record,
      (collAgrees b record = false → exec (.collPeerData r rank record data) s = .next (t.collFails i .badRecord 0 none).parkAny) ∧
      (collAgrees b record = true → rank ∈ collRanks b →
        exec (.collPeerData r rank record data) s =
          .next (t.setColl { i with peers := i.peers ++ [(rank, data.take (collSource b))] }).parkAny)) ∧
    (∀ i l b, t.w.collQ = i :: l → i.record = some b → (∀ q ∈ collRanks b, ∃ y ∈ i.peers, y.1 = q) →
      (∀ x h u, i.written = false →
        (let bs := (collResult b i.peers).flatMap fun w => leBytes 4 w.toNat
         t.collWrite t.g.core t.g.ref.ctx (pieces (field b 24 8) bs.length) bs = .ok x h u) →
        exec (.collComplete r) s = .next (State.setColl (u.noteSent t.links.nextOp (u.lateTrap .addrFault i.pc 0 (some (field b 24 8))) i.clk0)
          { i with written := true }).parkAny) ∧
      (∀ v, i.written = true → t.collSignal i b = some v → exec (.collComplete r) s = .next v.parkAny))

/-! ### Firmware and management (21_firmware.md) -/

/-- R404, R405, R406: bring-up goes step by step: the image of the switor core, the other images, the retirement records, the
memory's training and scrub, the sweep, and the queues with BOOT_STATUS 0x10; a step that fails leaves 0x80 plus its number
and ends bring-up; power off keeps the flash. R403: a mailbox message leaves its FIFO, the oldest of its pair, and a sender waits while its
FIFO is full. R337, R407, R408, R409, R410: a power sample moves each die's ceiling by one and holds or frees its grants; a request for a
report waits its turn, flash passes an index before the report goes out, and none is left at 2^20; a register write is stored, starts its
command, clears bits or is ignored. That commands and register writes before bring-up has ended well are ignored is log entry 75 (DEDUCED),
that a step of bring-up fails by its input log entry 74, the two steps of a report log entry 69 (DESIGN CHOICE), and an address kept as it is
written log entry 70; what power off leaves is log entry 6. -/
def Obligations.ManagementEvents : Prop :=
  ((∀ (s : State) x,
     let at_ (t : State) (n : Nat) : Host.Outcome State Fault Refusal := .next { t with switor := { t.switor with boot := n } }
     (6 ≤ s.switor.boot → exec (.bringUp x) s = .next s) ∧
     (s.switor.boot < 6 → x.stepFails = true → exec (.bringUp x) s = at_ s (0x81 + s.switor.boot)) ∧
     (x.stepFails = false →
       (s.switor.boot = 0 → (∀ y, x.images[4]? = some y → imageRuns s.flash.versions 4 y = false) → exec (.bringUp x) s = at_ s 0x81) ∧
       (∀ y, s.switor.boot = 0 → x.images[4]? = some y → imageRuns s.flash.versions 4 y = true → exec (.bringUp x) s =
         at_ { s with flash := { s.flash with versions := s.flash.versions.set 4 (imageVersion y) },
                      switor := { s.switor with measurements := s.switor.measurements ++ [shake256 y.body] } } 1) ∧
       (s.switor.boot = 1 → s.flash.versions.length = 8 →
         (∀ k ∈ ([0, 1, 2, 3, 5, 6, 7] : List Nat), ∃ y, x.images[k]? = some y ∧ imageRuns s.flash.versions k y = true) →
         ∃ t, exec (.bringUp x) s = .next t ∧ t.switor.boot = 2 ∧ t.flash.retired = s.flash.retired) ∧
       (s.switor.boot = 2 → exec (.bringUp x) s =
         at_ (s.flash.retired.foldl (fun t (r : BitVec 64 × Nat) => t.applyRecord r.1) s) 3) ∧
       (s.switor.boot = 3 → x.hbmTrains = true →
         exec (.bringUp x) s = at_ { s with mem := [], poison := [], flaws := [], sectorKey := [] } 4) ∧
       (s.switor.boot = 3 → x.hbmTrains = false → exec (.bringUp x) s = at_ s 0x84) ∧
       (s.switor.boot = 4 → exec (.bringUp x) s = at_ (x.sweepFails.foldl State.sweepFail s) 5) ∧
       (s.switor.boot = 5 → exec (.bringUp x) s = at_ s 0x10))) ∧
   (∀ (s : State), exec .powerOff s = .next { State.reset with flash := s.flash, tick := s.tick }) ∧
   (∀ (s : State) src dst, exec (.mailboxMessage src dst) s = .next (s.switor.mailWait.foldl State.sendMail
     { s with switor := { s.switor with mail := s.switor.mail.eraseP (fun m => field m 0 1 == src && field m 1 1 == dst), mailWait := [] } })) ∧
   (∀ (s : State) m, m.length = 64 → field m 0 1 < 8 → field m 1 1 < 8 →
     let full := 16 ≤ s.switor.mail.countP fun x => field x 0 1 == field m 0 1 && field x 1 1 == field m 1 1
     let behind := ∃ x ∈ s.switor.mailWait, field x 0 1 = field m 0 1
     (¬full → ¬behind → s.sendMail m = { s with switor := { s.switor with mail := s.switor.mail ++ [m] } }) ∧
     (full ∨ behind → s.sendMail m = { s with switor := { s.switor with mailWait := s.switor.mailWait ++ [m] } }))) ∧
  ((∀ (s : State), s.switor.boot ≠ 0x10 → ∀ x b o v, exec (.powerSample x) s = .next s ∧
     exec (.eventCauseClear b) s = .next s ∧ exec (.registerWrite o v) s = .next s) ∧
   (∀ (s : State), s.switor.boot = 0x10 →
     (∀ x, ∃ t, exec (.powerSample x) s = .next t ∧ t.switor.watts = x.wattsAvg ∧ t.switor.hottest = x.temps.foldl max 0 ∧
       ∀ (d : Nat) (k : Die), s.dies[d]? = some k → t.dies[d]? = some { k with
         ceiling := if 1950 < x.wattsAvg then max 1 (k.ceiling - 1)
           else if x.lowFor10ms = true ∧ x.wattsAvg < 1850 then min 4 (k.ceiling + 1) else k.ceiling,
         hot := if 110 < x.temps.getD d 0 then true else if x.temps.getD d 0 < 100 then false else k.hot }) ∧
     (∀ b, exec (.eventCauseClear b) s = .next { s with switor := { s.switor with cause := s.switor.cause &&& ~~~b } }) ∧
     (∀ v : BitVec 64, exec (.registerWrite 0x020 v) s = .next { s with switor := { s.switor with attestAddr := v.toNat } } ∧
       exec (.registerWrite 0x060 v) s = .next { s with switor := { s.switor with diagAddr := v.toNat } } ∧
       (∀ i < 4, exec (.registerWrite (0x028 + 8 * i) v) s =
         .next { s with switor := { s.switor with attestNonce := s.switor.attestNonce.set i v.toNat } }) ∧
       (s.links.identity = none →
         exec (.registerWrite 0x010 v) s = .next { s with links := { s.links with identity := some (v.toNat % 2 ^ 11) } }) ∧
       (s.links.identity ≠ none → exec (.registerWrite 0x010 v) s = .next s) ∧
       exec (.registerWrite 0x018 1) s = .next { s with switor := { s.switor with
         requests := s.switor.requests ++ [{ nonce := s.switor.attestNonce, index := none }], attestCtl := 1 } } ∧
       (s.switor.diagStatus ≠ 1 → exec (.registerWrite 0x050 v) s =
         .next { s with switor := { s.switor with diagCmd := v, diagStatus := 1 } }) ∧
       (s.switor.diagStatus = 1 → exec (.registerWrite 0x050 v) s = .next s) ∧
       exec (.registerWrite 0x068 v) s = .next { s with switor := { s.switor with cause := s.switor.cause &&& ~~~v } } ∧
       (s.switor.pfRun = none → let b := leBytes 8 v.toNat ++ s.switor.pf.drop 8
         exec (.registerWrite 0x100 v) s = .next { s with switor := { s.switor with pf := b.set 1 0xFF, pfRun := some b } }) ∧
       (s.switor.pfRun ≠ none → exec (.registerWrite 0x100 v) s = .next s) ∧
       (∀ i, 1 ≤ i → i < 8 → exec (.registerWrite (0x100 + 8 * i) v) s = .next { s with switor := { s.switor with
         pf := s.switor.pf.take (8 * i) ++ leBytes 8 v.toNat ++ s.switor.pf.drop (8 * i + 8) } }) ∧
       (∀ o ∈ ([0x000, 0x008, 0x048, 0x058] : List Nat), exec (.registerWrite o v) s = .next s))) ∧
   (∀ (s : State),
     (s.switor.requests = [] → exec .attestRequest s = .next s) ∧
     (∀ r rest, s.switor.requests = r :: rest → r.index = none →
       (s.flash.gleku < 2 ^ 20 → exec .attestRequest s =
         .next { s with flash := { s.flash with gleku := s.flash.gleku + 1 },
                        switor := { s.switor with requests := { r with index := some s.flash.gleku } :: rest } }) ∧
       (2 ^ 20 ≤ s.flash.gleku → exec .attestRequest s = .next { s with switor := { s.switor with requests := rest, attestCtl := 3 } })) ∧
     (∀ r rest i, s.switor.requests = r :: rest → r.index = some i →
       let b := leBytes 4 0x474B0001 ++ leBytes 4 i ++ r.nonce.flatMap (leBytes 8) ++
         leBytes 2 s.switor.measurements.length ++ leBytes 6 0 ++ s.switor.measurements.flatMap (leBytes 64)
       exec .attestRequest s = .next (State.physWrite { s with switor := { s.switor with requests := rest, attestCtl := 2 } }
         s.switor.attestAddr (b ++ Config.signature b i)))))

/-- R411, R412, R413: a diagnostic command that DIAG_CMD holds writes its results at DIAG_ADDR, returns a retired unit, or opens and ends a
vacate; it ends with status 2, or 3 where it fails, its operand is not as R412 has it, or its code is not listed, and bit 3 of EVENT_CAUSE.
R365, R414, R415, R416: the commands of the physical function that its block holds set and clear a tenant, load and clear a key, grant and
revoke link accesses, each ending with its status in byte 1 and bit 4 of EVENT_CAUSE; a field that its command does not use is zero; a code
that is not listed ends with status 2. That the block keeps its other bytes is log entry 73 (DEDUCED), and that a diagnostic command does its
work in one step once it has been written log entry 71 (DESIGN CHOICE), which has a step that names other operands than the command do
nothing; how the tables take up a unit that is returned is log entry 72. -/
def Obligations.DiagnosticEvents : Prop :=
  (∀ (s : State), ∀ y p b, ∀ i ∈ ([.diagCoreDump y, .diagRevive y p, .diagVacate y, .diagVacateEnd y] : List Instr),
     (s.switor.diagStatus ≠ 1 → ∀ j ∈ i :: [.diagRetirementRecords, .diagSlotTable, .unlistedCommandCode .diag b], exec j s = .next s) ∧
     (y ≠ s.switor.diagCmd >>> 8 → exec i s = .next s)) ∧
  (∀ (s : State), s.switor.diagStatus = 1 →
     let code := (s.switor.diagCmd.extractLsb' 0 8).toNat
     let x := s.switor.diagCmd >>> 8
     let ends (t : State) (n : Nat) : Host.Outcome State Fault Refusal :=
       .next { t with switor := { t.switor with diagStatus := n, cause := t.switor.cause ||| 8 } }
     (code = 1 → x = 0 → exec .diagRetirementRecords s = ends (s.physWrite s.switor.diagAddr (leBytes 4 0x44520001 ++
       leBytes 4 s.flash.retired.length ++ leBytes 56 0 ++
       s.flash.retired.flatMap fun (x : BitVec 64 × Nat) => leBytes 8 x.1.toNat ++ leBytes 8 x.2)) 2) ∧
     (code = 6 → x = 0 → exec .diagSlotTable s =
       ends (s.physWrite s.switor.diagAddr ((List.range 3072).flatMap fun k => leBytes 4 (s.slotEntry k).word)) 2) ∧
     (x ≠ 0 → (code = 1 → exec .diagRetirementRecords s = ends s 3) ∧ (code = 6 → exec .diagSlotTable s = ends s 3)) ∧
     (∀ core, core < 192 → x = BitVec.ofNat 64 (256 * core) →
       (code = 2 → exec (.diagCoreDump x) s = ends (s.physWrite s.switor.diagAddr ((s.coreAt core).dump core)) 2) ∧
       (code = 4 → exec (.diagVacate x) s = ends ((s.updCore core fun k => { k with vacated := true }).vacate core) 2) ∧
       (code = 5 → exec (.diagVacateEnd x) s = ends (s.updCore core fun k => { k with vacated := false }) 2)) ∧
     ((∀ core, core < 192 → x ≠ BitVec.ofNat 64 (256 * core)) →
       (code = 2 → exec (.diagCoreDump x) s = ends s 3) ∧ (code = 4 → exec (.diagVacate x) s = ends s 3) ∧
       (code = 5 → exec (.diagVacateEnd x) s = ends s 3)) ∧
     (code = 3 → (∀ u, unitOf x = some u → unitCode u = x → u.core < 192 → (s.coreAt u.core).unit u = some .retired →
         exec (.diagRevive x true) s = ends { s with
           cores := (s.updCore u.core fun k => k.setUnit u .live).cores,
           flash := { s.flash with retired := s.flash.retired.filter fun (y : BitVec 64 × Nat) => y.1 != x } } 2) ∧
       exec (.diagRevive x false) s = ends s 3) ∧
     (code = 0 ∨ 6 < code → exec (.unlistedCommandCode .diag (leBytes 8 s.switor.diagCmd.toNat)) s = ends s 3)) ∧
  ((∀ (s : State) b, s.switor.pfRun = some b →
     let ends (t : State) (status : Nat) : Host.Outcome State Fault Refusal :=
       .next { t with switor := { t.switor with pf := t.switor.pf.set 1 (BitVec.ofNat 8 status), pfRun := none, cause := t.switor.cause ||| 16 } }
     let code := field b 0 1
     let n := field b 2 1
     let pa := field b 8 8
     (∀ i ∈ ([(0x21, (true, true), .tenantSet n pa), (0x22, (true, false), .tenantClear n), (0x23, (true, true), .keyLoad n pa),
         (0x24, (true, false), .keyClear n), (0x25, (false, true), .linkGrant pa), (0x26, (false, true), .linkRevoke pa)] :
         List (Nat × (Bool × Bool) × Instr)),
       (code ≠ i.1 → exec i.2.2 s = .next s) ∧ (code = i.1 → pfClean b i.2.1 = false → exec i.2.2 s = ends s 2)) ∧
     (∀ m, m ≠ n → ∀ q, ∀ i ∈ ([.tenantSet m q, .tenantClear m, .keyLoad m q, .keyClear m] : List Instr), exec i s = .next s) ∧
     (∀ q, q ≠ pa → ∀ m, ∀ i ∈ ([.tenantSet m q, .keyLoad m q, .linkGrant q, .linkRevoke q] : List Instr), exec i s = .next s) ∧
     (∀ r, code = 0x21 → pfClean b (true, true) = true → n < 16 → s.noContext n = true → s.physRead pa 256 = some r →
       (s.tenantSound n r = true → exec (.tenantSet n pa) s = ends { s with tenants := s.tenants.modify n fun x =>
         { x with enabled := true, windows := recordWindows r, ctxLimit := field r 9 1, errBase := field r 0 8, errLog2 := field r 8 1,
                  quantum := 2000 } } 0) ∧
       (s.tenantSound n r = false → exec (.tenantSet n pa) s = ends s 2)) ∧
     (code = 0x22 → pfClean b (true, false) = true → n < 16 → s.noContext n = true → exec (.tenantClear n) s =
       ends { s with
         switor := { s.switor with keys := s.switor.keys.filter fun (x : Nat × Nat) => x.1 / 4 != n,
                                   material := s.switor.material.filter fun (x : Nat × List Byte) => x.1 / 4 != n },
         tenants := s.tenants.modify n fun x => { x with enabled := false, windows := [], quantum := 2000 } } 0) ∧
     (∀ r, code = 0x23 → pfClean b (true, true) = true → n < 64 → (s.tenants.getD (n / 4) Tenant.fresh).enabled = true →
       s.physRead pa 96 = some r →
       exec (.keyLoad n pa) s = ends (State.physWrite { s with switor := { s.switor with
         keys := (n, s.switor.loads + 1) :: s.switor.keys.filter fun (x : Nat × Nat) => x.1 != n,
         material := (n, r) :: s.switor.material.filter fun (x : Nat × List Byte) => x.1 != n,
         loads := s.switor.loads + 1 } } pa (leBytes 96 0)) 0) ∧
     (code = 0x24 → pfClean b (true, false) = true → n < 64 → exec (.keyClear n) s =
       ends { s with switor := { s.switor with
         keys := s.switor.keys.filter fun (x : Nat × Nat) => x.1 != n,
         material := s.switor.material.filter fun (x : Nat × List Byte) => x.1 != n } } 0) ∧
     (∀ g, pfClean b (false, true) = true → (s.physRead pa 32).bind grantOf = some g →
       (code = 0x25 → s.links.grants.length < 256 → exec (.linkGrant pa) s =
         ends { s with links := { s.links with grants := s.links.grants ++ [g] } } 0) ∧
       (code = 0x25 → 256 ≤ s.links.grants.length → exec (.linkGrant pa) s = ends s 3) ∧
       (code = 0x26 → (∃ x ∈ s.links.grants, g.same x = true) → exec (.linkRevoke pa) s =
         ends { s with links := { s.links with grants := s.links.grants.eraseP g.same } } 0)) ∧
     (code < 0x21 ∨ 0x26 < code → exec (.unlistedCommandCode .pf b) s = ends s 2)) ∧
   (∀ (s : State) (k : Cmd), k.tenant < 16 → (s.tenants.getD k.tenant Tenant.fresh).enabled = true → k.code = 0 ∨ 12 < k.code →
     exec (.unlistedCommandCode (.context k.tenant) k.block) s = .next (s.answer k.code k 2)))

/-! ### The machine as a whole (00_scope.md, 03_packet.md, 04_warp.md, 21_firmware.md) -/

/-- R2, R392, R394, R404: right after reset BOOT_STATUS reads 0, the 192 cores and 8 dies hold no cached line and no translation, no context, queue,
launch, node or group exists, memory holds zero bytes alone in its canonical form, every tenant is disabled, the device has no link
identity and its 12 ports are off. (That storage reads as zero, that every unit is live, and that BOOT_STATUS reads 0 before bring-up begins are the model's
choices, log entries 10, 6 and 91.) -/
def Obligations.ResetState : Prop :=
  let s := State.reset
  s.readRegister 0x008 = 0 ∧ s.groups = [] ∧ s.ctxs = [] ∧ s.queues = [] ∧ s.launches = [] ∧ s.nodes = [] ∧
  s.cores.length = 192 ∧ (∀ k ∈ s.cores, k.l1 = [] ∧ k.icache = [] ∧ k.tlb = [] ∧ k.recs = [] ∧ k.engineActive = false ∧
    k.parts.length = 4 ∧ (∀ p ∈ k.parts, p.lanes = List.replicate 36 .live ∧ p.banks = List.replicate 26 .live) ∧
    k.sbanks = List.replicate 36 .live ∧ k.cols = List.replicate 34 .live) ∧
  s.dies.length = 8 ∧ (∀ d ∈ s.dies, d.tlb = []) ∧
  s.MemOk ∧ (∀ a, Memory.read s.mem a = 0) ∧
  (∀ t ∈ s.tenants, t.enabled = false) ∧ s.tenants.length = 16 ∧
  s.links.identity = none ∧ s.links.ports.length = 12 ∧ (∀ p ∈ s.links.ports, p.state = .off) ∧ s.links.grants = []

/-- R73, R85, R90: words written out field by field decode to the instructions that they stand for: one or two of every format. -/
def Obligations.DecodeWords : Prop :=
  ∀ x ∈ ([
    (0b00000000001000000000000000000000, .exit), (0b00000000100000000000000000000111, .trap 7),
    (0b00000110000000101000011000001110, .sadd64 10 12 14), (0b00001001001000001100000110000100, .sshlI 3 3 4),
    (0b00001101101001000000001000110010, .scmpI 6 2 4 50), (0b00010101000011111111111111111101, .bc 2 (-3)),
    (0b00011000000100000000000000101000, .call 40), (0b00011100010110010000000000000010, .mpush 100 2),
    (0b00100000101000010100001100000111, .vsubSatU32 5 6 7), (0b00101001000000000100000011000000, .vminU32I 1 1 64),
    (0b00110100010001000000000000000001, .vcmp 2 2 0 0 1), (0b00111001011000010000001010000110, .vsel 11 4 5 6),
    (0b01000000001000001100000010000010, .fadd 1 3 1 2), (0b01010100001110100100010010000010, .vcvtNarrow 0 3 1 1 9 2),
    (0b01011100000010001000101000011110, .fdot 1 2 20 30), (0b01100100110000100100010000000000, .vredAddF32 9 8),
    (0b10000000000000000000000000001000, .cbind 8), (0b10000100000001010000001000001000, .cadd 20 4 8),
    (0b10001110101000001100000010010000, .cst 1 1 0 3 1 16), (0b10010010101000001100010100000110, .ld 1 1 1 0 3 10 6),
    (0b10011001111010010000000100000110, .atomCas 5 4 2 6), (0b10011100100000001100000010000010, .sldB32 3 1 2),
    (0b10100000000000001000101000000000, .ldrec 2 20), (0b10100100000000000000000000000001, .fence 1),
    (0b10101000100011000010000001100000, .cpy32 1 3 4 6), (0b10101001100000000000000000000011, .qfence 3),
    (0b10101100000000000000000000000011, .gbMeet 3), (0b10101100101001111000101000011001, .mbPost 30 20 25),
    (0b11000001111011000100100000101000, .mmaSat 7 11 16 40), (0b11000100000010001100100000010100, .tget 2 16 20),
    (0b11001000000000000100000000000001, .mwait 1)] : List (Word × Instr)), decode x.1 = .ok x.2

/-- R90, R93, R94: no bit of an encoding is dropped: the word of every well-formed instruction decodes to it, every operand at every
value that the encoding admits. -/
def Obligations.EncodeDecode : Prop :=
  ∀ (i : Instr) (w : Word), i.wf = true → encode i = some w → (∀ x, i ≠ .illOp x ∧ i ≠ .futureOp x) → decode w = .ok i

/-- R72, R78, R79, R96, R110: a partition's turn runs the slot at the PC of the warp that issued least recently: the packet is the 16
bytes at the PC in the core's instruction cache, and where its slot decodes to an instruction, or raises a decode fault, exec of that
instruction is what the step does, with the PC moved past the slot before it; a set of chained slots is run slot by slot; a set one of
whose pipes is busy leaves the turn to the next warp; a turn that is an event runs the event, and one that is an uncorrectable error, a
copied row or a mailbox message does that alone; one that is a command which has waited runs the command. (That the device takes its turns from an agenda is log entry 1.) -/
def Obligations.StepRunsDecoded : Prop :=
  (∀ (s : State), (∀ i, s.turn = .event i → isEvent i = true → step s = exec i s.turned) ∧
    (∀ u, s.turn = .upset u → step s = .next (s.turned.upset u)) ∧ (∀ u, s.turn = .copyRow u → step s = .next (s.turned.copyRow u)) ∧
    (∀ m, s.turn = .mail m → step s = .next (s.turned.sendMail m)) ∧
    (∀ x i, s.turn = .command x → x.instr = some i → step s = exec i s.turned)) ∧
  (∀ (s : State) core a l, s.w.packet = none →
    ((s.coreAt core).icache.find? fun l => l.ctx == s.g.ref.ctx && l.va == a / 128 * 128) = some l →
    ∃ t, s.fetch core a = .packet (packetOf ((l.data.drop (a - a / 128 * 128)).take 16)) t ∧ t.w = { s.w with packet := t.w.packet } ∧
      t.g = s.g ∧ t.mem = s.mem) ∧
  (∀ w, (∀ i, decode w = .ok i → instrOf w = i) ∧ (decode w = .error .illOp → instrOf w = .illOp w) ∧
    (decode w = .error .futureOp → instrOf w = .futureOp w)) ∧
  (∀ (s : State) core part busy r rest (t u0 : State) (p : Packet), s.turn = .issue core part busy → core < 192 →
    s.turned.ranked core part = r :: rest → s.turned.load r = some t → t.w.begun (t.w.pc / 16 * 16) ≤ 4 →
    t.fetch core (t.w.pc / 16 * 16) = .packet p u0 →
    let a := t.w.pc / 16 * 16
    let u : State := { u0 with w := { u0.w with skidPackets := t.w.begun a } }
    let ready := { u.w with status := if u.w.status = .stalled then .ready else u.w.status }
    (p.ok = false → step s = mapNext (exec .illPacket { u with w := ready, iss := { u.iss with at_ := a + 4, core := core } }) State.park) ∧
    (∀ i, p.ok = true → p.firstFrom ((u.w.pc - a - 4) / 4) = some i →
      let slots := p.setFrom i
      (u.w.bcast = true → u.w.skid + slots.length ≤ 12) →
      (∀ x ∈ pipesOf p slots, ((u.coreAt core).parts.getD u.w.part Partition.fresh).holds x = false) →
      let next := p.after a (slots.getLastD i)
      let v : State := { u with w := { ready with pc := next, setNo := u.w.setNo + 1 }, iss := { u.iss with drawSet := false } }
      let c : SetCtx :=
        { p := p, a := a, slots := slots, next := next, core := core, before := { v with w := { v.w with pc := slotAddr a i } } }
      (∀ o, c.run slots none v = (true, o) → (∃ x ∈ pipesOf p slots, x.code ∈ busy) →
        step s = ({ u with w := ready } : State).park.issueFrom core busy rest) ∧
      ((∀ x ∈ pipesOf p slots, x.code ∉ busy) →
        (∀ o, c.run slots none v = (true, o) → step s = mapNext o State.park) ∧
        (slots = [i] → ∀ x, exec (instrOf (p.slot i)) (v.enter c i) = .next x →
          (x.iss.trapped = true → step s = .next x.park) ∧
          (x.iss.trapped = false → x.iss.stalled = false → step s = .next x.issued.park) ∧
          (x.iss.trapped = false → x.iss.stalled = true → step s = x.park.issueFrom core busy rest)))))

/-- Whatever the next turn is, a step keeps the canonical form of memory: addresses strictly rising and no byte listed that an unlisted
address reads as. (The form is the model's; log entry 10 gives what an unlisted byte reads as.) -/
def Obligations.StepKeepsMemory : Prop := ∀ s t : State, s.MemOk → step s = .next t → t.MemOk

/-- R79, R87, R113, R130, R142, R309: an instruction word leaves every register unchanged but its results: vector, scalar, predicate,
condition and record registers, the limb count, the carry words and the draw counter. -/
def Obligations.RegistersKept : Prop :=
  ∀ (i : Instr) (s t : State), (encode i).isSome = true → exec i s = .next t → ∀ r ∉ i.results, Regs.same r s.w.regs t.w.regs

/-- R113, R210, R217: an instruction word stores nothing as it issues: every byte of memory, of each core's L1 cache, of the scratchpad window,
the staged writes and the accumulator rows of its group stay as they were, and a store's bytes change when its entry leaves the queue (PathEvents).
The five instructions that translate an address as they issue (R375: they may set A bits) are stated with their results. -/
def Obligations.MemoryKept : Prop :=
  ∀ (i : Instr) (s t : State), (encode i).isSome = true →
    (∀ a b, i ≠ .pf a b ∧ i ≠ .ipf a b ∧ i ≠ .stage a b ∧ i ≠ .waitge a b ∧ i ≠ .mbAwait a b) → exec i s = .next t →
    (∀ a, t.homeByte a = s.homeByte a) ∧ t.poison = s.poison ∧ t.sectorKey = s.sectorKey ∧
    (∀ k, (t.coreAt k).l1 = (s.coreAt k).l1) ∧ t.g.scratch = s.g.scratch ∧ t.g.staged = s.g.staged ∧ t.g.acc = s.g.acc ∧ t.groups = s.groups

/-- R8, R213: a write at the home slices of local memory, no granule being copied, leaves the bytes written, lowest first, and every other
byte as it was. -/
def Obligations.HomeBytes : Prop :=
  ∀ (s : State) core key pa (bs : List Byte), s.MemOk → s.moving = none → pa + bs.length ≤ hbmEnd →
    let t := s.homeWrite core key pa bs
    (∀ i b, bs[i]? = some b → t.homeByte (pa + i) = b) ∧ (∀ a, a < pa ∨ pa + bs.length ≤ a → t.homeByte a = s.homeByte a)

/-- R33, R76, R81, R83, R84, R86, R87, R89, R109, R113, R145, R191: what turns a slot away before its effect, in this order: a literal that its
packet lacks, fields that are not well formed, a vector register past the allocation, results waited for or a hold, a scalar guard that is false
(it keeps its place in the sequence and does nothing else), a conflict with a lookahead window, a lane guard that splits a chain, a full in-flight
counter or the hold of a fence or acquire, a source word that ECC cannot correct; a slot that none of them turns away has its effect. (The order is
log entries 18, 94 and 95.) -/
def Obligations.SlotChecks : Prop :=
  ∀ (u : Use) (body : State → Eff) (s : State),
    let literal := ∀ f, u.imm = some f → immOk f s.iss.lits = true
    let fields := u.wf = true ∧ (s.iss.la = 15 → u.path.isSome = true)
    let clear := awaitsResult s = false ∧ s.w.hold.stopsAll = false
    let guarded := u.lane = true ∨ guardBit s.iss.guard s.src = true
    let conflict := laConflict (u.allReads s.iss.guard) u.writes s = true
    let splits := u.lane = true ∧ s.src.chn ≠ 0 ∧ guardSplits s.src.chn s.src.mask s.active ≠ 0
    let blocked := (∃ p, u.path = some p ∧ 63 ≤ s.w.counter p) ∨ (u.mem = true ∧ s.w.hold ≠ .none)
    let trap (c : Cause) : Host.Outcome State Fault Refusal := .next (takeTrap (s.trapOf c) s)
    (¬literal → slotDo u body s = trap .illPacket) ∧
    (literal → ¬fields → slotDo u body s = trap .illOp) ∧
    (literal → fields → s.w.nregs < u.vtop → slotDo u body s = trap .regRange) ∧
    (literal → fields → u.vtop ≤ s.w.nregs → ¬clear → slotDo u body s = .next (holdSlot s)) ∧
    (literal → fields → u.vtop ≤ s.w.nregs → clear → ¬guarded → slotDo u body s = .next (retireOff s)) ∧
    ((retireOff s).w.regs = s.w.regs ∧ (retireOff s).w.pc = s.w.pc ∧ (retireOff s).w.clk = s.w.clk + 1 ∧
      { retireOff s with w := s.w } = s) ∧
    (literal → fields → u.vtop ≤ s.w.nregs → clear → guarded →
      (conflict → slotDo u body s = trap .laConflict) ∧
      (¬conflict → splits →
        slotDo u body s = .next (takeTrap (s.splitTrap s.src.chn (guardSplits s.src.chn s.src.mask s.active)) s)) ∧
      (¬conflict → ¬splits → blocked → slotDo u body s = .next (holdSlot s)) ∧
      (¬conflict → ¬splits → ¬blocked → u.late = false → badLanes u s ≠ [] → slotDo u body s = .next (takeTrap (s.badTrap (badLanes u s)) s)) ∧
      (¬conflict → ¬splits → ¬blocked → u.late = true ∨ badLanes u s = [] → front u s = .pass))
end

