-- ==== Sys2Proof/Laws/Access.lean ====
section
/-!
SUPPORT. Lanes whose addresses all pass: the checks of ld, st and the atomics, of the scratchpad, of cpy32 and of the tiles give one
request for each lane (R217, R221, R226, R260, R274).
-/
namespace Sys2Proof.Machine

/-- No lane fails: there is no cause. -/
@[simp] theorem firstCause_nil (o : List Cause) : firstCause o [] = none := by
  have h : o.find? (fun c => ([] : List LaneFail).any (·.cause == c)) = none := by simp
  unfold firstCause
  rw [h]

/-- The failing lanes of a list, with what each fails. -/
def failsOf (ls : List Nat) (fail : Nat → Option (Cause × Nat)) : List LaneFail :=
  ls.filterMap fun l => (fail l).map fun x => { lane := l, cause := x.1, addr := x.2 }

/-- The lanes that fail a cause. -/
theorem failsOf_filter (ls : List Nat) (fail : Nat → Option (Cause × Nat)) (c : Cause) :
    ((failsOf ls fail).filter (·.cause == c)).map (·.lane) = ls.filter fun l => decide ((fail l).map (·.1) = some c) := by
  induction ls with
  | nil => rfl
  | cons l ls ih =>
    rcases h : fail l with _ | ⟨x, va⟩
    · simpa [failsOf, h] using ih
    · by_cases hx : x = c
      · simpa [failsOf, h, hx] using ih
      · simpa [failsOf, h, hx] using ih

/-- The lowest lane that fails a cause. -/
theorem failsOf_head {ls : List Nat} (fail : Nat → Option (Cause × Nat)) {c : Cause} {l va : Nat} (hs : ls.Pairwise (· < ·)) (hl : l ∈ ls)
    (hf : fail l = some (c, va)) (hlow : ∀ j ∈ ls, j < l → (fail j).map (·.1) ≠ some c) :
    ((failsOf ls fail).filter (·.cause == c)).head? = some { lane := l, cause := c, addr := va } := by
  induction ls with
  | nil => cases hl
  | cons j ls ih =>
    obtain ⟨hj, hs⟩ := List.pairwise_cons.mp hs
    rcases List.mem_cons.mp hl with rfl | hm
    · simp [failsOf, hf]
    · have h := hlow j (by simp) (hj l hm)
      have ih := ih hs hm fun x hx => hlow x (List.mem_cons_of_mem _ hx)
      rcases hx : fail j with _ | ⟨x, a⟩
      · simpa [failsOf, hx] using ih
      · have hc : x ≠ c := fun e => h (by rw [hx, e]; rfl)
        simpa [failsOf, hx, hc] using ih

/-- A lane of a mask is one of its list of lanes, and of no other. -/
theorem getLsbD_maskList (ls : List Nat) (l : Nat) : (maskList ls).getLsbD l = (decide (l < 96) && ls.contains l) := by
  have h (rs : List Nat) (hr : ∀ r ∈ rs, r < 96) :
      (rs.foldr (fun l m => m ||| (if ls.contains l then BitVec.twoPow 96 l else 0)) (0 : LaneMask)).getLsbD l = (decide (l ∈ rs) && ls.contains l) := by
    induction rs with
    | nil => simp
    | cons r rs ih =>
      rw [List.foldr_cons, BitVec.getLsbD_or, ih fun x hx => hr x (List.mem_cons_of_mem _ hx)]
      have := hr r (by simp)
      by_cases e : r = l <;> by_cases c : ls.contains r <;> simp_all [BitVec.getLsbD_twoPow] <;> grind
  simpa [maskList, maskOf] using h (List.range 96) (by simp)

/-- The first cause of an order that an active lane fails is the one recorded, with its lanes and the address of the lowest. -/
theorem firstCause_first {order : List Cause} {act : LaneMask} {fail : Nat → Option (Cause × Nat)} {c : Cause} {m : LaneMask} {va : Nat}
    (h : FirstFails order act fail c m va) : firstCause order (failsOf (lanesIn act) fail) = some (c, m, va) := by
  obtain ⟨⟨before, after, rfl, hb⟩, hm, l, hl, hf, hlow⟩ := h
  have hany (x : Cause) : (failsOf (lanesIn act) fail).any (·.cause == x) = true ↔ ∃ j ∈ lanesIn act, (fail j).map (·.1) = some x := by
    simp only [failsOf, List.any_filterMap, List.any_eq_true]
    exact exists_congr fun j => and_congr_right fun _ => by rcases fail j with _ | ⟨y, a⟩ <;> simp
  have hfind : (before ++ c :: after).find? (fun x => (failsOf (lanesIn act) fail).any (·.cause == x)) = some c := by
    rw [List.find?_append, List.find?_eq_none.mpr, List.find?_cons_of_pos]
    · rfl
    · exact (hany c).mpr ⟨l, hl, by rw [hf]; rfl⟩
    · intro x hx hc
      obtain ⟨j, hj, he⟩ := (hany x).mp (by simpa using hc)
      exact hb x hx j hj he
  have hmask : maskList (((failsOf (lanesIn act) fail).filter (·.cause == c)).map (·.lane)) = m := by
    rw [failsOf_filter]
    ext i hi
    rw [← BitVec.getLsbD_eq_getElem, ← BitVec.getLsbD_eq_getElem, getLsbD_maskList, hm i hi]
    have hl : i ∈ lanesIn act ↔ act.getLsbD i = true := by simp [lanesIn, hi]
    rw [Bool.eq_iff_iff]
    simp [hi, hl, List.mem_filter]
  have hhead := failsOf_head fail (ls := lanesIn act) (List.pairwise_lt_range.filter _) hl hf hlow
  simp [firstCause, hfind, hmask, hhead]

/-- Lanes of which one fails give the trap of the first cause that a lane fails (R221). -/
theorem splitLanes_first {s : State} {f : Nat → LaneAddr} (data : Nat → BitVec 128) {c : Cause} {m : LaneMask} {va : Nat}
    (h : FirstFails [.bounds, .addrFault, .misalign] s.active (fun l => (f l).failure) c m va) :
    splitLanes s ((lanesIn s.active).map fun l => (l, f l, data l)) = .inl { s.trapOf c with mask := m, addr := some va } := by
  have e : ((lanesIn s.active).map fun l => (l, f l, data l)).filterMap (fun x =>
      match x with | (l, .bad c a, _) => some ({ lane := l, cause := c, addr := a } : LaneFail) | _ => none) =
      failsOf (lanesIn s.active) fun l => (f l).failure := by
    rw [List.filterMap_map]
    refine List.filterMap_congr fun l _ => ?_
    simp only [Function.comp]
    cases f l <;> rfl
  have h := firstCause_first h
  rw [← e] at h
  unfold splitLanes
  dsimp only
  split
  · next heq => cases heq.symm.trans h; rfl
  · next heq => cases heq.symm.trans h

/-- The same of a scratchpad access (R226). -/
theorem scratchLanes_first {s : State} {n : Nat} {f : Nat → Int} (data : Nat → BitVec 128) {c : Cause} {m : LaneMask} {va : Nat}
    (h : FirstFails [.scratchRange, .misalign] s.active (fun l => (scratchCause s.g (f l) n).map fun x => (x, (f l % 2 ^ 64).toNat)) c m va) :
    scratchLanes s n ((lanesIn s.active).map fun l => (l, f l, data l)) = .inl { s.trapOf c with mask := m, addr := some va } := by
  have e : ((lanesIn s.active).map fun l => (l, f l, data l)).filterMap (fun x => (scratchCause s.g x.2.1 n).map fun c =>
      ({ lane := x.1, cause := c, addr := (x.2.1 % 2 ^ 64).toNat } : LaneFail)) =
      failsOf (lanesIn s.active) fun l => (scratchCause s.g (f l) n).map fun x => (x, (f l % 2 ^ 64).toNat) := by
    rw [List.filterMap_map]
    refine List.filterMap_congr fun l _ => ?_
    simp only [Function.comp]
    cases scratchCause s.g (f l) n <;> rfl
  have h := firstCause_first h
  rw [← e] at h
  unfold scratchLanes
  dsimp only
  split
  · next heq => cases heq.symm.trans h; rfl
  · next heq => cases heq.symm.trans h

/-- The same of a tile instruction (R274). -/
theorem tileLanes_first {s : State} {v : BitVec 7} {n : Nat} {c : Cause} {m : LaneMask} {va : Nat}
    (h : FirstFails [.misalign, .scratchRange] s.active (rowFailure s.g n fun l => (laneAt (s.src.vget v) l).toNat) c m va) :
    tileLanes s v n = .inl { s.trapOf c with mask := m, addr := some va } := by
  have e : (((lanesIn s.active).map fun l => (l, (laneAt (s.src.vget v) l).toNat)).filterMap fun x =>
      if x.2 % 16 != 0 then some ({ lane := x.1, cause := .misalign, addr := x.2 } : LaneFail)
      else if !s.g.scratchOk x.2 n then some { lane := x.1, cause := .scratchRange, addr := x.2 } else none) =
      failsOf (lanesIn s.active) (rowFailure s.g n fun l => (laneAt (s.src.vget v) l).toNat) := by
    rw [List.filterMap_map]
    refine List.filterMap_congr fun l _ => ?_
    simp only [Function.comp, rowFailure]
    by_cases h1 : (laneAt (s.src.vget v) l).toNat % 16 = 0
    · by_cases h2 : s.g.scratchOk (laneAt (s.src.vget v) l).toNat n = true <;> simp [h1, h2]
    · simp [h1]
  have h := firstCause_first h
  rw [← e] at h
  unfold tileLanes
  dsimp only
  split
  · next heq => cases heq.symm.trans h; rfl
  · next heq => cases heq.symm.trans h

/-- The lanes that have an address or are dropped become one request each. -/
theorem splitLanes_ok (s : State) (ls : List Nat) (f : Nat → LaneAddr) (data : Nat → BitVec 128) (place : Nat → Option Nat)
    (h : ∀ l ∈ ls, f l = match place l with | some x => .ok x | none => .drop) :
    splitLanes s (ls.map fun l => (l, f l, data l)) =
      .inr (ls.map fun l => { lane := l, va := (place l).getD 0, drop := (place l).isNone, data := data l, len := 0 }) := by
  have h1 : ((ls.map fun l => (l, f l, data l)).filterMap fun x =>
      match x with | (l, .bad c a, _) => some ({ lane := l, cause := c, addr := a } : LaneFail) | _ => none) = [] := by
    rw [List.filterMap_eq_nil_iff]
    intro x hx
    obtain ⟨l, hl, rfl⟩ := List.mem_map.mp hx
    simp only [h l hl]
    cases place l <;> rfl
  have h2 : ((ls.map fun l => (l, f l, data l)).filterMap fun x => match x with
      | (l, .ok va, d) => some ({ lane := l, va := va, drop := false, data := d, len := 0 } : LaneReq)
      | (l, .drop, d) => some { lane := l, va := 0, drop := true, data := d, len := 0 }
      | _ => none) =
      ls.map fun l => { lane := l, va := (place l).getD 0, drop := (place l).isNone, data := data l, len := 0 } := by
    rw [List.filterMap_map, ← List.filterMap_eq_map]
    apply List.filterMap_congr
    intro l hl
    simp only [Function.comp, h l hl]
    cases place l <;> rfl
  unfold splitLanes
  dsimp only
  split
  · next heq => exact absurd (heq.symm.trans ((congrArg (firstCause addrCauses) h1).trans (firstCause_nil _))) (by simp)
  · exact congrArg Sum.inr h2

/-- The lanes of a scratchpad access that fail nothing become one request each. -/
theorem scratchLanes_ok (s : State) (n : Nat) (ls : List Nat) (f : Nat → Int) (data : Nat → BitVec 128)
    (h : ∀ l ∈ ls, scratchCause s.g (f l) n = none) :
    scratchLanes s n (ls.map fun l => (l, f l, data l)) =
      .inr (ls.map fun l => { lane := l, va := (f l).toNat, drop := false, data := data l, len := 0 }) := by
  have h1 : ((ls.map fun l => (l, f l, data l)).filterMap fun x => (scratchCause s.g x.2.1 n).map fun c =>
      ({ lane := x.1, cause := c, addr := (x.2.1 % 2 ^ 64).toNat } : LaneFail)) = [] := by
    rw [List.filterMap_eq_nil_iff]
    intro x hx
    obtain ⟨l, hl, rfl⟩ := List.mem_map.mp hx
    simp [h l hl]
  unfold scratchLanes
  dsimp only
  rw [h1, firstCause_nil]
  simp [Function.comp_def]

/-- The lanes of a tile instruction whose addresses pass. -/
theorem tileLanes_ok (s : State) (v : BitVec 7) (n : Nat)
    (h : ∀ l ∈ lanesIn s.active, (laneAt (s.src.vget v) l).toNat % 16 = 0 ∧ s.g.scratchOk (laneAt (s.src.vget v) l).toNat n = true) :
    tileLanes s v n = .inr ((lanesIn s.active).map fun l => (l, (laneAt (s.src.vget v) l).toNat)) := by
  have h1 : (((lanesIn s.active).map fun l => (l, (laneAt (s.src.vget v) l).toNat)).filterMap fun x =>
      if x.2 % 16 != 0 then some ({ lane := x.1, cause := .misalign, addr := x.2 } : LaneFail)
      else if !s.g.scratchOk x.2 n then some { lane := x.1, cause := .scratchRange, addr := x.2 } else none) = [] := by
    rw [List.filterMap_eq_nil_iff]
    intro x hx
    obtain ⟨l, hl, rfl⟩ := List.mem_map.mp hx
    obtain ⟨h2, h3⟩ := h l hl
    simp [h2, h3]
  unfold tileLanes
  dsimp only
  rw [h1, firstCause_nil]

end Sys2Proof.Machine
end

