-- ==== Sys2Proof/Laws/Alu.lean ====
section
/-!
SUPPORT. The integer operations in the words of the spec (R123, R128, R149): exact products, shifts by any count,
minimum and maximum.
-/
namespace Sys2Proof.Machine

theorem mulHiU_eq (a b : Word) : mulHiU a b = BitVec.ofNat 32 (a.toNat * b.toNat / 2 ^ 32) := by
  apply BitVec.eq_of_toNat_eq
  have h : a.toNat * b.toNat < 2 ^ 64 := by
    have := Nat.mul_lt_mul'' a.isLt b.isLt; simpa using this
  simp [mulHiU, hiWord, BitVec.toNat_mul, Nat.shiftRight_eq_div_pow]
  omega

theorem mulWideS_eq (a b : Word) : mulWideS a b = BitVec.ofInt 64 (a.toInt * b.toInt) := by
  have h (x : Word) : x.signExtend 64 = BitVec.ofInt 64 x.toInt := rfl
  rw [mulWideS, h, h, ← BitVec.ofInt_mul]

theorem mulWideU_eq (a b : Word) : mulWideU a b = BitVec.ofNat 64 (a.toNat * b.toNat) := by
  apply BitVec.eq_of_toNat_eq
  simp [mulWideU, BitVec.toNat_mul]

theorem mulHiS_eq (a b : Word) : mulHiS a b = BitVec.ofInt 32 (a.toInt * b.toInt / 2 ^ 32) := by
  have h : mulHiS a b = hiWord (mulWideS a b) := rfl
  apply BitVec.eq_of_toNat_eq
  rw [h, mulWideS_eq, hiWord]
  simp [BitVec.toNat_ofInt, Nat.shiftRight_eq_div_pow]
  omega

theorem sra_eq (a b : Word) : sra a b = a.sshiftRight (min b.toNat 31) := by
  unfold sra
  split
  · next h =>
    rw [Nat.min_eq_right (by omega)]
    apply BitVec.eq_of_getLsbD_eq
    intro i hi
    rw [BitVec.getLsbD_sshiftRight]
    have h32 : ¬ 32 ≤ i := by omega
    have e : a.getLsbD (31 + i) = (decide (i = 0) && a.getLsbD 31) := by
      by_cases h0 : i = 0
      · simp [h0]
      · have : 32 ≤ 31 + i := by omega
        simp [h0, BitVec.getLsbD_of_ge a _ this]
    rw [e, BitVec.msb_eq_getLsbD_last]
    cases a.getLsbD 31 with
    | false => simp
    | true =>
      have : (0xFFFFFFFF#32) = BitVec.allOnes 32 := rfl
      simp only [if_true, this, BitVec.getLsbD_allOnes, hi, h32]
      by_cases h0 : i = 0 <;> simp [h0]
      omega
  · rw [Nat.min_eq_left (by omega)]

theorem minS_eq (a b : Word) : minS a b = if a.toInt < b.toInt then a else b := by
  unfold minS; split <;> split <;> first | rfl | (apply BitVec.eq_of_toInt_eq; omega)

theorem maxS_eq (a b : Word) : maxS a b = if a.toInt < b.toInt then b else a := by
  unfold maxS; split <;> split <;> first | rfl | (apply BitVec.eq_of_toInt_eq; omega)

theorem minU_eq (a b : Word) : minU a b = if a.toNat < b.toNat then a else b := by
  unfold minU; split <;> split <;> first | rfl | (apply BitVec.eq_of_toNat_eq; omega)

theorem maxU_eq (a b : Word) : maxU a b = if a.toNat < b.toNat then b else a := by
  unfold maxU; split <;> split <;> first | rfl | (apply BitVec.eq_of_toNat_eq; omega)

theorem clampInt_eq (lo hi x : Int) (h : lo ≤ hi) : clampInt lo hi x = max lo (min hi x) := by
  unfold clampInt; split
  · omega
  · split <;> omega

theorem satS32_eq (x : Int) : satS32 x = BitVec.ofInt 32 (max (-2 ^ 31) (min (2 ^ 31 - 1) x)) := by
  rw [satS32, clampInt_eq _ _ _ (by decide)]

theorem satU32_eq (x : Int) : satU32 x = BitVec.ofInt 32 (max 0 (min (2 ^ 32 - 1) x)) := by
  rw [satU32, clampInt_eq _ _ _ (by decide)]

theorem satTo_eq (lo hi x : Int) (h : lo ≤ hi) : satTo lo hi x = BitVec.ofInt 32 (max lo (min hi x)) := by
  rw [satTo, clampInt_eq _ _ _ h]

theorem addSatU_eq (a b : Word) : addSatU a b = BitVec.ofNat 32 (min (2 ^ 32 - 1) (a.toNat + b.toNat)) := by
  rw [addSatU, satU32_eq]
  have : max 0 (min (2 ^ 32 - 1) ((a.toNat : Int) + b.toNat)) = ((min (2 ^ 32 - 1) (a.toNat + b.toNat) : Nat) : Int) := by omega
  rw [this]; rfl

theorem subSatU_eq (a b : Word) : subSatU a b = BitVec.ofNat 32 (a.toNat - b.toNat) := by
  rw [subSatU, satU32_eq]
  have := a.isLt
  have : max 0 (min (2 ^ 32 - 1) ((a.toNat : Int) - b.toNat)) = ((a.toNat - b.toNat : Nat) : Int) := by omega
  rw [this]; rfl

end Sys2Proof.Machine
end

