-- ==== Sys2Proof/Laws/Command.lean ====
section
/-!
SUPPORT. What a command, a packet and a diagnostic can do once what they need holds (16_kernel.md R347, 18_context.md R365,
21_firmware.md R405, R411, R414), and the choice of a free number or place.
-/
namespace Sys2Proof.Machine

/-- A packet that the front end has read, sound and past its barrier bit, is acted on (R347, R349, R353). -/
theorem frontEnd_packet {s : State} {n : Nat} {q : Queue} {b : List Byte} {va level widx ridx : Nat} {t : State} {kinds : List Nat}
    {act : State → Queue → List Byte → Nat → Nat → Nat → Acted}
    (h1 : s.queueOf n = some q) (h2 : q.state ≠ .error) (h3 : q.state ≠ .stopped)
    (h4 : s.frontRead q = .packet b va level widx ridx t) (h5 : headerSound (field b 0 4) = true)
    (h6 : field b 0 4 / 2 ^ 12 % 2 = 1 → t.queueClear q = true) (h7 : kinds.contains (packetKind b) = true) :
    s.frontEnd n kinds act = match act (t.updQueue n fun q => { q with state := .active }) q b va level ridx with
      | .done u => u.consume q widx ridx
      | .kept u => u
      | .waits u => u.updQueue n fun q => { q with state := .waiting }
      | .error code u => (u.queueError q code level (field b 0 4) ridx va).getD s
      | .later => t := by
  unfold State.frontEnd
  rw [h1]
  show ite _ _ _ = _
  rw [if_neg (by rintro (a | a); exact h2 a; exact h3 a), h4]
  simp only
  refine (if_neg (by rw [h5]; simp)).trans ((if_neg (by rw [h7]; simp)).trans
    ((if_neg (by rintro ⟨a, c⟩; rw [h6 a] at c; simp at c)).trans ?_))
  generalize act _ q b va level ridx = A
  cases A <;> rfl

/-- The front end at a packet whose header is not sound: the queue is in error (R348, R351). -/
theorem frontEnd_header {s : State} {n : Nat} {q : Queue} {b : List Byte} {va level widx ridx : Nat} {t : State} {kinds : List Nat}
    {act : State → Queue → List Byte → Nat → Nat → Nat → Acted}
    (h1 : s.queueOf n = some q) (h2 : q.state ≠ .error) (h3 : q.state ≠ .stopped)
    (h4 : s.frontRead q = .packet b va level widx ridx t) (h5 : headerSound (field b 0 4) = false) :
    s.frontEnd n kinds act = (t.queueError q 0x11 level (field b 0 4) ridx va).getD s := by
  unfold State.frontEnd
  rw [h1]
  show ite _ _ _ = _
  rw [if_neg (by rintro (a | a); exact h2 a; exact h3 a), h4]
  simp only
  exact if_pos (by rw [h5]; rfl)

/-- The front end at a packet whose barrier bit is not met: the queue waits (R347, R348). -/
theorem frontEnd_barrier {s : State} {n : Nat} {q : Queue} {b : List Byte} {va level widx ridx : Nat} {t : State} {kinds : List Nat}
    {act : State → Queue → List Byte → Nat → Nat → Nat → Acted}
    (h1 : s.queueOf n = some q) (h2 : q.state ≠ .error) (h3 : q.state ≠ .stopped)
    (h4 : s.frontRead q = .packet b va level widx ridx t) (h5 : headerSound (field b 0 4) = true)
    (h6 : field b 0 4 / 2 ^ 12 % 2 = 1) (h7 : t.queueClear q = false) (h8 : kinds.contains (packetKind b) = true) :
    s.frontEnd n kinds act = t.updQueue n fun q => { q with state := .waiting } := by
  unfold State.frontEnd
  rw [h1]
  show ite _ _ _ = _
  rw [if_neg (by rintro (a | a); exact h2 a; exact h3 a), h4]
  simp only
  exact (if_neg (by rw [h5]; simp)).trans ((if_neg (by rw [h8]; simp)).trans (if_pos ⟨h6, by rw [h7]; rfl⟩))

/-- The front end whose read fails: the queue is in error (R351). -/
theorem frontEnd_error {s : State} {n : Nat} {q : Queue} {code header va ridx : Nat} {t : State} {kinds : List Nat}
    {act : State → Queue → List Byte → Nat → Nat → Nat → Acted}
    (h1 : s.queueOf n = some q) (h2 : q.state ≠ .error) (h3 : q.state ≠ .stopped)
    (h4 : s.frontRead q = .error code header va ridx t) :
    s.frontEnd n kinds act = (t.queueError q code q.nest.length header ridx va).getD s := by
  unfold State.frontEnd
  rw [h1]
  show ite _ _ _ = _
  rw [if_neg (by rintro (a | a); exact h2 a; exact h3 a), h4]

/-- The front end reads the write index, then the read index, then tries the read index's write (R351). -/
theorem frontRead_widx (s : State) (q : Queue) : s.frontRead q = q.widxRead (s.fwRead q.ctx q.widxVa 8) := rfl

theorem widxRead_ok (q : Queue) (w : List Byte) (a : List Tlb) (s : State) :
    q.widxRead (.ok w a s) = q.ridxRead (leNat w) (s.fwRead q.ctx q.ridxVa 8) := rfl

theorem ridxRead_ok (q : Queue) (w : Nat) (r : List Byte) (a : List Tlb) (s : State) :
    q.ridxRead w (.ok r a s) = q.indexed w (leNat r) (s.engineCheck noCore q.ctx [] (pieces q.ridxVa 8)) := rfl

/-- A packet that is not in the line that has been read is read at its address (R346). -/
theorem ringPacket_read {s : State} {q : Queue} {r : Nat} (w : Nat) (h : ∀ x ∈ q.line, x.1 ≠ r) :
    s.ringPacket q w r = q.lined w r (s.fwRead q.ctx (q.packetVa r) 64) := by
  unfold State.ringPacket
  rw [List.find?_eq_none.mpr (by intro x hx; simpa using h x hx)]

/-- A queue enters its error state with its record written (R351). -/
theorem queueError_written {t v : State} {q : Queue} {code level h ridx va : Nat} {bs : List Byte} {c : List Tlb}
    (ha : t.acked noCore = true) (hw : t.fwWrite q.ctx q.errVa (errorRecord code level q.num h ridx va) = .ok bs c v) :
    t.queueError q code level h ridx va = some ((v.interrupt (v.tenantOf q.ctx) 0).updQueue q.num fun q =>
      { q with state := .error, nest := [], line := [], waitFor := none, unbind := none }) := by
  unfold State.queueError State.writeError
  rw [if_neg (by rw [ha]; simp), hw]
  dsimp only
  rw [Option.map_some]

/-- A command of an enabled tenant, with no field set that it does not use (R360, R365). -/
theorem onCommand_next {code : Nat} {c : Cmd} {clean : Bool} {f : State → State} {s : State} (h : s.Takes c clean) :
    onCommand code c clean f s = .next (f s) := by
  unfold onCommand
  rw [if_neg (by rw [h.2.1]; simp; exact h.1), if_neg (by rw [h.2.2]; simp)]

/-- A command of a context of the tenant that has no other under way or waiting and is in a state that allows it (R365). -/
theorem onContext_next {code : Nat} {c : Cmd} {edits : List Edit} {clean : Bool} {acc : CtxState → Bool}
    {f : Context → State → Option State} {s t : State} {x : Context} (h : s.TakesFor c clean x) (h5 : acc x.state = true)
    (h6 : f x s = some t) : onContext code c edits clean acc f s = .next t := by
  obtain ⟨h0, h2, h3, h4, h7⟩ := h
  unfold onContext
  rw [onCommand_next h0, h2]
  show Host.Outcome.next (ite _ _ _) = _
  rw [if_neg (by simp [h3])]
  unfold State.command
  simp only [h7, h4, h5, h6, if_true, Option.isSome_none, Bool.false_eq_true, if_false, Option.getD_some]

/-- A command of a queue of a context, both in states that allow it (R365, R367). -/
theorem onQueue_next {code : Nat} {c : Cmd} {acc : CtxState → Bool} {fr : QState → Bool} {f : State → State} {s : State}
    {x : Context} {y : Queue} (h : s.TakesFor c (c.clean 10) x) (h5 : acc x.state = true)
    (h6 : s.queueOf c.queue = some y) (h7 : y.ctx = c.ctx) (h8 : fr y.state = true) :
    onQueue code c acc fr f s = .next ((f s).answer code c 0) := by
  unfold onQueue
  refine onContext_next h h5 ?_
  rw [h6]
  show some (ite _ _ _) = _
  rw [if_neg (by simp [h7]), if_neg (by simp [h8])]

/-- A command of a halted group of a faulted context (R365, R369). -/
theorem onHalted_next {code : Nat} {c : Cmd} {edits : List Edit} {f : Group → State → Option State} {s t : State} {x : Context}
    {g : Group} (h : s.TakesFor c (c.clean 20) x) (h5 : x.state = .faulted)
    (h6 : s.groupOf c.group = some g) (h7 : g.status = .halted) (h8 : f g s = some t) :
    onHalted code c edits f s = .next t := by
  unfold onHalted
  refine onContext_next h (by simp [h5]) ?_
  rw [h6]
  exact (if_pos h7).trans h8

/-- The error record of an aborted launch of a queue of the context (R368). -/
theorem abortRecord_eq {v t : State} {seq : Nat} {l : Launch} {q : Queue} {r : List Byte} (hl : v.launchOf q.ctx seq = some l)
    (hq : v.queueOf l.queue = some q) (hr : v.fwGet q.ctx q.ridxVa 8 = some (r, t)) :
    v.abortRecord q.ctx seq = t.writeError q (errorRecord 0x18 l.level q.num l.header.toNat (leNat r) l.pktVa) := by
  unfold State.abortRecord
  simp only [hl, Option.bind_some, hq, Option.map_some]
  rw [if_neg (by simp), hr, Option.bind_some]

/-- A diagnostic command that is under way ends with status 2, or 3 where it fails (R411). -/
theorem onDiag_next {code : Nat} {named : Option (BitVec 64)} {f : BitVec 64 → State → Option State} {s : State}
    (hd : s.switor.diagStatus = 1) (hc : s.switor.diagCode = code) (hn : ∀ x ∈ named, x = s.switor.diagOperand) :
    onDiag code named f s = .next (match f s.switor.diagOperand s with | some t => t.diagEnds 2 | none => s.diagEnds 3) := by
  have h : ¬(s.switor.diagStatus ≠ 1 ∨ s.switor.diagCode ≠ code ∨ named.any (· != s.switor.diagOperand)) := by
    cases named with
    | none => simp [hd, hc]
    | some x => simp [hd, hc, hn x rfl]
  exact congrArg Host.Outcome.next (if_neg h)

/-- A command of the physical function that runs ends with its status in byte 1 of the block (R414). -/
theorem onPf_next {code : Nat} {byte word : Option Nat} {f : Nat → Nat → State → State × Nat} {s : State} {b : List Byte}
    (hb : s.switor.pfRun = some b) (hc : field b 0 1 = code) (h1 : ∀ x ∈ byte, x = field b 2 1) (h2 : ∀ x ∈ word, x = field b 8 8)
    (hu : pfClean b (byte.isSome, word.isSome) = true) :
    onPf code byte word f s = .next ((f (field b 2 1) (field b 8 8) s).1.pfEnds (f (field b 2 1) (field b 8 8) s).2) := by
  unfold onPf
  simp only [hb]
  have h : ¬(field b 0 1 ≠ code ∨ byte.any (· != field b 2 1) ∨ word.any (· != field b 8 8)) := by
    cases byte with
    | none => cases word with
      | none => simp [hc]
      | some y => simp [hc, h2 y rfl]
    | some x => cases word with
      | none => simp [hc, h1 x rfl]
      | some y => simp [hc, h1 x rfl, h2 y rfl]
  rw [if_neg h, if_neg (by simp [hu])]

/-- Of the numbers below n that meet p, some exist: the one that the free value picks meets p (R361, R365). -/
theorem filter_pick {n : Nat} {p : Nat → Bool} (x : Nat) (h : ∃ i < n, p i = true) :
    ∃ i, ((List.range n).filter p)[x % ((List.range n).filter p).length]? = some i ∧ i < n ∧ p i = true := by
  obtain ⟨i, hi, hp⟩ := h
  have hm : i ∈ (List.range n).filter p := by simp [hi, hp]
  have hl : 0 < ((List.range n).filter p).length := List.length_pos_of_mem hm
  have hx : x % ((List.range n).filter p).length < ((List.range n).filter p).length := Nat.mod_lt _ hl
  refine ⟨_, List.getElem?_eq_getElem hx, ?_⟩
  have := List.getElem_mem hx
  rw [List.mem_filter, List.mem_range] at this
  exact this

/-- The search for a place in a window finds a free one where there is one (R378). -/
theorem firstPlace_some (s : State) (tenant : Nat) (used : List (Nat × Nat)) (size : Nat) :
    ∀ n base k, k < n → s.placeFree tenant used size (base + size * k) = true →
      ∃ pa, s.firstPlace tenant used size base n = some pa ∧ s.placeFree tenant used size pa = true := by
  intro n
  induction n with
  | zero => intro b k hk; omega
  | succ n ih =>
    intro b k hk hp
    rw [State.firstPlace]
    by_cases h : s.placeFree tenant used size b = true
    · rw [if_pos h]; exact ⟨b, rfl, h⟩
    · rw [if_neg h]
      cases k with
      | zero => simp at hp; exact absurd hp h
      | succ k =>
        refine ih (b + size) k (by omega) ?_
        have : b + size + size * k = b + size * (k + 1) := by ring
        rw [this]; exact hp

/-- Images that all may run are all verified (R404, R405). -/
theorem verifyAll_ok (imgs : List BootImage) : ∀ (l : List Nat) (s : State), l.Nodup → (∀ k ∈ l, k < s.flash.versions.length) →
    (∀ k ∈ l, ∃ y, imgs[k]? = some y ∧ imageRuns s.flash.versions k y = true) →
    ∃ t, s.verifyAll imgs l = (t, true) ∧ t.flash.retired = s.flash.retired ∧ t.switor.boot = s.switor.boot := by
  intro l
  induction l with
  | nil => intro s _ _ _; exact ⟨s, rfl, rfl, rfl⟩
  | cons k r ih =>
    intro s hn hv hr
    obtain ⟨y, hy, hy2⟩ := hr k (by simp)
    rw [List.nodup_cons] at hn
    rw [State.verifyAll]
    have h1 : s.verifyImage imgs k = some { s with
        flash := { s.flash with versions := s.flash.versions.set k (imageVersion y) },
        switor := { s.switor with measurements := s.switor.measurements ++ [shake256 y.body] } } := by
      unfold State.verifyImage
      rw [hy, Option.bind_some, if_pos hy2]
    rw [h1]
    obtain ⟨t, a, b, c⟩ := ih { s with
        flash := { s.flash with versions := s.flash.versions.set k (imageVersion y) },
        switor := { s.switor with measurements := s.switor.measurements ++ [shake256 y.body] } } hn.2
      (by intro j hj; simpa using hv j (by simp [hj]))
      (by
        intro j hj
        obtain ⟨z, h2, h3⟩ := hr j (by simp [hj])
        refine ⟨z, h2, ?_⟩
        have hne : k ≠ j := fun h => hn.1 (h ▸ hj)
        unfold imageRuns at h3 ⊢
        simp only [List.getD_eq_getElem?_getD, List.getElem?_set_ne hne] at h3 ⊢
        exact h3)
    exact ⟨t, a, b, c⟩

/-- Where the moving copy begins is read from the slots alone (R386). -/
theorem firstMoving_congr (s t : State) (h : s.slots = t.slots) : s.firstMoving = t.firstMoving := by
  have : s.slotEntry = t.slotEntry := by funext k; simp only [State.slotEntry, h]
  unfold State.firstMoving
  rw [this]

/-- Giving the slots of a channel their targets changes the slots alone (R385). -/
theorem assignSlots_mem (ch : Nat) (l : List Nat) (s : State) : (s.assignSlots ch l).mem = s.mem := by
  induction l generalizing s with
  | nil => rfl
  | cons k r ih =>
    rw [State.assignSlots]
    cases s.takerOf ch with
    | none => rfl
    | some c =>
      dsimp only
      rw [ih]
      cases (s.slotsOf c .reserve).head? <;> rfl

end Sys2Proof.Machine
end

