-- ==== Sys2Proof/Laws/Event.lean ====
section
/-!
SUPPORT. What an event of a warp or of a group can do (04_warp.md R108, 14_group.md R292).
-/
namespace Sys2Proof.Machine

/-- An event of a warp on a core whose conditions hold. -/
theorem onWarp_next {s t u : State} {r : WRef} {f : State → Option State} (h : s.Holds r t) (hf : f t = some u) :
    onWarp r f s = .next u.park := by simp [onWarp, h.1, h.2, hf]

/-- An event of a warp on a core whose conditions do not hold leaves the state as it is. -/
theorem onWarp_stay {s t : State} {r : WRef} {f : State → Option State} (h : s.Holds r t) (hf : f t = none) :
    onWarp r f s = .next s := by simp [onWarp, h.1, h.2, hf]

/-- An event of a warp wherever its group stands, when its conditions hold. -/
theorem onWarpAny_next {s t u : State} {r : WRef} {f : State → Option State} (h : s.HoldsAny r t) (hf : f t = some u) :
    onWarpAny r f s = .next u.parkAny := by
  have h2 := h.2
  simp only [onWarpAny, h.1, hf, h2, if_true, Option.map_some, Option.getD_some]

/-- An event of a group, when its conditions hold. -/
theorem onGroup_next {s t u : State} {r : GRef} {f : State → Option State} (h : s.HoldsGroup r t) (hf : f t = some u) :
    onGroup r f s = .next (u.putGroup u.g) := by
  obtain ⟨g, hg, rfl⟩ := h
  simp only [onGroup, hg, hf, Option.map_some, Option.getD_some]

end Sys2Proof.Machine
end

