-- ==== Sys2Proof/Laws/Ops.lean ====
section
/-!
SUPPORT. What a slot can do (R76, R82..R84, R89, R109, R190): one lemma for each outcome of its checks and of its effect.
-/
namespace Sys2Proof.Machine

/-! ### One slot -/

/-- A slot that reads no bad word leaves what it has raised as it is (R221). -/
@[simp] theorem State.tainted_nil (t : State) (n : Nat) : t.tainted n [] = t := rfl

/-- What a slot has raised without its bad parts leaves the registers (R221). -/
@[simp] theorem State.tainted_regs (t : State) (n : Nat) (bad : List Nat) : (t.tainted n bad).w.regs = t.w.regs := by
  unfold State.tainted
  split <;> rfl

/-- A slot whose checks pass, that reads no bad word and whose effect is done retires, unless it leaves a chain split. -/
theorem slotDo_done {u : Use} {body : State → Eff} {s t : State} (hf : front u s = .pass) (hw : badLanes u s = []) (hb : body s = .done t)
    (hk : s.iss.chained = true ∨ leavesSplit u t = false) : slotDo u body s = .next (retire u s t) := by
  have h : (!s.iss.chained && leavesSplit u t) = false := by rcases hk with h | h <;> simp [h]
  simp [slotDo, hf, hb, hw, h]

/-- A slot whose effect leaves a chain split traps with CHAIN_SPLIT (R190). -/
theorem slotDo_split {u : Use} {body : State → Eff} {s t : State} (hf : front u s = .pass) (hw : badLanes u s = []) (hb : body s = .done t)
    (hc : s.iss.chained = false) (hk : leavesSplit u t = true) :
    slotDo u body s = .next (takeTrap (s.splitTrap t.w.regs.chn (splitChains t.w.regs.chn t.w.regs.mask)) s) := by
  simp [slotDo, hf, hb, hw, hc, hk]

/-- A slot whose effect raises a precise trap takes it (R309). -/
theorem slotDo_trap {u : Use} {body : State → Eff} {s : State} {t : TrapInfo} (hf : front u s = .pass) (hb : body s = .trap t) :
    slotDo u body s = .next (takeTrap t s) := by simp [slotDo, hf, hb]

/-- A slot whose condition does not hold yet stalls (R109). -/
theorem slotDo_wait {u : Use} {body : State → Eff} {s : State} (hf : front u s = .pass) (hb : body s = .wait) :
    slotDo u body s = .next (holdSlot s) := by simp [slotDo, hf, hb]

/-- A slot that has posted something and then waits stalls (R319). -/
theorem slotDo_pause {u : Use} {body : State → Eff} {s t : State} (hf : front u s = .pass) (hb : body s = .pause t) :
    slotDo u body s = .next (holdSlot t) := by simp [slotDo, hf, hb]

/-- A slot that a check traps takes the trap (R89). -/
theorem slotDo_front_trap {u : Use} {body : State → Eff} {s : State} {c : Cause} (hf : front u s = .trap c) :
    slotDo u body s = .next (takeTrap (s.trapOf c) s) := by simp [slotDo, hf]

/-- A slot that a check stalls has not issued (R109). -/
theorem slotDo_stall {u : Use} {body : State → Eff} {s : State} (hf : front u s = .stall) : slotDo u body s = .next (holdSlot s) := by
  simp [slotDo, hf]

/-- A slot that reads a register word which ECC cannot correct traps (R33). -/
theorem slotDo_bad {u : Use} {body : State → Eff} {s : State} {ls : List Nat} (hf : front u s = .bad ls) :
    slotDo u body s = .next (takeTrap (s.badTrap ls) s) := by simp [slotDo, hf]

/-- A slot that its scalar guard suppresses only keeps its place (R76). -/
theorem slotDo_off {u : Use} {body : State → Eff} {s : State} (hf : front u s = .off) : slotDo u body s = .next (retireOff s) := by
  simp [slotDo, hf]

/-- Whatever a slot does, it answers a next state. -/
theorem slotDo_next (u : Use) (body : State → Eff) (s : State) : ∃ t, slotDo u body s = .next t := ⟨_, rfl⟩

/-! ### Registers -/

@[simp] theorem Regs.sget_sset (r : Regs) (n m : BitVec 7) (x : Word) : (r.sset n x).sget m = if m = n then x else r.sget m := by
  simp only [Regs.sget, Regs.sset, Vector.getElem_set, BitVec.toNat_eq]
  by_cases h : n.toNat = m.toNat <;> simp [h, eq_comm]

@[simp] theorem Regs.vget_vset (r : Regs) (n m : BitVec 7) (x : Lanes Word) : (r.vset n x).vget m = if m = n then x else r.vget m := by
  simp only [Regs.vget, Regs.vset, Vector.getElem_set, BitVec.toNat_eq]
  by_cases h : n.toNat = m.toNat <;> simp [h, eq_comm]

theorem Regs.pget_pset (r : Regs) (n m : Nat) (x : LaneMask) (h : n < 12) : (r.pset n x).pget m = if m = n then x else r.pget m := by
  unfold Regs.pset Regs.pget
  by_cases hm : m < 12
  · simp only [h, hm, dif_pos, Vector.getElem_set]
    by_cases e : n = m <;> simp [e, eq_comm]
  · simp [hm, h, show ¬ m = n by omega]

theorem Regs.kget_kset (r : Regs) (n m : Nat) (x : BitVec 256) (h : n < 32) : (r.kset n x).kget m = if m = n then x else r.kget m := by
  unfold Regs.kset Regs.kget
  by_cases hm : m < 32
  · simp only [h, hm, dif_pos, Vector.getElem_set]
    by_cases e : n = m <;> simp [e, eq_comm]
  · simp [hm, h, show ¬ m = n by omega]

end Sys2Proof.Machine
end

