-- ==== Sys2Proof/Laws/Frame.lean ====
section
/-!
SUPPORT. Frames: which registers a slot of each operand form may write (R79, R142), and that it stores nothing as it issues (R113).
-/
namespace Sys2Proof.Machine

/-! ### One register written -/

theorem same_refl (r : RegId) (a : Regs) : Regs.same r a a := by cases r <;> rfl

theorem same_trans {r : RegId} {a b c : Regs} (h : Regs.same r a b) (k : Regs.same r b c) : Regs.same r a c := by
  cases r <;> exact Eq.trans h k

theorem same_sset {r : RegId} {d : BitVec 7} (h : r ≠ .s d.toNat) (a : Regs) (x : Word) : Regs.same r a (a.sset d x) := by
  cases r with
  | s n =>
    have hn : d.toNat ≠ n := fun e => h (by rw [e])
    simp [Regs.same, Regs.sset, Vector.getElem?_set, hn]
  | _ => rfl

theorem same_vset {r : RegId} {d : BitVec 7} (h : r ≠ .v d.toNat) (a : Regs) (x : Lanes Word) : Regs.same r a (a.vset d x) := by
  cases r with
  | v n =>
    have hn : d.toNat ≠ n := fun e => h (by rw [e])
    simp [Regs.same, Regs.vset, Vector.getElem?_set, hn]
  | _ => rfl

theorem same_pset {r : RegId} {d : Nat} (h : r ≠ .p d) (a : Regs) (x : LaneMask) : Regs.same r a (a.pset d x) := by
  unfold Regs.pset
  split
  · cases r with
    | p n =>
      have hn : d ≠ n := fun e => h (by rw [e])
      simp [Regs.same, Vector.getElem?_set, hn]
    | _ => rfl
  · exact same_refl _ _

theorem same_kset {r : RegId} {d : Nat} (h : r ≠ .k d) (a : Regs) (x : BitVec 256) : Regs.same r a (a.kset d x) := by
  unfold Regs.kset
  split
  · cases r with
    | k n =>
      have hn : d ≠ n := fun e => h (by rw [e])
      simp [Regs.same, Vector.getElem?_set, hn]
    | _ => rfl
  · exact same_refl _ _

theorem same_cset {r : RegId} {d : Nat} (h : r ≠ .c d) (a : Regs) (x : Bool) : Regs.same r a (a.cset d x) := by
  cases r with
  | c n =>
    have hn : d ≠ n := fun e => h (by rw [e])
    have t : (BitVec.twoPow 8 d).getLsbD n = false := by simp [BitVec.getLsbD_twoPow, hn]
    by_cases h8 : n < 8
    · cases x <;> simp [Regs.same, Regs.cset, t, h8, Ne.symm hn]
    · simp [Regs.same, Regs.cset, BitVec.getLsbD_of_ge _ _ (Nat.le_of_not_lt h8)]
  | _ => rfl

/-- The register after another in a pair or a triple. -/
theorem next_toNat {d : BitVec 7} {k : Nat} (h : d.toNat + k < 128) : (d + BitVec.ofNat 7 k).toNat = d.toNat + k := by
  rw [BitVec.toNat_add, BitVec.toNat_ofNat]; omega

theorem even_next {d : BitVec 7} (h : even d = true) : (d + 1).toNat = d.toNat + 1 := by
  simp only [even, beq_iff_eq] at h
  exact next_toNat (k := 1) (by have := d.isLt; omega)

theorem same_spairSet {r : RegId} {d : BitVec 7} (e : even d = true) (h : r ∉ rspair d) (a : Regs) (x : DWord) :
    Regs.same r a (a.spairSet d x) := by
  simp only [rspair, List.mem_cons, List.not_mem_nil, or_false, not_or] at h
  exact same_trans (same_sset h.1 _ _) (same_sset (by rw [even_next e]; exact h.2) _ _)

theorem same_tripleSet {r : RegId} {d : BitVec 7} (e : d.toNat ≤ 125) (h : r ∉ rtriple d) (a : Regs) (m : LaneMask) :
    Regs.same r a (a.tripleSet d m) := by
  simp only [rtriple, List.mem_cons, List.not_mem_nil, or_false, not_or] at h
  exact same_trans (same_trans (same_sset h.1 _ _) (same_sset (by rw [show d + 1 = d + BitVec.ofNat 7 1 from rfl, next_toNat (by omega)]; exact h.2.1) _ _))
    (same_sset (by rw [show d + 2 = d + BitVec.ofNat 7 2 from rfl, next_toNat (by omega)]; exact h.2.2) _ _)

theorem same_maskSet {r : RegId} (h : r ∉ maskRegs) (a : Regs) (m : LaneMask) : Regs.same r a (a.maskSet m) :=
  same_tripleSet (d := 125) (by decide) (by simpa [rtriple, maskRegs] using h) a m

/-! ### One slot -/

/-- Whatever a meaning answers, it leaves every register but ds. -/
def KeepsRegs (f : State → Result) (ds : List RegId) : Prop := ∀ s t, f s = .next t → ∀ r ∉ ds, Regs.same r s.w.regs t.w.regs

theorem takeTrap_regs (x : TrapInfo) (s : State) : (takeTrap x s).w.regs = s.w.regs := rfl

/-- A slot leaves what its effect leaves, whether it retires, traps or stalls. -/
theorem slotDo_keeps {u : Use} {body : State → Eff} {ds : List RegId}
    (h : u.wf = true → ∀ s t, body s = .done t ∨ body s = .pause t → ∀ r ∉ ds, Regs.same r s.w.regs t.w.regs)
    (h2 : ∀ s x v, body s = .trapIn x v → v.w.regs = s.w.regs := by intro _ _ _ h; cases h) :
    KeepsRegs (slotDo u body) ds := by
  intro s t he r hr
  unfold slotDo at he
  have he := Host.Outcome.next.inj he
  have hw : u.wf = false → front u s ≠ .pass := by
    intro hw hp
    cases hi : u.imm with
    | none => simp [front, hi, hw] at hp
    | some f => cases hk : immOk f s.iss.lits <;> simp [front, hi, hw, hk] at hp
  split at he
  · subst he; exact same_refl _ _
  · subst he; exact same_refl _ _
  · subst he; exact same_refl _ _
  · subst he; exact same_refl _ _
  · subst he; exact same_refl _ _
  · next hp =>
    have hwf : u.wf = true := by cases h1 : u.wf with
      | true => rfl
      | false => exact absurd hp (hw h1)
    split at he
    · subst he; exact same_refl _ _
    · next x v hb => subst he; rw [takeTrap_regs, h2 s x v hb]; exact same_refl _ _
    · subst he; exact same_refl _ _
    · next x hb => subst he; exact h hwf s x (.inr hb) r hr
    · next x hb =>
      have h := h hwf s x (.inl hb) r hr
      dsimp only at he
      split at he
      · subst he; exact same_refl _ _
      · subst he; rw [← State.tainted_regs x s.w.nextSeq (badLanes u s)] at h; exact h

/-- A slot whose effect writes registers through one function. -/
theorem slotDo_map_keeps {u : Use} {f : State → Regs → Regs} {ds : List RegId}
    (h : u.wf = true → ∀ s a, ∀ r ∉ ds, Regs.same r a (f s a)) : KeepsRegs (slotDo u fun s => .done (s.mapRegs (f s))) ds :=
  slotDo_keeps fun hw s t hb r hr => by
    rcases hb with hb | hb
    · cases hb; exact h hw s _ r hr
    · cases hb

/-- A slot whose effect writes no register. -/
theorem slotDo_none_keeps {u : Use} {body : State → Eff} {ds : List RegId}
    (h : ∀ s t, body s = .done t ∨ body s = .pause t → t.w.regs = s.w.regs)
    (h2 : ∀ s x v, body s = .trapIn x v → v.w.regs = s.w.regs := by intro _ _ _ h; cases h) : KeepsRegs (slotDo u body) ds :=
  slotDo_keeps (fun _ s t hb r _ => by rw [h s t hb]; exact same_refl _ _) h2

theorem same_writeV {r : RegId} {d : BitVec 7} (h : r ≠ .v d.toNat) (s : State) (x : Lanes Word) :
    Regs.same r s.w.regs (s.writeV d x).w.regs := same_vset h _ _

/-- A lane slot that writes one vector register. -/
theorem slotDo_writeV_keeps {u : Use} {d : BitVec 7} {f : State → Lanes Word} :
    KeepsRegs (slotDo u fun s => .done (s.writeV d (f s))) [.v d.toNat] :=
  slotDo_map_keeps (f := fun s r => r.vset d (mergeLanes s.active (f s) (r.vget d))) fun _ _ _ _ hr =>
    same_vset (by simpa using hr) _ _

/-- A lane slot that writes a vector pair. -/
theorem slotDo_writeV2_keeps {u : Use} {d : BitVec 7} {f : State → Fin 96 → DWord} (h : u.wf = true → even d = true) :
    KeepsRegs (slotDo u fun s => .done (s.writeV2 d (f s))) [.v d.toNat, .v (d.toNat + 1)] :=
  slotDo_keeps fun hw s t hb r hr => by
    simp only [List.mem_cons, List.not_mem_nil, or_false, not_or] at hr
    rcases hb with hb | hb
    · cases hb
      exact same_trans (same_writeV hr.1 s _) (same_writeV (by rw [even_next (h hw)]; exact hr.2) _ _)
    · cases hb

/-- A lane slot that writes a predicate. -/
theorem slotDo_writeP_keeps {u : Use} {d : Nat} {f : State → LaneMask} : KeepsRegs (slotDo u fun s => .done (s.writeP d (f s))) [.p d] :=
  slotDo_map_keeps (f := fun s r => r.pset d (mergeMask s.active (f s) (r.pget d))) fun _ _ _ _ hr => same_pset (by simpa using hr) _ _

/-- A slot that writes a scalar register. -/
theorem slotDo_writeS_keeps {u : Use} {d : BitVec 7} {f : State → Word} : KeepsRegs (slotDo u fun s => .done (s.writeS d (f s))) [.s d.toNat] :=
  slotDo_map_keeps (f := fun s r => r.sset d (f s)) fun _ _ _ _ hr => same_sset (by simpa using hr) _ _

/-- A slot that writes a condition register. -/
theorem slotDo_cset_keeps {u : Use} {d : Nat} {f : State → Bool} : KeepsRegs (slotDo u fun s => .done (s.mapRegs (·.cset d (f s)))) [.c d] :=
  slotDo_map_keeps (f := fun s r => r.cset d (f s)) fun _ _ _ _ hr => same_cset (by simpa using hr) _ _

/-- An effect under `bound` is done only where the effect is. -/
theorem bound_done {s t : State} {e : Eff} (h : bound s e = .done t ∨ bound s e = .pause t) : e = .done t ∨ e = .pause t := by
  unfold bound at h
  split at h
  · rcases h with h | h <;> cases h
  · exact h

/-- An effect under `bound` traps in another state only where the effect does. -/
theorem bound_trapIn {s v : State} {x : TrapInfo} {e : Eff} (h : bound s e = .trapIn x v) : e = .trapIn x v := by
  unfold bound at h
  split at h
  · cases h
  · exact h

theorem same_carry {r : RegId} (h : r ≠ .carry) (a : Regs) (c : Carries) : Regs.same r a { a with carry := c } := by
  cases r with
  | carry => exact absurd rfl h
  | _ => rfl

theorem same_writeCarry {r : RegId} (h : r ≠ .carry) (s : State) (f : Nat → Nat) : Regs.same r s.w.regs (s.writeCarry f).w.regs :=
  same_carry h s.w.regs _

theorem same_writeChains {r : RegId} {d : BitVec 7} (h : r ≠ .v d.toNat) (s : State) (f : Nat → Nat) :
    Regs.same r s.w.regs (s.writeChains d f).w.regs := same_vset h _ _

/-- A chain slot that writes a vector register and the carry words. -/
theorem same_chain {r : RegId} {d : BitVec 7} (hr : r ∉ [RegId.v d.toNat, .carry]) (s : State) (f g : Nat → Nat) :
    Regs.same r s.w.regs ((s.writeChains d f).writeCarry g).w.regs := by
  simp only [List.mem_cons, List.not_mem_nil, or_false, not_or] at hr
  exact same_trans (same_writeChains hr.1 s f) (same_writeCarry hr.2 _ g)

theorem chainBin_keeps {sub cin sat : Bool} {d a b : BitVec 7} : KeepsRegs (chainBin sub cin sat d a b) [.v d.toNat, .carry] :=
  slotDo_keeps (fun _ s t hb r hr => by
    rcases bound_done hb with hb | hb
    · cases hb; exact same_chain hr s _ _
    · cases hb) fun _ _ _ h => nomatch bound_trapIn h

theorem chainShift_keeps {left : Bool} {am : Nat → Word → Nat} {d a b : BitVec 7} : KeepsRegs (chainShift left am d a b) [.v d.toNat, .carry] :=
  slotDo_keeps (fun _ s t hb r hr => by
    have hb := bound_done hb
    cases left with
    | true =>
      rcases hb with hb | hb
      · cases hb; exact same_chain hr s _ _
      · cases hb
    | false =>
      rcases hb with hb | hb
      · cases hb; exact same_chain hr s _ _
      · cases hb) fun _ _ _ h => by
    have h := bound_trapIn h
    cases left with
    | true => cases h
    | false => cases h

end Sys2Proof.Machine
end

