-- ==== Sys2Proof/Laws/Memory.lean ====
section
/-!
SUPPORT. Memory: a read after a write, what a write leaves alone, and that every operation keeps the canonical form.
-/
namespace Sys2Proof.Machine

/-! ### The canonical form -/

theorem Memory.wfFrom_weaken {lo hi : Nat} (h : lo ≤ hi) : ∀ m, Memory.wfFrom hi m = true → Memory.wfFrom lo m = true
  | [], _ => rfl
  | (k, b) :: r, w => by
    simp only [Memory.wfFrom, Bool.and_eq_true, decide_eq_true_eq] at w ⊢
    exact ⟨⟨by omega, w.1.2⟩, w.2⟩

theorem Memory.read_below {a : Nat} : ∀ {lo : Nat} (m : List Host.Cell), Memory.wfFrom lo m = true → a < lo → Memory.read m a = 0#8
  | _, [], _, _ => rfl
  | lo, (k, b) :: r, w, h => by
    simp only [Memory.wfFrom, Bool.and_eq_true, decide_eq_true_eq] at w
    have hk : ¬ k = a := by omega
    simp [Memory.read, hk, show a < k by omega]

theorem Memory.write_wfFrom (a : Nat) (b : Byte) :
    ∀ (lo : Nat) (m : List Host.Cell), lo ≤ a → Memory.wfFrom lo m = true → Memory.wfFrom lo (Memory.write m a b) = true
  | lo, [], h, _ => by
    by_cases hb : b = 0#8 <;> simp [Memory.write, Memory.wfFrom, hb, h]
  | lo, (k, c) :: r, h, w => by
    simp only [Memory.wfFrom, Bool.and_eq_true, decide_eq_true_eq, bne_iff_ne, ne_eq] at w
    obtain ⟨⟨h1, h2⟩, h3⟩ := w
    unfold Memory.write
    split
    · rename_i hk
      split
      · simp [Memory.wfFrom, h1, h2, h3]
      · rename_i hb
        simp [Memory.wfFrom, h, hb, h2, h3, show a + 1 ≤ k by omega]
    · split
      · rename_i hk ha
        split
        · exact Memory.wfFrom_weaken (by omega) r h3
        · rename_i hb
          simp [Memory.wfFrom, h1, hb, h3]
      · rename_i hk ha
        have := Memory.write_wfFrom a b (k + 1) r (by omega) h3
        simp [Memory.wfFrom, h1, h2, this]

/-- A write keeps the canonical form. -/
theorem Memory.write_wf {m : List Host.Cell} (w : Memory.wf m = true) (a : Nat) (b : Byte) : Memory.wf (Memory.write m a b) = true :=
  Memory.write_wfFrom a b 0 m (Nat.zero_le a) w

/-- Writing cells keeps the canonical form. -/
theorem Memory.writeCells_wf (ps : List Host.Cell) : ∀ {m : List Host.Cell}, Memory.wf m = true → Memory.wf (Memory.writeCells m ps) = true := by
  induction ps with
  | nil => intro m w; exact w
  | cons c r ih => intro m w; exact ih (Memory.write_wf w c.1 c.2)

/-- Writing a byte string keeps the canonical form. -/
theorem Memory.writeN_wf {m : List Host.Cell} (w : Memory.wf m = true) (a : Nat) (bs : List Byte) : Memory.wf (Memory.writeN m a bs) = true :=
  Memory.writeCells_wf _ w

theorem Memory.filter_wfFrom (p : Host.Cell → Bool) :
    ∀ (lo : Nat) (m : List Host.Cell), Memory.wfFrom lo m = true → Memory.wfFrom lo (m.filter p) = true
  | _, [], _ => rfl
  | lo, (k, b) :: r, w => by
    simp only [Memory.wfFrom, Bool.and_eq_true, decide_eq_true_eq] at w
    have ih := Memory.filter_wfFrom p (k + 1) r w.2
    by_cases hp : p (k, b) = true
    · simp only [List.filter_cons, hp, if_true, Memory.wfFrom, Bool.and_eq_true, decide_eq_true_eq]
      exact ⟨w.1, ih⟩
    · simp only [List.filter_cons, hp]
      exact Memory.wfFrom_weaken (by omega) _ ih

/-- Clearing bytes keeps the canonical form. -/
theorem Memory.clear_wf {m : List Host.Cell} (w : Memory.wf m = true) (a n : Nat) : Memory.wf (Memory.clear m a n) = true :=
  Memory.filter_wfFrom _ 0 m w

/-! ### Reads after writes -/

theorem Memory.read_write_from (a x : Nat) (b : Byte) :
    ∀ (lo : Nat) (m : List Host.Cell), Memory.wfFrom lo m = true →
      Memory.read (Memory.write m a b) x = if x = a then b else Memory.read m x
  | _, [], _ => by
    by_cases hb : b = 0#8 <;> by_cases hx : x = a <;> simp [Memory.write, Memory.read, hb, hx, Ne.symm]
  | lo, (k, c) :: r, w => by
    simp only [Memory.wfFrom, Bool.and_eq_true, decide_eq_true_eq, bne_iff_ne, ne_eq] at w
    obtain ⟨⟨_, _⟩, h3⟩ := w
    have low : ∀ y, y < k + 1 → Memory.read r y = 0#8 := fun y hy => Memory.read_below r h3 hy
    unfold Memory.write
    split
    · rename_i hk
      split
      · rename_i hb
        subst hb
        by_cases hx : x = a
        · subst hx; simp [Memory.read, show ¬ k = x by omega, hk]
        · simp [hx]
      · by_cases hx : x = a
        · subst hx; simp [Memory.read]
        · simp only [Memory.read, show ¬ a = x from fun h => hx h.symm, if_false, hx]
          by_cases hax : x < a
          · simp [hax, show ¬ k = x by omega, show x < k by omega]
          · simp [hax]
    · split
      · rename_i hk ha
        subst ha
        split
        · rename_i hb
          subst hb
          by_cases hx : x = a
          · subst hx; simp [low x (by omega)]
          · simp only [hx, if_false, Memory.read, show ¬ a = x from fun h => hx h.symm]
            by_cases hlt : x < a
            · simp [hlt, low x (by omega)]
            · simp [hlt]
        · by_cases hx : x = a
          · subst hx; simp [Memory.read]
          · simp [Memory.read, hx, show ¬ a = x from fun h => hx h.symm]
      · rename_i hk ha
        have ih := Memory.read_write_from a x b (k + 1) r h3
        by_cases hkx : k = x
        · subst hkx; simp [Memory.read, show ¬ k = a from fun h => ha h.symm]
        · by_cases hlt : x < k
          · simp [Memory.read, hkx, hlt, show ¬ x = a by omega]
          · simp [Memory.read, hkx, hlt, ih]

/-- A read after a write: the byte written there, the old byte elsewhere. -/
theorem Memory.read_write {m : List Host.Cell} (w : Memory.wf m = true) (a x : Nat) (b : Byte) :
    Memory.read (Memory.write m a b) x = if x = a then b else Memory.read m x :=
  Memory.read_write_from a x b 0 m w

/-- A byte that no written cell names reads as before. -/
theorem Memory.read_writeCells_other (x : Nat) (ps : List Host.Cell) :
    ∀ {m : List Host.Cell}, Memory.wf m = true → (∀ c ∈ ps, c.1 ≠ x) → Memory.read (Memory.writeCells m ps) x = Memory.read m x := by
  induction ps with
  | nil => intro m _ _; rfl
  | cons c r ih =>
    intro m w h
    have := ih (Memory.write_wf w c.1 c.2) fun d hd => h d (List.mem_cons_of_mem _ hd)
    rw [show Memory.writeCells m (c :: r) = Memory.writeCells (Memory.write m c.1 c.2) r from rfl, this, Memory.read_write w]
    simp [show ¬ x = c.1 from fun e => h c (List.mem_cons_self) e.symm]

theorem mem_cellsAt {c : Host.Cell} {a : Nat} {bs : List Byte} (h : c ∈ cellsAt a bs) : a ≤ c.1 ∧ c.1 < a + bs.length := by
  simp only [cellsAt, List.mem_map, List.mem_range] at h
  obtain ⟨i, hi, rfl⟩ := h
  exact ⟨by simp, by simp; omega⟩

/-- A byte outside a byte string that is written reads as before. -/
theorem Memory.read_writeN_other {m : List Host.Cell} (w : Memory.wf m = true) (a x : Nat) (bs : List Byte)
    (h : x < a ∨ a + bs.length ≤ x) : Memory.read (Memory.writeN m a bs) x = Memory.read m x :=
  Memory.read_writeCells_other x _ w fun c hc => by have := mem_cellsAt hc; omega

/-! ### Bytes and numbers -/

@[simp] theorem leBytes_length (n x : Nat) : (leBytes n x).length = n := by simp [leBytes]

end Sys2Proof.Machine
end

