-- ==== Sys2Proof/Laws/Home.lean ====
section
/-!
SUPPORT. The operations that change physical memory keep its canonical form.
-/
namespace Sys2Proof.Machine

/-- A list folded with a function that keeps the canonical form keeps it. -/
theorem foldl_wf {α : Type} (f : State → α → State) (h : ∀ s x, Memory.wf s.mem = true → Memory.wf (f s x).mem = true) :
    ∀ (l : List α) (s : State), Memory.wf s.mem = true → Memory.wf (l.foldl f s).mem = true
  | [], _, w => w
  | x :: r, s, w => foldl_wf f h r (f s x) (h s x w)

/-- Storing in a sector at its home keeps the canonical form (R390). -/
theorem State.putSector_wf {s : State} (w : Memory.wf s.mem = true) (key sec : Nat) (ps : List Host.Cell) :
    Memory.wf (s.putSector key sec ps).mem = true := Memory.writeCells_wf ps w

/-- A store at the home slices keeps the canonical form (R387). -/
theorem State.homeStore_wf {s : State} (w : Memory.wf s.mem = true) (core key : Nat) (ps : List Host.Cell) :
    Memory.wf (s.homeStore core key ps).mem = true := by
  unfold State.homeStore
  refine foldl_wf _ ?_ _ s w
  intro t sec wt
  dsimp only
  split
  · exact wt
  · exact State.putSector_wf wt _ _ _

/-- A flit that is sent changes the links alone (R393). -/
theorem State.sendFlit_links (s : State) (target : Nat) (x : Flit) : ∃ l, s.sendFlit target x = { s with links := l } := by
  unfold State.sendFlit
  dsimp only
  split <;> exact ⟨_, rfl⟩

/-- A link operation that is sent changes the links alone (R395). -/
theorem State.sendOp_links (s : State) (core pa key order : Nat) (kind : RemoteKind) :
    ∃ l, s.sendOp core pa key order kind = { s with links := l } := by
  unfold State.sendOp
  dsimp only
  obtain ⟨l, hl⟩ := State.sendFlit_links s (pa / 2 ^ 40 % 2048)
    (.op { source := s.links.identity.getD 0, target := pa / 2 ^ 40 % 2048, number := s.links.nextOp, key := key, pa := pa % 2 ^ 40,
           kind := kind, order := order,
           clock := (s.cores.getD core Core.fresh).scClock + (if order = 2 then 1 else 0) })
  rw [hl]
  exact ⟨_, rfl⟩

/-- A write at a home keeps the canonical form (R395). -/
theorem State.homeUpdated_wf {s : State} (w : Memory.wf s.mem = true) (core key pa order : Nat) (kind : RemoteKind) (bs : List Byte) :
    Memory.wf (s.homeUpdated core key pa order kind bs).mem = true := by
  unfold State.homeUpdated
  split
  · exact State.homeStore_wf w _ _ _
  · dsimp only
    split
    · exact Memory.writeN_wf w _ _
    · obtain ⟨l, hl⟩ := State.sendOp_links { s with links := { s.links with wrote := Marks.putAll s.links.wrote (cellsAt pa bs) } } core pa key
        order kind
      rw [hl]
      exact w

/-- A plain write at a home keeps the canonical form (R395). -/
theorem State.homeWrite_wf {s : State} (w : Memory.wf s.mem = true) (core key pa : Nat) (bs : List Byte) :
    Memory.wf (s.homeWrite core key pa bs).mem = true := State.homeUpdated_wf w _ _ _ _ _ _

/-- A sector written under the key that it has keeps the canonical form. -/
theorem State.keepSector_wf {s : State} (w : Memory.wf s.mem = true) (sec : Nat) (ps : List Host.Cell) :
    Memory.wf (s.keepSector sec ps).mem = true := by
  unfold State.keepSector
  split
  · exact State.putSector_wf w _ _ _
  · exact Memory.writeCells_wf ps w

/-- A write to a sector by physical address keeps the canonical form. -/
theorem State.physSector_wf {s : State} (w : Memory.wf s.mem = true) (sec : Nat) (ps : List Host.Cell) :
    Memory.wf (s.physSector sec ps).mem = true := by
  unfold State.physSector
  split
  · exact Memory.writeCells_wf _ w
  · split
    · exact w
    · split
      · exact w
      · exact State.keepSector_wf w _ _

/-- A write by physical address keeps the canonical form. -/
theorem State.physWrite_wf {s : State} (w : Memory.wf s.mem = true) (pa : Nat) (bs : List Byte) :
    Memory.wf (s.physWrite pa bs).mem = true := by
  unfold State.physWrite
  exact foldl_wf _ (fun t sec wt => State.physSector_wf wt _ _) _ s w

/-- An atomic OR in a page-table entry keeps the canonical form (R375). -/
theorem State.orEntry_wf {s : State} (w : Memory.wf s.mem = true) (ea : Nat) (bits : DWord) :
    Memory.wf (s.orEntry ea bits).mem = true := Memory.writeN_wf w _ _

/-- A page-table entry written keeps the canonical form (R378). -/
theorem State.putEntry_wf {s : State} (w : Memory.wf s.mem = true) (ea : Nat) (e : DWord) :
    Memory.wf (s.putEntry ea e).mem = true := Memory.writeN_wf w _ _

/-- A blank granule keeps the canonical form (R387). -/
theorem State.blankGranule_wf {s : State} (w : Memory.wf s.mem = true) (g : Nat) :
    Memory.wf (s.blankGranule g).mem = true := Memory.clear_wf w _ _

/-- A waiting write performed keeps the canonical form (R387). -/
theorem State.unpark_wf {s : State} (w : Memory.wf s.mem = true) (p : Parked) : Memory.wf (s.unpark p).mem = true := by
  unfold State.unpark
  split
  · exact w
  · split
    · exact State.physSector_wf w _ _
    · exact State.putSector_wf w _ _ _

/-- A write by the host keeps the canonical form (R361). -/
theorem State.hostWrite_wf {s : State} (w : Memory.wf s.mem = true) (tenant pa : Nat) (bs : List Byte) :
    Memory.wf (s.hostWrite tenant pa bs).mem = true := by
  unfold State.hostWrite
  refine foldl_wf _ ?_ _ s w
  intro t sec wt
  dsimp only
  split
  · exact State.physSector_wf wt _ _
  · exact wt

/-- A write-back of a line keeps the canonical form (R210). -/
theorem State.writeBackLine_wf {s : State} (w : Memory.wf s.mem = true) (core : Nat) (l : Line) :
    Memory.wf (s.writeBackLine core l).mem = true := State.homeStore_wf w _ _ _

/-- A write-back of an L1 keeps the canonical form (R220). -/
theorem State.writeBackAll_wf {s : State} (w : Memory.wf s.mem = true) (core : Nat) :
    Memory.wf (s.writeBackAll core).mem = true := by
  unfold State.writeBackAll
  exact foldl_wf _ (fun t l wt => State.writeBackLine_wf wt core l) _ s w

/-- A write-back of a sector keeps the canonical form (R212). -/
theorem State.writeBackSector_wf {s : State} (w : Memory.wf s.mem = true) (core pa : Nat) :
    Memory.wf (s.writeBackSector core pa).mem = true := by
  unfold State.writeBackSector
  split
  · exact w
  · exact State.homeStore_wf w _ _ _

/-- Room made for a line keeps the canonical form (R211). -/
theorem State.allocLine_wf {s : State} (w : Memory.wf s.mem = true) (core pa key policy : Nat) :
    Memory.wf (s.allocLine core pa key policy).mem = true := by
  unfold State.allocLine
  split
  · exact w
  · dsimp only
    split
    · exact w
    · exact State.writeBackLine_wf w core _

/-- A store into the L1, or past it, keeps the canonical form (R212). -/
theorem State.storeBytes_wf {s : State} (w : Memory.wf s.mem = true) (core key policy pa : Nat) (bs : List Byte) :
    Memory.wf (s.storeBytes core key policy pa bs).mem = true := by
  unfold State.storeBytes
  split
  · exact State.homeWrite_wf (s := (s.writeBackSector core pa).updCore core _) (State.writeBackSector_wf w core pa) _ _ _ _
  · exact State.allocLine_wf w core pa key policy

/-- Cells at different addresses are read back. -/
theorem Memory.read_writeCells_mem (ps : List Host.Cell) : ∀ {m : List Host.Cell}, Memory.wf m = true → (ps.map (·.1)).Nodup → ∀ c ∈ ps,
    Memory.read (Memory.writeCells m ps) c.1 = c.2 := by
  induction ps with
  | nil => intro m _ _ c hc; cases hc
  | cons p r ih =>
    intro m w hn c hc
    rw [List.map_cons, List.nodup_cons] at hn
    show Memory.read (Memory.writeCells (Memory.write m p.1 p.2) r) c.1 = c.2
    rcases List.mem_cons.mp hc with rfl | hc
    · rw [Memory.read_writeCells_other _ _ (Memory.write_wf w _ _), Memory.read_write w, if_pos rfl]
      intro d hd e
      exact hn.1 (List.mem_map.mpr ⟨d, hd, e⟩)
    · exact ih (Memory.write_wf w _ _) hn.2 c hc

/-- Cells written at the home slices sector by sector, no granule being copied: those of the sectors done are read back, every other
byte is as it was (R213). -/
theorem State.homeSectors_read (core key : Nat) (ps : List Host.Cell) (hn : (ps.map (·.1)).Nodup) :
    ∀ (l : List Nat) (s : State), s.moving = none → Memory.wf s.mem = true →
      let f := (fun (s : State) sec =>
        let qs := ps.filter fun c => sectorOf c.1 == sec
        if s.copying sec then { s with parked := s.parked ++ [{ core := core, key := key, data := qs, atom := none }] }
        else s.putSector key sec qs)
      (∀ c ∈ ps, sectorOf c.1 ∈ l → Memory.read (l.foldl f s).mem c.1 = c.2) ∧
      (∀ a, (∀ c ∈ ps, c.1 ≠ a ∨ sectorOf c.1 ∉ l) → Memory.read (l.foldl f s).mem a = Memory.read s.mem a) := by
  intro l
  induction l with
  | nil => intro s _ _ f; exact ⟨fun _ _ h => by simp at h, fun _ _ => rfl⟩
  | cons k r ih =>
    intro s hm w f
    have hk : f s k = s.putSector key k (ps.filter fun c => sectorOf c.1 == k) := by
      simp [f, State.copying, hm]
    have w2 : Memory.wf (f s k).mem = true := by rw [hk]; exact State.putSector_wf w _ _ _
    have hm2 : (f s k).moving = none := by rw [hk]; exact hm
    obtain ⟨i1, i2⟩ := ih (f s k) hm2 w2
    have hn2 : ((ps.filter fun c => sectorOf c.1 == k).map (·.1)).Nodup := hn.sublist (List.filter_sublist.map _)
    have hmem : (f s k).mem = Memory.writeCells s.mem (ps.filter fun c => sectorOf c.1 == k) := by rw [hk]; rfl
    refine ⟨?_, ?_⟩
    · intro c hc hs
      by_cases hr : sectorOf c.1 ∈ r
      · exact i1 c hc hr
      · have hk2 : sectorOf c.1 = k := by simpa [hr] using hs
        rw [List.foldl_cons, i2 c.1, hmem]
        · exact Memory.read_writeCells_mem _ w hn2 c (by simp [hc, hk2])
        · intro d hd
          by_cases e : d.1 = c.1
          · right; rw [e]; exact hr
          · left; exact e
    · intro a ha
      rw [List.foldl_cons, i2 a, hmem]
      · refine Memory.read_writeCells_other a _ w ?_
        intro c hc e
        simp only [List.mem_filter, beq_iff_eq] at hc
        rcases ha c hc.1 with h | h
        · exact h e
        · exact h (by rw [hc.2]; simp)
      · intro c hc
        rcases ha c hc with h | h
        · left; exact h
        · right; exact fun h2 => h (List.mem_cons_of_mem _ h2)

/-- A store at the home slices, no granule being copied: the cells are read back, every other byte is as it was (R213). -/
theorem State.homeStore_read {s : State} (core key : Nat) {ps : List Host.Cell} (w : Memory.wf s.mem = true) (hm : s.moving = none)
    (hn : (ps.map (·.1)).Nodup) :
    (∀ c ∈ ps, Memory.read (s.homeStore core key ps).mem c.1 = c.2) ∧
    (∀ a, (∀ c ∈ ps, c.1 ≠ a) → Memory.read (s.homeStore core key ps).mem a = Memory.read s.mem a) := by
  obtain ⟨h1, h2⟩ := State.homeSectors_read core key ps hn ((ps.map fun c => sectorOf c.1).eraseDups) s hm w
  refine ⟨fun c hc => h1 c hc ?_, fun a ha => h2 a fun c hc => .inl (ha c hc)⟩
  rw [List.mem_eraseDups]
  exact List.mem_map.mpr ⟨c, hc, rfl⟩

/-! ### Errors that are counted and logged (R386, R390, R391) -/

/-- A channel that meets a threshold changes the channels alone (R386). -/
theorem State.markDue_frame (s : State) (ch : Nat) : ∃ c, s.markDue ch = { s with channels := c } := by
  unfold State.markDue
  simp only
  split
  · exact ⟨s.channels, rfl⟩
  · exact ⟨_, rfl⟩

/-- A sector that is poisoned is in the poison, and nothing else changes (R390). -/
theorem State.poisonSector_frame (s : State) (sec : Nat) : ∃ p, s.poisonSector sec = { s with poison := p } ∧ p.contains sec = true := by
  unfold State.poisonSector
  split
  · exact ⟨s.poison, rfl, by assumption⟩
  · exact ⟨_, rfl, by simp⟩

/-- An uncorrectable error of a sector is logged, poisons the sector and is counted (R386, R390, R391). -/
theorem State.eccUncorrectable_frame (s : State) (source sec : Nat) : ∃ c p fl, p.contains sec = true ∧
    s.eccUncorrectable source sec =
      { s.logError 2 source (s.sectorKeyId sec) sec with channels := c, poison := p, flaws := fl } := by
  obtain ⟨p, hp, hc⟩ := State.poisonSector_frame (s.logError 2 source (s.sectorKeyId sec) sec) sec
  unfold State.eccUncorrectable
  simp only [hp]
  obtain ⟨c, h⟩ := State.markDue_frame (State.setChannel
    { s.logError 2 source (s.sectorKeyId sec) sec with
      poison := p, flaws := (s.logError 2 source (s.sectorKeyId sec) sec).flaws.filter (· != sec) }
    (let x := State.channelAt { s.logError 2 source (s.sectorKeyId sec) sec with poison := p } (s.channelOf sec)
     { x with badGranules := if x.badGranules.contains (granuleOf sec) then x.badGranules else granuleOf sec :: x.badGranules })) (s.channelOf sec)
  exact ⟨c, p, _, hc, h⟩

/-- A bad sector that a read meets leaves what is stored and the tenants as they are (R390, R391). -/
theorem State.tagFailure_frame (s : State) (key pa : Nat) :
    ∃ c p fl sw, s.tagFailure key pa = { s with channels := c, poison := p, flaws := fl, switor := sw } := by
  unfold State.tagFailure
  simp only
  split
  · exact ⟨s.channels, s.poison, s.flaws, s.switor, rfl⟩
  · split
    · obtain ⟨c, p, fl, -, h⟩ := State.eccUncorrectable_frame s 1 (sectorOf pa)
      exact ⟨c, p, fl, _, h⟩
    · obtain ⟨p, h, -⟩ := State.poisonSector_frame (s.logError 3 1 key (sectorOf pa)) (sectorOf pa)
      exact ⟨_, p, _, _, h⟩

end Sys2Proof.Machine
end

