-- ==== Sys2Proof/Laws/Slot.lean ====
section
/-!
SUPPORT. A slot that nothing keeps or turns away: its checks pass, and its effect decides what exec answers.
-/
namespace Sys2Proof.Machine

/-- The checks of a slot that nothing keeps or turns away pass. -/
theorem front_pass {u : Use} {s : State} (h : Free u s) : front u s = .pass := by
  obtain ⟨h1, h2, h3, h4, h5, h6, h7, h8, h9, h10, h11, h12⟩ := h
  have e3 : (s.iss.la == 15 && u.path.isNone) = false := by
    by_cases hl : s.iss.la = 15
    · have := h3 hl
      cases hp : u.path <;> simp_all
    · simp [hl]
  have e7 : (!u.lane && !guardBit s.iss.guard s.src) = false := by cases hl : u.lane <;> simp_all
  have e9 : (u.lane && s.src.chn != 0 && guardSplits s.src.chn s.src.mask s.active != 0) = false := by
    by_cases hl : u.lane = true
    · by_cases hc : s.src.chn = 0
      · simp [hc]
      · simp [h9 hl hc]
    · simp [hl]
  have e11 : (u.mem && s.w.hold != .none) = false := by
    by_cases hm : u.mem = true
    · simp [h11 hm]
    · simp [hm]
  have e12 : (!u.late && !(badLanes u s).isEmpty) = false := by simp [h12]
  have e4 : ¬ s.w.nregs < u.vtop := Nat.not_lt.mpr h4
  unfold front
  rw [h2, e3, h5, h6, e7, h8, e9, e11, e12, if_neg e4]
  cases hi : u.imm with
  | none =>
    cases hp : u.path with
    | none => rfl
    | some p => simp [h10 p hp]
  | some f =>
    cases hp : u.path with
    | none => simp [h1 f hi]
    | some p => simp [h10 p hp, h1 f hi]

/-- An instruction whose meaning is a slot with the effect t completes with t. -/
theorem retires_slot {i : Instr} {u : Use} {body : State → Eff} {s t : State} (he : exec i s = slotDo u body s)
    (hb : body s = .done t) : Retires i u s t := fun hf hk => he.trans (slotDo_done (front_pass hf) hf.words hb hk)

/-- The same where the effect is t whatever else holds. -/
theorem retires_of {i : Instr} {u : Use} {s t : State} (h : exec i s = slotDo u (fun _ => .done t) s) : Retires i u s t :=
  retires_slot h rfl

/-- One whose effect is a precise trap takes it. -/
theorem traps_slot {i : Instr} {u : Use} {body : State → Eff} {s : State} {x : TrapInfo} (he : exec i s = slotDo u body s)
    (hb : body s = .trap x) : Traps i u s x := fun hf => he.trans (slotDo_trap (front_pass hf) hb)

/-- The same where the trap is raised whatever else holds. -/
theorem traps_of {i : Instr} {u : Use} {s : State} {x : TrapInfo} (h : exec i s = slotDo u (fun _ => .trap x) s) : Traps i u s x :=
  traps_slot h rfl

/-- One whose condition does not hold stalls. -/
theorem stalls_wait {i : Instr} {u : Use} {body : State → Eff} {s : State} (he : exec i s = slotDo u body s)
    (hb : body s = .wait) : Stalls i u s s := fun hf => he.trans (slotDo_wait (front_pass hf) hb)

/-- One that has posted something and then waits stalls with that. -/
theorem stalls_pause {i : Instr} {u : Use} {body : State → Eff} {s t : State} (he : exec i s = slotDo u body s)
    (hb : body s = .pause t) : Stalls i u s t := fun hf => he.trans (slotDo_pause (front_pass hf) hb)

end Sys2Proof.Machine
end

