-- ==== Sys2Proof/Laws/Operands.lean ====
section
/-!
SUPPORT. What each operand form does where nothing keeps or turns away its slot: one lemma for each form.
-/
namespace Sys2Proof.Machine

/-- A slot with the effect t completes, for any meaning that is that slot. -/
theorem slot_retires {u : Use} {body : State → Eff} {s t : State} (hb : body s = .done t) (hf : Free u s)
    (hk : s.iss.chained = true ∨ leavesSplit u t = false) : slotDo u body s = .next (retire u s t) :=
  slotDo_done (front_pass hf) hf.words hb hk

theorem sBin_retires {i : Instr} {f : Word → Word → Word} {d a b : BitVec 7} {s : State} (h : exec i s = sBin f d a b s) :
    Retires i { reads := [.s a.toNat, .s b.toNat], writes := [.s d.toNat] } s
      (s.mapRegs (·.sset d (f (s.src.sget a) (s.src.sget b)))) := fun hf hk => h.trans (slot_retires rfl hf hk)

theorem sBinI_retires {i : Instr} {f : Word → Word → Word} {d a n : BitVec 7} {s : State} (h : exec i s = sBinI f d a n s) :
    Retires i { imm := some n, reads := [.s a.toNat], writes := [.s d.toNat] } s
      (s.mapRegs (·.sset d (f (s.src.sget a) (immVal n s.iss.lits)))) := fun hf hk => h.trans (slot_retires rfl hf hk)

theorem sUn_retires {i : Instr} {f : Word → Word} {d a : BitVec 7} {s : State} (h : exec i s = sUn f d a s) :
    Retires i { reads := [.s a.toNat], writes := [.s d.toNat] } s (s.mapRegs (·.sset d (f (s.src.sget a)))) :=
  fun hf hk => h.trans (slot_retires rfl hf hk)

theorem sBin64_retires {i : Instr} {f : DWord → DWord → DWord} {d a b : BitVec 7} {s : State} (h : exec i s = sBin64 f d a b s) :
    Retires i { wf := even d && even a && even b, reads := rspair a ++ rspair b, writes := rspair d } s
      (s.mapRegs (·.spairSet d (f (s.src.spair a) (s.src.spair b)))) := fun hf hk => h.trans (slot_retires rfl hf hk)

theorem cBin_retires {i : Instr} {f : Bool → Bool → Bool} {d a b : BitVec 3} {s : State} (h : exec i s = cBin f d a b s) :
    Retires i { reads := [.c a.toNat, .c b.toNat], writes := [.c d.toNat] } s
      (s.mapRegs (·.cset d.toNat (f (s.src.cget a.toNat) (s.src.cget b.toNat)))) := fun hf hk => h.trans (slot_retires rfl hf hk)

theorem vBin_retires {i : Instr} {sh : Bool} {f : Word → Word → Word} {d a b : BitVec 7} {s : State} (h : exec i s = vBin sh f d a b s) :
    Retires i { vtop := vtop [d, a, b], reads := [.v a.toNat, .v b.toNat], writes := [.v d.toNat], lane := true, shadowed := sh } s
      (s.putLanes d fun l => f (s.src.vget a)[l] (s.src.vget b)[l]) := by
  refine fun hf hk => h.trans (slot_retires ?_ hf hk)
  simp [State.putLanes, State.writeV, mergeLanes, lanesOf, Lanes.tab]

theorem vBinS_retires {i : Instr} {sh : Bool} {f : Word → Word → Word} {d a b : BitVec 7} {s : State} (h : exec i s = vBinS sh f d a b s) :
    Retires i { vtop := vtop [d, a], reads := [.v a.toNat, .s b.toNat], writes := [.v d.toNat], lane := true, shadowed := sh } s
      (s.putLanes d fun l => f (s.src.vget a)[l] (s.src.sget b)) := by
  refine fun hf hk => h.trans (slot_retires ?_ hf hk)
  simp [State.putLanes, State.writeV, mergeLanes, lanesOf, Lanes.tab]

theorem vBinI_retires {i : Instr} {f : Word → Word → Word} {d a n : BitVec 7} {s : State} (h : exec i s = vBinI f d a n s) :
    Retires i { imm := some n, vtop := vtop [d, a], reads := [.v a.toNat], writes := [.v d.toNat], lane := true } s
      (s.putLanes d fun l => f (s.src.vget a)[l] (immVal n s.iss.lits)) := by
  refine fun hf hk => h.trans (slot_retires ?_ hf hk)
  simp [State.putLanes, State.writeV, mergeLanes, lanesOf, Lanes.tab]

theorem vBinF_retires {i : Instr} {f : Word → Word → Word} {d a n : BitVec 7} {s : State} (h : exec i s = vBinF f d a n s) :
    Retires i { imm := some n, vtop := vtop [d, a], reads := [.v a.toNat], writes := [.v d.toNat], lane := true, shadowed := true } s
      (s.putLanes d fun l => f (s.src.vget a)[l] (immF32 n s.iss.lits)) := by
  refine fun hf hk => h.trans (slot_retires ?_ hf hk)
  simp [State.putLanes, State.writeV, mergeLanes, lanesOf, Lanes.tab]

theorem vTri_retires {i : Instr} {sh : Bool} {f : Word → Word → Word → Word} {d a b : BitVec 7} {s : State}
    (h : exec i s = vTri sh f d a b s) :
    Retires i { vtop := vtop [d, a, b], reads := [.v a.toNat, .v b.toNat, .v d.toNat], writes := [.v d.toNat], lane := true,
                shadowed := sh } s
      (s.putLanes d fun l => f (s.src.vget a)[l] (s.src.vget b)[l] (s.src.vget d)[l]) := by
  refine fun hf hk => h.trans (slot_retires ?_ hf hk)
  simp [State.putLanes, State.writeV, mergeLanes, lanesOf, Lanes.tab]

theorem vTriS_retires {i : Instr} {f : Word → Word → Word → Word} {d a b : BitVec 7} {s : State} (h : exec i s = vTriS f d a b s) :
    Retires i { vtop := vtop [d, a], reads := [.v a.toNat, .s b.toNat, .v d.toNat], writes := [.v d.toNat], lane := true,
                shadowed := true } s
      (s.putLanes d fun l => f (s.src.vget a)[l] (s.src.sget b) (s.src.vget d)[l]) := by
  refine fun hf hk => h.trans (slot_retires ?_ hf hk)
  simp [State.putLanes, State.writeV, mergeLanes, lanesOf, Lanes.tab]

theorem vUn_retires {i : Instr} {sh : Bool} {f : Word → Word} {d a : BitVec 7} {s : State} (h : exec i s = vUn sh f d a s) :
    Retires i { vtop := vtop [d, a], reads := [.v a.toNat], writes := [.v d.toNat], lane := true, shadowed := sh } s
      (s.putLanes d fun l => f (s.src.vget a)[l]) := by
  refine fun hf hk => h.trans (slot_retires ?_ hf hk)
  simp [State.putLanes, State.writeV, mergeLanes, lanesOf, Lanes.tab]

theorem vElem_retires {i : Instr} {n : Nat} {f : Nat → Word → Word} {d a e : BitVec 7} {s : State} (h : exec i s = vElem n f d a e s) :
    Retires i { wf := decide (e.toNat < n), vtop := vtop [d, a], reads := [.v a.toNat], writes := [.v d.toNat], lane := true } s
      (s.putLanes d fun l => f e.toNat (s.src.vget a)[l]) := by
  refine fun hf hk => h.trans (slot_retires ?_ hf hk)
  simp [State.putLanes, State.writeV, mergeLanes, lanesOf, Lanes.tab]

/-- A whole register written in the active lanes. -/
theorem writeV_eq (s : State) (d : BitVec 7) (x : Lanes Word) : s.writeV d x = s.putLanes d fun l => x[l] := rfl

theorem vBin64_retires {i : Instr} {f : DWord → DWord → DWord} {d a b : BitVec 7} {s : State} (h : exec i s = vBin64 f d a b s) :
    Retires i { wf := even d && even a && even b, vtop := vtop [d + 1, a + 1, b + 1], reads := rvpair a ++ rvpair b,
                writes := rvpair d, lane := true } s
      ((s.putLanes d fun l => loWord (f (s.src.vpair a l) (s.src.vpair b l))).putLanes (d + 1) fun l =>
        hiWord (f (s.src.vpair a l) (s.src.vpair b l))) := by
  refine fun hf hk => h.trans (slot_retires ?_ hf hk)
  simp [State.putLanes, State.writeV2, State.writeV, mergeLanes, lanesOf, Lanes.tab, State.active, State.mapRegs, State.src]

theorem vWide_retires {i : Instr} {f : Word → Word → DWord} {d a b : BitVec 7} {s : State} (h : exec i s = vWide f d a b s) :
    Retires i { wf := even d, vtop := vtop [d + 1, a, b], reads := [.v a.toNat, .v b.toNat], writes := rvpair d, lane := true } s
      ((s.putLanes d fun l => loWord (f (s.src.vget a)[l] (s.src.vget b)[l])).putLanes (d + 1) fun l =>
        hiWord (f (s.src.vget a)[l] (s.src.vget b)[l])) := by
  refine fun hf hk => h.trans (slot_retires ?_ hf hk)
  simp [State.putLanes, State.writeV2, State.writeV, mergeLanes, lanesOf, Lanes.tab, State.active, State.mapRegs, State.src]

theorem xUn_retires {i : Instr} {sh : Bool} {f : LaneMask → Lanes Word → Lanes Word} {d a : BitVec 7} {s : State}
    (h : exec i s = xUn sh f d a s) :
    Retires i { vtop := vtop [d, a], reads := [.v a.toNat], writes := [.v d.toNat], lane := true, shadowed := sh } s
      (s.putLanes d fun l => (f s.active (s.src.vget a))[l]) := fun hf hk => h.trans (slot_retires rfl hf hk)

theorem xShuffle_retires {i : Instr} {limit : Nat} {src : Nat → Nat → Option Nat} {d a n : BitVec 7} {s : State}
    (h : exec i s = xShuffle limit src d a n s) :
    Retires i { wf := decide (n.toNat ≤ limit), vtop := vtop [d, a], reads := [.v a.toNat], writes := [.v d.toNat], lane := true,
                via := some (a.toNat, shuffleLane (src n.toNat)) } s
      (s.putLanes d fun l => (shuffle (s.src.vget a) (src n.toNat))[l]) := fun hf hk => h.trans (slot_retires rfl hf hk)

end Sys2Proof.Machine
end

