-- ==== Sys2Proof/Laws/PerInstr.lean ====
section
/-!
SUPPORT. Per instruction: the word that `encode` gives a well-formed instruction decodes to it (03_packet.md R85, R90).
-/
namespace Sys2Proof.Laws.RoundTrip
open Sys2Proof

/-- The word of instruction i, where it is well formed and stands for no decode fault, decodes to it. -/
def Statement (i : Instr) : Prop :=
  i.wf = true → (∀ x, i ≠ .illOp x ∧ i ≠ .futureOp x) → ∀ w, encode i = some w → decode w = .ok i

/-- Bits that lie in the upper of two fields. -/
theorem ext_left {m n : Nat} (x : BitVec m) (y : BitVec n) (lo len : Nat) (h : n ≤ lo) :
    (x ++ y).extractLsb' lo len = x.extractLsb' (lo - n) len := by
  apply BitVec.eq_of_getLsbD_eq; intro i hi
  simp only [BitVec.getLsbD_extractLsb', BitVec.getLsbD_append]
  simp [show ¬ lo + i < n by omega, show lo + i - n = lo - n + i by omega]

/-- Bits that lie in the lower of two fields. -/
theorem ext_right {m n : Nat} (x : BitVec m) (y : BitVec n) (lo len : Nat) (h : lo + len ≤ n) :
    (x ++ y).extractLsb' lo len = y.extractLsb' lo len := by
  apply BitVec.eq_of_getLsbD_eq; intro i hi
  simp only [BitVec.getLsbD_extractLsb', BitVec.getLsbD_append]
  simp [show lo + i < n by omega]

/-- A field whole. -/
theorem ext_full {n : Nat} (x : BitVec n) : x.extractLsb' 0 n = x := by simp

/-- A field that holds v is part of no field that holds another number there. -/
theorem sub_ne {w : Word} {lo len lo2 len2 v c : Nat} (h : fx w lo2 len2 = v) (h1 : lo ≤ lo2) (h2 : lo2 + len2 ≤ lo + len)
    (h3 : c / 2 ^ (lo2 - lo) % 2 ^ len2 ≠ v) : (fx w lo len == c) = false := by
  rw [beq_eq_false_iff_ne]
  rintro rfl
  apply h3
  rw [← h]
  simp only [fx]
  have e : w.extractLsb' lo2 len2 = (w.extractLsb' lo len).extractLsb' (lo2 - lo) len2 := by
    apply BitVec.eq_of_getLsbD_eq; intro i hi
    simp only [BitVec.getLsbD_extractLsb']
    simp [hi, show lo2 - lo + i < len by omega, show lo + (lo2 - lo + i) = lo2 + i by omega]
  rw [e]
  simp [BitVec.extractLsb'_toNat, Nat.shiftRight_eq_div_pow]

/-- A word whose row of the opcode map gives the instruction decodes to it. -/
theorem of_row {i : Instr} {w : Word} {k : Nat} (hw : i.wf = true) (hm : fx w 26 6 = k) (hk : k < 56) (hr : decodeRow w = some i) :
    decode w = .ok i := by
  unfold decode
  rw [if_neg (by omega), hr]
  simp [hw]

/-- A step of the device has no word. -/
theorem no_word {i : Instr} (h : encode i = none) : Statement i := fun _ _ w he => by simp [h] at he

/-! ### The layouts of the fields (R85) -/

theorem bits_25_7_0 {x0 : BitVec 25} {x1 : BitVec 7} (lo len : Nat) (h1 : 7 ≤ lo) (_h2 : lo + len ≤ 32) :
    (x0 ++ x1 : Word).extractLsb' lo len = x0.extractLsb' (lo - 7) len := by
  rw [ext_left _ _ _ _ (by omega)]
theorem bits_25_7_1 {x0 : BitVec 25} {x1 : BitVec 7} (lo len : Nat) (_h : 0 ≤ lo) (h2 : lo + len ≤ 7) :
    (x0 ++ x1 : Word).extractLsb' lo len = x1.extractLsb' (lo - 0) len := by
  rw [ext_right _ _ _ _ (by omega)]
  rfl
theorem bits_11_7_7_7_0 {x0 : BitVec 11} {x1 : BitVec 7} {x2 : BitVec 7} {x3 : BitVec 7} (lo len : Nat) (h1 : 21 ≤ lo) (_h2 : lo + len ≤ 32) :
    (x0 ++ x1 ++ x2 ++ x3 : Word).extractLsb' lo len = x0.extractLsb' (lo - 21) len := by
  rw [ext_left _ _ _ _ (by omega), ext_left _ _ _ _ (by omega), ext_left _ _ _ _ (by omega)]
  simp only [Nat.sub_sub]
theorem bits_11_7_7_7_1 {x0 : BitVec 11} {x1 : BitVec 7} {x2 : BitVec 7} {x3 : BitVec 7} (lo len : Nat) (h1 : 14 ≤ lo) (h2 : lo + len ≤ 21) :
    (x0 ++ x1 ++ x2 ++ x3 : Word).extractLsb' lo len = x1.extractLsb' (lo - 14) len := by
  rw [ext_left _ _ _ _ (by omega), ext_left _ _ _ _ (by omega), ext_right _ _ _ _ (by omega)]
  simp only [Nat.sub_sub]
theorem bits_11_7_7_7_2 {x0 : BitVec 11} {x1 : BitVec 7} {x2 : BitVec 7} {x3 : BitVec 7} (lo len : Nat) (h1 : 7 ≤ lo) (h2 : lo + len ≤ 14) :
    (x0 ++ x1 ++ x2 ++ x3 : Word).extractLsb' lo len = x2.extractLsb' (lo - 7) len := by
  rw [ext_left _ _ _ _ (by omega), ext_right _ _ _ _ (by omega)]
theorem bits_11_7_7_7_3 {x0 : BitVec 11} {x1 : BitVec 7} {x2 : BitVec 7} {x3 : BitVec 7} (lo len : Nat) (_h : 0 ≤ lo) (h2 : lo + len ≤ 7) :
    (x0 ++ x1 ++ x2 ++ x3 : Word).extractLsb' lo len = x3.extractLsb' (lo - 0) len := by
  rw [ext_right _ _ _ _ (by omega)]
  rfl
theorem bits_6_4_2_3_3_7_7_0 {x0 : BitVec 6} {x1 : BitVec 4} {x2 : BitVec 2} {x3 : BitVec 3} {x4 : BitVec 3} {x5 : BitVec 7} {x6 : BitVec 7} (lo len : Nat) (h1 : 26 ≤ lo) (_h2 : lo + len ≤ 32) :
    (x0 ++ x1 ++ x2 ++ x3 ++ x4 ++ x5 ++ x6 : Word).extractLsb' lo len = x0.extractLsb' (lo - 26) len := by
  rw [ext_left _ _ _ _ (by omega), ext_left _ _ _ _ (by omega), ext_left _ _ _ _ (by omega), ext_left _ _ _ _ (by omega), ext_left _ _ _ _ (by omega), ext_left _ _ _ _ (by omega)]
  simp only [Nat.sub_sub]
theorem bits_6_4_2_3_3_7_7_1 {x0 : BitVec 6} {x1 : BitVec 4} {x2 : BitVec 2} {x3 : BitVec 3} {x4 : BitVec 3} {x5 : BitVec 7} {x6 : BitVec 7} (lo len : Nat) (h1 : 22 ≤ lo) (h2 : lo + len ≤ 26) :
    (x0 ++ x1 ++ x2 ++ x3 ++ x4 ++ x5 ++ x6 : Word).extractLsb' lo len = x1.extractLsb' (lo - 22) len := by
  rw [ext_left _ _ _ _ (by omega), ext_left _ _ _ _ (by omega), ext_left _ _ _ _ (by omega), ext_left _ _ _ _ (by omega), ext_left _ _ _ _ (by omega), ext_right _ _ _ _ (by omega)]
  simp only [Nat.sub_sub]
theorem bits_6_4_2_3_3_7_7_2 {x0 : BitVec 6} {x1 : BitVec 4} {x2 : BitVec 2} {x3 : BitVec 3} {x4 : BitVec 3} {x5 : BitVec 7} {x6 : BitVec 7} (lo len : Nat) (h1 : 20 ≤ lo) (h2 : lo + len ≤ 22) :
    (x0 ++ x1 ++ x2 ++ x3 ++ x4 ++ x5 ++ x6 : Word).extractLsb' lo len = x2.extractLsb' (lo - 20) len := by
  rw [ext_left _ _ _ _ (by omega), ext_left _ _ _ _ (by omega), ext_left _ _ _ _ (by omega), ext_left _ _ _ _ (by omega), ext_right _ _ _ _ (by omega)]
  simp only [Nat.sub_sub]
theorem bits_6_4_2_3_3_7_7_3 {x0 : BitVec 6} {x1 : BitVec 4} {x2 : BitVec 2} {x3 : BitVec 3} {x4 : BitVec 3} {x5 : BitVec 7} {x6 : BitVec 7} (lo len : Nat) (h1 : 17 ≤ lo) (h2 : lo + len ≤ 20) :
    (x0 ++ x1 ++ x2 ++ x3 ++ x4 ++ x5 ++ x6 : Word).extractLsb' lo len = x3.extractLsb' (lo - 17) len := by
  rw [ext_left _ _ _ _ (by omega), ext_left _ _ _ _ (by omega), ext_left _ _ _ _ (by omega), ext_right _ _ _ _ (by omega)]
  simp only [Nat.sub_sub]
theorem bits_6_4_2_3_3_7_7_4 {x0 : BitVec 6} {x1 : BitVec 4} {x2 : BitVec 2} {x3 : BitVec 3} {x4 : BitVec 3} {x5 : BitVec 7} {x6 : BitVec 7} (lo len : Nat) (h1 : 14 ≤ lo) (h2 : lo + len ≤ 17) :
    (x0 ++ x1 ++ x2 ++ x3 ++ x4 ++ x5 ++ x6 : Word).extractLsb' lo len = x4.extractLsb' (lo - 14) len := by
  rw [ext_left _ _ _ _ (by omega), ext_left _ _ _ _ (by omega), ext_right _ _ _ _ (by omega)]
  simp only [Nat.sub_sub]
theorem bits_6_4_2_3_3_7_7_5 {x0 : BitVec 6} {x1 : BitVec 4} {x2 : BitVec 2} {x3 : BitVec 3} {x4 : BitVec 3} {x5 : BitVec 7} {x6 : BitVec 7} (lo len : Nat) (h1 : 7 ≤ lo) (h2 : lo + len ≤ 14) :
    (x0 ++ x1 ++ x2 ++ x3 ++ x4 ++ x5 ++ x6 : Word).extractLsb' lo len = x5.extractLsb' (lo - 7) len := by
  rw [ext_left _ _ _ _ (by omega), ext_right _ _ _ _ (by omega)]
theorem bits_6_4_2_3_3_7_7_6 {x0 : BitVec 6} {x1 : BitVec 4} {x2 : BitVec 2} {x3 : BitVec 3} {x4 : BitVec 3} {x5 : BitVec 7} {x6 : BitVec 7} (lo len : Nat) (_h : 0 ≤ lo) (h2 : lo + len ≤ 7) :
    (x0 ++ x1 ++ x2 ++ x3 ++ x4 ++ x5 ++ x6 : Word).extractLsb' lo len = x6.extractLsb' (lo - 0) len := by
  rw [ext_right _ _ _ _ (by omega)]
  rfl
theorem bits_12_3_7_3_4_3_0 {x0 : BitVec 12} {x1 : BitVec 3} {x2 : BitVec 7} {x3 : BitVec 3} {x4 : BitVec 4} {x5 : BitVec 3} (lo len : Nat) (h1 : 20 ≤ lo) (_h2 : lo + len ≤ 32) :
    (x0 ++ x1 ++ x2 ++ x3 ++ x4 ++ x5 : Word).extractLsb' lo len = x0.extractLsb' (lo - 20) len := by
  rw [ext_left _ _ _ _ (by omega), ext_left _ _ _ _ (by omega), ext_left _ _ _ _ (by omega), ext_left _ _ _ _ (by omega), ext_left _ _ _ _ (by omega)]
  simp only [Nat.sub_sub]
theorem bits_12_3_7_3_4_3_1 {x0 : BitVec 12} {x1 : BitVec 3} {x2 : BitVec 7} {x3 : BitVec 3} {x4 : BitVec 4} {x5 : BitVec 3} (lo len : Nat) (h1 : 17 ≤ lo) (h2 : lo + len ≤ 20) :
    (x0 ++ x1 ++ x2 ++ x3 ++ x4 ++ x5 : Word).extractLsb' lo len = x1.extractLsb' (lo - 17) len := by
  rw [ext_left _ _ _ _ (by omega), ext_left _ _ _ _ (by omega), ext_left _ _ _ _ (by omega), ext_left _ _ _ _ (by omega), ext_right _ _ _ _ (by omega)]
  simp only [Nat.sub_sub]
theorem bits_12_3_7_3_4_3_2 {x0 : BitVec 12} {x1 : BitVec 3} {x2 : BitVec 7} {x3 : BitVec 3} {x4 : BitVec 4} {x5 : BitVec 3} (lo len : Nat) (h1 : 10 ≤ lo) (h2 : lo + len ≤ 17) :
    (x0 ++ x1 ++ x2 ++ x3 ++ x4 ++ x5 : Word).extractLsb' lo len = x2.extractLsb' (lo - 10) len := by
  rw [ext_left _ _ _ _ (by omega), ext_left _ _ _ _ (by omega), ext_left _ _ _ _ (by omega), ext_right _ _ _ _ (by omega)]
  simp only [Nat.sub_sub]
theorem bits_12_3_7_3_4_3_3 {x0 : BitVec 12} {x1 : BitVec 3} {x2 : BitVec 7} {x3 : BitVec 3} {x4 : BitVec 4} {x5 : BitVec 3} (lo len : Nat) (h1 : 7 ≤ lo) (h2 : lo + len ≤ 10) :
    (x0 ++ x1 ++ x2 ++ x3 ++ x4 ++ x5 : Word).extractLsb' lo len = x3.extractLsb' (lo - 7) len := by
  rw [ext_left _ _ _ _ (by omega), ext_left _ _ _ _ (by omega), ext_right _ _ _ _ (by omega)]
  simp only [Nat.sub_sub]
theorem bits_12_3_7_3_4_3_4 {x0 : BitVec 12} {x1 : BitVec 3} {x2 : BitVec 7} {x3 : BitVec 3} {x4 : BitVec 4} {x5 : BitVec 3} (lo len : Nat) (h1 : 3 ≤ lo) (h2 : lo + len ≤ 7) :
    (x0 ++ x1 ++ x2 ++ x3 ++ x4 ++ x5 : Word).extractLsb' lo len = x4.extractLsb' (lo - 3) len := by
  rw [ext_left _ _ _ _ (by omega), ext_right _ _ _ _ (by omega)]
theorem bits_12_3_7_3_4_3_5 {x0 : BitVec 12} {x1 : BitVec 3} {x2 : BitVec 7} {x3 : BitVec 3} {x4 : BitVec 4} {x5 : BitVec 3} (lo len : Nat) (_h : 0 ≤ lo) (h2 : lo + len ≤ 3) :
    (x0 ++ x1 ++ x2 ++ x3 ++ x4 ++ x5 : Word).extractLsb' lo len = x5.extractLsb' (lo - 0) len := by
  rw [ext_right _ _ _ _ (by omega)]
  rfl
theorem bits_6_3_3_20_0 {x0 : BitVec 6} {x1 : BitVec 3} {x2 : BitVec 3} {x3 : BitVec 20} (lo len : Nat) (h1 : 26 ≤ lo) (_h2 : lo + len ≤ 32) :
    (x0 ++ x1 ++ x2 ++ x3 : Word).extractLsb' lo len = x0.extractLsb' (lo - 26) len := by
  rw [ext_left _ _ _ _ (by omega), ext_left _ _ _ _ (by omega), ext_left _ _ _ _ (by omega)]
  simp only [Nat.sub_sub]
theorem bits_6_3_3_20_1 {x0 : BitVec 6} {x1 : BitVec 3} {x2 : BitVec 3} {x3 : BitVec 20} (lo len : Nat) (h1 : 23 ≤ lo) (h2 : lo + len ≤ 26) :
    (x0 ++ x1 ++ x2 ++ x3 : Word).extractLsb' lo len = x1.extractLsb' (lo - 23) len := by
  rw [ext_left _ _ _ _ (by omega), ext_left _ _ _ _ (by omega), ext_right _ _ _ _ (by omega)]
  simp only [Nat.sub_sub]
theorem bits_6_3_3_20_2 {x0 : BitVec 6} {x1 : BitVec 3} {x2 : BitVec 3} {x3 : BitVec 20} (lo len : Nat) (h1 : 20 ≤ lo) (h2 : lo + len ≤ 23) :
    (x0 ++ x1 ++ x2 ++ x3 : Word).extractLsb' lo len = x2.extractLsb' (lo - 20) len := by
  rw [ext_left _ _ _ _ (by omega), ext_right _ _ _ _ (by omega)]
theorem bits_6_3_3_20_3 {x0 : BitVec 6} {x1 : BitVec 3} {x2 : BitVec 3} {x3 : BitVec 20} (lo len : Nat) (_h : 0 ≤ lo) (h2 : lo + len ≤ 20) :
    (x0 ++ x1 ++ x2 ++ x3 : Word).extractLsb' lo len = x3.extractLsb' (lo - 0) len := by
  rw [ext_right _ _ _ _ (by omega)]
  rfl
theorem bits_12_20_0 {x0 : BitVec 12} {x1 : BitVec 20} (lo len : Nat) (h1 : 20 ≤ lo) (_h2 : lo + len ≤ 32) :
    (x0 ++ x1 : Word).extractLsb' lo len = x0.extractLsb' (lo - 20) len := by
  rw [ext_left _ _ _ _ (by omega)]
theorem bits_12_20_1 {x0 : BitVec 12} {x1 : BitVec 20} (lo len : Nat) (_h : 0 ≤ lo) (h2 : lo + len ≤ 20) :
    (x0 ++ x1 : Word).extractLsb' lo len = x1.extractLsb' (lo - 0) len := by
  rw [ext_right _ _ _ _ (by omega)]
  rfl
theorem bits_18_7_7_0 {x0 : BitVec 18} {x1 : BitVec 7} {x2 : BitVec 7} (lo len : Nat) (h1 : 14 ≤ lo) (_h2 : lo + len ≤ 32) :
    (x0 ++ x1 ++ x2 : Word).extractLsb' lo len = x0.extractLsb' (lo - 14) len := by
  rw [ext_left _ _ _ _ (by omega), ext_left _ _ _ _ (by omega)]
  simp only [Nat.sub_sub]
theorem bits_18_7_7_1 {x0 : BitVec 18} {x1 : BitVec 7} {x2 : BitVec 7} (lo len : Nat) (h1 : 7 ≤ lo) (h2 : lo + len ≤ 14) :
    (x0 ++ x1 ++ x2 : Word).extractLsb' lo len = x1.extractLsb' (lo - 7) len := by
  rw [ext_left _ _ _ _ (by omega), ext_right _ _ _ _ (by omega)]
theorem bits_18_7_7_2 {x0 : BitVec 18} {x1 : BitVec 7} {x2 : BitVec 7} (lo len : Nat) (_h : 0 ≤ lo) (h2 : lo + len ≤ 7) :
    (x0 ++ x1 ++ x2 : Word).extractLsb' lo len = x2.extractLsb' (lo - 0) len := by
  rw [ext_right _ _ _ _ (by omega)]
  rfl
theorem bits_11_7_10_4_0 {x0 : BitVec 11} {x1 : BitVec 7} {x2 : BitVec 10} {x3 : BitVec 4} (lo len : Nat) (h1 : 21 ≤ lo) (_h2 : lo + len ≤ 32) :
    (x0 ++ x1 ++ x2 ++ x3 : Word).extractLsb' lo len = x0.extractLsb' (lo - 21) len := by
  rw [ext_left _ _ _ _ (by omega), ext_left _ _ _ _ (by omega), ext_left _ _ _ _ (by omega)]
  simp only [Nat.sub_sub]
theorem bits_11_7_10_4_1 {x0 : BitVec 11} {x1 : BitVec 7} {x2 : BitVec 10} {x3 : BitVec 4} (lo len : Nat) (h1 : 14 ≤ lo) (h2 : lo + len ≤ 21) :
    (x0 ++ x1 ++ x2 ++ x3 : Word).extractLsb' lo len = x1.extractLsb' (lo - 14) len := by
  rw [ext_left _ _ _ _ (by omega), ext_left _ _ _ _ (by omega), ext_right _ _ _ _ (by omega)]
  simp only [Nat.sub_sub]
theorem bits_11_7_10_4_2 {x0 : BitVec 11} {x1 : BitVec 7} {x2 : BitVec 10} {x3 : BitVec 4} (lo len : Nat) (h1 : 4 ≤ lo) (h2 : lo + len ≤ 14) :
    (x0 ++ x1 ++ x2 ++ x3 : Word).extractLsb' lo len = x2.extractLsb' (lo - 4) len := by
  rw [ext_left _ _ _ _ (by omega), ext_right _ _ _ _ (by omega)]
theorem bits_11_7_10_4_3 {x0 : BitVec 11} {x1 : BitVec 7} {x2 : BitVec 10} {x3 : BitVec 4} (lo len : Nat) (_h : 0 ≤ lo) (h2 : lo + len ≤ 4) :
    (x0 ++ x1 ++ x2 ++ x3 : Word).extractLsb' lo len = x3.extractLsb' (lo - 0) len := by
  rw [ext_right _ _ _ _ (by omega)]
  rfl
theorem bits_11_7_14_0 {x0 : BitVec 11} {x1 : BitVec 7} {x2 : BitVec 14} (lo len : Nat) (h1 : 21 ≤ lo) (_h2 : lo + len ≤ 32) :
    (x0 ++ x1 ++ x2 : Word).extractLsb' lo len = x0.extractLsb' (lo - 21) len := by
  rw [ext_left _ _ _ _ (by omega), ext_left _ _ _ _ (by omega)]
  simp only [Nat.sub_sub]
theorem bits_11_7_14_1 {x0 : BitVec 11} {x1 : BitVec 7} {x2 : BitVec 14} (lo len : Nat) (h1 : 14 ≤ lo) (h2 : lo + len ≤ 21) :
    (x0 ++ x1 ++ x2 : Word).extractLsb' lo len = x1.extractLsb' (lo - 14) len := by
  rw [ext_left _ _ _ _ (by omega), ext_right _ _ _ _ (by omega)]
theorem bits_11_7_14_2 {x0 : BitVec 11} {x1 : BitVec 7} {x2 : BitVec 14} (lo len : Nat) (_h : 0 ≤ lo) (h2 : lo + len ≤ 14) :
    (x0 ++ x1 ++ x2 : Word).extractLsb' lo len = x2.extractLsb' (lo - 0) len := by
  rw [ext_right _ _ _ _ (by omega)]
  rfl
theorem bits_21_4_7_0 {x0 : BitVec 21} {x1 : BitVec 4} {x2 : BitVec 7} (lo len : Nat) (h1 : 11 ≤ lo) (_h2 : lo + len ≤ 32) :
    (x0 ++ x1 ++ x2 : Word).extractLsb' lo len = x0.extractLsb' (lo - 11) len := by
  rw [ext_left _ _ _ _ (by omega), ext_left _ _ _ _ (by omega)]
  simp only [Nat.sub_sub]
theorem bits_21_4_7_1 {x0 : BitVec 21} {x1 : BitVec 4} {x2 : BitVec 7} (lo len : Nat) (h1 : 7 ≤ lo) (h2 : lo + len ≤ 11) :
    (x0 ++ x1 ++ x2 : Word).extractLsb' lo len = x1.extractLsb' (lo - 7) len := by
  rw [ext_left _ _ _ _ (by omega), ext_right _ _ _ _ (by omega)]
theorem bits_21_4_7_2 {x0 : BitVec 21} {x1 : BitVec 4} {x2 : BitVec 7} (lo len : Nat) (_h : 0 ≤ lo) (h2 : lo + len ≤ 7) :
    (x0 ++ x1 ++ x2 : Word).extractLsb' lo len = x2.extractLsb' (lo - 0) len := by
  rw [ext_right _ _ _ _ (by omega)]
  rfl
theorem bits_14_4_7_7_0 {x0 : BitVec 14} {x1 : BitVec 4} {x2 : BitVec 7} {x3 : BitVec 7} (lo len : Nat) (h1 : 18 ≤ lo) (_h2 : lo + len ≤ 32) :
    (x0 ++ x1 ++ x2 ++ x3 : Word).extractLsb' lo len = x0.extractLsb' (lo - 18) len := by
  rw [ext_left _ _ _ _ (by omega), ext_left _ _ _ _ (by omega), ext_left _ _ _ _ (by omega)]
  simp only [Nat.sub_sub]
theorem bits_14_4_7_7_1 {x0 : BitVec 14} {x1 : BitVec 4} {x2 : BitVec 7} {x3 : BitVec 7} (lo len : Nat) (h1 : 14 ≤ lo) (h2 : lo + len ≤ 18) :
    (x0 ++ x1 ++ x2 ++ x3 : Word).extractLsb' lo len = x1.extractLsb' (lo - 14) len := by
  rw [ext_left _ _ _ _ (by omega), ext_left _ _ _ _ (by omega), ext_right _ _ _ _ (by omega)]
  simp only [Nat.sub_sub]
theorem bits_14_4_7_7_2 {x0 : BitVec 14} {x1 : BitVec 4} {x2 : BitVec 7} {x3 : BitVec 7} (lo len : Nat) (h1 : 7 ≤ lo) (h2 : lo + len ≤ 14) :
    (x0 ++ x1 ++ x2 ++ x3 : Word).extractLsb' lo len = x2.extractLsb' (lo - 7) len := by
  rw [ext_left _ _ _ _ (by omega), ext_right _ _ _ _ (by omega)]
theorem bits_14_4_7_7_3 {x0 : BitVec 14} {x1 : BitVec 4} {x2 : BitVec 7} {x3 : BitVec 7} (lo len : Nat) (_h : 0 ≤ lo) (h2 : lo + len ≤ 7) :
    (x0 ++ x1 ++ x2 ++ x3 : Word).extractLsb' lo len = x3.extractLsb' (lo - 0) len := by
  rw [ext_right _ _ _ _ (by omega)]
  rfl
theorem bits_6_5_4_3_7_7_0 {x0 : BitVec 6} {x1 : BitVec 5} {x2 : BitVec 4} {x3 : BitVec 3} {x4 : BitVec 7} {x5 : BitVec 7} (lo len : Nat) (h1 : 26 ≤ lo) (_h2 : lo + len ≤ 32) :
    (x0 ++ x1 ++ x2 ++ x3 ++ x4 ++ x5 : Word).extractLsb' lo len = x0.extractLsb' (lo - 26) len := by
  rw [ext_left _ _ _ _ (by omega), ext_left _ _ _ _ (by omega), ext_left _ _ _ _ (by omega), ext_left _ _ _ _ (by omega), ext_left _ _ _ _ (by omega)]
  simp only [Nat.sub_sub]
theorem bits_6_5_4_3_7_7_1 {x0 : BitVec 6} {x1 : BitVec 5} {x2 : BitVec 4} {x3 : BitVec 3} {x4 : BitVec 7} {x5 : BitVec 7} (lo len : Nat) (h1 : 21 ≤ lo) (h2 : lo + len ≤ 26) :
    (x0 ++ x1 ++ x2 ++ x3 ++ x4 ++ x5 : Word).extractLsb' lo len = x1.extractLsb' (lo - 21) len := by
  rw [ext_left _ _ _ _ (by omega), ext_left _ _ _ _ (by omega), ext_left _ _ _ _ (by omega), ext_left _ _ _ _ (by omega), ext_right _ _ _ _ (by omega)]
  simp only [Nat.sub_sub]
theorem bits_6_5_4_3_7_7_2 {x0 : BitVec 6} {x1 : BitVec 5} {x2 : BitVec 4} {x3 : BitVec 3} {x4 : BitVec 7} {x5 : BitVec 7} (lo len : Nat) (h1 : 17 ≤ lo) (h2 : lo + len ≤ 21) :
    (x0 ++ x1 ++ x2 ++ x3 ++ x4 ++ x5 : Word).extractLsb' lo len = x2.extractLsb' (lo - 17) len := by
  rw [ext_left _ _ _ _ (by omega), ext_left _ _ _ _ (by omega), ext_left _ _ _ _ (by omega), ext_right _ _ _ _ (by omega)]
  simp only [Nat.sub_sub]
theorem bits_6_5_4_3_7_7_3 {x0 : BitVec 6} {x1 : BitVec 5} {x2 : BitVec 4} {x3 : BitVec 3} {x4 : BitVec 7} {x5 : BitVec 7} (lo len : Nat) (h1 : 14 ≤ lo) (h2 : lo + len ≤ 17) :
    (x0 ++ x1 ++ x2 ++ x3 ++ x4 ++ x5 : Word).extractLsb' lo len = x3.extractLsb' (lo - 14) len := by
  rw [ext_left _ _ _ _ (by omega), ext_left _ _ _ _ (by omega), ext_right _ _ _ _ (by omega)]
  simp only [Nat.sub_sub]
theorem bits_6_5_4_3_7_7_4 {x0 : BitVec 6} {x1 : BitVec 5} {x2 : BitVec 4} {x3 : BitVec 3} {x4 : BitVec 7} {x5 : BitVec 7} (lo len : Nat) (h1 : 7 ≤ lo) (h2 : lo + len ≤ 14) :
    (x0 ++ x1 ++ x2 ++ x3 ++ x4 ++ x5 : Word).extractLsb' lo len = x4.extractLsb' (lo - 7) len := by
  rw [ext_left _ _ _ _ (by omega), ext_right _ _ _ _ (by omega)]
theorem bits_6_5_4_3_7_7_5 {x0 : BitVec 6} {x1 : BitVec 5} {x2 : BitVec 4} {x3 : BitVec 3} {x4 : BitVec 7} {x5 : BitVec 7} (lo len : Nat) (_h : 0 ≤ lo) (h2 : lo + len ≤ 7) :
    (x0 ++ x1 ++ x2 ++ x3 ++ x4 ++ x5 : Word).extractLsb' lo len = x5.extractLsb' (lo - 0) len := by
  rw [ext_right _ _ _ _ (by omega)]
  rfl
theorem bits_14_4_3_4_3_4_0 {x0 : BitVec 14} {x1 : BitVec 4} {x2 : BitVec 3} {x3 : BitVec 4} {x4 : BitVec 3} {x5 : BitVec 4} (lo len : Nat) (h1 : 18 ≤ lo) (_h2 : lo + len ≤ 32) :
    (x0 ++ x1 ++ x2 ++ x3 ++ x4 ++ x5 : Word).extractLsb' lo len = x0.extractLsb' (lo - 18) len := by
  rw [ext_left _ _ _ _ (by omega), ext_left _ _ _ _ (by omega), ext_left _ _ _ _ (by omega), ext_left _ _ _ _ (by omega), ext_left _ _ _ _ (by omega)]
  simp only [Nat.sub_sub]
theorem bits_14_4_3_4_3_4_1 {x0 : BitVec 14} {x1 : BitVec 4} {x2 : BitVec 3} {x3 : BitVec 4} {x4 : BitVec 3} {x5 : BitVec 4} (lo len : Nat) (h1 : 14 ≤ lo) (h2 : lo + len ≤ 18) :
    (x0 ++ x1 ++ x2 ++ x3 ++ x4 ++ x5 : Word).extractLsb' lo len = x1.extractLsb' (lo - 14) len := by
  rw [ext_left _ _ _ _ (by omega), ext_left _ _ _ _ (by omega), ext_left _ _ _ _ (by omega), ext_left _ _ _ _ (by omega), ext_right _ _ _ _ (by omega)]
  simp only [Nat.sub_sub]
theorem bits_14_4_3_4_3_4_2 {x0 : BitVec 14} {x1 : BitVec 4} {x2 : BitVec 3} {x3 : BitVec 4} {x4 : BitVec 3} {x5 : BitVec 4} (lo len : Nat) (h1 : 11 ≤ lo) (h2 : lo + len ≤ 14) :
    (x0 ++ x1 ++ x2 ++ x3 ++ x4 ++ x5 : Word).extractLsb' lo len = x2.extractLsb' (lo - 11) len := by
  rw [ext_left _ _ _ _ (by omega), ext_left _ _ _ _ (by omega), ext_left _ _ _ _ (by omega), ext_right _ _ _ _ (by omega)]
  simp only [Nat.sub_sub]
theorem bits_14_4_3_4_3_4_3 {x0 : BitVec 14} {x1 : BitVec 4} {x2 : BitVec 3} {x3 : BitVec 4} {x4 : BitVec 3} {x5 : BitVec 4} (lo len : Nat) (h1 : 7 ≤ lo) (h2 : lo + len ≤ 11) :
    (x0 ++ x1 ++ x2 ++ x3 ++ x4 ++ x5 : Word).extractLsb' lo len = x3.extractLsb' (lo - 7) len := by
  rw [ext_left _ _ _ _ (by omega), ext_left _ _ _ _ (by omega), ext_right _ _ _ _ (by omega)]
  simp only [Nat.sub_sub]
theorem bits_14_4_3_4_3_4_4 {x0 : BitVec 14} {x1 : BitVec 4} {x2 : BitVec 3} {x3 : BitVec 4} {x4 : BitVec 3} {x5 : BitVec 4} (lo len : Nat) (h1 : 4 ≤ lo) (h2 : lo + len ≤ 7) :
    (x0 ++ x1 ++ x2 ++ x3 ++ x4 ++ x5 : Word).extractLsb' lo len = x4.extractLsb' (lo - 4) len := by
  rw [ext_left _ _ _ _ (by omega), ext_right _ _ _ _ (by omega)]
theorem bits_14_4_3_4_3_4_5 {x0 : BitVec 14} {x1 : BitVec 4} {x2 : BitVec 3} {x3 : BitVec 4} {x4 : BitVec 3} {x5 : BitVec 4} (lo len : Nat) (_h : 0 ≤ lo) (h2 : lo + len ≤ 4) :
    (x0 ++ x1 ++ x2 ++ x3 ++ x4 ++ x5 : Word).extractLsb' lo len = x5.extractLsb' (lo - 0) len := by
  rw [ext_right _ _ _ _ (by omega)]
  rfl
theorem bits_14_4_3_4_7_0 {x0 : BitVec 14} {x1 : BitVec 4} {x2 : BitVec 3} {x3 : BitVec 4} {x4 : BitVec 7} (lo len : Nat) (h1 : 18 ≤ lo) (_h2 : lo + len ≤ 32) :
    (x0 ++ x1 ++ x2 ++ x3 ++ x4 : Word).extractLsb' lo len = x0.extractLsb' (lo - 18) len := by
  rw [ext_left _ _ _ _ (by omega), ext_left _ _ _ _ (by omega), ext_left _ _ _ _ (by omega), ext_left _ _ _ _ (by omega)]
  simp only [Nat.sub_sub]
theorem bits_14_4_3_4_7_1 {x0 : BitVec 14} {x1 : BitVec 4} {x2 : BitVec 3} {x3 : BitVec 4} {x4 : BitVec 7} (lo len : Nat) (h1 : 14 ≤ lo) (h2 : lo + len ≤ 18) :
    (x0 ++ x1 ++ x2 ++ x3 ++ x4 : Word).extractLsb' lo len = x1.extractLsb' (lo - 14) len := by
  rw [ext_left _ _ _ _ (by omega), ext_left _ _ _ _ (by omega), ext_left _ _ _ _ (by omega), ext_right _ _ _ _ (by omega)]
  simp only [Nat.sub_sub]
theorem bits_14_4_3_4_7_2 {x0 : BitVec 14} {x1 : BitVec 4} {x2 : BitVec 3} {x3 : BitVec 4} {x4 : BitVec 7} (lo len : Nat) (h1 : 11 ≤ lo) (h2 : lo + len ≤ 14) :
    (x0 ++ x1 ++ x2 ++ x3 ++ x4 : Word).extractLsb' lo len = x2.extractLsb' (lo - 11) len := by
  rw [ext_left _ _ _ _ (by omega), ext_left _ _ _ _ (by omega), ext_right _ _ _ _ (by omega)]
  simp only [Nat.sub_sub]
theorem bits_14_4_3_4_7_3 {x0 : BitVec 14} {x1 : BitVec 4} {x2 : BitVec 3} {x3 : BitVec 4} {x4 : BitVec 7} (lo len : Nat) (h1 : 7 ≤ lo) (h2 : lo + len ≤ 11) :
    (x0 ++ x1 ++ x2 ++ x3 ++ x4 : Word).extractLsb' lo len = x3.extractLsb' (lo - 7) len := by
  rw [ext_left _ _ _ _ (by omega), ext_right _ _ _ _ (by omega)]
theorem bits_14_4_3_4_7_4 {x0 : BitVec 14} {x1 : BitVec 4} {x2 : BitVec 3} {x3 : BitVec 4} {x4 : BitVec 7} (lo len : Nat) (_h : 0 ≤ lo) (h2 : lo + len ≤ 7) :
    (x0 ++ x1 ++ x2 ++ x3 ++ x4 : Word).extractLsb' lo len = x4.extractLsb' (lo - 0) len := by
  rw [ext_right _ _ _ _ (by omega)]
  rfl
theorem bits_14_4_14_0 {x0 : BitVec 14} {x1 : BitVec 4} {x2 : BitVec 14} (lo len : Nat) (h1 : 18 ≤ lo) (_h2 : lo + len ≤ 32) :
    (x0 ++ x1 ++ x2 : Word).extractLsb' lo len = x0.extractLsb' (lo - 18) len := by
  rw [ext_left _ _ _ _ (by omega), ext_left _ _ _ _ (by omega)]
  simp only [Nat.sub_sub]
theorem bits_14_4_14_1 {x0 : BitVec 14} {x1 : BitVec 4} {x2 : BitVec 14} (lo len : Nat) (h1 : 14 ≤ lo) (h2 : lo + len ≤ 18) :
    (x0 ++ x1 ++ x2 : Word).extractLsb' lo len = x1.extractLsb' (lo - 14) len := by
  rw [ext_left _ _ _ _ (by omega), ext_right _ _ _ _ (by omega)]
theorem bits_14_4_14_2 {x0 : BitVec 14} {x1 : BitVec 4} {x2 : BitVec 14} (lo len : Nat) (_h : 0 ≤ lo) (h2 : lo + len ≤ 14) :
    (x0 ++ x1 ++ x2 : Word).extractLsb' lo len = x2.extractLsb' (lo - 0) len := by
  rw [ext_right _ _ _ _ (by omega)]
  rfl
theorem bits_6_5_7_7_7_0 {x0 : BitVec 6} {x1 : BitVec 5} {x2 : BitVec 7} {x3 : BitVec 7} {x4 : BitVec 7} (lo len : Nat) (h1 : 26 ≤ lo) (_h2 : lo + len ≤ 32) :
    (x0 ++ x1 ++ x2 ++ x3 ++ x4 : Word).extractLsb' lo len = x0.extractLsb' (lo - 26) len := by
  rw [ext_left _ _ _ _ (by omega), ext_left _ _ _ _ (by omega), ext_left _ _ _ _ (by omega), ext_left _ _ _ _ (by omega)]
  simp only [Nat.sub_sub]
theorem bits_6_5_7_7_7_1 {x0 : BitVec 6} {x1 : BitVec 5} {x2 : BitVec 7} {x3 : BitVec 7} {x4 : BitVec 7} (lo len : Nat) (h1 : 21 ≤ lo) (h2 : lo + len ≤ 26) :
    (x0 ++ x1 ++ x2 ++ x3 ++ x4 : Word).extractLsb' lo len = x1.extractLsb' (lo - 21) len := by
  rw [ext_left _ _ _ _ (by omega), ext_left _ _ _ _ (by omega), ext_left _ _ _ _ (by omega), ext_right _ _ _ _ (by omega)]
  simp only [Nat.sub_sub]
theorem bits_6_5_7_7_7_2 {x0 : BitVec 6} {x1 : BitVec 5} {x2 : BitVec 7} {x3 : BitVec 7} {x4 : BitVec 7} (lo len : Nat) (h1 : 14 ≤ lo) (h2 : lo + len ≤ 21) :
    (x0 ++ x1 ++ x2 ++ x3 ++ x4 : Word).extractLsb' lo len = x2.extractLsb' (lo - 14) len := by
  rw [ext_left _ _ _ _ (by omega), ext_left _ _ _ _ (by omega), ext_right _ _ _ _ (by omega)]
  simp only [Nat.sub_sub]
theorem bits_6_5_7_7_7_3 {x0 : BitVec 6} {x1 : BitVec 5} {x2 : BitVec 7} {x3 : BitVec 7} {x4 : BitVec 7} (lo len : Nat) (h1 : 7 ≤ lo) (h2 : lo + len ≤ 14) :
    (x0 ++ x1 ++ x2 ++ x3 ++ x4 : Word).extractLsb' lo len = x3.extractLsb' (lo - 7) len := by
  rw [ext_left _ _ _ _ (by omega), ext_right _ _ _ _ (by omega)]
theorem bits_6_5_7_7_7_4 {x0 : BitVec 6} {x1 : BitVec 5} {x2 : BitVec 7} {x3 : BitVec 7} {x4 : BitVec 7} (lo len : Nat) (_h : 0 ≤ lo) (h2 : lo + len ≤ 7) :
    (x0 ++ x1 ++ x2 ++ x3 ++ x4 : Word).extractLsb' lo len = x4.extractLsb' (lo - 0) len := by
  rw [ext_right _ _ _ _ (by omega)]
  rfl
theorem bits_9_2_7_7_7_0 {x0 : BitVec 9} {x1 : BitVec 2} {x2 : BitVec 7} {x3 : BitVec 7} {x4 : BitVec 7} (lo len : Nat) (h1 : 23 ≤ lo) (_h2 : lo + len ≤ 32) :
    (x0 ++ x1 ++ x2 ++ x3 ++ x4 : Word).extractLsb' lo len = x0.extractLsb' (lo - 23) len := by
  rw [ext_left _ _ _ _ (by omega), ext_left _ _ _ _ (by omega), ext_left _ _ _ _ (by omega), ext_left _ _ _ _ (by omega)]
  simp only [Nat.sub_sub]
theorem bits_9_2_7_7_7_1 {x0 : BitVec 9} {x1 : BitVec 2} {x2 : BitVec 7} {x3 : BitVec 7} {x4 : BitVec 7} (lo len : Nat) (h1 : 21 ≤ lo) (h2 : lo + len ≤ 23) :
    (x0 ++ x1 ++ x2 ++ x3 ++ x4 : Word).extractLsb' lo len = x1.extractLsb' (lo - 21) len := by
  rw [ext_left _ _ _ _ (by omega), ext_left _ _ _ _ (by omega), ext_left _ _ _ _ (by omega), ext_right _ _ _ _ (by omega)]
  simp only [Nat.sub_sub]
theorem bits_9_2_7_7_7_2 {x0 : BitVec 9} {x1 : BitVec 2} {x2 : BitVec 7} {x3 : BitVec 7} {x4 : BitVec 7} (lo len : Nat) (h1 : 14 ≤ lo) (h2 : lo + len ≤ 21) :
    (x0 ++ x1 ++ x2 ++ x3 ++ x4 : Word).extractLsb' lo len = x2.extractLsb' (lo - 14) len := by
  rw [ext_left _ _ _ _ (by omega), ext_left _ _ _ _ (by omega), ext_right _ _ _ _ (by omega)]
  simp only [Nat.sub_sub]
theorem bits_9_2_7_7_7_3 {x0 : BitVec 9} {x1 : BitVec 2} {x2 : BitVec 7} {x3 : BitVec 7} {x4 : BitVec 7} (lo len : Nat) (h1 : 7 ≤ lo) (h2 : lo + len ≤ 14) :
    (x0 ++ x1 ++ x2 ++ x3 ++ x4 : Word).extractLsb' lo len = x3.extractLsb' (lo - 7) len := by
  rw [ext_left _ _ _ _ (by omega), ext_right _ _ _ _ (by omega)]
theorem bits_9_2_7_7_7_4 {x0 : BitVec 9} {x1 : BitVec 2} {x2 : BitVec 7} {x3 : BitVec 7} {x4 : BitVec 7} (lo len : Nat) (_h : 0 ≤ lo) (h2 : lo + len ≤ 7) :
    (x0 ++ x1 ++ x2 ++ x3 ++ x4 : Word).extractLsb' lo len = x4.extractLsb' (lo - 0) len := by
  rw [ext_right _ _ _ _ (by omega)]
  rfl
theorem bits_6_2_4_1_2_3_7_7_0 {x0 : BitVec 6} {x1 : BitVec 2} {x2 : BitVec 4} {x3 : BitVec 1} {x4 : BitVec 2} {x5 : BitVec 3} {x6 : BitVec 7} {x7 : BitVec 7} (lo len : Nat) (h1 : 26 ≤ lo) (_h2 : lo + len ≤ 32) :
    (x0 ++ x1 ++ x2 ++ x3 ++ x4 ++ x5 ++ x6 ++ x7 : Word).extractLsb' lo len = x0.extractLsb' (lo - 26) len := by
  rw [ext_left _ _ _ _ (by omega), ext_left _ _ _ _ (by omega), ext_left _ _ _ _ (by omega), ext_left _ _ _ _ (by omega), ext_left _ _ _ _ (by omega), ext_left _ _ _ _ (by omega), ext_left _ _ _ _ (by omega)]
  simp only [Nat.sub_sub]
theorem bits_6_2_4_1_2_3_7_7_1 {x0 : BitVec 6} {x1 : BitVec 2} {x2 : BitVec 4} {x3 : BitVec 1} {x4 : BitVec 2} {x5 : BitVec 3} {x6 : BitVec 7} {x7 : BitVec 7} (lo len : Nat) (h1 : 24 ≤ lo) (h2 : lo + len ≤ 26) :
    (x0 ++ x1 ++ x2 ++ x3 ++ x4 ++ x5 ++ x6 ++ x7 : Word).extractLsb' lo len = x1.extractLsb' (lo - 24) len := by
  rw [ext_left _ _ _ _ (by omega), ext_left _ _ _ _ (by omega), ext_left _ _ _ _ (by omega), ext_left _ _ _ _ (by omega), ext_left _ _ _ _ (by omega), ext_left _ _ _ _ (by omega), ext_right _ _ _ _ (by omega)]
  simp only [Nat.sub_sub]
theorem bits_6_2_4_1_2_3_7_7_2 {x0 : BitVec 6} {x1 : BitVec 2} {x2 : BitVec 4} {x3 : BitVec 1} {x4 : BitVec 2} {x5 : BitVec 3} {x6 : BitVec 7} {x7 : BitVec 7} (lo len : Nat) (h1 : 20 ≤ lo) (h2 : lo + len ≤ 24) :
    (x0 ++ x1 ++ x2 ++ x3 ++ x4 ++ x5 ++ x6 ++ x7 : Word).extractLsb' lo len = x2.extractLsb' (lo - 20) len := by
  rw [ext_left _ _ _ _ (by omega), ext_left _ _ _ _ (by omega), ext_left _ _ _ _ (by omega), ext_left _ _ _ _ (by omega), ext_left _ _ _ _ (by omega), ext_right _ _ _ _ (by omega)]
  simp only [Nat.sub_sub]
theorem bits_6_2_4_1_2_3_7_7_3 {x0 : BitVec 6} {x1 : BitVec 2} {x2 : BitVec 4} {x3 : BitVec 1} {x4 : BitVec 2} {x5 : BitVec 3} {x6 : BitVec 7} {x7 : BitVec 7} (lo len : Nat) (h1 : 19 ≤ lo) (h2 : lo + len ≤ 20) :
    (x0 ++ x1 ++ x2 ++ x3 ++ x4 ++ x5 ++ x6 ++ x7 : Word).extractLsb' lo len = x3.extractLsb' (lo - 19) len := by
  rw [ext_left _ _ _ _ (by omega), ext_left _ _ _ _ (by omega), ext_left _ _ _ _ (by omega), ext_left _ _ _ _ (by omega), ext_right _ _ _ _ (by omega)]
  simp only [Nat.sub_sub]
theorem bits_6_2_4_1_2_3_7_7_4 {x0 : BitVec 6} {x1 : BitVec 2} {x2 : BitVec 4} {x3 : BitVec 1} {x4 : BitVec 2} {x5 : BitVec 3} {x6 : BitVec 7} {x7 : BitVec 7} (lo len : Nat) (h1 : 17 ≤ lo) (h2 : lo + len ≤ 19) :
    (x0 ++ x1 ++ x2 ++ x3 ++ x4 ++ x5 ++ x6 ++ x7 : Word).extractLsb' lo len = x4.extractLsb' (lo - 17) len := by
  rw [ext_left _ _ _ _ (by omega), ext_left _ _ _ _ (by omega), ext_left _ _ _ _ (by omega), ext_right _ _ _ _ (by omega)]
  simp only [Nat.sub_sub]
theorem bits_6_2_4_1_2_3_7_7_5 {x0 : BitVec 6} {x1 : BitVec 2} {x2 : BitVec 4} {x3 : BitVec 1} {x4 : BitVec 2} {x5 : BitVec 3} {x6 : BitVec 7} {x7 : BitVec 7} (lo len : Nat) (h1 : 14 ≤ lo) (h2 : lo + len ≤ 17) :
    (x0 ++ x1 ++ x2 ++ x3 ++ x4 ++ x5 ++ x6 ++ x7 : Word).extractLsb' lo len = x5.extractLsb' (lo - 14) len := by
  rw [ext_left _ _ _ _ (by omega), ext_left _ _ _ _ (by omega), ext_right _ _ _ _ (by omega)]
  simp only [Nat.sub_sub]
theorem bits_6_2_4_1_2_3_7_7_6 {x0 : BitVec 6} {x1 : BitVec 2} {x2 : BitVec 4} {x3 : BitVec 1} {x4 : BitVec 2} {x5 : BitVec 3} {x6 : BitVec 7} {x7 : BitVec 7} (lo len : Nat) (h1 : 7 ≤ lo) (h2 : lo + len ≤ 14) :
    (x0 ++ x1 ++ x2 ++ x3 ++ x4 ++ x5 ++ x6 ++ x7 : Word).extractLsb' lo len = x6.extractLsb' (lo - 7) len := by
  rw [ext_left _ _ _ _ (by omega), ext_right _ _ _ _ (by omega)]
theorem bits_6_2_4_1_2_3_7_7_7 {x0 : BitVec 6} {x1 : BitVec 2} {x2 : BitVec 4} {x3 : BitVec 1} {x4 : BitVec 2} {x5 : BitVec 3} {x6 : BitVec 7} {x7 : BitVec 7} (lo len : Nat) (_h : 0 ≤ lo) (h2 : lo + len ≤ 7) :
    (x0 ++ x1 ++ x2 ++ x3 ++ x4 ++ x5 ++ x6 ++ x7 : Word).extractLsb' lo len = x7.extractLsb' (lo - 0) len := by
  rw [ext_right _ _ _ _ (by omega)]
  rfl
theorem bits_8_5_5_7_7_0 {x0 : BitVec 8} {x1 : BitVec 5} {x2 : BitVec 5} {x3 : BitVec 7} {x4 : BitVec 7} (lo len : Nat) (h1 : 24 ≤ lo) (_h2 : lo + len ≤ 32) :
    (x0 ++ x1 ++ x2 ++ x3 ++ x4 : Word).extractLsb' lo len = x0.extractLsb' (lo - 24) len := by
  rw [ext_left _ _ _ _ (by omega), ext_left _ _ _ _ (by omega), ext_left _ _ _ _ (by omega), ext_left _ _ _ _ (by omega)]
  simp only [Nat.sub_sub]
theorem bits_8_5_5_7_7_1 {x0 : BitVec 8} {x1 : BitVec 5} {x2 : BitVec 5} {x3 : BitVec 7} {x4 : BitVec 7} (lo len : Nat) (h1 : 19 ≤ lo) (h2 : lo + len ≤ 24) :
    (x0 ++ x1 ++ x2 ++ x3 ++ x4 : Word).extractLsb' lo len = x1.extractLsb' (lo - 19) len := by
  rw [ext_left _ _ _ _ (by omega), ext_left _ _ _ _ (by omega), ext_left _ _ _ _ (by omega), ext_right _ _ _ _ (by omega)]
  simp only [Nat.sub_sub]
theorem bits_8_5_5_7_7_2 {x0 : BitVec 8} {x1 : BitVec 5} {x2 : BitVec 5} {x3 : BitVec 7} {x4 : BitVec 7} (lo len : Nat) (h1 : 14 ≤ lo) (h2 : lo + len ≤ 19) :
    (x0 ++ x1 ++ x2 ++ x3 ++ x4 : Word).extractLsb' lo len = x2.extractLsb' (lo - 14) len := by
  rw [ext_left _ _ _ _ (by omega), ext_left _ _ _ _ (by omega), ext_right _ _ _ _ (by omega)]
  simp only [Nat.sub_sub]
theorem bits_8_5_5_7_7_3 {x0 : BitVec 8} {x1 : BitVec 5} {x2 : BitVec 5} {x3 : BitVec 7} {x4 : BitVec 7} (lo len : Nat) (h1 : 7 ≤ lo) (h2 : lo + len ≤ 14) :
    (x0 ++ x1 ++ x2 ++ x3 ++ x4 : Word).extractLsb' lo len = x3.extractLsb' (lo - 7) len := by
  rw [ext_left _ _ _ _ (by omega), ext_right _ _ _ _ (by omega)]
theorem bits_8_5_5_7_7_4 {x0 : BitVec 8} {x1 : BitVec 5} {x2 : BitVec 5} {x3 : BitVec 7} {x4 : BitVec 7} (lo len : Nat) (_h : 0 ≤ lo) (h2 : lo + len ≤ 7) :
    (x0 ++ x1 ++ x2 ++ x3 ++ x4 : Word).extractLsb' lo len = x4.extractLsb' (lo - 0) len := by
  rw [ext_right _ _ _ _ (by omega)]
  rfl
theorem bits_15_3_3_4_7_0 {x0 : BitVec 15} {x1 : BitVec 3} {x2 : BitVec 3} {x3 : BitVec 4} {x4 : BitVec 7} (lo len : Nat) (h1 : 17 ≤ lo) (_h2 : lo + len ≤ 32) :
    (x0 ++ x1 ++ x2 ++ x3 ++ x4 : Word).extractLsb' lo len = x0.extractLsb' (lo - 17) len := by
  rw [ext_left _ _ _ _ (by omega), ext_left _ _ _ _ (by omega), ext_left _ _ _ _ (by omega), ext_left _ _ _ _ (by omega)]
  simp only [Nat.sub_sub]
theorem bits_15_3_3_4_7_1 {x0 : BitVec 15} {x1 : BitVec 3} {x2 : BitVec 3} {x3 : BitVec 4} {x4 : BitVec 7} (lo len : Nat) (h1 : 14 ≤ lo) (h2 : lo + len ≤ 17) :
    (x0 ++ x1 ++ x2 ++ x3 ++ x4 : Word).extractLsb' lo len = x1.extractLsb' (lo - 14) len := by
  rw [ext_left _ _ _ _ (by omega), ext_left _ _ _ _ (by omega), ext_left _ _ _ _ (by omega), ext_right _ _ _ _ (by omega)]
  simp only [Nat.sub_sub]
theorem bits_15_3_3_4_7_2 {x0 : BitVec 15} {x1 : BitVec 3} {x2 : BitVec 3} {x3 : BitVec 4} {x4 : BitVec 7} (lo len : Nat) (h1 : 11 ≤ lo) (h2 : lo + len ≤ 14) :
    (x0 ++ x1 ++ x2 ++ x3 ++ x4 : Word).extractLsb' lo len = x2.extractLsb' (lo - 11) len := by
  rw [ext_left _ _ _ _ (by omega), ext_left _ _ _ _ (by omega), ext_right _ _ _ _ (by omega)]
  simp only [Nat.sub_sub]
theorem bits_15_3_3_4_7_3 {x0 : BitVec 15} {x1 : BitVec 3} {x2 : BitVec 3} {x3 : BitVec 4} {x4 : BitVec 7} (lo len : Nat) (h1 : 7 ≤ lo) (h2 : lo + len ≤ 11) :
    (x0 ++ x1 ++ x2 ++ x3 ++ x4 : Word).extractLsb' lo len = x3.extractLsb' (lo - 7) len := by
  rw [ext_left _ _ _ _ (by omega), ext_right _ _ _ _ (by omega)]
theorem bits_15_3_3_4_7_4 {x0 : BitVec 15} {x1 : BitVec 3} {x2 : BitVec 3} {x3 : BitVec 4} {x4 : BitVec 7} (lo len : Nat) (_h : 0 ≤ lo) (h2 : lo + len ≤ 7) :
    (x0 ++ x1 ++ x2 ++ x3 ++ x4 : Word).extractLsb' lo len = x4.extractLsb' (lo - 0) len := by
  rw [ext_right _ _ _ _ (by omega)]
  rfl
theorem bits_11_7_3_4_7_0 {x0 : BitVec 11} {x1 : BitVec 7} {x2 : BitVec 3} {x3 : BitVec 4} {x4 : BitVec 7} (lo len : Nat) (h1 : 21 ≤ lo) (_h2 : lo + len ≤ 32) :
    (x0 ++ x1 ++ x2 ++ x3 ++ x4 : Word).extractLsb' lo len = x0.extractLsb' (lo - 21) len := by
  rw [ext_left _ _ _ _ (by omega), ext_left _ _ _ _ (by omega), ext_left _ _ _ _ (by omega), ext_left _ _ _ _ (by omega)]
  simp only [Nat.sub_sub]
theorem bits_11_7_3_4_7_1 {x0 : BitVec 11} {x1 : BitVec 7} {x2 : BitVec 3} {x3 : BitVec 4} {x4 : BitVec 7} (lo len : Nat) (h1 : 14 ≤ lo) (h2 : lo + len ≤ 21) :
    (x0 ++ x1 ++ x2 ++ x3 ++ x4 : Word).extractLsb' lo len = x1.extractLsb' (lo - 14) len := by
  rw [ext_left _ _ _ _ (by omega), ext_left _ _ _ _ (by omega), ext_left _ _ _ _ (by omega), ext_right _ _ _ _ (by omega)]
  simp only [Nat.sub_sub]
theorem bits_11_7_3_4_7_2 {x0 : BitVec 11} {x1 : BitVec 7} {x2 : BitVec 3} {x3 : BitVec 4} {x4 : BitVec 7} (lo len : Nat) (h1 : 11 ≤ lo) (h2 : lo + len ≤ 14) :
    (x0 ++ x1 ++ x2 ++ x3 ++ x4 : Word).extractLsb' lo len = x2.extractLsb' (lo - 11) len := by
  rw [ext_left _ _ _ _ (by omega), ext_left _ _ _ _ (by omega), ext_right _ _ _ _ (by omega)]
  simp only [Nat.sub_sub]
theorem bits_11_7_3_4_7_3 {x0 : BitVec 11} {x1 : BitVec 7} {x2 : BitVec 3} {x3 : BitVec 4} {x4 : BitVec 7} (lo len : Nat) (h1 : 7 ≤ lo) (h2 : lo + len ≤ 11) :
    (x0 ++ x1 ++ x2 ++ x3 ++ x4 : Word).extractLsb' lo len = x3.extractLsb' (lo - 7) len := by
  rw [ext_left _ _ _ _ (by omega), ext_right _ _ _ _ (by omega)]
theorem bits_11_7_3_4_7_4 {x0 : BitVec 11} {x1 : BitVec 7} {x2 : BitVec 3} {x3 : BitVec 4} {x4 : BitVec 7} (lo len : Nat) (_h : 0 ≤ lo) (h2 : lo + len ≤ 7) :
    (x0 ++ x1 ++ x2 ++ x3 ++ x4 : Word).extractLsb' lo len = x4.extractLsb' (lo - 0) len := by
  rw [ext_right _ _ _ _ (by omega)]
  rfl
theorem bits_6_5_3_4_7_7_0 {x0 : BitVec 6} {x1 : BitVec 5} {x2 : BitVec 3} {x3 : BitVec 4} {x4 : BitVec 7} {x5 : BitVec 7} (lo len : Nat) (h1 : 26 ≤ lo) (_h2 : lo + len ≤ 32) :
    (x0 ++ x1 ++ x2 ++ x3 ++ x4 ++ x5 : Word).extractLsb' lo len = x0.extractLsb' (lo - 26) len := by
  rw [ext_left _ _ _ _ (by omega), ext_left _ _ _ _ (by omega), ext_left _ _ _ _ (by omega), ext_left _ _ _ _ (by omega), ext_left _ _ _ _ (by omega)]
  simp only [Nat.sub_sub]
theorem bits_6_5_3_4_7_7_1 {x0 : BitVec 6} {x1 : BitVec 5} {x2 : BitVec 3} {x3 : BitVec 4} {x4 : BitVec 7} {x5 : BitVec 7} (lo len : Nat) (h1 : 21 ≤ lo) (h2 : lo + len ≤ 26) :
    (x0 ++ x1 ++ x2 ++ x3 ++ x4 ++ x5 : Word).extractLsb' lo len = x1.extractLsb' (lo - 21) len := by
  rw [ext_left _ _ _ _ (by omega), ext_left _ _ _ _ (by omega), ext_left _ _ _ _ (by omega), ext_left _ _ _ _ (by omega), ext_right _ _ _ _ (by omega)]
  simp only [Nat.sub_sub]
theorem bits_6_5_3_4_7_7_2 {x0 : BitVec 6} {x1 : BitVec 5} {x2 : BitVec 3} {x3 : BitVec 4} {x4 : BitVec 7} {x5 : BitVec 7} (lo len : Nat) (h1 : 18 ≤ lo) (h2 : lo + len ≤ 21) :
    (x0 ++ x1 ++ x2 ++ x3 ++ x4 ++ x5 : Word).extractLsb' lo len = x2.extractLsb' (lo - 18) len := by
  rw [ext_left _ _ _ _ (by omega), ext_left _ _ _ _ (by omega), ext_left _ _ _ _ (by omega), ext_right _ _ _ _ (by omega)]
  simp only [Nat.sub_sub]
theorem bits_6_5_3_4_7_7_3 {x0 : BitVec 6} {x1 : BitVec 5} {x2 : BitVec 3} {x3 : BitVec 4} {x4 : BitVec 7} {x5 : BitVec 7} (lo len : Nat) (h1 : 14 ≤ lo) (h2 : lo + len ≤ 18) :
    (x0 ++ x1 ++ x2 ++ x3 ++ x4 ++ x5 : Word).extractLsb' lo len = x3.extractLsb' (lo - 14) len := by
  rw [ext_left _ _ _ _ (by omega), ext_left _ _ _ _ (by omega), ext_right _ _ _ _ (by omega)]
  simp only [Nat.sub_sub]
theorem bits_6_5_3_4_7_7_4 {x0 : BitVec 6} {x1 : BitVec 5} {x2 : BitVec 3} {x3 : BitVec 4} {x4 : BitVec 7} {x5 : BitVec 7} (lo len : Nat) (h1 : 7 ≤ lo) (h2 : lo + len ≤ 14) :
    (x0 ++ x1 ++ x2 ++ x3 ++ x4 ++ x5 : Word).extractLsb' lo len = x4.extractLsb' (lo - 7) len := by
  rw [ext_left _ _ _ _ (by omega), ext_right _ _ _ _ (by omega)]
theorem bits_6_5_3_4_7_7_5 {x0 : BitVec 6} {x1 : BitVec 5} {x2 : BitVec 3} {x3 : BitVec 4} {x4 : BitVec 7} {x5 : BitVec 7} (lo len : Nat) (_h : 0 ≤ lo) (h2 : lo + len ≤ 7) :
    (x0 ++ x1 ++ x2 ++ x3 ++ x4 ++ x5 : Word).extractLsb' lo len = x5.extractLsb' (lo - 0) len := by
  rw [ext_right _ _ _ _ (by omega)]
  rfl
theorem bits_7_2_2_2_5_7_7_0 {x0 : BitVec 7} {x1 : BitVec 2} {x2 : BitVec 2} {x3 : BitVec 2} {x4 : BitVec 5} {x5 : BitVec 7} {x6 : BitVec 7} (lo len : Nat) (h1 : 25 ≤ lo) (_h2 : lo + len ≤ 32) :
    (x0 ++ x1 ++ x2 ++ x3 ++ x4 ++ x5 ++ x6 : Word).extractLsb' lo len = x0.extractLsb' (lo - 25) len := by
  rw [ext_left _ _ _ _ (by omega), ext_left _ _ _ _ (by omega), ext_left _ _ _ _ (by omega), ext_left _ _ _ _ (by omega), ext_left _ _ _ _ (by omega), ext_left _ _ _ _ (by omega)]
  simp only [Nat.sub_sub]
theorem bits_7_2_2_2_5_7_7_1 {x0 : BitVec 7} {x1 : BitVec 2} {x2 : BitVec 2} {x3 : BitVec 2} {x4 : BitVec 5} {x5 : BitVec 7} {x6 : BitVec 7} (lo len : Nat) (h1 : 23 ≤ lo) (h2 : lo + len ≤ 25) :
    (x0 ++ x1 ++ x2 ++ x3 ++ x4 ++ x5 ++ x6 : Word).extractLsb' lo len = x1.extractLsb' (lo - 23) len := by
  rw [ext_left _ _ _ _ (by omega), ext_left _ _ _ _ (by omega), ext_left _ _ _ _ (by omega), ext_left _ _ _ _ (by omega), ext_left _ _ _ _ (by omega), ext_right _ _ _ _ (by omega)]
  simp only [Nat.sub_sub]
theorem bits_7_2_2_2_5_7_7_2 {x0 : BitVec 7} {x1 : BitVec 2} {x2 : BitVec 2} {x3 : BitVec 2} {x4 : BitVec 5} {x5 : BitVec 7} {x6 : BitVec 7} (lo len : Nat) (h1 : 21 ≤ lo) (h2 : lo + len ≤ 23) :
    (x0 ++ x1 ++ x2 ++ x3 ++ x4 ++ x5 ++ x6 : Word).extractLsb' lo len = x2.extractLsb' (lo - 21) len := by
  rw [ext_left _ _ _ _ (by omega), ext_left _ _ _ _ (by omega), ext_left _ _ _ _ (by omega), ext_left _ _ _ _ (by omega), ext_right _ _ _ _ (by omega)]
  simp only [Nat.sub_sub]
theorem bits_7_2_2_2_5_7_7_3 {x0 : BitVec 7} {x1 : BitVec 2} {x2 : BitVec 2} {x3 : BitVec 2} {x4 : BitVec 5} {x5 : BitVec 7} {x6 : BitVec 7} (lo len : Nat) (h1 : 19 ≤ lo) (h2 : lo + len ≤ 21) :
    (x0 ++ x1 ++ x2 ++ x3 ++ x4 ++ x5 ++ x6 : Word).extractLsb' lo len = x3.extractLsb' (lo - 19) len := by
  rw [ext_left _ _ _ _ (by omega), ext_left _ _ _ _ (by omega), ext_left _ _ _ _ (by omega), ext_right _ _ _ _ (by omega)]
  simp only [Nat.sub_sub]
theorem bits_7_2_2_2_5_7_7_4 {x0 : BitVec 7} {x1 : BitVec 2} {x2 : BitVec 2} {x3 : BitVec 2} {x4 : BitVec 5} {x5 : BitVec 7} {x6 : BitVec 7} (lo len : Nat) (h1 : 14 ≤ lo) (h2 : lo + len ≤ 19) :
    (x0 ++ x1 ++ x2 ++ x3 ++ x4 ++ x5 ++ x6 : Word).extractLsb' lo len = x4.extractLsb' (lo - 14) len := by
  rw [ext_left _ _ _ _ (by omega), ext_left _ _ _ _ (by omega), ext_right _ _ _ _ (by omega)]
  simp only [Nat.sub_sub]
theorem bits_7_2_2_2_5_7_7_5 {x0 : BitVec 7} {x1 : BitVec 2} {x2 : BitVec 2} {x3 : BitVec 2} {x4 : BitVec 5} {x5 : BitVec 7} {x6 : BitVec 7} (lo len : Nat) (h1 : 7 ≤ lo) (h2 : lo + len ≤ 14) :
    (x0 ++ x1 ++ x2 ++ x3 ++ x4 ++ x5 ++ x6 : Word).extractLsb' lo len = x5.extractLsb' (lo - 7) len := by
  rw [ext_left _ _ _ _ (by omega), ext_right _ _ _ _ (by omega)]
theorem bits_7_2_2_2_5_7_7_6 {x0 : BitVec 7} {x1 : BitVec 2} {x2 : BitVec 2} {x3 : BitVec 2} {x4 : BitVec 5} {x5 : BitVec 7} {x6 : BitVec 7} (lo len : Nat) (_h : 0 ≤ lo) (h2 : lo + len ≤ 7) :
    (x0 ++ x1 ++ x2 ++ x3 ++ x4 ++ x5 ++ x6 : Word).extractLsb' lo len = x6.extractLsb' (lo - 0) len := by
  rw [ext_right _ _ _ _ (by omega)]
  rfl
theorem bits_6_1_2_2_2_5_7_7_0 {x0 : BitVec 6} {x1 : BitVec 1} {x2 : BitVec 2} {x3 : BitVec 2} {x4 : BitVec 2} {x5 : BitVec 5} {x6 : BitVec 7} {x7 : BitVec 7} (lo len : Nat) (h1 : 26 ≤ lo) (_h2 : lo + len ≤ 32) :
    (x0 ++ x1 ++ x2 ++ x3 ++ x4 ++ x5 ++ x6 ++ x7 : Word).extractLsb' lo len = x0.extractLsb' (lo - 26) len := by
  rw [ext_left _ _ _ _ (by omega), ext_left _ _ _ _ (by omega), ext_left _ _ _ _ (by omega), ext_left _ _ _ _ (by omega), ext_left _ _ _ _ (by omega), ext_left _ _ _ _ (by omega), ext_left _ _ _ _ (by omega)]
  simp only [Nat.sub_sub]
theorem bits_6_1_2_2_2_5_7_7_1 {x0 : BitVec 6} {x1 : BitVec 1} {x2 : BitVec 2} {x3 : BitVec 2} {x4 : BitVec 2} {x5 : BitVec 5} {x6 : BitVec 7} {x7 : BitVec 7} (lo len : Nat) (h1 : 25 ≤ lo) (h2 : lo + len ≤ 26) :
    (x0 ++ x1 ++ x2 ++ x3 ++ x4 ++ x5 ++ x6 ++ x7 : Word).extractLsb' lo len = x1.extractLsb' (lo - 25) len := by
  rw [ext_left _ _ _ _ (by omega), ext_left _ _ _ _ (by omega), ext_left _ _ _ _ (by omega), ext_left _ _ _ _ (by omega), ext_left _ _ _ _ (by omega), ext_left _ _ _ _ (by omega), ext_right _ _ _ _ (by omega)]
  simp only [Nat.sub_sub]
theorem bits_6_1_2_2_2_5_7_7_2 {x0 : BitVec 6} {x1 : BitVec 1} {x2 : BitVec 2} {x3 : BitVec 2} {x4 : BitVec 2} {x5 : BitVec 5} {x6 : BitVec 7} {x7 : BitVec 7} (lo len : Nat) (h1 : 23 ≤ lo) (h2 : lo + len ≤ 25) :
    (x0 ++ x1 ++ x2 ++ x3 ++ x4 ++ x5 ++ x6 ++ x7 : Word).extractLsb' lo len = x2.extractLsb' (lo - 23) len := by
  rw [ext_left _ _ _ _ (by omega), ext_left _ _ _ _ (by omega), ext_left _ _ _ _ (by omega), ext_left _ _ _ _ (by omega), ext_left _ _ _ _ (by omega), ext_right _ _ _ _ (by omega)]
  simp only [Nat.sub_sub]
theorem bits_6_1_2_2_2_5_7_7_3 {x0 : BitVec 6} {x1 : BitVec 1} {x2 : BitVec 2} {x3 : BitVec 2} {x4 : BitVec 2} {x5 : BitVec 5} {x6 : BitVec 7} {x7 : BitVec 7} (lo len : Nat) (h1 : 21 ≤ lo) (h2 : lo + len ≤ 23) :
    (x0 ++ x1 ++ x2 ++ x3 ++ x4 ++ x5 ++ x6 ++ x7 : Word).extractLsb' lo len = x3.extractLsb' (lo - 21) len := by
  rw [ext_left _ _ _ _ (by omega), ext_left _ _ _ _ (by omega), ext_left _ _ _ _ (by omega), ext_left _ _ _ _ (by omega), ext_right _ _ _ _ (by omega)]
  simp only [Nat.sub_sub]
theorem bits_6_1_2_2_2_5_7_7_4 {x0 : BitVec 6} {x1 : BitVec 1} {x2 : BitVec 2} {x3 : BitVec 2} {x4 : BitVec 2} {x5 : BitVec 5} {x6 : BitVec 7} {x7 : BitVec 7} (lo len : Nat) (h1 : 19 ≤ lo) (h2 : lo + len ≤ 21) :
    (x0 ++ x1 ++ x2 ++ x3 ++ x4 ++ x5 ++ x6 ++ x7 : Word).extractLsb' lo len = x4.extractLsb' (lo - 19) len := by
  rw [ext_left _ _ _ _ (by omega), ext_left _ _ _ _ (by omega), ext_left _ _ _ _ (by omega), ext_right _ _ _ _ (by omega)]
  simp only [Nat.sub_sub]
theorem bits_6_1_2_2_2_5_7_7_5 {x0 : BitVec 6} {x1 : BitVec 1} {x2 : BitVec 2} {x3 : BitVec 2} {x4 : BitVec 2} {x5 : BitVec 5} {x6 : BitVec 7} {x7 : BitVec 7} (lo len : Nat) (h1 : 14 ≤ lo) (h2 : lo + len ≤ 19) :
    (x0 ++ x1 ++ x2 ++ x3 ++ x4 ++ x5 ++ x6 ++ x7 : Word).extractLsb' lo len = x5.extractLsb' (lo - 14) len := by
  rw [ext_left _ _ _ _ (by omega), ext_left _ _ _ _ (by omega), ext_right _ _ _ _ (by omega)]
  simp only [Nat.sub_sub]
theorem bits_6_1_2_2_2_5_7_7_6 {x0 : BitVec 6} {x1 : BitVec 1} {x2 : BitVec 2} {x3 : BitVec 2} {x4 : BitVec 2} {x5 : BitVec 5} {x6 : BitVec 7} {x7 : BitVec 7} (lo len : Nat) (h1 : 7 ≤ lo) (h2 : lo + len ≤ 14) :
    (x0 ++ x1 ++ x2 ++ x3 ++ x4 ++ x5 ++ x6 ++ x7 : Word).extractLsb' lo len = x6.extractLsb' (lo - 7) len := by
  rw [ext_left _ _ _ _ (by omega), ext_right _ _ _ _ (by omega)]
theorem bits_6_1_2_2_2_5_7_7_7 {x0 : BitVec 6} {x1 : BitVec 1} {x2 : BitVec 2} {x3 : BitVec 2} {x4 : BitVec 2} {x5 : BitVec 5} {x6 : BitVec 7} {x7 : BitVec 7} (lo len : Nat) (_h : 0 ≤ lo) (h2 : lo + len ≤ 7) :
    (x0 ++ x1 ++ x2 ++ x3 ++ x4 ++ x5 ++ x6 ++ x7 : Word).extractLsb' lo len = x7.extractLsb' (lo - 0) len := by
  rw [ext_right _ _ _ _ (by omega)]
  rfl
theorem bits_10_3_5_7_7_0 {x0 : BitVec 10} {x1 : BitVec 3} {x2 : BitVec 5} {x3 : BitVec 7} {x4 : BitVec 7} (lo len : Nat) (h1 : 22 ≤ lo) (_h2 : lo + len ≤ 32) :
    (x0 ++ x1 ++ x2 ++ x3 ++ x4 : Word).extractLsb' lo len = x0.extractLsb' (lo - 22) len := by
  rw [ext_left _ _ _ _ (by omega), ext_left _ _ _ _ (by omega), ext_left _ _ _ _ (by omega), ext_left _ _ _ _ (by omega)]
  simp only [Nat.sub_sub]
theorem bits_10_3_5_7_7_1 {x0 : BitVec 10} {x1 : BitVec 3} {x2 : BitVec 5} {x3 : BitVec 7} {x4 : BitVec 7} (lo len : Nat) (h1 : 19 ≤ lo) (h2 : lo + len ≤ 22) :
    (x0 ++ x1 ++ x2 ++ x3 ++ x4 : Word).extractLsb' lo len = x1.extractLsb' (lo - 19) len := by
  rw [ext_left _ _ _ _ (by omega), ext_left _ _ _ _ (by omega), ext_left _ _ _ _ (by omega), ext_right _ _ _ _ (by omega)]
  simp only [Nat.sub_sub]
theorem bits_10_3_5_7_7_2 {x0 : BitVec 10} {x1 : BitVec 3} {x2 : BitVec 5} {x3 : BitVec 7} {x4 : BitVec 7} (lo len : Nat) (h1 : 14 ≤ lo) (h2 : lo + len ≤ 19) :
    (x0 ++ x1 ++ x2 ++ x3 ++ x4 : Word).extractLsb' lo len = x2.extractLsb' (lo - 14) len := by
  rw [ext_left _ _ _ _ (by omega), ext_left _ _ _ _ (by omega), ext_right _ _ _ _ (by omega)]
  simp only [Nat.sub_sub]
theorem bits_10_3_5_7_7_3 {x0 : BitVec 10} {x1 : BitVec 3} {x2 : BitVec 5} {x3 : BitVec 7} {x4 : BitVec 7} (lo len : Nat) (h1 : 7 ≤ lo) (h2 : lo + len ≤ 14) :
    (x0 ++ x1 ++ x2 ++ x3 ++ x4 : Word).extractLsb' lo len = x3.extractLsb' (lo - 7) len := by
  rw [ext_left _ _ _ _ (by omega), ext_right _ _ _ _ (by omega)]
theorem bits_10_3_5_7_7_4 {x0 : BitVec 10} {x1 : BitVec 3} {x2 : BitVec 5} {x3 : BitVec 7} {x4 : BitVec 7} (lo len : Nat) (_h : 0 ≤ lo) (h2 : lo + len ≤ 7) :
    (x0 ++ x1 ++ x2 ++ x3 ++ x4 : Word).extractLsb' lo len = x4.extractLsb' (lo - 0) len := by
  rw [ext_right _ _ _ _ (by omega)]
  rfl
theorem bits_13_5_7_7_0 {x0 : BitVec 13} {x1 : BitVec 5} {x2 : BitVec 7} {x3 : BitVec 7} (lo len : Nat) (h1 : 19 ≤ lo) (_h2 : lo + len ≤ 32) :
    (x0 ++ x1 ++ x2 ++ x3 : Word).extractLsb' lo len = x0.extractLsb' (lo - 19) len := by
  rw [ext_left _ _ _ _ (by omega), ext_left _ _ _ _ (by omega), ext_left _ _ _ _ (by omega)]
  simp only [Nat.sub_sub]
theorem bits_13_5_7_7_1 {x0 : BitVec 13} {x1 : BitVec 5} {x2 : BitVec 7} {x3 : BitVec 7} (lo len : Nat) (h1 : 14 ≤ lo) (h2 : lo + len ≤ 19) :
    (x0 ++ x1 ++ x2 ++ x3 : Word).extractLsb' lo len = x1.extractLsb' (lo - 14) len := by
  rw [ext_left _ _ _ _ (by omega), ext_left _ _ _ _ (by omega), ext_right _ _ _ _ (by omega)]
  simp only [Nat.sub_sub]
theorem bits_13_5_7_7_2 {x0 : BitVec 13} {x1 : BitVec 5} {x2 : BitVec 7} {x3 : BitVec 7} (lo len : Nat) (h1 : 7 ≤ lo) (h2 : lo + len ≤ 14) :
    (x0 ++ x1 ++ x2 ++ x3 : Word).extractLsb' lo len = x2.extractLsb' (lo - 7) len := by
  rw [ext_left _ _ _ _ (by omega), ext_right _ _ _ _ (by omega)]
theorem bits_13_5_7_7_3 {x0 : BitVec 13} {x1 : BitVec 5} {x2 : BitVec 7} {x3 : BitVec 7} (lo len : Nat) (_h : 0 ≤ lo) (h2 : lo + len ≤ 7) :
    (x0 ++ x1 ++ x2 ++ x3 : Word).extractLsb' lo len = x3.extractLsb' (lo - 0) len := by
  rw [ext_right _ _ _ _ (by omega)]
  rfl
theorem bits_18_7_2_5_0 {x0 : BitVec 18} {x1 : BitVec 7} {x2 : BitVec 2} {x3 : BitVec 5} (lo len : Nat) (h1 : 14 ≤ lo) (_h2 : lo + len ≤ 32) :
    (x0 ++ x1 ++ x2 ++ x3 : Word).extractLsb' lo len = x0.extractLsb' (lo - 14) len := by
  rw [ext_left _ _ _ _ (by omega), ext_left _ _ _ _ (by omega), ext_left _ _ _ _ (by omega)]
  simp only [Nat.sub_sub]
theorem bits_18_7_2_5_1 {x0 : BitVec 18} {x1 : BitVec 7} {x2 : BitVec 2} {x3 : BitVec 5} (lo len : Nat) (h1 : 7 ≤ lo) (h2 : lo + len ≤ 14) :
    (x0 ++ x1 ++ x2 ++ x3 : Word).extractLsb' lo len = x1.extractLsb' (lo - 7) len := by
  rw [ext_left _ _ _ _ (by omega), ext_left _ _ _ _ (by omega), ext_right _ _ _ _ (by omega)]
  simp only [Nat.sub_sub]
theorem bits_18_7_2_5_2 {x0 : BitVec 18} {x1 : BitVec 7} {x2 : BitVec 2} {x3 : BitVec 5} (lo len : Nat) (h1 : 5 ≤ lo) (h2 : lo + len ≤ 7) :
    (x0 ++ x1 ++ x2 ++ x3 : Word).extractLsb' lo len = x2.extractLsb' (lo - 5) len := by
  rw [ext_left _ _ _ _ (by omega), ext_right _ _ _ _ (by omega)]
theorem bits_18_7_2_5_3 {x0 : BitVec 18} {x1 : BitVec 7} {x2 : BitVec 2} {x3 : BitVec 5} (lo len : Nat) (_h : 0 ≤ lo) (h2 : lo + len ≤ 5) :
    (x0 ++ x1 ++ x2 ++ x3 : Word).extractLsb' lo len = x3.extractLsb' (lo - 0) len := by
  rw [ext_right _ _ _ _ (by omega)]
  rfl
theorem bits_13_5_2_5_7_0 {x0 : BitVec 13} {x1 : BitVec 5} {x2 : BitVec 2} {x3 : BitVec 5} {x4 : BitVec 7} (lo len : Nat) (h1 : 19 ≤ lo) (_h2 : lo + len ≤ 32) :
    (x0 ++ x1 ++ x2 ++ x3 ++ x4 : Word).extractLsb' lo len = x0.extractLsb' (lo - 19) len := by
  rw [ext_left _ _ _ _ (by omega), ext_left _ _ _ _ (by omega), ext_left _ _ _ _ (by omega), ext_left _ _ _ _ (by omega)]
  simp only [Nat.sub_sub]
theorem bits_13_5_2_5_7_1 {x0 : BitVec 13} {x1 : BitVec 5} {x2 : BitVec 2} {x3 : BitVec 5} {x4 : BitVec 7} (lo len : Nat) (h1 : 14 ≤ lo) (h2 : lo + len ≤ 19) :
    (x0 ++ x1 ++ x2 ++ x3 ++ x4 : Word).extractLsb' lo len = x1.extractLsb' (lo - 14) len := by
  rw [ext_left _ _ _ _ (by omega), ext_left _ _ _ _ (by omega), ext_left _ _ _ _ (by omega), ext_right _ _ _ _ (by omega)]
  simp only [Nat.sub_sub]
theorem bits_13_5_2_5_7_2 {x0 : BitVec 13} {x1 : BitVec 5} {x2 : BitVec 2} {x3 : BitVec 5} {x4 : BitVec 7} (lo len : Nat) (h1 : 12 ≤ lo) (h2 : lo + len ≤ 14) :
    (x0 ++ x1 ++ x2 ++ x3 ++ x4 : Word).extractLsb' lo len = x2.extractLsb' (lo - 12) len := by
  rw [ext_left _ _ _ _ (by omega), ext_left _ _ _ _ (by omega), ext_right _ _ _ _ (by omega)]
  simp only [Nat.sub_sub]
theorem bits_13_5_2_5_7_3 {x0 : BitVec 13} {x1 : BitVec 5} {x2 : BitVec 2} {x3 : BitVec 5} {x4 : BitVec 7} (lo len : Nat) (h1 : 7 ≤ lo) (h2 : lo + len ≤ 12) :
    (x0 ++ x1 ++ x2 ++ x3 ++ x4 : Word).extractLsb' lo len = x3.extractLsb' (lo - 7) len := by
  rw [ext_left _ _ _ _ (by omega), ext_right _ _ _ _ (by omega)]
theorem bits_13_5_2_5_7_4 {x0 : BitVec 13} {x1 : BitVec 5} {x2 : BitVec 2} {x3 : BitVec 5} {x4 : BitVec 7} (lo len : Nat) (_h : 0 ≤ lo) (h2 : lo + len ≤ 7) :
    (x0 ++ x1 ++ x2 ++ x3 ++ x4 : Word).extractLsb' lo len = x4.extractLsb' (lo - 0) len := by
  rw [ext_right _ _ _ _ (by omega)]
  rfl
theorem bits_6_3_5_7_7_4_0 {x0 : BitVec 6} {x1 : BitVec 3} {x2 : BitVec 5} {x3 : BitVec 7} {x4 : BitVec 7} {x5 : BitVec 4} (lo len : Nat) (h1 : 26 ≤ lo) (_h2 : lo + len ≤ 32) :
    (x0 ++ x1 ++ x2 ++ x3 ++ x4 ++ x5 : Word).extractLsb' lo len = x0.extractLsb' (lo - 26) len := by
  rw [ext_left _ _ _ _ (by omega), ext_left _ _ _ _ (by omega), ext_left _ _ _ _ (by omega), ext_left _ _ _ _ (by omega), ext_left _ _ _ _ (by omega)]
  simp only [Nat.sub_sub]
theorem bits_6_3_5_7_7_4_1 {x0 : BitVec 6} {x1 : BitVec 3} {x2 : BitVec 5} {x3 : BitVec 7} {x4 : BitVec 7} {x5 : BitVec 4} (lo len : Nat) (h1 : 23 ≤ lo) (h2 : lo + len ≤ 26) :
    (x0 ++ x1 ++ x2 ++ x3 ++ x4 ++ x5 : Word).extractLsb' lo len = x1.extractLsb' (lo - 23) len := by
  rw [ext_left _ _ _ _ (by omega), ext_left _ _ _ _ (by omega), ext_left _ _ _ _ (by omega), ext_left _ _ _ _ (by omega), ext_right _ _ _ _ (by omega)]
  simp only [Nat.sub_sub]
theorem bits_6_3_5_7_7_4_2 {x0 : BitVec 6} {x1 : BitVec 3} {x2 : BitVec 5} {x3 : BitVec 7} {x4 : BitVec 7} {x5 : BitVec 4} (lo len : Nat) (h1 : 18 ≤ lo) (h2 : lo + len ≤ 23) :
    (x0 ++ x1 ++ x2 ++ x3 ++ x4 ++ x5 : Word).extractLsb' lo len = x2.extractLsb' (lo - 18) len := by
  rw [ext_left _ _ _ _ (by omega), ext_left _ _ _ _ (by omega), ext_left _ _ _ _ (by omega), ext_right _ _ _ _ (by omega)]
  simp only [Nat.sub_sub]
theorem bits_6_3_5_7_7_4_3 {x0 : BitVec 6} {x1 : BitVec 3} {x2 : BitVec 5} {x3 : BitVec 7} {x4 : BitVec 7} {x5 : BitVec 4} (lo len : Nat) (h1 : 11 ≤ lo) (h2 : lo + len ≤ 18) :
    (x0 ++ x1 ++ x2 ++ x3 ++ x4 ++ x5 : Word).extractLsb' lo len = x3.extractLsb' (lo - 11) len := by
  rw [ext_left _ _ _ _ (by omega), ext_left _ _ _ _ (by omega), ext_right _ _ _ _ (by omega)]
  simp only [Nat.sub_sub]
theorem bits_6_3_5_7_7_4_4 {x0 : BitVec 6} {x1 : BitVec 3} {x2 : BitVec 5} {x3 : BitVec 7} {x4 : BitVec 7} {x5 : BitVec 4} (lo len : Nat) (h1 : 4 ≤ lo) (h2 : lo + len ≤ 11) :
    (x0 ++ x1 ++ x2 ++ x3 ++ x4 ++ x5 : Word).extractLsb' lo len = x4.extractLsb' (lo - 4) len := by
  rw [ext_left _ _ _ _ (by omega), ext_right _ _ _ _ (by omega)]
theorem bits_6_3_5_7_7_4_5 {x0 : BitVec 6} {x1 : BitVec 3} {x2 : BitVec 5} {x3 : BitVec 7} {x4 : BitVec 7} {x5 : BitVec 4} (lo len : Nat) (_h : 0 ≤ lo) (h2 : lo + len ≤ 4) :
    (x0 ++ x1 ++ x2 ++ x3 ++ x4 ++ x5 : Word).extractLsb' lo len = x5.extractLsb' (lo - 0) len := by
  rw [ext_right _ _ _ _ (by omega)]
  rfl
theorem bits_14_7_7_4_0 {x0 : BitVec 14} {x1 : BitVec 7} {x2 : BitVec 7} {x3 : BitVec 4} (lo len : Nat) (h1 : 18 ≤ lo) (_h2 : lo + len ≤ 32) :
    (x0 ++ x1 ++ x2 ++ x3 : Word).extractLsb' lo len = x0.extractLsb' (lo - 18) len := by
  rw [ext_left _ _ _ _ (by omega), ext_left _ _ _ _ (by omega), ext_left _ _ _ _ (by omega)]
  simp only [Nat.sub_sub]
theorem bits_14_7_7_4_1 {x0 : BitVec 14} {x1 : BitVec 7} {x2 : BitVec 7} {x3 : BitVec 4} (lo len : Nat) (h1 : 11 ≤ lo) (h2 : lo + len ≤ 18) :
    (x0 ++ x1 ++ x2 ++ x3 : Word).extractLsb' lo len = x1.extractLsb' (lo - 11) len := by
  rw [ext_left _ _ _ _ (by omega), ext_left _ _ _ _ (by omega), ext_right _ _ _ _ (by omega)]
  simp only [Nat.sub_sub]
theorem bits_14_7_7_4_2 {x0 : BitVec 14} {x1 : BitVec 7} {x2 : BitVec 7} {x3 : BitVec 4} (lo len : Nat) (h1 : 4 ≤ lo) (h2 : lo + len ≤ 11) :
    (x0 ++ x1 ++ x2 ++ x3 : Word).extractLsb' lo len = x2.extractLsb' (lo - 4) len := by
  rw [ext_left _ _ _ _ (by omega), ext_right _ _ _ _ (by omega)]
theorem bits_14_7_7_4_3 {x0 : BitVec 14} {x1 : BitVec 7} {x2 : BitVec 7} {x3 : BitVec 4} (lo len : Nat) (_h : 0 ≤ lo) (h2 : lo + len ≤ 4) :
    (x0 ++ x1 ++ x2 ++ x3 : Word).extractLsb' lo len = x3.extractLsb' (lo - 0) len := by
  rw [ext_right _ _ _ _ (by omega)]
  rfl
theorem bits_6_3_23_0 {x0 : BitVec 6} {x1 : BitVec 3} {x2 : BitVec 23} (lo len : Nat) (h1 : 26 ≤ lo) (_h2 : lo + len ≤ 32) :
    (x0 ++ x1 ++ x2 : Word).extractLsb' lo len = x0.extractLsb' (lo - 26) len := by
  rw [ext_left _ _ _ _ (by omega), ext_left _ _ _ _ (by omega)]
  simp only [Nat.sub_sub]
theorem bits_6_3_23_1 {x0 : BitVec 6} {x1 : BitVec 3} {x2 : BitVec 23} (lo len : Nat) (h1 : 23 ≤ lo) (h2 : lo + len ≤ 26) :
    (x0 ++ x1 ++ x2 : Word).extractLsb' lo len = x1.extractLsb' (lo - 23) len := by
  rw [ext_left _ _ _ _ (by omega), ext_right _ _ _ _ (by omega)]
theorem bits_6_3_23_2 {x0 : BitVec 6} {x1 : BitVec 3} {x2 : BitVec 23} (lo len : Nat) (_h : 0 ≤ lo) (h2 : lo + len ≤ 23) :
    (x0 ++ x1 ++ x2 : Word).extractLsb' lo len = x2.extractLsb' (lo - 0) len := by
  rw [ext_right _ _ _ _ (by omega)]
  rfl
theorem bits_14_7_11_0 {x0 : BitVec 14} {x1 : BitVec 7} {x2 : BitVec 11} (lo len : Nat) (h1 : 18 ≤ lo) (_h2 : lo + len ≤ 32) :
    (x0 ++ x1 ++ x2 : Word).extractLsb' lo len = x0.extractLsb' (lo - 18) len := by
  rw [ext_left _ _ _ _ (by omega), ext_left _ _ _ _ (by omega)]
  simp only [Nat.sub_sub]
theorem bits_14_7_11_1 {x0 : BitVec 14} {x1 : BitVec 7} {x2 : BitVec 11} (lo len : Nat) (h1 : 11 ≤ lo) (h2 : lo + len ≤ 18) :
    (x0 ++ x1 ++ x2 : Word).extractLsb' lo len = x1.extractLsb' (lo - 11) len := by
  rw [ext_left _ _ _ _ (by omega), ext_right _ _ _ _ (by omega)]
theorem bits_14_7_11_2 {x0 : BitVec 14} {x1 : BitVec 7} {x2 : BitVec 11} (lo len : Nat) (_h : 0 ≤ lo) (h2 : lo + len ≤ 11) :
    (x0 ++ x1 ++ x2 : Word).extractLsb' lo len = x2.extractLsb' (lo - 0) len := by
  rw [ext_right _ _ _ _ (by omega)]
  rfl
theorem bits_17_1_7_7_0 {x0 : BitVec 17} {x1 : BitVec 1} {x2 : BitVec 7} {x3 : BitVec 7} (lo len : Nat) (h1 : 15 ≤ lo) (_h2 : lo + len ≤ 32) :
    (x0 ++ x1 ++ x2 ++ x3 : Word).extractLsb' lo len = x0.extractLsb' (lo - 15) len := by
  rw [ext_left _ _ _ _ (by omega), ext_left _ _ _ _ (by omega), ext_left _ _ _ _ (by omega)]
  simp only [Nat.sub_sub]
theorem bits_17_1_7_7_1 {x0 : BitVec 17} {x1 : BitVec 1} {x2 : BitVec 7} {x3 : BitVec 7} (lo len : Nat) (h1 : 14 ≤ lo) (h2 : lo + len ≤ 15) :
    (x0 ++ x1 ++ x2 ++ x3 : Word).extractLsb' lo len = x1.extractLsb' (lo - 14) len := by
  rw [ext_left _ _ _ _ (by omega), ext_left _ _ _ _ (by omega), ext_right _ _ _ _ (by omega)]
  simp only [Nat.sub_sub]
theorem bits_17_1_7_7_2 {x0 : BitVec 17} {x1 : BitVec 1} {x2 : BitVec 7} {x3 : BitVec 7} (lo len : Nat) (h1 : 7 ≤ lo) (h2 : lo + len ≤ 14) :
    (x0 ++ x1 ++ x2 ++ x3 : Word).extractLsb' lo len = x2.extractLsb' (lo - 7) len := by
  rw [ext_left _ _ _ _ (by omega), ext_right _ _ _ _ (by omega)]
theorem bits_17_1_7_7_3 {x0 : BitVec 17} {x1 : BitVec 1} {x2 : BitVec 7} {x3 : BitVec 7} (lo len : Nat) (_h : 0 ≤ lo) (h2 : lo + len ≤ 7) :
    (x0 ++ x1 ++ x2 ++ x3 : Word).extractLsb' lo len = x3.extractLsb' (lo - 0) len := by
  rw [ext_right _ _ _ _ (by omega)]
  rfl
theorem bits_6_4_4_4_7_7_0 {x0 : BitVec 6} {x1 : BitVec 4} {x2 : BitVec 4} {x3 : BitVec 4} {x4 : BitVec 7} {x5 : BitVec 7} (lo len : Nat) (h1 : 26 ≤ lo) (_h2 : lo + len ≤ 32) :
    (x0 ++ x1 ++ x2 ++ x3 ++ x4 ++ x5 : Word).extractLsb' lo len = x0.extractLsb' (lo - 26) len := by
  rw [ext_left _ _ _ _ (by omega), ext_left _ _ _ _ (by omega), ext_left _ _ _ _ (by omega), ext_left _ _ _ _ (by omega), ext_left _ _ _ _ (by omega)]
  simp only [Nat.sub_sub]
theorem bits_6_4_4_4_7_7_1 {x0 : BitVec 6} {x1 : BitVec 4} {x2 : BitVec 4} {x3 : BitVec 4} {x4 : BitVec 7} {x5 : BitVec 7} (lo len : Nat) (h1 : 22 ≤ lo) (h2 : lo + len ≤ 26) :
    (x0 ++ x1 ++ x2 ++ x3 ++ x4 ++ x5 : Word).extractLsb' lo len = x1.extractLsb' (lo - 22) len := by
  rw [ext_left _ _ _ _ (by omega), ext_left _ _ _ _ (by omega), ext_left _ _ _ _ (by omega), ext_left _ _ _ _ (by omega), ext_right _ _ _ _ (by omega)]
  simp only [Nat.sub_sub]
theorem bits_6_4_4_4_7_7_2 {x0 : BitVec 6} {x1 : BitVec 4} {x2 : BitVec 4} {x3 : BitVec 4} {x4 : BitVec 7} {x5 : BitVec 7} (lo len : Nat) (h1 : 18 ≤ lo) (h2 : lo + len ≤ 22) :
    (x0 ++ x1 ++ x2 ++ x3 ++ x4 ++ x5 : Word).extractLsb' lo len = x2.extractLsb' (lo - 18) len := by
  rw [ext_left _ _ _ _ (by omega), ext_left _ _ _ _ (by omega), ext_left _ _ _ _ (by omega), ext_right _ _ _ _ (by omega)]
  simp only [Nat.sub_sub]
theorem bits_6_4_4_4_7_7_3 {x0 : BitVec 6} {x1 : BitVec 4} {x2 : BitVec 4} {x3 : BitVec 4} {x4 : BitVec 7} {x5 : BitVec 7} (lo len : Nat) (h1 : 14 ≤ lo) (h2 : lo + len ≤ 18) :
    (x0 ++ x1 ++ x2 ++ x3 ++ x4 ++ x5 : Word).extractLsb' lo len = x3.extractLsb' (lo - 14) len := by
  rw [ext_left _ _ _ _ (by omega), ext_left _ _ _ _ (by omega), ext_right _ _ _ _ (by omega)]
  simp only [Nat.sub_sub]
theorem bits_6_4_4_4_7_7_4 {x0 : BitVec 6} {x1 : BitVec 4} {x2 : BitVec 4} {x3 : BitVec 4} {x4 : BitVec 7} {x5 : BitVec 7} (lo len : Nat) (h1 : 7 ≤ lo) (h2 : lo + len ≤ 14) :
    (x0 ++ x1 ++ x2 ++ x3 ++ x4 ++ x5 : Word).extractLsb' lo len = x4.extractLsb' (lo - 7) len := by
  rw [ext_left _ _ _ _ (by omega), ext_right _ _ _ _ (by omega)]
theorem bits_6_4_4_4_7_7_5 {x0 : BitVec 6} {x1 : BitVec 4} {x2 : BitVec 4} {x3 : BitVec 4} {x4 : BitVec 7} {x5 : BitVec 7} (lo len : Nat) (_h : 0 ≤ lo) (h2 : lo + len ≤ 7) :
    (x0 ++ x1 ++ x2 ++ x3 ++ x4 ++ x5 : Word).extractLsb' lo len = x5.extractLsb' (lo - 0) len := by
  rw [ext_right _ _ _ _ (by omega)]
  rfl
theorem bits_10_4_11_7_0 {x0 : BitVec 10} {x1 : BitVec 4} {x2 : BitVec 11} {x3 : BitVec 7} (lo len : Nat) (h1 : 22 ≤ lo) (_h2 : lo + len ≤ 32) :
    (x0 ++ x1 ++ x2 ++ x3 : Word).extractLsb' lo len = x0.extractLsb' (lo - 22) len := by
  rw [ext_left _ _ _ _ (by omega), ext_left _ _ _ _ (by omega), ext_left _ _ _ _ (by omega)]
  simp only [Nat.sub_sub]
theorem bits_10_4_11_7_1 {x0 : BitVec 10} {x1 : BitVec 4} {x2 : BitVec 11} {x3 : BitVec 7} (lo len : Nat) (h1 : 18 ≤ lo) (h2 : lo + len ≤ 22) :
    (x0 ++ x1 ++ x2 ++ x3 : Word).extractLsb' lo len = x1.extractLsb' (lo - 18) len := by
  rw [ext_left _ _ _ _ (by omega), ext_left _ _ _ _ (by omega), ext_right _ _ _ _ (by omega)]
  simp only [Nat.sub_sub]
theorem bits_10_4_11_7_2 {x0 : BitVec 10} {x1 : BitVec 4} {x2 : BitVec 11} {x3 : BitVec 7} (lo len : Nat) (h1 : 7 ≤ lo) (h2 : lo + len ≤ 18) :
    (x0 ++ x1 ++ x2 ++ x3 : Word).extractLsb' lo len = x2.extractLsb' (lo - 7) len := by
  rw [ext_left _ _ _ _ (by omega), ext_right _ _ _ _ (by omega)]
theorem bits_10_4_11_7_3 {x0 : BitVec 10} {x1 : BitVec 4} {x2 : BitVec 11} {x3 : BitVec 7} (lo len : Nat) (_h : 0 ≤ lo) (h2 : lo + len ≤ 7) :
    (x0 ++ x1 ++ x2 ++ x3 : Word).extractLsb' lo len = x3.extractLsb' (lo - 0) len := by
  rw [ext_right _ _ _ _ (by omega)]
  rfl
theorem bits_10_4_4_7_7_0 {x0 : BitVec 10} {x1 : BitVec 4} {x2 : BitVec 4} {x3 : BitVec 7} {x4 : BitVec 7} (lo len : Nat) (h1 : 22 ≤ lo) (_h2 : lo + len ≤ 32) :
    (x0 ++ x1 ++ x2 ++ x3 ++ x4 : Word).extractLsb' lo len = x0.extractLsb' (lo - 22) len := by
  rw [ext_left _ _ _ _ (by omega), ext_left _ _ _ _ (by omega), ext_left _ _ _ _ (by omega), ext_left _ _ _ _ (by omega)]
  simp only [Nat.sub_sub]
theorem bits_10_4_4_7_7_1 {x0 : BitVec 10} {x1 : BitVec 4} {x2 : BitVec 4} {x3 : BitVec 7} {x4 : BitVec 7} (lo len : Nat) (h1 : 18 ≤ lo) (h2 : lo + len ≤ 22) :
    (x0 ++ x1 ++ x2 ++ x3 ++ x4 : Word).extractLsb' lo len = x1.extractLsb' (lo - 18) len := by
  rw [ext_left _ _ _ _ (by omega), ext_left _ _ _ _ (by omega), ext_left _ _ _ _ (by omega), ext_right _ _ _ _ (by omega)]
  simp only [Nat.sub_sub]
theorem bits_10_4_4_7_7_2 {x0 : BitVec 10} {x1 : BitVec 4} {x2 : BitVec 4} {x3 : BitVec 7} {x4 : BitVec 7} (lo len : Nat) (h1 : 14 ≤ lo) (h2 : lo + len ≤ 18) :
    (x0 ++ x1 ++ x2 ++ x3 ++ x4 : Word).extractLsb' lo len = x2.extractLsb' (lo - 14) len := by
  rw [ext_left _ _ _ _ (by omega), ext_left _ _ _ _ (by omega), ext_right _ _ _ _ (by omega)]
  simp only [Nat.sub_sub]
theorem bits_10_4_4_7_7_3 {x0 : BitVec 10} {x1 : BitVec 4} {x2 : BitVec 4} {x3 : BitVec 7} {x4 : BitVec 7} (lo len : Nat) (h1 : 7 ≤ lo) (h2 : lo + len ≤ 14) :
    (x0 ++ x1 ++ x2 ++ x3 ++ x4 : Word).extractLsb' lo len = x3.extractLsb' (lo - 7) len := by
  rw [ext_left _ _ _ _ (by omega), ext_right _ _ _ _ (by omega)]
theorem bits_10_4_4_7_7_4 {x0 : BitVec 10} {x1 : BitVec 4} {x2 : BitVec 4} {x3 : BitVec 7} {x4 : BitVec 7} (lo len : Nat) (_h : 0 ≤ lo) (h2 : lo + len ≤ 7) :
    (x0 ++ x1 ++ x2 ++ x3 ++ x4 : Word).extractLsb' lo len = x4.extractLsb' (lo - 0) len := by
  rw [ext_right _ _ _ _ (by omega)]
  rfl

/-! ### The instructions -/

theorem nop : Statement (.nop) := by
  intro _ _ w he
  obtain rfl := Option.some.inj he
  rfl
theorem exit : Statement (.exit) := by
  intro _ _ w he
  obtain rfl := Option.some.inj he
  rfl
theorem yield : Statement (.yield) := by
  intro _ _ w he
  obtain rfl := Option.some.inj he
  rfl
theorem sleep (n : BitVec 7) : Statement (.sleep n) := by
  intro hw _ z he
  have F0 : fx z 26 6 = 0 := by rw [← Option.some.inj he, fx, bits_25_7_0 _ _ (by decide) (by decide)]; rfl
  have F1 : fx z 7 19 = 49152 := by rw [← Option.some.inj he, fx, bits_25_7_0 _ _ (by decide) (by decide)]; rfl
  have E0 : z.extractLsb' 0 7 = n := by rw [← Option.some.inj he, bits_25_7_1 _ _ (by decide) (by decide)]; exact ext_full n
  have N0 : (fx z 0 26 == 0) = false := sub_ne F1 (by decide) (by decide) (by decide)
  have N1 : (fx z 0 26 == 2097152) = false := sub_ne F1 (by decide) (by decide) (by decide)
  have N2 : (fx z 0 26 == 4194304) = false := sub_ne F1 (by decide) (by decide) (by decide)
  have N3 : (fx z 0 26 == 14680064) = false := sub_ne F1 (by decide) (by decide) (by decide)
  refine of_row hw F0 (by decide) ?_
  rw [decodeRow, F0]
  show decodeRow00 z = _
  rw [decodeRow00, N0, N1, N2, N3, F1, E0]
  rfl
theorem trap (n : BitVec 7) : Statement (.trap n) := by
  intro hw _ z he
  have F0 : fx z 26 6 = 0 := by rw [← Option.some.inj he, fx, bits_25_7_0 _ _ (by decide) (by decide)]; rfl
  have F1 : fx z 7 19 = 65536 := by rw [← Option.some.inj he, fx, bits_25_7_0 _ _ (by decide) (by decide)]; rfl
  have E0 : z.extractLsb' 0 7 = n := by rw [← Option.some.inj he, bits_25_7_1 _ _ (by decide) (by decide)]; exact ext_full n
  have N0 : (fx z 0 26 == 0) = false := sub_ne F1 (by decide) (by decide) (by decide)
  have N1 : (fx z 0 26 == 2097152) = false := sub_ne F1 (by decide) (by decide) (by decide)
  have N2 : (fx z 0 26 == 4194304) = false := sub_ne F1 (by decide) (by decide) (by decide)
  have N3 : (fx z 0 26 == 14680064) = false := sub_ne F1 (by decide) (by decide) (by decide)
  refine of_row hw F0 (by decide) ?_
  rw [decodeRow, F0]
  show decodeRow00 z = _
  rw [decodeRow00, N0, N1, N2, N3, F1, E0]
  rfl
theorem brk (n : BitVec 7) : Statement (.brk n) := by
  intro hw _ z he
  have F0 : fx z 26 6 = 0 := by rw [← Option.some.inj he, fx, bits_25_7_0 _ _ (by decide) (by decide)]; rfl
  have F1 : fx z 7 19 = 81920 := by rw [← Option.some.inj he, fx, bits_25_7_0 _ _ (by decide) (by decide)]; rfl
  have E0 : z.extractLsb' 0 7 = n := by rw [← Option.some.inj he, bits_25_7_1 _ _ (by decide) (by decide)]; exact ext_full n
  have N0 : (fx z 0 26 == 0) = false := sub_ne F1 (by decide) (by decide) (by decide)
  have N1 : (fx z 0 26 == 2097152) = false := sub_ne F1 (by decide) (by decide) (by decide)
  have N2 : (fx z 0 26 == 4194304) = false := sub_ne F1 (by decide) (by decide) (by decide)
  have N3 : (fx z 0 26 == 14680064) = false := sub_ne F1 (by decide) (by decide) (by decide)
  refine of_row hw F0 (by decide) ?_
  rw [decodeRow, F0]
  show decodeRow00 z = _
  rw [decodeRow00, N0, N1, N2, N3, F1, E0]
  rfl
theorem ipf (m : BitVec 7) (i : BitVec 7) : Statement (.ipf m i) := by
  intro hw _ z he
  have F0 : fx z 26 6 = 0 := by rw [← Option.some.inj he, fx, bits_11_7_7_7_0 _ _ (by decide) (by decide)]; rfl
  have F1 : fx z 21 5 = 6 := by rw [← Option.some.inj he, fx, bits_11_7_7_7_0 _ _ (by decide) (by decide)]; rfl
  have F2 : fx z 7 7 = 0 := by rw [← Option.some.inj he, fx, bits_11_7_7_7_2 _ _ (by decide) (by decide)]; rfl
  have E0 : z.extractLsb' 14 7 = m := by rw [← Option.some.inj he, bits_11_7_7_7_1 _ _ (by decide) (by decide)]; exact ext_full m
  have E1 : z.extractLsb' 0 7 = i := by rw [← Option.some.inj he, bits_11_7_7_7_3 _ _ (by decide) (by decide)]; exact ext_full i
  have N0 : (fx z 0 26 == 0) = false := sub_ne F1 (by decide) (by decide) (by decide)
  have N1 : (fx z 0 26 == 2097152) = false := sub_ne F1 (by decide) (by decide) (by decide)
  have N2 : (fx z 0 26 == 4194304) = false := sub_ne F1 (by decide) (by decide) (by decide)
  have N3 : (fx z 0 26 == 14680064) = false := sub_ne F1 (by decide) (by decide) (by decide)
  have N4 : (fx z 7 19 == 49152) = false := sub_ne F1 (by decide) (by decide) (by decide)
  have N5 : (fx z 7 19 == 65536) = false := sub_ne F1 (by decide) (by decide) (by decide)
  have N6 : (fx z 7 19 == 81920) = false := sub_ne F1 (by decide) (by decide) (by decide)
  refine of_row hw F0 (by decide) ?_
  rw [decodeRow, F0]
  show decodeRow00 z = _
  rw [decodeRow00, N0, N1, N2, N3, N4, N5, N6, F1, F2, E0, E1]
  rfl
theorem ipfInv : Statement (.ipfInv) := by
  intro _ _ w he
  obtain rfl := Option.some.inj he
  rfl
theorem sadd (d : BitVec 7) (a : BitVec 7) (b : BitVec 7) : Statement (.sadd d a b) := by
  intro hw _ z he
  have F0 : fx z 26 6 = 1 := by rw [← Option.some.inj he, fx, bits_11_7_7_7_0 _ _ (by decide) (by decide)]; rfl
  have F1 : fx z 21 5 = 0 := by rw [← Option.some.inj he, fx, bits_11_7_7_7_0 _ _ (by decide) (by decide)]; rfl
  have E0 : z.extractLsb' 14 7 = d := by rw [← Option.some.inj he, bits_11_7_7_7_1 _ _ (by decide) (by decide)]; exact ext_full d
  have E1 : z.extractLsb' 7 7 = a := by rw [← Option.some.inj he, bits_11_7_7_7_2 _ _ (by decide) (by decide)]; exact ext_full a
  have E2 : z.extractLsb' 0 7 = b := by rw [← Option.some.inj he, bits_11_7_7_7_3 _ _ (by decide) (by decide)]; exact ext_full b
  refine of_row hw F0 (by decide) ?_
  rw [decodeRow, F0]
  show decodeRow01 z = _
  rw [decodeRow01, F1, E0, E1, E2]
  rfl
theorem ssub (d : BitVec 7) (a : BitVec 7) (b : BitVec 7) : Statement (.ssub d a b) := by
  intro hw _ z he
  have F0 : fx z 26 6 = 1 := by rw [← Option.some.inj he, fx, bits_11_7_7_7_0 _ _ (by decide) (by decide)]; rfl
  have F1 : fx z 21 5 = 1 := by rw [← Option.some.inj he, fx, bits_11_7_7_7_0 _ _ (by decide) (by decide)]; rfl
  have E0 : z.extractLsb' 14 7 = d := by rw [← Option.some.inj he, bits_11_7_7_7_1 _ _ (by decide) (by decide)]; exact ext_full d
  have E1 : z.extractLsb' 7 7 = a := by rw [← Option.some.inj he, bits_11_7_7_7_2 _ _ (by decide) (by decide)]; exact ext_full a
  have E2 : z.extractLsb' 0 7 = b := by rw [← Option.some.inj he, bits_11_7_7_7_3 _ _ (by decide) (by decide)]; exact ext_full b
  refine of_row hw F0 (by decide) ?_
  rw [decodeRow, F0]
  show decodeRow01 z = _
  rw [decodeRow01, F1, E0, E1, E2]
  rfl
theorem smul (d : BitVec 7) (a : BitVec 7) (b : BitVec 7) : Statement (.smul d a b) := by
  intro hw _ z he
  have F0 : fx z 26 6 = 1 := by rw [← Option.some.inj he, fx, bits_11_7_7_7_0 _ _ (by decide) (by decide)]; rfl
  have F1 : fx z 21 5 = 2 := by rw [← Option.some.inj he, fx, bits_11_7_7_7_0 _ _ (by decide) (by decide)]; rfl
  have E0 : z.extractLsb' 14 7 = d := by rw [← Option.some.inj he, bits_11_7_7_7_1 _ _ (by decide) (by decide)]; exact ext_full d
  have E1 : z.extractLsb' 7 7 = a := by rw [← Option.some.inj he, bits_11_7_7_7_2 _ _ (by decide) (by decide)]; exact ext_full a
  have E2 : z.extractLsb' 0 7 = b := by rw [← Option.some.inj he, bits_11_7_7_7_3 _ _ (by decide) (by decide)]; exact ext_full b
  refine of_row hw F0 (by decide) ?_
  rw [decodeRow, F0]
  show decodeRow01 z = _
  rw [decodeRow01, F1, E0, E1, E2]
  rfl
theorem smulhiS32 (d : BitVec 7) (a : BitVec 7) (b : BitVec 7) : Statement (.smulhiS32 d a b) := by
  intro hw _ z he
  have F0 : fx z 26 6 = 1 := by rw [← Option.some.inj he, fx, bits_11_7_7_7_0 _ _ (by decide) (by decide)]; rfl
  have F1 : fx z 21 5 = 3 := by rw [← Option.some.inj he, fx, bits_11_7_7_7_0 _ _ (by decide) (by decide)]; rfl
  have E0 : z.extractLsb' 14 7 = d := by rw [← Option.some.inj he, bits_11_7_7_7_1 _ _ (by decide) (by decide)]; exact ext_full d
  have E1 : z.extractLsb' 7 7 = a := by rw [← Option.some.inj he, bits_11_7_7_7_2 _ _ (by decide) (by decide)]; exact ext_full a
  have E2 : z.extractLsb' 0 7 = b := by rw [← Option.some.inj he, bits_11_7_7_7_3 _ _ (by decide) (by decide)]; exact ext_full b
  refine of_row hw F0 (by decide) ?_
  rw [decodeRow, F0]
  show decodeRow01 z = _
  rw [decodeRow01, F1, E0, E1, E2]
  rfl
theorem smulhiU32 (d : BitVec 7) (a : BitVec 7) (b : BitVec 7) : Statement (.smulhiU32 d a b) := by
  intro hw _ z he
  have F0 : fx z 26 6 = 1 := by rw [← Option.some.inj he, fx, bits_11_7_7_7_0 _ _ (by decide) (by decide)]; rfl
  have F1 : fx z 21 5 = 4 := by rw [← Option.some.inj he, fx, bits_11_7_7_7_0 _ _ (by decide) (by decide)]; rfl
  have E0 : z.extractLsb' 14 7 = d := by rw [← Option.some.inj he, bits_11_7_7_7_1 _ _ (by decide) (by decide)]; exact ext_full d
  have E1 : z.extractLsb' 7 7 = a := by rw [← Option.some.inj he, bits_11_7_7_7_2 _ _ (by decide) (by decide)]; exact ext_full a
  have E2 : z.extractLsb' 0 7 = b := by rw [← Option.some.inj he, bits_11_7_7_7_3 _ _ (by decide) (by decide)]; exact ext_full b
  refine of_row hw F0 (by decide) ?_
  rw [decodeRow, F0]
  show decodeRow01 z = _
  rw [decodeRow01, F1, E0, E1, E2]
  rfl
theorem sand (d : BitVec 7) (a : BitVec 7) (b : BitVec 7) : Statement (.sand d a b) := by
  intro hw _ z he
  have F0 : fx z 26 6 = 1 := by rw [← Option.some.inj he, fx, bits_11_7_7_7_0 _ _ (by decide) (by decide)]; rfl
  have F1 : fx z 21 5 = 5 := by rw [← Option.some.inj he, fx, bits_11_7_7_7_0 _ _ (by decide) (by decide)]; rfl
  have E0 : z.extractLsb' 14 7 = d := by rw [← Option.some.inj he, bits_11_7_7_7_1 _ _ (by decide) (by decide)]; exact ext_full d
  have E1 : z.extractLsb' 7 7 = a := by rw [← Option.some.inj he, bits_11_7_7_7_2 _ _ (by decide) (by decide)]; exact ext_full a
  have E2 : z.extractLsb' 0 7 = b := by rw [← Option.some.inj he, bits_11_7_7_7_3 _ _ (by decide) (by decide)]; exact ext_full b
  refine of_row hw F0 (by decide) ?_
  rw [decodeRow, F0]
  show decodeRow01 z = _
  rw [decodeRow01, F1, E0, E1, E2]
  rfl
theorem sor (d : BitVec 7) (a : BitVec 7) (b : BitVec 7) : Statement (.sor d a b) := by
  intro hw _ z he
  have F0 : fx z 26 6 = 1 := by rw [← Option.some.inj he, fx, bits_11_7_7_7_0 _ _ (by decide) (by decide)]; rfl
  have F1 : fx z 21 5 = 6 := by rw [← Option.some.inj he, fx, bits_11_7_7_7_0 _ _ (by decide) (by decide)]; rfl
  have E0 : z.extractLsb' 14 7 = d := by rw [← Option.some.inj he, bits_11_7_7_7_1 _ _ (by decide) (by decide)]; exact ext_full d
  have E1 : z.extractLsb' 7 7 = a := by rw [← Option.some.inj he, bits_11_7_7_7_2 _ _ (by decide) (by decide)]; exact ext_full a
  have E2 : z.extractLsb' 0 7 = b := by rw [← Option.some.inj he, bits_11_7_7_7_3 _ _ (by decide) (by decide)]; exact ext_full b
  refine of_row hw F0 (by decide) ?_
  rw [decodeRow, F0]
  show decodeRow01 z = _
  rw [decodeRow01, F1, E0, E1, E2]
  rfl
theorem sxor (d : BitVec 7) (a : BitVec 7) (b : BitVec 7) : Statement (.sxor d a b) := by
  intro hw _ z he
  have F0 : fx z 26 6 = 1 := by rw [← Option.some.inj he, fx, bits_11_7_7_7_0 _ _ (by decide) (by decide)]; rfl
  have F1 : fx z 21 5 = 7 := by rw [← Option.some.inj he, fx, bits_11_7_7_7_0 _ _ (by decide) (by decide)]; rfl
  have E0 : z.extractLsb' 14 7 = d := by rw [← Option.some.inj he, bits_11_7_7_7_1 _ _ (by decide) (by decide)]; exact ext_full d
  have E1 : z.extractLsb' 7 7 = a := by rw [← Option.some.inj he, bits_11_7_7_7_2 _ _ (by decide) (by decide)]; exact ext_full a
  have E2 : z.extractLsb' 0 7 = b := by rw [← Option.some.inj he, bits_11_7_7_7_3 _ _ (by decide) (by decide)]; exact ext_full b
  refine of_row hw F0 (by decide) ?_
  rw [decodeRow, F0]
  show decodeRow01 z = _
  rw [decodeRow01, F1, E0, E1, E2]
  rfl
theorem sandn (d : BitVec 7) (a : BitVec 7) (b : BitVec 7) : Statement (.sandn d a b) := by
  intro hw _ z he
  have F0 : fx z 26 6 = 1 := by rw [← Option.some.inj he, fx, bits_11_7_7_7_0 _ _ (by decide) (by decide)]; rfl
  have F1 : fx z 21 5 = 8 := by rw [← Option.some.inj he, fx, bits_11_7_7_7_0 _ _ (by decide) (by decide)]; rfl
  have E0 : z.extractLsb' 14 7 = d := by rw [← Option.some.inj he, bits_11_7_7_7_1 _ _ (by decide) (by decide)]; exact ext_full d
  have E1 : z.extractLsb' 7 7 = a := by rw [← Option.some.inj he, bits_11_7_7_7_2 _ _ (by decide) (by decide)]; exact ext_full a
  have E2 : z.extractLsb' 0 7 = b := by rw [← Option.some.inj he, bits_11_7_7_7_3 _ _ (by decide) (by decide)]; exact ext_full b
  refine of_row hw F0 (by decide) ?_
  rw [decodeRow, F0]
  show decodeRow01 z = _
  rw [decodeRow01, F1, E0, E1, E2]
  rfl
theorem sshl (d : BitVec 7) (a : BitVec 7) (b : BitVec 7) : Statement (.sshl d a b) := by
  intro hw _ z he
  have F0 : fx z 26 6 = 1 := by rw [← Option.some.inj he, fx, bits_11_7_7_7_0 _ _ (by decide) (by decide)]; rfl
  have F1 : fx z 21 5 = 9 := by rw [← Option.some.inj he, fx, bits_11_7_7_7_0 _ _ (by decide) (by decide)]; rfl
  have E0 : z.extractLsb' 14 7 = d := by rw [← Option.some.inj he, bits_11_7_7_7_1 _ _ (by decide) (by decide)]; exact ext_full d
  have E1 : z.extractLsb' 7 7 = a := by rw [← Option.some.inj he, bits_11_7_7_7_2 _ _ (by decide) (by decide)]; exact ext_full a
  have E2 : z.extractLsb' 0 7 = b := by rw [← Option.some.inj he, bits_11_7_7_7_3 _ _ (by decide) (by decide)]; exact ext_full b
  refine of_row hw F0 (by decide) ?_
  rw [decodeRow, F0]
  show decodeRow01 z = _
  rw [decodeRow01, F1, E0, E1, E2]
  rfl
theorem sshr (d : BitVec 7) (a : BitVec 7) (b : BitVec 7) : Statement (.sshr d a b) := by
  intro hw _ z he
  have F0 : fx z 26 6 = 1 := by rw [← Option.some.inj he, fx, bits_11_7_7_7_0 _ _ (by decide) (by decide)]; rfl
  have F1 : fx z 21 5 = 10 := by rw [← Option.some.inj he, fx, bits_11_7_7_7_0 _ _ (by decide) (by decide)]; rfl
  have E0 : z.extractLsb' 14 7 = d := by rw [← Option.some.inj he, bits_11_7_7_7_1 _ _ (by decide) (by decide)]; exact ext_full d
  have E1 : z.extractLsb' 7 7 = a := by rw [← Option.some.inj he, bits_11_7_7_7_2 _ _ (by decide) (by decide)]; exact ext_full a
  have E2 : z.extractLsb' 0 7 = b := by rw [← Option.some.inj he, bits_11_7_7_7_3 _ _ (by decide) (by decide)]; exact ext_full b
  refine of_row hw F0 (by decide) ?_
  rw [decodeRow, F0]
  show decodeRow01 z = _
  rw [decodeRow01, F1, E0, E1, E2]
  rfl
theorem ssra (d : BitVec 7) (a : BitVec 7) (b : BitVec 7) : Statement (.ssra d a b) := by
  intro hw _ z he
  have F0 : fx z 26 6 = 1 := by rw [← Option.some.inj he, fx, bits_11_7_7_7_0 _ _ (by decide) (by decide)]; rfl
  have F1 : fx z 21 5 = 11 := by rw [← Option.some.inj he, fx, bits_11_7_7_7_0 _ _ (by decide) (by decide)]; rfl
  have E0 : z.extractLsb' 14 7 = d := by rw [← Option.some.inj he, bits_11_7_7_7_1 _ _ (by decide) (by decide)]; exact ext_full d
  have E1 : z.extractLsb' 7 7 = a := by rw [← Option.some.inj he, bits_11_7_7_7_2 _ _ (by decide) (by decide)]; exact ext_full a
  have E2 : z.extractLsb' 0 7 = b := by rw [← Option.some.inj he, bits_11_7_7_7_3 _ _ (by decide) (by decide)]; exact ext_full b
  refine of_row hw F0 (by decide) ?_
  rw [decodeRow, F0]
  show decodeRow01 z = _
  rw [decodeRow01, F1, E0, E1, E2]
  rfl
theorem sminS32 (d : BitVec 7) (a : BitVec 7) (b : BitVec 7) : Statement (.sminS32 d a b) := by
  intro hw _ z he
  have F0 : fx z 26 6 = 1 := by rw [← Option.some.inj he, fx, bits_11_7_7_7_0 _ _ (by decide) (by decide)]; rfl
  have F1 : fx z 21 5 = 12 := by rw [← Option.some.inj he, fx, bits_11_7_7_7_0 _ _ (by decide) (by decide)]; rfl
  have E0 : z.extractLsb' 14 7 = d := by rw [← Option.some.inj he, bits_11_7_7_7_1 _ _ (by decide) (by decide)]; exact ext_full d
  have E1 : z.extractLsb' 7 7 = a := by rw [← Option.some.inj he, bits_11_7_7_7_2 _ _ (by decide) (by decide)]; exact ext_full a
  have E2 : z.extractLsb' 0 7 = b := by rw [← Option.some.inj he, bits_11_7_7_7_3 _ _ (by decide) (by decide)]; exact ext_full b
  refine of_row hw F0 (by decide) ?_
  rw [decodeRow, F0]
  show decodeRow01 z = _
  rw [decodeRow01, F1, E0, E1, E2]
  rfl
theorem smaxS32 (d : BitVec 7) (a : BitVec 7) (b : BitVec 7) : Statement (.smaxS32 d a b) := by
  intro hw _ z he
  have F0 : fx z 26 6 = 1 := by rw [← Option.some.inj he, fx, bits_11_7_7_7_0 _ _ (by decide) (by decide)]; rfl
  have F1 : fx z 21 5 = 13 := by rw [← Option.some.inj he, fx, bits_11_7_7_7_0 _ _ (by decide) (by decide)]; rfl
  have E0 : z.extractLsb' 14 7 = d := by rw [← Option.some.inj he, bits_11_7_7_7_1 _ _ (by decide) (by decide)]; exact ext_full d
  have E1 : z.extractLsb' 7 7 = a := by rw [← Option.some.inj he, bits_11_7_7_7_2 _ _ (by decide) (by decide)]; exact ext_full a
  have E2 : z.extractLsb' 0 7 = b := by rw [← Option.some.inj he, bits_11_7_7_7_3 _ _ (by decide) (by decide)]; exact ext_full b
  refine of_row hw F0 (by decide) ?_
  rw [decodeRow, F0]
  show decodeRow01 z = _
  rw [decodeRow01, F1, E0, E1, E2]
  rfl
theorem sminU32 (d : BitVec 7) (a : BitVec 7) (b : BitVec 7) : Statement (.sminU32 d a b) := by
  intro hw _ z he
  have F0 : fx z 26 6 = 1 := by rw [← Option.some.inj he, fx, bits_11_7_7_7_0 _ _ (by decide) (by decide)]; rfl
  have F1 : fx z 21 5 = 14 := by rw [← Option.some.inj he, fx, bits_11_7_7_7_0 _ _ (by decide) (by decide)]; rfl
  have E0 : z.extractLsb' 14 7 = d := by rw [← Option.some.inj he, bits_11_7_7_7_1 _ _ (by decide) (by decide)]; exact ext_full d
  have E1 : z.extractLsb' 7 7 = a := by rw [← Option.some.inj he, bits_11_7_7_7_2 _ _ (by decide) (by decide)]; exact ext_full a
  have E2 : z.extractLsb' 0 7 = b := by rw [← Option.some.inj he, bits_11_7_7_7_3 _ _ (by decide) (by decide)]; exact ext_full b
  refine of_row hw F0 (by decide) ?_
  rw [decodeRow, F0]
  show decodeRow01 z = _
  rw [decodeRow01, F1, E0, E1, E2]
  rfl
theorem smaxU32 (d : BitVec 7) (a : BitVec 7) (b : BitVec 7) : Statement (.smaxU32 d a b) := by
  intro hw _ z he
  have F0 : fx z 26 6 = 1 := by rw [← Option.some.inj he, fx, bits_11_7_7_7_0 _ _ (by decide) (by decide)]; rfl
  have F1 : fx z 21 5 = 15 := by rw [← Option.some.inj he, fx, bits_11_7_7_7_0 _ _ (by decide) (by decide)]; rfl
  have E0 : z.extractLsb' 14 7 = d := by rw [← Option.some.inj he, bits_11_7_7_7_1 _ _ (by decide) (by decide)]; exact ext_full d
  have E1 : z.extractLsb' 7 7 = a := by rw [← Option.some.inj he, bits_11_7_7_7_2 _ _ (by decide) (by decide)]; exact ext_full a
  have E2 : z.extractLsb' 0 7 = b := by rw [← Option.some.inj he, bits_11_7_7_7_3 _ _ (by decide) (by decide)]; exact ext_full b
  refine of_row hw F0 (by decide) ?_
  rw [decodeRow, F0]
  show decodeRow01 z = _
  rw [decodeRow01, F1, E0, E1, E2]
  rfl
theorem sadd64 (d : BitVec 7) (a : BitVec 7) (b : BitVec 7) : Statement (.sadd64 d a b) := by
  intro hw _ z he
  have F0 : fx z 26 6 = 1 := by rw [← Option.some.inj he, fx, bits_11_7_7_7_0 _ _ (by decide) (by decide)]; rfl
  have F1 : fx z 21 5 = 16 := by rw [← Option.some.inj he, fx, bits_11_7_7_7_0 _ _ (by decide) (by decide)]; rfl
  have E0 : z.extractLsb' 14 7 = d := by rw [← Option.some.inj he, bits_11_7_7_7_1 _ _ (by decide) (by decide)]; exact ext_full d
  have E1 : z.extractLsb' 7 7 = a := by rw [← Option.some.inj he, bits_11_7_7_7_2 _ _ (by decide) (by decide)]; exact ext_full a
  have E2 : z.extractLsb' 0 7 = b := by rw [← Option.some.inj he, bits_11_7_7_7_3 _ _ (by decide) (by decide)]; exact ext_full b
  refine of_row hw F0 (by decide) ?_
  rw [decodeRow, F0]
  show decodeRow01 z = _
  rw [decodeRow01, F1, E0, E1, E2]
  rfl
theorem ssub64 (d : BitVec 7) (a : BitVec 7) (b : BitVec 7) : Statement (.ssub64 d a b) := by
  intro hw _ z he
  have F0 : fx z 26 6 = 1 := by rw [← Option.some.inj he, fx, bits_11_7_7_7_0 _ _ (by decide) (by decide)]; rfl
  have F1 : fx z 21 5 = 17 := by rw [← Option.some.inj he, fx, bits_11_7_7_7_0 _ _ (by decide) (by decide)]; rfl
  have E0 : z.extractLsb' 14 7 = d := by rw [← Option.some.inj he, bits_11_7_7_7_1 _ _ (by decide) (by decide)]; exact ext_full d
  have E1 : z.extractLsb' 7 7 = a := by rw [← Option.some.inj he, bits_11_7_7_7_2 _ _ (by decide) (by decide)]; exact ext_full a
  have E2 : z.extractLsb' 0 7 = b := by rw [← Option.some.inj he, bits_11_7_7_7_3 _ _ (by decide) (by decide)]; exact ext_full b
  refine of_row hw F0 (by decide) ?_
  rw [decodeRow, F0]
  show decodeRow01 z = _
  rw [decodeRow01, F1, E0, E1, E2]
  rfl
theorem saddI (d : BitVec 7) (a : BitVec 7) (i : BitVec 7) : Statement (.saddI d a i) := by
  intro hw _ z he
  have F0 : fx z 26 6 = 2 := by rw [← Option.some.inj he, fx, bits_11_7_7_7_0 _ _ (by decide) (by decide)]; rfl
  have F1 : fx z 21 5 = 0 := by rw [← Option.some.inj he, fx, bits_11_7_7_7_0 _ _ (by decide) (by decide)]; rfl
  have E0 : z.extractLsb' 14 7 = d := by rw [← Option.some.inj he, bits_11_7_7_7_1 _ _ (by decide) (by decide)]; exact ext_full d
  have E1 : z.extractLsb' 7 7 = a := by rw [← Option.some.inj he, bits_11_7_7_7_2 _ _ (by decide) (by decide)]; exact ext_full a
  have E2 : z.extractLsb' 0 7 = i := by rw [← Option.some.inj he, bits_11_7_7_7_3 _ _ (by decide) (by decide)]; exact ext_full i
  refine of_row hw F0 (by decide) ?_
  rw [decodeRow, F0]
  show decodeRow02 z = _
  rw [decodeRow02, F1, E0, E1, E2]
  rfl
theorem ssubI (d : BitVec 7) (a : BitVec 7) (i : BitVec 7) : Statement (.ssubI d a i) := by
  intro hw _ z he
  have F0 : fx z 26 6 = 2 := by rw [← Option.some.inj he, fx, bits_11_7_7_7_0 _ _ (by decide) (by decide)]; rfl
  have F1 : fx z 21 5 = 1 := by rw [← Option.some.inj he, fx, bits_11_7_7_7_0 _ _ (by decide) (by decide)]; rfl
  have E0 : z.extractLsb' 14 7 = d := by rw [← Option.some.inj he, bits_11_7_7_7_1 _ _ (by decide) (by decide)]; exact ext_full d
  have E1 : z.extractLsb' 7 7 = a := by rw [← Option.some.inj he, bits_11_7_7_7_2 _ _ (by decide) (by decide)]; exact ext_full a
  have E2 : z.extractLsb' 0 7 = i := by rw [← Option.some.inj he, bits_11_7_7_7_3 _ _ (by decide) (by decide)]; exact ext_full i
  refine of_row hw F0 (by decide) ?_
  rw [decodeRow, F0]
  show decodeRow02 z = _
  rw [decodeRow02, F1, E0, E1, E2]
  rfl
theorem smulI (d : BitVec 7) (a : BitVec 7) (i : BitVec 7) : Statement (.smulI d a i) := by
  intro hw _ z he
  have F0 : fx z 26 6 = 2 := by rw [← Option.some.inj he, fx, bits_11_7_7_7_0 _ _ (by decide) (by decide)]; rfl
  have F1 : fx z 21 5 = 2 := by rw [← Option.some.inj he, fx, bits_11_7_7_7_0 _ _ (by decide) (by decide)]; rfl
  have E0 : z.extractLsb' 14 7 = d := by rw [← Option.some.inj he, bits_11_7_7_7_1 _ _ (by decide) (by decide)]; exact ext_full d
  have E1 : z.extractLsb' 7 7 = a := by rw [← Option.some.inj he, bits_11_7_7_7_2 _ _ (by decide) (by decide)]; exact ext_full a
  have E2 : z.extractLsb' 0 7 = i := by rw [← Option.some.inj he, bits_11_7_7_7_3 _ _ (by decide) (by decide)]; exact ext_full i
  refine of_row hw F0 (by decide) ?_
  rw [decodeRow, F0]
  show decodeRow02 z = _
  rw [decodeRow02, F1, E0, E1, E2]
  rfl
theorem smulhiS32I (d : BitVec 7) (a : BitVec 7) (i : BitVec 7) : Statement (.smulhiS32I d a i) := by
  intro hw _ z he
  have F0 : fx z 26 6 = 2 := by rw [← Option.some.inj he, fx, bits_11_7_7_7_0 _ _ (by decide) (by decide)]; rfl
  have F1 : fx z 21 5 = 3 := by rw [← Option.some.inj he, fx, bits_11_7_7_7_0 _ _ (by decide) (by decide)]; rfl
  have E0 : z.extractLsb' 14 7 = d := by rw [← Option.some.inj he, bits_11_7_7_7_1 _ _ (by decide) (by decide)]; exact ext_full d
  have E1 : z.extractLsb' 7 7 = a := by rw [← Option.some.inj he, bits_11_7_7_7_2 _ _ (by decide) (by decide)]; exact ext_full a
  have E2 : z.extractLsb' 0 7 = i := by rw [← Option.some.inj he, bits_11_7_7_7_3 _ _ (by decide) (by decide)]; exact ext_full i
  refine of_row hw F0 (by decide) ?_
  rw [decodeRow, F0]
  show decodeRow02 z = _
  rw [decodeRow02, F1, E0, E1, E2]
  rfl
theorem smulhiU32I (d : BitVec 7) (a : BitVec 7) (i : BitVec 7) : Statement (.smulhiU32I d a i) := by
  intro hw _ z he
  have F0 : fx z 26 6 = 2 := by rw [← Option.some.inj he, fx, bits_11_7_7_7_0 _ _ (by decide) (by decide)]; rfl
  have F1 : fx z 21 5 = 4 := by rw [← Option.some.inj he, fx, bits_11_7_7_7_0 _ _ (by decide) (by decide)]; rfl
  have E0 : z.extractLsb' 14 7 = d := by rw [← Option.some.inj he, bits_11_7_7_7_1 _ _ (by decide) (by decide)]; exact ext_full d
  have E1 : z.extractLsb' 7 7 = a := by rw [← Option.some.inj he, bits_11_7_7_7_2 _ _ (by decide) (by decide)]; exact ext_full a
  have E2 : z.extractLsb' 0 7 = i := by rw [← Option.some.inj he, bits_11_7_7_7_3 _ _ (by decide) (by decide)]; exact ext_full i
  refine of_row hw F0 (by decide) ?_
  rw [decodeRow, F0]
  show decodeRow02 z = _
  rw [decodeRow02, F1, E0, E1, E2]
  rfl
theorem sandI (d : BitVec 7) (a : BitVec 7) (i : BitVec 7) : Statement (.sandI d a i) := by
  intro hw _ z he
  have F0 : fx z 26 6 = 2 := by rw [← Option.some.inj he, fx, bits_11_7_7_7_0 _ _ (by decide) (by decide)]; rfl
  have F1 : fx z 21 5 = 5 := by rw [← Option.some.inj he, fx, bits_11_7_7_7_0 _ _ (by decide) (by decide)]; rfl
  have E0 : z.extractLsb' 14 7 = d := by rw [← Option.some.inj he, bits_11_7_7_7_1 _ _ (by decide) (by decide)]; exact ext_full d
  have E1 : z.extractLsb' 7 7 = a := by rw [← Option.some.inj he, bits_11_7_7_7_2 _ _ (by decide) (by decide)]; exact ext_full a
  have E2 : z.extractLsb' 0 7 = i := by rw [← Option.some.inj he, bits_11_7_7_7_3 _ _ (by decide) (by decide)]; exact ext_full i
  refine of_row hw F0 (by decide) ?_
  rw [decodeRow, F0]
  show decodeRow02 z = _
  rw [decodeRow02, F1, E0, E1, E2]
  rfl
theorem sorI (d : BitVec 7) (a : BitVec 7) (i : BitVec 7) : Statement (.sorI d a i) := by
  intro hw _ z he
  have F0 : fx z 26 6 = 2 := by rw [← Option.some.inj he, fx, bits_11_7_7_7_0 _ _ (by decide) (by decide)]; rfl
  have F1 : fx z 21 5 = 6 := by rw [← Option.some.inj he, fx, bits_11_7_7_7_0 _ _ (by decide) (by decide)]; rfl
  have E0 : z.extractLsb' 14 7 = d := by rw [← Option.some.inj he, bits_11_7_7_7_1 _ _ (by decide) (by decide)]; exact ext_full d
  have E1 : z.extractLsb' 7 7 = a := by rw [← Option.some.inj he, bits_11_7_7_7_2 _ _ (by decide) (by decide)]; exact ext_full a
  have E2 : z.extractLsb' 0 7 = i := by rw [← Option.some.inj he, bits_11_7_7_7_3 _ _ (by decide) (by decide)]; exact ext_full i
  refine of_row hw F0 (by decide) ?_
  rw [decodeRow, F0]
  show decodeRow02 z = _
  rw [decodeRow02, F1, E0, E1, E2]
  rfl
theorem sxorI (d : BitVec 7) (a : BitVec 7) (i : BitVec 7) : Statement (.sxorI d a i) := by
  intro hw _ z he
  have F0 : fx z 26 6 = 2 := by rw [← Option.some.inj he, fx, bits_11_7_7_7_0 _ _ (by decide) (by decide)]; rfl
  have F1 : fx z 21 5 = 7 := by rw [← Option.some.inj he, fx, bits_11_7_7_7_0 _ _ (by decide) (by decide)]; rfl
  have E0 : z.extractLsb' 14 7 = d := by rw [← Option.some.inj he, bits_11_7_7_7_1 _ _ (by decide) (by decide)]; exact ext_full d
  have E1 : z.extractLsb' 7 7 = a := by rw [← Option.some.inj he, bits_11_7_7_7_2 _ _ (by decide) (by decide)]; exact ext_full a
  have E2 : z.extractLsb' 0 7 = i := by rw [← Option.some.inj he, bits_11_7_7_7_3 _ _ (by decide) (by decide)]; exact ext_full i
  refine of_row hw F0 (by decide) ?_
  rw [decodeRow, F0]
  show decodeRow02 z = _
  rw [decodeRow02, F1, E0, E1, E2]
  rfl
theorem sandnI (d : BitVec 7) (a : BitVec 7) (i : BitVec 7) : Statement (.sandnI d a i) := by
  intro hw _ z he
  have F0 : fx z 26 6 = 2 := by rw [← Option.some.inj he, fx, bits_11_7_7_7_0 _ _ (by decide) (by decide)]; rfl
  have F1 : fx z 21 5 = 8 := by rw [← Option.some.inj he, fx, bits_11_7_7_7_0 _ _ (by decide) (by decide)]; rfl
  have E0 : z.extractLsb' 14 7 = d := by rw [← Option.some.inj he, bits_11_7_7_7_1 _ _ (by decide) (by decide)]; exact ext_full d
  have E1 : z.extractLsb' 7 7 = a := by rw [← Option.some.inj he, bits_11_7_7_7_2 _ _ (by decide) (by decide)]; exact ext_full a
  have E2 : z.extractLsb' 0 7 = i := by rw [← Option.some.inj he, bits_11_7_7_7_3 _ _ (by decide) (by decide)]; exact ext_full i
  refine of_row hw F0 (by decide) ?_
  rw [decodeRow, F0]
  show decodeRow02 z = _
  rw [decodeRow02, F1, E0, E1, E2]
  rfl
theorem sshlI (d : BitVec 7) (a : BitVec 7) (i : BitVec 7) : Statement (.sshlI d a i) := by
  intro hw _ z he
  have F0 : fx z 26 6 = 2 := by rw [← Option.some.inj he, fx, bits_11_7_7_7_0 _ _ (by decide) (by decide)]; rfl
  have F1 : fx z 21 5 = 9 := by rw [← Option.some.inj he, fx, bits_11_7_7_7_0 _ _ (by decide) (by decide)]; rfl
  have E0 : z.extractLsb' 14 7 = d := by rw [← Option.some.inj he, bits_11_7_7_7_1 _ _ (by decide) (by decide)]; exact ext_full d
  have E1 : z.extractLsb' 7 7 = a := by rw [← Option.some.inj he, bits_11_7_7_7_2 _ _ (by decide) (by decide)]; exact ext_full a
  have E2 : z.extractLsb' 0 7 = i := by rw [← Option.some.inj he, bits_11_7_7_7_3 _ _ (by decide) (by decide)]; exact ext_full i
  refine of_row hw F0 (by decide) ?_
  rw [decodeRow, F0]
  show decodeRow02 z = _
  rw [decodeRow02, F1, E0, E1, E2]
  rfl
theorem sshrI (d : BitVec 7) (a : BitVec 7) (i : BitVec 7) : Statement (.sshrI d a i) := by
  intro hw _ z he
  have F0 : fx z 26 6 = 2 := by rw [← Option.some.inj he, fx, bits_11_7_7_7_0 _ _ (by decide) (by decide)]; rfl
  have F1 : fx z 21 5 = 10 := by rw [← Option.some.inj he, fx, bits_11_7_7_7_0 _ _ (by decide) (by decide)]; rfl
  have E0 : z.extractLsb' 14 7 = d := by rw [← Option.some.inj he, bits_11_7_7_7_1 _ _ (by decide) (by decide)]; exact ext_full d
  have E1 : z.extractLsb' 7 7 = a := by rw [← Option.some.inj he, bits_11_7_7_7_2 _ _ (by decide) (by decide)]; exact ext_full a
  have E2 : z.extractLsb' 0 7 = i := by rw [← Option.some.inj he, bits_11_7_7_7_3 _ _ (by decide) (by decide)]; exact ext_full i
  refine of_row hw F0 (by decide) ?_
  rw [decodeRow, F0]
  show decodeRow02 z = _
  rw [decodeRow02, F1, E0, E1, E2]
  rfl
theorem ssraI (d : BitVec 7) (a : BitVec 7) (i : BitVec 7) : Statement (.ssraI d a i) := by
  intro hw _ z he
  have F0 : fx z 26 6 = 2 := by rw [← Option.some.inj he, fx, bits_11_7_7_7_0 _ _ (by decide) (by decide)]; rfl
  have F1 : fx z 21 5 = 11 := by rw [← Option.some.inj he, fx, bits_11_7_7_7_0 _ _ (by decide) (by decide)]; rfl
  have E0 : z.extractLsb' 14 7 = d := by rw [← Option.some.inj he, bits_11_7_7_7_1 _ _ (by decide) (by decide)]; exact ext_full d
  have E1 : z.extractLsb' 7 7 = a := by rw [← Option.some.inj he, bits_11_7_7_7_2 _ _ (by decide) (by decide)]; exact ext_full a
  have E2 : z.extractLsb' 0 7 = i := by rw [← Option.some.inj he, bits_11_7_7_7_3 _ _ (by decide) (by decide)]; exact ext_full i
  refine of_row hw F0 (by decide) ?_
  rw [decodeRow, F0]
  show decodeRow02 z = _
  rw [decodeRow02, F1, E0, E1, E2]
  rfl
theorem sminS32I (d : BitVec 7) (a : BitVec 7) (i : BitVec 7) : Statement (.sminS32I d a i) := by
  intro hw _ z he
  have F0 : fx z 26 6 = 2 := by rw [← Option.some.inj he, fx, bits_11_7_7_7_0 _ _ (by decide) (by decide)]; rfl
  have F1 : fx z 21 5 = 12 := by rw [← Option.some.inj he, fx, bits_11_7_7_7_0 _ _ (by decide) (by decide)]; rfl
  have E0 : z.extractLsb' 14 7 = d := by rw [← Option.some.inj he, bits_11_7_7_7_1 _ _ (by decide) (by decide)]; exact ext_full d
  have E1 : z.extractLsb' 7 7 = a := by rw [← Option.some.inj he, bits_11_7_7_7_2 _ _ (by decide) (by decide)]; exact ext_full a
  have E2 : z.extractLsb' 0 7 = i := by rw [← Option.some.inj he, bits_11_7_7_7_3 _ _ (by decide) (by decide)]; exact ext_full i
  refine of_row hw F0 (by decide) ?_
  rw [decodeRow, F0]
  show decodeRow02 z = _
  rw [decodeRow02, F1, E0, E1, E2]
  rfl
theorem smaxS32I (d : BitVec 7) (a : BitVec 7) (i : BitVec 7) : Statement (.smaxS32I d a i) := by
  intro hw _ z he
  have F0 : fx z 26 6 = 2 := by rw [← Option.some.inj he, fx, bits_11_7_7_7_0 _ _ (by decide) (by decide)]; rfl
  have F1 : fx z 21 5 = 13 := by rw [← Option.some.inj he, fx, bits_11_7_7_7_0 _ _ (by decide) (by decide)]; rfl
  have E0 : z.extractLsb' 14 7 = d := by rw [← Option.some.inj he, bits_11_7_7_7_1 _ _ (by decide) (by decide)]; exact ext_full d
  have E1 : z.extractLsb' 7 7 = a := by rw [← Option.some.inj he, bits_11_7_7_7_2 _ _ (by decide) (by decide)]; exact ext_full a
  have E2 : z.extractLsb' 0 7 = i := by rw [← Option.some.inj he, bits_11_7_7_7_3 _ _ (by decide) (by decide)]; exact ext_full i
  refine of_row hw F0 (by decide) ?_
  rw [decodeRow, F0]
  show decodeRow02 z = _
  rw [decodeRow02, F1, E0, E1, E2]
  rfl
theorem sminU32I (d : BitVec 7) (a : BitVec 7) (i : BitVec 7) : Statement (.sminU32I d a i) := by
  intro hw _ z he
  have F0 : fx z 26 6 = 2 := by rw [← Option.some.inj he, fx, bits_11_7_7_7_0 _ _ (by decide) (by decide)]; rfl
  have F1 : fx z 21 5 = 14 := by rw [← Option.some.inj he, fx, bits_11_7_7_7_0 _ _ (by decide) (by decide)]; rfl
  have E0 : z.extractLsb' 14 7 = d := by rw [← Option.some.inj he, bits_11_7_7_7_1 _ _ (by decide) (by decide)]; exact ext_full d
  have E1 : z.extractLsb' 7 7 = a := by rw [← Option.some.inj he, bits_11_7_7_7_2 _ _ (by decide) (by decide)]; exact ext_full a
  have E2 : z.extractLsb' 0 7 = i := by rw [← Option.some.inj he, bits_11_7_7_7_3 _ _ (by decide) (by decide)]; exact ext_full i
  refine of_row hw F0 (by decide) ?_
  rw [decodeRow, F0]
  show decodeRow02 z = _
  rw [decodeRow02, F1, E0, E1, E2]
  rfl
theorem smaxU32I (d : BitVec 7) (a : BitVec 7) (i : BitVec 7) : Statement (.smaxU32I d a i) := by
  intro hw _ z he
  have F0 : fx z 26 6 = 2 := by rw [← Option.some.inj he, fx, bits_11_7_7_7_0 _ _ (by decide) (by decide)]; rfl
  have F1 : fx z 21 5 = 15 := by rw [← Option.some.inj he, fx, bits_11_7_7_7_0 _ _ (by decide) (by decide)]; rfl
  have E0 : z.extractLsb' 14 7 = d := by rw [← Option.some.inj he, bits_11_7_7_7_1 _ _ (by decide) (by decide)]; exact ext_full d
  have E1 : z.extractLsb' 7 7 = a := by rw [← Option.some.inj he, bits_11_7_7_7_2 _ _ (by decide) (by decide)]; exact ext_full a
  have E2 : z.extractLsb' 0 7 = i := by rw [← Option.some.inj he, bits_11_7_7_7_3 _ _ (by decide) (by decide)]; exact ext_full i
  refine of_row hw F0 (by decide) ?_
  rw [decodeRow, F0]
  show decodeRow02 z = _
  rw [decodeRow02, F1, E0, E1, E2]
  rfl
theorem scmp (c : BitVec 4) (d : BitVec 3) (a : BitVec 7) (b : BitVec 7) : Statement (.scmp c d a b) := by
  intro hw _ z he
  have F0 : fx z 26 6 = 3 := by rw [← Option.some.inj he, fx, bits_6_4_2_3_3_7_7_0 _ _ (by decide) (by decide)]; rfl
  have F1 : fx z 22 4 = c.toNat := by rw [← Option.some.inj he, fx, bits_6_4_2_3_3_7_7_1 _ _ (by decide) (by decide)]; exact congrArg BitVec.toNat (ext_full c)
  have F2 : fx z 20 2 = 0 := by rw [← Option.some.inj he, fx, bits_6_4_2_3_3_7_7_2 _ _ (by decide) (by decide)]; rfl
  have F3 : fx z 14 3 = 0 := by rw [← Option.some.inj he, fx, bits_6_4_2_3_3_7_7_4 _ _ (by decide) (by decide)]; rfl
  have E0 : z.extractLsb' 22 4 = c := by rw [← Option.some.inj he, bits_6_4_2_3_3_7_7_1 _ _ (by decide) (by decide)]; exact ext_full c
  have E1 : z.extractLsb' 17 3 = d := by rw [← Option.some.inj he, bits_6_4_2_3_3_7_7_3 _ _ (by decide) (by decide)]; exact ext_full d
  have E2 : z.extractLsb' 7 7 = a := by rw [← Option.some.inj he, bits_6_4_2_3_3_7_7_5 _ _ (by decide) (by decide)]; exact ext_full a
  have E3 : z.extractLsb' 0 7 = b := by rw [← Option.some.inj he, bits_6_4_2_3_3_7_7_6 _ _ (by decide) (by decide)]; exact ext_full b
  have q := hw
  simp only [Instr.wf, even, predOk, Bool.and_eq_true, decide_eq_true_eq, beq_iff_eq, bne_iff_ne] at q
  have N0 : (fx z 20 6 == 40) = false := sub_ne F1 (by decide) (by decide) (by omega)
  have N1 : (fx z 20 6 == 44) = false := sub_ne F1 (by decide) (by decide) (by omega)
  have N2 : (fx z 20 6 == 48) = false := sub_ne F1 (by decide) (by decide) (by omega)
  have N3 : (fx z 20 6 == 52) = false := sub_ne F1 (by decide) (by decide) (by omega)
  refine of_row hw F0 (by decide) ?_
  rw [decodeRow, F0]
  show decodeRow03 z = _
  rw [decodeRow03, N0, N1, N2, N3, F2, F3, E0, E1, E2, E3]
  rfl
theorem scmpI (c : BitVec 4) (d : BitVec 3) (a : BitVec 7) (i : BitVec 7) : Statement (.scmpI c d a i) := by
  intro hw _ z he
  have F0 : fx z 26 6 = 3 := by rw [← Option.some.inj he, fx, bits_6_4_2_3_3_7_7_0 _ _ (by decide) (by decide)]; rfl
  have F1 : fx z 20 2 = 2 := by rw [← Option.some.inj he, fx, bits_6_4_2_3_3_7_7_2 _ _ (by decide) (by decide)]; rfl
  have F2 : fx z 14 3 = 0 := by rw [← Option.some.inj he, fx, bits_6_4_2_3_3_7_7_4 _ _ (by decide) (by decide)]; rfl
  have E0 : z.extractLsb' 22 4 = c := by rw [← Option.some.inj he, bits_6_4_2_3_3_7_7_1 _ _ (by decide) (by decide)]; exact ext_full c
  have E1 : z.extractLsb' 17 3 = d := by rw [← Option.some.inj he, bits_6_4_2_3_3_7_7_3 _ _ (by decide) (by decide)]; exact ext_full d
  have E2 : z.extractLsb' 7 7 = a := by rw [← Option.some.inj he, bits_6_4_2_3_3_7_7_5 _ _ (by decide) (by decide)]; exact ext_full a
  have E3 : z.extractLsb' 0 7 = i := by rw [← Option.some.inj he, bits_6_4_2_3_3_7_7_6 _ _ (by decide) (by decide)]; exact ext_full i
  have N0 : (fx z 20 6 == 40) = false := sub_ne F1 (by decide) (by decide) (by decide)
  have N1 : (fx z 20 6 == 44) = false := sub_ne F1 (by decide) (by decide) (by decide)
  have N2 : (fx z 20 6 == 48) = false := sub_ne F1 (by decide) (by decide) (by decide)
  have N3 : (fx z 20 6 == 52) = false := sub_ne F1 (by decide) (by decide) (by decide)
  refine of_row hw F0 (by decide) ?_
  rw [decodeRow, F0]
  show decodeRow03 z = _
  rw [decodeRow03, N0, N1, N2, N3, F1, F2, E0, E1, E2, E3]
  rfl
theorem cand (d : BitVec 3) (a : BitVec 3) (b : BitVec 3) : Statement (.cand d a b) := by
  intro hw _ z he
  have F0 : fx z 26 6 = 3 := by rw [← Option.some.inj he, fx, bits_12_3_7_3_4_3_0 _ _ (by decide) (by decide)]; rfl
  have F1 : fx z 20 6 = 40 := by rw [← Option.some.inj he, fx, bits_12_3_7_3_4_3_0 _ _ (by decide) (by decide)]; rfl
  have F2 : fx z 10 7 = 0 := by rw [← Option.some.inj he, fx, bits_12_3_7_3_4_3_2 _ _ (by decide) (by decide)]; rfl
  have F3 : fx z 3 4 = 0 := by rw [← Option.some.inj he, fx, bits_12_3_7_3_4_3_4 _ _ (by decide) (by decide)]; rfl
  have E0 : z.extractLsb' 17 3 = d := by rw [← Option.some.inj he, bits_12_3_7_3_4_3_1 _ _ (by decide) (by decide)]; exact ext_full d
  have E1 : z.extractLsb' 7 3 = a := by rw [← Option.some.inj he, bits_12_3_7_3_4_3_3 _ _ (by decide) (by decide)]; exact ext_full a
  have E2 : z.extractLsb' 0 3 = b := by rw [← Option.some.inj he, bits_12_3_7_3_4_3_5 _ _ (by decide) (by decide)]; exact ext_full b
  refine of_row hw F0 (by decide) ?_
  rw [decodeRow, F0]
  show decodeRow03 z = _
  rw [decodeRow03, F1, F2, F3, E0, E1, E2]
  rfl
theorem cor (d : BitVec 3) (a : BitVec 3) (b : BitVec 3) : Statement (.cor d a b) := by
  intro hw _ z he
  have F0 : fx z 26 6 = 3 := by rw [← Option.some.inj he, fx, bits_12_3_7_3_4_3_0 _ _ (by decide) (by decide)]; rfl
  have F1 : fx z 20 6 = 44 := by rw [← Option.some.inj he, fx, bits_12_3_7_3_4_3_0 _ _ (by decide) (by decide)]; rfl
  have F2 : fx z 10 7 = 0 := by rw [← Option.some.inj he, fx, bits_12_3_7_3_4_3_2 _ _ (by decide) (by decide)]; rfl
  have F3 : fx z 3 4 = 0 := by rw [← Option.some.inj he, fx, bits_12_3_7_3_4_3_4 _ _ (by decide) (by decide)]; rfl
  have E0 : z.extractLsb' 17 3 = d := by rw [← Option.some.inj he, bits_12_3_7_3_4_3_1 _ _ (by decide) (by decide)]; exact ext_full d
  have E1 : z.extractLsb' 7 3 = a := by rw [← Option.some.inj he, bits_12_3_7_3_4_3_3 _ _ (by decide) (by decide)]; exact ext_full a
  have E2 : z.extractLsb' 0 3 = b := by rw [← Option.some.inj he, bits_12_3_7_3_4_3_5 _ _ (by decide) (by decide)]; exact ext_full b
  refine of_row hw F0 (by decide) ?_
  rw [decodeRow, F0]
  show decodeRow03 z = _
  rw [decodeRow03, F1, F2, F3, E0, E1, E2]
  rfl
theorem cxor (d : BitVec 3) (a : BitVec 3) (b : BitVec 3) : Statement (.cxor d a b) := by
  intro hw _ z he
  have F0 : fx z 26 6 = 3 := by rw [← Option.some.inj he, fx, bits_12_3_7_3_4_3_0 _ _ (by decide) (by decide)]; rfl
  have F1 : fx z 20 6 = 48 := by rw [← Option.some.inj he, fx, bits_12_3_7_3_4_3_0 _ _ (by decide) (by decide)]; rfl
  have F2 : fx z 10 7 = 0 := by rw [← Option.some.inj he, fx, bits_12_3_7_3_4_3_2 _ _ (by decide) (by decide)]; rfl
  have F3 : fx z 3 4 = 0 := by rw [← Option.some.inj he, fx, bits_12_3_7_3_4_3_4 _ _ (by decide) (by decide)]; rfl
  have E0 : z.extractLsb' 17 3 = d := by rw [← Option.some.inj he, bits_12_3_7_3_4_3_1 _ _ (by decide) (by decide)]; exact ext_full d
  have E1 : z.extractLsb' 7 3 = a := by rw [← Option.some.inj he, bits_12_3_7_3_4_3_3 _ _ (by decide) (by decide)]; exact ext_full a
  have E2 : z.extractLsb' 0 3 = b := by rw [← Option.some.inj he, bits_12_3_7_3_4_3_5 _ _ (by decide) (by decide)]; exact ext_full b
  refine of_row hw F0 (by decide) ?_
  rw [decodeRow, F0]
  show decodeRow03 z = _
  rw [decodeRow03, F1, F2, F3, E0, E1, E2]
  rfl
theorem candn (d : BitVec 3) (a : BitVec 3) (b : BitVec 3) : Statement (.candn d a b) := by
  intro hw _ z he
  have F0 : fx z 26 6 = 3 := by rw [← Option.some.inj he, fx, bits_12_3_7_3_4_3_0 _ _ (by decide) (by decide)]; rfl
  have F1 : fx z 20 6 = 52 := by rw [← Option.some.inj he, fx, bits_12_3_7_3_4_3_0 _ _ (by decide) (by decide)]; rfl
  have F2 : fx z 10 7 = 0 := by rw [← Option.some.inj he, fx, bits_12_3_7_3_4_3_2 _ _ (by decide) (by decide)]; rfl
  have F3 : fx z 3 4 = 0 := by rw [← Option.some.inj he, fx, bits_12_3_7_3_4_3_4 _ _ (by decide) (by decide)]; rfl
  have E0 : z.extractLsb' 17 3 = d := by rw [← Option.some.inj he, bits_12_3_7_3_4_3_1 _ _ (by decide) (by decide)]; exact ext_full d
  have E1 : z.extractLsb' 7 3 = a := by rw [← Option.some.inj he, bits_12_3_7_3_4_3_3 _ _ (by decide) (by decide)]; exact ext_full a
  have E2 : z.extractLsb' 0 3 = b := by rw [← Option.some.inj he, bits_12_3_7_3_4_3_5 _ _ (by decide) (by decide)]; exact ext_full b
  refine of_row hw F0 (by decide) ?_
  rw [decodeRow, F0]
  show decodeRow03 z = _
  rw [decodeRow03, F1, F2, F3, E0, E1, E2]
  rfl
theorem smov (d : BitVec 7) (a : BitVec 7) : Statement (.smov d a) := by
  intro hw _ z he
  have F0 : fx z 26 6 = 4 := by rw [← Option.some.inj he, fx, bits_11_7_7_7_0 _ _ (by decide) (by decide)]; rfl
  have F1 : fx z 21 5 = 0 := by rw [← Option.some.inj he, fx, bits_11_7_7_7_0 _ _ (by decide) (by decide)]; rfl
  have F2 : fx z 0 7 = 0 := by rw [← Option.some.inj he, fx, bits_11_7_7_7_3 _ _ (by decide) (by decide)]; rfl
  have E0 : z.extractLsb' 14 7 = d := by rw [← Option.some.inj he, bits_11_7_7_7_1 _ _ (by decide) (by decide)]; exact ext_full d
  have E1 : z.extractLsb' 7 7 = a := by rw [← Option.some.inj he, bits_11_7_7_7_2 _ _ (by decide) (by decide)]; exact ext_full a
  refine of_row hw F0 (by decide) ?_
  rw [decodeRow, F0]
  show decodeRow04 z = _
  rw [decodeRow04, F1, F2, E0, E1]
  rfl
theorem sli (d : BitVec 7) (i : BitVec 7) : Statement (.sli d i) := by
  intro hw _ z he
  have F0 : fx z 26 6 = 4 := by rw [← Option.some.inj he, fx, bits_11_7_7_7_0 _ _ (by decide) (by decide)]; rfl
  have F1 : fx z 21 5 = 1 := by rw [← Option.some.inj he, fx, bits_11_7_7_7_0 _ _ (by decide) (by decide)]; rfl
  have F2 : fx z 7 7 = 0 := by rw [← Option.some.inj he, fx, bits_11_7_7_7_2 _ _ (by decide) (by decide)]; rfl
  have E0 : z.extractLsb' 14 7 = d := by rw [← Option.some.inj he, bits_11_7_7_7_1 _ _ (by decide) (by decide)]; exact ext_full d
  have E1 : z.extractLsb' 0 7 = i := by rw [← Option.some.inj he, bits_11_7_7_7_3 _ _ (by decide) (by decide)]; exact ext_full i
  refine of_row hw F0 (by decide) ?_
  rw [decodeRow, F0]
  show decodeRow04 z = _
  rw [decodeRow04, F1, F2, E0, E1]
  rfl
theorem sbfxU32 (d : BitVec 7) (a : BitVec 7) (b : BitVec 7) : Statement (.sbfxU32 d a b) := by
  intro hw _ z he
  have F0 : fx z 26 6 = 4 := by rw [← Option.some.inj he, fx, bits_11_7_7_7_0 _ _ (by decide) (by decide)]; rfl
  have F1 : fx z 21 5 = 2 := by rw [← Option.some.inj he, fx, bits_11_7_7_7_0 _ _ (by decide) (by decide)]; rfl
  have E0 : z.extractLsb' 14 7 = d := by rw [← Option.some.inj he, bits_11_7_7_7_1 _ _ (by decide) (by decide)]; exact ext_full d
  have E1 : z.extractLsb' 7 7 = a := by rw [← Option.some.inj he, bits_11_7_7_7_2 _ _ (by decide) (by decide)]; exact ext_full a
  have E2 : z.extractLsb' 0 7 = b := by rw [← Option.some.inj he, bits_11_7_7_7_3 _ _ (by decide) (by decide)]; exact ext_full b
  refine of_row hw F0 (by decide) ?_
  rw [decodeRow, F0]
  show decodeRow04 z = _
  rw [decodeRow04, F1, E0, E1, E2]
  rfl
theorem sbfxS32 (d : BitVec 7) (a : BitVec 7) (b : BitVec 7) : Statement (.sbfxS32 d a b) := by
  intro hw _ z he
  have F0 : fx z 26 6 = 4 := by rw [← Option.some.inj he, fx, bits_11_7_7_7_0 _ _ (by decide) (by decide)]; rfl
  have F1 : fx z 21 5 = 3 := by rw [← Option.some.inj he, fx, bits_11_7_7_7_0 _ _ (by decide) (by decide)]; rfl
  have E0 : z.extractLsb' 14 7 = d := by rw [← Option.some.inj he, bits_11_7_7_7_1 _ _ (by decide) (by decide)]; exact ext_full d
  have E1 : z.extractLsb' 7 7 = a := by rw [← Option.some.inj he, bits_11_7_7_7_2 _ _ (by decide) (by decide)]; exact ext_full a
  have E2 : z.extractLsb' 0 7 = b := by rw [← Option.some.inj he, bits_11_7_7_7_3 _ _ (by decide) (by decide)]; exact ext_full b
  refine of_row hw F0 (by decide) ?_
  rw [decodeRow, F0]
  show decodeRow04 z = _
  rw [decodeRow04, F1, E0, E1, E2]
  rfl
theorem sbfi (d : BitVec 7) (a : BitVec 7) (b : BitVec 7) : Statement (.sbfi d a b) := by
  intro hw _ z he
  have F0 : fx z 26 6 = 4 := by rw [← Option.some.inj he, fx, bits_11_7_7_7_0 _ _ (by decide) (by decide)]; rfl
  have F1 : fx z 21 5 = 4 := by rw [← Option.some.inj he, fx, bits_11_7_7_7_0 _ _ (by decide) (by decide)]; rfl
  have E0 : z.extractLsb' 14 7 = d := by rw [← Option.some.inj he, bits_11_7_7_7_1 _ _ (by decide) (by decide)]; exact ext_full d
  have E1 : z.extractLsb' 7 7 = a := by rw [← Option.some.inj he, bits_11_7_7_7_2 _ _ (by decide) (by decide)]; exact ext_full a
  have E2 : z.extractLsb' 0 7 = b := by rw [← Option.some.inj he, bits_11_7_7_7_3 _ _ (by decide) (by decide)]; exact ext_full b
  refine of_row hw F0 (by decide) ?_
  rw [decodeRow, F0]
  show decodeRow04 z = _
  rw [decodeRow04, F1, E0, E1, E2]
  rfl
theorem spopc (d : BitVec 7) (a : BitVec 7) : Statement (.spopc d a) := by
  intro hw _ z he
  have F0 : fx z 26 6 = 4 := by rw [← Option.some.inj he, fx, bits_11_7_7_7_0 _ _ (by decide) (by decide)]; rfl
  have F1 : fx z 21 5 = 5 := by rw [← Option.some.inj he, fx, bits_11_7_7_7_0 _ _ (by decide) (by decide)]; rfl
  have F2 : fx z 0 7 = 0 := by rw [← Option.some.inj he, fx, bits_11_7_7_7_3 _ _ (by decide) (by decide)]; rfl
  have E0 : z.extractLsb' 14 7 = d := by rw [← Option.some.inj he, bits_11_7_7_7_1 _ _ (by decide) (by decide)]; exact ext_full d
  have E1 : z.extractLsb' 7 7 = a := by rw [← Option.some.inj he, bits_11_7_7_7_2 _ _ (by decide) (by decide)]; exact ext_full a
  refine of_row hw F0 (by decide) ?_
  rw [decodeRow, F0]
  show decodeRow04 z = _
  rw [decodeRow04, F1, F2, E0, E1]
  rfl
theorem sclz (d : BitVec 7) (a : BitVec 7) : Statement (.sclz d a) := by
  intro hw _ z he
  have F0 : fx z 26 6 = 4 := by rw [← Option.some.inj he, fx, bits_11_7_7_7_0 _ _ (by decide) (by decide)]; rfl
  have F1 : fx z 21 5 = 6 := by rw [← Option.some.inj he, fx, bits_11_7_7_7_0 _ _ (by decide) (by decide)]; rfl
  have F2 : fx z 0 7 = 0 := by rw [← Option.some.inj he, fx, bits_11_7_7_7_3 _ _ (by decide) (by decide)]; rfl
  have E0 : z.extractLsb' 14 7 = d := by rw [← Option.some.inj he, bits_11_7_7_7_1 _ _ (by decide) (by decide)]; exact ext_full d
  have E1 : z.extractLsb' 7 7 = a := by rw [← Option.some.inj he, bits_11_7_7_7_2 _ _ (by decide) (by decide)]; exact ext_full a
  refine of_row hw F0 (by decide) ?_
  rw [decodeRow, F0]
  show decodeRow04 z = _
  rw [decodeRow04, F1, F2, E0, E1]
  rfl
theorem sctz (d : BitVec 7) (a : BitVec 7) : Statement (.sctz d a) := by
  intro hw _ z he
  have F0 : fx z 26 6 = 4 := by rw [← Option.some.inj he, fx, bits_11_7_7_7_0 _ _ (by decide) (by decide)]; rfl
  have F1 : fx z 21 5 = 7 := by rw [← Option.some.inj he, fx, bits_11_7_7_7_0 _ _ (by decide) (by decide)]; rfl
  have F2 : fx z 0 7 = 0 := by rw [← Option.some.inj he, fx, bits_11_7_7_7_3 _ _ (by decide) (by decide)]; rfl
  have E0 : z.extractLsb' 14 7 = d := by rw [← Option.some.inj he, bits_11_7_7_7_1 _ _ (by decide) (by decide)]; exact ext_full d
  have E1 : z.extractLsb' 7 7 = a := by rw [← Option.some.inj he, bits_11_7_7_7_2 _ _ (by decide) (by decide)]; exact ext_full a
  refine of_row hw F0 (by decide) ?_
  rw [decodeRow, F0]
  show decodeRow04 z = _
  rw [decodeRow04, F1, F2, E0, E1]
  rfl
theorem sbrev (d : BitVec 7) (a : BitVec 7) : Statement (.sbrev d a) := by
  intro hw _ z he
  have F0 : fx z 26 6 = 4 := by rw [← Option.some.inj he, fx, bits_11_7_7_7_0 _ _ (by decide) (by decide)]; rfl
  have F1 : fx z 21 5 = 8 := by rw [← Option.some.inj he, fx, bits_11_7_7_7_0 _ _ (by decide) (by decide)]; rfl
  have F2 : fx z 0 7 = 0 := by rw [← Option.some.inj he, fx, bits_11_7_7_7_3 _ _ (by decide) (by decide)]; rfl
  have E0 : z.extractLsb' 14 7 = d := by rw [← Option.some.inj he, bits_11_7_7_7_1 _ _ (by decide) (by decide)]; exact ext_full d
  have E1 : z.extractLsb' 7 7 = a := by rw [← Option.some.inj he, bits_11_7_7_7_2 _ _ (by decide) (by decide)]; exact ext_full a
  refine of_row hw F0 (by decide) ?_
  rw [decodeRow, F0]
  show decodeRow04 z = _
  rw [decodeRow04, F1, F2, E0, E1]
  rfl
theorem bc (c : BitVec 3) (o : BitVec 20) : Statement (.bc c o) := by
  intro hw _ z he
  have F0 : fx z 26 6 = 5 := by rw [← Option.some.inj he, fx, bits_6_3_3_20_0 _ _ (by decide) (by decide)]; rfl
  have F1 : fx z 20 3 = 0 := by rw [← Option.some.inj he, fx, bits_6_3_3_20_2 _ _ (by decide) (by decide)]; rfl
  have E0 : z.extractLsb' 23 3 = c := by rw [← Option.some.inj he, bits_6_3_3_20_1 _ _ (by decide) (by decide)]; exact ext_full c
  have E1 : z.extractLsb' 0 20 = o := by rw [← Option.some.inj he, bits_6_3_3_20_3 _ _ (by decide) (by decide)]; exact ext_full o
  have N0 : (fx z 20 6 == 1) = false := sub_ne F1 (by decide) (by decide) (by decide)
  have N1 : (fx z 20 6 == 5) = false := sub_ne F1 (by decide) (by decide) (by decide)
  have N2 : (fx z 20 6 == 9) = false := sub_ne F1 (by decide) (by decide) (by decide)
  refine of_row hw F0 (by decide) ?_
  rw [decodeRow, F0]
  show decodeRow05 z = _
  rw [decodeRow05, N0, N1, N2, F1, E0, E1]
  rfl
theorem bnc (c : BitVec 3) (o : BitVec 20) : Statement (.bnc c o) := by
  intro hw _ z he
  have F0 : fx z 26 6 = 5 := by rw [← Option.some.inj he, fx, bits_6_3_3_20_0 _ _ (by decide) (by decide)]; rfl
  have F1 : fx z 20 3 = 4 := by rw [← Option.some.inj he, fx, bits_6_3_3_20_2 _ _ (by decide) (by decide)]; rfl
  have E0 : z.extractLsb' 23 3 = c := by rw [← Option.some.inj he, bits_6_3_3_20_1 _ _ (by decide) (by decide)]; exact ext_full c
  have E1 : z.extractLsb' 0 20 = o := by rw [← Option.some.inj he, bits_6_3_3_20_3 _ _ (by decide) (by decide)]; exact ext_full o
  have N0 : (fx z 20 6 == 1) = false := sub_ne F1 (by decide) (by decide) (by decide)
  have N1 : (fx z 20 6 == 5) = false := sub_ne F1 (by decide) (by decide) (by decide)
  have N2 : (fx z 20 6 == 9) = false := sub_ne F1 (by decide) (by decide) (by decide)
  refine of_row hw F0 (by decide) ?_
  rw [decodeRow, F0]
  show decodeRow05 z = _
  rw [decodeRow05, N0, N1, N2, F1, E0, E1]
  rfl
theorem bany (o : BitVec 20) : Statement (.bany o) := by
  intro hw _ z he
  have F0 : fx z 26 6 = 5 := by rw [← Option.some.inj he, fx, bits_12_20_0 _ _ (by decide) (by decide)]; rfl
  have F1 : fx z 20 6 = 1 := by rw [← Option.some.inj he, fx, bits_12_20_0 _ _ (by decide) (by decide)]; rfl
  have E0 : z.extractLsb' 0 20 = o := by rw [← Option.some.inj he, bits_12_20_1 _ _ (by decide) (by decide)]; exact ext_full o
  refine of_row hw F0 (by decide) ?_
  rw [decodeRow, F0]
  show decodeRow05 z = _
  rw [decodeRow05, F1, E0]
  rfl
theorem ball (o : BitVec 20) : Statement (.ball o) := by
  intro hw _ z he
  have F0 : fx z 26 6 = 5 := by rw [← Option.some.inj he, fx, bits_12_20_0 _ _ (by decide) (by decide)]; rfl
  have F1 : fx z 20 6 = 5 := by rw [← Option.some.inj he, fx, bits_12_20_0 _ _ (by decide) (by decide)]; rfl
  have E0 : z.extractLsb' 0 20 = o := by rw [← Option.some.inj he, bits_12_20_1 _ _ (by decide) (by decide)]; exact ext_full o
  refine of_row hw F0 (by decide) ?_
  rw [decodeRow, F0]
  show decodeRow05 z = _
  rw [decodeRow05, F1, E0]
  rfl
theorem bnone (o : BitVec 20) : Statement (.bnone o) := by
  intro hw _ z he
  have F0 : fx z 26 6 = 5 := by rw [← Option.some.inj he, fx, bits_12_20_0 _ _ (by decide) (by decide)]; rfl
  have F1 : fx z 20 6 = 9 := by rw [← Option.some.inj he, fx, bits_12_20_0 _ _ (by decide) (by decide)]; rfl
  have E0 : z.extractLsb' 0 20 = o := by rw [← Option.some.inj he, bits_12_20_1 _ _ (by decide) (by decide)]; exact ext_full o
  refine of_row hw F0 (by decide) ?_
  rw [decodeRow, F0]
  show decodeRow05 z = _
  rw [decodeRow05, F1, E0]
  rfl
theorem br (o : BitVec 20) : Statement (.br o) := by
  intro hw _ z he
  have F0 : fx z 26 6 = 6 := by rw [← Option.some.inj he, fx, bits_12_20_0 _ _ (by decide) (by decide)]; rfl
  have F1 : fx z 20 6 = 0 := by rw [← Option.some.inj he, fx, bits_12_20_0 _ _ (by decide) (by decide)]; rfl
  have E0 : z.extractLsb' 0 20 = o := by rw [← Option.some.inj he, bits_12_20_1 _ _ (by decide) (by decide)]; exact ext_full o
  have N0 : (fx z 0 26 == 3145728) = false := sub_ne F1 (by decide) (by decide) (by decide)
  have N1 : (fx z 7 19 == 16384) = false := sub_ne F1 (by decide) (by decide) (by decide)
  refine of_row hw F0 (by decide) ?_
  rw [decodeRow, F0]
  show decodeRow06 z = _
  rw [decodeRow06, N0, N1, F1, E0]
  rfl
theorem call (o : BitVec 20) : Statement (.call o) := by
  intro hw _ z he
  have F0 : fx z 26 6 = 6 := by rw [← Option.some.inj he, fx, bits_12_20_0 _ _ (by decide) (by decide)]; rfl
  have F1 : fx z 20 6 = 1 := by rw [← Option.some.inj he, fx, bits_12_20_0 _ _ (by decide) (by decide)]; rfl
  have E0 : z.extractLsb' 0 20 = o := by rw [← Option.some.inj he, bits_12_20_1 _ _ (by decide) (by decide)]; exact ext_full o
  have N0 : (fx z 0 26 == 3145728) = false := sub_ne F1 (by decide) (by decide) (by decide)
  have N1 : (fx z 7 19 == 16384) = false := sub_ne F1 (by decide) (by decide) (by decide)
  refine of_row hw F0 (by decide) ?_
  rw [decodeRow, F0]
  show decodeRow06 z = _
  rw [decodeRow06, N0, N1, F1, E0]
  rfl
theorem jmp (a : BitVec 7) : Statement (.jmp a) := by
  intro hw _ z he
  have F0 : fx z 26 6 = 6 := by rw [← Option.some.inj he, fx, bits_25_7_0 _ _ (by decide) (by decide)]; rfl
  have F1 : fx z 7 19 = 16384 := by rw [← Option.some.inj he, fx, bits_25_7_0 _ _ (by decide) (by decide)]; rfl
  have E0 : z.extractLsb' 0 7 = a := by rw [← Option.some.inj he, bits_25_7_1 _ _ (by decide) (by decide)]; exact ext_full a
  have N0 : (fx z 0 26 == 3145728) = false := sub_ne F1 (by decide) (by decide) (by decide)
  refine of_row hw F0 (by decide) ?_
  rw [decodeRow, F0]
  show decodeRow06 z = _
  rw [decodeRow06, N0, F1, E0]
  rfl
theorem ret : Statement (.ret) := by
  intro _ _ w he
  obtain rfl := Option.some.inj he
  rfl
theorem rsr (d : BitVec 7) (r : BitVec 7) : Statement (.rsr d r) := by
  intro hw _ z he
  have F0 : fx z 26 6 = 7 := by rw [← Option.some.inj he, fx, bits_11_7_7_7_0 _ _ (by decide) (by decide)]; rfl
  have F1 : fx z 21 5 = 0 := by rw [← Option.some.inj he, fx, bits_11_7_7_7_0 _ _ (by decide) (by decide)]; rfl
  have F2 : fx z 11 3 = 0 := by rw [← Option.some.inj he, fx, bits_11_7_7_7_2 _ _ (by decide) (by decide)]; rfl
  have F3 : fx z 7 7 = 0 := by rw [← Option.some.inj he, fx, bits_11_7_7_7_2 _ _ (by decide) (by decide)]; rfl
  have E0 : z.extractLsb' 14 7 = d := by rw [← Option.some.inj he, bits_11_7_7_7_1 _ _ (by decide) (by decide)]; exact ext_full d
  have E1 : z.extractLsb' 0 7 = r := by rw [← Option.some.inj he, bits_11_7_7_7_3 _ _ (by decide) (by decide)]; exact ext_full r
  have N0 : (fx z 11 15 == 5120) = false := sub_ne F1 (by decide) (by decide) (by decide)
  have N1 : (fx z 11 15 == 5124) = false := sub_ne F2 (by decide) (by decide) (by decide)
  have N2 : (fx z 18 8 == 56) = false := sub_ne F1 (by decide) (by decide) (by decide)
  refine of_row hw F0 (by decide) ?_
  rw [decodeRow, F0]
  show decodeRow07 z = _
  rw [decodeRow07, N0, N1, N2, F1, F3, E0, E1]
  rfl
theorem wsr (a : BitVec 7) (r : BitVec 7) : Statement (.wsr a r) := by
  intro hw _ z he
  have F0 : fx z 26 6 = 7 := by rw [← Option.some.inj he, fx, bits_18_7_7_0 _ _ (by decide) (by decide)]; rfl
  have F1 : fx z 21 5 = 1 := by rw [← Option.some.inj he, fx, bits_18_7_7_0 _ _ (by decide) (by decide)]; rfl
  have F2 : fx z 14 12 = 128 := by rw [← Option.some.inj he, fx, bits_18_7_7_0 _ _ (by decide) (by decide)]; rfl
  have F3 : fx z 18 8 = 8 := by rw [← Option.some.inj he, fx, bits_18_7_7_0 _ _ (by decide) (by decide)]; rfl
  have E0 : z.extractLsb' 7 7 = a := by rw [← Option.some.inj he, bits_18_7_7_1 _ _ (by decide) (by decide)]; exact ext_full a
  have E1 : z.extractLsb' 0 7 = r := by rw [← Option.some.inj he, bits_18_7_7_2 _ _ (by decide) (by decide)]; exact ext_full r
  have N0 : (fx z 11 15 == 5120) = false := sub_ne F2 (by decide) (by decide) (by decide)
  have N1 : (fx z 11 15 == 5124) = false := sub_ne F2 (by decide) (by decide) (by decide)
  refine of_row hw F0 (by decide) ?_
  rw [decodeRow, F0]
  show decodeRow07 z = _
  rw [decodeRow07, N0, N1, F1, F3, F2, E0, E1]
  rfl
theorem mpush (d : BitVec 7) (p : BitVec 4) : Statement (.mpush d p) := by
  intro hw _ z he
  have F0 : fx z 26 6 = 7 := by rw [← Option.some.inj he, fx, bits_11_7_10_4_0 _ _ (by decide) (by decide)]; rfl
  have F1 : fx z 21 5 = 2 := by rw [← Option.some.inj he, fx, bits_11_7_10_4_0 _ _ (by decide) (by decide)]; rfl
  have F2 : fx z 4 10 = 0 := by rw [← Option.some.inj he, fx, bits_11_7_10_4_2 _ _ (by decide) (by decide)]; rfl
  have E0 : z.extractLsb' 14 7 = d := by rw [← Option.some.inj he, bits_11_7_10_4_1 _ _ (by decide) (by decide)]; exact ext_full d
  have E1 : z.extractLsb' 0 4 = p := by rw [← Option.some.inj he, bits_11_7_10_4_3 _ _ (by decide) (by decide)]; exact ext_full p
  refine of_row hw F0 (by decide) ?_
  rw [decodeRow, F0]
  show decodeRow07 z = _
  rw [decodeRow07, F1, F2, E0, E1]
  rfl
theorem mflip (d : BitVec 7) (p : BitVec 4) : Statement (.mflip d p) := by
  intro hw _ z he
  have F0 : fx z 26 6 = 7 := by rw [← Option.some.inj he, fx, bits_11_7_10_4_0 _ _ (by decide) (by decide)]; rfl
  have F1 : fx z 21 5 = 3 := by rw [← Option.some.inj he, fx, bits_11_7_10_4_0 _ _ (by decide) (by decide)]; rfl
  have F2 : fx z 4 10 = 0 := by rw [← Option.some.inj he, fx, bits_11_7_10_4_2 _ _ (by decide) (by decide)]; rfl
  have E0 : z.extractLsb' 14 7 = d := by rw [← Option.some.inj he, bits_11_7_10_4_1 _ _ (by decide) (by decide)]; exact ext_full d
  have E1 : z.extractLsb' 0 4 = p := by rw [← Option.some.inj he, bits_11_7_10_4_3 _ _ (by decide) (by decide)]; exact ext_full p
  refine of_row hw F0 (by decide) ?_
  rw [decodeRow, F0]
  show decodeRow07 z = _
  rw [decodeRow07, F1, F2, E0, E1]
  rfl
theorem mpop (d : BitVec 7) : Statement (.mpop d) := by
  intro hw _ z he
  have F0 : fx z 26 6 = 7 := by rw [← Option.some.inj he, fx, bits_11_7_14_0 _ _ (by decide) (by decide)]; rfl
  have F1 : fx z 21 5 = 4 := by rw [← Option.some.inj he, fx, bits_11_7_14_0 _ _ (by decide) (by decide)]; rfl
  have F2 : fx z 0 14 = 0 := by rw [← Option.some.inj he, fx, bits_11_7_14_2 _ _ (by decide) (by decide)]; rfl
  have E0 : z.extractLsb' 14 7 = d := by rw [← Option.some.inj he, bits_11_7_14_1 _ _ (by decide) (by decide)]; exact ext_full d
  refine of_row hw F0 (by decide) ?_
  rw [decodeRow, F0]
  show decodeRow07 z = _
  rw [decodeRow07, F1, F2, E0]
  rfl
theorem waitc (p : BitVec 4) (b : BitVec 7) : Statement (.waitc p b) := by
  intro hw _ z he
  have F0 : fx z 26 6 = 7 := by rw [← Option.some.inj he, fx, bits_21_4_7_0 _ _ (by decide) (by decide)]; rfl
  have F1 : fx z 21 5 = 5 := by rw [← Option.some.inj he, fx, bits_21_4_7_0 _ _ (by decide) (by decide)]; rfl
  have F2 : fx z 11 15 = 5120 := by rw [← Option.some.inj he, fx, bits_21_4_7_0 _ _ (by decide) (by decide)]; rfl
  have E0 : z.extractLsb' 7 4 = p := by rw [← Option.some.inj he, bits_21_4_7_1 _ _ (by decide) (by decide)]; exact ext_full p
  have E1 : z.extractLsb' 0 7 = b := by rw [← Option.some.inj he, bits_21_4_7_2 _ _ (by decide) (by decide)]; exact ext_full b
  refine of_row hw F0 (by decide) ?_
  rw [decodeRow, F0]
  show decodeRow07 z = _
  rw [decodeRow07, F1, F2, E0, E1]
  rfl
theorem waitcI (p : BitVec 4) (i : BitVec 7) : Statement (.waitcI p i) := by
  intro hw _ z he
  have F0 : fx z 26 6 = 7 := by rw [← Option.some.inj he, fx, bits_21_4_7_0 _ _ (by decide) (by decide)]; rfl
  have F1 : fx z 21 5 = 5 := by rw [← Option.some.inj he, fx, bits_21_4_7_0 _ _ (by decide) (by decide)]; rfl
  have F2 : fx z 11 15 = 5124 := by rw [← Option.some.inj he, fx, bits_21_4_7_0 _ _ (by decide) (by decide)]; rfl
  have E0 : z.extractLsb' 7 4 = p := by rw [← Option.some.inj he, bits_21_4_7_1 _ _ (by decide) (by decide)]; exact ext_full p
  have E1 : z.extractLsb' 0 7 = i := by rw [← Option.some.inj he, bits_21_4_7_2 _ _ (by decide) (by decide)]; exact ext_full i
  refine of_row hw F0 (by decide) ?_
  rw [decodeRow, F0]
  show decodeRow07 z = _
  rw [decodeRow07, F1, F2, E0, E1]
  rfl
theorem mvps (d : BitVec 7) (p : BitVec 4) : Statement (.mvps d p) := by
  intro hw _ z he
  have F0 : fx z 26 6 = 7 := by rw [← Option.some.inj he, fx, bits_11_7_10_4_0 _ _ (by decide) (by decide)]; rfl
  have F1 : fx z 21 5 = 6 := by rw [← Option.some.inj he, fx, bits_11_7_10_4_0 _ _ (by decide) (by decide)]; rfl
  have F2 : fx z 11 3 = 0 := by rw [← Option.some.inj he, fx, bits_11_7_10_4_2 _ _ (by decide) (by decide)]; rfl
  have F3 : fx z 4 10 = 0 := by rw [← Option.some.inj he, fx, bits_11_7_10_4_2 _ _ (by decide) (by decide)]; rfl
  have E0 : z.extractLsb' 14 7 = d := by rw [← Option.some.inj he, bits_11_7_10_4_1 _ _ (by decide) (by decide)]; exact ext_full d
  have E1 : z.extractLsb' 0 4 = p := by rw [← Option.some.inj he, bits_11_7_10_4_3 _ _ (by decide) (by decide)]; exact ext_full p
  have N0 : (fx z 11 15 == 5120) = false := sub_ne F1 (by decide) (by decide) (by decide)
  have N1 : (fx z 11 15 == 5124) = false := sub_ne F2 (by decide) (by decide) (by decide)
  refine of_row hw F0 (by decide) ?_
  rw [decodeRow, F0]
  show decodeRow07 z = _
  rw [decodeRow07, N0, N1, F1, F3, E0, E1]
  rfl
theorem mvsp (p : BitVec 4) (a : BitVec 7) : Statement (.mvsp p a) := by
  intro hw _ z he
  have F0 : fx z 26 6 = 7 := by rw [← Option.some.inj he, fx, bits_14_4_7_7_0 _ _ (by decide) (by decide)]; rfl
  have F1 : fx z 21 5 = 7 := by rw [← Option.some.inj he, fx, bits_14_4_7_7_0 _ _ (by decide) (by decide)]; rfl
  have F2 : fx z 18 8 = 56 := by rw [← Option.some.inj he, fx, bits_14_4_7_7_0 _ _ (by decide) (by decide)]; rfl
  have F3 : fx z 0 7 = 0 := by rw [← Option.some.inj he, fx, bits_14_4_7_7_3 _ _ (by decide) (by decide)]; rfl
  have E0 : z.extractLsb' 14 4 = p := by rw [← Option.some.inj he, bits_14_4_7_7_1 _ _ (by decide) (by decide)]; exact ext_full p
  have E1 : z.extractLsb' 7 7 = a := by rw [← Option.some.inj he, bits_14_4_7_7_2 _ _ (by decide) (by decide)]; exact ext_full a
  have N0 : (fx z 11 15 == 5120) = false := sub_ne F2 (by decide) (by decide) (by decide)
  have N1 : (fx z 11 15 == 5124) = false := sub_ne F2 (by decide) (by decide) (by decide)
  refine of_row hw F0 (by decide) ?_
  rw [decodeRow, F0]
  show decodeRow07 z = _
  rw [decodeRow07, N0, N1, F1, F2, F3, E0, E1]
  rfl
theorem vaddS32 (d : BitVec 7) (a : BitVec 7) (b : BitVec 7) : Statement (.vaddS32 d a b) := by
  intro hw _ z he
  have F0 : fx z 26 6 = 8 := by rw [← Option.some.inj he, fx, bits_11_7_7_7_0 _ _ (by decide) (by decide)]; rfl
  have F1 : fx z 21 5 = 0 := by rw [← Option.some.inj he, fx, bits_11_7_7_7_0 _ _ (by decide) (by decide)]; rfl
  have E0 : z.extractLsb' 14 7 = d := by rw [← Option.some.inj he, bits_11_7_7_7_1 _ _ (by decide) (by decide)]; exact ext_full d
  have E1 : z.extractLsb' 7 7 = a := by rw [← Option.some.inj he, bits_11_7_7_7_2 _ _ (by decide) (by decide)]; exact ext_full a
  have E2 : z.extractLsb' 0 7 = b := by rw [← Option.some.inj he, bits_11_7_7_7_3 _ _ (by decide) (by decide)]; exact ext_full b
  refine of_row hw F0 (by decide) ?_
  rw [decodeRow, F0]
  show decodeRow08 z = _
  rw [decodeRow08, F1, E0, E1, E2]
  rfl
theorem vsubS32 (d : BitVec 7) (a : BitVec 7) (b : BitVec 7) : Statement (.vsubS32 d a b) := by
  intro hw _ z he
  have F0 : fx z 26 6 = 8 := by rw [← Option.some.inj he, fx, bits_11_7_7_7_0 _ _ (by decide) (by decide)]; rfl
  have F1 : fx z 21 5 = 1 := by rw [← Option.some.inj he, fx, bits_11_7_7_7_0 _ _ (by decide) (by decide)]; rfl
  have E0 : z.extractLsb' 14 7 = d := by rw [← Option.some.inj he, bits_11_7_7_7_1 _ _ (by decide) (by decide)]; exact ext_full d
  have E1 : z.extractLsb' 7 7 = a := by rw [← Option.some.inj he, bits_11_7_7_7_2 _ _ (by decide) (by decide)]; exact ext_full a
  have E2 : z.extractLsb' 0 7 = b := by rw [← Option.some.inj he, bits_11_7_7_7_3 _ _ (by decide) (by decide)]; exact ext_full b
  refine of_row hw F0 (by decide) ?_
  rw [decodeRow, F0]
  show decodeRow08 z = _
  rw [decodeRow08, F1, E0, E1, E2]
  rfl
theorem vaddSatS32 (d : BitVec 7) (a : BitVec 7) (b : BitVec 7) : Statement (.vaddSatS32 d a b) := by
  intro hw _ z he
  have F0 : fx z 26 6 = 8 := by rw [← Option.some.inj he, fx, bits_11_7_7_7_0 _ _ (by decide) (by decide)]; rfl
  have F1 : fx z 21 5 = 2 := by rw [← Option.some.inj he, fx, bits_11_7_7_7_0 _ _ (by decide) (by decide)]; rfl
  have E0 : z.extractLsb' 14 7 = d := by rw [← Option.some.inj he, bits_11_7_7_7_1 _ _ (by decide) (by decide)]; exact ext_full d
  have E1 : z.extractLsb' 7 7 = a := by rw [← Option.some.inj he, bits_11_7_7_7_2 _ _ (by decide) (by decide)]; exact ext_full a
  have E2 : z.extractLsb' 0 7 = b := by rw [← Option.some.inj he, bits_11_7_7_7_3 _ _ (by decide) (by decide)]; exact ext_full b
  refine of_row hw F0 (by decide) ?_
  rw [decodeRow, F0]
  show decodeRow08 z = _
  rw [decodeRow08, F1, E0, E1, E2]
  rfl
theorem vaddSatU32 (d : BitVec 7) (a : BitVec 7) (b : BitVec 7) : Statement (.vaddSatU32 d a b) := by
  intro hw _ z he
  have F0 : fx z 26 6 = 8 := by rw [← Option.some.inj he, fx, bits_11_7_7_7_0 _ _ (by decide) (by decide)]; rfl
  have F1 : fx z 21 5 = 3 := by rw [← Option.some.inj he, fx, bits_11_7_7_7_0 _ _ (by decide) (by decide)]; rfl
  have E0 : z.extractLsb' 14 7 = d := by rw [← Option.some.inj he, bits_11_7_7_7_1 _ _ (by decide) (by decide)]; exact ext_full d
  have E1 : z.extractLsb' 7 7 = a := by rw [← Option.some.inj he, bits_11_7_7_7_2 _ _ (by decide) (by decide)]; exact ext_full a
  have E2 : z.extractLsb' 0 7 = b := by rw [← Option.some.inj he, bits_11_7_7_7_3 _ _ (by decide) (by decide)]; exact ext_full b
  refine of_row hw F0 (by decide) ?_
  rw [decodeRow, F0]
  show decodeRow08 z = _
  rw [decodeRow08, F1, E0, E1, E2]
  rfl
theorem vsubSatS32 (d : BitVec 7) (a : BitVec 7) (b : BitVec 7) : Statement (.vsubSatS32 d a b) := by
  intro hw _ z he
  have F0 : fx z 26 6 = 8 := by rw [← Option.some.inj he, fx, bits_11_7_7_7_0 _ _ (by decide) (by decide)]; rfl
  have F1 : fx z 21 5 = 4 := by rw [← Option.some.inj he, fx, bits_11_7_7_7_0 _ _ (by decide) (by decide)]; rfl
  have E0 : z.extractLsb' 14 7 = d := by rw [← Option.some.inj he, bits_11_7_7_7_1 _ _ (by decide) (by decide)]; exact ext_full d
  have E1 : z.extractLsb' 7 7 = a := by rw [← Option.some.inj he, bits_11_7_7_7_2 _ _ (by decide) (by decide)]; exact ext_full a
  have E2 : z.extractLsb' 0 7 = b := by rw [← Option.some.inj he, bits_11_7_7_7_3 _ _ (by decide) (by decide)]; exact ext_full b
  refine of_row hw F0 (by decide) ?_
  rw [decodeRow, F0]
  show decodeRow08 z = _
  rw [decodeRow08, F1, E0, E1, E2]
  rfl
theorem vsubSatU32 (d : BitVec 7) (a : BitVec 7) (b : BitVec 7) : Statement (.vsubSatU32 d a b) := by
  intro hw _ z he
  have F0 : fx z 26 6 = 8 := by rw [← Option.some.inj he, fx, bits_11_7_7_7_0 _ _ (by decide) (by decide)]; rfl
  have F1 : fx z 21 5 = 5 := by rw [← Option.some.inj he, fx, bits_11_7_7_7_0 _ _ (by decide) (by decide)]; rfl
  have E0 : z.extractLsb' 14 7 = d := by rw [← Option.some.inj he, bits_11_7_7_7_1 _ _ (by decide) (by decide)]; exact ext_full d
  have E1 : z.extractLsb' 7 7 = a := by rw [← Option.some.inj he, bits_11_7_7_7_2 _ _ (by decide) (by decide)]; exact ext_full a
  have E2 : z.extractLsb' 0 7 = b := by rw [← Option.some.inj he, bits_11_7_7_7_3 _ _ (by decide) (by decide)]; exact ext_full b
  refine of_row hw F0 (by decide) ?_
  rw [decodeRow, F0]
  show decodeRow08 z = _
  rw [decodeRow08, F1, E0, E1, E2]
  rfl
theorem vminS32 (d : BitVec 7) (a : BitVec 7) (b : BitVec 7) : Statement (.vminS32 d a b) := by
  intro hw _ z he
  have F0 : fx z 26 6 = 8 := by rw [← Option.some.inj he, fx, bits_11_7_7_7_0 _ _ (by decide) (by decide)]; rfl
  have F1 : fx z 21 5 = 6 := by rw [← Option.some.inj he, fx, bits_11_7_7_7_0 _ _ (by decide) (by decide)]; rfl
  have E0 : z.extractLsb' 14 7 = d := by rw [← Option.some.inj he, bits_11_7_7_7_1 _ _ (by decide) (by decide)]; exact ext_full d
  have E1 : z.extractLsb' 7 7 = a := by rw [← Option.some.inj he, bits_11_7_7_7_2 _ _ (by decide) (by decide)]; exact ext_full a
  have E2 : z.extractLsb' 0 7 = b := by rw [← Option.some.inj he, bits_11_7_7_7_3 _ _ (by decide) (by decide)]; exact ext_full b
  refine of_row hw F0 (by decide) ?_
  rw [decodeRow, F0]
  show decodeRow08 z = _
  rw [decodeRow08, F1, E0, E1, E2]
  rfl
theorem vmaxS32 (d : BitVec 7) (a : BitVec 7) (b : BitVec 7) : Statement (.vmaxS32 d a b) := by
  intro hw _ z he
  have F0 : fx z 26 6 = 8 := by rw [← Option.some.inj he, fx, bits_11_7_7_7_0 _ _ (by decide) (by decide)]; rfl
  have F1 : fx z 21 5 = 7 := by rw [← Option.some.inj he, fx, bits_11_7_7_7_0 _ _ (by decide) (by decide)]; rfl
  have E0 : z.extractLsb' 14 7 = d := by rw [← Option.some.inj he, bits_11_7_7_7_1 _ _ (by decide) (by decide)]; exact ext_full d
  have E1 : z.extractLsb' 7 7 = a := by rw [← Option.some.inj he, bits_11_7_7_7_2 _ _ (by decide) (by decide)]; exact ext_full a
  have E2 : z.extractLsb' 0 7 = b := by rw [← Option.some.inj he, bits_11_7_7_7_3 _ _ (by decide) (by decide)]; exact ext_full b
  refine of_row hw F0 (by decide) ?_
  rw [decodeRow, F0]
  show decodeRow08 z = _
  rw [decodeRow08, F1, E0, E1, E2]
  rfl
theorem vminU32 (d : BitVec 7) (a : BitVec 7) (b : BitVec 7) : Statement (.vminU32 d a b) := by
  intro hw _ z he
  have F0 : fx z 26 6 = 8 := by rw [← Option.some.inj he, fx, bits_11_7_7_7_0 _ _ (by decide) (by decide)]; rfl
  have F1 : fx z 21 5 = 8 := by rw [← Option.some.inj he, fx, bits_11_7_7_7_0 _ _ (by decide) (by decide)]; rfl
  have E0 : z.extractLsb' 14 7 = d := by rw [← Option.some.inj he, bits_11_7_7_7_1 _ _ (by decide) (by decide)]; exact ext_full d
  have E1 : z.extractLsb' 7 7 = a := by rw [← Option.some.inj he, bits_11_7_7_7_2 _ _ (by decide) (by decide)]; exact ext_full a
  have E2 : z.extractLsb' 0 7 = b := by rw [← Option.some.inj he, bits_11_7_7_7_3 _ _ (by decide) (by decide)]; exact ext_full b
  refine of_row hw F0 (by decide) ?_
  rw [decodeRow, F0]
  show decodeRow08 z = _
  rw [decodeRow08, F1, E0, E1, E2]
  rfl
theorem vmaxU32 (d : BitVec 7) (a : BitVec 7) (b : BitVec 7) : Statement (.vmaxU32 d a b) := by
  intro hw _ z he
  have F0 : fx z 26 6 = 8 := by rw [← Option.some.inj he, fx, bits_11_7_7_7_0 _ _ (by decide) (by decide)]; rfl
  have F1 : fx z 21 5 = 9 := by rw [← Option.some.inj he, fx, bits_11_7_7_7_0 _ _ (by decide) (by decide)]; rfl
  have E0 : z.extractLsb' 14 7 = d := by rw [← Option.some.inj he, bits_11_7_7_7_1 _ _ (by decide) (by decide)]; exact ext_full d
  have E1 : z.extractLsb' 7 7 = a := by rw [← Option.some.inj he, bits_11_7_7_7_2 _ _ (by decide) (by decide)]; exact ext_full a
  have E2 : z.extractLsb' 0 7 = b := by rw [← Option.some.inj he, bits_11_7_7_7_3 _ _ (by decide) (by decide)]; exact ext_full b
  refine of_row hw F0 (by decide) ?_
  rw [decodeRow, F0]
  show decodeRow08 z = _
  rw [decodeRow08, F1, E0, E1, E2]
  rfl
theorem vshl (d : BitVec 7) (a : BitVec 7) (b : BitVec 7) : Statement (.vshl d a b) := by
  intro hw _ z he
  have F0 : fx z 26 6 = 8 := by rw [← Option.some.inj he, fx, bits_11_7_7_7_0 _ _ (by decide) (by decide)]; rfl
  have F1 : fx z 21 5 = 10 := by rw [← Option.some.inj he, fx, bits_11_7_7_7_0 _ _ (by decide) (by decide)]; rfl
  have E0 : z.extractLsb' 14 7 = d := by rw [← Option.some.inj he, bits_11_7_7_7_1 _ _ (by decide) (by decide)]; exact ext_full d
  have E1 : z.extractLsb' 7 7 = a := by rw [← Option.some.inj he, bits_11_7_7_7_2 _ _ (by decide) (by decide)]; exact ext_full a
  have E2 : z.extractLsb' 0 7 = b := by rw [← Option.some.inj he, bits_11_7_7_7_3 _ _ (by decide) (by decide)]; exact ext_full b
  refine of_row hw F0 (by decide) ?_
  rw [decodeRow, F0]
  show decodeRow08 z = _
  rw [decodeRow08, F1, E0, E1, E2]
  rfl
theorem vshr (d : BitVec 7) (a : BitVec 7) (b : BitVec 7) : Statement (.vshr d a b) := by
  intro hw _ z he
  have F0 : fx z 26 6 = 8 := by rw [← Option.some.inj he, fx, bits_11_7_7_7_0 _ _ (by decide) (by decide)]; rfl
  have F1 : fx z 21 5 = 11 := by rw [← Option.some.inj he, fx, bits_11_7_7_7_0 _ _ (by decide) (by decide)]; rfl
  have E0 : z.extractLsb' 14 7 = d := by rw [← Option.some.inj he, bits_11_7_7_7_1 _ _ (by decide) (by decide)]; exact ext_full d
  have E1 : z.extractLsb' 7 7 = a := by rw [← Option.some.inj he, bits_11_7_7_7_2 _ _ (by decide) (by decide)]; exact ext_full a
  have E2 : z.extractLsb' 0 7 = b := by rw [← Option.some.inj he, bits_11_7_7_7_3 _ _ (by decide) (by decide)]; exact ext_full b
  refine of_row hw F0 (by decide) ?_
  rw [decodeRow, F0]
  show decodeRow08 z = _
  rw [decodeRow08, F1, E0, E1, E2]
  rfl
theorem vsra (d : BitVec 7) (a : BitVec 7) (b : BitVec 7) : Statement (.vsra d a b) := by
  intro hw _ z he
  have F0 : fx z 26 6 = 8 := by rw [← Option.some.inj he, fx, bits_11_7_7_7_0 _ _ (by decide) (by decide)]; rfl
  have F1 : fx z 21 5 = 12 := by rw [← Option.some.inj he, fx, bits_11_7_7_7_0 _ _ (by decide) (by decide)]; rfl
  have E0 : z.extractLsb' 14 7 = d := by rw [← Option.some.inj he, bits_11_7_7_7_1 _ _ (by decide) (by decide)]; exact ext_full d
  have E1 : z.extractLsb' 7 7 = a := by rw [← Option.some.inj he, bits_11_7_7_7_2 _ _ (by decide) (by decide)]; exact ext_full a
  have E2 : z.extractLsb' 0 7 = b := by rw [← Option.some.inj he, bits_11_7_7_7_3 _ _ (by decide) (by decide)]; exact ext_full b
  refine of_row hw F0 (by decide) ?_
  rw [decodeRow, F0]
  show decodeRow08 z = _
  rw [decodeRow08, F1, E0, E1, E2]
  rfl
theorem vabsdS32 (d : BitVec 7) (a : BitVec 7) (b : BitVec 7) : Statement (.vabsdS32 d a b) := by
  intro hw _ z he
  have F0 : fx z 26 6 = 8 := by rw [← Option.some.inj he, fx, bits_11_7_7_7_0 _ _ (by decide) (by decide)]; rfl
  have F1 : fx z 21 5 = 13 := by rw [← Option.some.inj he, fx, bits_11_7_7_7_0 _ _ (by decide) (by decide)]; rfl
  have E0 : z.extractLsb' 14 7 = d := by rw [← Option.some.inj he, bits_11_7_7_7_1 _ _ (by decide) (by decide)]; exact ext_full d
  have E1 : z.extractLsb' 7 7 = a := by rw [← Option.some.inj he, bits_11_7_7_7_2 _ _ (by decide) (by decide)]; exact ext_full a
  have E2 : z.extractLsb' 0 7 = b := by rw [← Option.some.inj he, bits_11_7_7_7_3 _ _ (by decide) (by decide)]; exact ext_full b
  refine of_row hw F0 (by decide) ?_
  rw [decodeRow, F0]
  show decodeRow08 z = _
  rw [decodeRow08, F1, E0, E1, E2]
  rfl
theorem vadd64 (d : BitVec 7) (a : BitVec 7) (b : BitVec 7) : Statement (.vadd64 d a b) := by
  intro hw _ z he
  have F0 : fx z 26 6 = 8 := by rw [← Option.some.inj he, fx, bits_11_7_7_7_0 _ _ (by decide) (by decide)]; rfl
  have F1 : fx z 21 5 = 14 := by rw [← Option.some.inj he, fx, bits_11_7_7_7_0 _ _ (by decide) (by decide)]; rfl
  have E0 : z.extractLsb' 14 7 = d := by rw [← Option.some.inj he, bits_11_7_7_7_1 _ _ (by decide) (by decide)]; exact ext_full d
  have E1 : z.extractLsb' 7 7 = a := by rw [← Option.some.inj he, bits_11_7_7_7_2 _ _ (by decide) (by decide)]; exact ext_full a
  have E2 : z.extractLsb' 0 7 = b := by rw [← Option.some.inj he, bits_11_7_7_7_3 _ _ (by decide) (by decide)]; exact ext_full b
  refine of_row hw F0 (by decide) ?_
  rw [decodeRow, F0]
  show decodeRow08 z = _
  rw [decodeRow08, F1, E0, E1, E2]
  rfl
theorem vsub64 (d : BitVec 7) (a : BitVec 7) (b : BitVec 7) : Statement (.vsub64 d a b) := by
  intro hw _ z he
  have F0 : fx z 26 6 = 8 := by rw [← Option.some.inj he, fx, bits_11_7_7_7_0 _ _ (by decide) (by decide)]; rfl
  have F1 : fx z 21 5 = 15 := by rw [← Option.some.inj he, fx, bits_11_7_7_7_0 _ _ (by decide) (by decide)]; rfl
  have E0 : z.extractLsb' 14 7 = d := by rw [← Option.some.inj he, bits_11_7_7_7_1 _ _ (by decide) (by decide)]; exact ext_full d
  have E1 : z.extractLsb' 7 7 = a := by rw [← Option.some.inj he, bits_11_7_7_7_2 _ _ (by decide) (by decide)]; exact ext_full a
  have E2 : z.extractLsb' 0 7 = b := by rw [← Option.some.inj he, bits_11_7_7_7_3 _ _ (by decide) (by decide)]; exact ext_full b
  refine of_row hw F0 (by decide) ?_
  rw [decodeRow, F0]
  show decodeRow08 z = _
  rw [decodeRow08, F1, E0, E1, E2]
  rfl
theorem vaddS32S (d : BitVec 7) (a : BitVec 7) (s : BitVec 7) : Statement (.vaddS32S d a s) := by
  intro hw _ z he
  have F0 : fx z 26 6 = 9 := by rw [← Option.some.inj he, fx, bits_11_7_7_7_0 _ _ (by decide) (by decide)]; rfl
  have F1 : fx z 21 5 = 0 := by rw [← Option.some.inj he, fx, bits_11_7_7_7_0 _ _ (by decide) (by decide)]; rfl
  have E0 : z.extractLsb' 14 7 = d := by rw [← Option.some.inj he, bits_11_7_7_7_1 _ _ (by decide) (by decide)]; exact ext_full d
  have E1 : z.extractLsb' 7 7 = a := by rw [← Option.some.inj he, bits_11_7_7_7_2 _ _ (by decide) (by decide)]; exact ext_full a
  have E2 : z.extractLsb' 0 7 = s := by rw [← Option.some.inj he, bits_11_7_7_7_3 _ _ (by decide) (by decide)]; exact ext_full s
  refine of_row hw F0 (by decide) ?_
  rw [decodeRow, F0]
  show decodeRow09 z = _
  rw [decodeRow09, F1, E0, E1, E2]
  rfl
theorem vsubS32S (d : BitVec 7) (a : BitVec 7) (s : BitVec 7) : Statement (.vsubS32S d a s) := by
  intro hw _ z he
  have F0 : fx z 26 6 = 9 := by rw [← Option.some.inj he, fx, bits_11_7_7_7_0 _ _ (by decide) (by decide)]; rfl
  have F1 : fx z 21 5 = 1 := by rw [← Option.some.inj he, fx, bits_11_7_7_7_0 _ _ (by decide) (by decide)]; rfl
  have E0 : z.extractLsb' 14 7 = d := by rw [← Option.some.inj he, bits_11_7_7_7_1 _ _ (by decide) (by decide)]; exact ext_full d
  have E1 : z.extractLsb' 7 7 = a := by rw [← Option.some.inj he, bits_11_7_7_7_2 _ _ (by decide) (by decide)]; exact ext_full a
  have E2 : z.extractLsb' 0 7 = s := by rw [← Option.some.inj he, bits_11_7_7_7_3 _ _ (by decide) (by decide)]; exact ext_full s
  refine of_row hw F0 (by decide) ?_
  rw [decodeRow, F0]
  show decodeRow09 z = _
  rw [decodeRow09, F1, E0, E1, E2]
  rfl
theorem vaddSatS32S (d : BitVec 7) (a : BitVec 7) (s : BitVec 7) : Statement (.vaddSatS32S d a s) := by
  intro hw _ z he
  have F0 : fx z 26 6 = 9 := by rw [← Option.some.inj he, fx, bits_11_7_7_7_0 _ _ (by decide) (by decide)]; rfl
  have F1 : fx z 21 5 = 2 := by rw [← Option.some.inj he, fx, bits_11_7_7_7_0 _ _ (by decide) (by decide)]; rfl
  have E0 : z.extractLsb' 14 7 = d := by rw [← Option.some.inj he, bits_11_7_7_7_1 _ _ (by decide) (by decide)]; exact ext_full d
  have E1 : z.extractLsb' 7 7 = a := by rw [← Option.some.inj he, bits_11_7_7_7_2 _ _ (by decide) (by decide)]; exact ext_full a
  have E2 : z.extractLsb' 0 7 = s := by rw [← Option.some.inj he, bits_11_7_7_7_3 _ _ (by decide) (by decide)]; exact ext_full s
  refine of_row hw F0 (by decide) ?_
  rw [decodeRow, F0]
  show decodeRow09 z = _
  rw [decodeRow09, F1, E0, E1, E2]
  rfl
theorem vaddSatU32S (d : BitVec 7) (a : BitVec 7) (s : BitVec 7) : Statement (.vaddSatU32S d a s) := by
  intro hw _ z he
  have F0 : fx z 26 6 = 9 := by rw [← Option.some.inj he, fx, bits_11_7_7_7_0 _ _ (by decide) (by decide)]; rfl
  have F1 : fx z 21 5 = 3 := by rw [← Option.some.inj he, fx, bits_11_7_7_7_0 _ _ (by decide) (by decide)]; rfl
  have E0 : z.extractLsb' 14 7 = d := by rw [← Option.some.inj he, bits_11_7_7_7_1 _ _ (by decide) (by decide)]; exact ext_full d
  have E1 : z.extractLsb' 7 7 = a := by rw [← Option.some.inj he, bits_11_7_7_7_2 _ _ (by decide) (by decide)]; exact ext_full a
  have E2 : z.extractLsb' 0 7 = s := by rw [← Option.some.inj he, bits_11_7_7_7_3 _ _ (by decide) (by decide)]; exact ext_full s
  refine of_row hw F0 (by decide) ?_
  rw [decodeRow, F0]
  show decodeRow09 z = _
  rw [decodeRow09, F1, E0, E1, E2]
  rfl
theorem vsubSatS32S (d : BitVec 7) (a : BitVec 7) (s : BitVec 7) : Statement (.vsubSatS32S d a s) := by
  intro hw _ z he
  have F0 : fx z 26 6 = 9 := by rw [← Option.some.inj he, fx, bits_11_7_7_7_0 _ _ (by decide) (by decide)]; rfl
  have F1 : fx z 21 5 = 4 := by rw [← Option.some.inj he, fx, bits_11_7_7_7_0 _ _ (by decide) (by decide)]; rfl
  have E0 : z.extractLsb' 14 7 = d := by rw [← Option.some.inj he, bits_11_7_7_7_1 _ _ (by decide) (by decide)]; exact ext_full d
  have E1 : z.extractLsb' 7 7 = a := by rw [← Option.some.inj he, bits_11_7_7_7_2 _ _ (by decide) (by decide)]; exact ext_full a
  have E2 : z.extractLsb' 0 7 = s := by rw [← Option.some.inj he, bits_11_7_7_7_3 _ _ (by decide) (by decide)]; exact ext_full s
  refine of_row hw F0 (by decide) ?_
  rw [decodeRow, F0]
  show decodeRow09 z = _
  rw [decodeRow09, F1, E0, E1, E2]
  rfl
theorem vsubSatU32S (d : BitVec 7) (a : BitVec 7) (s : BitVec 7) : Statement (.vsubSatU32S d a s) := by
  intro hw _ z he
  have F0 : fx z 26 6 = 9 := by rw [← Option.some.inj he, fx, bits_11_7_7_7_0 _ _ (by decide) (by decide)]; rfl
  have F1 : fx z 21 5 = 5 := by rw [← Option.some.inj he, fx, bits_11_7_7_7_0 _ _ (by decide) (by decide)]; rfl
  have E0 : z.extractLsb' 14 7 = d := by rw [← Option.some.inj he, bits_11_7_7_7_1 _ _ (by decide) (by decide)]; exact ext_full d
  have E1 : z.extractLsb' 7 7 = a := by rw [← Option.some.inj he, bits_11_7_7_7_2 _ _ (by decide) (by decide)]; exact ext_full a
  have E2 : z.extractLsb' 0 7 = s := by rw [← Option.some.inj he, bits_11_7_7_7_3 _ _ (by decide) (by decide)]; exact ext_full s
  refine of_row hw F0 (by decide) ?_
  rw [decodeRow, F0]
  show decodeRow09 z = _
  rw [decodeRow09, F1, E0, E1, E2]
  rfl
theorem vminS32S (d : BitVec 7) (a : BitVec 7) (s : BitVec 7) : Statement (.vminS32S d a s) := by
  intro hw _ z he
  have F0 : fx z 26 6 = 9 := by rw [← Option.some.inj he, fx, bits_11_7_7_7_0 _ _ (by decide) (by decide)]; rfl
  have F1 : fx z 21 5 = 6 := by rw [← Option.some.inj he, fx, bits_11_7_7_7_0 _ _ (by decide) (by decide)]; rfl
  have E0 : z.extractLsb' 14 7 = d := by rw [← Option.some.inj he, bits_11_7_7_7_1 _ _ (by decide) (by decide)]; exact ext_full d
  have E1 : z.extractLsb' 7 7 = a := by rw [← Option.some.inj he, bits_11_7_7_7_2 _ _ (by decide) (by decide)]; exact ext_full a
  have E2 : z.extractLsb' 0 7 = s := by rw [← Option.some.inj he, bits_11_7_7_7_3 _ _ (by decide) (by decide)]; exact ext_full s
  refine of_row hw F0 (by decide) ?_
  rw [decodeRow, F0]
  show decodeRow09 z = _
  rw [decodeRow09, F1, E0, E1, E2]
  rfl
theorem vmaxS32S (d : BitVec 7) (a : BitVec 7) (s : BitVec 7) : Statement (.vmaxS32S d a s) := by
  intro hw _ z he
  have F0 : fx z 26 6 = 9 := by rw [← Option.some.inj he, fx, bits_11_7_7_7_0 _ _ (by decide) (by decide)]; rfl
  have F1 : fx z 21 5 = 7 := by rw [← Option.some.inj he, fx, bits_11_7_7_7_0 _ _ (by decide) (by decide)]; rfl
  have E0 : z.extractLsb' 14 7 = d := by rw [← Option.some.inj he, bits_11_7_7_7_1 _ _ (by decide) (by decide)]; exact ext_full d
  have E1 : z.extractLsb' 7 7 = a := by rw [← Option.some.inj he, bits_11_7_7_7_2 _ _ (by decide) (by decide)]; exact ext_full a
  have E2 : z.extractLsb' 0 7 = s := by rw [← Option.some.inj he, bits_11_7_7_7_3 _ _ (by decide) (by decide)]; exact ext_full s
  refine of_row hw F0 (by decide) ?_
  rw [decodeRow, F0]
  show decodeRow09 z = _
  rw [decodeRow09, F1, E0, E1, E2]
  rfl
theorem vminU32S (d : BitVec 7) (a : BitVec 7) (s : BitVec 7) : Statement (.vminU32S d a s) := by
  intro hw _ z he
  have F0 : fx z 26 6 = 9 := by rw [← Option.some.inj he, fx, bits_11_7_7_7_0 _ _ (by decide) (by decide)]; rfl
  have F1 : fx z 21 5 = 8 := by rw [← Option.some.inj he, fx, bits_11_7_7_7_0 _ _ (by decide) (by decide)]; rfl
  have E0 : z.extractLsb' 14 7 = d := by rw [← Option.some.inj he, bits_11_7_7_7_1 _ _ (by decide) (by decide)]; exact ext_full d
  have E1 : z.extractLsb' 7 7 = a := by rw [← Option.some.inj he, bits_11_7_7_7_2 _ _ (by decide) (by decide)]; exact ext_full a
  have E2 : z.extractLsb' 0 7 = s := by rw [← Option.some.inj he, bits_11_7_7_7_3 _ _ (by decide) (by decide)]; exact ext_full s
  refine of_row hw F0 (by decide) ?_
  rw [decodeRow, F0]
  show decodeRow09 z = _
  rw [decodeRow09, F1, E0, E1, E2]
  rfl
theorem vmaxU32S (d : BitVec 7) (a : BitVec 7) (s : BitVec 7) : Statement (.vmaxU32S d a s) := by
  intro hw _ z he
  have F0 : fx z 26 6 = 9 := by rw [← Option.some.inj he, fx, bits_11_7_7_7_0 _ _ (by decide) (by decide)]; rfl
  have F1 : fx z 21 5 = 9 := by rw [← Option.some.inj he, fx, bits_11_7_7_7_0 _ _ (by decide) (by decide)]; rfl
  have E0 : z.extractLsb' 14 7 = d := by rw [← Option.some.inj he, bits_11_7_7_7_1 _ _ (by decide) (by decide)]; exact ext_full d
  have E1 : z.extractLsb' 7 7 = a := by rw [← Option.some.inj he, bits_11_7_7_7_2 _ _ (by decide) (by decide)]; exact ext_full a
  have E2 : z.extractLsb' 0 7 = s := by rw [← Option.some.inj he, bits_11_7_7_7_3 _ _ (by decide) (by decide)]; exact ext_full s
  refine of_row hw F0 (by decide) ?_
  rw [decodeRow, F0]
  show decodeRow09 z = _
  rw [decodeRow09, F1, E0, E1, E2]
  rfl
theorem vshlS (d : BitVec 7) (a : BitVec 7) (s : BitVec 7) : Statement (.vshlS d a s) := by
  intro hw _ z he
  have F0 : fx z 26 6 = 9 := by rw [← Option.some.inj he, fx, bits_11_7_7_7_0 _ _ (by decide) (by decide)]; rfl
  have F1 : fx z 21 5 = 10 := by rw [← Option.some.inj he, fx, bits_11_7_7_7_0 _ _ (by decide) (by decide)]; rfl
  have E0 : z.extractLsb' 14 7 = d := by rw [← Option.some.inj he, bits_11_7_7_7_1 _ _ (by decide) (by decide)]; exact ext_full d
  have E1 : z.extractLsb' 7 7 = a := by rw [← Option.some.inj he, bits_11_7_7_7_2 _ _ (by decide) (by decide)]; exact ext_full a
  have E2 : z.extractLsb' 0 7 = s := by rw [← Option.some.inj he, bits_11_7_7_7_3 _ _ (by decide) (by decide)]; exact ext_full s
  refine of_row hw F0 (by decide) ?_
  rw [decodeRow, F0]
  show decodeRow09 z = _
  rw [decodeRow09, F1, E0, E1, E2]
  rfl
theorem vshrS (d : BitVec 7) (a : BitVec 7) (s : BitVec 7) : Statement (.vshrS d a s) := by
  intro hw _ z he
  have F0 : fx z 26 6 = 9 := by rw [← Option.some.inj he, fx, bits_11_7_7_7_0 _ _ (by decide) (by decide)]; rfl
  have F1 : fx z 21 5 = 11 := by rw [← Option.some.inj he, fx, bits_11_7_7_7_0 _ _ (by decide) (by decide)]; rfl
  have E0 : z.extractLsb' 14 7 = d := by rw [← Option.some.inj he, bits_11_7_7_7_1 _ _ (by decide) (by decide)]; exact ext_full d
  have E1 : z.extractLsb' 7 7 = a := by rw [← Option.some.inj he, bits_11_7_7_7_2 _ _ (by decide) (by decide)]; exact ext_full a
  have E2 : z.extractLsb' 0 7 = s := by rw [← Option.some.inj he, bits_11_7_7_7_3 _ _ (by decide) (by decide)]; exact ext_full s
  refine of_row hw F0 (by decide) ?_
  rw [decodeRow, F0]
  show decodeRow09 z = _
  rw [decodeRow09, F1, E0, E1, E2]
  rfl
theorem vsraS (d : BitVec 7) (a : BitVec 7) (s : BitVec 7) : Statement (.vsraS d a s) := by
  intro hw _ z he
  have F0 : fx z 26 6 = 9 := by rw [← Option.some.inj he, fx, bits_11_7_7_7_0 _ _ (by decide) (by decide)]; rfl
  have F1 : fx z 21 5 = 12 := by rw [← Option.some.inj he, fx, bits_11_7_7_7_0 _ _ (by decide) (by decide)]; rfl
  have E0 : z.extractLsb' 14 7 = d := by rw [← Option.some.inj he, bits_11_7_7_7_1 _ _ (by decide) (by decide)]; exact ext_full d
  have E1 : z.extractLsb' 7 7 = a := by rw [← Option.some.inj he, bits_11_7_7_7_2 _ _ (by decide) (by decide)]; exact ext_full a
  have E2 : z.extractLsb' 0 7 = s := by rw [← Option.some.inj he, bits_11_7_7_7_3 _ _ (by decide) (by decide)]; exact ext_full s
  refine of_row hw F0 (by decide) ?_
  rw [decodeRow, F0]
  show decodeRow09 z = _
  rw [decodeRow09, F1, E0, E1, E2]
  rfl
theorem vabsdS32S (d : BitVec 7) (a : BitVec 7) (s : BitVec 7) : Statement (.vabsdS32S d a s) := by
  intro hw _ z he
  have F0 : fx z 26 6 = 9 := by rw [← Option.some.inj he, fx, bits_11_7_7_7_0 _ _ (by decide) (by decide)]; rfl
  have F1 : fx z 21 5 = 13 := by rw [← Option.some.inj he, fx, bits_11_7_7_7_0 _ _ (by decide) (by decide)]; rfl
  have E0 : z.extractLsb' 14 7 = d := by rw [← Option.some.inj he, bits_11_7_7_7_1 _ _ (by decide) (by decide)]; exact ext_full d
  have E1 : z.extractLsb' 7 7 = a := by rw [← Option.some.inj he, bits_11_7_7_7_2 _ _ (by decide) (by decide)]; exact ext_full a
  have E2 : z.extractLsb' 0 7 = s := by rw [← Option.some.inj he, bits_11_7_7_7_3 _ _ (by decide) (by decide)]; exact ext_full s
  refine of_row hw F0 (by decide) ?_
  rw [decodeRow, F0]
  show decodeRow09 z = _
  rw [decodeRow09, F1, E0, E1, E2]
  rfl
theorem vaddS32I (d : BitVec 7) (a : BitVec 7) (i : BitVec 7) : Statement (.vaddS32I d a i) := by
  intro hw _ z he
  have F0 : fx z 26 6 = 10 := by rw [← Option.some.inj he, fx, bits_11_7_7_7_0 _ _ (by decide) (by decide)]; rfl
  have F1 : fx z 21 5 = 0 := by rw [← Option.some.inj he, fx, bits_11_7_7_7_0 _ _ (by decide) (by decide)]; rfl
  have E0 : z.extractLsb' 14 7 = d := by rw [← Option.some.inj he, bits_11_7_7_7_1 _ _ (by decide) (by decide)]; exact ext_full d
  have E1 : z.extractLsb' 7 7 = a := by rw [← Option.some.inj he, bits_11_7_7_7_2 _ _ (by decide) (by decide)]; exact ext_full a
  have E2 : z.extractLsb' 0 7 = i := by rw [← Option.some.inj he, bits_11_7_7_7_3 _ _ (by decide) (by decide)]; exact ext_full i
  refine of_row hw F0 (by decide) ?_
  rw [decodeRow, F0]
  show decodeRow0A z = _
  rw [decodeRow0A, F1, E0, E1, E2]
  rfl
theorem vsubS32I (d : BitVec 7) (a : BitVec 7) (i : BitVec 7) : Statement (.vsubS32I d a i) := by
  intro hw _ z he
  have F0 : fx z 26 6 = 10 := by rw [← Option.some.inj he, fx, bits_11_7_7_7_0 _ _ (by decide) (by decide)]; rfl
  have F1 : fx z 21 5 = 1 := by rw [← Option.some.inj he, fx, bits_11_7_7_7_0 _ _ (by decide) (by decide)]; rfl
  have E0 : z.extractLsb' 14 7 = d := by rw [← Option.some.inj he, bits_11_7_7_7_1 _ _ (by decide) (by decide)]; exact ext_full d
  have E1 : z.extractLsb' 7 7 = a := by rw [← Option.some.inj he, bits_11_7_7_7_2 _ _ (by decide) (by decide)]; exact ext_full a
  have E2 : z.extractLsb' 0 7 = i := by rw [← Option.some.inj he, bits_11_7_7_7_3 _ _ (by decide) (by decide)]; exact ext_full i
  refine of_row hw F0 (by decide) ?_
  rw [decodeRow, F0]
  show decodeRow0A z = _
  rw [decodeRow0A, F1, E0, E1, E2]
  rfl
theorem vaddSatS32I (d : BitVec 7) (a : BitVec 7) (i : BitVec 7) : Statement (.vaddSatS32I d a i) := by
  intro hw _ z he
  have F0 : fx z 26 6 = 10 := by rw [← Option.some.inj he, fx, bits_11_7_7_7_0 _ _ (by decide) (by decide)]; rfl
  have F1 : fx z 21 5 = 2 := by rw [← Option.some.inj he, fx, bits_11_7_7_7_0 _ _ (by decide) (by decide)]; rfl
  have E0 : z.extractLsb' 14 7 = d := by rw [← Option.some.inj he, bits_11_7_7_7_1 _ _ (by decide) (by decide)]; exact ext_full d
  have E1 : z.extractLsb' 7 7 = a := by rw [← Option.some.inj he, bits_11_7_7_7_2 _ _ (by decide) (by decide)]; exact ext_full a
  have E2 : z.extractLsb' 0 7 = i := by rw [← Option.some.inj he, bits_11_7_7_7_3 _ _ (by decide) (by decide)]; exact ext_full i
  refine of_row hw F0 (by decide) ?_
  rw [decodeRow, F0]
  show decodeRow0A z = _
  rw [decodeRow0A, F1, E0, E1, E2]
  rfl
theorem vaddSatU32I (d : BitVec 7) (a : BitVec 7) (i : BitVec 7) : Statement (.vaddSatU32I d a i) := by
  intro hw _ z he
  have F0 : fx z 26 6 = 10 := by rw [← Option.some.inj he, fx, bits_11_7_7_7_0 _ _ (by decide) (by decide)]; rfl
  have F1 : fx z 21 5 = 3 := by rw [← Option.some.inj he, fx, bits_11_7_7_7_0 _ _ (by decide) (by decide)]; rfl
  have E0 : z.extractLsb' 14 7 = d := by rw [← Option.some.inj he, bits_11_7_7_7_1 _ _ (by decide) (by decide)]; exact ext_full d
  have E1 : z.extractLsb' 7 7 = a := by rw [← Option.some.inj he, bits_11_7_7_7_2 _ _ (by decide) (by decide)]; exact ext_full a
  have E2 : z.extractLsb' 0 7 = i := by rw [← Option.some.inj he, bits_11_7_7_7_3 _ _ (by decide) (by decide)]; exact ext_full i
  refine of_row hw F0 (by decide) ?_
  rw [decodeRow, F0]
  show decodeRow0A z = _
  rw [decodeRow0A, F1, E0, E1, E2]
  rfl
theorem vsubSatS32I (d : BitVec 7) (a : BitVec 7) (i : BitVec 7) : Statement (.vsubSatS32I d a i) := by
  intro hw _ z he
  have F0 : fx z 26 6 = 10 := by rw [← Option.some.inj he, fx, bits_11_7_7_7_0 _ _ (by decide) (by decide)]; rfl
  have F1 : fx z 21 5 = 4 := by rw [← Option.some.inj he, fx, bits_11_7_7_7_0 _ _ (by decide) (by decide)]; rfl
  have E0 : z.extractLsb' 14 7 = d := by rw [← Option.some.inj he, bits_11_7_7_7_1 _ _ (by decide) (by decide)]; exact ext_full d
  have E1 : z.extractLsb' 7 7 = a := by rw [← Option.some.inj he, bits_11_7_7_7_2 _ _ (by decide) (by decide)]; exact ext_full a
  have E2 : z.extractLsb' 0 7 = i := by rw [← Option.some.inj he, bits_11_7_7_7_3 _ _ (by decide) (by decide)]; exact ext_full i
  refine of_row hw F0 (by decide) ?_
  rw [decodeRow, F0]
  show decodeRow0A z = _
  rw [decodeRow0A, F1, E0, E1, E2]
  rfl
theorem vsubSatU32I (d : BitVec 7) (a : BitVec 7) (i : BitVec 7) : Statement (.vsubSatU32I d a i) := by
  intro hw _ z he
  have F0 : fx z 26 6 = 10 := by rw [← Option.some.inj he, fx, bits_11_7_7_7_0 _ _ (by decide) (by decide)]; rfl
  have F1 : fx z 21 5 = 5 := by rw [← Option.some.inj he, fx, bits_11_7_7_7_0 _ _ (by decide) (by decide)]; rfl
  have E0 : z.extractLsb' 14 7 = d := by rw [← Option.some.inj he, bits_11_7_7_7_1 _ _ (by decide) (by decide)]; exact ext_full d
  have E1 : z.extractLsb' 7 7 = a := by rw [← Option.some.inj he, bits_11_7_7_7_2 _ _ (by decide) (by decide)]; exact ext_full a
  have E2 : z.extractLsb' 0 7 = i := by rw [← Option.some.inj he, bits_11_7_7_7_3 _ _ (by decide) (by decide)]; exact ext_full i
  refine of_row hw F0 (by decide) ?_
  rw [decodeRow, F0]
  show decodeRow0A z = _
  rw [decodeRow0A, F1, E0, E1, E2]
  rfl
theorem vminS32I (d : BitVec 7) (a : BitVec 7) (i : BitVec 7) : Statement (.vminS32I d a i) := by
  intro hw _ z he
  have F0 : fx z 26 6 = 10 := by rw [← Option.some.inj he, fx, bits_11_7_7_7_0 _ _ (by decide) (by decide)]; rfl
  have F1 : fx z 21 5 = 6 := by rw [← Option.some.inj he, fx, bits_11_7_7_7_0 _ _ (by decide) (by decide)]; rfl
  have E0 : z.extractLsb' 14 7 = d := by rw [← Option.some.inj he, bits_11_7_7_7_1 _ _ (by decide) (by decide)]; exact ext_full d
  have E1 : z.extractLsb' 7 7 = a := by rw [← Option.some.inj he, bits_11_7_7_7_2 _ _ (by decide) (by decide)]; exact ext_full a
  have E2 : z.extractLsb' 0 7 = i := by rw [← Option.some.inj he, bits_11_7_7_7_3 _ _ (by decide) (by decide)]; exact ext_full i
  refine of_row hw F0 (by decide) ?_
  rw [decodeRow, F0]
  show decodeRow0A z = _
  rw [decodeRow0A, F1, E0, E1, E2]
  rfl
theorem vmaxS32I (d : BitVec 7) (a : BitVec 7) (i : BitVec 7) : Statement (.vmaxS32I d a i) := by
  intro hw _ z he
  have F0 : fx z 26 6 = 10 := by rw [← Option.some.inj he, fx, bits_11_7_7_7_0 _ _ (by decide) (by decide)]; rfl
  have F1 : fx z 21 5 = 7 := by rw [← Option.some.inj he, fx, bits_11_7_7_7_0 _ _ (by decide) (by decide)]; rfl
  have E0 : z.extractLsb' 14 7 = d := by rw [← Option.some.inj he, bits_11_7_7_7_1 _ _ (by decide) (by decide)]; exact ext_full d
  have E1 : z.extractLsb' 7 7 = a := by rw [← Option.some.inj he, bits_11_7_7_7_2 _ _ (by decide) (by decide)]; exact ext_full a
  have E2 : z.extractLsb' 0 7 = i := by rw [← Option.some.inj he, bits_11_7_7_7_3 _ _ (by decide) (by decide)]; exact ext_full i
  refine of_row hw F0 (by decide) ?_
  rw [decodeRow, F0]
  show decodeRow0A z = _
  rw [decodeRow0A, F1, E0, E1, E2]
  rfl
theorem vminU32I (d : BitVec 7) (a : BitVec 7) (i : BitVec 7) : Statement (.vminU32I d a i) := by
  intro hw _ z he
  have F0 : fx z 26 6 = 10 := by rw [← Option.some.inj he, fx, bits_11_7_7_7_0 _ _ (by decide) (by decide)]; rfl
  have F1 : fx z 21 5 = 8 := by rw [← Option.some.inj he, fx, bits_11_7_7_7_0 _ _ (by decide) (by decide)]; rfl
  have E0 : z.extractLsb' 14 7 = d := by rw [← Option.some.inj he, bits_11_7_7_7_1 _ _ (by decide) (by decide)]; exact ext_full d
  have E1 : z.extractLsb' 7 7 = a := by rw [← Option.some.inj he, bits_11_7_7_7_2 _ _ (by decide) (by decide)]; exact ext_full a
  have E2 : z.extractLsb' 0 7 = i := by rw [← Option.some.inj he, bits_11_7_7_7_3 _ _ (by decide) (by decide)]; exact ext_full i
  refine of_row hw F0 (by decide) ?_
  rw [decodeRow, F0]
  show decodeRow0A z = _
  rw [decodeRow0A, F1, E0, E1, E2]
  rfl
theorem vmaxU32I (d : BitVec 7) (a : BitVec 7) (i : BitVec 7) : Statement (.vmaxU32I d a i) := by
  intro hw _ z he
  have F0 : fx z 26 6 = 10 := by rw [← Option.some.inj he, fx, bits_11_7_7_7_0 _ _ (by decide) (by decide)]; rfl
  have F1 : fx z 21 5 = 9 := by rw [← Option.some.inj he, fx, bits_11_7_7_7_0 _ _ (by decide) (by decide)]; rfl
  have E0 : z.extractLsb' 14 7 = d := by rw [← Option.some.inj he, bits_11_7_7_7_1 _ _ (by decide) (by decide)]; exact ext_full d
  have E1 : z.extractLsb' 7 7 = a := by rw [← Option.some.inj he, bits_11_7_7_7_2 _ _ (by decide) (by decide)]; exact ext_full a
  have E2 : z.extractLsb' 0 7 = i := by rw [← Option.some.inj he, bits_11_7_7_7_3 _ _ (by decide) (by decide)]; exact ext_full i
  refine of_row hw F0 (by decide) ?_
  rw [decodeRow, F0]
  show decodeRow0A z = _
  rw [decodeRow0A, F1, E0, E1, E2]
  rfl
theorem vshlI (d : BitVec 7) (a : BitVec 7) (i : BitVec 7) : Statement (.vshlI d a i) := by
  intro hw _ z he
  have F0 : fx z 26 6 = 10 := by rw [← Option.some.inj he, fx, bits_11_7_7_7_0 _ _ (by decide) (by decide)]; rfl
  have F1 : fx z 21 5 = 10 := by rw [← Option.some.inj he, fx, bits_11_7_7_7_0 _ _ (by decide) (by decide)]; rfl
  have E0 : z.extractLsb' 14 7 = d := by rw [← Option.some.inj he, bits_11_7_7_7_1 _ _ (by decide) (by decide)]; exact ext_full d
  have E1 : z.extractLsb' 7 7 = a := by rw [← Option.some.inj he, bits_11_7_7_7_2 _ _ (by decide) (by decide)]; exact ext_full a
  have E2 : z.extractLsb' 0 7 = i := by rw [← Option.some.inj he, bits_11_7_7_7_3 _ _ (by decide) (by decide)]; exact ext_full i
  refine of_row hw F0 (by decide) ?_
  rw [decodeRow, F0]
  show decodeRow0A z = _
  rw [decodeRow0A, F1, E0, E1, E2]
  rfl
theorem vshrI (d : BitVec 7) (a : BitVec 7) (i : BitVec 7) : Statement (.vshrI d a i) := by
  intro hw _ z he
  have F0 : fx z 26 6 = 10 := by rw [← Option.some.inj he, fx, bits_11_7_7_7_0 _ _ (by decide) (by decide)]; rfl
  have F1 : fx z 21 5 = 11 := by rw [← Option.some.inj he, fx, bits_11_7_7_7_0 _ _ (by decide) (by decide)]; rfl
  have E0 : z.extractLsb' 14 7 = d := by rw [← Option.some.inj he, bits_11_7_7_7_1 _ _ (by decide) (by decide)]; exact ext_full d
  have E1 : z.extractLsb' 7 7 = a := by rw [← Option.some.inj he, bits_11_7_7_7_2 _ _ (by decide) (by decide)]; exact ext_full a
  have E2 : z.extractLsb' 0 7 = i := by rw [← Option.some.inj he, bits_11_7_7_7_3 _ _ (by decide) (by decide)]; exact ext_full i
  refine of_row hw F0 (by decide) ?_
  rw [decodeRow, F0]
  show decodeRow0A z = _
  rw [decodeRow0A, F1, E0, E1, E2]
  rfl
theorem vsraI (d : BitVec 7) (a : BitVec 7) (i : BitVec 7) : Statement (.vsraI d a i) := by
  intro hw _ z he
  have F0 : fx z 26 6 = 10 := by rw [← Option.some.inj he, fx, bits_11_7_7_7_0 _ _ (by decide) (by decide)]; rfl
  have F1 : fx z 21 5 = 12 := by rw [← Option.some.inj he, fx, bits_11_7_7_7_0 _ _ (by decide) (by decide)]; rfl
  have E0 : z.extractLsb' 14 7 = d := by rw [← Option.some.inj he, bits_11_7_7_7_1 _ _ (by decide) (by decide)]; exact ext_full d
  have E1 : z.extractLsb' 7 7 = a := by rw [← Option.some.inj he, bits_11_7_7_7_2 _ _ (by decide) (by decide)]; exact ext_full a
  have E2 : z.extractLsb' 0 7 = i := by rw [← Option.some.inj he, bits_11_7_7_7_3 _ _ (by decide) (by decide)]; exact ext_full i
  refine of_row hw F0 (by decide) ?_
  rw [decodeRow, F0]
  show decodeRow0A z = _
  rw [decodeRow0A, F1, E0, E1, E2]
  rfl
theorem vabsdS32I (d : BitVec 7) (a : BitVec 7) (i : BitVec 7) : Statement (.vabsdS32I d a i) := by
  intro hw _ z he
  have F0 : fx z 26 6 = 10 := by rw [← Option.some.inj he, fx, bits_11_7_7_7_0 _ _ (by decide) (by decide)]; rfl
  have F1 : fx z 21 5 = 13 := by rw [← Option.some.inj he, fx, bits_11_7_7_7_0 _ _ (by decide) (by decide)]; rfl
  have E0 : z.extractLsb' 14 7 = d := by rw [← Option.some.inj he, bits_11_7_7_7_1 _ _ (by decide) (by decide)]; exact ext_full d
  have E1 : z.extractLsb' 7 7 = a := by rw [← Option.some.inj he, bits_11_7_7_7_2 _ _ (by decide) (by decide)]; exact ext_full a
  have E2 : z.extractLsb' 0 7 = i := by rw [← Option.some.inj he, bits_11_7_7_7_3 _ _ (by decide) (by decide)]; exact ext_full i
  refine of_row hw F0 (by decide) ?_
  rw [decodeRow, F0]
  show decodeRow0A z = _
  rw [decodeRow0A, F1, E0, E1, E2]
  rfl
theorem vmulLo (d : BitVec 7) (a : BitVec 7) (b : BitVec 7) : Statement (.vmulLo d a b) := by
  intro hw _ z he
  have F0 : fx z 26 6 = 11 := by rw [← Option.some.inj he, fx, bits_11_7_7_7_0 _ _ (by decide) (by decide)]; rfl
  have F1 : fx z 21 5 = 0 := by rw [← Option.some.inj he, fx, bits_11_7_7_7_0 _ _ (by decide) (by decide)]; rfl
  have E0 : z.extractLsb' 14 7 = d := by rw [← Option.some.inj he, bits_11_7_7_7_1 _ _ (by decide) (by decide)]; exact ext_full d
  have E1 : z.extractLsb' 7 7 = a := by rw [← Option.some.inj he, bits_11_7_7_7_2 _ _ (by decide) (by decide)]; exact ext_full a
  have E2 : z.extractLsb' 0 7 = b := by rw [← Option.some.inj he, bits_11_7_7_7_3 _ _ (by decide) (by decide)]; exact ext_full b
  refine of_row hw F0 (by decide) ?_
  rw [decodeRow, F0]
  show decodeRow0B z = _
  rw [decodeRow0B, F1, E0, E1, E2]
  rfl
theorem vmulhiS32 (d : BitVec 7) (a : BitVec 7) (b : BitVec 7) : Statement (.vmulhiS32 d a b) := by
  intro hw _ z he
  have F0 : fx z 26 6 = 11 := by rw [← Option.some.inj he, fx, bits_11_7_7_7_0 _ _ (by decide) (by decide)]; rfl
  have F1 : fx z 21 5 = 1 := by rw [← Option.some.inj he, fx, bits_11_7_7_7_0 _ _ (by decide) (by decide)]; rfl
  have E0 : z.extractLsb' 14 7 = d := by rw [← Option.some.inj he, bits_11_7_7_7_1 _ _ (by decide) (by decide)]; exact ext_full d
  have E1 : z.extractLsb' 7 7 = a := by rw [← Option.some.inj he, bits_11_7_7_7_2 _ _ (by decide) (by decide)]; exact ext_full a
  have E2 : z.extractLsb' 0 7 = b := by rw [← Option.some.inj he, bits_11_7_7_7_3 _ _ (by decide) (by decide)]; exact ext_full b
  refine of_row hw F0 (by decide) ?_
  rw [decodeRow, F0]
  show decodeRow0B z = _
  rw [decodeRow0B, F1, E0, E1, E2]
  rfl
theorem vmulhiU32 (d : BitVec 7) (a : BitVec 7) (b : BitVec 7) : Statement (.vmulhiU32 d a b) := by
  intro hw _ z he
  have F0 : fx z 26 6 = 11 := by rw [← Option.some.inj he, fx, bits_11_7_7_7_0 _ _ (by decide) (by decide)]; rfl
  have F1 : fx z 21 5 = 2 := by rw [← Option.some.inj he, fx, bits_11_7_7_7_0 _ _ (by decide) (by decide)]; rfl
  have E0 : z.extractLsb' 14 7 = d := by rw [← Option.some.inj he, bits_11_7_7_7_1 _ _ (by decide) (by decide)]; exact ext_full d
  have E1 : z.extractLsb' 7 7 = a := by rw [← Option.some.inj he, bits_11_7_7_7_2 _ _ (by decide) (by decide)]; exact ext_full a
  have E2 : z.extractLsb' 0 7 = b := by rw [← Option.some.inj he, bits_11_7_7_7_3 _ _ (by decide) (by decide)]; exact ext_full b
  refine of_row hw F0 (by decide) ?_
  rw [decodeRow, F0]
  show decodeRow0B z = _
  rw [decodeRow0B, F1, E0, E1, E2]
  rfl
theorem vmadLo (d : BitVec 7) (a : BitVec 7) (b : BitVec 7) : Statement (.vmadLo d a b) := by
  intro hw _ z he
  have F0 : fx z 26 6 = 11 := by rw [← Option.some.inj he, fx, bits_11_7_7_7_0 _ _ (by decide) (by decide)]; rfl
  have F1 : fx z 21 5 = 3 := by rw [← Option.some.inj he, fx, bits_11_7_7_7_0 _ _ (by decide) (by decide)]; rfl
  have E0 : z.extractLsb' 14 7 = d := by rw [← Option.some.inj he, bits_11_7_7_7_1 _ _ (by decide) (by decide)]; exact ext_full d
  have E1 : z.extractLsb' 7 7 = a := by rw [← Option.some.inj he, bits_11_7_7_7_2 _ _ (by decide) (by decide)]; exact ext_full a
  have E2 : z.extractLsb' 0 7 = b := by rw [← Option.some.inj he, bits_11_7_7_7_3 _ _ (by decide) (by decide)]; exact ext_full b
  refine of_row hw F0 (by decide) ?_
  rw [decodeRow, F0]
  show decodeRow0B z = _
  rw [decodeRow0B, F1, E0, E1, E2]
  rfl
theorem vmadSatS32 (d : BitVec 7) (a : BitVec 7) (b : BitVec 7) : Statement (.vmadSatS32 d a b) := by
  intro hw _ z he
  have F0 : fx z 26 6 = 11 := by rw [← Option.some.inj he, fx, bits_11_7_7_7_0 _ _ (by decide) (by decide)]; rfl
  have F1 : fx z 21 5 = 4 := by rw [← Option.some.inj he, fx, bits_11_7_7_7_0 _ _ (by decide) (by decide)]; rfl
  have E0 : z.extractLsb' 14 7 = d := by rw [← Option.some.inj he, bits_11_7_7_7_1 _ _ (by decide) (by decide)]; exact ext_full d
  have E1 : z.extractLsb' 7 7 = a := by rw [← Option.some.inj he, bits_11_7_7_7_2 _ _ (by decide) (by decide)]; exact ext_full a
  have E2 : z.extractLsb' 0 7 = b := by rw [← Option.some.inj he, bits_11_7_7_7_3 _ _ (by decide) (by decide)]; exact ext_full b
  refine of_row hw F0 (by decide) ?_
  rw [decodeRow, F0]
  show decodeRow0B z = _
  rw [decodeRow0B, F1, E0, E1, E2]
  rfl
theorem vmulWideS32 (d : BitVec 7) (a : BitVec 7) (b : BitVec 7) : Statement (.vmulWideS32 d a b) := by
  intro hw _ z he
  have F0 : fx z 26 6 = 11 := by rw [← Option.some.inj he, fx, bits_11_7_7_7_0 _ _ (by decide) (by decide)]; rfl
  have F1 : fx z 21 5 = 5 := by rw [← Option.some.inj he, fx, bits_11_7_7_7_0 _ _ (by decide) (by decide)]; rfl
  have E0 : z.extractLsb' 14 7 = d := by rw [← Option.some.inj he, bits_11_7_7_7_1 _ _ (by decide) (by decide)]; exact ext_full d
  have E1 : z.extractLsb' 7 7 = a := by rw [← Option.some.inj he, bits_11_7_7_7_2 _ _ (by decide) (by decide)]; exact ext_full a
  have E2 : z.extractLsb' 0 7 = b := by rw [← Option.some.inj he, bits_11_7_7_7_3 _ _ (by decide) (by decide)]; exact ext_full b
  refine of_row hw F0 (by decide) ?_
  rw [decodeRow, F0]
  show decodeRow0B z = _
  rw [decodeRow0B, F1, E0, E1, E2]
  rfl
theorem vmulWideU32 (d : BitVec 7) (a : BitVec 7) (b : BitVec 7) : Statement (.vmulWideU32 d a b) := by
  intro hw _ z he
  have F0 : fx z 26 6 = 11 := by rw [← Option.some.inj he, fx, bits_11_7_7_7_0 _ _ (by decide) (by decide)]; rfl
  have F1 : fx z 21 5 = 6 := by rw [← Option.some.inj he, fx, bits_11_7_7_7_0 _ _ (by decide) (by decide)]; rfl
  have E0 : z.extractLsb' 14 7 = d := by rw [← Option.some.inj he, bits_11_7_7_7_1 _ _ (by decide) (by decide)]; exact ext_full d
  have E1 : z.extractLsb' 7 7 = a := by rw [← Option.some.inj he, bits_11_7_7_7_2 _ _ (by decide) (by decide)]; exact ext_full a
  have E2 : z.extractLsb' 0 7 = b := by rw [← Option.some.inj he, bits_11_7_7_7_3 _ _ (by decide) (by decide)]; exact ext_full b
  refine of_row hw F0 (by decide) ?_
  rw [decodeRow, F0]
  show decodeRow0B z = _
  rw [decodeRow0B, F1, E0, E1, E2]
  rfl
theorem vand (d : BitVec 7) (a : BitVec 7) (b : BitVec 7) : Statement (.vand d a b) := by
  intro hw _ z he
  have F0 : fx z 26 6 = 12 := by rw [← Option.some.inj he, fx, bits_11_7_7_7_0 _ _ (by decide) (by decide)]; rfl
  have F1 : fx z 21 5 = 0 := by rw [← Option.some.inj he, fx, bits_11_7_7_7_0 _ _ (by decide) (by decide)]; rfl
  have E0 : z.extractLsb' 14 7 = d := by rw [← Option.some.inj he, bits_11_7_7_7_1 _ _ (by decide) (by decide)]; exact ext_full d
  have E1 : z.extractLsb' 7 7 = a := by rw [← Option.some.inj he, bits_11_7_7_7_2 _ _ (by decide) (by decide)]; exact ext_full a
  have E2 : z.extractLsb' 0 7 = b := by rw [← Option.some.inj he, bits_11_7_7_7_3 _ _ (by decide) (by decide)]; exact ext_full b
  refine of_row hw F0 (by decide) ?_
  rw [decodeRow, F0]
  show decodeRow0C z = _
  rw [decodeRow0C, F1, E0, E1, E2]
  rfl
theorem vor (d : BitVec 7) (a : BitVec 7) (b : BitVec 7) : Statement (.vor d a b) := by
  intro hw _ z he
  have F0 : fx z 26 6 = 12 := by rw [← Option.some.inj he, fx, bits_11_7_7_7_0 _ _ (by decide) (by decide)]; rfl
  have F1 : fx z 21 5 = 1 := by rw [← Option.some.inj he, fx, bits_11_7_7_7_0 _ _ (by decide) (by decide)]; rfl
  have E0 : z.extractLsb' 14 7 = d := by rw [← Option.some.inj he, bits_11_7_7_7_1 _ _ (by decide) (by decide)]; exact ext_full d
  have E1 : z.extractLsb' 7 7 = a := by rw [← Option.some.inj he, bits_11_7_7_7_2 _ _ (by decide) (by decide)]; exact ext_full a
  have E2 : z.extractLsb' 0 7 = b := by rw [← Option.some.inj he, bits_11_7_7_7_3 _ _ (by decide) (by decide)]; exact ext_full b
  refine of_row hw F0 (by decide) ?_
  rw [decodeRow, F0]
  show decodeRow0C z = _
  rw [decodeRow0C, F1, E0, E1, E2]
  rfl
theorem vxor (d : BitVec 7) (a : BitVec 7) (b : BitVec 7) : Statement (.vxor d a b) := by
  intro hw _ z he
  have F0 : fx z 26 6 = 12 := by rw [← Option.some.inj he, fx, bits_11_7_7_7_0 _ _ (by decide) (by decide)]; rfl
  have F1 : fx z 21 5 = 2 := by rw [← Option.some.inj he, fx, bits_11_7_7_7_0 _ _ (by decide) (by decide)]; rfl
  have E0 : z.extractLsb' 14 7 = d := by rw [← Option.some.inj he, bits_11_7_7_7_1 _ _ (by decide) (by decide)]; exact ext_full d
  have E1 : z.extractLsb' 7 7 = a := by rw [← Option.some.inj he, bits_11_7_7_7_2 _ _ (by decide) (by decide)]; exact ext_full a
  have E2 : z.extractLsb' 0 7 = b := by rw [← Option.some.inj he, bits_11_7_7_7_3 _ _ (by decide) (by decide)]; exact ext_full b
  refine of_row hw F0 (by decide) ?_
  rw [decodeRow, F0]
  show decodeRow0C z = _
  rw [decodeRow0C, F1, E0, E1, E2]
  rfl
theorem vandn (d : BitVec 7) (a : BitVec 7) (b : BitVec 7) : Statement (.vandn d a b) := by
  intro hw _ z he
  have F0 : fx z 26 6 = 12 := by rw [← Option.some.inj he, fx, bits_11_7_7_7_0 _ _ (by decide) (by decide)]; rfl
  have F1 : fx z 21 5 = 3 := by rw [← Option.some.inj he, fx, bits_11_7_7_7_0 _ _ (by decide) (by decide)]; rfl
  have E0 : z.extractLsb' 14 7 = d := by rw [← Option.some.inj he, bits_11_7_7_7_1 _ _ (by decide) (by decide)]; exact ext_full d
  have E1 : z.extractLsb' 7 7 = a := by rw [← Option.some.inj he, bits_11_7_7_7_2 _ _ (by decide) (by decide)]; exact ext_full a
  have E2 : z.extractLsb' 0 7 = b := by rw [← Option.some.inj he, bits_11_7_7_7_3 _ _ (by decide) (by decide)]; exact ext_full b
  refine of_row hw F0 (by decide) ?_
  rw [decodeRow, F0]
  show decodeRow0C z = _
  rw [decodeRow0C, F1, E0, E1, E2]
  rfl
theorem vnot (d : BitVec 7) (a : BitVec 7) : Statement (.vnot d a) := by
  intro hw _ z he
  have F0 : fx z 26 6 = 12 := by rw [← Option.some.inj he, fx, bits_11_7_7_7_0 _ _ (by decide) (by decide)]; rfl
  have F1 : fx z 21 5 = 4 := by rw [← Option.some.inj he, fx, bits_11_7_7_7_0 _ _ (by decide) (by decide)]; rfl
  have F2 : fx z 0 7 = 0 := by rw [← Option.some.inj he, fx, bits_11_7_7_7_3 _ _ (by decide) (by decide)]; rfl
  have E0 : z.extractLsb' 14 7 = d := by rw [← Option.some.inj he, bits_11_7_7_7_1 _ _ (by decide) (by decide)]; exact ext_full d
  have E1 : z.extractLsb' 7 7 = a := by rw [← Option.some.inj he, bits_11_7_7_7_2 _ _ (by decide) (by decide)]; exact ext_full a
  refine of_row hw F0 (by decide) ?_
  rw [decodeRow, F0]
  show decodeRow0C z = _
  rw [decodeRow0C, F1, F2, E0, E1]
  rfl
theorem vpopc (d : BitVec 7) (a : BitVec 7) : Statement (.vpopc d a) := by
  intro hw _ z he
  have F0 : fx z 26 6 = 12 := by rw [← Option.some.inj he, fx, bits_11_7_7_7_0 _ _ (by decide) (by decide)]; rfl
  have F1 : fx z 21 5 = 5 := by rw [← Option.some.inj he, fx, bits_11_7_7_7_0 _ _ (by decide) (by decide)]; rfl
  have F2 : fx z 0 7 = 0 := by rw [← Option.some.inj he, fx, bits_11_7_7_7_3 _ _ (by decide) (by decide)]; rfl
  have E0 : z.extractLsb' 14 7 = d := by rw [← Option.some.inj he, bits_11_7_7_7_1 _ _ (by decide) (by decide)]; exact ext_full d
  have E1 : z.extractLsb' 7 7 = a := by rw [← Option.some.inj he, bits_11_7_7_7_2 _ _ (by decide) (by decide)]; exact ext_full a
  refine of_row hw F0 (by decide) ?_
  rw [decodeRow, F0]
  show decodeRow0C z = _
  rw [decodeRow0C, F1, F2, E0, E1]
  rfl
theorem vclz (d : BitVec 7) (a : BitVec 7) : Statement (.vclz d a) := by
  intro hw _ z he
  have F0 : fx z 26 6 = 12 := by rw [← Option.some.inj he, fx, bits_11_7_7_7_0 _ _ (by decide) (by decide)]; rfl
  have F1 : fx z 21 5 = 6 := by rw [← Option.some.inj he, fx, bits_11_7_7_7_0 _ _ (by decide) (by decide)]; rfl
  have F2 : fx z 0 7 = 0 := by rw [← Option.some.inj he, fx, bits_11_7_7_7_3 _ _ (by decide) (by decide)]; rfl
  have E0 : z.extractLsb' 14 7 = d := by rw [← Option.some.inj he, bits_11_7_7_7_1 _ _ (by decide) (by decide)]; exact ext_full d
  have E1 : z.extractLsb' 7 7 = a := by rw [← Option.some.inj he, bits_11_7_7_7_2 _ _ (by decide) (by decide)]; exact ext_full a
  refine of_row hw F0 (by decide) ?_
  rw [decodeRow, F0]
  show decodeRow0C z = _
  rw [decodeRow0C, F1, F2, E0, E1]
  rfl
theorem vbrev (d : BitVec 7) (a : BitVec 7) : Statement (.vbrev d a) := by
  intro hw _ z he
  have F0 : fx z 26 6 = 12 := by rw [← Option.some.inj he, fx, bits_11_7_7_7_0 _ _ (by decide) (by decide)]; rfl
  have F1 : fx z 21 5 = 7 := by rw [← Option.some.inj he, fx, bits_11_7_7_7_0 _ _ (by decide) (by decide)]; rfl
  have F2 : fx z 0 7 = 0 := by rw [← Option.some.inj he, fx, bits_11_7_7_7_3 _ _ (by decide) (by decide)]; rfl
  have E0 : z.extractLsb' 14 7 = d := by rw [← Option.some.inj he, bits_11_7_7_7_1 _ _ (by decide) (by decide)]; exact ext_full d
  have E1 : z.extractLsb' 7 7 = a := by rw [← Option.some.inj he, bits_11_7_7_7_2 _ _ (by decide) (by decide)]; exact ext_full a
  refine of_row hw F0 (by decide) ?_
  rw [decodeRow, F0]
  show decodeRow0C z = _
  rw [decodeRow0C, F1, F2, E0, E1]
  rfl
theorem vbfxU32 (d : BitVec 7) (a : BitVec 7) (b : BitVec 7) : Statement (.vbfxU32 d a b) := by
  intro hw _ z he
  have F0 : fx z 26 6 = 12 := by rw [← Option.some.inj he, fx, bits_11_7_7_7_0 _ _ (by decide) (by decide)]; rfl
  have F1 : fx z 21 5 = 8 := by rw [← Option.some.inj he, fx, bits_11_7_7_7_0 _ _ (by decide) (by decide)]; rfl
  have E0 : z.extractLsb' 14 7 = d := by rw [← Option.some.inj he, bits_11_7_7_7_1 _ _ (by decide) (by decide)]; exact ext_full d
  have E1 : z.extractLsb' 7 7 = a := by rw [← Option.some.inj he, bits_11_7_7_7_2 _ _ (by decide) (by decide)]; exact ext_full a
  have E2 : z.extractLsb' 0 7 = b := by rw [← Option.some.inj he, bits_11_7_7_7_3 _ _ (by decide) (by decide)]; exact ext_full b
  refine of_row hw F0 (by decide) ?_
  rw [decodeRow, F0]
  show decodeRow0C z = _
  rw [decodeRow0C, F1, E0, E1, E2]
  rfl
theorem vbfxS32 (d : BitVec 7) (a : BitVec 7) (b : BitVec 7) : Statement (.vbfxS32 d a b) := by
  intro hw _ z he
  have F0 : fx z 26 6 = 12 := by rw [← Option.some.inj he, fx, bits_11_7_7_7_0 _ _ (by decide) (by decide)]; rfl
  have F1 : fx z 21 5 = 9 := by rw [← Option.some.inj he, fx, bits_11_7_7_7_0 _ _ (by decide) (by decide)]; rfl
  have E0 : z.extractLsb' 14 7 = d := by rw [← Option.some.inj he, bits_11_7_7_7_1 _ _ (by decide) (by decide)]; exact ext_full d
  have E1 : z.extractLsb' 7 7 = a := by rw [← Option.some.inj he, bits_11_7_7_7_2 _ _ (by decide) (by decide)]; exact ext_full a
  have E2 : z.extractLsb' 0 7 = b := by rw [← Option.some.inj he, bits_11_7_7_7_3 _ _ (by decide) (by decide)]; exact ext_full b
  refine of_row hw F0 (by decide) ?_
  rw [decodeRow, F0]
  show decodeRow0C z = _
  rw [decodeRow0C, F1, E0, E1, E2]
  rfl
theorem vbfi (d : BitVec 7) (a : BitVec 7) (b : BitVec 7) : Statement (.vbfi d a b) := by
  intro hw _ z he
  have F0 : fx z 26 6 = 12 := by rw [← Option.some.inj he, fx, bits_11_7_7_7_0 _ _ (by decide) (by decide)]; rfl
  have F1 : fx z 21 5 = 10 := by rw [← Option.some.inj he, fx, bits_11_7_7_7_0 _ _ (by decide) (by decide)]; rfl
  have E0 : z.extractLsb' 14 7 = d := by rw [← Option.some.inj he, bits_11_7_7_7_1 _ _ (by decide) (by decide)]; exact ext_full d
  have E1 : z.extractLsb' 7 7 = a := by rw [← Option.some.inj he, bits_11_7_7_7_2 _ _ (by decide) (by decide)]; exact ext_full a
  have E2 : z.extractLsb' 0 7 = b := by rw [← Option.some.inj he, bits_11_7_7_7_3 _ _ (by decide) (by decide)]; exact ext_full b
  refine of_row hw F0 (by decide) ?_
  rw [decodeRow, F0]
  show decodeRow0C z = _
  rw [decodeRow0C, F1, E0, E1, E2]
  rfl
theorem vfshl (d : BitVec 7) (a : BitVec 7) (b : BitVec 7) : Statement (.vfshl d a b) := by
  intro hw _ z he
  have F0 : fx z 26 6 = 12 := by rw [← Option.some.inj he, fx, bits_11_7_7_7_0 _ _ (by decide) (by decide)]; rfl
  have F1 : fx z 21 5 = 11 := by rw [← Option.some.inj he, fx, bits_11_7_7_7_0 _ _ (by decide) (by decide)]; rfl
  have E0 : z.extractLsb' 14 7 = d := by rw [← Option.some.inj he, bits_11_7_7_7_1 _ _ (by decide) (by decide)]; exact ext_full d
  have E1 : z.extractLsb' 7 7 = a := by rw [← Option.some.inj he, bits_11_7_7_7_2 _ _ (by decide) (by decide)]; exact ext_full a
  have E2 : z.extractLsb' 0 7 = b := by rw [← Option.some.inj he, bits_11_7_7_7_3 _ _ (by decide) (by decide)]; exact ext_full b
  refine of_row hw F0 (by decide) ?_
  rw [decodeRow, F0]
  show decodeRow0C z = _
  rw [decodeRow0C, F1, E0, E1, E2]
  rfl
theorem vfshr (d : BitVec 7) (a : BitVec 7) (b : BitVec 7) : Statement (.vfshr d a b) := by
  intro hw _ z he
  have F0 : fx z 26 6 = 12 := by rw [← Option.some.inj he, fx, bits_11_7_7_7_0 _ _ (by decide) (by decide)]; rfl
  have F1 : fx z 21 5 = 12 := by rw [← Option.some.inj he, fx, bits_11_7_7_7_0 _ _ (by decide) (by decide)]; rfl
  have E0 : z.extractLsb' 14 7 = d := by rw [← Option.some.inj he, bits_11_7_7_7_1 _ _ (by decide) (by decide)]; exact ext_full d
  have E1 : z.extractLsb' 7 7 = a := by rw [← Option.some.inj he, bits_11_7_7_7_2 _ _ (by decide) (by decide)]; exact ext_full a
  have E2 : z.extractLsb' 0 7 = b := by rw [← Option.some.inj he, bits_11_7_7_7_3 _ _ (by decide) (by decide)]; exact ext_full b
  refine of_row hw F0 (by decide) ?_
  rw [decodeRow, F0]
  show decodeRow0C z = _
  rw [decodeRow0C, F1, E0, E1, E2]
  rfl
theorem vcmp (c : BitVec 5) (p : BitVec 4) (t : BitVec 3) (a : BitVec 7) (b : BitVec 7) : Statement (.vcmp c p t a b) := by
  intro hw _ z he
  have F0 : fx z 26 6 = 13 := by rw [← Option.some.inj he, fx, bits_6_5_4_3_7_7_0 _ _ (by decide) (by decide)]; rfl
  have E0 : z.extractLsb' 21 5 = c := by rw [← Option.some.inj he, bits_6_5_4_3_7_7_1 _ _ (by decide) (by decide)]; exact ext_full c
  have E1 : z.extractLsb' 17 4 = p := by rw [← Option.some.inj he, bits_6_5_4_3_7_7_2 _ _ (by decide) (by decide)]; exact ext_full p
  have E2 : z.extractLsb' 14 3 = t := by rw [← Option.some.inj he, bits_6_5_4_3_7_7_3 _ _ (by decide) (by decide)]; exact ext_full t
  have E3 : z.extractLsb' 7 7 = a := by rw [← Option.some.inj he, bits_6_5_4_3_7_7_4 _ _ (by decide) (by decide)]; exact ext_full a
  have E4 : z.extractLsb' 0 7 = b := by rw [← Option.some.inj he, bits_6_5_4_3_7_7_5 _ _ (by decide) (by decide)]; exact ext_full b
  refine of_row hw F0 (by decide) ?_
  rw [decodeRow, F0]
  show decodeRow0D z = _
  rw [decodeRow0D, E0, E1, E2, E3, E4]
  rfl
theorem pand (d : BitVec 4) (a : BitVec 4) (b : BitVec 4) : Statement (.pand d a b) := by
  intro hw _ z he
  have F0 : fx z 26 6 = 14 := by rw [← Option.some.inj he, fx, bits_14_4_3_4_3_4_0 _ _ (by decide) (by decide)]; rfl
  have F1 : fx z 18 8 = 0 := by rw [← Option.some.inj he, fx, bits_14_4_3_4_3_4_0 _ _ (by decide) (by decide)]; rfl
  have F2 : fx z 11 3 = 0 := by rw [← Option.some.inj he, fx, bits_14_4_3_4_3_4_2 _ _ (by decide) (by decide)]; rfl
  have F3 : fx z 4 3 = 0 := by rw [← Option.some.inj he, fx, bits_14_4_3_4_3_4_4 _ _ (by decide) (by decide)]; rfl
  have E0 : z.extractLsb' 14 4 = d := by rw [← Option.some.inj he, bits_14_4_3_4_3_4_1 _ _ (by decide) (by decide)]; exact ext_full d
  have E1 : z.extractLsb' 7 4 = a := by rw [← Option.some.inj he, bits_14_4_3_4_3_4_3 _ _ (by decide) (by decide)]; exact ext_full a
  have E2 : z.extractLsb' 0 4 = b := by rw [← Option.some.inj he, bits_14_4_3_4_3_4_5 _ _ (by decide) (by decide)]; exact ext_full b
  refine of_row hw F0 (by decide) ?_
  rw [decodeRow, F0]
  show decodeRow0E z = _
  rw [decodeRow0E, F1, F2, F3, E0, E1, E2]
  rfl
theorem por (d : BitVec 4) (a : BitVec 4) (b : BitVec 4) : Statement (.por d a b) := by
  intro hw _ z he
  have F0 : fx z 26 6 = 14 := by rw [← Option.some.inj he, fx, bits_14_4_3_4_3_4_0 _ _ (by decide) (by decide)]; rfl
  have F1 : fx z 18 8 = 8 := by rw [← Option.some.inj he, fx, bits_14_4_3_4_3_4_0 _ _ (by decide) (by decide)]; rfl
  have F2 : fx z 11 3 = 0 := by rw [← Option.some.inj he, fx, bits_14_4_3_4_3_4_2 _ _ (by decide) (by decide)]; rfl
  have F3 : fx z 4 3 = 0 := by rw [← Option.some.inj he, fx, bits_14_4_3_4_3_4_4 _ _ (by decide) (by decide)]; rfl
  have E0 : z.extractLsb' 14 4 = d := by rw [← Option.some.inj he, bits_14_4_3_4_3_4_1 _ _ (by decide) (by decide)]; exact ext_full d
  have E1 : z.extractLsb' 7 4 = a := by rw [← Option.some.inj he, bits_14_4_3_4_3_4_3 _ _ (by decide) (by decide)]; exact ext_full a
  have E2 : z.extractLsb' 0 4 = b := by rw [← Option.some.inj he, bits_14_4_3_4_3_4_5 _ _ (by decide) (by decide)]; exact ext_full b
  refine of_row hw F0 (by decide) ?_
  rw [decodeRow, F0]
  show decodeRow0E z = _
  rw [decodeRow0E, F1, F2, F3, E0, E1, E2]
  rfl
theorem pxor (d : BitVec 4) (a : BitVec 4) (b : BitVec 4) : Statement (.pxor d a b) := by
  intro hw _ z he
  have F0 : fx z 26 6 = 14 := by rw [← Option.some.inj he, fx, bits_14_4_3_4_3_4_0 _ _ (by decide) (by decide)]; rfl
  have F1 : fx z 18 8 = 16 := by rw [← Option.some.inj he, fx, bits_14_4_3_4_3_4_0 _ _ (by decide) (by decide)]; rfl
  have F2 : fx z 11 3 = 0 := by rw [← Option.some.inj he, fx, bits_14_4_3_4_3_4_2 _ _ (by decide) (by decide)]; rfl
  have F3 : fx z 4 3 = 0 := by rw [← Option.some.inj he, fx, bits_14_4_3_4_3_4_4 _ _ (by decide) (by decide)]; rfl
  have E0 : z.extractLsb' 14 4 = d := by rw [← Option.some.inj he, bits_14_4_3_4_3_4_1 _ _ (by decide) (by decide)]; exact ext_full d
  have E1 : z.extractLsb' 7 4 = a := by rw [← Option.some.inj he, bits_14_4_3_4_3_4_3 _ _ (by decide) (by decide)]; exact ext_full a
  have E2 : z.extractLsb' 0 4 = b := by rw [← Option.some.inj he, bits_14_4_3_4_3_4_5 _ _ (by decide) (by decide)]; exact ext_full b
  refine of_row hw F0 (by decide) ?_
  rw [decodeRow, F0]
  show decodeRow0E z = _
  rw [decodeRow0E, F1, F2, F3, E0, E1, E2]
  rfl
theorem pandn (d : BitVec 4) (a : BitVec 4) (b : BitVec 4) : Statement (.pandn d a b) := by
  intro hw _ z he
  have F0 : fx z 26 6 = 14 := by rw [← Option.some.inj he, fx, bits_14_4_3_4_3_4_0 _ _ (by decide) (by decide)]; rfl
  have F1 : fx z 18 8 = 24 := by rw [← Option.some.inj he, fx, bits_14_4_3_4_3_4_0 _ _ (by decide) (by decide)]; rfl
  have F2 : fx z 11 3 = 0 := by rw [← Option.some.inj he, fx, bits_14_4_3_4_3_4_2 _ _ (by decide) (by decide)]; rfl
  have F3 : fx z 4 3 = 0 := by rw [← Option.some.inj he, fx, bits_14_4_3_4_3_4_4 _ _ (by decide) (by decide)]; rfl
  have E0 : z.extractLsb' 14 4 = d := by rw [← Option.some.inj he, bits_14_4_3_4_3_4_1 _ _ (by decide) (by decide)]; exact ext_full d
  have E1 : z.extractLsb' 7 4 = a := by rw [← Option.some.inj he, bits_14_4_3_4_3_4_3 _ _ (by decide) (by decide)]; exact ext_full a
  have E2 : z.extractLsb' 0 4 = b := by rw [← Option.some.inj he, bits_14_4_3_4_3_4_5 _ _ (by decide) (by decide)]; exact ext_full b
  refine of_row hw F0 (by decide) ?_
  rw [decodeRow, F0]
  show decodeRow0E z = _
  rw [decodeRow0E, F1, F2, F3, E0, E1, E2]
  rfl
theorem pnot (d : BitVec 4) (a : BitVec 4) : Statement (.pnot d a) := by
  intro hw _ z he
  have F0 : fx z 26 6 = 14 := by rw [← Option.some.inj he, fx, bits_14_4_3_4_7_0 _ _ (by decide) (by decide)]; rfl
  have F1 : fx z 18 8 = 32 := by rw [← Option.some.inj he, fx, bits_14_4_3_4_7_0 _ _ (by decide) (by decide)]; rfl
  have F2 : fx z 11 3 = 0 := by rw [← Option.some.inj he, fx, bits_14_4_3_4_7_2 _ _ (by decide) (by decide)]; rfl
  have F3 : fx z 0 7 = 0 := by rw [← Option.some.inj he, fx, bits_14_4_3_4_7_4 _ _ (by decide) (by decide)]; rfl
  have E0 : z.extractLsb' 14 4 = d := by rw [← Option.some.inj he, bits_14_4_3_4_7_1 _ _ (by decide) (by decide)]; exact ext_full d
  have E1 : z.extractLsb' 7 4 = a := by rw [← Option.some.inj he, bits_14_4_3_4_7_3 _ _ (by decide) (by decide)]; exact ext_full a
  refine of_row hw F0 (by decide) ?_
  rw [decodeRow, F0]
  show decodeRow0E z = _
  rw [decodeRow0E, F1, F2, F3, E0, E1]
  rfl
theorem pmov (d : BitVec 4) (a : BitVec 4) : Statement (.pmov d a) := by
  intro hw _ z he
  have F0 : fx z 26 6 = 14 := by rw [← Option.some.inj he, fx, bits_14_4_3_4_7_0 _ _ (by decide) (by decide)]; rfl
  have F1 : fx z 18 8 = 40 := by rw [← Option.some.inj he, fx, bits_14_4_3_4_7_0 _ _ (by decide) (by decide)]; rfl
  have F2 : fx z 11 3 = 0 := by rw [← Option.some.inj he, fx, bits_14_4_3_4_7_2 _ _ (by decide) (by decide)]; rfl
  have F3 : fx z 0 7 = 0 := by rw [← Option.some.inj he, fx, bits_14_4_3_4_7_4 _ _ (by decide) (by decide)]; rfl
  have E0 : z.extractLsb' 14 4 = d := by rw [← Option.some.inj he, bits_14_4_3_4_7_1 _ _ (by decide) (by decide)]; exact ext_full d
  have E1 : z.extractLsb' 7 4 = a := by rw [← Option.some.inj he, bits_14_4_3_4_7_3 _ _ (by decide) (by decide)]; exact ext_full a
  refine of_row hw F0 (by decide) ?_
  rw [decodeRow, F0]
  show decodeRow0E z = _
  rw [decodeRow0E, F1, F2, F3, E0, E1]
  rfl
theorem pset (d : BitVec 4) : Statement (.pset d) := by
  intro hw _ z he
  have F0 : fx z 26 6 = 14 := by rw [← Option.some.inj he, fx, bits_14_4_14_0 _ _ (by decide) (by decide)]; rfl
  have F1 : fx z 18 8 = 48 := by rw [← Option.some.inj he, fx, bits_14_4_14_0 _ _ (by decide) (by decide)]; rfl
  have F2 : fx z 0 14 = 0 := by rw [← Option.some.inj he, fx, bits_14_4_14_2 _ _ (by decide) (by decide)]; rfl
  have E0 : z.extractLsb' 14 4 = d := by rw [← Option.some.inj he, bits_14_4_14_1 _ _ (by decide) (by decide)]; exact ext_full d
  refine of_row hw F0 (by decide) ?_
  rw [decodeRow, F0]
  show decodeRow0E z = _
  rw [decodeRow0E, F1, F2, E0]
  rfl
theorem pclr (d : BitVec 4) : Statement (.pclr d) := by
  intro hw _ z he
  have F0 : fx z 26 6 = 14 := by rw [← Option.some.inj he, fx, bits_14_4_14_0 _ _ (by decide) (by decide)]; rfl
  have F1 : fx z 18 8 = 56 := by rw [← Option.some.inj he, fx, bits_14_4_14_0 _ _ (by decide) (by decide)]; rfl
  have F2 : fx z 0 14 = 0 := by rw [← Option.some.inj he, fx, bits_14_4_14_2 _ _ (by decide) (by decide)]; rfl
  have E0 : z.extractLsb' 14 4 = d := by rw [← Option.some.inj he, bits_14_4_14_1 _ _ (by decide) (by decide)]; exact ext_full d
  refine of_row hw F0 (by decide) ?_
  rw [decodeRow, F0]
  show decodeRow0E z = _
  rw [decodeRow0E, F1, F2, E0]
  rfl
theorem vsel (q : BitVec 5) (d : BitVec 7) (a : BitVec 7) (b : BitVec 7) : Statement (.vsel q d a b) := by
  intro hw _ z he
  have F0 : fx z 26 6 = 14 := by rw [← Option.some.inj he, fx, bits_6_5_7_7_7_0 _ _ (by decide) (by decide)]; rfl
  have F1 : fx z 21 5 = q.toNat := by rw [← Option.some.inj he, fx, bits_6_5_7_7_7_1 _ _ (by decide) (by decide)]; exact congrArg BitVec.toNat (ext_full q)
  have E0 : z.extractLsb' 21 5 = q := by rw [← Option.some.inj he, bits_6_5_7_7_7_1 _ _ (by decide) (by decide)]; exact ext_full q
  have E1 : z.extractLsb' 14 7 = d := by rw [← Option.some.inj he, bits_6_5_7_7_7_2 _ _ (by decide) (by decide)]; exact ext_full d
  have E2 : z.extractLsb' 7 7 = a := by rw [← Option.some.inj he, bits_6_5_7_7_7_3 _ _ (by decide) (by decide)]; exact ext_full a
  have E3 : z.extractLsb' 0 7 = b := by rw [← Option.some.inj he, bits_6_5_7_7_7_4 _ _ (by decide) (by decide)]; exact ext_full b
  have q := hw
  simp only [Instr.wf, even, predOk, Bool.and_eq_true, decide_eq_true_eq, beq_iff_eq, bne_iff_ne] at q
  have N0 : (fx z 18 8 == 48) = false := sub_ne F1 (by decide) (by decide) (by omega)
  have N1 : (fx z 18 8 == 56) = false := sub_ne F1 (by decide) (by decide) (by omega)
  have N2 : (fx z 18 8 == 32) = false := sub_ne F1 (by decide) (by decide) (by omega)
  have N3 : (fx z 18 8 == 40) = false := sub_ne F1 (by decide) (by decide) (by omega)
  have N4 : (fx z 18 8 == 0) = false := sub_ne F1 (by decide) (by decide) (by omega)
  have N5 : (fx z 18 8 == 8) = false := sub_ne F1 (by decide) (by decide) (by omega)
  have N6 : (fx z 18 8 == 16) = false := sub_ne F1 (by decide) (by decide) (by omega)
  have N7 : (fx z 18 8 == 24) = false := sub_ne F1 (by decide) (by decide) (by omega)
  refine of_row hw F0 (by decide) ?_
  rw [decodeRow, F0]
  show decodeRow0E z = _
  rw [decodeRow0E, N0, N1, N2, N3, N4, N5, N6, N7, E0, E1, E2, E3]
  rfl
theorem vsext8 (d : BitVec 7) (a : BitVec 7) (e : BitVec 7) : Statement (.vsext8 d a e) := by
  intro hw _ z he
  have F0 : fx z 26 6 = 15 := by rw [← Option.some.inj he, fx, bits_11_7_7_7_0 _ _ (by decide) (by decide)]; rfl
  have F1 : fx z 21 5 = 0 := by rw [← Option.some.inj he, fx, bits_11_7_7_7_0 _ _ (by decide) (by decide)]; rfl
  have E0 : z.extractLsb' 14 7 = d := by rw [← Option.some.inj he, bits_11_7_7_7_1 _ _ (by decide) (by decide)]; exact ext_full d
  have E1 : z.extractLsb' 7 7 = a := by rw [← Option.some.inj he, bits_11_7_7_7_2 _ _ (by decide) (by decide)]; exact ext_full a
  have E2 : z.extractLsb' 0 7 = e := by rw [← Option.some.inj he, bits_11_7_7_7_3 _ _ (by decide) (by decide)]; exact ext_full e
  refine of_row hw F0 (by decide) ?_
  rw [decodeRow, F0]
  show decodeRow0F z = _
  rw [decodeRow0F, F1, E0, E1, E2]
  rfl
theorem vzext8 (d : BitVec 7) (a : BitVec 7) (e : BitVec 7) : Statement (.vzext8 d a e) := by
  intro hw _ z he
  have F0 : fx z 26 6 = 15 := by rw [← Option.some.inj he, fx, bits_11_7_7_7_0 _ _ (by decide) (by decide)]; rfl
  have F1 : fx z 21 5 = 1 := by rw [← Option.some.inj he, fx, bits_11_7_7_7_0 _ _ (by decide) (by decide)]; rfl
  have E0 : z.extractLsb' 14 7 = d := by rw [← Option.some.inj he, bits_11_7_7_7_1 _ _ (by decide) (by decide)]; exact ext_full d
  have E1 : z.extractLsb' 7 7 = a := by rw [← Option.some.inj he, bits_11_7_7_7_2 _ _ (by decide) (by decide)]; exact ext_full a
  have E2 : z.extractLsb' 0 7 = e := by rw [← Option.some.inj he, bits_11_7_7_7_3 _ _ (by decide) (by decide)]; exact ext_full e
  refine of_row hw F0 (by decide) ?_
  rw [decodeRow, F0]
  show decodeRow0F z = _
  rw [decodeRow0F, F1, E0, E1, E2]
  rfl
theorem vsext16 (d : BitVec 7) (a : BitVec 7) (e : BitVec 7) : Statement (.vsext16 d a e) := by
  intro hw _ z he
  have F0 : fx z 26 6 = 15 := by rw [← Option.some.inj he, fx, bits_11_7_7_7_0 _ _ (by decide) (by decide)]; rfl
  have F1 : fx z 21 5 = 2 := by rw [← Option.some.inj he, fx, bits_11_7_7_7_0 _ _ (by decide) (by decide)]; rfl
  have E0 : z.extractLsb' 14 7 = d := by rw [← Option.some.inj he, bits_11_7_7_7_1 _ _ (by decide) (by decide)]; exact ext_full d
  have E1 : z.extractLsb' 7 7 = a := by rw [← Option.some.inj he, bits_11_7_7_7_2 _ _ (by decide) (by decide)]; exact ext_full a
  have E2 : z.extractLsb' 0 7 = e := by rw [← Option.some.inj he, bits_11_7_7_7_3 _ _ (by decide) (by decide)]; exact ext_full e
  refine of_row hw F0 (by decide) ?_
  rw [decodeRow, F0]
  show decodeRow0F z = _
  rw [decodeRow0F, F1, E0, E1, E2]
  rfl
theorem vzext16 (d : BitVec 7) (a : BitVec 7) (e : BitVec 7) : Statement (.vzext16 d a e) := by
  intro hw _ z he
  have F0 : fx z 26 6 = 15 := by rw [← Option.some.inj he, fx, bits_11_7_7_7_0 _ _ (by decide) (by decide)]; rfl
  have F1 : fx z 21 5 = 3 := by rw [← Option.some.inj he, fx, bits_11_7_7_7_0 _ _ (by decide) (by decide)]; rfl
  have E0 : z.extractLsb' 14 7 = d := by rw [← Option.some.inj he, bits_11_7_7_7_1 _ _ (by decide) (by decide)]; exact ext_full d
  have E1 : z.extractLsb' 7 7 = a := by rw [← Option.some.inj he, bits_11_7_7_7_2 _ _ (by decide) (by decide)]; exact ext_full a
  have E2 : z.extractLsb' 0 7 = e := by rw [← Option.some.inj he, bits_11_7_7_7_3 _ _ (by decide) (by decide)]; exact ext_full e
  refine of_row hw F0 (by decide) ?_
  rw [decodeRow, F0]
  show decodeRow0F z = _
  rw [decodeRow0F, F1, E0, E1, E2]
  rfl
theorem vsatS8S32 (d : BitVec 7) (a : BitVec 7) : Statement (.vsatS8S32 d a) := by
  intro hw _ z he
  have F0 : fx z 26 6 = 15 := by rw [← Option.some.inj he, fx, bits_11_7_7_7_0 _ _ (by decide) (by decide)]; rfl
  have F1 : fx z 21 5 = 4 := by rw [← Option.some.inj he, fx, bits_11_7_7_7_0 _ _ (by decide) (by decide)]; rfl
  have F2 : fx z 0 7 = 0 := by rw [← Option.some.inj he, fx, bits_11_7_7_7_3 _ _ (by decide) (by decide)]; rfl
  have E0 : z.extractLsb' 14 7 = d := by rw [← Option.some.inj he, bits_11_7_7_7_1 _ _ (by decide) (by decide)]; exact ext_full d
  have E1 : z.extractLsb' 7 7 = a := by rw [← Option.some.inj he, bits_11_7_7_7_2 _ _ (by decide) (by decide)]; exact ext_full a
  refine of_row hw F0 (by decide) ?_
  rw [decodeRow, F0]
  show decodeRow0F z = _
  rw [decodeRow0F, F1, F2, E0, E1]
  rfl
theorem vsatU8S32 (d : BitVec 7) (a : BitVec 7) : Statement (.vsatU8S32 d a) := by
  intro hw _ z he
  have F0 : fx z 26 6 = 15 := by rw [← Option.some.inj he, fx, bits_11_7_7_7_0 _ _ (by decide) (by decide)]; rfl
  have F1 : fx z 21 5 = 5 := by rw [← Option.some.inj he, fx, bits_11_7_7_7_0 _ _ (by decide) (by decide)]; rfl
  have F2 : fx z 0 7 = 0 := by rw [← Option.some.inj he, fx, bits_11_7_7_7_3 _ _ (by decide) (by decide)]; rfl
  have E0 : z.extractLsb' 14 7 = d := by rw [← Option.some.inj he, bits_11_7_7_7_1 _ _ (by decide) (by decide)]; exact ext_full d
  have E1 : z.extractLsb' 7 7 = a := by rw [← Option.some.inj he, bits_11_7_7_7_2 _ _ (by decide) (by decide)]; exact ext_full a
  refine of_row hw F0 (by decide) ?_
  rw [decodeRow, F0]
  show decodeRow0F z = _
  rw [decodeRow0F, F1, F2, E0, E1]
  rfl
theorem vsatS16S32 (d : BitVec 7) (a : BitVec 7) : Statement (.vsatS16S32 d a) := by
  intro hw _ z he
  have F0 : fx z 26 6 = 15 := by rw [← Option.some.inj he, fx, bits_11_7_7_7_0 _ _ (by decide) (by decide)]; rfl
  have F1 : fx z 21 5 = 6 := by rw [← Option.some.inj he, fx, bits_11_7_7_7_0 _ _ (by decide) (by decide)]; rfl
  have F2 : fx z 0 7 = 0 := by rw [← Option.some.inj he, fx, bits_11_7_7_7_3 _ _ (by decide) (by decide)]; rfl
  have E0 : z.extractLsb' 14 7 = d := by rw [← Option.some.inj he, bits_11_7_7_7_1 _ _ (by decide) (by decide)]; exact ext_full d
  have E1 : z.extractLsb' 7 7 = a := by rw [← Option.some.inj he, bits_11_7_7_7_2 _ _ (by decide) (by decide)]; exact ext_full a
  refine of_row hw F0 (by decide) ?_
  rw [decodeRow, F0]
  show decodeRow0F z = _
  rw [decodeRow0F, F1, F2, E0, E1]
  rfl
theorem vsatU16S32 (d : BitVec 7) (a : BitVec 7) : Statement (.vsatU16S32 d a) := by
  intro hw _ z he
  have F0 : fx z 26 6 = 15 := by rw [← Option.some.inj he, fx, bits_11_7_7_7_0 _ _ (by decide) (by decide)]; rfl
  have F1 : fx z 21 5 = 7 := by rw [← Option.some.inj he, fx, bits_11_7_7_7_0 _ _ (by decide) (by decide)]; rfl
  have F2 : fx z 0 7 = 0 := by rw [← Option.some.inj he, fx, bits_11_7_7_7_3 _ _ (by decide) (by decide)]; rfl
  have E0 : z.extractLsb' 14 7 = d := by rw [← Option.some.inj he, bits_11_7_7_7_1 _ _ (by decide) (by decide)]; exact ext_full d
  have E1 : z.extractLsb' 7 7 = a := by rw [← Option.some.inj he, bits_11_7_7_7_2 _ _ (by decide) (by decide)]; exact ext_full a
  refine of_row hw F0 (by decide) ?_
  rw [decodeRow, F0]
  show decodeRow0F z = _
  rw [decodeRow0F, F1, F2, E0, E1]
  rfl
theorem vsatS32S64 (d : BitVec 7) (a : BitVec 7) : Statement (.vsatS32S64 d a) := by
  intro hw _ z he
  have F0 : fx z 26 6 = 15 := by rw [← Option.some.inj he, fx, bits_11_7_7_7_0 _ _ (by decide) (by decide)]; rfl
  have F1 : fx z 21 5 = 8 := by rw [← Option.some.inj he, fx, bits_11_7_7_7_0 _ _ (by decide) (by decide)]; rfl
  have F2 : fx z 0 7 = 0 := by rw [← Option.some.inj he, fx, bits_11_7_7_7_3 _ _ (by decide) (by decide)]; rfl
  have E0 : z.extractLsb' 14 7 = d := by rw [← Option.some.inj he, bits_11_7_7_7_1 _ _ (by decide) (by decide)]; exact ext_full d
  have E1 : z.extractLsb' 7 7 = a := by rw [← Option.some.inj he, bits_11_7_7_7_2 _ _ (by decide) (by decide)]; exact ext_full a
  refine of_row hw F0 (by decide) ?_
  rw [decodeRow, F0]
  show decodeRow0F z = _
  rw [decodeRow0F, F1, F2, E0, E1]
  rfl
theorem fadd (r : BitVec 2) (d : BitVec 7) (a : BitVec 7) (b : BitVec 7) : Statement (.fadd r d a b) := by
  intro hw _ z he
  have F0 : fx z 26 6 = 16 := by rw [← Option.some.inj he, fx, bits_9_2_7_7_7_0 _ _ (by decide) (by decide)]; rfl
  have F1 : fx z 23 3 = 0 := by rw [← Option.some.inj he, fx, bits_9_2_7_7_7_0 _ _ (by decide) (by decide)]; rfl
  have E0 : z.extractLsb' 21 2 = r := by rw [← Option.some.inj he, bits_9_2_7_7_7_1 _ _ (by decide) (by decide)]; exact ext_full r
  have E1 : z.extractLsb' 14 7 = d := by rw [← Option.some.inj he, bits_9_2_7_7_7_2 _ _ (by decide) (by decide)]; exact ext_full d
  have E2 : z.extractLsb' 7 7 = a := by rw [← Option.some.inj he, bits_9_2_7_7_7_3 _ _ (by decide) (by decide)]; exact ext_full a
  have E3 : z.extractLsb' 0 7 = b := by rw [← Option.some.inj he, bits_9_2_7_7_7_4 _ _ (by decide) (by decide)]; exact ext_full b
  have N0 : (fx z 21 5 == 24) = false := sub_ne F1 (by decide) (by decide) (by decide)
  have N1 : (fx z 21 5 == 28) = false := sub_ne F1 (by decide) (by decide) (by decide)
  have N2 : (fx z 21 5 == 12) = false := sub_ne F1 (by decide) (by decide) (by decide)
  have N3 : (fx z 21 5 == 16) = false := sub_ne F1 (by decide) (by decide) (by decide)
  have N4 : (fx z 21 5 == 20) = false := sub_ne F1 (by decide) (by decide) (by decide)
  refine of_row hw F0 (by decide) ?_
  rw [decodeRow, F0]
  show decodeRow10 z = _
  rw [decodeRow10, N0, N1, N2, N3, N4, F1, E0, E1, E2, E3]
  rfl
theorem fsub (r : BitVec 2) (d : BitVec 7) (a : BitVec 7) (b : BitVec 7) : Statement (.fsub r d a b) := by
  intro hw _ z he
  have F0 : fx z 26 6 = 16 := by rw [← Option.some.inj he, fx, bits_9_2_7_7_7_0 _ _ (by decide) (by decide)]; rfl
  have F1 : fx z 23 3 = 1 := by rw [← Option.some.inj he, fx, bits_9_2_7_7_7_0 _ _ (by decide) (by decide)]; rfl
  have E0 : z.extractLsb' 21 2 = r := by rw [← Option.some.inj he, bits_9_2_7_7_7_1 _ _ (by decide) (by decide)]; exact ext_full r
  have E1 : z.extractLsb' 14 7 = d := by rw [← Option.some.inj he, bits_9_2_7_7_7_2 _ _ (by decide) (by decide)]; exact ext_full d
  have E2 : z.extractLsb' 7 7 = a := by rw [← Option.some.inj he, bits_9_2_7_7_7_3 _ _ (by decide) (by decide)]; exact ext_full a
  have E3 : z.extractLsb' 0 7 = b := by rw [← Option.some.inj he, bits_9_2_7_7_7_4 _ _ (by decide) (by decide)]; exact ext_full b
  have N0 : (fx z 21 5 == 24) = false := sub_ne F1 (by decide) (by decide) (by decide)
  have N1 : (fx z 21 5 == 28) = false := sub_ne F1 (by decide) (by decide) (by decide)
  have N2 : (fx z 21 5 == 12) = false := sub_ne F1 (by decide) (by decide) (by decide)
  have N3 : (fx z 21 5 == 16) = false := sub_ne F1 (by decide) (by decide) (by decide)
  have N4 : (fx z 21 5 == 20) = false := sub_ne F1 (by decide) (by decide) (by decide)
  refine of_row hw F0 (by decide) ?_
  rw [decodeRow, F0]
  show decodeRow10 z = _
  rw [decodeRow10, N0, N1, N2, N3, N4, F1, E0, E1, E2, E3]
  rfl
theorem fmul (r : BitVec 2) (d : BitVec 7) (a : BitVec 7) (b : BitVec 7) : Statement (.fmul r d a b) := by
  intro hw _ z he
  have F0 : fx z 26 6 = 16 := by rw [← Option.some.inj he, fx, bits_9_2_7_7_7_0 _ _ (by decide) (by decide)]; rfl
  have F1 : fx z 23 3 = 2 := by rw [← Option.some.inj he, fx, bits_9_2_7_7_7_0 _ _ (by decide) (by decide)]; rfl
  have E0 : z.extractLsb' 21 2 = r := by rw [← Option.some.inj he, bits_9_2_7_7_7_1 _ _ (by decide) (by decide)]; exact ext_full r
  have E1 : z.extractLsb' 14 7 = d := by rw [← Option.some.inj he, bits_9_2_7_7_7_2 _ _ (by decide) (by decide)]; exact ext_full d
  have E2 : z.extractLsb' 7 7 = a := by rw [← Option.some.inj he, bits_9_2_7_7_7_3 _ _ (by decide) (by decide)]; exact ext_full a
  have E3 : z.extractLsb' 0 7 = b := by rw [← Option.some.inj he, bits_9_2_7_7_7_4 _ _ (by decide) (by decide)]; exact ext_full b
  have N0 : (fx z 21 5 == 24) = false := sub_ne F1 (by decide) (by decide) (by decide)
  have N1 : (fx z 21 5 == 28) = false := sub_ne F1 (by decide) (by decide) (by decide)
  have N2 : (fx z 21 5 == 12) = false := sub_ne F1 (by decide) (by decide) (by decide)
  have N3 : (fx z 21 5 == 16) = false := sub_ne F1 (by decide) (by decide) (by decide)
  have N4 : (fx z 21 5 == 20) = false := sub_ne F1 (by decide) (by decide) (by decide)
  refine of_row hw F0 (by decide) ?_
  rw [decodeRow, F0]
  show decodeRow10 z = _
  rw [decodeRow10, N0, N1, N2, N3, N4, F1, E0, E1, E2, E3]
  rfl
theorem fmin (d : BitVec 7) (a : BitVec 7) (b : BitVec 7) : Statement (.fmin d a b) := by
  intro hw _ z he
  have F0 : fx z 26 6 = 16 := by rw [← Option.some.inj he, fx, bits_11_7_7_7_0 _ _ (by decide) (by decide)]; rfl
  have F1 : fx z 21 5 = 12 := by rw [← Option.some.inj he, fx, bits_11_7_7_7_0 _ _ (by decide) (by decide)]; rfl
  have E0 : z.extractLsb' 14 7 = d := by rw [← Option.some.inj he, bits_11_7_7_7_1 _ _ (by decide) (by decide)]; exact ext_full d
  have E1 : z.extractLsb' 7 7 = a := by rw [← Option.some.inj he, bits_11_7_7_7_2 _ _ (by decide) (by decide)]; exact ext_full a
  have E2 : z.extractLsb' 0 7 = b := by rw [← Option.some.inj he, bits_11_7_7_7_3 _ _ (by decide) (by decide)]; exact ext_full b
  refine of_row hw F0 (by decide) ?_
  rw [decodeRow, F0]
  show decodeRow10 z = _
  rw [decodeRow10, F1, E0, E1, E2]
  rfl
theorem fmax (d : BitVec 7) (a : BitVec 7) (b : BitVec 7) : Statement (.fmax d a b) := by
  intro hw _ z he
  have F0 : fx z 26 6 = 16 := by rw [← Option.some.inj he, fx, bits_11_7_7_7_0 _ _ (by decide) (by decide)]; rfl
  have F1 : fx z 21 5 = 16 := by rw [← Option.some.inj he, fx, bits_11_7_7_7_0 _ _ (by decide) (by decide)]; rfl
  have E0 : z.extractLsb' 14 7 = d := by rw [← Option.some.inj he, bits_11_7_7_7_1 _ _ (by decide) (by decide)]; exact ext_full d
  have E1 : z.extractLsb' 7 7 = a := by rw [← Option.some.inj he, bits_11_7_7_7_2 _ _ (by decide) (by decide)]; exact ext_full a
  have E2 : z.extractLsb' 0 7 = b := by rw [← Option.some.inj he, bits_11_7_7_7_3 _ _ (by decide) (by decide)]; exact ext_full b
  refine of_row hw F0 (by decide) ?_
  rw [decodeRow, F0]
  show decodeRow10 z = _
  rw [decodeRow10, F1, E0, E1, E2]
  rfl
theorem fcopysign (d : BitVec 7) (a : BitVec 7) (b : BitVec 7) : Statement (.fcopysign d a b) := by
  intro hw _ z he
  have F0 : fx z 26 6 = 16 := by rw [← Option.some.inj he, fx, bits_11_7_7_7_0 _ _ (by decide) (by decide)]; rfl
  have F1 : fx z 21 5 = 20 := by rw [← Option.some.inj he, fx, bits_11_7_7_7_0 _ _ (by decide) (by decide)]; rfl
  have E0 : z.extractLsb' 14 7 = d := by rw [← Option.some.inj he, bits_11_7_7_7_1 _ _ (by decide) (by decide)]; exact ext_full d
  have E1 : z.extractLsb' 7 7 = a := by rw [← Option.some.inj he, bits_11_7_7_7_2 _ _ (by decide) (by decide)]; exact ext_full a
  have E2 : z.extractLsb' 0 7 = b := by rw [← Option.some.inj he, bits_11_7_7_7_3 _ _ (by decide) (by decide)]; exact ext_full b
  refine of_row hw F0 (by decide) ?_
  rw [decodeRow, F0]
  show decodeRow10 z = _
  rw [decodeRow10, F1, E0, E1, E2]
  rfl
theorem fabs (d : BitVec 7) (a : BitVec 7) : Statement (.fabs d a) := by
  intro hw _ z he
  have F0 : fx z 26 6 = 16 := by rw [← Option.some.inj he, fx, bits_11_7_7_7_0 _ _ (by decide) (by decide)]; rfl
  have F1 : fx z 21 5 = 24 := by rw [← Option.some.inj he, fx, bits_11_7_7_7_0 _ _ (by decide) (by decide)]; rfl
  have F2 : fx z 0 7 = 0 := by rw [← Option.some.inj he, fx, bits_11_7_7_7_3 _ _ (by decide) (by decide)]; rfl
  have E0 : z.extractLsb' 14 7 = d := by rw [← Option.some.inj he, bits_11_7_7_7_1 _ _ (by decide) (by decide)]; exact ext_full d
  have E1 : z.extractLsb' 7 7 = a := by rw [← Option.some.inj he, bits_11_7_7_7_2 _ _ (by decide) (by decide)]; exact ext_full a
  refine of_row hw F0 (by decide) ?_
  rw [decodeRow, F0]
  show decodeRow10 z = _
  rw [decodeRow10, F1, F2, E0, E1]
  rfl
theorem fneg (d : BitVec 7) (a : BitVec 7) : Statement (.fneg d a) := by
  intro hw _ z he
  have F0 : fx z 26 6 = 16 := by rw [← Option.some.inj he, fx, bits_11_7_7_7_0 _ _ (by decide) (by decide)]; rfl
  have F1 : fx z 21 5 = 28 := by rw [← Option.some.inj he, fx, bits_11_7_7_7_0 _ _ (by decide) (by decide)]; rfl
  have F2 : fx z 0 7 = 0 := by rw [← Option.some.inj he, fx, bits_11_7_7_7_3 _ _ (by decide) (by decide)]; rfl
  have E0 : z.extractLsb' 14 7 = d := by rw [← Option.some.inj he, bits_11_7_7_7_1 _ _ (by decide) (by decide)]; exact ext_full d
  have E1 : z.extractLsb' 7 7 = a := by rw [← Option.some.inj he, bits_11_7_7_7_2 _ _ (by decide) (by decide)]; exact ext_full a
  refine of_row hw F0 (by decide) ?_
  rw [decodeRow, F0]
  show decodeRow10 z = _
  rw [decodeRow10, F1, F2, E0, E1]
  rfl
theorem faddS (r : BitVec 2) (d : BitVec 7) (a : BitVec 7) (s : BitVec 7) : Statement (.faddS r d a s) := by
  intro hw _ z he
  have F0 : fx z 26 6 = 17 := by rw [← Option.some.inj he, fx, bits_9_2_7_7_7_0 _ _ (by decide) (by decide)]; rfl
  have F1 : fx z 23 3 = 0 := by rw [← Option.some.inj he, fx, bits_9_2_7_7_7_0 _ _ (by decide) (by decide)]; rfl
  have E0 : z.extractLsb' 21 2 = r := by rw [← Option.some.inj he, bits_9_2_7_7_7_1 _ _ (by decide) (by decide)]; exact ext_full r
  have E1 : z.extractLsb' 14 7 = d := by rw [← Option.some.inj he, bits_9_2_7_7_7_2 _ _ (by decide) (by decide)]; exact ext_full d
  have E2 : z.extractLsb' 7 7 = a := by rw [← Option.some.inj he, bits_9_2_7_7_7_3 _ _ (by decide) (by decide)]; exact ext_full a
  have E3 : z.extractLsb' 0 7 = s := by rw [← Option.some.inj he, bits_9_2_7_7_7_4 _ _ (by decide) (by decide)]; exact ext_full s
  have N0 : (fx z 21 5 == 8) = false := sub_ne F1 (by decide) (by decide) (by decide)
  have N1 : (fx z 21 5 == 24) = false := sub_ne F1 (by decide) (by decide) (by decide)
  have N2 : (fx z 21 5 == 12) = false := sub_ne F1 (by decide) (by decide) (by decide)
  have N3 : (fx z 21 5 == 28) = false := sub_ne F1 (by decide) (by decide) (by decide)
  refine of_row hw F0 (by decide) ?_
  rw [decodeRow, F0]
  show decodeRow11 z = _
  rw [decodeRow11, N0, N1, N2, N3, F1, E0, E1, E2, E3]
  rfl
theorem faddI (r : BitVec 2) (d : BitVec 7) (a : BitVec 7) (i : BitVec 7) : Statement (.faddI r d a i) := by
  intro hw _ z he
  have F0 : fx z 26 6 = 17 := by rw [← Option.some.inj he, fx, bits_9_2_7_7_7_0 _ _ (by decide) (by decide)]; rfl
  have F1 : fx z 23 3 = 4 := by rw [← Option.some.inj he, fx, bits_9_2_7_7_7_0 _ _ (by decide) (by decide)]; rfl
  have E0 : z.extractLsb' 21 2 = r := by rw [← Option.some.inj he, bits_9_2_7_7_7_1 _ _ (by decide) (by decide)]; exact ext_full r
  have E1 : z.extractLsb' 14 7 = d := by rw [← Option.some.inj he, bits_9_2_7_7_7_2 _ _ (by decide) (by decide)]; exact ext_full d
  have E2 : z.extractLsb' 7 7 = a := by rw [← Option.some.inj he, bits_9_2_7_7_7_3 _ _ (by decide) (by decide)]; exact ext_full a
  have E3 : z.extractLsb' 0 7 = i := by rw [← Option.some.inj he, bits_9_2_7_7_7_4 _ _ (by decide) (by decide)]; exact ext_full i
  have N0 : (fx z 21 5 == 8) = false := sub_ne F1 (by decide) (by decide) (by decide)
  have N1 : (fx z 21 5 == 24) = false := sub_ne F1 (by decide) (by decide) (by decide)
  have N2 : (fx z 21 5 == 12) = false := sub_ne F1 (by decide) (by decide) (by decide)
  have N3 : (fx z 21 5 == 28) = false := sub_ne F1 (by decide) (by decide) (by decide)
  refine of_row hw F0 (by decide) ?_
  rw [decodeRow, F0]
  show decodeRow11 z = _
  rw [decodeRow11, N0, N1, N2, N3, F1, E0, E1, E2, E3]
  rfl
theorem fmulS (r : BitVec 2) (d : BitVec 7) (a : BitVec 7) (s : BitVec 7) : Statement (.fmulS r d a s) := by
  intro hw _ z he
  have F0 : fx z 26 6 = 17 := by rw [← Option.some.inj he, fx, bits_9_2_7_7_7_0 _ _ (by decide) (by decide)]; rfl
  have F1 : fx z 23 3 = 1 := by rw [← Option.some.inj he, fx, bits_9_2_7_7_7_0 _ _ (by decide) (by decide)]; rfl
  have E0 : z.extractLsb' 21 2 = r := by rw [← Option.some.inj he, bits_9_2_7_7_7_1 _ _ (by decide) (by decide)]; exact ext_full r
  have E1 : z.extractLsb' 14 7 = d := by rw [← Option.some.inj he, bits_9_2_7_7_7_2 _ _ (by decide) (by decide)]; exact ext_full d
  have E2 : z.extractLsb' 7 7 = a := by rw [← Option.some.inj he, bits_9_2_7_7_7_3 _ _ (by decide) (by decide)]; exact ext_full a
  have E3 : z.extractLsb' 0 7 = s := by rw [← Option.some.inj he, bits_9_2_7_7_7_4 _ _ (by decide) (by decide)]; exact ext_full s
  have N0 : (fx z 21 5 == 8) = false := sub_ne F1 (by decide) (by decide) (by decide)
  have N1 : (fx z 21 5 == 24) = false := sub_ne F1 (by decide) (by decide) (by decide)
  have N2 : (fx z 21 5 == 12) = false := sub_ne F1 (by decide) (by decide) (by decide)
  have N3 : (fx z 21 5 == 28) = false := sub_ne F1 (by decide) (by decide) (by decide)
  refine of_row hw F0 (by decide) ?_
  rw [decodeRow, F0]
  show decodeRow11 z = _
  rw [decodeRow11, N0, N1, N2, N3, F1, E0, E1, E2, E3]
  rfl
theorem fmulI (r : BitVec 2) (d : BitVec 7) (a : BitVec 7) (i : BitVec 7) : Statement (.fmulI r d a i) := by
  intro hw _ z he
  have F0 : fx z 26 6 = 17 := by rw [← Option.some.inj he, fx, bits_9_2_7_7_7_0 _ _ (by decide) (by decide)]; rfl
  have F1 : fx z 23 3 = 5 := by rw [← Option.some.inj he, fx, bits_9_2_7_7_7_0 _ _ (by decide) (by decide)]; rfl
  have E0 : z.extractLsb' 21 2 = r := by rw [← Option.some.inj he, bits_9_2_7_7_7_1 _ _ (by decide) (by decide)]; exact ext_full r
  have E1 : z.extractLsb' 14 7 = d := by rw [← Option.some.inj he, bits_9_2_7_7_7_2 _ _ (by decide) (by decide)]; exact ext_full d
  have E2 : z.extractLsb' 7 7 = a := by rw [← Option.some.inj he, bits_9_2_7_7_7_3 _ _ (by decide) (by decide)]; exact ext_full a
  have E3 : z.extractLsb' 0 7 = i := by rw [← Option.some.inj he, bits_9_2_7_7_7_4 _ _ (by decide) (by decide)]; exact ext_full i
  have N0 : (fx z 21 5 == 8) = false := sub_ne F1 (by decide) (by decide) (by decide)
  have N1 : (fx z 21 5 == 24) = false := sub_ne F1 (by decide) (by decide) (by decide)
  have N2 : (fx z 21 5 == 12) = false := sub_ne F1 (by decide) (by decide) (by decide)
  have N3 : (fx z 21 5 == 28) = false := sub_ne F1 (by decide) (by decide) (by decide)
  refine of_row hw F0 (by decide) ?_
  rw [decodeRow, F0]
  show decodeRow11 z = _
  rw [decodeRow11, N0, N1, N2, N3, F1, E0, E1, E2, E3]
  rfl
theorem fminS (d : BitVec 7) (a : BitVec 7) (s : BitVec 7) : Statement (.fminS d a s) := by
  intro hw _ z he
  have F0 : fx z 26 6 = 17 := by rw [← Option.some.inj he, fx, bits_11_7_7_7_0 _ _ (by decide) (by decide)]; rfl
  have F1 : fx z 21 5 = 8 := by rw [← Option.some.inj he, fx, bits_11_7_7_7_0 _ _ (by decide) (by decide)]; rfl
  have E0 : z.extractLsb' 14 7 = d := by rw [← Option.some.inj he, bits_11_7_7_7_1 _ _ (by decide) (by decide)]; exact ext_full d
  have E1 : z.extractLsb' 7 7 = a := by rw [← Option.some.inj he, bits_11_7_7_7_2 _ _ (by decide) (by decide)]; exact ext_full a
  have E2 : z.extractLsb' 0 7 = s := by rw [← Option.some.inj he, bits_11_7_7_7_3 _ _ (by decide) (by decide)]; exact ext_full s
  refine of_row hw F0 (by decide) ?_
  rw [decodeRow, F0]
  show decodeRow11 z = _
  rw [decodeRow11, F1, E0, E1, E2]
  rfl
theorem fminI (d : BitVec 7) (a : BitVec 7) (i : BitVec 7) : Statement (.fminI d a i) := by
  intro hw _ z he
  have F0 : fx z 26 6 = 17 := by rw [← Option.some.inj he, fx, bits_11_7_7_7_0 _ _ (by decide) (by decide)]; rfl
  have F1 : fx z 21 5 = 24 := by rw [← Option.some.inj he, fx, bits_11_7_7_7_0 _ _ (by decide) (by decide)]; rfl
  have E0 : z.extractLsb' 14 7 = d := by rw [← Option.some.inj he, bits_11_7_7_7_1 _ _ (by decide) (by decide)]; exact ext_full d
  have E1 : z.extractLsb' 7 7 = a := by rw [← Option.some.inj he, bits_11_7_7_7_2 _ _ (by decide) (by decide)]; exact ext_full a
  have E2 : z.extractLsb' 0 7 = i := by rw [← Option.some.inj he, bits_11_7_7_7_3 _ _ (by decide) (by decide)]; exact ext_full i
  refine of_row hw F0 (by decide) ?_
  rw [decodeRow, F0]
  show decodeRow11 z = _
  rw [decodeRow11, F1, E0, E1, E2]
  rfl
theorem fmaxS (d : BitVec 7) (a : BitVec 7) (s : BitVec 7) : Statement (.fmaxS d a s) := by
  intro hw _ z he
  have F0 : fx z 26 6 = 17 := by rw [← Option.some.inj he, fx, bits_11_7_7_7_0 _ _ (by decide) (by decide)]; rfl
  have F1 : fx z 21 5 = 12 := by rw [← Option.some.inj he, fx, bits_11_7_7_7_0 _ _ (by decide) (by decide)]; rfl
  have E0 : z.extractLsb' 14 7 = d := by rw [← Option.some.inj he, bits_11_7_7_7_1 _ _ (by decide) (by decide)]; exact ext_full d
  have E1 : z.extractLsb' 7 7 = a := by rw [← Option.some.inj he, bits_11_7_7_7_2 _ _ (by decide) (by decide)]; exact ext_full a
  have E2 : z.extractLsb' 0 7 = s := by rw [← Option.some.inj he, bits_11_7_7_7_3 _ _ (by decide) (by decide)]; exact ext_full s
  refine of_row hw F0 (by decide) ?_
  rw [decodeRow, F0]
  show decodeRow11 z = _
  rw [decodeRow11, F1, E0, E1, E2]
  rfl
theorem fmaxI (d : BitVec 7) (a : BitVec 7) (i : BitVec 7) : Statement (.fmaxI d a i) := by
  intro hw _ z he
  have F0 : fx z 26 6 = 17 := by rw [← Option.some.inj he, fx, bits_11_7_7_7_0 _ _ (by decide) (by decide)]; rfl
  have F1 : fx z 21 5 = 28 := by rw [← Option.some.inj he, fx, bits_11_7_7_7_0 _ _ (by decide) (by decide)]; rfl
  have E0 : z.extractLsb' 14 7 = d := by rw [← Option.some.inj he, bits_11_7_7_7_1 _ _ (by decide) (by decide)]; exact ext_full d
  have E1 : z.extractLsb' 7 7 = a := by rw [← Option.some.inj he, bits_11_7_7_7_2 _ _ (by decide) (by decide)]; exact ext_full a
  have E2 : z.extractLsb' 0 7 = i := by rw [← Option.some.inj he, bits_11_7_7_7_3 _ _ (by decide) (by decide)]; exact ext_full i
  refine of_row hw F0 (by decide) ?_
  rw [decodeRow, F0]
  show decodeRow11 z = _
  rw [decodeRow11, F1, E0, E1, E2]
  rfl
theorem ffma (r : BitVec 2) (d : BitVec 7) (a : BitVec 7) (b : BitVec 7) : Statement (.ffma r d a b) := by
  intro hw _ z he
  have F0 : fx z 26 6 = 18 := by rw [← Option.some.inj he, fx, bits_9_2_7_7_7_0 _ _ (by decide) (by decide)]; rfl
  have F1 : fx z 23 3 = 0 := by rw [← Option.some.inj he, fx, bits_9_2_7_7_7_0 _ _ (by decide) (by decide)]; rfl
  have E0 : z.extractLsb' 21 2 = r := by rw [← Option.some.inj he, bits_9_2_7_7_7_1 _ _ (by decide) (by decide)]; exact ext_full r
  have E1 : z.extractLsb' 14 7 = d := by rw [← Option.some.inj he, bits_9_2_7_7_7_2 _ _ (by decide) (by decide)]; exact ext_full d
  have E2 : z.extractLsb' 7 7 = a := by rw [← Option.some.inj he, bits_9_2_7_7_7_3 _ _ (by decide) (by decide)]; exact ext_full a
  have E3 : z.extractLsb' 0 7 = b := by rw [← Option.some.inj he, bits_9_2_7_7_7_4 _ _ (by decide) (by decide)]; exact ext_full b
  refine of_row hw F0 (by decide) ?_
  rw [decodeRow, F0]
  show decodeRow12 z = _
  rw [decodeRow12, F1, E0, E1, E2, E3]
  rfl
theorem ffms (r : BitVec 2) (d : BitVec 7) (a : BitVec 7) (b : BitVec 7) : Statement (.ffms r d a b) := by
  intro hw _ z he
  have F0 : fx z 26 6 = 18 := by rw [← Option.some.inj he, fx, bits_9_2_7_7_7_0 _ _ (by decide) (by decide)]; rfl
  have F1 : fx z 23 3 = 1 := by rw [← Option.some.inj he, fx, bits_9_2_7_7_7_0 _ _ (by decide) (by decide)]; rfl
  have E0 : z.extractLsb' 21 2 = r := by rw [← Option.some.inj he, bits_9_2_7_7_7_1 _ _ (by decide) (by decide)]; exact ext_full r
  have E1 : z.extractLsb' 14 7 = d := by rw [← Option.some.inj he, bits_9_2_7_7_7_2 _ _ (by decide) (by decide)]; exact ext_full d
  have E2 : z.extractLsb' 7 7 = a := by rw [← Option.some.inj he, bits_9_2_7_7_7_3 _ _ (by decide) (by decide)]; exact ext_full a
  have E3 : z.extractLsb' 0 7 = b := by rw [← Option.some.inj he, bits_9_2_7_7_7_4 _ _ (by decide) (by decide)]; exact ext_full b
  refine of_row hw F0 (by decide) ?_
  rw [decodeRow, F0]
  show decodeRow12 z = _
  rw [decodeRow12, F1, E0, E1, E2, E3]
  rfl
theorem ffnma (r : BitVec 2) (d : BitVec 7) (a : BitVec 7) (b : BitVec 7) : Statement (.ffnma r d a b) := by
  intro hw _ z he
  have F0 : fx z 26 6 = 18 := by rw [← Option.some.inj he, fx, bits_9_2_7_7_7_0 _ _ (by decide) (by decide)]; rfl
  have F1 : fx z 23 3 = 2 := by rw [← Option.some.inj he, fx, bits_9_2_7_7_7_0 _ _ (by decide) (by decide)]; rfl
  have E0 : z.extractLsb' 21 2 = r := by rw [← Option.some.inj he, bits_9_2_7_7_7_1 _ _ (by decide) (by decide)]; exact ext_full r
  have E1 : z.extractLsb' 14 7 = d := by rw [← Option.some.inj he, bits_9_2_7_7_7_2 _ _ (by decide) (by decide)]; exact ext_full d
  have E2 : z.extractLsb' 7 7 = a := by rw [← Option.some.inj he, bits_9_2_7_7_7_3 _ _ (by decide) (by decide)]; exact ext_full a
  have E3 : z.extractLsb' 0 7 = b := by rw [← Option.some.inj he, bits_9_2_7_7_7_4 _ _ (by decide) (by decide)]; exact ext_full b
  refine of_row hw F0 (by decide) ?_
  rw [decodeRow, F0]
  show decodeRow12 z = _
  rw [decodeRow12, F1, E0, E1, E2, E3]
  rfl
theorem ffnms (r : BitVec 2) (d : BitVec 7) (a : BitVec 7) (b : BitVec 7) : Statement (.ffnms r d a b) := by
  intro hw _ z he
  have F0 : fx z 26 6 = 18 := by rw [← Option.some.inj he, fx, bits_9_2_7_7_7_0 _ _ (by decide) (by decide)]; rfl
  have F1 : fx z 23 3 = 3 := by rw [← Option.some.inj he, fx, bits_9_2_7_7_7_0 _ _ (by decide) (by decide)]; rfl
  have E0 : z.extractLsb' 21 2 = r := by rw [← Option.some.inj he, bits_9_2_7_7_7_1 _ _ (by decide) (by decide)]; exact ext_full r
  have E1 : z.extractLsb' 14 7 = d := by rw [← Option.some.inj he, bits_9_2_7_7_7_2 _ _ (by decide) (by decide)]; exact ext_full d
  have E2 : z.extractLsb' 7 7 = a := by rw [← Option.some.inj he, bits_9_2_7_7_7_3 _ _ (by decide) (by decide)]; exact ext_full a
  have E3 : z.extractLsb' 0 7 = b := by rw [← Option.some.inj he, bits_9_2_7_7_7_4 _ _ (by decide) (by decide)]; exact ext_full b
  refine of_row hw F0 (by decide) ?_
  rw [decodeRow, F0]
  show decodeRow12 z = _
  rw [decodeRow12, F1, E0, E1, E2, E3]
  rfl
theorem ffmaS (r : BitVec 2) (d : BitVec 7) (a : BitVec 7) (s : BitVec 7) : Statement (.ffmaS r d a s) := by
  intro hw _ z he
  have F0 : fx z 26 6 = 18 := by rw [← Option.some.inj he, fx, bits_9_2_7_7_7_0 _ _ (by decide) (by decide)]; rfl
  have F1 : fx z 23 3 = 4 := by rw [← Option.some.inj he, fx, bits_9_2_7_7_7_0 _ _ (by decide) (by decide)]; rfl
  have E0 : z.extractLsb' 21 2 = r := by rw [← Option.some.inj he, bits_9_2_7_7_7_1 _ _ (by decide) (by decide)]; exact ext_full r
  have E1 : z.extractLsb' 14 7 = d := by rw [← Option.some.inj he, bits_9_2_7_7_7_2 _ _ (by decide) (by decide)]; exact ext_full d
  have E2 : z.extractLsb' 7 7 = a := by rw [← Option.some.inj he, bits_9_2_7_7_7_3 _ _ (by decide) (by decide)]; exact ext_full a
  have E3 : z.extractLsb' 0 7 = s := by rw [← Option.some.inj he, bits_9_2_7_7_7_4 _ _ (by decide) (by decide)]; exact ext_full s
  refine of_row hw F0 (by decide) ?_
  rw [decodeRow, F0]
  show decodeRow12 z = _
  rw [decodeRow12, F1, E0, E1, E2, E3]
  rfl
theorem ffmsS (r : BitVec 2) (d : BitVec 7) (a : BitVec 7) (s : BitVec 7) : Statement (.ffmsS r d a s) := by
  intro hw _ z he
  have F0 : fx z 26 6 = 18 := by rw [← Option.some.inj he, fx, bits_9_2_7_7_7_0 _ _ (by decide) (by decide)]; rfl
  have F1 : fx z 23 3 = 5 := by rw [← Option.some.inj he, fx, bits_9_2_7_7_7_0 _ _ (by decide) (by decide)]; rfl
  have E0 : z.extractLsb' 21 2 = r := by rw [← Option.some.inj he, bits_9_2_7_7_7_1 _ _ (by decide) (by decide)]; exact ext_full r
  have E1 : z.extractLsb' 14 7 = d := by rw [← Option.some.inj he, bits_9_2_7_7_7_2 _ _ (by decide) (by decide)]; exact ext_full d
  have E2 : z.extractLsb' 7 7 = a := by rw [← Option.some.inj he, bits_9_2_7_7_7_3 _ _ (by decide) (by decide)]; exact ext_full a
  have E3 : z.extractLsb' 0 7 = s := by rw [← Option.some.inj he, bits_9_2_7_7_7_4 _ _ (by decide) (by decide)]; exact ext_full s
  refine of_row hw F0 (by decide) ?_
  rw [decodeRow, F0]
  show decodeRow12 z = _
  rw [decodeRow12, F1, E0, E1, E2, E3]
  rfl
theorem ffnmaS (r : BitVec 2) (d : BitVec 7) (a : BitVec 7) (s : BitVec 7) : Statement (.ffnmaS r d a s) := by
  intro hw _ z he
  have F0 : fx z 26 6 = 18 := by rw [← Option.some.inj he, fx, bits_9_2_7_7_7_0 _ _ (by decide) (by decide)]; rfl
  have F1 : fx z 23 3 = 6 := by rw [← Option.some.inj he, fx, bits_9_2_7_7_7_0 _ _ (by decide) (by decide)]; rfl
  have E0 : z.extractLsb' 21 2 = r := by rw [← Option.some.inj he, bits_9_2_7_7_7_1 _ _ (by decide) (by decide)]; exact ext_full r
  have E1 : z.extractLsb' 14 7 = d := by rw [← Option.some.inj he, bits_9_2_7_7_7_2 _ _ (by decide) (by decide)]; exact ext_full d
  have E2 : z.extractLsb' 7 7 = a := by rw [← Option.some.inj he, bits_9_2_7_7_7_3 _ _ (by decide) (by decide)]; exact ext_full a
  have E3 : z.extractLsb' 0 7 = s := by rw [← Option.some.inj he, bits_9_2_7_7_7_4 _ _ (by decide) (by decide)]; exact ext_full s
  refine of_row hw F0 (by decide) ?_
  rw [decodeRow, F0]
  show decodeRow12 z = _
  rw [decodeRow12, F1, E0, E1, E2, E3]
  rfl
theorem ffnmsS (r : BitVec 2) (d : BitVec 7) (a : BitVec 7) (s : BitVec 7) : Statement (.ffnmsS r d a s) := by
  intro hw _ z he
  have F0 : fx z 26 6 = 18 := by rw [← Option.some.inj he, fx, bits_9_2_7_7_7_0 _ _ (by decide) (by decide)]; rfl
  have F1 : fx z 23 3 = 7 := by rw [← Option.some.inj he, fx, bits_9_2_7_7_7_0 _ _ (by decide) (by decide)]; rfl
  have E0 : z.extractLsb' 21 2 = r := by rw [← Option.some.inj he, bits_9_2_7_7_7_1 _ _ (by decide) (by decide)]; exact ext_full r
  have E1 : z.extractLsb' 14 7 = d := by rw [← Option.some.inj he, bits_9_2_7_7_7_2 _ _ (by decide) (by decide)]; exact ext_full d
  have E2 : z.extractLsb' 7 7 = a := by rw [← Option.some.inj he, bits_9_2_7_7_7_3 _ _ (by decide) (by decide)]; exact ext_full a
  have E3 : z.extractLsb' 0 7 = s := by rw [← Option.some.inj he, bits_9_2_7_7_7_4 _ _ (by decide) (by decide)]; exact ext_full s
  refine of_row hw F0 (by decide) ?_
  rw [decodeRow, F0]
  show decodeRow12 z = _
  rw [decodeRow12, F1, E0, E1, E2, E3]
  rfl
theorem haddF16x2 (r : BitVec 2) (d : BitVec 7) (a : BitVec 7) (b : BitVec 7) : Statement (.haddF16x2 r d a b) := by
  intro hw _ z he
  have F0 : fx z 26 6 = 19 := by rw [← Option.some.inj he, fx, bits_9_2_7_7_7_0 _ _ (by decide) (by decide)]; rfl
  have F1 : fx z 23 3 = 0 := by rw [← Option.some.inj he, fx, bits_9_2_7_7_7_0 _ _ (by decide) (by decide)]; rfl
  have E0 : z.extractLsb' 21 2 = r := by rw [← Option.some.inj he, bits_9_2_7_7_7_1 _ _ (by decide) (by decide)]; exact ext_full r
  have E1 : z.extractLsb' 14 7 = d := by rw [← Option.some.inj he, bits_9_2_7_7_7_2 _ _ (by decide) (by decide)]; exact ext_full d
  have E2 : z.extractLsb' 7 7 = a := by rw [← Option.some.inj he, bits_9_2_7_7_7_3 _ _ (by decide) (by decide)]; exact ext_full a
  have E3 : z.extractLsb' 0 7 = b := by rw [← Option.some.inj he, bits_9_2_7_7_7_4 _ _ (by decide) (by decide)]; exact ext_full b
  have N0 : (fx z 21 5 == 12) = false := sub_ne F1 (by decide) (by decide) (by decide)
  have N1 : (fx z 21 5 == 28) = false := sub_ne F1 (by decide) (by decide) (by decide)
  refine of_row hw F0 (by decide) ?_
  rw [decodeRow, F0]
  show decodeRow13 z = _
  rw [decodeRow13, N0, N1, F1, E0, E1, E2, E3]
  rfl
theorem hmulF16x2 (r : BitVec 2) (d : BitVec 7) (a : BitVec 7) (b : BitVec 7) : Statement (.hmulF16x2 r d a b) := by
  intro hw _ z he
  have F0 : fx z 26 6 = 19 := by rw [← Option.some.inj he, fx, bits_9_2_7_7_7_0 _ _ (by decide) (by decide)]; rfl
  have F1 : fx z 23 3 = 1 := by rw [← Option.some.inj he, fx, bits_9_2_7_7_7_0 _ _ (by decide) (by decide)]; rfl
  have E0 : z.extractLsb' 21 2 = r := by rw [← Option.some.inj he, bits_9_2_7_7_7_1 _ _ (by decide) (by decide)]; exact ext_full r
  have E1 : z.extractLsb' 14 7 = d := by rw [← Option.some.inj he, bits_9_2_7_7_7_2 _ _ (by decide) (by decide)]; exact ext_full d
  have E2 : z.extractLsb' 7 7 = a := by rw [← Option.some.inj he, bits_9_2_7_7_7_3 _ _ (by decide) (by decide)]; exact ext_full a
  have E3 : z.extractLsb' 0 7 = b := by rw [← Option.some.inj he, bits_9_2_7_7_7_4 _ _ (by decide) (by decide)]; exact ext_full b
  have N0 : (fx z 21 5 == 12) = false := sub_ne F1 (by decide) (by decide) (by decide)
  have N1 : (fx z 21 5 == 28) = false := sub_ne F1 (by decide) (by decide) (by decide)
  refine of_row hw F0 (by decide) ?_
  rw [decodeRow, F0]
  show decodeRow13 z = _
  rw [decodeRow13, N0, N1, F1, E0, E1, E2, E3]
  rfl
theorem hfmaF16x2 (r : BitVec 2) (d : BitVec 7) (a : BitVec 7) (b : BitVec 7) : Statement (.hfmaF16x2 r d a b) := by
  intro hw _ z he
  have F0 : fx z 26 6 = 19 := by rw [← Option.some.inj he, fx, bits_9_2_7_7_7_0 _ _ (by decide) (by decide)]; rfl
  have F1 : fx z 23 3 = 2 := by rw [← Option.some.inj he, fx, bits_9_2_7_7_7_0 _ _ (by decide) (by decide)]; rfl
  have E0 : z.extractLsb' 21 2 = r := by rw [← Option.some.inj he, bits_9_2_7_7_7_1 _ _ (by decide) (by decide)]; exact ext_full r
  have E1 : z.extractLsb' 14 7 = d := by rw [← Option.some.inj he, bits_9_2_7_7_7_2 _ _ (by decide) (by decide)]; exact ext_full d
  have E2 : z.extractLsb' 7 7 = a := by rw [← Option.some.inj he, bits_9_2_7_7_7_3 _ _ (by decide) (by decide)]; exact ext_full a
  have E3 : z.extractLsb' 0 7 = b := by rw [← Option.some.inj he, bits_9_2_7_7_7_4 _ _ (by decide) (by decide)]; exact ext_full b
  have N0 : (fx z 21 5 == 12) = false := sub_ne F1 (by decide) (by decide) (by decide)
  have N1 : (fx z 21 5 == 28) = false := sub_ne F1 (by decide) (by decide) (by decide)
  refine of_row hw F0 (by decide) ?_
  rw [decodeRow, F0]
  show decodeRow13 z = _
  rw [decodeRow13, N0, N1, F1, E0, E1, E2, E3]
  rfl
theorem hminF16x2 (d : BitVec 7) (a : BitVec 7) (b : BitVec 7) : Statement (.hminF16x2 d a b) := by
  intro hw _ z he
  have F0 : fx z 26 6 = 19 := by rw [← Option.some.inj he, fx, bits_11_7_7_7_0 _ _ (by decide) (by decide)]; rfl
  have F1 : fx z 21 5 = 12 := by rw [← Option.some.inj he, fx, bits_11_7_7_7_0 _ _ (by decide) (by decide)]; rfl
  have E0 : z.extractLsb' 14 7 = d := by rw [← Option.some.inj he, bits_11_7_7_7_1 _ _ (by decide) (by decide)]; exact ext_full d
  have E1 : z.extractLsb' 7 7 = a := by rw [← Option.some.inj he, bits_11_7_7_7_2 _ _ (by decide) (by decide)]; exact ext_full a
  have E2 : z.extractLsb' 0 7 = b := by rw [← Option.some.inj he, bits_11_7_7_7_3 _ _ (by decide) (by decide)]; exact ext_full b
  refine of_row hw F0 (by decide) ?_
  rw [decodeRow, F0]
  show decodeRow13 z = _
  rw [decodeRow13, F1, E0, E1, E2]
  rfl
theorem haddBf16x2 (r : BitVec 2) (d : BitVec 7) (a : BitVec 7) (b : BitVec 7) : Statement (.haddBf16x2 r d a b) := by
  intro hw _ z he
  have F0 : fx z 26 6 = 19 := by rw [← Option.some.inj he, fx, bits_9_2_7_7_7_0 _ _ (by decide) (by decide)]; rfl
  have F1 : fx z 23 3 = 4 := by rw [← Option.some.inj he, fx, bits_9_2_7_7_7_0 _ _ (by decide) (by decide)]; rfl
  have E0 : z.extractLsb' 21 2 = r := by rw [← Option.some.inj he, bits_9_2_7_7_7_1 _ _ (by decide) (by decide)]; exact ext_full r
  have E1 : z.extractLsb' 14 7 = d := by rw [← Option.some.inj he, bits_9_2_7_7_7_2 _ _ (by decide) (by decide)]; exact ext_full d
  have E2 : z.extractLsb' 7 7 = a := by rw [← Option.some.inj he, bits_9_2_7_7_7_3 _ _ (by decide) (by decide)]; exact ext_full a
  have E3 : z.extractLsb' 0 7 = b := by rw [← Option.some.inj he, bits_9_2_7_7_7_4 _ _ (by decide) (by decide)]; exact ext_full b
  have N0 : (fx z 21 5 == 12) = false := sub_ne F1 (by decide) (by decide) (by decide)
  have N1 : (fx z 21 5 == 28) = false := sub_ne F1 (by decide) (by decide) (by decide)
  refine of_row hw F0 (by decide) ?_
  rw [decodeRow, F0]
  show decodeRow13 z = _
  rw [decodeRow13, N0, N1, F1, E0, E1, E2, E3]
  rfl
theorem hmulBf16x2 (r : BitVec 2) (d : BitVec 7) (a : BitVec 7) (b : BitVec 7) : Statement (.hmulBf16x2 r d a b) := by
  intro hw _ z he
  have F0 : fx z 26 6 = 19 := by rw [← Option.some.inj he, fx, bits_9_2_7_7_7_0 _ _ (by decide) (by decide)]; rfl
  have F1 : fx z 23 3 = 5 := by rw [← Option.some.inj he, fx, bits_9_2_7_7_7_0 _ _ (by decide) (by decide)]; rfl
  have E0 : z.extractLsb' 21 2 = r := by rw [← Option.some.inj he, bits_9_2_7_7_7_1 _ _ (by decide) (by decide)]; exact ext_full r
  have E1 : z.extractLsb' 14 7 = d := by rw [← Option.some.inj he, bits_9_2_7_7_7_2 _ _ (by decide) (by decide)]; exact ext_full d
  have E2 : z.extractLsb' 7 7 = a := by rw [← Option.some.inj he, bits_9_2_7_7_7_3 _ _ (by decide) (by decide)]; exact ext_full a
  have E3 : z.extractLsb' 0 7 = b := by rw [← Option.some.inj he, bits_9_2_7_7_7_4 _ _ (by decide) (by decide)]; exact ext_full b
  have N0 : (fx z 21 5 == 12) = false := sub_ne F1 (by decide) (by decide) (by decide)
  have N1 : (fx z 21 5 == 28) = false := sub_ne F1 (by decide) (by decide) (by decide)
  refine of_row hw F0 (by decide) ?_
  rw [decodeRow, F0]
  show decodeRow13 z = _
  rw [decodeRow13, N0, N1, F1, E0, E1, E2, E3]
  rfl
theorem hfmaBf16x2 (r : BitVec 2) (d : BitVec 7) (a : BitVec 7) (b : BitVec 7) : Statement (.hfmaBf16x2 r d a b) := by
  intro hw _ z he
  have F0 : fx z 26 6 = 19 := by rw [← Option.some.inj he, fx, bits_9_2_7_7_7_0 _ _ (by decide) (by decide)]; rfl
  have F1 : fx z 23 3 = 6 := by rw [← Option.some.inj he, fx, bits_9_2_7_7_7_0 _ _ (by decide) (by decide)]; rfl
  have E0 : z.extractLsb' 21 2 = r := by rw [← Option.some.inj he, bits_9_2_7_7_7_1 _ _ (by decide) (by decide)]; exact ext_full r
  have E1 : z.extractLsb' 14 7 = d := by rw [← Option.some.inj he, bits_9_2_7_7_7_2 _ _ (by decide) (by decide)]; exact ext_full d
  have E2 : z.extractLsb' 7 7 = a := by rw [← Option.some.inj he, bits_9_2_7_7_7_3 _ _ (by decide) (by decide)]; exact ext_full a
  have E3 : z.extractLsb' 0 7 = b := by rw [← Option.some.inj he, bits_9_2_7_7_7_4 _ _ (by decide) (by decide)]; exact ext_full b
  have N0 : (fx z 21 5 == 12) = false := sub_ne F1 (by decide) (by decide) (by decide)
  have N1 : (fx z 21 5 == 28) = false := sub_ne F1 (by decide) (by decide) (by decide)
  refine of_row hw F0 (by decide) ?_
  rw [decodeRow, F0]
  show decodeRow13 z = _
  rw [decodeRow13, N0, N1, F1, E0, E1, E2, E3]
  rfl
theorem hminBf16x2 (d : BitVec 7) (a : BitVec 7) (b : BitVec 7) : Statement (.hminBf16x2 d a b) := by
  intro hw _ z he
  have F0 : fx z 26 6 = 19 := by rw [← Option.some.inj he, fx, bits_11_7_7_7_0 _ _ (by decide) (by decide)]; rfl
  have F1 : fx z 21 5 = 28 := by rw [← Option.some.inj he, fx, bits_11_7_7_7_0 _ _ (by decide) (by decide)]; rfl
  have E0 : z.extractLsb' 14 7 = d := by rw [← Option.some.inj he, bits_11_7_7_7_1 _ _ (by decide) (by decide)]; exact ext_full d
  have E1 : z.extractLsb' 7 7 = a := by rw [← Option.some.inj he, bits_11_7_7_7_2 _ _ (by decide) (by decide)]; exact ext_full a
  have E2 : z.extractLsb' 0 7 = b := by rw [← Option.some.inj he, bits_11_7_7_7_3 _ _ (by decide) (by decide)]; exact ext_full b
  refine of_row hw F0 (by decide) ?_
  rw [decodeRow, F0]
  show decodeRow13 z = _
  rw [decodeRow13, F1, E0, E1, E2]
  rfl
theorem vcmpF32 (c : BitVec 5) (p : BitVec 4) (a : BitVec 7) (b : BitVec 7) : Statement (.vcmpF32 c p a b) := by
  intro hw _ z he
  have F0 : fx z 26 6 = 20 := by rw [← Option.some.inj he, fx, bits_6_5_4_3_7_7_0 _ _ (by decide) (by decide)]; rfl
  have F1 : fx z 14 3 = 0 := by rw [← Option.some.inj he, fx, bits_6_5_4_3_7_7_3 _ _ (by decide) (by decide)]; rfl
  have E0 : z.extractLsb' 21 5 = c := by rw [← Option.some.inj he, bits_6_5_4_3_7_7_1 _ _ (by decide) (by decide)]; exact ext_full c
  have E1 : z.extractLsb' 17 4 = p := by rw [← Option.some.inj he, bits_6_5_4_3_7_7_2 _ _ (by decide) (by decide)]; exact ext_full p
  have E2 : z.extractLsb' 7 7 = a := by rw [← Option.some.inj he, bits_6_5_4_3_7_7_4 _ _ (by decide) (by decide)]; exact ext_full a
  have E3 : z.extractLsb' 0 7 = b := by rw [← Option.some.inj he, bits_6_5_4_3_7_7_5 _ _ (by decide) (by decide)]; exact ext_full b
  refine of_row hw F0 (by decide) ?_
  rw [decodeRow, F0]
  show decodeRow14 z = _
  rw [decodeRow14, F1, E0, E1, E2, E3]
  rfl
theorem vcvtWiden (w : BitVec 2) (o : BitVec 4) (r : BitVec 2) (e : BitVec 3) (d : BitVec 7) (a : BitVec 7) : Statement (.vcvtWiden w o r e d a) := by
  intro hw _ z he
  have F0 : fx z 26 6 = 21 := by rw [← Option.some.inj he, fx, bits_6_2_4_1_2_3_7_7_0 _ _ (by decide) (by decide)]; rfl
  have F1 : fx z 19 1 = 0 := by rw [← Option.some.inj he, fx, bits_6_2_4_1_2_3_7_7_3 _ _ (by decide) (by decide)]; rfl
  have E0 : z.extractLsb' 24 2 = w := by rw [← Option.some.inj he, bits_6_2_4_1_2_3_7_7_1 _ _ (by decide) (by decide)]; exact ext_full w
  have E1 : z.extractLsb' 20 4 = o := by rw [← Option.some.inj he, bits_6_2_4_1_2_3_7_7_2 _ _ (by decide) (by decide)]; exact ext_full o
  have E2 : z.extractLsb' 17 2 = r := by rw [← Option.some.inj he, bits_6_2_4_1_2_3_7_7_4 _ _ (by decide) (by decide)]; exact ext_full r
  have E3 : z.extractLsb' 14 3 = e := by rw [← Option.some.inj he, bits_6_2_4_1_2_3_7_7_5 _ _ (by decide) (by decide)]; exact ext_full e
  have E4 : z.extractLsb' 7 7 = d := by rw [← Option.some.inj he, bits_6_2_4_1_2_3_7_7_6 _ _ (by decide) (by decide)]; exact ext_full d
  have E5 : z.extractLsb' 0 7 = a := by rw [← Option.some.inj he, bits_6_2_4_1_2_3_7_7_7 _ _ (by decide) (by decide)]; exact ext_full a
  refine of_row hw F0 (by decide) ?_
  rw [decodeRow, F0]
  show decodeRow15 z = _
  rw [decodeRow15, F1, E0, E1, E2, E3, E4, E5]
  rfl
theorem vcvtNarrow (w : BitVec 2) (o : BitVec 4) (r : BitVec 2) (e : BitVec 3) (d : BitVec 7) (a : BitVec 7) : Statement (.vcvtNarrow w o r e d a) := by
  intro hw _ z he
  have F0 : fx z 26 6 = 21 := by rw [← Option.some.inj he, fx, bits_6_2_4_1_2_3_7_7_0 _ _ (by decide) (by decide)]; rfl
  have F1 : fx z 19 1 = 1 := by rw [← Option.some.inj he, fx, bits_6_2_4_1_2_3_7_7_3 _ _ (by decide) (by decide)]; rfl
  have E0 : z.extractLsb' 24 2 = w := by rw [← Option.some.inj he, bits_6_2_4_1_2_3_7_7_1 _ _ (by decide) (by decide)]; exact ext_full w
  have E1 : z.extractLsb' 20 4 = o := by rw [← Option.some.inj he, bits_6_2_4_1_2_3_7_7_2 _ _ (by decide) (by decide)]; exact ext_full o
  have E2 : z.extractLsb' 17 2 = r := by rw [← Option.some.inj he, bits_6_2_4_1_2_3_7_7_4 _ _ (by decide) (by decide)]; exact ext_full r
  have E3 : z.extractLsb' 14 3 = e := by rw [← Option.some.inj he, bits_6_2_4_1_2_3_7_7_5 _ _ (by decide) (by decide)]; exact ext_full e
  have E4 : z.extractLsb' 7 7 = d := by rw [← Option.some.inj he, bits_6_2_4_1_2_3_7_7_6 _ _ (by decide) (by decide)]; exact ext_full d
  have E5 : z.extractLsb' 0 7 = a := by rw [← Option.some.inj he, bits_6_2_4_1_2_3_7_7_7 _ _ (by decide) (by decide)]; exact ext_full a
  refine of_row hw F0 (by decide) ?_
  rw [decodeRow, F0]
  show decodeRow15 z = _
  rw [decodeRow15, F1, E0, E1, E2, E3, E4, E5]
  rfl
theorem vrcp (d : BitVec 7) (a : BitVec 7) : Statement (.vrcp d a) := by
  intro hw _ z he
  have F0 : fx z 26 6 = 22 := by rw [← Option.some.inj he, fx, bits_11_7_7_7_0 _ _ (by decide) (by decide)]; rfl
  have F1 : fx z 21 5 = 0 := by rw [← Option.some.inj he, fx, bits_11_7_7_7_0 _ _ (by decide) (by decide)]; rfl
  have F2 : fx z 0 7 = 0 := by rw [← Option.some.inj he, fx, bits_11_7_7_7_3 _ _ (by decide) (by decide)]; rfl
  have E0 : z.extractLsb' 14 7 = d := by rw [← Option.some.inj he, bits_11_7_7_7_1 _ _ (by decide) (by decide)]; exact ext_full d
  have E1 : z.extractLsb' 7 7 = a := by rw [← Option.some.inj he, bits_11_7_7_7_2 _ _ (by decide) (by decide)]; exact ext_full a
  refine of_row hw F0 (by decide) ?_
  rw [decodeRow, F0]
  show decodeRow16 z = _
  rw [decodeRow16, F1, F2, E0, E1]
  rfl
theorem vrsq (d : BitVec 7) (a : BitVec 7) : Statement (.vrsq d a) := by
  intro hw _ z he
  have F0 : fx z 26 6 = 22 := by rw [← Option.some.inj he, fx, bits_11_7_7_7_0 _ _ (by decide) (by decide)]; rfl
  have F1 : fx z 21 5 = 1 := by rw [← Option.some.inj he, fx, bits_11_7_7_7_0 _ _ (by decide) (by decide)]; rfl
  have F2 : fx z 0 7 = 0 := by rw [← Option.some.inj he, fx, bits_11_7_7_7_3 _ _ (by decide) (by decide)]; rfl
  have E0 : z.extractLsb' 14 7 = d := by rw [← Option.some.inj he, bits_11_7_7_7_1 _ _ (by decide) (by decide)]; exact ext_full d
  have E1 : z.extractLsb' 7 7 = a := by rw [← Option.some.inj he, bits_11_7_7_7_2 _ _ (by decide) (by decide)]; exact ext_full a
  refine of_row hw F0 (by decide) ?_
  rw [decodeRow, F0]
  show decodeRow16 z = _
  rw [decodeRow16, F1, F2, E0, E1]
  rfl
theorem vsqrt (d : BitVec 7) (a : BitVec 7) : Statement (.vsqrt d a) := by
  intro hw _ z he
  have F0 : fx z 26 6 = 22 := by rw [← Option.some.inj he, fx, bits_11_7_7_7_0 _ _ (by decide) (by decide)]; rfl
  have F1 : fx z 21 5 = 2 := by rw [← Option.some.inj he, fx, bits_11_7_7_7_0 _ _ (by decide) (by decide)]; rfl
  have F2 : fx z 0 7 = 0 := by rw [← Option.some.inj he, fx, bits_11_7_7_7_3 _ _ (by decide) (by decide)]; rfl
  have E0 : z.extractLsb' 14 7 = d := by rw [← Option.some.inj he, bits_11_7_7_7_1 _ _ (by decide) (by decide)]; exact ext_full d
  have E1 : z.extractLsb' 7 7 = a := by rw [← Option.some.inj he, bits_11_7_7_7_2 _ _ (by decide) (by decide)]; exact ext_full a
  refine of_row hw F0 (by decide) ?_
  rw [decodeRow, F0]
  show decodeRow16 z = _
  rw [decodeRow16, F1, F2, E0, E1]
  rfl
theorem vexp2 (d : BitVec 7) (a : BitVec 7) : Statement (.vexp2 d a) := by
  intro hw _ z he
  have F0 : fx z 26 6 = 22 := by rw [← Option.some.inj he, fx, bits_11_7_7_7_0 _ _ (by decide) (by decide)]; rfl
  have F1 : fx z 21 5 = 3 := by rw [← Option.some.inj he, fx, bits_11_7_7_7_0 _ _ (by decide) (by decide)]; rfl
  have F2 : fx z 0 7 = 0 := by rw [← Option.some.inj he, fx, bits_11_7_7_7_3 _ _ (by decide) (by decide)]; rfl
  have E0 : z.extractLsb' 14 7 = d := by rw [← Option.some.inj he, bits_11_7_7_7_1 _ _ (by decide) (by decide)]; exact ext_full d
  have E1 : z.extractLsb' 7 7 = a := by rw [← Option.some.inj he, bits_11_7_7_7_2 _ _ (by decide) (by decide)]; exact ext_full a
  refine of_row hw F0 (by decide) ?_
  rw [decodeRow, F0]
  show decodeRow16 z = _
  rw [decodeRow16, F1, F2, E0, E1]
  rfl
theorem vlog2 (d : BitVec 7) (a : BitVec 7) : Statement (.vlog2 d a) := by
  intro hw _ z he
  have F0 : fx z 26 6 = 22 := by rw [← Option.some.inj he, fx, bits_11_7_7_7_0 _ _ (by decide) (by decide)]; rfl
  have F1 : fx z 21 5 = 4 := by rw [← Option.some.inj he, fx, bits_11_7_7_7_0 _ _ (by decide) (by decide)]; rfl
  have F2 : fx z 0 7 = 0 := by rw [← Option.some.inj he, fx, bits_11_7_7_7_3 _ _ (by decide) (by decide)]; rfl
  have E0 : z.extractLsb' 14 7 = d := by rw [← Option.some.inj he, bits_11_7_7_7_1 _ _ (by decide) (by decide)]; exact ext_full d
  have E1 : z.extractLsb' 7 7 = a := by rw [← Option.some.inj he, bits_11_7_7_7_2 _ _ (by decide) (by decide)]; exact ext_full a
  refine of_row hw F0 (by decide) ?_
  rw [decodeRow, F0]
  show decodeRow16 z = _
  rw [decodeRow16, F1, F2, E0, E1]
  rfl
theorem vsinpi (d : BitVec 7) (a : BitVec 7) : Statement (.vsinpi d a) := by
  intro hw _ z he
  have F0 : fx z 26 6 = 22 := by rw [← Option.some.inj he, fx, bits_11_7_7_7_0 _ _ (by decide) (by decide)]; rfl
  have F1 : fx z 21 5 = 5 := by rw [← Option.some.inj he, fx, bits_11_7_7_7_0 _ _ (by decide) (by decide)]; rfl
  have F2 : fx z 0 7 = 0 := by rw [← Option.some.inj he, fx, bits_11_7_7_7_3 _ _ (by decide) (by decide)]; rfl
  have E0 : z.extractLsb' 14 7 = d := by rw [← Option.some.inj he, bits_11_7_7_7_1 _ _ (by decide) (by decide)]; exact ext_full d
  have E1 : z.extractLsb' 7 7 = a := by rw [← Option.some.inj he, bits_11_7_7_7_2 _ _ (by decide) (by decide)]; exact ext_full a
  refine of_row hw F0 (by decide) ?_
  rw [decodeRow, F0]
  show decodeRow16 z = _
  rw [decodeRow16, F1, F2, E0, E1]
  rfl
theorem vcospi (d : BitVec 7) (a : BitVec 7) : Statement (.vcospi d a) := by
  intro hw _ z he
  have F0 : fx z 26 6 = 22 := by rw [← Option.some.inj he, fx, bits_11_7_7_7_0 _ _ (by decide) (by decide)]; rfl
  have F1 : fx z 21 5 = 6 := by rw [← Option.some.inj he, fx, bits_11_7_7_7_0 _ _ (by decide) (by decide)]; rfl
  have F2 : fx z 0 7 = 0 := by rw [← Option.some.inj he, fx, bits_11_7_7_7_3 _ _ (by decide) (by decide)]; rfl
  have E0 : z.extractLsb' 14 7 = d := by rw [← Option.some.inj he, bits_11_7_7_7_1 _ _ (by decide) (by decide)]; exact ext_full d
  have E1 : z.extractLsb' 7 7 = a := by rw [← Option.some.inj he, bits_11_7_7_7_2 _ _ (by decide) (by decide)]; exact ext_full a
  refine of_row hw F0 (by decide) ?_
  rw [decodeRow, F0]
  show decodeRow16 z = _
  rw [decodeRow16, F1, F2, E0, E1]
  rfl
theorem vtanh (d : BitVec 7) (a : BitVec 7) : Statement (.vtanh d a) := by
  intro hw _ z he
  have F0 : fx z 26 6 = 22 := by rw [← Option.some.inj he, fx, bits_11_7_7_7_0 _ _ (by decide) (by decide)]; rfl
  have F1 : fx z 21 5 = 7 := by rw [← Option.some.inj he, fx, bits_11_7_7_7_0 _ _ (by decide) (by decide)]; rfl
  have F2 : fx z 0 7 = 0 := by rw [← Option.some.inj he, fx, bits_11_7_7_7_3 _ _ (by decide) (by decide)]; rfl
  have E0 : z.extractLsb' 14 7 = d := by rw [← Option.some.inj he, bits_11_7_7_7_1 _ _ (by decide) (by decide)]; exact ext_full d
  have E1 : z.extractLsb' 7 7 = a := by rw [← Option.some.inj he, bits_11_7_7_7_2 _ _ (by decide) (by decide)]; exact ext_full a
  refine of_row hw F0 (by decide) ?_
  rw [decodeRow, F0]
  show decodeRow16 z = _
  rw [decodeRow16, F1, F2, E0, E1]
  rfl
theorem fdot (a : BitVec 5) (b : BitVec 5) (d : BitVec 7) (s : BitVec 7) : Statement (.fdot a b d s) := by
  intro hw _ z he
  have F0 : fx z 26 6 = 23 := by rw [← Option.some.inj he, fx, bits_8_5_5_7_7_0 _ _ (by decide) (by decide)]; rfl
  have F1 : fx z 24 2 = 0 := by rw [← Option.some.inj he, fx, bits_8_5_5_7_7_0 _ _ (by decide) (by decide)]; rfl
  have E0 : z.extractLsb' 19 5 = a := by rw [← Option.some.inj he, bits_8_5_5_7_7_1 _ _ (by decide) (by decide)]; exact ext_full a
  have E1 : z.extractLsb' 14 5 = b := by rw [← Option.some.inj he, bits_8_5_5_7_7_2 _ _ (by decide) (by decide)]; exact ext_full b
  have E2 : z.extractLsb' 7 7 = d := by rw [← Option.some.inj he, bits_8_5_5_7_7_3 _ _ (by decide) (by decide)]; exact ext_full d
  have E3 : z.extractLsb' 0 7 = s := by rw [← Option.some.inj he, bits_8_5_5_7_7_4 _ _ (by decide) (by decide)]; exact ext_full s
  refine of_row hw F0 (by decide) ?_
  rw [decodeRow, F0]
  show decodeRow17 z = _
  rw [decodeRow17, F1, E0, E1, E2, E3]
  rfl
theorem idot (a : BitVec 5) (b : BitVec 5) (d : BitVec 7) (s : BitVec 7) : Statement (.idot a b d s) := by
  intro hw _ z he
  have F0 : fx z 26 6 = 23 := by rw [← Option.some.inj he, fx, bits_8_5_5_7_7_0 _ _ (by decide) (by decide)]; rfl
  have F1 : fx z 24 2 = 1 := by rw [← Option.some.inj he, fx, bits_8_5_5_7_7_0 _ _ (by decide) (by decide)]; rfl
  have E0 : z.extractLsb' 19 5 = a := by rw [← Option.some.inj he, bits_8_5_5_7_7_1 _ _ (by decide) (by decide)]; exact ext_full a
  have E1 : z.extractLsb' 14 5 = b := by rw [← Option.some.inj he, bits_8_5_5_7_7_2 _ _ (by decide) (by decide)]; exact ext_full b
  have E2 : z.extractLsb' 7 7 = d := by rw [← Option.some.inj he, bits_8_5_5_7_7_3 _ _ (by decide) (by decide)]; exact ext_full d
  have E3 : z.extractLsb' 0 7 = s := by rw [← Option.some.inj he, bits_8_5_5_7_7_4 _ _ (by decide) (by decide)]; exact ext_full s
  refine of_row hw F0 (by decide) ?_
  rw [decodeRow, F0]
  show decodeRow17 z = _
  rw [decodeRow17, F1, E0, E1, E2, E3]
  rfl
theorem idotSat (a : BitVec 5) (b : BitVec 5) (d : BitVec 7) (s : BitVec 7) : Statement (.idotSat a b d s) := by
  intro hw _ z he
  have F0 : fx z 26 6 = 23 := by rw [← Option.some.inj he, fx, bits_8_5_5_7_7_0 _ _ (by decide) (by decide)]; rfl
  have F1 : fx z 24 2 = 2 := by rw [← Option.some.inj he, fx, bits_8_5_5_7_7_0 _ _ (by decide) (by decide)]; rfl
  have E0 : z.extractLsb' 19 5 = a := by rw [← Option.some.inj he, bits_8_5_5_7_7_1 _ _ (by decide) (by decide)]; exact ext_full a
  have E1 : z.extractLsb' 14 5 = b := by rw [← Option.some.inj he, bits_8_5_5_7_7_2 _ _ (by decide) (by decide)]; exact ext_full b
  have E2 : z.extractLsb' 7 7 = d := by rw [← Option.some.inj he, bits_8_5_5_7_7_3 _ _ (by decide) (by decide)]; exact ext_full d
  have E3 : z.extractLsb' 0 7 = s := by rw [← Option.some.inj he, bits_8_5_5_7_7_4 _ _ (by decide) (by decide)]; exact ext_full s
  refine of_row hw F0 (by decide) ?_
  rw [decodeRow, F0]
  show decodeRow17 z = _
  rw [decodeRow17, F1, E0, E1, E2, E3]
  rfl
theorem vshflIdx (d : BitVec 7) (a : BitVec 7) (b : BitVec 7) : Statement (.vshflIdx d a b) := by
  intro hw _ z he
  have F0 : fx z 26 6 = 24 := by rw [← Option.some.inj he, fx, bits_11_7_7_7_0 _ _ (by decide) (by decide)]; rfl
  have F1 : fx z 21 5 = 0 := by rw [← Option.some.inj he, fx, bits_11_7_7_7_0 _ _ (by decide) (by decide)]; rfl
  have E0 : z.extractLsb' 14 7 = d := by rw [← Option.some.inj he, bits_11_7_7_7_1 _ _ (by decide) (by decide)]; exact ext_full d
  have E1 : z.extractLsb' 7 7 = a := by rw [← Option.some.inj he, bits_11_7_7_7_2 _ _ (by decide) (by decide)]; exact ext_full a
  have E2 : z.extractLsb' 0 7 = b := by rw [← Option.some.inj he, bits_11_7_7_7_3 _ _ (by decide) (by decide)]; exact ext_full b
  refine of_row hw F0 (by decide) ?_
  rw [decodeRow, F0]
  show decodeRow18 z = _
  rw [decodeRow18, F1, E0, E1, E2]
  rfl
theorem vshflUp (d : BitVec 7) (a : BitVec 7) (n : BitVec 7) : Statement (.vshflUp d a n) := by
  intro hw _ z he
  have F0 : fx z 26 6 = 24 := by rw [← Option.some.inj he, fx, bits_11_7_7_7_0 _ _ (by decide) (by decide)]; rfl
  have F1 : fx z 21 5 = 1 := by rw [← Option.some.inj he, fx, bits_11_7_7_7_0 _ _ (by decide) (by decide)]; rfl
  have E0 : z.extractLsb' 14 7 = d := by rw [← Option.some.inj he, bits_11_7_7_7_1 _ _ (by decide) (by decide)]; exact ext_full d
  have E1 : z.extractLsb' 7 7 = a := by rw [← Option.some.inj he, bits_11_7_7_7_2 _ _ (by decide) (by decide)]; exact ext_full a
  have E2 : z.extractLsb' 0 7 = n := by rw [← Option.some.inj he, bits_11_7_7_7_3 _ _ (by decide) (by decide)]; exact ext_full n
  refine of_row hw F0 (by decide) ?_
  rw [decodeRow, F0]
  show decodeRow18 z = _
  rw [decodeRow18, F1, E0, E1, E2]
  rfl
theorem vshflDown (d : BitVec 7) (a : BitVec 7) (n : BitVec 7) : Statement (.vshflDown d a n) := by
  intro hw _ z he
  have F0 : fx z 26 6 = 24 := by rw [← Option.some.inj he, fx, bits_11_7_7_7_0 _ _ (by decide) (by decide)]; rfl
  have F1 : fx z 21 5 = 2 := by rw [← Option.some.inj he, fx, bits_11_7_7_7_0 _ _ (by decide) (by decide)]; rfl
  have E0 : z.extractLsb' 14 7 = d := by rw [← Option.some.inj he, bits_11_7_7_7_1 _ _ (by decide) (by decide)]; exact ext_full d
  have E1 : z.extractLsb' 7 7 = a := by rw [← Option.some.inj he, bits_11_7_7_7_2 _ _ (by decide) (by decide)]; exact ext_full a
  have E2 : z.extractLsb' 0 7 = n := by rw [← Option.some.inj he, bits_11_7_7_7_3 _ _ (by decide) (by decide)]; exact ext_full n
  refine of_row hw F0 (by decide) ?_
  rw [decodeRow, F0]
  show decodeRow18 z = _
  rw [decodeRow18, F1, E0, E1, E2]
  rfl
theorem vshflXor (d : BitVec 7) (a : BitVec 7) (n : BitVec 7) : Statement (.vshflXor d a n) := by
  intro hw _ z he
  have F0 : fx z 26 6 = 24 := by rw [← Option.some.inj he, fx, bits_11_7_7_7_0 _ _ (by decide) (by decide)]; rfl
  have F1 : fx z 21 5 = 3 := by rw [← Option.some.inj he, fx, bits_11_7_7_7_0 _ _ (by decide) (by decide)]; rfl
  have E0 : z.extractLsb' 14 7 = d := by rw [← Option.some.inj he, bits_11_7_7_7_1 _ _ (by decide) (by decide)]; exact ext_full d
  have E1 : z.extractLsb' 7 7 = a := by rw [← Option.some.inj he, bits_11_7_7_7_2 _ _ (by decide) (by decide)]; exact ext_full a
  have E2 : z.extractLsb' 0 7 = n := by rw [← Option.some.inj he, bits_11_7_7_7_3 _ _ (by decide) (by decide)]; exact ext_full n
  refine of_row hw F0 (by decide) ?_
  rw [decodeRow, F0]
  show decodeRow18 z = _
  rw [decodeRow18, F1, E0, E1, E2]
  rfl
theorem vbcast (d : BitVec 7) (a : BitVec 7) (j : BitVec 7) : Statement (.vbcast d a j) := by
  intro hw _ z he
  have F0 : fx z 26 6 = 24 := by rw [← Option.some.inj he, fx, bits_11_7_7_7_0 _ _ (by decide) (by decide)]; rfl
  have F1 : fx z 21 5 = 4 := by rw [← Option.some.inj he, fx, bits_11_7_7_7_0 _ _ (by decide) (by decide)]; rfl
  have E0 : z.extractLsb' 14 7 = d := by rw [← Option.some.inj he, bits_11_7_7_7_1 _ _ (by decide) (by decide)]; exact ext_full d
  have E1 : z.extractLsb' 7 7 = a := by rw [← Option.some.inj he, bits_11_7_7_7_2 _ _ (by decide) (by decide)]; exact ext_full a
  have E2 : z.extractLsb' 0 7 = j := by rw [← Option.some.inj he, bits_11_7_7_7_3 _ _ (by decide) (by decide)]; exact ext_full j
  refine of_row hw F0 (by decide) ?_
  rw [decodeRow, F0]
  show decodeRow18 z = _
  rw [decodeRow18, F1, E0, E1, E2]
  rfl
theorem vsome (d : BitVec 3) (a : BitVec 4) : Statement (.vsome d a) := by
  intro hw _ z he
  have F0 : fx z 26 6 = 25 := by rw [← Option.some.inj he, fx, bits_15_3_3_4_7_0 _ _ (by decide) (by decide)]; rfl
  have F1 : fx z 17 9 = 0 := by rw [← Option.some.inj he, fx, bits_15_3_3_4_7_0 _ _ (by decide) (by decide)]; rfl
  have F2 : fx z 11 3 = 0 := by rw [← Option.some.inj he, fx, bits_15_3_3_4_7_2 _ _ (by decide) (by decide)]; rfl
  have F3 : fx z 0 7 = 0 := by rw [← Option.some.inj he, fx, bits_15_3_3_4_7_4 _ _ (by decide) (by decide)]; rfl
  have E0 : z.extractLsb' 14 3 = d := by rw [← Option.some.inj he, bits_15_3_3_4_7_1 _ _ (by decide) (by decide)]; exact ext_full d
  have E1 : z.extractLsb' 7 4 = a := by rw [← Option.some.inj he, bits_15_3_3_4_7_3 _ _ (by decide) (by decide)]; exact ext_full a
  refine of_row hw F0 (by decide) ?_
  rw [decodeRow, F0]
  show decodeRow19 z = _
  rw [decodeRow19, F1, F2, F3, E0, E1]
  rfl
theorem vevery (d : BitVec 3) (a : BitVec 4) : Statement (.vevery d a) := by
  intro hw _ z he
  have F0 : fx z 26 6 = 25 := by rw [← Option.some.inj he, fx, bits_15_3_3_4_7_0 _ _ (by decide) (by decide)]; rfl
  have F1 : fx z 17 9 = 16 := by rw [← Option.some.inj he, fx, bits_15_3_3_4_7_0 _ _ (by decide) (by decide)]; rfl
  have F2 : fx z 11 3 = 0 := by rw [← Option.some.inj he, fx, bits_15_3_3_4_7_2 _ _ (by decide) (by decide)]; rfl
  have F3 : fx z 0 7 = 0 := by rw [← Option.some.inj he, fx, bits_15_3_3_4_7_4 _ _ (by decide) (by decide)]; rfl
  have E0 : z.extractLsb' 14 3 = d := by rw [← Option.some.inj he, bits_15_3_3_4_7_1 _ _ (by decide) (by decide)]; exact ext_full d
  have E1 : z.extractLsb' 7 4 = a := by rw [← Option.some.inj he, bits_15_3_3_4_7_3 _ _ (by decide) (by decide)]; exact ext_full a
  refine of_row hw F0 (by decide) ?_
  rw [decodeRow, F0]
  show decodeRow19 z = _
  rw [decodeRow19, F1, F2, F3, E0, E1]
  rfl
theorem vbits (d : BitVec 7) (a : BitVec 4) : Statement (.vbits d a) := by
  intro hw _ z he
  have F0 : fx z 26 6 = 25 := by rw [← Option.some.inj he, fx, bits_11_7_3_4_7_0 _ _ (by decide) (by decide)]; rfl
  have F1 : fx z 21 5 = 2 := by rw [← Option.some.inj he, fx, bits_11_7_3_4_7_0 _ _ (by decide) (by decide)]; rfl
  have F2 : fx z 11 3 = 0 := by rw [← Option.some.inj he, fx, bits_11_7_3_4_7_2 _ _ (by decide) (by decide)]; rfl
  have F3 : fx z 0 7 = 0 := by rw [← Option.some.inj he, fx, bits_11_7_3_4_7_4 _ _ (by decide) (by decide)]; rfl
  have E0 : z.extractLsb' 14 7 = d := by rw [← Option.some.inj he, bits_11_7_3_4_7_1 _ _ (by decide) (by decide)]; exact ext_full d
  have E1 : z.extractLsb' 7 4 = a := by rw [← Option.some.inj he, bits_11_7_3_4_7_3 _ _ (by decide) (by decide)]; exact ext_full a
  have N0 : (fx z 17 9 == 0) = false := sub_ne F1 (by decide) (by decide) (by decide)
  have N1 : (fx z 17 9 == 16) = false := sub_ne F1 (by decide) (by decide) (by decide)
  refine of_row hw F0 (by decide) ?_
  rw [decodeRow, F0]
  show decodeRow19 z = _
  rw [decodeRow19, N0, N1, F1, F2, F3, E0, E1]
  rfl
theorem vredAddS32 (d : BitVec 7) (a : BitVec 7) : Statement (.vredAddS32 d a) := by
  intro hw _ z he
  have F0 : fx z 26 6 = 25 := by rw [← Option.some.inj he, fx, bits_11_7_7_7_0 _ _ (by decide) (by decide)]; rfl
  have F1 : fx z 21 5 = 3 := by rw [← Option.some.inj he, fx, bits_11_7_7_7_0 _ _ (by decide) (by decide)]; rfl
  have F2 : fx z 0 7 = 0 := by rw [← Option.some.inj he, fx, bits_11_7_7_7_3 _ _ (by decide) (by decide)]; rfl
  have E0 : z.extractLsb' 14 7 = d := by rw [← Option.some.inj he, bits_11_7_7_7_1 _ _ (by decide) (by decide)]; exact ext_full d
  have E1 : z.extractLsb' 7 7 = a := by rw [← Option.some.inj he, bits_11_7_7_7_2 _ _ (by decide) (by decide)]; exact ext_full a
  have N0 : (fx z 17 9 == 0) = false := sub_ne F1 (by decide) (by decide) (by decide)
  have N1 : (fx z 17 9 == 16) = false := sub_ne F1 (by decide) (by decide) (by decide)
  refine of_row hw F0 (by decide) ?_
  rw [decodeRow, F0]
  show decodeRow19 z = _
  rw [decodeRow19, N0, N1, F1, F2, E0, E1]
  rfl
theorem vredMinS32 (d : BitVec 7) (a : BitVec 7) : Statement (.vredMinS32 d a) := by
  intro hw _ z he
  have F0 : fx z 26 6 = 25 := by rw [← Option.some.inj he, fx, bits_11_7_7_7_0 _ _ (by decide) (by decide)]; rfl
  have F1 : fx z 21 5 = 4 := by rw [← Option.some.inj he, fx, bits_11_7_7_7_0 _ _ (by decide) (by decide)]; rfl
  have F2 : fx z 0 7 = 0 := by rw [← Option.some.inj he, fx, bits_11_7_7_7_3 _ _ (by decide) (by decide)]; rfl
  have E0 : z.extractLsb' 14 7 = d := by rw [← Option.some.inj he, bits_11_7_7_7_1 _ _ (by decide) (by decide)]; exact ext_full d
  have E1 : z.extractLsb' 7 7 = a := by rw [← Option.some.inj he, bits_11_7_7_7_2 _ _ (by decide) (by decide)]; exact ext_full a
  have N0 : (fx z 17 9 == 0) = false := sub_ne F1 (by decide) (by decide) (by decide)
  have N1 : (fx z 17 9 == 16) = false := sub_ne F1 (by decide) (by decide) (by decide)
  refine of_row hw F0 (by decide) ?_
  rw [decodeRow, F0]
  show decodeRow19 z = _
  rw [decodeRow19, N0, N1, F1, F2, E0, E1]
  rfl
theorem vredMaxS32 (d : BitVec 7) (a : BitVec 7) : Statement (.vredMaxS32 d a) := by
  intro hw _ z he
  have F0 : fx z 26 6 = 25 := by rw [← Option.some.inj he, fx, bits_11_7_7_7_0 _ _ (by decide) (by decide)]; rfl
  have F1 : fx z 21 5 = 5 := by rw [← Option.some.inj he, fx, bits_11_7_7_7_0 _ _ (by decide) (by decide)]; rfl
  have F2 : fx z 0 7 = 0 := by rw [← Option.some.inj he, fx, bits_11_7_7_7_3 _ _ (by decide) (by decide)]; rfl
  have E0 : z.extractLsb' 14 7 = d := by rw [← Option.some.inj he, bits_11_7_7_7_1 _ _ (by decide) (by decide)]; exact ext_full d
  have E1 : z.extractLsb' 7 7 = a := by rw [← Option.some.inj he, bits_11_7_7_7_2 _ _ (by decide) (by decide)]; exact ext_full a
  have N0 : (fx z 17 9 == 0) = false := sub_ne F1 (by decide) (by decide) (by decide)
  have N1 : (fx z 17 9 == 16) = false := sub_ne F1 (by decide) (by decide) (by decide)
  refine of_row hw F0 (by decide) ?_
  rw [decodeRow, F0]
  show decodeRow19 z = _
  rw [decodeRow19, N0, N1, F1, F2, E0, E1]
  rfl
theorem vredAddF32 (d : BitVec 7) (a : BitVec 7) : Statement (.vredAddF32 d a) := by
  intro hw _ z he
  have F0 : fx z 26 6 = 25 := by rw [← Option.some.inj he, fx, bits_11_7_7_7_0 _ _ (by decide) (by decide)]; rfl
  have F1 : fx z 21 5 = 6 := by rw [← Option.some.inj he, fx, bits_11_7_7_7_0 _ _ (by decide) (by decide)]; rfl
  have F2 : fx z 0 7 = 0 := by rw [← Option.some.inj he, fx, bits_11_7_7_7_3 _ _ (by decide) (by decide)]; rfl
  have E0 : z.extractLsb' 14 7 = d := by rw [← Option.some.inj he, bits_11_7_7_7_1 _ _ (by decide) (by decide)]; exact ext_full d
  have E1 : z.extractLsb' 7 7 = a := by rw [← Option.some.inj he, bits_11_7_7_7_2 _ _ (by decide) (by decide)]; exact ext_full a
  have N0 : (fx z 17 9 == 0) = false := sub_ne F1 (by decide) (by decide) (by decide)
  have N1 : (fx z 17 9 == 16) = false := sub_ne F1 (by decide) (by decide) (by decide)
  refine of_row hw F0 (by decide) ?_
  rw [decodeRow, F0]
  show decodeRow19 z = _
  rw [decodeRow19, N0, N1, F1, F2, E0, E1]
  rfl
theorem vredMinF32 (d : BitVec 7) (a : BitVec 7) : Statement (.vredMinF32 d a) := by
  intro hw _ z he
  have F0 : fx z 26 6 = 25 := by rw [← Option.some.inj he, fx, bits_11_7_7_7_0 _ _ (by decide) (by decide)]; rfl
  have F1 : fx z 21 5 = 7 := by rw [← Option.some.inj he, fx, bits_11_7_7_7_0 _ _ (by decide) (by decide)]; rfl
  have F2 : fx z 0 7 = 0 := by rw [← Option.some.inj he, fx, bits_11_7_7_7_3 _ _ (by decide) (by decide)]; rfl
  have E0 : z.extractLsb' 14 7 = d := by rw [← Option.some.inj he, bits_11_7_7_7_1 _ _ (by decide) (by decide)]; exact ext_full d
  have E1 : z.extractLsb' 7 7 = a := by rw [← Option.some.inj he, bits_11_7_7_7_2 _ _ (by decide) (by decide)]; exact ext_full a
  have N0 : (fx z 17 9 == 0) = false := sub_ne F1 (by decide) (by decide) (by decide)
  have N1 : (fx z 17 9 == 16) = false := sub_ne F1 (by decide) (by decide) (by decide)
  refine of_row hw F0 (by decide) ?_
  rw [decodeRow, F0]
  show decodeRow19 z = _
  rw [decodeRow19, N0, N1, F1, F2, E0, E1]
  rfl
theorem vredMaxF32 (d : BitVec 7) (a : BitVec 7) : Statement (.vredMaxF32 d a) := by
  intro hw _ z he
  have F0 : fx z 26 6 = 25 := by rw [← Option.some.inj he, fx, bits_11_7_7_7_0 _ _ (by decide) (by decide)]; rfl
  have F1 : fx z 21 5 = 8 := by rw [← Option.some.inj he, fx, bits_11_7_7_7_0 _ _ (by decide) (by decide)]; rfl
  have F2 : fx z 0 7 = 0 := by rw [← Option.some.inj he, fx, bits_11_7_7_7_3 _ _ (by decide) (by decide)]; rfl
  have E0 : z.extractLsb' 14 7 = d := by rw [← Option.some.inj he, bits_11_7_7_7_1 _ _ (by decide) (by decide)]; exact ext_full d
  have E1 : z.extractLsb' 7 7 = a := by rw [← Option.some.inj he, bits_11_7_7_7_2 _ _ (by decide) (by decide)]; exact ext_full a
  have N0 : (fx z 17 9 == 0) = false := sub_ne F1 (by decide) (by decide) (by decide)
  have N1 : (fx z 17 9 == 16) = false := sub_ne F1 (by decide) (by decide) (by decide)
  refine of_row hw F0 (by decide) ?_
  rw [decodeRow, F0]
  show decodeRow19 z = _
  rw [decodeRow19, N0, N1, F1, F2, E0, E1]
  rfl
theorem vscanAddS32 (d : BitVec 7) (a : BitVec 7) : Statement (.vscanAddS32 d a) := by
  intro hw _ z he
  have F0 : fx z 26 6 = 25 := by rw [← Option.some.inj he, fx, bits_11_7_7_7_0 _ _ (by decide) (by decide)]; rfl
  have F1 : fx z 21 5 = 9 := by rw [← Option.some.inj he, fx, bits_11_7_7_7_0 _ _ (by decide) (by decide)]; rfl
  have F2 : fx z 0 7 = 0 := by rw [← Option.some.inj he, fx, bits_11_7_7_7_3 _ _ (by decide) (by decide)]; rfl
  have E0 : z.extractLsb' 14 7 = d := by rw [← Option.some.inj he, bits_11_7_7_7_1 _ _ (by decide) (by decide)]; exact ext_full d
  have E1 : z.extractLsb' 7 7 = a := by rw [← Option.some.inj he, bits_11_7_7_7_2 _ _ (by decide) (by decide)]; exact ext_full a
  have N0 : (fx z 17 9 == 0) = false := sub_ne F1 (by decide) (by decide) (by decide)
  have N1 : (fx z 17 9 == 16) = false := sub_ne F1 (by decide) (by decide) (by decide)
  refine of_row hw F0 (by decide) ?_
  rw [decodeRow, F0]
  show decodeRow19 z = _
  rw [decodeRow19, N0, N1, F1, F2, E0, E1]
  rfl
theorem vscanxAddS32 (d : BitVec 7) (a : BitVec 7) : Statement (.vscanxAddS32 d a) := by
  intro hw _ z he
  have F0 : fx z 26 6 = 25 := by rw [← Option.some.inj he, fx, bits_11_7_7_7_0 _ _ (by decide) (by decide)]; rfl
  have F1 : fx z 21 5 = 10 := by rw [← Option.some.inj he, fx, bits_11_7_7_7_0 _ _ (by decide) (by decide)]; rfl
  have F2 : fx z 0 7 = 0 := by rw [← Option.some.inj he, fx, bits_11_7_7_7_3 _ _ (by decide) (by decide)]; rfl
  have E0 : z.extractLsb' 14 7 = d := by rw [← Option.some.inj he, bits_11_7_7_7_1 _ _ (by decide) (by decide)]; exact ext_full d
  have E1 : z.extractLsb' 7 7 = a := by rw [← Option.some.inj he, bits_11_7_7_7_2 _ _ (by decide) (by decide)]; exact ext_full a
  have N0 : (fx z 17 9 == 0) = false := sub_ne F1 (by decide) (by decide) (by decide)
  have N1 : (fx z 17 9 == 16) = false := sub_ne F1 (by decide) (by decide) (by decide)
  refine of_row hw F0 (by decide) ?_
  rw [decodeRow, F0]
  show decodeRow19 z = _
  rw [decodeRow19, N0, N1, F1, F2, E0, E1]
  rfl
theorem vscanAddF32 (d : BitVec 7) (a : BitVec 7) : Statement (.vscanAddF32 d a) := by
  intro hw _ z he
  have F0 : fx z 26 6 = 25 := by rw [← Option.some.inj he, fx, bits_11_7_7_7_0 _ _ (by decide) (by decide)]; rfl
  have F1 : fx z 21 5 = 11 := by rw [← Option.some.inj he, fx, bits_11_7_7_7_0 _ _ (by decide) (by decide)]; rfl
  have F2 : fx z 0 7 = 0 := by rw [← Option.some.inj he, fx, bits_11_7_7_7_3 _ _ (by decide) (by decide)]; rfl
  have E0 : z.extractLsb' 14 7 = d := by rw [← Option.some.inj he, bits_11_7_7_7_1 _ _ (by decide) (by decide)]; exact ext_full d
  have E1 : z.extractLsb' 7 7 = a := by rw [← Option.some.inj he, bits_11_7_7_7_2 _ _ (by decide) (by decide)]; exact ext_full a
  have N0 : (fx z 17 9 == 0) = false := sub_ne F1 (by decide) (by decide) (by decide)
  have N1 : (fx z 17 9 == 16) = false := sub_ne F1 (by decide) (by decide) (by decide)
  refine of_row hw F0 (by decide) ?_
  rw [decodeRow, F0]
  show decodeRow19 z = _
  rw [decodeRow19, N0, N1, F1, F2, E0, E1]
  rfl
theorem vredAnd (d : BitVec 7) (a : BitVec 7) : Statement (.vredAnd d a) := by
  intro hw _ z he
  have F0 : fx z 26 6 = 25 := by rw [← Option.some.inj he, fx, bits_11_7_7_7_0 _ _ (by decide) (by decide)]; rfl
  have F1 : fx z 21 5 = 12 := by rw [← Option.some.inj he, fx, bits_11_7_7_7_0 _ _ (by decide) (by decide)]; rfl
  have F2 : fx z 0 7 = 0 := by rw [← Option.some.inj he, fx, bits_11_7_7_7_3 _ _ (by decide) (by decide)]; rfl
  have E0 : z.extractLsb' 14 7 = d := by rw [← Option.some.inj he, bits_11_7_7_7_1 _ _ (by decide) (by decide)]; exact ext_full d
  have E1 : z.extractLsb' 7 7 = a := by rw [← Option.some.inj he, bits_11_7_7_7_2 _ _ (by decide) (by decide)]; exact ext_full a
  have N0 : (fx z 17 9 == 0) = false := sub_ne F1 (by decide) (by decide) (by decide)
  have N1 : (fx z 17 9 == 16) = false := sub_ne F1 (by decide) (by decide) (by decide)
  refine of_row hw F0 (by decide) ?_
  rw [decodeRow, F0]
  show decodeRow19 z = _
  rw [decodeRow19, N0, N1, F1, F2, E0, E1]
  rfl
theorem vredOr (d : BitVec 7) (a : BitVec 7) : Statement (.vredOr d a) := by
  intro hw _ z he
  have F0 : fx z 26 6 = 25 := by rw [← Option.some.inj he, fx, bits_11_7_7_7_0 _ _ (by decide) (by decide)]; rfl
  have F1 : fx z 21 5 = 13 := by rw [← Option.some.inj he, fx, bits_11_7_7_7_0 _ _ (by decide) (by decide)]; rfl
  have F2 : fx z 0 7 = 0 := by rw [← Option.some.inj he, fx, bits_11_7_7_7_3 _ _ (by decide) (by decide)]; rfl
  have E0 : z.extractLsb' 14 7 = d := by rw [← Option.some.inj he, bits_11_7_7_7_1 _ _ (by decide) (by decide)]; exact ext_full d
  have E1 : z.extractLsb' 7 7 = a := by rw [← Option.some.inj he, bits_11_7_7_7_2 _ _ (by decide) (by decide)]; exact ext_full a
  have N0 : (fx z 17 9 == 0) = false := sub_ne F1 (by decide) (by decide) (by decide)
  have N1 : (fx z 17 9 == 16) = false := sub_ne F1 (by decide) (by decide) (by decide)
  refine of_row hw F0 (by decide) ?_
  rw [decodeRow, F0]
  show decodeRow19 z = _
  rw [decodeRow19, N0, N1, F1, F2, E0, E1]
  rfl
theorem vredXor (d : BitVec 7) (a : BitVec 7) : Statement (.vredXor d a) := by
  intro hw _ z he
  have F0 : fx z 26 6 = 25 := by rw [← Option.some.inj he, fx, bits_11_7_7_7_0 _ _ (by decide) (by decide)]; rfl
  have F1 : fx z 21 5 = 14 := by rw [← Option.some.inj he, fx, bits_11_7_7_7_0 _ _ (by decide) (by decide)]; rfl
  have F2 : fx z 0 7 = 0 := by rw [← Option.some.inj he, fx, bits_11_7_7_7_3 _ _ (by decide) (by decide)]; rfl
  have E0 : z.extractLsb' 14 7 = d := by rw [← Option.some.inj he, bits_11_7_7_7_1 _ _ (by decide) (by decide)]; exact ext_full d
  have E1 : z.extractLsb' 7 7 = a := by rw [← Option.some.inj he, bits_11_7_7_7_2 _ _ (by decide) (by decide)]; exact ext_full a
  have N0 : (fx z 17 9 == 0) = false := sub_ne F1 (by decide) (by decide) (by decide)
  have N1 : (fx z 17 9 == 16) = false := sub_ne F1 (by decide) (by decide) (by decide)
  refine of_row hw F0 (by decide) ?_
  rw [decodeRow, F0]
  show decodeRow19 z = _
  rw [decodeRow19, N0, N1, F1, F2, E0, E1]
  rfl
theorem vmatch (d : BitVec 7) (a : BitVec 7) : Statement (.vmatch d a) := by
  intro hw _ z he
  have F0 : fx z 26 6 = 26 := by rw [← Option.some.inj he, fx, bits_11_7_7_7_0 _ _ (by decide) (by decide)]; rfl
  have F1 : fx z 21 5 = 0 := by rw [← Option.some.inj he, fx, bits_11_7_7_7_0 _ _ (by decide) (by decide)]; rfl
  have F2 : fx z 0 7 = 0 := by rw [← Option.some.inj he, fx, bits_11_7_7_7_3 _ _ (by decide) (by decide)]; rfl
  have E0 : z.extractLsb' 14 7 = d := by rw [← Option.some.inj he, bits_11_7_7_7_1 _ _ (by decide) (by decide)]; exact ext_full d
  have E1 : z.extractLsb' 7 7 = a := by rw [← Option.some.inj he, bits_11_7_7_7_2 _ _ (by decide) (by decide)]; exact ext_full a
  have N0 : (fx z 18 8 == 16) = false := sub_ne F1 (by decide) (by decide) (by decide)
  refine of_row hw F0 (by decide) ?_
  rw [decodeRow, F0]
  show decodeRow1A z = _
  rw [decodeRow1A, N0, F1, F2, E0, E1]
  rfl
theorem vrank (d : BitVec 7) (a : BitVec 7) : Statement (.vrank d a) := by
  intro hw _ z he
  have F0 : fx z 26 6 = 26 := by rw [← Option.some.inj he, fx, bits_11_7_7_7_0 _ _ (by decide) (by decide)]; rfl
  have F1 : fx z 21 5 = 1 := by rw [← Option.some.inj he, fx, bits_11_7_7_7_0 _ _ (by decide) (by decide)]; rfl
  have F2 : fx z 0 7 = 0 := by rw [← Option.some.inj he, fx, bits_11_7_7_7_3 _ _ (by decide) (by decide)]; rfl
  have E0 : z.extractLsb' 14 7 = d := by rw [← Option.some.inj he, bits_11_7_7_7_1 _ _ (by decide) (by decide)]; exact ext_full d
  have E1 : z.extractLsb' 7 7 = a := by rw [← Option.some.inj he, bits_11_7_7_7_2 _ _ (by decide) (by decide)]; exact ext_full a
  have N0 : (fx z 18 8 == 16) = false := sub_ne F1 (by decide) (by decide) (by decide)
  refine of_row hw F0 (by decide) ?_
  rw [decodeRow, F0]
  show decodeRow1A z = _
  rw [decodeRow1A, N0, F1, F2, E0, E1]
  rfl
theorem vlead (d : BitVec 4) (a : BitVec 7) : Statement (.vlead d a) := by
  intro hw _ z he
  have F0 : fx z 26 6 = 26 := by rw [← Option.some.inj he, fx, bits_14_4_7_7_0 _ _ (by decide) (by decide)]; rfl
  have F1 : fx z 18 8 = 16 := by rw [← Option.some.inj he, fx, bits_14_4_7_7_0 _ _ (by decide) (by decide)]; rfl
  have F2 : fx z 0 7 = 0 := by rw [← Option.some.inj he, fx, bits_14_4_7_7_3 _ _ (by decide) (by decide)]; rfl
  have E0 : z.extractLsb' 14 4 = d := by rw [← Option.some.inj he, bits_14_4_7_7_1 _ _ (by decide) (by decide)]; exact ext_full d
  have E1 : z.extractLsb' 7 7 = a := by rw [← Option.some.inj he, bits_14_4_7_7_2 _ _ (by decide) (by decide)]; exact ext_full a
  refine of_row hw F0 (by decide) ?_
  rw [decodeRow, F0]
  show decodeRow1A z = _
  rw [decodeRow1A, F1, F2, E0, E1]
  rfl
theorem visect (d : BitVec 7) (a : BitVec 7) (b : BitVec 7) : Statement (.visect d a b) := by
  intro hw _ z he
  have F0 : fx z 26 6 = 26 := by rw [← Option.some.inj he, fx, bits_11_7_7_7_0 _ _ (by decide) (by decide)]; rfl
  have F1 : fx z 21 5 = 3 := by rw [← Option.some.inj he, fx, bits_11_7_7_7_0 _ _ (by decide) (by decide)]; rfl
  have E0 : z.extractLsb' 14 7 = d := by rw [← Option.some.inj he, bits_11_7_7_7_1 _ _ (by decide) (by decide)]; exact ext_full d
  have E1 : z.extractLsb' 7 7 = a := by rw [← Option.some.inj he, bits_11_7_7_7_2 _ _ (by decide) (by decide)]; exact ext_full a
  have E2 : z.extractLsb' 0 7 = b := by rw [← Option.some.inj he, bits_11_7_7_7_3 _ _ (by decide) (by decide)]; exact ext_full b
  have N0 : (fx z 18 8 == 16) = false := sub_ne F1 (by decide) (by decide) (by decide)
  refine of_row hw F0 (by decide) ?_
  rw [decodeRow, F0]
  show decodeRow1A z = _
  rw [decodeRow1A, N0, F1, E0, E1, E2]
  rfl
theorem vtopk (d : BitVec 7) (a : BitVec 7) (s : BitVec 7) : Statement (.vtopk d a s) := by
  intro hw _ z he
  have F0 : fx z 26 6 = 26 := by rw [← Option.some.inj he, fx, bits_11_7_7_7_0 _ _ (by decide) (by decide)]; rfl
  have F1 : fx z 21 5 = 4 := by rw [← Option.some.inj he, fx, bits_11_7_7_7_0 _ _ (by decide) (by decide)]; rfl
  have E0 : z.extractLsb' 14 7 = d := by rw [← Option.some.inj he, bits_11_7_7_7_1 _ _ (by decide) (by decide)]; exact ext_full d
  have E1 : z.extractLsb' 7 7 = a := by rw [← Option.some.inj he, bits_11_7_7_7_2 _ _ (by decide) (by decide)]; exact ext_full a
  have E2 : z.extractLsb' 0 7 = s := by rw [← Option.some.inj he, bits_11_7_7_7_3 _ _ (by decide) (by decide)]; exact ext_full s
  have N0 : (fx z 18 8 == 16) = false := sub_ne F1 (by decide) (by decide) (by decide)
  refine of_row hw F0 (by decide) ?_
  rw [decodeRow, F0]
  show decodeRow1A z = _
  rw [decodeRow1A, N0, F1, E0, E1, E2]
  rfl
theorem vargmaxF32 (d : BitVec 7) (a : BitVec 7) : Statement (.vargmaxF32 d a) := by
  intro hw _ z he
  have F0 : fx z 26 6 = 26 := by rw [← Option.some.inj he, fx, bits_11_7_7_7_0 _ _ (by decide) (by decide)]; rfl
  have F1 : fx z 21 5 = 5 := by rw [← Option.some.inj he, fx, bits_11_7_7_7_0 _ _ (by decide) (by decide)]; rfl
  have F2 : fx z 0 7 = 0 := by rw [← Option.some.inj he, fx, bits_11_7_7_7_3 _ _ (by decide) (by decide)]; rfl
  have E0 : z.extractLsb' 14 7 = d := by rw [← Option.some.inj he, bits_11_7_7_7_1 _ _ (by decide) (by decide)]; exact ext_full d
  have E1 : z.extractLsb' 7 7 = a := by rw [← Option.some.inj he, bits_11_7_7_7_2 _ _ (by decide) (by decide)]; exact ext_full a
  have N0 : (fx z 18 8 == 16) = false := sub_ne F1 (by decide) (by decide) (by decide)
  refine of_row hw F0 (by decide) ?_
  rw [decodeRow, F0]
  show decodeRow1A z = _
  rw [decodeRow1A, N0, F1, F2, E0, E1]
  rfl
theorem vargmaxS32 (d : BitVec 7) (a : BitVec 7) : Statement (.vargmaxS32 d a) := by
  intro hw _ z he
  have F0 : fx z 26 6 = 26 := by rw [← Option.some.inj he, fx, bits_11_7_7_7_0 _ _ (by decide) (by decide)]; rfl
  have F1 : fx z 21 5 = 6 := by rw [← Option.some.inj he, fx, bits_11_7_7_7_0 _ _ (by decide) (by decide)]; rfl
  have F2 : fx z 0 7 = 0 := by rw [← Option.some.inj he, fx, bits_11_7_7_7_3 _ _ (by decide) (by decide)]; rfl
  have E0 : z.extractLsb' 14 7 = d := by rw [← Option.some.inj he, bits_11_7_7_7_1 _ _ (by decide) (by decide)]; exact ext_full d
  have E1 : z.extractLsb' 7 7 = a := by rw [← Option.some.inj he, bits_11_7_7_7_2 _ _ (by decide) (by decide)]; exact ext_full a
  have N0 : (fx z 18 8 == 16) = false := sub_ne F1 (by decide) (by decide) (by decide)
  refine of_row hw F0 (by decide) ?_
  rw [decodeRow, F0]
  show decodeRow1A z = _
  rw [decodeRow1A, N0, F1, F2, E0, E1]
  rfl
theorem vlid (d : BitVec 7) : Statement (.vlid d) := by
  intro hw _ z he
  have F0 : fx z 26 6 = 27 := by rw [← Option.some.inj he, fx, bits_11_7_14_0 _ _ (by decide) (by decide)]; rfl
  have F1 : fx z 21 5 = 0 := by rw [← Option.some.inj he, fx, bits_11_7_14_0 _ _ (by decide) (by decide)]; rfl
  have F2 : fx z 0 14 = 0 := by rw [← Option.some.inj he, fx, bits_11_7_14_2 _ _ (by decide) (by decide)]; rfl
  have E0 : z.extractLsb' 14 7 = d := by rw [← Option.some.inj he, bits_11_7_14_1 _ _ (by decide) (by decide)]; exact ext_full d
  refine of_row hw F0 (by decide) ?_
  rw [decodeRow, F0]
  show decodeRow1B z = _
  rw [decodeRow1B, F1, F2, E0]
  rfl
theorem vrnd (d : BitVec 7) (a : BitVec 7) : Statement (.vrnd d a) := by
  intro hw _ z he
  have F0 : fx z 26 6 = 27 := by rw [← Option.some.inj he, fx, bits_11_7_7_7_0 _ _ (by decide) (by decide)]; rfl
  have F1 : fx z 21 5 = 1 := by rw [← Option.some.inj he, fx, bits_11_7_7_7_0 _ _ (by decide) (by decide)]; rfl
  have F2 : fx z 0 7 = 0 := by rw [← Option.some.inj he, fx, bits_11_7_7_7_3 _ _ (by decide) (by decide)]; rfl
  have E0 : z.extractLsb' 14 7 = d := by rw [← Option.some.inj he, bits_11_7_7_7_1 _ _ (by decide) (by decide)]; exact ext_full d
  have E1 : z.extractLsb' 7 7 = a := by rw [← Option.some.inj he, bits_11_7_7_7_2 _ _ (by decide) (by decide)]; exact ext_full a
  refine of_row hw F0 (by decide) ?_
  rw [decodeRow, F0]
  show decodeRow1B z = _
  rw [decodeRow1B, F1, F2, E0, E1]
  rfl
theorem cbind (n : BitVec 7) : Statement (.cbind n) := by
  intro hw _ z he
  have F0 : fx z 26 6 = 32 := by rw [← Option.some.inj he, fx, bits_25_7_0 _ _ (by decide) (by decide)]; rfl
  have F1 : fx z 7 19 = 0 := by rw [← Option.some.inj he, fx, bits_25_7_0 _ _ (by decide) (by decide)]; rfl
  have F2 : fx z 18 8 = 0 := by rw [← Option.some.inj he, fx, bits_25_7_0 _ _ (by decide) (by decide)]; rfl
  have E0 : z.extractLsb' 0 7 = n := by rw [← Option.some.inj he, bits_25_7_1 _ _ (by decide) (by decide)]; exact ext_full n
  have N0 : (fx z 0 26 == 2097152) = false := sub_ne F1 (by decide) (by decide) (by decide)
  refine of_row hw F0 (by decide) ?_
  rw [decodeRow, F0]
  show decodeRow20 z = _
  rw [decodeRow20, N0, F2, F1, E0]
  rfl
theorem cunbind : Statement (.cunbind) := by
  intro _ _ w he
  obtain rfl := Option.some.inj he
  rfl
theorem cget (d : BitVec 7) : Statement (.cget d) := by
  intro hw _ z he
  have F0 : fx z 26 6 = 32 := by rw [← Option.some.inj he, fx, bits_11_7_14_0 _ _ (by decide) (by decide)]; rfl
  have F1 : fx z 21 5 = 2 := by rw [← Option.some.inj he, fx, bits_11_7_14_0 _ _ (by decide) (by decide)]; rfl
  have F2 : fx z 0 14 = 0 := by rw [← Option.some.inj he, fx, bits_11_7_14_2 _ _ (by decide) (by decide)]; rfl
  have E0 : z.extractLsb' 14 7 = d := by rw [← Option.some.inj he, bits_11_7_14_1 _ _ (by decide) (by decide)]; exact ext_full d
  have N0 : (fx z 0 26 == 2097152) = false := sub_ne F1 (by decide) (by decide) (by decide)
  have N1 : (fx z 7 19 == 0) = false := sub_ne F1 (by decide) (by decide) (by decide)
  refine of_row hw F0 (by decide) ?_
  rw [decodeRow, F0]
  show decodeRow20 z = _
  rw [decodeRow20, N0, N1, F2, F1, E0]
  simp
theorem cgetP (p : BitVec 4) : Statement (.cgetP p) := by
  intro hw _ z he
  have F0 : fx z 26 6 = 32 := by rw [← Option.some.inj he, fx, bits_14_4_14_0 _ _ (by decide) (by decide)]; rfl
  have F1 : fx z 0 14 = 128 := by rw [← Option.some.inj he, fx, bits_14_4_14_2 _ _ (by decide) (by decide)]; rfl
  have F2 : fx z 18 8 = 16 := by rw [← Option.some.inj he, fx, bits_14_4_14_0 _ _ (by decide) (by decide)]; rfl
  have E0 : z.extractLsb' 14 4 = p := by rw [← Option.some.inj he, bits_14_4_14_1 _ _ (by decide) (by decide)]; exact ext_full p
  have N0 : (fx z 0 26 == 2097152) = false := sub_ne F1 (by decide) (by decide) (by decide)
  refine of_row hw F0 (by decide) ?_
  rw [decodeRow, F0]
  show decodeRow20 z = _
  rw [decodeRow20, N0, F2, F1, E0]
  rfl
theorem cset (a : BitVec 7) : Statement (.cset a) := by
  intro hw _ z he
  have F0 : fx z 26 6 = 32 := by rw [← Option.some.inj he, fx, bits_18_7_7_0 _ _ (by decide) (by decide)]; rfl
  have F1 : fx z 14 12 = 384 := by rw [← Option.some.inj he, fx, bits_18_7_7_0 _ _ (by decide) (by decide)]; rfl
  have F2 : fx z 18 8 = 24 := by rw [← Option.some.inj he, fx, bits_18_7_7_0 _ _ (by decide) (by decide)]; rfl
  have F3 : fx z 21 5 = 3 := by rw [← Option.some.inj he, fx, bits_18_7_7_0 _ _ (by decide) (by decide)]; rfl
  have F4 : fx z 0 7 = 0 := by rw [← Option.some.inj he, fx, bits_18_7_7_2 _ _ (by decide) (by decide)]; rfl
  have E0 : z.extractLsb' 7 7 = a := by rw [← Option.some.inj he, bits_18_7_7_1 _ _ (by decide) (by decide)]; exact ext_full a
  have N0 : (fx z 0 26 == 2097152) = false := sub_ne F1 (by decide) (by decide) (by decide)
  have N1 : (fx z 7 19 == 0) = false := sub_ne F1 (by decide) (by decide) (by decide)
  refine of_row hw F0 (by decide) ?_
  rw [decodeRow, F0]
  show decodeRow20 z = _
  rw [decodeRow20, N0, N1, F2, F3, F1, F4, E0]
  rfl
theorem cadd (d : BitVec 7) (a : BitVec 7) (b : BitVec 7) : Statement (.cadd d a b) := by
  intro hw _ z he
  have F0 : fx z 26 6 = 33 := by rw [← Option.some.inj he, fx, bits_11_7_7_7_0 _ _ (by decide) (by decide)]; rfl
  have F1 : fx z 21 5 = 0 := by rw [← Option.some.inj he, fx, bits_11_7_7_7_0 _ _ (by decide) (by decide)]; rfl
  have E0 : z.extractLsb' 14 7 = d := by rw [← Option.some.inj he, bits_11_7_7_7_1 _ _ (by decide) (by decide)]; exact ext_full d
  have E1 : z.extractLsb' 7 7 = a := by rw [← Option.some.inj he, bits_11_7_7_7_2 _ _ (by decide) (by decide)]; exact ext_full a
  have E2 : z.extractLsb' 0 7 = b := by rw [← Option.some.inj he, bits_11_7_7_7_3 _ _ (by decide) (by decide)]; exact ext_full b
  refine of_row hw F0 (by decide) ?_
  rw [decodeRow, F0]
  show decodeRow21 z = _
  rw [decodeRow21, F1, E0, E1, E2]
  rfl
theorem cadc (d : BitVec 7) (a : BitVec 7) (b : BitVec 7) : Statement (.cadc d a b) := by
  intro hw _ z he
  have F0 : fx z 26 6 = 33 := by rw [← Option.some.inj he, fx, bits_11_7_7_7_0 _ _ (by decide) (by decide)]; rfl
  have F1 : fx z 21 5 = 1 := by rw [← Option.some.inj he, fx, bits_11_7_7_7_0 _ _ (by decide) (by decide)]; rfl
  have E0 : z.extractLsb' 14 7 = d := by rw [← Option.some.inj he, bits_11_7_7_7_1 _ _ (by decide) (by decide)]; exact ext_full d
  have E1 : z.extractLsb' 7 7 = a := by rw [← Option.some.inj he, bits_11_7_7_7_2 _ _ (by decide) (by decide)]; exact ext_full a
  have E2 : z.extractLsb' 0 7 = b := by rw [← Option.some.inj he, bits_11_7_7_7_3 _ _ (by decide) (by decide)]; exact ext_full b
  refine of_row hw F0 (by decide) ?_
  rw [decodeRow, F0]
  show decodeRow21 z = _
  rw [decodeRow21, F1, E0, E1, E2]
  rfl
theorem csub (d : BitVec 7) (a : BitVec 7) (b : BitVec 7) : Statement (.csub d a b) := by
  intro hw _ z he
  have F0 : fx z 26 6 = 33 := by rw [← Option.some.inj he, fx, bits_11_7_7_7_0 _ _ (by decide) (by decide)]; rfl
  have F1 : fx z 21 5 = 2 := by rw [← Option.some.inj he, fx, bits_11_7_7_7_0 _ _ (by decide) (by decide)]; rfl
  have E0 : z.extractLsb' 14 7 = d := by rw [← Option.some.inj he, bits_11_7_7_7_1 _ _ (by decide) (by decide)]; exact ext_full d
  have E1 : z.extractLsb' 7 7 = a := by rw [← Option.some.inj he, bits_11_7_7_7_2 _ _ (by decide) (by decide)]; exact ext_full a
  have E2 : z.extractLsb' 0 7 = b := by rw [← Option.some.inj he, bits_11_7_7_7_3 _ _ (by decide) (by decide)]; exact ext_full b
  refine of_row hw F0 (by decide) ?_
  rw [decodeRow, F0]
  show decodeRow21 z = _
  rw [decodeRow21, F1, E0, E1, E2]
  rfl
theorem csbb (d : BitVec 7) (a : BitVec 7) (b : BitVec 7) : Statement (.csbb d a b) := by
  intro hw _ z he
  have F0 : fx z 26 6 = 33 := by rw [← Option.some.inj he, fx, bits_11_7_7_7_0 _ _ (by decide) (by decide)]; rfl
  have F1 : fx z 21 5 = 3 := by rw [← Option.some.inj he, fx, bits_11_7_7_7_0 _ _ (by decide) (by decide)]; rfl
  have E0 : z.extractLsb' 14 7 = d := by rw [← Option.some.inj he, bits_11_7_7_7_1 _ _ (by decide) (by decide)]; exact ext_full d
  have E1 : z.extractLsb' 7 7 = a := by rw [← Option.some.inj he, bits_11_7_7_7_2 _ _ (by decide) (by decide)]; exact ext_full a
  have E2 : z.extractLsb' 0 7 = b := by rw [← Option.some.inj he, bits_11_7_7_7_3 _ _ (by decide) (by decide)]; exact ext_full b
  refine of_row hw F0 (by decide) ?_
  rw [decodeRow, F0]
  show decodeRow21 z = _
  rw [decodeRow21, F1, E0, E1, E2]
  rfl
theorem caddSat (d : BitVec 7) (a : BitVec 7) (b : BitVec 7) : Statement (.caddSat d a b) := by
  intro hw _ z he
  have F0 : fx z 26 6 = 33 := by rw [← Option.some.inj he, fx, bits_11_7_7_7_0 _ _ (by decide) (by decide)]; rfl
  have F1 : fx z 21 5 = 4 := by rw [← Option.some.inj he, fx, bits_11_7_7_7_0 _ _ (by decide) (by decide)]; rfl
  have E0 : z.extractLsb' 14 7 = d := by rw [← Option.some.inj he, bits_11_7_7_7_1 _ _ (by decide) (by decide)]; exact ext_full d
  have E1 : z.extractLsb' 7 7 = a := by rw [← Option.some.inj he, bits_11_7_7_7_2 _ _ (by decide) (by decide)]; exact ext_full a
  have E2 : z.extractLsb' 0 7 = b := by rw [← Option.some.inj he, bits_11_7_7_7_3 _ _ (by decide) (by decide)]; exact ext_full b
  refine of_row hw F0 (by decide) ?_
  rw [decodeRow, F0]
  show decodeRow21 z = _
  rw [decodeRow21, F1, E0, E1, E2]
  rfl
theorem cadcSat (d : BitVec 7) (a : BitVec 7) (b : BitVec 7) : Statement (.cadcSat d a b) := by
  intro hw _ z he
  have F0 : fx z 26 6 = 33 := by rw [← Option.some.inj he, fx, bits_11_7_7_7_0 _ _ (by decide) (by decide)]; rfl
  have F1 : fx z 21 5 = 5 := by rw [← Option.some.inj he, fx, bits_11_7_7_7_0 _ _ (by decide) (by decide)]; rfl
  have E0 : z.extractLsb' 14 7 = d := by rw [← Option.some.inj he, bits_11_7_7_7_1 _ _ (by decide) (by decide)]; exact ext_full d
  have E1 : z.extractLsb' 7 7 = a := by rw [← Option.some.inj he, bits_11_7_7_7_2 _ _ (by decide) (by decide)]; exact ext_full a
  have E2 : z.extractLsb' 0 7 = b := by rw [← Option.some.inj he, bits_11_7_7_7_3 _ _ (by decide) (by decide)]; exact ext_full b
  refine of_row hw F0 (by decide) ?_
  rw [decodeRow, F0]
  show decodeRow21 z = _
  rw [decodeRow21, F1, E0, E1, E2]
  rfl
theorem csubSat (d : BitVec 7) (a : BitVec 7) (b : BitVec 7) : Statement (.csubSat d a b) := by
  intro hw _ z he
  have F0 : fx z 26 6 = 33 := by rw [← Option.some.inj he, fx, bits_11_7_7_7_0 _ _ (by decide) (by decide)]; rfl
  have F1 : fx z 21 5 = 6 := by rw [← Option.some.inj he, fx, bits_11_7_7_7_0 _ _ (by decide) (by decide)]; rfl
  have E0 : z.extractLsb' 14 7 = d := by rw [← Option.some.inj he, bits_11_7_7_7_1 _ _ (by decide) (by decide)]; exact ext_full d
  have E1 : z.extractLsb' 7 7 = a := by rw [← Option.some.inj he, bits_11_7_7_7_2 _ _ (by decide) (by decide)]; exact ext_full a
  have E2 : z.extractLsb' 0 7 = b := by rw [← Option.some.inj he, bits_11_7_7_7_3 _ _ (by decide) (by decide)]; exact ext_full b
  refine of_row hw F0 (by decide) ?_
  rw [decodeRow, F0]
  show decodeRow21 z = _
  rw [decodeRow21, F1, E0, E1, E2]
  rfl
theorem csbbSat (d : BitVec 7) (a : BitVec 7) (b : BitVec 7) : Statement (.csbbSat d a b) := by
  intro hw _ z he
  have F0 : fx z 26 6 = 33 := by rw [← Option.some.inj he, fx, bits_11_7_7_7_0 _ _ (by decide) (by decide)]; rfl
  have F1 : fx z 21 5 = 7 := by rw [← Option.some.inj he, fx, bits_11_7_7_7_0 _ _ (by decide) (by decide)]; rfl
  have E0 : z.extractLsb' 14 7 = d := by rw [← Option.some.inj he, bits_11_7_7_7_1 _ _ (by decide) (by decide)]; exact ext_full d
  have E1 : z.extractLsb' 7 7 = a := by rw [← Option.some.inj he, bits_11_7_7_7_2 _ _ (by decide) (by decide)]; exact ext_full a
  have E2 : z.extractLsb' 0 7 = b := by rw [← Option.some.inj he, bits_11_7_7_7_3 _ _ (by decide) (by decide)]; exact ext_full b
  refine of_row hw F0 (by decide) ?_
  rw [decodeRow, F0]
  show decodeRow21 z = _
  rw [decodeRow21, F1, E0, E1, E2]
  rfl
theorem ccmp (c : BitVec 5) (p : BitVec 4) (a : BitVec 7) (b : BitVec 7) : Statement (.ccmp c p a b) := by
  intro hw _ z he
  have F0 : fx z 26 6 = 33 := by rw [← Option.some.inj he, fx, bits_6_5_3_4_7_7_0 _ _ (by decide) (by decide)]; rfl
  have F1 : fx z 21 5 = c.toNat := by rw [← Option.some.inj he, fx, bits_6_5_3_4_7_7_1 _ _ (by decide) (by decide)]; exact congrArg BitVec.toNat (ext_full c)
  have F2 : fx z 18 3 = 0 := by rw [← Option.some.inj he, fx, bits_6_5_3_4_7_7_2 _ _ (by decide) (by decide)]; rfl
  have E0 : z.extractLsb' 21 5 = c := by rw [← Option.some.inj he, bits_6_5_3_4_7_7_1 _ _ (by decide) (by decide)]; exact ext_full c
  have E1 : z.extractLsb' 14 4 = p := by rw [← Option.some.inj he, bits_6_5_3_4_7_7_3 _ _ (by decide) (by decide)]; exact ext_full p
  have E2 : z.extractLsb' 7 7 = a := by rw [← Option.some.inj he, bits_6_5_3_4_7_7_4 _ _ (by decide) (by decide)]; exact ext_full a
  have E3 : z.extractLsb' 0 7 = b := by rw [← Option.some.inj he, bits_6_5_3_4_7_7_5 _ _ (by decide) (by decide)]; exact ext_full b
  have q := hw
  simp only [Instr.wf, even, predOk, Bool.and_eq_true, decide_eq_true_eq, beq_iff_eq, bne_iff_ne] at q
  have N0 : (fx z 21 5 == 0) = false := sub_ne F1 (by decide) (by decide) (by omega)
  have N1 : (fx z 21 5 == 1) = false := sub_ne F1 (by decide) (by decide) (by omega)
  have N2 : (fx z 21 5 == 2) = false := sub_ne F1 (by decide) (by decide) (by omega)
  have N3 : (fx z 21 5 == 3) = false := sub_ne F1 (by decide) (by decide) (by omega)
  have N4 : (fx z 21 5 == 4) = false := sub_ne F1 (by decide) (by decide) (by omega)
  have N5 : (fx z 21 5 == 5) = false := sub_ne F1 (by decide) (by decide) (by omega)
  have N6 : (fx z 21 5 == 6) = false := sub_ne F1 (by decide) (by decide) (by omega)
  have N7 : (fx z 21 5 == 7) = false := sub_ne F1 (by decide) (by decide) (by omega)
  refine of_row hw F0 (by decide) ?_
  rw [decodeRow, F0]
  show decodeRow21 z = _
  rw [decodeRow21, N0, N1, N2, N3, N4, N5, N6, N7, F2, E0, E1, E2, E3]
  rfl
theorem cshl (d : BitVec 7) (a : BitVec 7) (s : BitVec 7) : Statement (.cshl d a s) := by
  intro hw _ z he
  have F0 : fx z 26 6 = 34 := by rw [← Option.some.inj he, fx, bits_11_7_7_7_0 _ _ (by decide) (by decide)]; rfl
  have F1 : fx z 21 5 = 0 := by rw [← Option.some.inj he, fx, bits_11_7_7_7_0 _ _ (by decide) (by decide)]; rfl
  have E0 : z.extractLsb' 14 7 = d := by rw [← Option.some.inj he, bits_11_7_7_7_1 _ _ (by decide) (by decide)]; exact ext_full d
  have E1 : z.extractLsb' 7 7 = a := by rw [← Option.some.inj he, bits_11_7_7_7_2 _ _ (by decide) (by decide)]; exact ext_full a
  have E2 : z.extractLsb' 0 7 = s := by rw [← Option.some.inj he, bits_11_7_7_7_3 _ _ (by decide) (by decide)]; exact ext_full s
  refine of_row hw F0 (by decide) ?_
  rw [decodeRow, F0]
  show decodeRow22 z = _
  rw [decodeRow22, F1, E0, E1, E2]
  rfl
theorem cshr (d : BitVec 7) (a : BitVec 7) (s : BitVec 7) : Statement (.cshr d a s) := by
  intro hw _ z he
  have F0 : fx z 26 6 = 34 := by rw [← Option.some.inj he, fx, bits_11_7_7_7_0 _ _ (by decide) (by decide)]; rfl
  have F1 : fx z 21 5 = 1 := by rw [← Option.some.inj he, fx, bits_11_7_7_7_0 _ _ (by decide) (by decide)]; rfl
  have E0 : z.extractLsb' 14 7 = d := by rw [← Option.some.inj he, bits_11_7_7_7_1 _ _ (by decide) (by decide)]; exact ext_full d
  have E1 : z.extractLsb' 7 7 = a := by rw [← Option.some.inj he, bits_11_7_7_7_2 _ _ (by decide) (by decide)]; exact ext_full a
  have E2 : z.extractLsb' 0 7 = s := by rw [← Option.some.inj he, bits_11_7_7_7_3 _ _ (by decide) (by decide)]; exact ext_full s
  refine of_row hw F0 (by decide) ?_
  rw [decodeRow, F0]
  show decodeRow22 z = _
  rw [decodeRow22, F1, E0, E1, E2]
  rfl
theorem cshlw (d : BitVec 7) (a : BitVec 7) (s : BitVec 7) : Statement (.cshlw d a s) := by
  intro hw _ z he
  have F0 : fx z 26 6 = 34 := by rw [← Option.some.inj he, fx, bits_11_7_7_7_0 _ _ (by decide) (by decide)]; rfl
  have F1 : fx z 21 5 = 2 := by rw [← Option.some.inj he, fx, bits_11_7_7_7_0 _ _ (by decide) (by decide)]; rfl
  have E0 : z.extractLsb' 14 7 = d := by rw [← Option.some.inj he, bits_11_7_7_7_1 _ _ (by decide) (by decide)]; exact ext_full d
  have E1 : z.extractLsb' 7 7 = a := by rw [← Option.some.inj he, bits_11_7_7_7_2 _ _ (by decide) (by decide)]; exact ext_full a
  have E2 : z.extractLsb' 0 7 = s := by rw [← Option.some.inj he, bits_11_7_7_7_3 _ _ (by decide) (by decide)]; exact ext_full s
  refine of_row hw F0 (by decide) ?_
  rw [decodeRow, F0]
  show decodeRow22 z = _
  rw [decodeRow22, F1, E0, E1, E2]
  rfl
theorem cshrw (d : BitVec 7) (a : BitVec 7) (s : BitVec 7) : Statement (.cshrw d a s) := by
  intro hw _ z he
  have F0 : fx z 26 6 = 34 := by rw [← Option.some.inj he, fx, bits_11_7_7_7_0 _ _ (by decide) (by decide)]; rfl
  have F1 : fx z 21 5 = 3 := by rw [← Option.some.inj he, fx, bits_11_7_7_7_0 _ _ (by decide) (by decide)]; rfl
  have E0 : z.extractLsb' 14 7 = d := by rw [← Option.some.inj he, bits_11_7_7_7_1 _ _ (by decide) (by decide)]; exact ext_full d
  have E1 : z.extractLsb' 7 7 = a := by rw [← Option.some.inj he, bits_11_7_7_7_2 _ _ (by decide) (by decide)]; exact ext_full a
  have E2 : z.extractLsb' 0 7 = s := by rw [← Option.some.inj he, bits_11_7_7_7_3 _ _ (by decide) (by decide)]; exact ext_full s
  refine of_row hw F0 (by decide) ?_
  rw [decodeRow, F0]
  show decodeRow22 z = _
  rw [decodeRow22, F1, E0, E1, E2]
  rfl
theorem cmac (d : BitVec 7) (a : BitVec 7) (s : BitVec 7) : Statement (.cmac d a s) := by
  intro hw _ z he
  have F0 : fx z 26 6 = 34 := by rw [← Option.some.inj he, fx, bits_11_7_7_7_0 _ _ (by decide) (by decide)]; rfl
  have F1 : fx z 21 5 = 4 := by rw [← Option.some.inj he, fx, bits_11_7_7_7_0 _ _ (by decide) (by decide)]; rfl
  have E0 : z.extractLsb' 14 7 = d := by rw [← Option.some.inj he, bits_11_7_7_7_1 _ _ (by decide) (by decide)]; exact ext_full d
  have E1 : z.extractLsb' 7 7 = a := by rw [← Option.some.inj he, bits_11_7_7_7_2 _ _ (by decide) (by decide)]; exact ext_full a
  have E2 : z.extractLsb' 0 7 = s := by rw [← Option.some.inj he, bits_11_7_7_7_3 _ _ (by decide) (by decide)]; exact ext_full s
  refine of_row hw F0 (by decide) ?_
  rw [decodeRow, F0]
  show decodeRow22 z = _
  rw [decodeRow22, F1, E0, E1, E2]
  rfl
theorem cld (o : BitVec 2) (s : BitVec 2) (c : BitVec 2) (k : BitVec 5) (a : BitVec 7) (d : BitVec 7) : Statement (.cld o s c k a d) := by
  intro hw _ z he
  have F0 : fx z 26 6 = 35 := by rw [← Option.some.inj he, fx, bits_7_2_2_2_5_7_7_0 _ _ (by decide) (by decide)]; rfl
  have F1 : fx z 25 1 = 0 := by rw [← Option.some.inj he, fx, bits_7_2_2_2_5_7_7_0 _ _ (by decide) (by decide)]; rfl
  have E0 : z.extractLsb' 23 2 = o := by rw [← Option.some.inj he, bits_7_2_2_2_5_7_7_1 _ _ (by decide) (by decide)]; exact ext_full o
  have E1 : z.extractLsb' 21 2 = s := by rw [← Option.some.inj he, bits_7_2_2_2_5_7_7_2 _ _ (by decide) (by decide)]; exact ext_full s
  have E2 : z.extractLsb' 19 2 = c := by rw [← Option.some.inj he, bits_7_2_2_2_5_7_7_3 _ _ (by decide) (by decide)]; exact ext_full c
  have E3 : z.extractLsb' 14 5 = k := by rw [← Option.some.inj he, bits_7_2_2_2_5_7_7_4 _ _ (by decide) (by decide)]; exact ext_full k
  have E4 : z.extractLsb' 7 7 = a := by rw [← Option.some.inj he, bits_7_2_2_2_5_7_7_5 _ _ (by decide) (by decide)]; exact ext_full a
  have E5 : z.extractLsb' 0 7 = d := by rw [← Option.some.inj he, bits_7_2_2_2_5_7_7_6 _ _ (by decide) (by decide)]; exact ext_full d
  refine of_row hw F0 (by decide) ?_
  rw [decodeRow, F0]
  show decodeRow23 z = _
  rw [decodeRow23, F1, E0, E1, E2, E3, E4, E5]
  rfl
theorem cst (o : BitVec 2) (s : BitVec 2) (c : BitVec 2) (k : BitVec 5) (a : BitVec 7) (d : BitVec 7) : Statement (.cst o s c k a d) := by
  intro hw _ z he
  have F0 : fx z 26 6 = 35 := by rw [← Option.some.inj he, fx, bits_7_2_2_2_5_7_7_0 _ _ (by decide) (by decide)]; rfl
  have F1 : fx z 25 1 = 1 := by rw [← Option.some.inj he, fx, bits_7_2_2_2_5_7_7_0 _ _ (by decide) (by decide)]; rfl
  have E0 : z.extractLsb' 23 2 = o := by rw [← Option.some.inj he, bits_7_2_2_2_5_7_7_1 _ _ (by decide) (by decide)]; exact ext_full o
  have E1 : z.extractLsb' 21 2 = s := by rw [← Option.some.inj he, bits_7_2_2_2_5_7_7_2 _ _ (by decide) (by decide)]; exact ext_full s
  have E2 : z.extractLsb' 19 2 = c := by rw [← Option.some.inj he, bits_7_2_2_2_5_7_7_3 _ _ (by decide) (by decide)]; exact ext_full c
  have E3 : z.extractLsb' 14 5 = k := by rw [← Option.some.inj he, bits_7_2_2_2_5_7_7_4 _ _ (by decide) (by decide)]; exact ext_full k
  have E4 : z.extractLsb' 7 7 = a := by rw [← Option.some.inj he, bits_7_2_2_2_5_7_7_5 _ _ (by decide) (by decide)]; exact ext_full a
  have E5 : z.extractLsb' 0 7 = d := by rw [← Option.some.inj he, bits_7_2_2_2_5_7_7_6 _ _ (by decide) (by decide)]; exact ext_full d
  refine of_row hw F0 (by decide) ?_
  rw [decodeRow, F0]
  show decodeRow23 z = _
  rw [decodeRow23, F1, E0, E1, E2, E3, E4, E5]
  rfl
theorem ld (g : BitVec 1) (o : BitVec 2) (s : BitVec 2) (c : BitVec 2) (k : BitVec 5) (a : BitVec 7) (d : BitVec 7) : Statement (.ld g o s c k a d) := by
  intro hw _ z he
  have F0 : fx z 26 6 = 36 := by rw [← Option.some.inj he, fx, bits_6_1_2_2_2_5_7_7_0 _ _ (by decide) (by decide)]; rfl
  have E0 : z.extractLsb' 25 1 = g := by rw [← Option.some.inj he, bits_6_1_2_2_2_5_7_7_1 _ _ (by decide) (by decide)]; exact ext_full g
  have E1 : z.extractLsb' 23 2 = o := by rw [← Option.some.inj he, bits_6_1_2_2_2_5_7_7_2 _ _ (by decide) (by decide)]; exact ext_full o
  have E2 : z.extractLsb' 21 2 = s := by rw [← Option.some.inj he, bits_6_1_2_2_2_5_7_7_3 _ _ (by decide) (by decide)]; exact ext_full s
  have E3 : z.extractLsb' 19 2 = c := by rw [← Option.some.inj he, bits_6_1_2_2_2_5_7_7_4 _ _ (by decide) (by decide)]; exact ext_full c
  have E4 : z.extractLsb' 14 5 = k := by rw [← Option.some.inj he, bits_6_1_2_2_2_5_7_7_5 _ _ (by decide) (by decide)]; exact ext_full k
  have E5 : z.extractLsb' 7 7 = a := by rw [← Option.some.inj he, bits_6_1_2_2_2_5_7_7_6 _ _ (by decide) (by decide)]; exact ext_full a
  have E6 : z.extractLsb' 0 7 = d := by rw [← Option.some.inj he, bits_6_1_2_2_2_5_7_7_7 _ _ (by decide) (by decide)]; exact ext_full d
  refine of_row hw F0 (by decide) ?_
  rw [decodeRow, F0]
  show decodeRow24 z = _
  rw [decodeRow24, E0, E1, E2, E3, E4, E5, E6]
  rfl
theorem st (g : BitVec 1) (o : BitVec 2) (s : BitVec 2) (c : BitVec 2) (k : BitVec 5) (a : BitVec 7) (d : BitVec 7) : Statement (.st g o s c k a d) := by
  intro hw _ z he
  have F0 : fx z 26 6 = 37 := by rw [← Option.some.inj he, fx, bits_6_1_2_2_2_5_7_7_0 _ _ (by decide) (by decide)]; rfl
  have E0 : z.extractLsb' 25 1 = g := by rw [← Option.some.inj he, bits_6_1_2_2_2_5_7_7_1 _ _ (by decide) (by decide)]; exact ext_full g
  have E1 : z.extractLsb' 23 2 = o := by rw [← Option.some.inj he, bits_6_1_2_2_2_5_7_7_2 _ _ (by decide) (by decide)]; exact ext_full o
  have E2 : z.extractLsb' 21 2 = s := by rw [← Option.some.inj he, bits_6_1_2_2_2_5_7_7_3 _ _ (by decide) (by decide)]; exact ext_full s
  have E3 : z.extractLsb' 19 2 = c := by rw [← Option.some.inj he, bits_6_1_2_2_2_5_7_7_4 _ _ (by decide) (by decide)]; exact ext_full c
  have E4 : z.extractLsb' 14 5 = k := by rw [← Option.some.inj he, bits_6_1_2_2_2_5_7_7_5 _ _ (by decide) (by decide)]; exact ext_full k
  have E5 : z.extractLsb' 7 7 = a := by rw [← Option.some.inj he, bits_6_1_2_2_2_5_7_7_6 _ _ (by decide) (by decide)]; exact ext_full a
  have E6 : z.extractLsb' 0 7 = d := by rw [← Option.some.inj he, bits_6_1_2_2_2_5_7_7_7 _ _ (by decide) (by decide)]; exact ext_full d
  refine of_row hw F0 (by decide) ?_
  rw [decodeRow, F0]
  show decodeRow25 z = _
  rw [decodeRow25, E0, E1, E2, E3, E4, E5, E6]
  rfl
theorem atomAdd (o : BitVec 3) (k : BitVec 5) (a : BitVec 7) (d : BitVec 7) : Statement (.atomAdd o k a d) := by
  intro hw _ z he
  have F0 : fx z 26 6 = 38 := by rw [← Option.some.inj he, fx, bits_10_3_5_7_7_0 _ _ (by decide) (by decide)]; rfl
  have F1 : fx z 22 4 = 0 := by rw [← Option.some.inj he, fx, bits_10_3_5_7_7_0 _ _ (by decide) (by decide)]; rfl
  have E0 : z.extractLsb' 19 3 = o := by rw [← Option.some.inj he, bits_10_3_5_7_7_1 _ _ (by decide) (by decide)]; exact ext_full o
  have E1 : z.extractLsb' 14 5 = k := by rw [← Option.some.inj he, bits_10_3_5_7_7_2 _ _ (by decide) (by decide)]; exact ext_full k
  have E2 : z.extractLsb' 7 7 = a := by rw [← Option.some.inj he, bits_10_3_5_7_7_3 _ _ (by decide) (by decide)]; exact ext_full a
  have E3 : z.extractLsb' 0 7 = d := by rw [← Option.some.inj he, bits_10_3_5_7_7_4 _ _ (by decide) (by decide)]; exact ext_full d
  refine of_row hw F0 (by decide) ?_
  rw [decodeRow, F0]
  show decodeRow26 z = _
  rw [decodeRow26, F1, E0, E1, E2, E3]
  rfl
theorem atomMin (o : BitVec 3) (k : BitVec 5) (a : BitVec 7) (d : BitVec 7) : Statement (.atomMin o k a d) := by
  intro hw _ z he
  have F0 : fx z 26 6 = 38 := by rw [← Option.some.inj he, fx, bits_10_3_5_7_7_0 _ _ (by decide) (by decide)]; rfl
  have F1 : fx z 22 4 = 1 := by rw [← Option.some.inj he, fx, bits_10_3_5_7_7_0 _ _ (by decide) (by decide)]; rfl
  have E0 : z.extractLsb' 19 3 = o := by rw [← Option.some.inj he, bits_10_3_5_7_7_1 _ _ (by decide) (by decide)]; exact ext_full o
  have E1 : z.extractLsb' 14 5 = k := by rw [← Option.some.inj he, bits_10_3_5_7_7_2 _ _ (by decide) (by decide)]; exact ext_full k
  have E2 : z.extractLsb' 7 7 = a := by rw [← Option.some.inj he, bits_10_3_5_7_7_3 _ _ (by decide) (by decide)]; exact ext_full a
  have E3 : z.extractLsb' 0 7 = d := by rw [← Option.some.inj he, bits_10_3_5_7_7_4 _ _ (by decide) (by decide)]; exact ext_full d
  refine of_row hw F0 (by decide) ?_
  rw [decodeRow, F0]
  show decodeRow26 z = _
  rw [decodeRow26, F1, E0, E1, E2, E3]
  rfl
theorem atomMax (o : BitVec 3) (k : BitVec 5) (a : BitVec 7) (d : BitVec 7) : Statement (.atomMax o k a d) := by
  intro hw _ z he
  have F0 : fx z 26 6 = 38 := by rw [← Option.some.inj he, fx, bits_10_3_5_7_7_0 _ _ (by decide) (by decide)]; rfl
  have F1 : fx z 22 4 = 2 := by rw [← Option.some.inj he, fx, bits_10_3_5_7_7_0 _ _ (by decide) (by decide)]; rfl
  have E0 : z.extractLsb' 19 3 = o := by rw [← Option.some.inj he, bits_10_3_5_7_7_1 _ _ (by decide) (by decide)]; exact ext_full o
  have E1 : z.extractLsb' 14 5 = k := by rw [← Option.some.inj he, bits_10_3_5_7_7_2 _ _ (by decide) (by decide)]; exact ext_full k
  have E2 : z.extractLsb' 7 7 = a := by rw [← Option.some.inj he, bits_10_3_5_7_7_3 _ _ (by decide) (by decide)]; exact ext_full a
  have E3 : z.extractLsb' 0 7 = d := by rw [← Option.some.inj he, bits_10_3_5_7_7_4 _ _ (by decide) (by decide)]; exact ext_full d
  refine of_row hw F0 (by decide) ?_
  rw [decodeRow, F0]
  show decodeRow26 z = _
  rw [decodeRow26, F1, E0, E1, E2, E3]
  rfl
theorem atomAnd (o : BitVec 3) (k : BitVec 5) (a : BitVec 7) (d : BitVec 7) : Statement (.atomAnd o k a d) := by
  intro hw _ z he
  have F0 : fx z 26 6 = 38 := by rw [← Option.some.inj he, fx, bits_10_3_5_7_7_0 _ _ (by decide) (by decide)]; rfl
  have F1 : fx z 22 4 = 3 := by rw [← Option.some.inj he, fx, bits_10_3_5_7_7_0 _ _ (by decide) (by decide)]; rfl
  have E0 : z.extractLsb' 19 3 = o := by rw [← Option.some.inj he, bits_10_3_5_7_7_1 _ _ (by decide) (by decide)]; exact ext_full o
  have E1 : z.extractLsb' 14 5 = k := by rw [← Option.some.inj he, bits_10_3_5_7_7_2 _ _ (by decide) (by decide)]; exact ext_full k
  have E2 : z.extractLsb' 7 7 = a := by rw [← Option.some.inj he, bits_10_3_5_7_7_3 _ _ (by decide) (by decide)]; exact ext_full a
  have E3 : z.extractLsb' 0 7 = d := by rw [← Option.some.inj he, bits_10_3_5_7_7_4 _ _ (by decide) (by decide)]; exact ext_full d
  refine of_row hw F0 (by decide) ?_
  rw [decodeRow, F0]
  show decodeRow26 z = _
  rw [decodeRow26, F1, E0, E1, E2, E3]
  rfl
theorem atomOr (o : BitVec 3) (k : BitVec 5) (a : BitVec 7) (d : BitVec 7) : Statement (.atomOr o k a d) := by
  intro hw _ z he
  have F0 : fx z 26 6 = 38 := by rw [← Option.some.inj he, fx, bits_10_3_5_7_7_0 _ _ (by decide) (by decide)]; rfl
  have F1 : fx z 22 4 = 4 := by rw [← Option.some.inj he, fx, bits_10_3_5_7_7_0 _ _ (by decide) (by decide)]; rfl
  have E0 : z.extractLsb' 19 3 = o := by rw [← Option.some.inj he, bits_10_3_5_7_7_1 _ _ (by decide) (by decide)]; exact ext_full o
  have E1 : z.extractLsb' 14 5 = k := by rw [← Option.some.inj he, bits_10_3_5_7_7_2 _ _ (by decide) (by decide)]; exact ext_full k
  have E2 : z.extractLsb' 7 7 = a := by rw [← Option.some.inj he, bits_10_3_5_7_7_3 _ _ (by decide) (by decide)]; exact ext_full a
  have E3 : z.extractLsb' 0 7 = d := by rw [← Option.some.inj he, bits_10_3_5_7_7_4 _ _ (by decide) (by decide)]; exact ext_full d
  refine of_row hw F0 (by decide) ?_
  rw [decodeRow, F0]
  show decodeRow26 z = _
  rw [decodeRow26, F1, E0, E1, E2, E3]
  rfl
theorem atomXor (o : BitVec 3) (k : BitVec 5) (a : BitVec 7) (d : BitVec 7) : Statement (.atomXor o k a d) := by
  intro hw _ z he
  have F0 : fx z 26 6 = 38 := by rw [← Option.some.inj he, fx, bits_10_3_5_7_7_0 _ _ (by decide) (by decide)]; rfl
  have F1 : fx z 22 4 = 5 := by rw [← Option.some.inj he, fx, bits_10_3_5_7_7_0 _ _ (by decide) (by decide)]; rfl
  have E0 : z.extractLsb' 19 3 = o := by rw [← Option.some.inj he, bits_10_3_5_7_7_1 _ _ (by decide) (by decide)]; exact ext_full o
  have E1 : z.extractLsb' 14 5 = k := by rw [← Option.some.inj he, bits_10_3_5_7_7_2 _ _ (by decide) (by decide)]; exact ext_full k
  have E2 : z.extractLsb' 7 7 = a := by rw [← Option.some.inj he, bits_10_3_5_7_7_3 _ _ (by decide) (by decide)]; exact ext_full a
  have E3 : z.extractLsb' 0 7 = d := by rw [← Option.some.inj he, bits_10_3_5_7_7_4 _ _ (by decide) (by decide)]; exact ext_full d
  refine of_row hw F0 (by decide) ?_
  rw [decodeRow, F0]
  show decodeRow26 z = _
  rw [decodeRow26, F1, E0, E1, E2, E3]
  rfl
theorem atomExch (o : BitVec 3) (k : BitVec 5) (a : BitVec 7) (d : BitVec 7) : Statement (.atomExch o k a d) := by
  intro hw _ z he
  have F0 : fx z 26 6 = 38 := by rw [← Option.some.inj he, fx, bits_10_3_5_7_7_0 _ _ (by decide) (by decide)]; rfl
  have F1 : fx z 22 4 = 6 := by rw [← Option.some.inj he, fx, bits_10_3_5_7_7_0 _ _ (by decide) (by decide)]; rfl
  have E0 : z.extractLsb' 19 3 = o := by rw [← Option.some.inj he, bits_10_3_5_7_7_1 _ _ (by decide) (by decide)]; exact ext_full o
  have E1 : z.extractLsb' 14 5 = k := by rw [← Option.some.inj he, bits_10_3_5_7_7_2 _ _ (by decide) (by decide)]; exact ext_full k
  have E2 : z.extractLsb' 7 7 = a := by rw [← Option.some.inj he, bits_10_3_5_7_7_3 _ _ (by decide) (by decide)]; exact ext_full a
  have E3 : z.extractLsb' 0 7 = d := by rw [← Option.some.inj he, bits_10_3_5_7_7_4 _ _ (by decide) (by decide)]; exact ext_full d
  refine of_row hw F0 (by decide) ?_
  rw [decodeRow, F0]
  show decodeRow26 z = _
  rw [decodeRow26, F1, E0, E1, E2, E3]
  rfl
theorem atomCas (o : BitVec 3) (k : BitVec 5) (a : BitVec 7) (d : BitVec 7) : Statement (.atomCas o k a d) := by
  intro hw _ z he
  have F0 : fx z 26 6 = 38 := by rw [← Option.some.inj he, fx, bits_10_3_5_7_7_0 _ _ (by decide) (by decide)]; rfl
  have F1 : fx z 22 4 = 7 := by rw [← Option.some.inj he, fx, bits_10_3_5_7_7_0 _ _ (by decide) (by decide)]; rfl
  have E0 : z.extractLsb' 19 3 = o := by rw [← Option.some.inj he, bits_10_3_5_7_7_1 _ _ (by decide) (by decide)]; exact ext_full o
  have E1 : z.extractLsb' 14 5 = k := by rw [← Option.some.inj he, bits_10_3_5_7_7_2 _ _ (by decide) (by decide)]; exact ext_full k
  have E2 : z.extractLsb' 7 7 = a := by rw [← Option.some.inj he, bits_10_3_5_7_7_3 _ _ (by decide) (by decide)]; exact ext_full a
  have E3 : z.extractLsb' 0 7 = d := by rw [← Option.some.inj he, bits_10_3_5_7_7_4 _ _ (by decide) (by decide)]; exact ext_full d
  refine of_row hw F0 (by decide) ?_
  rw [decodeRow, F0]
  show decodeRow26 z = _
  rw [decodeRow26, F1, E0, E1, E2, E3]
  rfl
theorem redAdd (o : BitVec 3) (k : BitVec 5) (a : BitVec 7) (d : BitVec 7) : Statement (.redAdd o k a d) := by
  intro hw _ z he
  have F0 : fx z 26 6 = 38 := by rw [← Option.some.inj he, fx, bits_10_3_5_7_7_0 _ _ (by decide) (by decide)]; rfl
  have F1 : fx z 22 4 = 8 := by rw [← Option.some.inj he, fx, bits_10_3_5_7_7_0 _ _ (by decide) (by decide)]; rfl
  have E0 : z.extractLsb' 19 3 = o := by rw [← Option.some.inj he, bits_10_3_5_7_7_1 _ _ (by decide) (by decide)]; exact ext_full o
  have E1 : z.extractLsb' 14 5 = k := by rw [← Option.some.inj he, bits_10_3_5_7_7_2 _ _ (by decide) (by decide)]; exact ext_full k
  have E2 : z.extractLsb' 7 7 = a := by rw [← Option.some.inj he, bits_10_3_5_7_7_3 _ _ (by decide) (by decide)]; exact ext_full a
  have E3 : z.extractLsb' 0 7 = d := by rw [← Option.some.inj he, bits_10_3_5_7_7_4 _ _ (by decide) (by decide)]; exact ext_full d
  refine of_row hw F0 (by decide) ?_
  rw [decodeRow, F0]
  show decodeRow26 z = _
  rw [decodeRow26, F1, E0, E1, E2, E3]
  rfl
theorem redMin (o : BitVec 3) (k : BitVec 5) (a : BitVec 7) (d : BitVec 7) : Statement (.redMin o k a d) := by
  intro hw _ z he
  have F0 : fx z 26 6 = 38 := by rw [← Option.some.inj he, fx, bits_10_3_5_7_7_0 _ _ (by decide) (by decide)]; rfl
  have F1 : fx z 22 4 = 9 := by rw [← Option.some.inj he, fx, bits_10_3_5_7_7_0 _ _ (by decide) (by decide)]; rfl
  have E0 : z.extractLsb' 19 3 = o := by rw [← Option.some.inj he, bits_10_3_5_7_7_1 _ _ (by decide) (by decide)]; exact ext_full o
  have E1 : z.extractLsb' 14 5 = k := by rw [← Option.some.inj he, bits_10_3_5_7_7_2 _ _ (by decide) (by decide)]; exact ext_full k
  have E2 : z.extractLsb' 7 7 = a := by rw [← Option.some.inj he, bits_10_3_5_7_7_3 _ _ (by decide) (by decide)]; exact ext_full a
  have E3 : z.extractLsb' 0 7 = d := by rw [← Option.some.inj he, bits_10_3_5_7_7_4 _ _ (by decide) (by decide)]; exact ext_full d
  refine of_row hw F0 (by decide) ?_
  rw [decodeRow, F0]
  show decodeRow26 z = _
  rw [decodeRow26, F1, E0, E1, E2, E3]
  rfl
theorem redMax (o : BitVec 3) (k : BitVec 5) (a : BitVec 7) (d : BitVec 7) : Statement (.redMax o k a d) := by
  intro hw _ z he
  have F0 : fx z 26 6 = 38 := by rw [← Option.some.inj he, fx, bits_10_3_5_7_7_0 _ _ (by decide) (by decide)]; rfl
  have F1 : fx z 22 4 = 10 := by rw [← Option.some.inj he, fx, bits_10_3_5_7_7_0 _ _ (by decide) (by decide)]; rfl
  have E0 : z.extractLsb' 19 3 = o := by rw [← Option.some.inj he, bits_10_3_5_7_7_1 _ _ (by decide) (by decide)]; exact ext_full o
  have E1 : z.extractLsb' 14 5 = k := by rw [← Option.some.inj he, bits_10_3_5_7_7_2 _ _ (by decide) (by decide)]; exact ext_full k
  have E2 : z.extractLsb' 7 7 = a := by rw [← Option.some.inj he, bits_10_3_5_7_7_3 _ _ (by decide) (by decide)]; exact ext_full a
  have E3 : z.extractLsb' 0 7 = d := by rw [← Option.some.inj he, bits_10_3_5_7_7_4 _ _ (by decide) (by decide)]; exact ext_full d
  refine of_row hw F0 (by decide) ?_
  rw [decodeRow, F0]
  show decodeRow26 z = _
  rw [decodeRow26, F1, E0, E1, E2, E3]
  rfl
theorem redAnd (o : BitVec 3) (k : BitVec 5) (a : BitVec 7) (d : BitVec 7) : Statement (.redAnd o k a d) := by
  intro hw _ z he
  have F0 : fx z 26 6 = 38 := by rw [← Option.some.inj he, fx, bits_10_3_5_7_7_0 _ _ (by decide) (by decide)]; rfl
  have F1 : fx z 22 4 = 11 := by rw [← Option.some.inj he, fx, bits_10_3_5_7_7_0 _ _ (by decide) (by decide)]; rfl
  have E0 : z.extractLsb' 19 3 = o := by rw [← Option.some.inj he, bits_10_3_5_7_7_1 _ _ (by decide) (by decide)]; exact ext_full o
  have E1 : z.extractLsb' 14 5 = k := by rw [← Option.some.inj he, bits_10_3_5_7_7_2 _ _ (by decide) (by decide)]; exact ext_full k
  have E2 : z.extractLsb' 7 7 = a := by rw [← Option.some.inj he, bits_10_3_5_7_7_3 _ _ (by decide) (by decide)]; exact ext_full a
  have E3 : z.extractLsb' 0 7 = d := by rw [← Option.some.inj he, bits_10_3_5_7_7_4 _ _ (by decide) (by decide)]; exact ext_full d
  refine of_row hw F0 (by decide) ?_
  rw [decodeRow, F0]
  show decodeRow26 z = _
  rw [decodeRow26, F1, E0, E1, E2, E3]
  rfl
theorem redOr (o : BitVec 3) (k : BitVec 5) (a : BitVec 7) (d : BitVec 7) : Statement (.redOr o k a d) := by
  intro hw _ z he
  have F0 : fx z 26 6 = 38 := by rw [← Option.some.inj he, fx, bits_10_3_5_7_7_0 _ _ (by decide) (by decide)]; rfl
  have F1 : fx z 22 4 = 12 := by rw [← Option.some.inj he, fx, bits_10_3_5_7_7_0 _ _ (by decide) (by decide)]; rfl
  have E0 : z.extractLsb' 19 3 = o := by rw [← Option.some.inj he, bits_10_3_5_7_7_1 _ _ (by decide) (by decide)]; exact ext_full o
  have E1 : z.extractLsb' 14 5 = k := by rw [← Option.some.inj he, bits_10_3_5_7_7_2 _ _ (by decide) (by decide)]; exact ext_full k
  have E2 : z.extractLsb' 7 7 = a := by rw [← Option.some.inj he, bits_10_3_5_7_7_3 _ _ (by decide) (by decide)]; exact ext_full a
  have E3 : z.extractLsb' 0 7 = d := by rw [← Option.some.inj he, bits_10_3_5_7_7_4 _ _ (by decide) (by decide)]; exact ext_full d
  refine of_row hw F0 (by decide) ?_
  rw [decodeRow, F0]
  show decodeRow26 z = _
  rw [decodeRow26, F1, E0, E1, E2, E3]
  rfl
theorem redXor (o : BitVec 3) (k : BitVec 5) (a : BitVec 7) (d : BitVec 7) : Statement (.redXor o k a d) := by
  intro hw _ z he
  have F0 : fx z 26 6 = 38 := by rw [← Option.some.inj he, fx, bits_10_3_5_7_7_0 _ _ (by decide) (by decide)]; rfl
  have F1 : fx z 22 4 = 13 := by rw [← Option.some.inj he, fx, bits_10_3_5_7_7_0 _ _ (by decide) (by decide)]; rfl
  have E0 : z.extractLsb' 19 3 = o := by rw [← Option.some.inj he, bits_10_3_5_7_7_1 _ _ (by decide) (by decide)]; exact ext_full o
  have E1 : z.extractLsb' 14 5 = k := by rw [← Option.some.inj he, bits_10_3_5_7_7_2 _ _ (by decide) (by decide)]; exact ext_full k
  have E2 : z.extractLsb' 7 7 = a := by rw [← Option.some.inj he, bits_10_3_5_7_7_3 _ _ (by decide) (by decide)]; exact ext_full a
  have E3 : z.extractLsb' 0 7 = d := by rw [← Option.some.inj he, bits_10_3_5_7_7_4 _ _ (by decide) (by decide)]; exact ext_full d
  refine of_row hw F0 (by decide) ?_
  rw [decodeRow, F0]
  show decodeRow26 z = _
  rw [decodeRow26, F1, E0, E1, E2, E3]
  rfl
theorem sldU8 (d : BitVec 7) (a : BitVec 7) (f : BitVec 7) : Statement (.sldU8 d a f) := by
  intro hw _ z he
  have F0 : fx z 26 6 = 39 := by rw [← Option.some.inj he, fx, bits_11_7_7_7_0 _ _ (by decide) (by decide)]; rfl
  have F1 : fx z 21 5 = 0 := by rw [← Option.some.inj he, fx, bits_11_7_7_7_0 _ _ (by decide) (by decide)]; rfl
  have E0 : z.extractLsb' 14 7 = d := by rw [← Option.some.inj he, bits_11_7_7_7_1 _ _ (by decide) (by decide)]; exact ext_full d
  have E1 : z.extractLsb' 7 7 = a := by rw [← Option.some.inj he, bits_11_7_7_7_2 _ _ (by decide) (by decide)]; exact ext_full a
  have E2 : z.extractLsb' 0 7 = f := by rw [← Option.some.inj he, bits_11_7_7_7_3 _ _ (by decide) (by decide)]; exact ext_full f
  refine of_row hw F0 (by decide) ?_
  rw [decodeRow, F0]
  show decodeRow27 z = _
  rw [decodeRow27, F1, E0, E1, E2]
  rfl
theorem sldS8 (d : BitVec 7) (a : BitVec 7) (f : BitVec 7) : Statement (.sldS8 d a f) := by
  intro hw _ z he
  have F0 : fx z 26 6 = 39 := by rw [← Option.some.inj he, fx, bits_11_7_7_7_0 _ _ (by decide) (by decide)]; rfl
  have F1 : fx z 21 5 = 1 := by rw [← Option.some.inj he, fx, bits_11_7_7_7_0 _ _ (by decide) (by decide)]; rfl
  have E0 : z.extractLsb' 14 7 = d := by rw [← Option.some.inj he, bits_11_7_7_7_1 _ _ (by decide) (by decide)]; exact ext_full d
  have E1 : z.extractLsb' 7 7 = a := by rw [← Option.some.inj he, bits_11_7_7_7_2 _ _ (by decide) (by decide)]; exact ext_full a
  have E2 : z.extractLsb' 0 7 = f := by rw [← Option.some.inj he, bits_11_7_7_7_3 _ _ (by decide) (by decide)]; exact ext_full f
  refine of_row hw F0 (by decide) ?_
  rw [decodeRow, F0]
  show decodeRow27 z = _
  rw [decodeRow27, F1, E0, E1, E2]
  rfl
theorem sldU16 (d : BitVec 7) (a : BitVec 7) (f : BitVec 7) : Statement (.sldU16 d a f) := by
  intro hw _ z he
  have F0 : fx z 26 6 = 39 := by rw [← Option.some.inj he, fx, bits_11_7_7_7_0 _ _ (by decide) (by decide)]; rfl
  have F1 : fx z 21 5 = 2 := by rw [← Option.some.inj he, fx, bits_11_7_7_7_0 _ _ (by decide) (by decide)]; rfl
  have E0 : z.extractLsb' 14 7 = d := by rw [← Option.some.inj he, bits_11_7_7_7_1 _ _ (by decide) (by decide)]; exact ext_full d
  have E1 : z.extractLsb' 7 7 = a := by rw [← Option.some.inj he, bits_11_7_7_7_2 _ _ (by decide) (by decide)]; exact ext_full a
  have E2 : z.extractLsb' 0 7 = f := by rw [← Option.some.inj he, bits_11_7_7_7_3 _ _ (by decide) (by decide)]; exact ext_full f
  refine of_row hw F0 (by decide) ?_
  rw [decodeRow, F0]
  show decodeRow27 z = _
  rw [decodeRow27, F1, E0, E1, E2]
  rfl
theorem sldS16 (d : BitVec 7) (a : BitVec 7) (f : BitVec 7) : Statement (.sldS16 d a f) := by
  intro hw _ z he
  have F0 : fx z 26 6 = 39 := by rw [← Option.some.inj he, fx, bits_11_7_7_7_0 _ _ (by decide) (by decide)]; rfl
  have F1 : fx z 21 5 = 3 := by rw [← Option.some.inj he, fx, bits_11_7_7_7_0 _ _ (by decide) (by decide)]; rfl
  have E0 : z.extractLsb' 14 7 = d := by rw [← Option.some.inj he, bits_11_7_7_7_1 _ _ (by decide) (by decide)]; exact ext_full d
  have E1 : z.extractLsb' 7 7 = a := by rw [← Option.some.inj he, bits_11_7_7_7_2 _ _ (by decide) (by decide)]; exact ext_full a
  have E2 : z.extractLsb' 0 7 = f := by rw [← Option.some.inj he, bits_11_7_7_7_3 _ _ (by decide) (by decide)]; exact ext_full f
  refine of_row hw F0 (by decide) ?_
  rw [decodeRow, F0]
  show decodeRow27 z = _
  rw [decodeRow27, F1, E0, E1, E2]
  rfl
theorem sldB32 (d : BitVec 7) (a : BitVec 7) (f : BitVec 7) : Statement (.sldB32 d a f) := by
  intro hw _ z he
  have F0 : fx z 26 6 = 39 := by rw [← Option.some.inj he, fx, bits_11_7_7_7_0 _ _ (by decide) (by decide)]; rfl
  have F1 : fx z 21 5 = 4 := by rw [← Option.some.inj he, fx, bits_11_7_7_7_0 _ _ (by decide) (by decide)]; rfl
  have E0 : z.extractLsb' 14 7 = d := by rw [← Option.some.inj he, bits_11_7_7_7_1 _ _ (by decide) (by decide)]; exact ext_full d
  have E1 : z.extractLsb' 7 7 = a := by rw [← Option.some.inj he, bits_11_7_7_7_2 _ _ (by decide) (by decide)]; exact ext_full a
  have E2 : z.extractLsb' 0 7 = f := by rw [← Option.some.inj he, bits_11_7_7_7_3 _ _ (by decide) (by decide)]; exact ext_full f
  refine of_row hw F0 (by decide) ?_
  rw [decodeRow, F0]
  show decodeRow27 z = _
  rw [decodeRow27, F1, E0, E1, E2]
  rfl
theorem sldB64 (d : BitVec 7) (a : BitVec 7) (f : BitVec 7) : Statement (.sldB64 d a f) := by
  intro hw _ z he
  have F0 : fx z 26 6 = 39 := by rw [← Option.some.inj he, fx, bits_11_7_7_7_0 _ _ (by decide) (by decide)]; rfl
  have F1 : fx z 21 5 = 5 := by rw [← Option.some.inj he, fx, bits_11_7_7_7_0 _ _ (by decide) (by decide)]; rfl
  have E0 : z.extractLsb' 14 7 = d := by rw [← Option.some.inj he, bits_11_7_7_7_1 _ _ (by decide) (by decide)]; exact ext_full d
  have E1 : z.extractLsb' 7 7 = a := by rw [← Option.some.inj he, bits_11_7_7_7_2 _ _ (by decide) (by decide)]; exact ext_full a
  have E2 : z.extractLsb' 0 7 = f := by rw [← Option.some.inj he, bits_11_7_7_7_3 _ _ (by decide) (by decide)]; exact ext_full f
  refine of_row hw F0 (by decide) ?_
  rw [decodeRow, F0]
  show decodeRow27 z = _
  rw [decodeRow27, F1, E0, E1, E2]
  rfl
theorem sstB8 (d : BitVec 7) (a : BitVec 7) (f : BitVec 7) : Statement (.sstB8 d a f) := by
  intro hw _ z he
  have F0 : fx z 26 6 = 39 := by rw [← Option.some.inj he, fx, bits_11_7_7_7_0 _ _ (by decide) (by decide)]; rfl
  have F1 : fx z 21 5 = 6 := by rw [← Option.some.inj he, fx, bits_11_7_7_7_0 _ _ (by decide) (by decide)]; rfl
  have E0 : z.extractLsb' 14 7 = d := by rw [← Option.some.inj he, bits_11_7_7_7_1 _ _ (by decide) (by decide)]; exact ext_full d
  have E1 : z.extractLsb' 7 7 = a := by rw [← Option.some.inj he, bits_11_7_7_7_2 _ _ (by decide) (by decide)]; exact ext_full a
  have E2 : z.extractLsb' 0 7 = f := by rw [← Option.some.inj he, bits_11_7_7_7_3 _ _ (by decide) (by decide)]; exact ext_full f
  refine of_row hw F0 (by decide) ?_
  rw [decodeRow, F0]
  show decodeRow27 z = _
  rw [decodeRow27, F1, E0, E1, E2]
  rfl
theorem sstB16 (d : BitVec 7) (a : BitVec 7) (f : BitVec 7) : Statement (.sstB16 d a f) := by
  intro hw _ z he
  have F0 : fx z 26 6 = 39 := by rw [← Option.some.inj he, fx, bits_11_7_7_7_0 _ _ (by decide) (by decide)]; rfl
  have F1 : fx z 21 5 = 7 := by rw [← Option.some.inj he, fx, bits_11_7_7_7_0 _ _ (by decide) (by decide)]; rfl
  have E0 : z.extractLsb' 14 7 = d := by rw [← Option.some.inj he, bits_11_7_7_7_1 _ _ (by decide) (by decide)]; exact ext_full d
  have E1 : z.extractLsb' 7 7 = a := by rw [← Option.some.inj he, bits_11_7_7_7_2 _ _ (by decide) (by decide)]; exact ext_full a
  have E2 : z.extractLsb' 0 7 = f := by rw [← Option.some.inj he, bits_11_7_7_7_3 _ _ (by decide) (by decide)]; exact ext_full f
  refine of_row hw F0 (by decide) ?_
  rw [decodeRow, F0]
  show decodeRow27 z = _
  rw [decodeRow27, F1, E0, E1, E2]
  rfl
theorem sstB32 (d : BitVec 7) (a : BitVec 7) (f : BitVec 7) : Statement (.sstB32 d a f) := by
  intro hw _ z he
  have F0 : fx z 26 6 = 39 := by rw [← Option.some.inj he, fx, bits_11_7_7_7_0 _ _ (by decide) (by decide)]; rfl
  have F1 : fx z 21 5 = 8 := by rw [← Option.some.inj he, fx, bits_11_7_7_7_0 _ _ (by decide) (by decide)]; rfl
  have E0 : z.extractLsb' 14 7 = d := by rw [← Option.some.inj he, bits_11_7_7_7_1 _ _ (by decide) (by decide)]; exact ext_full d
  have E1 : z.extractLsb' 7 7 = a := by rw [← Option.some.inj he, bits_11_7_7_7_2 _ _ (by decide) (by decide)]; exact ext_full a
  have E2 : z.extractLsb' 0 7 = f := by rw [← Option.some.inj he, bits_11_7_7_7_3 _ _ (by decide) (by decide)]; exact ext_full f
  refine of_row hw F0 (by decide) ?_
  rw [decodeRow, F0]
  show decodeRow27 z = _
  rw [decodeRow27, F1, E0, E1, E2]
  rfl
theorem sstB64 (d : BitVec 7) (a : BitVec 7) (f : BitVec 7) : Statement (.sstB64 d a f) := by
  intro hw _ z he
  have F0 : fx z 26 6 = 39 := by rw [← Option.some.inj he, fx, bits_11_7_7_7_0 _ _ (by decide) (by decide)]; rfl
  have F1 : fx z 21 5 = 9 := by rw [← Option.some.inj he, fx, bits_11_7_7_7_0 _ _ (by decide) (by decide)]; rfl
  have E0 : z.extractLsb' 14 7 = d := by rw [← Option.some.inj he, bits_11_7_7_7_1 _ _ (by decide) (by decide)]; exact ext_full d
  have E1 : z.extractLsb' 7 7 = a := by rw [← Option.some.inj he, bits_11_7_7_7_2 _ _ (by decide) (by decide)]; exact ext_full a
  have E2 : z.extractLsb' 0 7 = f := by rw [← Option.some.inj he, bits_11_7_7_7_3 _ _ (by decide) (by decide)]; exact ext_full f
  refine of_row hw F0 (by decide) ?_
  rw [decodeRow, F0]
  show decodeRow27 z = _
  rw [decodeRow27, F1, E0, E1, E2]
  rfl
theorem satomAdd (d : BitVec 7) (a : BitVec 7) (f : BitVec 7) : Statement (.satomAdd d a f) := by
  intro hw _ z he
  have F0 : fx z 26 6 = 39 := by rw [← Option.some.inj he, fx, bits_11_7_7_7_0 _ _ (by decide) (by decide)]; rfl
  have F1 : fx z 21 5 = 16 := by rw [← Option.some.inj he, fx, bits_11_7_7_7_0 _ _ (by decide) (by decide)]; rfl
  have E0 : z.extractLsb' 14 7 = d := by rw [← Option.some.inj he, bits_11_7_7_7_1 _ _ (by decide) (by decide)]; exact ext_full d
  have E1 : z.extractLsb' 7 7 = a := by rw [← Option.some.inj he, bits_11_7_7_7_2 _ _ (by decide) (by decide)]; exact ext_full a
  have E2 : z.extractLsb' 0 7 = f := by rw [← Option.some.inj he, bits_11_7_7_7_3 _ _ (by decide) (by decide)]; exact ext_full f
  refine of_row hw F0 (by decide) ?_
  rw [decodeRow, F0]
  show decodeRow27 z = _
  rw [decodeRow27, F1, E0, E1, E2]
  rfl
theorem satomMinS32 (d : BitVec 7) (a : BitVec 7) (f : BitVec 7) : Statement (.satomMinS32 d a f) := by
  intro hw _ z he
  have F0 : fx z 26 6 = 39 := by rw [← Option.some.inj he, fx, bits_11_7_7_7_0 _ _ (by decide) (by decide)]; rfl
  have F1 : fx z 21 5 = 17 := by rw [← Option.some.inj he, fx, bits_11_7_7_7_0 _ _ (by decide) (by decide)]; rfl
  have E0 : z.extractLsb' 14 7 = d := by rw [← Option.some.inj he, bits_11_7_7_7_1 _ _ (by decide) (by decide)]; exact ext_full d
  have E1 : z.extractLsb' 7 7 = a := by rw [← Option.some.inj he, bits_11_7_7_7_2 _ _ (by decide) (by decide)]; exact ext_full a
  have E2 : z.extractLsb' 0 7 = f := by rw [← Option.some.inj he, bits_11_7_7_7_3 _ _ (by decide) (by decide)]; exact ext_full f
  refine of_row hw F0 (by decide) ?_
  rw [decodeRow, F0]
  show decodeRow27 z = _
  rw [decodeRow27, F1, E0, E1, E2]
  rfl
theorem satomMaxS32 (d : BitVec 7) (a : BitVec 7) (f : BitVec 7) : Statement (.satomMaxS32 d a f) := by
  intro hw _ z he
  have F0 : fx z 26 6 = 39 := by rw [← Option.some.inj he, fx, bits_11_7_7_7_0 _ _ (by decide) (by decide)]; rfl
  have F1 : fx z 21 5 = 18 := by rw [← Option.some.inj he, fx, bits_11_7_7_7_0 _ _ (by decide) (by decide)]; rfl
  have E0 : z.extractLsb' 14 7 = d := by rw [← Option.some.inj he, bits_11_7_7_7_1 _ _ (by decide) (by decide)]; exact ext_full d
  have E1 : z.extractLsb' 7 7 = a := by rw [← Option.some.inj he, bits_11_7_7_7_2 _ _ (by decide) (by decide)]; exact ext_full a
  have E2 : z.extractLsb' 0 7 = f := by rw [← Option.some.inj he, bits_11_7_7_7_3 _ _ (by decide) (by decide)]; exact ext_full f
  refine of_row hw F0 (by decide) ?_
  rw [decodeRow, F0]
  show decodeRow27 z = _
  rw [decodeRow27, F1, E0, E1, E2]
  rfl
theorem satomMinU32 (d : BitVec 7) (a : BitVec 7) (f : BitVec 7) : Statement (.satomMinU32 d a f) := by
  intro hw _ z he
  have F0 : fx z 26 6 = 39 := by rw [← Option.some.inj he, fx, bits_11_7_7_7_0 _ _ (by decide) (by decide)]; rfl
  have F1 : fx z 21 5 = 19 := by rw [← Option.some.inj he, fx, bits_11_7_7_7_0 _ _ (by decide) (by decide)]; rfl
  have E0 : z.extractLsb' 14 7 = d := by rw [← Option.some.inj he, bits_11_7_7_7_1 _ _ (by decide) (by decide)]; exact ext_full d
  have E1 : z.extractLsb' 7 7 = a := by rw [← Option.some.inj he, bits_11_7_7_7_2 _ _ (by decide) (by decide)]; exact ext_full a
  have E2 : z.extractLsb' 0 7 = f := by rw [← Option.some.inj he, bits_11_7_7_7_3 _ _ (by decide) (by decide)]; exact ext_full f
  refine of_row hw F0 (by decide) ?_
  rw [decodeRow, F0]
  show decodeRow27 z = _
  rw [decodeRow27, F1, E0, E1, E2]
  rfl
theorem satomMaxU32 (d : BitVec 7) (a : BitVec 7) (f : BitVec 7) : Statement (.satomMaxU32 d a f) := by
  intro hw _ z he
  have F0 : fx z 26 6 = 39 := by rw [← Option.some.inj he, fx, bits_11_7_7_7_0 _ _ (by decide) (by decide)]; rfl
  have F1 : fx z 21 5 = 20 := by rw [← Option.some.inj he, fx, bits_11_7_7_7_0 _ _ (by decide) (by decide)]; rfl
  have E0 : z.extractLsb' 14 7 = d := by rw [← Option.some.inj he, bits_11_7_7_7_1 _ _ (by decide) (by decide)]; exact ext_full d
  have E1 : z.extractLsb' 7 7 = a := by rw [← Option.some.inj he, bits_11_7_7_7_2 _ _ (by decide) (by decide)]; exact ext_full a
  have E2 : z.extractLsb' 0 7 = f := by rw [← Option.some.inj he, bits_11_7_7_7_3 _ _ (by decide) (by decide)]; exact ext_full f
  refine of_row hw F0 (by decide) ?_
  rw [decodeRow, F0]
  show decodeRow27 z = _
  rw [decodeRow27, F1, E0, E1, E2]
  rfl
theorem satomAnd (d : BitVec 7) (a : BitVec 7) (f : BitVec 7) : Statement (.satomAnd d a f) := by
  intro hw _ z he
  have F0 : fx z 26 6 = 39 := by rw [← Option.some.inj he, fx, bits_11_7_7_7_0 _ _ (by decide) (by decide)]; rfl
  have F1 : fx z 21 5 = 21 := by rw [← Option.some.inj he, fx, bits_11_7_7_7_0 _ _ (by decide) (by decide)]; rfl
  have E0 : z.extractLsb' 14 7 = d := by rw [← Option.some.inj he, bits_11_7_7_7_1 _ _ (by decide) (by decide)]; exact ext_full d
  have E1 : z.extractLsb' 7 7 = a := by rw [← Option.some.inj he, bits_11_7_7_7_2 _ _ (by decide) (by decide)]; exact ext_full a
  have E2 : z.extractLsb' 0 7 = f := by rw [← Option.some.inj he, bits_11_7_7_7_3 _ _ (by decide) (by decide)]; exact ext_full f
  refine of_row hw F0 (by decide) ?_
  rw [decodeRow, F0]
  show decodeRow27 z = _
  rw [decodeRow27, F1, E0, E1, E2]
  rfl
theorem satomOr (d : BitVec 7) (a : BitVec 7) (f : BitVec 7) : Statement (.satomOr d a f) := by
  intro hw _ z he
  have F0 : fx z 26 6 = 39 := by rw [← Option.some.inj he, fx, bits_11_7_7_7_0 _ _ (by decide) (by decide)]; rfl
  have F1 : fx z 21 5 = 22 := by rw [← Option.some.inj he, fx, bits_11_7_7_7_0 _ _ (by decide) (by decide)]; rfl
  have E0 : z.extractLsb' 14 7 = d := by rw [← Option.some.inj he, bits_11_7_7_7_1 _ _ (by decide) (by decide)]; exact ext_full d
  have E1 : z.extractLsb' 7 7 = a := by rw [← Option.some.inj he, bits_11_7_7_7_2 _ _ (by decide) (by decide)]; exact ext_full a
  have E2 : z.extractLsb' 0 7 = f := by rw [← Option.some.inj he, bits_11_7_7_7_3 _ _ (by decide) (by decide)]; exact ext_full f
  refine of_row hw F0 (by decide) ?_
  rw [decodeRow, F0]
  show decodeRow27 z = _
  rw [decodeRow27, F1, E0, E1, E2]
  rfl
theorem satomXor (d : BitVec 7) (a : BitVec 7) (f : BitVec 7) : Statement (.satomXor d a f) := by
  intro hw _ z he
  have F0 : fx z 26 6 = 39 := by rw [← Option.some.inj he, fx, bits_11_7_7_7_0 _ _ (by decide) (by decide)]; rfl
  have F1 : fx z 21 5 = 23 := by rw [← Option.some.inj he, fx, bits_11_7_7_7_0 _ _ (by decide) (by decide)]; rfl
  have E0 : z.extractLsb' 14 7 = d := by rw [← Option.some.inj he, bits_11_7_7_7_1 _ _ (by decide) (by decide)]; exact ext_full d
  have E1 : z.extractLsb' 7 7 = a := by rw [← Option.some.inj he, bits_11_7_7_7_2 _ _ (by decide) (by decide)]; exact ext_full a
  have E2 : z.extractLsb' 0 7 = f := by rw [← Option.some.inj he, bits_11_7_7_7_3 _ _ (by decide) (by decide)]; exact ext_full f
  refine of_row hw F0 (by decide) ?_
  rw [decodeRow, F0]
  show decodeRow27 z = _
  rw [decodeRow27, F1, E0, E1, E2]
  rfl
theorem satomExch (d : BitVec 7) (a : BitVec 7) (f : BitVec 7) : Statement (.satomExch d a f) := by
  intro hw _ z he
  have F0 : fx z 26 6 = 39 := by rw [← Option.some.inj he, fx, bits_11_7_7_7_0 _ _ (by decide) (by decide)]; rfl
  have F1 : fx z 21 5 = 24 := by rw [← Option.some.inj he, fx, bits_11_7_7_7_0 _ _ (by decide) (by decide)]; rfl
  have E0 : z.extractLsb' 14 7 = d := by rw [← Option.some.inj he, bits_11_7_7_7_1 _ _ (by decide) (by decide)]; exact ext_full d
  have E1 : z.extractLsb' 7 7 = a := by rw [← Option.some.inj he, bits_11_7_7_7_2 _ _ (by decide) (by decide)]; exact ext_full a
  have E2 : z.extractLsb' 0 7 = f := by rw [← Option.some.inj he, bits_11_7_7_7_3 _ _ (by decide) (by decide)]; exact ext_full f
  refine of_row hw F0 (by decide) ?_
  rw [decodeRow, F0]
  show decodeRow27 z = _
  rw [decodeRow27, F1, E0, E1, E2]
  rfl
theorem satomCas (d : BitVec 7) (a : BitVec 7) (f : BitVec 7) : Statement (.satomCas d a f) := by
  intro hw _ z he
  have F0 : fx z 26 6 = 39 := by rw [← Option.some.inj he, fx, bits_11_7_7_7_0 _ _ (by decide) (by decide)]; rfl
  have F1 : fx z 21 5 = 25 := by rw [← Option.some.inj he, fx, bits_11_7_7_7_0 _ _ (by decide) (by decide)]; rfl
  have E0 : z.extractLsb' 14 7 = d := by rw [← Option.some.inj he, bits_11_7_7_7_1 _ _ (by decide) (by decide)]; exact ext_full d
  have E1 : z.extractLsb' 7 7 = a := by rw [← Option.some.inj he, bits_11_7_7_7_2 _ _ (by decide) (by decide)]; exact ext_full a
  have E2 : z.extractLsb' 0 7 = f := by rw [← Option.some.inj he, bits_11_7_7_7_3 _ _ (by decide) (by decide)]; exact ext_full f
  refine of_row hw F0 (by decide) ?_
  rw [decodeRow, F0]
  show decodeRow27 z = _
  rw [decodeRow27, F1, E0, E1, E2]
  rfl
theorem ldrec (k : BitVec 5) (a : BitVec 7) : Statement (.ldrec k a) := by
  intro hw _ z he
  have F0 : fx z 26 6 = 40 := by rw [← Option.some.inj he, fx, bits_13_5_7_7_0 _ _ (by decide) (by decide)]; rfl
  have F1 : fx z 19 7 = 0 := by rw [← Option.some.inj he, fx, bits_13_5_7_7_0 _ _ (by decide) (by decide)]; rfl
  have F2 : fx z 0 7 = 0 := by rw [← Option.some.inj he, fx, bits_13_5_7_7_3 _ _ (by decide) (by decide)]; rfl
  have E0 : z.extractLsb' 14 5 = k := by rw [← Option.some.inj he, bits_13_5_7_7_1 _ _ (by decide) (by decide)]; exact ext_full k
  have E1 : z.extractLsb' 7 7 = a := by rw [← Option.some.inj he, bits_13_5_7_7_2 _ _ (by decide) (by decide)]; exact ext_full a
  refine of_row hw F0 (by decide) ?_
  rw [decodeRow, F0]
  show decodeRow28 z = _
  rw [decodeRow28, F1, F2, E0, E1]
  rfl
theorem strec (a : BitVec 7) (k : BitVec 5) : Statement (.strec a k) := by
  intro hw _ z he
  have F0 : fx z 26 6 = 40 := by rw [← Option.some.inj he, fx, bits_18_7_2_5_0 _ _ (by decide) (by decide)]; rfl
  have F1 : fx z 19 7 = 4 := by rw [← Option.some.inj he, fx, bits_18_7_2_5_0 _ _ (by decide) (by decide)]; rfl
  have F2 : fx z 14 12 = 128 := by rw [← Option.some.inj he, fx, bits_18_7_2_5_0 _ _ (by decide) (by decide)]; rfl
  have F3 : fx z 5 2 = 0 := by rw [← Option.some.inj he, fx, bits_18_7_2_5_2 _ _ (by decide) (by decide)]; rfl
  have E0 : z.extractLsb' 7 7 = a := by rw [← Option.some.inj he, bits_18_7_2_5_1 _ _ (by decide) (by decide)]; exact ext_full a
  have E1 : z.extractLsb' 0 5 = k := by rw [← Option.some.inj he, bits_18_7_2_5_3 _ _ (by decide) (by decide)]; exact ext_full k
  refine of_row hw F0 (by decide) ?_
  rw [decodeRow, F0]
  show decodeRow28 z = _
  rw [decodeRow28, F1, F2, F3, E0, E1]
  rfl
theorem mkrec (k : BitVec 5) (a : BitVec 7) : Statement (.mkrec k a) := by
  intro hw _ z he
  have F0 : fx z 26 6 = 40 := by rw [← Option.some.inj he, fx, bits_13_5_7_7_0 _ _ (by decide) (by decide)]; rfl
  have F1 : fx z 19 7 = 8 := by rw [← Option.some.inj he, fx, bits_13_5_7_7_0 _ _ (by decide) (by decide)]; rfl
  have F2 : fx z 0 7 = 0 := by rw [← Option.some.inj he, fx, bits_13_5_7_7_3 _ _ (by decide) (by decide)]; rfl
  have E0 : z.extractLsb' 14 5 = k := by rw [← Option.some.inj he, bits_13_5_7_7_1 _ _ (by decide) (by decide)]; exact ext_full k
  have E1 : z.extractLsb' 7 7 = a := by rw [← Option.some.inj he, bits_13_5_7_7_2 _ _ (by decide) (by decide)]; exact ext_full a
  have N0 : (fx z 14 12 == 128) = false := sub_ne F1 (by decide) (by decide) (by decide)
  refine of_row hw F0 (by decide) ?_
  rw [decodeRow, F0]
  show decodeRow28 z = _
  rw [decodeRow28, N0, F1, F2, E0, E1]
  rfl
theorem kmov (d : BitVec 5) (a : BitVec 5) : Statement (.kmov d a) := by
  intro hw _ z he
  have F0 : fx z 26 6 = 40 := by rw [← Option.some.inj he, fx, bits_13_5_2_5_7_0 _ _ (by decide) (by decide)]; rfl
  have F1 : fx z 19 7 = 12 := by rw [← Option.some.inj he, fx, bits_13_5_2_5_7_0 _ _ (by decide) (by decide)]; rfl
  have F2 : fx z 12 2 = 0 := by rw [← Option.some.inj he, fx, bits_13_5_2_5_7_2 _ _ (by decide) (by decide)]; rfl
  have F3 : fx z 0 7 = 0 := by rw [← Option.some.inj he, fx, bits_13_5_2_5_7_4 _ _ (by decide) (by decide)]; rfl
  have E0 : z.extractLsb' 14 5 = d := by rw [← Option.some.inj he, bits_13_5_2_5_7_1 _ _ (by decide) (by decide)]; exact ext_full d
  have E1 : z.extractLsb' 7 5 = a := by rw [← Option.some.inj he, bits_13_5_2_5_7_3 _ _ (by decide) (by decide)]; exact ext_full a
  refine of_row hw F0 (by decide) ?_
  rw [decodeRow, F0]
  show decodeRow28 z = _
  rw [decodeRow28, F1, F2, F3, E0, E1]
  rfl
theorem fence (k : BitVec 7) : Statement (.fence k) := by
  intro hw _ z he
  have F0 : fx z 26 6 = 41 := by rw [← Option.some.inj he, fx, bits_25_7_0 _ _ (by decide) (by decide)]; rfl
  have F1 : fx z 7 19 = 0 := by rw [← Option.some.inj he, fx, bits_25_7_0 _ _ (by decide) (by decide)]; rfl
  have E0 : z.extractLsb' 0 7 = k := by rw [← Option.some.inj he, bits_25_7_1 _ _ (by decide) (by decide)]; exact ext_full k
  have N0 : (fx z 0 26 == 2097152) = false := sub_ne F1 (by decide) (by decide) (by decide)
  refine of_row hw F0 (by decide) ?_
  rw [decodeRow, F0]
  show decodeRow29 z = _
  rw [decodeRow29, N0, F1, E0]
  rfl
theorem rfence : Statement (.rfence) := by
  intro _ _ w he
  obtain rfl := Option.some.inj he
  rfl
theorem pf (a : BitVec 7) (l : BitVec 7) : Statement (.pf a l) := by
  intro hw _ z he
  have F0 : fx z 26 6 = 41 := by rw [← Option.some.inj he, fx, bits_18_7_7_0 _ _ (by decide) (by decide)]; rfl
  have F1 : fx z 14 12 = 256 := by rw [← Option.some.inj he, fx, bits_18_7_7_0 _ _ (by decide) (by decide)]; rfl
  have E0 : z.extractLsb' 7 7 = a := by rw [← Option.some.inj he, bits_18_7_7_1 _ _ (by decide) (by decide)]; exact ext_full a
  have E1 : z.extractLsb' 0 7 = l := by rw [← Option.some.inj he, bits_18_7_7_2 _ _ (by decide) (by decide)]; exact ext_full l
  have N0 : (fx z 0 26 == 2097152) = false := sub_ne F1 (by decide) (by decide) (by decide)
  have N1 : (fx z 7 19 == 0) = false := sub_ne F1 (by decide) (by decide) (by decide)
  refine of_row hw F0 (by decide) ?_
  rw [decodeRow, F0]
  show decodeRow29 z = _
  rw [decodeRow29, N0, N1, F1, E0, E1]
  rfl
theorem flush (a : BitVec 7) (b : BitVec 7) : Statement (.flush a b) := by
  intro hw _ z he
  have F0 : fx z 26 6 = 41 := by rw [← Option.some.inj he, fx, bits_18_7_7_0 _ _ (by decide) (by decide)]; rfl
  have F1 : fx z 14 12 = 384 := by rw [← Option.some.inj he, fx, bits_18_7_7_0 _ _ (by decide) (by decide)]; rfl
  have E0 : z.extractLsb' 7 7 = a := by rw [← Option.some.inj he, bits_18_7_7_1 _ _ (by decide) (by decide)]; exact ext_full a
  have E1 : z.extractLsb' 0 7 = b := by rw [← Option.some.inj he, bits_18_7_7_2 _ _ (by decide) (by decide)]; exact ext_full b
  have N0 : (fx z 0 26 == 2097152) = false := sub_ne F1 (by decide) (by decide) (by decide)
  have N1 : (fx z 7 19 == 0) = false := sub_ne F1 (by decide) (by decide) (by decide)
  refine of_row hw F0 (by decide) ?_
  rw [decodeRow, F0]
  show decodeRow29 z = _
  rw [decodeRow29, N0, N1, F1, E0, E1]
  rfl
theorem inval (a : BitVec 7) (b : BitVec 7) : Statement (.inval a b) := by
  intro hw _ z he
  have F0 : fx z 26 6 = 41 := by rw [← Option.some.inj he, fx, bits_18_7_7_0 _ _ (by decide) (by decide)]; rfl
  have F1 : fx z 14 12 = 512 := by rw [← Option.some.inj he, fx, bits_18_7_7_0 _ _ (by decide) (by decide)]; rfl
  have E0 : z.extractLsb' 7 7 = a := by rw [← Option.some.inj he, bits_18_7_7_1 _ _ (by decide) (by decide)]; exact ext_full a
  have E1 : z.extractLsb' 0 7 = b := by rw [← Option.some.inj he, bits_18_7_7_2 _ _ (by decide) (by decide)]; exact ext_full b
  have N0 : (fx z 0 26 == 2097152) = false := sub_ne F1 (by decide) (by decide) (by decide)
  have N1 : (fx z 7 19 == 0) = false := sub_ne F1 (by decide) (by decide) (by decide)
  refine of_row hw F0 (by decide) ?_
  rw [decodeRow, F0]
  show decodeRow29 z = _
  rw [decodeRow29, N0, N1, F1, E0, E1]
  rfl
theorem cpy32 (t : BitVec 3) (k : BitVec 5) (a : BitVec 7) (b : BitVec 7) : Statement (.cpy32 t k a b) := by
  intro hw _ z he
  have F0 : fx z 26 6 = 42 := by rw [← Option.some.inj he, fx, bits_6_3_5_7_7_4_0 _ _ (by decide) (by decide)]; rfl
  have F1 : fx z 0 4 = 0 := by rw [← Option.some.inj he, fx, bits_6_3_5_7_7_4_5 _ _ (by decide) (by decide)]; rfl
  have E0 : z.extractLsb' 23 3 = t := by rw [← Option.some.inj he, bits_6_3_5_7_7_4_1 _ _ (by decide) (by decide)]; exact ext_full t
  have E1 : z.extractLsb' 18 5 = k := by rw [← Option.some.inj he, bits_6_3_5_7_7_4_2 _ _ (by decide) (by decide)]; exact ext_full k
  have E2 : z.extractLsb' 11 7 = a := by rw [← Option.some.inj he, bits_6_3_5_7_7_4_3 _ _ (by decide) (by decide)]; exact ext_full a
  have E3 : z.extractLsb' 4 7 = b := by rw [← Option.some.inj he, bits_6_3_5_7_7_4_4 _ _ (by decide) (by decide)]; exact ext_full b
  have N0 : (fx z 0 23 == 3) = false := sub_ne F1 (by decide) (by decide) (by decide)
  have N1 : (fx z 0 11 == 4) = false := sub_ne F1 (by decide) (by decide) (by decide)
  refine of_row hw F0 (by decide) ?_
  rw [decodeRow, F0]
  show decodeRow2A z = _
  rw [decodeRow2A, N0, N1, F1, E0, E1, E2, E3]
  simp
theorem stage (a : BitVec 7) (b : BitVec 7) : Statement (.stage a b) := by
  intro hw _ z he
  have F0 : fx z 26 6 = 42 := by rw [← Option.some.inj he, fx, bits_14_7_7_4_0 _ _ (by decide) (by decide)]; rfl
  have F1 : fx z 0 4 = 1 := by rw [← Option.some.inj he, fx, bits_14_7_7_4_3 _ _ (by decide) (by decide)]; rfl
  have F2 : fx z 18 8 = 0 := by rw [← Option.some.inj he, fx, bits_14_7_7_4_0 _ _ (by decide) (by decide)]; rfl
  have E0 : z.extractLsb' 11 7 = a := by rw [← Option.some.inj he, bits_14_7_7_4_1 _ _ (by decide) (by decide)]; exact ext_full a
  have E1 : z.extractLsb' 4 7 = b := by rw [← Option.some.inj he, bits_14_7_7_4_2 _ _ (by decide) (by decide)]; exact ext_full b
  have N0 : (fx z 0 23 == 3) = false := sub_ne F1 (by decide) (by decide) (by decide)
  have N1 : (fx z 0 11 == 4) = false := sub_ne F1 (by decide) (by decide) (by decide)
  refine of_row hw F0 (by decide) ?_
  rw [decodeRow, F0]
  show decodeRow2A z = _
  rw [decodeRow2A, N0, N1, F2, F1, E0, E1]
  simp
theorem waitge (a : BitVec 7) (b : BitVec 7) : Statement (.waitge a b) := by
  intro hw _ z he
  have F0 : fx z 26 6 = 42 := by rw [← Option.some.inj he, fx, bits_14_7_7_4_0 _ _ (by decide) (by decide)]; rfl
  have F1 : fx z 0 4 = 2 := by rw [← Option.some.inj he, fx, bits_14_7_7_4_3 _ _ (by decide) (by decide)]; rfl
  have F2 : fx z 18 8 = 0 := by rw [← Option.some.inj he, fx, bits_14_7_7_4_0 _ _ (by decide) (by decide)]; rfl
  have E0 : z.extractLsb' 11 7 = a := by rw [← Option.some.inj he, bits_14_7_7_4_1 _ _ (by decide) (by decide)]; exact ext_full a
  have E1 : z.extractLsb' 4 7 = b := by rw [← Option.some.inj he, bits_14_7_7_4_2 _ _ (by decide) (by decide)]; exact ext_full b
  have N0 : (fx z 0 23 == 3) = false := sub_ne F1 (by decide) (by decide) (by decide)
  have N1 : (fx z 0 11 == 4) = false := sub_ne F1 (by decide) (by decide) (by decide)
  refine of_row hw F0 (by decide) ?_
  rw [decodeRow, F0]
  show decodeRow2A z = _
  rw [decodeRow2A, N0, N1, F1, F2, E0, E1]
  simp
theorem qfence (q : BitVec 3) : Statement (.qfence q) := by
  intro hw _ z he
  have F0 : fx z 26 6 = 42 := by rw [← Option.some.inj he, fx, bits_6_3_23_0 _ _ (by decide) (by decide)]; rfl
  have F1 : fx z 0 23 = 3 := by rw [← Option.some.inj he, fx, bits_6_3_23_2 _ _ (by decide) (by decide)]; rfl
  have E0 : z.extractLsb' 23 3 = q := by rw [← Option.some.inj he, bits_6_3_23_1 _ _ (by decide) (by decide)]; exact ext_full q
  refine of_row hw F0 (by decide) ?_
  rw [decodeRow, F0]
  show decodeRow2A z = _
  rw [decodeRow2A, F1, E0]
  rfl
theorem rdstage (d : BitVec 7) : Statement (.rdstage d) := by
  intro hw _ z he
  have F0 : fx z 26 6 = 42 := by rw [← Option.some.inj he, fx, bits_14_7_11_0 _ _ (by decide) (by decide)]; rfl
  have F1 : fx z 0 11 = 4 := by rw [← Option.some.inj he, fx, bits_14_7_11_2 _ _ (by decide) (by decide)]; rfl
  have F2 : fx z 18 8 = 0 := by rw [← Option.some.inj he, fx, bits_14_7_11_0 _ _ (by decide) (by decide)]; rfl
  have E0 : z.extractLsb' 11 7 = d := by rw [← Option.some.inj he, bits_14_7_11_1 _ _ (by decide) (by decide)]; exact ext_full d
  have N0 : (fx z 0 23 == 3) = false := sub_ne F1 (by decide) (by decide) (by decide)
  refine of_row hw F0 (by decide) ?_
  rw [decodeRow, F0]
  show decodeRow2A z = _
  rw [decodeRow2A, N0, F2, F1, E0]
  rfl
theorem gbMeet (b : BitVec 7) : Statement (.gbMeet b) := by
  intro hw _ z he
  have F0 : fx z 26 6 = 43 := by rw [← Option.some.inj he, fx, bits_25_7_0 _ _ (by decide) (by decide)]; rfl
  have F1 : fx z 7 19 = 0 := by rw [← Option.some.inj he, fx, bits_25_7_0 _ _ (by decide) (by decide)]; rfl
  have E0 : z.extractLsb' 0 7 = b := by rw [← Option.some.inj he, bits_25_7_1 _ _ (by decide) (by decide)]; exact ext_full b
  refine of_row hw F0 (by decide) ?_
  rw [decodeRow, F0]
  show decodeRow2B z = _
  rw [decodeRow2B, F1, E0]
  rfl
theorem gbPost (b : BitVec 7) : Statement (.gbPost b) := by
  intro hw _ z he
  have F0 : fx z 26 6 = 43 := by rw [← Option.some.inj he, fx, bits_25_7_0 _ _ (by decide) (by decide)]; rfl
  have F1 : fx z 7 19 = 16384 := by rw [← Option.some.inj he, fx, bits_25_7_0 _ _ (by decide) (by decide)]; rfl
  have E0 : z.extractLsb' 0 7 = b := by rw [← Option.some.inj he, bits_25_7_1 _ _ (by decide) (by decide)]; exact ext_full b
  refine of_row hw F0 (by decide) ?_
  rw [decodeRow, F0]
  show decodeRow2B z = _
  rw [decodeRow2B, F1, E0]
  rfl
theorem gbAwait (b : BitVec 7) : Statement (.gbAwait b) := by
  intro hw _ z he
  have F0 : fx z 26 6 = 43 := by rw [← Option.some.inj he, fx, bits_25_7_0 _ _ (by decide) (by decide)]; rfl
  have F1 : fx z 7 19 = 32768 := by rw [← Option.some.inj he, fx, bits_25_7_0 _ _ (by decide) (by decide)]; rfl
  have E0 : z.extractLsb' 0 7 = b := by rw [← Option.some.inj he, bits_25_7_1 _ _ (by decide) (by decide)]; exact ext_full b
  refine of_row hw F0 (by decide) ?_
  rw [decodeRow, F0]
  show decodeRow2B z = _
  rw [decodeRow2B, F1, E0]
  rfl
theorem gbAwaitPar (q : BitVec 1) (b : BitVec 7) : Statement (.gbAwaitPar q b) := by
  intro hw _ z he
  have F0 : fx z 26 6 = 43 := by rw [← Option.some.inj he, fx, bits_17_1_7_7_0 _ _ (by decide) (by decide)]; rfl
  have F1 : fx z 15 11 = 129 := by rw [← Option.some.inj he, fx, bits_17_1_7_7_0 _ _ (by decide) (by decide)]; rfl
  have F2 : fx z 7 7 = 0 := by rw [← Option.some.inj he, fx, bits_17_1_7_7_2 _ _ (by decide) (by decide)]; rfl
  have E0 : z.extractLsb' 14 1 = q := by rw [← Option.some.inj he, bits_17_1_7_7_1 _ _ (by decide) (by decide)]; exact ext_full q
  have E1 : z.extractLsb' 0 7 = b := by rw [← Option.some.inj he, bits_17_1_7_7_3 _ _ (by decide) (by decide)]; exact ext_full b
  have N0 : (fx z 7 19 == 0) = false := sub_ne F1 (by decide) (by decide) (by decide)
  have N1 : (fx z 7 19 == 16384) = false := sub_ne F1 (by decide) (by decide) (by decide)
  have N2 : (fx z 7 19 == 32768) = false := sub_ne F1 (by decide) (by decide) (by decide)
  refine of_row hw F0 (by decide) ?_
  rw [decodeRow, F0]
  show decodeRow2B z = _
  rw [decodeRow2B, N0, N1, N2, F1, F2, E0, E1]
  rfl
theorem gbBytes (a : BitVec 7) (b : BitVec 7) : Statement (.gbBytes a b) := by
  intro hw _ z he
  have F0 : fx z 26 6 = 43 := by rw [← Option.some.inj he, fx, bits_18_7_7_0 _ _ (by decide) (by decide)]; rfl
  have F1 : fx z 14 12 = 384 := by rw [← Option.some.inj he, fx, bits_18_7_7_0 _ _ (by decide) (by decide)]; rfl
  have F2 : fx z 15 11 = 192 := by rw [← Option.some.inj he, fx, bits_18_7_7_0 _ _ (by decide) (by decide)]; rfl
  have E0 : z.extractLsb' 7 7 = a := by rw [← Option.some.inj he, bits_18_7_7_1 _ _ (by decide) (by decide)]; exact ext_full a
  have E1 : z.extractLsb' 0 7 = b := by rw [← Option.some.inj he, bits_18_7_7_2 _ _ (by decide) (by decide)]; exact ext_full b
  have N0 : (fx z 7 19 == 0) = false := sub_ne F1 (by decide) (by decide) (by decide)
  have N1 : (fx z 7 19 == 16384) = false := sub_ne F1 (by decide) (by decide) (by decide)
  have N2 : (fx z 7 19 == 32768) = false := sub_ne F1 (by decide) (by decide) (by decide)
  refine of_row hw F0 (by decide) ?_
  rw [decodeRow, F0]
  show decodeRow2B z = _
  rw [decodeRow2B, N0, N1, N2, F2, F1, E0, E1]
  rfl
theorem gbMembers (a : BitVec 7) (b : BitVec 7) : Statement (.gbMembers a b) := by
  intro hw _ z he
  have F0 : fx z 26 6 = 43 := by rw [← Option.some.inj he, fx, bits_18_7_7_0 _ _ (by decide) (by decide)]; rfl
  have F1 : fx z 14 12 = 385 := by rw [← Option.some.inj he, fx, bits_18_7_7_0 _ _ (by decide) (by decide)]; rfl
  have F2 : fx z 15 11 = 192 := by rw [← Option.some.inj he, fx, bits_18_7_7_0 _ _ (by decide) (by decide)]; rfl
  have E0 : z.extractLsb' 7 7 = a := by rw [← Option.some.inj he, bits_18_7_7_1 _ _ (by decide) (by decide)]; exact ext_full a
  have E1 : z.extractLsb' 0 7 = b := by rw [← Option.some.inj he, bits_18_7_7_2 _ _ (by decide) (by decide)]; exact ext_full b
  have N0 : (fx z 7 19 == 0) = false := sub_ne F1 (by decide) (by decide) (by decide)
  have N1 : (fx z 7 19 == 16384) = false := sub_ne F1 (by decide) (by decide) (by decide)
  have N2 : (fx z 7 19 == 32768) = false := sub_ne F1 (by decide) (by decide) (by decide)
  refine of_row hw F0 (by decide) ?_
  rw [decodeRow, F0]
  show decodeRow2B z = _
  rw [decodeRow2B, N0, N1, N2, F2, F1, E0, E1]
  rfl
theorem mbArm (a : BitVec 7) (b : BitVec 7) : Statement (.mbArm a b) := by
  intro hw _ z he
  have F0 : fx z 26 6 = 43 := by rw [← Option.some.inj he, fx, bits_18_7_7_0 _ _ (by decide) (by decide)]; rfl
  have F1 : fx z 14 12 = 512 := by rw [← Option.some.inj he, fx, bits_18_7_7_0 _ _ (by decide) (by decide)]; rfl
  have F2 : fx z 15 11 = 256 := by rw [← Option.some.inj he, fx, bits_18_7_7_0 _ _ (by decide) (by decide)]; rfl
  have E0 : z.extractLsb' 7 7 = a := by rw [← Option.some.inj he, bits_18_7_7_1 _ _ (by decide) (by decide)]; exact ext_full a
  have E1 : z.extractLsb' 0 7 = b := by rw [← Option.some.inj he, bits_18_7_7_2 _ _ (by decide) (by decide)]; exact ext_full b
  have N0 : (fx z 7 19 == 0) = false := sub_ne F1 (by decide) (by decide) (by decide)
  have N1 : (fx z 7 19 == 16384) = false := sub_ne F1 (by decide) (by decide) (by decide)
  have N2 : (fx z 7 19 == 32768) = false := sub_ne F1 (by decide) (by decide) (by decide)
  refine of_row hw F0 (by decide) ?_
  rw [decodeRow, F0]
  show decodeRow2B z = _
  rw [decodeRow2B, N0, N1, N2, F2, F1, E0, E1]
  rfl
theorem mbPost (d : BitVec 7) (a : BitVec 7) (b : BitVec 7) : Statement (.mbPost d a b) := by
  intro hw _ z he
  have F0 : fx z 26 6 = 43 := by rw [← Option.some.inj he, fx, bits_11_7_7_7_0 _ _ (by decide) (by decide)]; rfl
  have F1 : fx z 21 5 = 5 := by rw [← Option.some.inj he, fx, bits_11_7_7_7_0 _ _ (by decide) (by decide)]; rfl
  have E0 : z.extractLsb' 14 7 = d := by rw [← Option.some.inj he, bits_11_7_7_7_1 _ _ (by decide) (by decide)]; exact ext_full d
  have E1 : z.extractLsb' 7 7 = a := by rw [← Option.some.inj he, bits_11_7_7_7_2 _ _ (by decide) (by decide)]; exact ext_full a
  have E2 : z.extractLsb' 0 7 = b := by rw [← Option.some.inj he, bits_11_7_7_7_3 _ _ (by decide) (by decide)]; exact ext_full b
  have N0 : (fx z 7 19 == 0) = false := sub_ne F1 (by decide) (by decide) (by decide)
  have N1 : (fx z 7 19 == 16384) = false := sub_ne F1 (by decide) (by decide) (by decide)
  have N2 : (fx z 7 19 == 32768) = false := sub_ne F1 (by decide) (by decide) (by decide)
  have N3 : (fx z 15 11 == 129) = false := sub_ne F1 (by decide) (by decide) (by decide)
  have N4 : (fx z 14 12 == 384) = false := sub_ne F1 (by decide) (by decide) (by decide)
  have N5 : (fx z 14 12 == 385) = false := sub_ne F1 (by decide) (by decide) (by decide)
  have N6 : (fx z 14 12 == 512) = false := sub_ne F1 (by decide) (by decide) (by decide)
  have N7 : (fx z 14 12 == 768) = false := sub_ne F1 (by decide) (by decide) (by decide)
  have N8 : (fx z 14 12 == 896) = false := sub_ne F1 (by decide) (by decide) (by decide)
  refine of_row hw F0 (by decide) ?_
  rw [decodeRow, F0]
  show decodeRow2B z = _
  rw [decodeRow2B, N0, N1, N2, N3, N4, N5, N6, N7, N8, F1, E0, E1, E2]
  rfl
theorem mbBytes (a : BitVec 7) (b : BitVec 7) : Statement (.mbBytes a b) := by
  intro hw _ z he
  have F0 : fx z 26 6 = 43 := by rw [← Option.some.inj he, fx, bits_18_7_7_0 _ _ (by decide) (by decide)]; rfl
  have F1 : fx z 14 12 = 768 := by rw [← Option.some.inj he, fx, bits_18_7_7_0 _ _ (by decide) (by decide)]; rfl
  have F2 : fx z 15 11 = 384 := by rw [← Option.some.inj he, fx, bits_18_7_7_0 _ _ (by decide) (by decide)]; rfl
  have E0 : z.extractLsb' 7 7 = a := by rw [← Option.some.inj he, bits_18_7_7_1 _ _ (by decide) (by decide)]; exact ext_full a
  have E1 : z.extractLsb' 0 7 = b := by rw [← Option.some.inj he, bits_18_7_7_2 _ _ (by decide) (by decide)]; exact ext_full b
  have N0 : (fx z 7 19 == 0) = false := sub_ne F1 (by decide) (by decide) (by decide)
  have N1 : (fx z 7 19 == 16384) = false := sub_ne F1 (by decide) (by decide) (by decide)
  have N2 : (fx z 7 19 == 32768) = false := sub_ne F1 (by decide) (by decide) (by decide)
  refine of_row hw F0 (by decide) ?_
  rw [decodeRow, F0]
  show decodeRow2B z = _
  rw [decodeRow2B, N0, N1, N2, F2, F1, E0, E1]
  rfl
theorem mbAwait (a : BitVec 7) (b : BitVec 7) : Statement (.mbAwait a b) := by
  intro hw _ z he
  have F0 : fx z 26 6 = 43 := by rw [← Option.some.inj he, fx, bits_18_7_7_0 _ _ (by decide) (by decide)]; rfl
  have F1 : fx z 14 12 = 896 := by rw [← Option.some.inj he, fx, bits_18_7_7_0 _ _ (by decide) (by decide)]; rfl
  have F2 : fx z 15 11 = 448 := by rw [← Option.some.inj he, fx, bits_18_7_7_0 _ _ (by decide) (by decide)]; rfl
  have E0 : z.extractLsb' 7 7 = a := by rw [← Option.some.inj he, bits_18_7_7_1 _ _ (by decide) (by decide)]; exact ext_full a
  have E1 : z.extractLsb' 0 7 = b := by rw [← Option.some.inj he, bits_18_7_7_2 _ _ (by decide) (by decide)]; exact ext_full b
  have N0 : (fx z 7 19 == 0) = false := sub_ne F1 (by decide) (by decide) (by decide)
  have N1 : (fx z 7 19 == 16384) = false := sub_ne F1 (by decide) (by decide) (by decide)
  have N2 : (fx z 7 19 == 32768) = false := sub_ne F1 (by decide) (by decide) (by decide)
  refine of_row hw F0 (by decide) ?_
  rw [decodeRow, F0]
  show decodeRow2B z = _
  rw [decodeRow2B, N0, N1, N2, F2, F1, E0, E1]
  rfl
theorem nemit (n : BitVec 7) (v : BitVec 7) : Statement (.nemit n v) := by
  intro hw _ z he
  have F0 : fx z 26 6 = 44 := by rw [← Option.some.inj he, fx, bits_18_7_7_0 _ _ (by decide) (by decide)]; rfl
  have F1 : fx z 14 12 = 0 := by rw [← Option.some.inj he, fx, bits_18_7_7_0 _ _ (by decide) (by decide)]; rfl
  have E0 : z.extractLsb' 7 7 = n := by rw [← Option.some.inj he, bits_18_7_7_1 _ _ (by decide) (by decide)]; exact ext_full n
  have E1 : z.extractLsb' 0 7 = v := by rw [← Option.some.inj he, bits_18_7_7_2 _ _ (by decide) (by decide)]; exact ext_full v
  refine of_row hw F0 (by decide) ?_
  rw [decodeRow, F0]
  show decodeRow2C z = _
  rw [decodeRow2C, F1, E0, E1]
  rfl
theorem coll (a : BitVec 7) : Statement (.coll a) := by
  intro hw _ z he
  have F0 : fx z 26 6 = 44 := by rw [← Option.some.inj he, fx, bits_18_7_7_0 _ _ (by decide) (by decide)]; rfl
  have F1 : fx z 14 12 = 128 := by rw [← Option.some.inj he, fx, bits_18_7_7_0 _ _ (by decide) (by decide)]; rfl
  have F2 : fx z 0 7 = 0 := by rw [← Option.some.inj he, fx, bits_18_7_7_2 _ _ (by decide) (by decide)]; rfl
  have E0 : z.extractLsb' 7 7 = a := by rw [← Option.some.inj he, bits_18_7_7_1 _ _ (by decide) (by decide)]; exact ext_full a
  refine of_row hw F0 (by decide) ?_
  rw [decodeRow, F0]
  show decodeRow2C z = _
  rw [decodeRow2C, F1, F2, E0]
  rfl
theorem mma (f : BitVec 4) (s : BitVec 4) (v : BitVec 7) (p : BitVec 7) : Statement (.mma f s v p) := by
  intro hw _ z he
  have F0 : fx z 26 6 = 48 := by rw [← Option.some.inj he, fx, bits_6_4_4_4_7_7_0 _ _ (by decide) (by decide)]; rfl
  have F1 : fx z 14 4 = 0 := by rw [← Option.some.inj he, fx, bits_6_4_4_4_7_7_3 _ _ (by decide) (by decide)]; rfl
  have E0 : z.extractLsb' 22 4 = f := by rw [← Option.some.inj he, bits_6_4_4_4_7_7_1 _ _ (by decide) (by decide)]; exact ext_full f
  have E1 : z.extractLsb' 18 4 = s := by rw [← Option.some.inj he, bits_6_4_4_4_7_7_2 _ _ (by decide) (by decide)]; exact ext_full s
  have E2 : z.extractLsb' 7 7 = v := by rw [← Option.some.inj he, bits_6_4_4_4_7_7_4 _ _ (by decide) (by decide)]; exact ext_full v
  have E3 : z.extractLsb' 0 7 = p := by rw [← Option.some.inj he, bits_6_4_4_4_7_7_5 _ _ (by decide) (by decide)]; exact ext_full p
  refine of_row hw F0 (by decide) ?_
  rw [decodeRow, F0]
  show decodeRow30 z = _
  rw [decodeRow30, F1, E0, E1, E2, E3]
  rfl
theorem mmaSat (f : BitVec 4) (s : BitVec 4) (v : BitVec 7) (p : BitVec 7) : Statement (.mmaSat f s v p) := by
  intro hw _ z he
  have F0 : fx z 26 6 = 48 := by rw [← Option.some.inj he, fx, bits_6_4_4_4_7_7_0 _ _ (by decide) (by decide)]; rfl
  have F1 : fx z 14 4 = 1 := by rw [← Option.some.inj he, fx, bits_6_4_4_4_7_7_3 _ _ (by decide) (by decide)]; rfl
  have E0 : z.extractLsb' 22 4 = f := by rw [← Option.some.inj he, bits_6_4_4_4_7_7_1 _ _ (by decide) (by decide)]; exact ext_full f
  have E1 : z.extractLsb' 18 4 = s := by rw [← Option.some.inj he, bits_6_4_4_4_7_7_2 _ _ (by decide) (by decide)]; exact ext_full s
  have E2 : z.extractLsb' 7 7 = v := by rw [← Option.some.inj he, bits_6_4_4_4_7_7_4 _ _ (by decide) (by decide)]; exact ext_full v
  have E3 : z.extractLsb' 0 7 = p := by rw [← Option.some.inj he, bits_6_4_4_4_7_7_5 _ _ (by decide) (by decide)]; exact ext_full p
  refine of_row hw F0 (by decide) ?_
  rw [decodeRow, F0]
  show decodeRow30 z = _
  rw [decodeRow30, F1, E0, E1, E2, E3]
  rfl
theorem tzero (w : BitVec 4) (p : BitVec 7) : Statement (.tzero w p) := by
  intro hw _ z he
  have F0 : fx z 26 6 = 49 := by rw [← Option.some.inj he, fx, bits_10_4_11_7_0 _ _ (by decide) (by decide)]; rfl
  have F1 : fx z 22 4 = 0 := by rw [← Option.some.inj he, fx, bits_10_4_11_7_0 _ _ (by decide) (by decide)]; rfl
  have F2 : fx z 7 11 = 0 := by rw [← Option.some.inj he, fx, bits_10_4_11_7_2 _ _ (by decide) (by decide)]; rfl
  have E0 : z.extractLsb' 18 4 = w := by rw [← Option.some.inj he, bits_10_4_11_7_1 _ _ (by decide) (by decide)]; exact ext_full w
  have E1 : z.extractLsb' 0 7 = p := by rw [← Option.some.inj he, bits_10_4_11_7_3 _ _ (by decide) (by decide)]; exact ext_full p
  refine of_row hw F0 (by decide) ?_
  rw [decodeRow, F0]
  show decodeRow31 z = _
  rw [decodeRow31, F1, F2, E0, E1]
  rfl
theorem tld (f : BitVec 4) (w : BitVec 4) (v : BitVec 7) (p : BitVec 7) : Statement (.tld f w v p) := by
  intro hw _ z he
  have F0 : fx z 26 6 = 49 := by rw [← Option.some.inj he, fx, bits_6_4_4_4_7_7_0 _ _ (by decide) (by decide)]; rfl
  have F1 : fx z 14 4 = 1 := by rw [← Option.some.inj he, fx, bits_6_4_4_4_7_7_3 _ _ (by decide) (by decide)]; rfl
  have E0 : z.extractLsb' 22 4 = f := by rw [← Option.some.inj he, bits_6_4_4_4_7_7_1 _ _ (by decide) (by decide)]; exact ext_full f
  have E1 : z.extractLsb' 18 4 = w := by rw [← Option.some.inj he, bits_6_4_4_4_7_7_2 _ _ (by decide) (by decide)]; exact ext_full w
  have E2 : z.extractLsb' 7 7 = v := by rw [← Option.some.inj he, bits_6_4_4_4_7_7_4 _ _ (by decide) (by decide)]; exact ext_full v
  have E3 : z.extractLsb' 0 7 = p := by rw [← Option.some.inj he, bits_6_4_4_4_7_7_5 _ _ (by decide) (by decide)]; exact ext_full p
  have N0 : (fx z 7 11 == 0) = false := sub_ne F1 (by decide) (by decide) (by decide)
  refine of_row hw F0 (by decide) ?_
  rw [decodeRow, F0]
  show decodeRow31 z = _
  rw [decodeRow31, N0, F1, E0, E1, E2, E3]
  simp
theorem tst (f : BitVec 4) (w : BitVec 4) (v : BitVec 7) (p : BitVec 7) : Statement (.tst f w v p) := by
  intro hw _ z he
  have F0 : fx z 26 6 = 49 := by rw [← Option.some.inj he, fx, bits_6_4_4_4_7_7_0 _ _ (by decide) (by decide)]; rfl
  have F1 : fx z 14 4 = 2 := by rw [← Option.some.inj he, fx, bits_6_4_4_4_7_7_3 _ _ (by decide) (by decide)]; rfl
  have E0 : z.extractLsb' 22 4 = f := by rw [← Option.some.inj he, bits_6_4_4_4_7_7_1 _ _ (by decide) (by decide)]; exact ext_full f
  have E1 : z.extractLsb' 18 4 = w := by rw [← Option.some.inj he, bits_6_4_4_4_7_7_2 _ _ (by decide) (by decide)]; exact ext_full w
  have E2 : z.extractLsb' 7 7 = v := by rw [← Option.some.inj he, bits_6_4_4_4_7_7_4 _ _ (by decide) (by decide)]; exact ext_full v
  have E3 : z.extractLsb' 0 7 = p := by rw [← Option.some.inj he, bits_6_4_4_4_7_7_5 _ _ (by decide) (by decide)]; exact ext_full p
  have N0 : (fx z 7 11 == 0) = false := sub_ne F1 (by decide) (by decide) (by decide)
  refine of_row hw F0 (by decide) ?_
  rw [decodeRow, F0]
  show decodeRow31 z = _
  rw [decodeRow31, N0, F1, E0, E1, E2, E3]
  simp
theorem tget (m : BitVec 4) (v : BitVec 7) (p : BitVec 7) : Statement (.tget m v p) := by
  intro hw _ z he
  have F0 : fx z 26 6 = 49 := by rw [← Option.some.inj he, fx, bits_10_4_4_7_7_0 _ _ (by decide) (by decide)]; rfl
  have F1 : fx z 14 4 = 3 := by rw [← Option.some.inj he, fx, bits_10_4_4_7_7_2 _ _ (by decide) (by decide)]; rfl
  have F2 : fx z 22 4 = 0 := by rw [← Option.some.inj he, fx, bits_10_4_4_7_7_0 _ _ (by decide) (by decide)]; rfl
  have E0 : z.extractLsb' 18 4 = m := by rw [← Option.some.inj he, bits_10_4_4_7_7_1 _ _ (by decide) (by decide)]; exact ext_full m
  have E1 : z.extractLsb' 7 7 = v := by rw [← Option.some.inj he, bits_10_4_4_7_7_3 _ _ (by decide) (by decide)]; exact ext_full v
  have E2 : z.extractLsb' 0 7 = p := by rw [← Option.some.inj he, bits_10_4_4_7_7_4 _ _ (by decide) (by decide)]; exact ext_full p
  have N0 : (fx z 7 11 == 0) = false := sub_ne F1 (by decide) (by decide) (by decide)
  refine of_row hw F0 (by decide) ?_
  rw [decodeRow, F0]
  show decodeRow31 z = _
  rw [decodeRow31, N0, F2, F1, E0, E1, E2]
  simp
theorem tfill (m : BitVec 4) (v : BitVec 7) (p : BitVec 7) : Statement (.tfill m v p) := by
  intro hw _ z he
  have F0 : fx z 26 6 = 49 := by rw [← Option.some.inj he, fx, bits_10_4_4_7_7_0 _ _ (by decide) (by decide)]; rfl
  have F1 : fx z 14 4 = 4 := by rw [← Option.some.inj he, fx, bits_10_4_4_7_7_2 _ _ (by decide) (by decide)]; rfl
  have F2 : fx z 22 4 = 0 := by rw [← Option.some.inj he, fx, bits_10_4_4_7_7_0 _ _ (by decide) (by decide)]; rfl
  have E0 : z.extractLsb' 18 4 = m := by rw [← Option.some.inj he, bits_10_4_4_7_7_1 _ _ (by decide) (by decide)]; exact ext_full m
  have E1 : z.extractLsb' 7 7 = v := by rw [← Option.some.inj he, bits_10_4_4_7_7_3 _ _ (by decide) (by decide)]; exact ext_full v
  have E2 : z.extractLsb' 0 7 = p := by rw [← Option.some.inj he, bits_10_4_4_7_7_4 _ _ (by decide) (by decide)]; exact ext_full p
  have N0 : (fx z 7 11 == 0) = false := sub_ne F1 (by decide) (by decide) (by decide)
  refine of_row hw F0 (by decide) ?_
  rw [decodeRow, F0]
  show decodeRow31 z = _
  rw [decodeRow31, N0, F1, F2, E0, E1, E2]
  simp
theorem mcommit : Statement (.mcommit) := by
  intro _ _ w he
  obtain rfl := Option.some.inj he
  rfl
theorem mwait (n : BitVec 7) : Statement (.mwait n) := by
  intro hw _ z he
  have F0 : fx z 26 6 = 50 := by rw [← Option.some.inj he, fx, bits_25_7_0 _ _ (by decide) (by decide)]; rfl
  have F1 : fx z 7 19 = 128 := by rw [← Option.some.inj he, fx, bits_25_7_0 _ _ (by decide) (by decide)]; rfl
  have E0 : z.extractLsb' 0 7 = n := by rw [← Option.some.inj he, bits_25_7_1 _ _ (by decide) (by decide)]; exact ext_full n
  have N0 : (fx z 0 26 == 0) = false := sub_ne F1 (by decide) (by decide) (by decide)
  refine of_row hw F0 (by decide) ?_
  rw [decodeRow, F0]
  show decodeRow32 z = _
  rw [decodeRow32, N0, F1, E0]
  rfl
theorem registerResultWritten (r : WRef) (shadows : List ShadowReading) : Statement (.registerResultWritten r shadows) := no_word rfl
theorem shadowRerunDone (r : WRef) (u : UnitId) (pass : Bool) : Statement (.shadowRerunDone r u pass) := no_word rfl
theorem columnRecheckDone (core : Nat) (col : Nat) (pass : Bool) : Statement (.columnRecheckDone core col pass) := no_word rfl
theorem selfCheckStep (u : UnitId) (pass : Bool) : Statement (.selfCheckStep u pass) := no_word rfl
theorem mowingHold (u : UnitId) : Statement (.mowingHold u) := no_word rfl
theorem evacuationComplete (u : UnitId) : Statement (.evacuationComplete u) := no_word rfl
theorem rewritePoint (core : Nat) (table : SteerTable) : Statement (.rewritePoint core table) := no_word rfl
theorem columnTableRewrite (core : Nat) : Statement (.columnTableRewrite core) := no_word rfl
theorem loadReturn (r : WRef) (seq : Nat) : Statement (.loadReturn r seq) := no_word rfl
theorem storeLeavesQueue (r : WRef) : Statement (.storeLeavesQueue r) := no_word rfl
theorem scratchAccessPerformed (r : WRef) (seq : Nat) : Statement (.scratchAccessPerformed r seq) := no_word rfl
theorem recordReturn (r : WRef) (seq : Nat) : Statement (.recordReturn r seq) := no_word rfl
theorem atomicPerformed (r : WRef) (seq : Nat) : Statement (.atomicPerformed r seq) := no_word rfl
theorem ifetchFillDone (core ctx va : Nat) : Statement (.ifetchFillDone core ctx va) := no_word rfl
theorem translationWalkDone (core ctx va : Nat) : Statement (.translationWalkDone core ctx va) := no_word rfl
theorem sleepTimerLapse (r : WRef) : Statement (.sleepTimerLapse r) := no_word rfl
theorem haltBroadcast (r : WRef) : Statement (.haltBroadcast r) := no_word rfl
theorem watchdog (g : GRef) : Statement (.watchdog g) := no_word rfl
theorem warpDrained (r : WRef) : Statement (.warpDrained r) := no_word rfl
theorem arrivalApplied (r : WRef) (b : Nat) : Statement (.arrivalApplied r b) := no_word rfl
theorem writeNotice (x : Watcher) : Statement (.writeNotice x) := no_word rfl
theorem rereadInterval (x : Watcher) : Statement (.rereadInterval x) := no_word rfl
theorem scheduleReadDone (g : GRef) : Statement (.scheduleReadDone g) := no_word rfl
theorem copyEntryStart (r : WRef) : Statement (.copyEntryStart r) := no_word rfl
theorem copyHoldRenew (r : WRef) : Statement (.copyHoldRenew r) := no_word rfl
theorem copyDataLanded (r : WRef) : Statement (.copyDataLanded r) := no_word rfl
theorem cpy32Complete (r : WRef) : Statement (.cpy32Complete r) := no_word rfl
theorem operandLatchTake (r : WRef) (seq : Nat) : Statement (.operandLatchTake r seq) := no_word rfl
theorem gatherDone (r : WRef) (seq : Nat) : Statement (.gatherDone r seq) := no_word rfl
theorem columnChunkGrant (core : Nat) : Statement (.columnChunkGrant core) := no_word rfl
theorem columnChunkDone (core : Nat) (shadows : List ShadowReading) : Statement (.columnChunkDone core shadows) := no_word rfl
theorem engineIdle (core : Nat) : Statement (.engineIdle core) := no_word rfl
theorem accMovePerformed (r : WRef) : Statement (.accMovePerformed r) := no_word rfl
theorem dispatchSelect : Statement (.dispatchSelect) := no_word rfl
theorem quantumExpiry (g : GRef) : Statement (.quantumExpiry g) := no_word rfl
theorem evictReturnAreaReady (g : GRef) : Statement (.evictReturnAreaReady g) := no_word rfl
theorem diversionEntryFree (core : Nat) (g : GRef) : Statement (.diversionEntryFree core g) := no_word rfl
theorem evictionComplete (g : GRef) : Statement (.evictionComplete g) := no_word rfl
theorem divertedArrival (r : WRef) (seq : Nat) : Statement (.divertedArrival r seq) := no_word rfl
theorem gleaningComplete (g : GRef) : Statement (.gleaningComplete g) := no_word rfl
theorem migrationDecision (g : GRef) (target : Nat) : Statement (.migrationDecision g target) := no_word rfl
theorem migrationStreamEnd (g : GRef) : Statement (.migrationStreamEnd g) := no_word rfl
theorem haltComplete (g : GRef) : Statement (.haltComplete g) := no_word rfl
theorem trapQueueSlotFree (ctx : Nat) : Statement (.trapQueueSlotFree ctx) := no_word rfl
theorem packetNop (q : Nat) : Statement (.packetNop q) := no_word rfl
theorem gridLaunch (q : Nat) : Statement (.gridLaunch q) := no_word rfl
theorem nodeBind (q : Nat) : Statement (.nodeBind q) := no_word rfl
theorem nodeUnbind (q : Nat) : Statement (.nodeUnbind q) := no_word rfl
theorem nodeUnbindComplete (ctx node : Nat) : Statement (.nodeUnbindComplete ctx node) := no_word rfl
theorem indirectBuffer (q : Nat) : Statement (.indirectBuffer q) := no_word rfl
theorem waitPacket (q : Nat) : Statement (.waitPacket q) := no_word rfl
theorem signalPacket (q : Nat) : Statement (.signalPacket q) := no_word rfl
theorem recordFence (q : Nat) : Statement (.recordFence q) := no_word rfl
theorem contextFence (q : Nat) : Statement (.contextFence q) := no_word rfl
theorem queueWaitSatisfied (q : Nat) : Statement (.queueWaitSatisfied q) := no_word rfl
theorem launchComplete (ctx seq : Nat) : Statement (.launchComplete ctx seq) := no_word rfl
theorem nodeRecordOffer (r : WRef) (seq : Nat) : Statement (.nodeRecordOffer r seq) := no_word rfl
theorem nodeTimerLapse (ctx node : Nat) : Statement (.nodeTimerLapse ctx node) := no_word rfl
theorem batchFreeFormation (ctx node : Nat) : Statement (.batchFreeFormation ctx node) := no_word rfl
theorem create (tenant : Nat) (block : List (BitVec 8)) : Statement (.create tenant block) := no_word rfl
theorem destroy (c : Cmd) : Statement (.destroy c) := no_word rfl
theorem destroyComplete (ctx : Nat) : Statement (.destroyComplete ctx) := no_word rfl
theorem suspend (c : Cmd) : Statement (.suspend c) := no_word rfl
theorem suspendComplete (ctx : Nat) : Statement (.suspendComplete ctx) := no_word rfl
theorem resume (c : Cmd) : Statement (.resume c) := no_word rfl
theorem queueAdd (tenant : Nat) (block : List (BitVec 8)) : Statement (.queueAdd tenant block) := no_word rfl
theorem queueStart (tenant : Nat) (block : List (BitVec 8)) : Statement (.queueStart tenant block) := no_word rfl
theorem queueStop (tenant : Nat) (block : List (BitVec 8)) : Statement (.queueStop tenant block) := no_word rfl
theorem queueReset (tenant : Nat) (block : List (BitVec 8)) : Statement (.queueReset tenant block) := no_word rfl
theorem groupResume (tenant : Nat) (block : List (BitVec 8)) (edits : List Edit) : Statement (.groupResume tenant block edits) := no_word rfl
theorem groupAbort (c : Cmd) : Statement (.groupAbort c) := no_word rfl
theorem setQuantum (tenant : Nat) (block : List (BitVec 8)) : Statement (.setQuantum tenant block) := no_word rfl
theorem migrate (tenant : Nat) (block : List (BitVec 8)) : Statement (.migrate tenant block) := no_word rfl
theorem migrateComplete (ctx : Nat) : Statement (.migrateComplete ctx) := no_word rfl
theorem pageBringIn (ctx va : Nat) (backing : Option (List (BitVec 8))) : Statement (.pageBringIn ctx va backing) := no_word rfl
theorem invalidationRequest (tenant : Nat) (req : List (BitVec 8)) : Statement (.invalidationRequest tenant req) := no_word rfl
theorem invalidationComplete (tenant : Nat) : Statement (.invalidationComplete tenant) := no_word rfl
theorem dirtySectorWriteback (core pa : Nat) : Statement (.dirtySectorWriteback core pa) := no_word rfl
theorem channelRetirement (ch : Nat) : Statement (.channelRetirement ch) := no_word rfl
theorem granuleCopyStart : Statement (.granuleCopyStart) := no_word rfl
theorem granuleCopyEnd : Statement (.granuleCopyEnd) := no_word rfl
theorem sliceRetirement (slice : Nat) : Statement (.sliceRetirement slice) := no_word rfl
theorem scrubSector (sector : Nat) (found : SectorCheck) : Statement (.scrubSector sector found) := no_word rfl
theorem stileRelease (ctx seq : Nat) : Statement (.stileRelease ctx seq) := no_word rfl
theorem hostAccess (tenant pa len : Nat) (data : Option (List (BitVec 8))) : Statement (.hostAccess tenant pa len data) := no_word rfl
theorem linkId (id : BitVec 11) : Statement (.linkId id) := no_word rfl
theorem portEnable (p : Nat) : Statement (.portEnable p) := no_word rfl
theorem portTrained (p strands : Nat) (conflict : Bool) : Statement (.portTrained p strands conflict) := no_word rfl
theorem portRetrain (p : Nat) (ok : Bool) : Statement (.portRetrain p ok) := no_word rfl
theorem portDisable (p : Nat) : Statement (.portDisable p) := no_word rfl
theorem portDrained (p : Nat) : Statement (.portDrained p) := no_word rfl
theorem strandRetire (p strand : Nat) : Statement (.strandRetire p strand) := no_word rfl
theorem flitReceive (p : Nat) (seq : BitVec 16) (crcOk : Bool) (body : FlitBody) : Statement (.flitReceive p seq crcOk body) := no_word rfl
theorem flitNak (p : Nat) (nak : Nak) : Statement (.flitNak p nak) := no_word rfl
theorem remoteOperation (op : RemoteOp) : Statement (.remoteOperation op) := no_word rfl
theorem collEntryPerform (r : WRef) : Statement (.collEntryPerform r) := no_word rfl
theorem collPeerData (r : WRef) (rank : Nat) (record : List (BitVec 8)) (data : List (BitVec 32)) : Statement (.collPeerData r rank record data) := no_word rfl
theorem collComplete (r : WRef) : Statement (.collComplete r) := no_word rfl
theorem bringUp (x : BootInput) : Statement (.bringUp x) := no_word rfl
theorem mailboxMessage (src dst : Nat) : Statement (.mailboxMessage src dst) := no_word rfl
theorem powerSample (x : PowerInput) : Statement (.powerSample x) := no_word rfl
theorem attestRequest : Statement (.attestRequest) := no_word rfl
theorem diagRetirementRecords : Statement (.diagRetirementRecords) := no_word rfl
theorem diagCoreDump (operand : BitVec 64) : Statement (.diagCoreDump operand) := no_word rfl
theorem diagRevive (operand : BitVec 64) (pass : Bool) : Statement (.diagRevive operand pass) := no_word rfl
theorem diagVacate (operand : BitVec 64) : Statement (.diagVacate operand) := no_word rfl
theorem diagVacateEnd (operand : BitVec 64) : Statement (.diagVacateEnd operand) := no_word rfl
theorem diagSlotTable : Statement (.diagSlotTable) := no_word rfl
theorem eventCauseClear (bits : BitVec 64) : Statement (.eventCauseClear bits) := no_word rfl
theorem tenantSet (tenant record : Nat) : Statement (.tenantSet tenant record) := no_word rfl
theorem tenantClear (tenant : Nat) : Statement (.tenantClear tenant) := no_word rfl
theorem keyLoad (key blob : Nat) : Statement (.keyLoad key blob) := no_word rfl
theorem keyClear (key : Nat) : Statement (.keyClear key) := no_word rfl
theorem linkGrant (record : Nat) : Statement (.linkGrant record) := no_word rfl
theorem linkRevoke (record : Nat) : Statement (.linkRevoke record) := no_word rfl
theorem registerWrite (off : Nat) (val : BitVec 64) : Statement (.registerWrite off val) := no_word rfl
theorem illPacket : Statement (.illPacket) := no_word rfl
theorem illOp (w : BitVec 32) : Statement (.illOp w) := fun _ h => absurd rfl (h w).1
theorem futureOp (w : BitVec 32) : Statement (.futureOp w) := fun _ h => absurd rfl (h w).2
theorem scratchPageSwitchDone (g : GRef) (page : Nat) : Statement (.scratchPageSwitchDone g page) := no_word rfl
theorem writeBackLanded (r : WRef) : Statement (.writeBackLanded r) := no_word rfl
theorem powerOff : Statement (.powerOff) := no_word rfl
theorem hostErrorQueueSlotFree (tenant : Nat) : Statement (.hostErrorQueueSlotFree tenant) := no_word rfl
theorem unlistedCommandCode (x : CommandWindow) (block : List (BitVec 8)) : Statement (.unlistedCommandCode x block) := no_word rfl
theorem splitLaunchArrival (ctx : Nat) (x : SplitLaunch) : Statement (.splitLaunchArrival ctx x) := no_word rfl
theorem targetCompletionReport (ctx seq : Nat) : Statement (.targetCompletionReport ctx seq) := no_word rfl

end Sys2Proof.Laws.RoundTrip
end

