-- ==== Sys2Proof/Laws/State.lean ====
section
/-!
SUPPORT. One lemma for each field that a named update of the registers or of the state leaves as it is, so that no proof
unfolds a record update.
-/
namespace Sys2Proof.Machine

/-! ### Register updates -/

@[simp] theorem Regs.vset_s (r : Regs) (n : BitVec 7) (x : Lanes Word) : (r.vset n x).s = r.s := rfl
@[simp] theorem Regs.vset_p (r : Regs) (n : BitVec 7) (x : Lanes Word) : (r.vset n x).p = r.p := rfl
@[simp] theorem Regs.vset_c (r : Regs) (n : BitVec 7) (x : Lanes Word) : (r.vset n x).c = r.c := rfl
@[simp] theorem Regs.vset_k (r : Regs) (n : BitVec 7) (x : Lanes Word) : (r.vset n x).k = r.k := rfl
@[simp] theorem Regs.vset_chn (r : Regs) (n : BitVec 7) (x : Lanes Word) : (r.vset n x).chn = r.chn := rfl
@[simp] theorem Regs.vset_carry (r : Regs) (n : BitVec 7) (x : Lanes Word) : (r.vset n x).carry = r.carry := rfl
@[simp] theorem Regs.vset_draw (r : Regs) (n : BitVec 7) (x : Lanes Word) : (r.vset n x).draw = r.draw := rfl
@[simp] theorem Regs.sset_v (r : Regs) (n : BitVec 7) (x : Word) : (r.sset n x).v = r.v := rfl
@[simp] theorem Regs.sset_p (r : Regs) (n : BitVec 7) (x : Word) : (r.sset n x).p = r.p := rfl
@[simp] theorem Regs.sset_c (r : Regs) (n : BitVec 7) (x : Word) : (r.sset n x).c = r.c := rfl
@[simp] theorem Regs.sset_k (r : Regs) (n : BitVec 7) (x : Word) : (r.sset n x).k = r.k := rfl
@[simp] theorem Regs.sset_chn (r : Regs) (n : BitVec 7) (x : Word) : (r.sset n x).chn = r.chn := rfl
@[simp] theorem Regs.sset_carry (r : Regs) (n : BitVec 7) (x : Word) : (r.sset n x).carry = r.carry := rfl
@[simp] theorem Regs.sset_draw (r : Regs) (n : BitVec 7) (x : Word) : (r.sset n x).draw = r.draw := rfl
@[simp] theorem Regs.cset_v (r : Regs) (n : Nat) (b : Bool) : (r.cset n b).v = r.v := rfl
@[simp] theorem Regs.cset_s (r : Regs) (n : Nat) (b : Bool) : (r.cset n b).s = r.s := rfl
@[simp] theorem Regs.cset_p (r : Regs) (n : Nat) (b : Bool) : (r.cset n b).p = r.p := rfl
@[simp] theorem Regs.cset_k (r : Regs) (n : Nat) (b : Bool) : (r.cset n b).k = r.k := rfl
@[simp] theorem Regs.cset_chn (r : Regs) (n : Nat) (b : Bool) : (r.cset n b).chn = r.chn := rfl
@[simp] theorem Regs.cset_carry (r : Regs) (n : Nat) (b : Bool) : (r.cset n b).carry = r.carry := rfl
@[simp] theorem Regs.cset_draw (r : Regs) (n : Nat) (b : Bool) : (r.cset n b).draw = r.draw := rfl
@[simp] theorem Regs.spairSet_v (r : Regs) (n : BitVec 7) (x : DWord) : (r.spairSet n x).v = r.v := rfl
@[simp] theorem Regs.spairSet_p (r : Regs) (n : BitVec 7) (x : DWord) : (r.spairSet n x).p = r.p := rfl
@[simp] theorem Regs.spairSet_c (r : Regs) (n : BitVec 7) (x : DWord) : (r.spairSet n x).c = r.c := rfl
@[simp] theorem Regs.spairSet_k (r : Regs) (n : BitVec 7) (x : DWord) : (r.spairSet n x).k = r.k := rfl
@[simp] theorem Regs.spairSet_chn (r : Regs) (n : BitVec 7) (x : DWord) : (r.spairSet n x).chn = r.chn := rfl
@[simp] theorem Regs.spairSet_carry (r : Regs) (n : BitVec 7) (x : DWord) : (r.spairSet n x).carry = r.carry := rfl
@[simp] theorem Regs.spairSet_draw (r : Regs) (n : BitVec 7) (x : DWord) : (r.spairSet n x).draw = r.draw := rfl
@[simp] theorem Regs.tripleSet_v (r : Regs) (n : BitVec 7) (m : LaneMask) : (r.tripleSet n m).v = r.v := rfl
@[simp] theorem Regs.tripleSet_p (r : Regs) (n : BitVec 7) (m : LaneMask) : (r.tripleSet n m).p = r.p := rfl
@[simp] theorem Regs.tripleSet_c (r : Regs) (n : BitVec 7) (m : LaneMask) : (r.tripleSet n m).c = r.c := rfl
@[simp] theorem Regs.tripleSet_k (r : Regs) (n : BitVec 7) (m : LaneMask) : (r.tripleSet n m).k = r.k := rfl
@[simp] theorem Regs.tripleSet_chn (r : Regs) (n : BitVec 7) (m : LaneMask) : (r.tripleSet n m).chn = r.chn := rfl
@[simp] theorem Regs.tripleSet_carry (r : Regs) (n : BitVec 7) (m : LaneMask) : (r.tripleSet n m).carry = r.carry := rfl
@[simp] theorem Regs.tripleSet_draw (r : Regs) (n : BitVec 7) (m : LaneMask) : (r.tripleSet n m).draw = r.draw := rfl
@[simp] theorem Regs.maskSet_v (r : Regs) (m : LaneMask) : (r.maskSet m).v = r.v := rfl
@[simp] theorem Regs.maskSet_p (r : Regs) (m : LaneMask) : (r.maskSet m).p = r.p := rfl
@[simp] theorem Regs.maskSet_c (r : Regs) (m : LaneMask) : (r.maskSet m).c = r.c := rfl
@[simp] theorem Regs.maskSet_k (r : Regs) (m : LaneMask) : (r.maskSet m).k = r.k := rfl
@[simp] theorem Regs.maskSet_chn (r : Regs) (m : LaneMask) : (r.maskSet m).chn = r.chn := rfl
@[simp] theorem Regs.maskSet_carry (r : Regs) (m : LaneMask) : (r.maskSet m).carry = r.carry := rfl
@[simp] theorem Regs.maskSet_draw (r : Regs) (m : LaneMask) : (r.maskSet m).draw = r.draw := rfl
@[simp] theorem Regs.pset_v (r : Regs) (n : Nat) (x : LaneMask) : (r.pset n x).v = r.v := by
  unfold Regs.pset; split <;> rfl
@[simp] theorem Regs.pset_s (r : Regs) (n : Nat) (x : LaneMask) : (r.pset n x).s = r.s := by
  unfold Regs.pset; split <;> rfl
@[simp] theorem Regs.pset_c (r : Regs) (n : Nat) (x : LaneMask) : (r.pset n x).c = r.c := by
  unfold Regs.pset; split <;> rfl
@[simp] theorem Regs.pset_k (r : Regs) (n : Nat) (x : LaneMask) : (r.pset n x).k = r.k := by
  unfold Regs.pset; split <;> rfl
@[simp] theorem Regs.pset_chn (r : Regs) (n : Nat) (x : LaneMask) : (r.pset n x).chn = r.chn := by
  unfold Regs.pset; split <;> rfl
@[simp] theorem Regs.pset_carry (r : Regs) (n : Nat) (x : LaneMask) : (r.pset n x).carry = r.carry := by
  unfold Regs.pset; split <;> rfl
@[simp] theorem Regs.pset_draw (r : Regs) (n : Nat) (x : LaneMask) : (r.pset n x).draw = r.draw := by
  unfold Regs.pset; split <;> rfl
@[simp] theorem Regs.kset_v (r : Regs) (n : Nat) (x : BitVec 256) : (r.kset n x).v = r.v := by
  unfold Regs.kset; split <;> rfl
@[simp] theorem Regs.kset_s (r : Regs) (n : Nat) (x : BitVec 256) : (r.kset n x).s = r.s := by
  unfold Regs.kset; split <;> rfl
@[simp] theorem Regs.kset_p (r : Regs) (n : Nat) (x : BitVec 256) : (r.kset n x).p = r.p := by
  unfold Regs.kset; split <;> rfl
@[simp] theorem Regs.kset_c (r : Regs) (n : Nat) (x : BitVec 256) : (r.kset n x).c = r.c := by
  unfold Regs.kset; split <;> rfl
@[simp] theorem Regs.kset_chn (r : Regs) (n : Nat) (x : BitVec 256) : (r.kset n x).chn = r.chn := by
  unfold Regs.kset; split <;> rfl
@[simp] theorem Regs.kset_carry (r : Regs) (n : Nat) (x : BitVec 256) : (r.kset n x).carry = r.carry := by
  unfold Regs.kset; split <;> rfl
@[simp] theorem Regs.kset_draw (r : Regs) (n : Nat) (x : BitVec 256) : (r.kset n x).draw = r.draw := by
  unfold Regs.kset; split <;> rfl

/-! ### State updates -/

@[simp] theorem State.mapRegs_g (s : State) (f : Regs → Regs) : (s.mapRegs f).g = s.g := rfl
@[simp] theorem State.mapRegs_iss (s : State) (f : Regs → Regs) : (s.mapRegs f).iss = s.iss := rfl
@[simp] theorem State.mapRegs_groups (s : State) (f : Regs → Regs) : (s.mapRegs f).groups = s.groups := rfl
@[simp] theorem State.mapRegs_cores (s : State) (f : Regs → Regs) : (s.mapRegs f).cores = s.cores := rfl
@[simp] theorem State.mapRegs_dies (s : State) (f : Regs → Regs) : (s.mapRegs f).dies = s.dies := rfl
@[simp] theorem State.mapRegs_mem (s : State) (f : Regs → Regs) : (s.mapRegs f).mem = s.mem := rfl
@[simp] theorem State.mapRegs_poison (s : State) (f : Regs → Regs) : (s.mapRegs f).poison = s.poison := rfl
@[simp] theorem State.mapRegs_sectorKey (s : State) (f : Regs → Regs) : (s.mapRegs f).sectorKey = s.sectorKey := rfl
@[simp] theorem State.mapRegs_slots (s : State) (f : Regs → Regs) : (s.mapRegs f).slots = s.slots := rfl
@[simp] theorem State.mapRegs_channels (s : State) (f : Regs → Regs) : (s.mapRegs f).channels = s.channels := rfl
@[simp] theorem State.mapRegs_moving (s : State) (f : Regs → Regs) : (s.mapRegs f).moving = s.moving := rfl
@[simp] theorem State.mapRegs_parked (s : State) (f : Regs → Regs) : (s.mapRegs f).parked = s.parked := rfl
@[simp] theorem State.mapRegs_slices (s : State) (f : Regs → Regs) : (s.mapRegs f).slices = s.slices := rfl
@[simp] theorem State.mapRegs_chanSlice (s : State) (f : Regs → Regs) : (s.mapRegs f).chanSlice = s.chanSlice := rfl
@[simp] theorem State.mapRegs_scStamp (s : State) (f : Regs → Regs) : (s.mapRegs f).scStamp = s.scStamp := rfl
@[simp] theorem State.mapRegs_scHigh (s : State) (f : Regs → Regs) : (s.mapRegs f).scHigh = s.scHigh := rfl
@[simp] theorem State.mapRegs_tenants (s : State) (f : Regs → Regs) : (s.mapRegs f).tenants = s.tenants := rfl
@[simp] theorem State.mapRegs_ctxs (s : State) (f : Regs → Regs) : (s.mapRegs f).ctxs = s.ctxs := rfl
@[simp] theorem State.mapRegs_queues (s : State) (f : Regs → Regs) : (s.mapRegs f).queues = s.queues := rfl
@[simp] theorem State.mapRegs_launches (s : State) (f : Regs → Regs) : (s.mapRegs f).launches = s.launches := rfl
@[simp] theorem State.mapRegs_nodes (s : State) (f : Regs → Regs) : (s.mapRegs f).nodes = s.nodes := rfl
@[simp] theorem State.mapRegs_invalid (s : State) (f : Regs → Regs) : (s.mapRegs f).invalid = s.invalid := rfl
@[simp] theorem State.mapRegs_noPage (s : State) (f : Regs → Regs) : (s.mapRegs f).noPage = s.noPage := rfl
@[simp] theorem State.mapRegs_flaws (s : State) (f : Regs → Regs) : (s.mapRegs f).flaws = s.flaws := rfl
@[simp] theorem State.mapRegs_fwHeld (s : State) (f : Regs → Regs) : (s.mapRegs f).fwHeld = s.fwHeld := rfl
@[simp] theorem State.mapRegs_links (s : State) (f : Regs → Regs) : (s.mapRegs f).links = s.links := rfl
@[simp] theorem State.mapRegs_flash (s : State) (f : Regs → Regs) : (s.mapRegs f).flash = s.flash := rfl
@[simp] theorem State.mapRegs_switor (s : State) (f : Regs → Regs) : (s.mapRegs f).switor = s.switor := rfl
@[simp] theorem State.mapRegs_time (s : State) (f : Regs → Regs) : (s.mapRegs f).time = s.time := rfl
@[simp] theorem State.mapRegs_dispatchNo (s : State) (f : Regs → Regs) : (s.mapRegs f).dispatchNo = s.dispatchNo := rfl
@[simp] theorem State.mapRegs_lastServed (s : State) (f : Regs → Regs) : (s.mapRegs f).lastServed = s.lastServed := rfl
@[simp] theorem State.mapRegs_issueNo (s : State) (f : Regs → Regs) : (s.mapRegs f).issueNo = s.issueNo := rfl
@[simp] theorem State.mapRegs_agenda (s : State) (f : Regs → Regs) : (s.mapRegs f).agenda = s.agenda := rfl
@[simp] theorem State.mapRegs_tick (s : State) (f : Regs → Regs) : (s.mapRegs f).tick = s.tick := rfl
@[simp] theorem State.writeS_g (s : State) (d : BitVec 7) (x : Word) : (s.writeS d x).g = s.g := rfl
@[simp] theorem State.writeS_iss (s : State) (d : BitVec 7) (x : Word) : (s.writeS d x).iss = s.iss := rfl
@[simp] theorem State.writeS_groups (s : State) (d : BitVec 7) (x : Word) : (s.writeS d x).groups = s.groups := rfl
@[simp] theorem State.writeS_cores (s : State) (d : BitVec 7) (x : Word) : (s.writeS d x).cores = s.cores := rfl
@[simp] theorem State.writeS_dies (s : State) (d : BitVec 7) (x : Word) : (s.writeS d x).dies = s.dies := rfl
@[simp] theorem State.writeS_mem (s : State) (d : BitVec 7) (x : Word) : (s.writeS d x).mem = s.mem := rfl
@[simp] theorem State.writeS_poison (s : State) (d : BitVec 7) (x : Word) : (s.writeS d x).poison = s.poison := rfl
@[simp] theorem State.writeS_sectorKey (s : State) (d : BitVec 7) (x : Word) : (s.writeS d x).sectorKey = s.sectorKey := rfl
@[simp] theorem State.writeS_slots (s : State) (d : BitVec 7) (x : Word) : (s.writeS d x).slots = s.slots := rfl
@[simp] theorem State.writeS_channels (s : State) (d : BitVec 7) (x : Word) : (s.writeS d x).channels = s.channels := rfl
@[simp] theorem State.writeS_moving (s : State) (d : BitVec 7) (x : Word) : (s.writeS d x).moving = s.moving := rfl
@[simp] theorem State.writeS_parked (s : State) (d : BitVec 7) (x : Word) : (s.writeS d x).parked = s.parked := rfl
@[simp] theorem State.writeS_slices (s : State) (d : BitVec 7) (x : Word) : (s.writeS d x).slices = s.slices := rfl
@[simp] theorem State.writeS_chanSlice (s : State) (d : BitVec 7) (x : Word) : (s.writeS d x).chanSlice = s.chanSlice := rfl
@[simp] theorem State.writeS_scStamp (s : State) (d : BitVec 7) (x : Word) : (s.writeS d x).scStamp = s.scStamp := rfl
@[simp] theorem State.writeS_scHigh (s : State) (d : BitVec 7) (x : Word) : (s.writeS d x).scHigh = s.scHigh := rfl
@[simp] theorem State.writeS_tenants (s : State) (d : BitVec 7) (x : Word) : (s.writeS d x).tenants = s.tenants := rfl
@[simp] theorem State.writeS_ctxs (s : State) (d : BitVec 7) (x : Word) : (s.writeS d x).ctxs = s.ctxs := rfl
@[simp] theorem State.writeS_queues (s : State) (d : BitVec 7) (x : Word) : (s.writeS d x).queues = s.queues := rfl
@[simp] theorem State.writeS_launches (s : State) (d : BitVec 7) (x : Word) : (s.writeS d x).launches = s.launches := rfl
@[simp] theorem State.writeS_nodes (s : State) (d : BitVec 7) (x : Word) : (s.writeS d x).nodes = s.nodes := rfl
@[simp] theorem State.writeS_invalid (s : State) (d : BitVec 7) (x : Word) : (s.writeS d x).invalid = s.invalid := rfl
@[simp] theorem State.writeS_noPage (s : State) (d : BitVec 7) (x : Word) : (s.writeS d x).noPage = s.noPage := rfl
@[simp] theorem State.writeS_flaws (s : State) (d : BitVec 7) (x : Word) : (s.writeS d x).flaws = s.flaws := rfl
@[simp] theorem State.writeS_fwHeld (s : State) (d : BitVec 7) (x : Word) : (s.writeS d x).fwHeld = s.fwHeld := rfl
@[simp] theorem State.writeS_links (s : State) (d : BitVec 7) (x : Word) : (s.writeS d x).links = s.links := rfl
@[simp] theorem State.writeS_flash (s : State) (d : BitVec 7) (x : Word) : (s.writeS d x).flash = s.flash := rfl
@[simp] theorem State.writeS_switor (s : State) (d : BitVec 7) (x : Word) : (s.writeS d x).switor = s.switor := rfl
@[simp] theorem State.writeS_time (s : State) (d : BitVec 7) (x : Word) : (s.writeS d x).time = s.time := rfl
@[simp] theorem State.writeS_dispatchNo (s : State) (d : BitVec 7) (x : Word) : (s.writeS d x).dispatchNo = s.dispatchNo := rfl
@[simp] theorem State.writeS_lastServed (s : State) (d : BitVec 7) (x : Word) : (s.writeS d x).lastServed = s.lastServed := rfl
@[simp] theorem State.writeS_issueNo (s : State) (d : BitVec 7) (x : Word) : (s.writeS d x).issueNo = s.issueNo := rfl
@[simp] theorem State.writeS_agenda (s : State) (d : BitVec 7) (x : Word) : (s.writeS d x).agenda = s.agenda := rfl
@[simp] theorem State.writeS_tick (s : State) (d : BitVec 7) (x : Word) : (s.writeS d x).tick = s.tick := rfl
@[simp] theorem State.writeV_g (s : State) (d : BitVec 7) (x : Lanes Word) : (s.writeV d x).g = s.g := rfl
@[simp] theorem State.writeV_iss (s : State) (d : BitVec 7) (x : Lanes Word) : (s.writeV d x).iss = s.iss := rfl
@[simp] theorem State.writeV_groups (s : State) (d : BitVec 7) (x : Lanes Word) : (s.writeV d x).groups = s.groups := rfl
@[simp] theorem State.writeV_cores (s : State) (d : BitVec 7) (x : Lanes Word) : (s.writeV d x).cores = s.cores := rfl
@[simp] theorem State.writeV_dies (s : State) (d : BitVec 7) (x : Lanes Word) : (s.writeV d x).dies = s.dies := rfl
@[simp] theorem State.writeV_mem (s : State) (d : BitVec 7) (x : Lanes Word) : (s.writeV d x).mem = s.mem := rfl
@[simp] theorem State.writeV_poison (s : State) (d : BitVec 7) (x : Lanes Word) : (s.writeV d x).poison = s.poison := rfl
@[simp] theorem State.writeV_sectorKey (s : State) (d : BitVec 7) (x : Lanes Word) : (s.writeV d x).sectorKey = s.sectorKey := rfl
@[simp] theorem State.writeV_slots (s : State) (d : BitVec 7) (x : Lanes Word) : (s.writeV d x).slots = s.slots := rfl
@[simp] theorem State.writeV_channels (s : State) (d : BitVec 7) (x : Lanes Word) : (s.writeV d x).channels = s.channels := rfl
@[simp] theorem State.writeV_moving (s : State) (d : BitVec 7) (x : Lanes Word) : (s.writeV d x).moving = s.moving := rfl
@[simp] theorem State.writeV_parked (s : State) (d : BitVec 7) (x : Lanes Word) : (s.writeV d x).parked = s.parked := rfl
@[simp] theorem State.writeV_slices (s : State) (d : BitVec 7) (x : Lanes Word) : (s.writeV d x).slices = s.slices := rfl
@[simp] theorem State.writeV_chanSlice (s : State) (d : BitVec 7) (x : Lanes Word) : (s.writeV d x).chanSlice = s.chanSlice := rfl
@[simp] theorem State.writeV_scStamp (s : State) (d : BitVec 7) (x : Lanes Word) : (s.writeV d x).scStamp = s.scStamp := rfl
@[simp] theorem State.writeV_scHigh (s : State) (d : BitVec 7) (x : Lanes Word) : (s.writeV d x).scHigh = s.scHigh := rfl
@[simp] theorem State.writeV_tenants (s : State) (d : BitVec 7) (x : Lanes Word) : (s.writeV d x).tenants = s.tenants := rfl
@[simp] theorem State.writeV_ctxs (s : State) (d : BitVec 7) (x : Lanes Word) : (s.writeV d x).ctxs = s.ctxs := rfl
@[simp] theorem State.writeV_queues (s : State) (d : BitVec 7) (x : Lanes Word) : (s.writeV d x).queues = s.queues := rfl
@[simp] theorem State.writeV_launches (s : State) (d : BitVec 7) (x : Lanes Word) : (s.writeV d x).launches = s.launches := rfl
@[simp] theorem State.writeV_nodes (s : State) (d : BitVec 7) (x : Lanes Word) : (s.writeV d x).nodes = s.nodes := rfl
@[simp] theorem State.writeV_invalid (s : State) (d : BitVec 7) (x : Lanes Word) : (s.writeV d x).invalid = s.invalid := rfl
@[simp] theorem State.writeV_noPage (s : State) (d : BitVec 7) (x : Lanes Word) : (s.writeV d x).noPage = s.noPage := rfl
@[simp] theorem State.writeV_flaws (s : State) (d : BitVec 7) (x : Lanes Word) : (s.writeV d x).flaws = s.flaws := rfl
@[simp] theorem State.writeV_fwHeld (s : State) (d : BitVec 7) (x : Lanes Word) : (s.writeV d x).fwHeld = s.fwHeld := rfl
@[simp] theorem State.writeV_links (s : State) (d : BitVec 7) (x : Lanes Word) : (s.writeV d x).links = s.links := rfl
@[simp] theorem State.writeV_flash (s : State) (d : BitVec 7) (x : Lanes Word) : (s.writeV d x).flash = s.flash := rfl
@[simp] theorem State.writeV_switor (s : State) (d : BitVec 7) (x : Lanes Word) : (s.writeV d x).switor = s.switor := rfl
@[simp] theorem State.writeV_time (s : State) (d : BitVec 7) (x : Lanes Word) : (s.writeV d x).time = s.time := rfl
@[simp] theorem State.writeV_dispatchNo (s : State) (d : BitVec 7) (x : Lanes Word) : (s.writeV d x).dispatchNo = s.dispatchNo := rfl
@[simp] theorem State.writeV_lastServed (s : State) (d : BitVec 7) (x : Lanes Word) : (s.writeV d x).lastServed = s.lastServed := rfl
@[simp] theorem State.writeV_issueNo (s : State) (d : BitVec 7) (x : Lanes Word) : (s.writeV d x).issueNo = s.issueNo := rfl
@[simp] theorem State.writeV_agenda (s : State) (d : BitVec 7) (x : Lanes Word) : (s.writeV d x).agenda = s.agenda := rfl
@[simp] theorem State.writeV_tick (s : State) (d : BitVec 7) (x : Lanes Word) : (s.writeV d x).tick = s.tick := rfl
@[simp] theorem State.writeP_g (s : State) (d : Nat) (x : LaneMask) : (s.writeP d x).g = s.g := rfl
@[simp] theorem State.writeP_iss (s : State) (d : Nat) (x : LaneMask) : (s.writeP d x).iss = s.iss := rfl
@[simp] theorem State.writeP_groups (s : State) (d : Nat) (x : LaneMask) : (s.writeP d x).groups = s.groups := rfl
@[simp] theorem State.writeP_cores (s : State) (d : Nat) (x : LaneMask) : (s.writeP d x).cores = s.cores := rfl
@[simp] theorem State.writeP_dies (s : State) (d : Nat) (x : LaneMask) : (s.writeP d x).dies = s.dies := rfl
@[simp] theorem State.writeP_mem (s : State) (d : Nat) (x : LaneMask) : (s.writeP d x).mem = s.mem := rfl
@[simp] theorem State.writeP_poison (s : State) (d : Nat) (x : LaneMask) : (s.writeP d x).poison = s.poison := rfl
@[simp] theorem State.writeP_sectorKey (s : State) (d : Nat) (x : LaneMask) : (s.writeP d x).sectorKey = s.sectorKey := rfl
@[simp] theorem State.writeP_slots (s : State) (d : Nat) (x : LaneMask) : (s.writeP d x).slots = s.slots := rfl
@[simp] theorem State.writeP_channels (s : State) (d : Nat) (x : LaneMask) : (s.writeP d x).channels = s.channels := rfl
@[simp] theorem State.writeP_moving (s : State) (d : Nat) (x : LaneMask) : (s.writeP d x).moving = s.moving := rfl
@[simp] theorem State.writeP_parked (s : State) (d : Nat) (x : LaneMask) : (s.writeP d x).parked = s.parked := rfl
@[simp] theorem State.writeP_slices (s : State) (d : Nat) (x : LaneMask) : (s.writeP d x).slices = s.slices := rfl
@[simp] theorem State.writeP_chanSlice (s : State) (d : Nat) (x : LaneMask) : (s.writeP d x).chanSlice = s.chanSlice := rfl
@[simp] theorem State.writeP_scStamp (s : State) (d : Nat) (x : LaneMask) : (s.writeP d x).scStamp = s.scStamp := rfl
@[simp] theorem State.writeP_scHigh (s : State) (d : Nat) (x : LaneMask) : (s.writeP d x).scHigh = s.scHigh := rfl
@[simp] theorem State.writeP_tenants (s : State) (d : Nat) (x : LaneMask) : (s.writeP d x).tenants = s.tenants := rfl
@[simp] theorem State.writeP_ctxs (s : State) (d : Nat) (x : LaneMask) : (s.writeP d x).ctxs = s.ctxs := rfl
@[simp] theorem State.writeP_queues (s : State) (d : Nat) (x : LaneMask) : (s.writeP d x).queues = s.queues := rfl
@[simp] theorem State.writeP_launches (s : State) (d : Nat) (x : LaneMask) : (s.writeP d x).launches = s.launches := rfl
@[simp] theorem State.writeP_nodes (s : State) (d : Nat) (x : LaneMask) : (s.writeP d x).nodes = s.nodes := rfl
@[simp] theorem State.writeP_invalid (s : State) (d : Nat) (x : LaneMask) : (s.writeP d x).invalid = s.invalid := rfl
@[simp] theorem State.writeP_noPage (s : State) (d : Nat) (x : LaneMask) : (s.writeP d x).noPage = s.noPage := rfl
@[simp] theorem State.writeP_flaws (s : State) (d : Nat) (x : LaneMask) : (s.writeP d x).flaws = s.flaws := rfl
@[simp] theorem State.writeP_fwHeld (s : State) (d : Nat) (x : LaneMask) : (s.writeP d x).fwHeld = s.fwHeld := rfl
@[simp] theorem State.writeP_links (s : State) (d : Nat) (x : LaneMask) : (s.writeP d x).links = s.links := rfl
@[simp] theorem State.writeP_flash (s : State) (d : Nat) (x : LaneMask) : (s.writeP d x).flash = s.flash := rfl
@[simp] theorem State.writeP_switor (s : State) (d : Nat) (x : LaneMask) : (s.writeP d x).switor = s.switor := rfl
@[simp] theorem State.writeP_time (s : State) (d : Nat) (x : LaneMask) : (s.writeP d x).time = s.time := rfl
@[simp] theorem State.writeP_dispatchNo (s : State) (d : Nat) (x : LaneMask) : (s.writeP d x).dispatchNo = s.dispatchNo := rfl
@[simp] theorem State.writeP_lastServed (s : State) (d : Nat) (x : LaneMask) : (s.writeP d x).lastServed = s.lastServed := rfl
@[simp] theorem State.writeP_issueNo (s : State) (d : Nat) (x : LaneMask) : (s.writeP d x).issueNo = s.issueNo := rfl
@[simp] theorem State.writeP_agenda (s : State) (d : Nat) (x : LaneMask) : (s.writeP d x).agenda = s.agenda := rfl
@[simp] theorem State.writeP_tick (s : State) (d : Nat) (x : LaneMask) : (s.writeP d x).tick = s.tick := rfl
@[simp] theorem State.enqueue_g (s : State) (e : PathEntry) : (s.enqueue e).g = s.g := rfl
@[simp] theorem State.enqueue_iss (s : State) (e : PathEntry) : (s.enqueue e).iss = s.iss := rfl
@[simp] theorem State.enqueue_groups (s : State) (e : PathEntry) : (s.enqueue e).groups = s.groups := rfl
@[simp] theorem State.enqueue_cores (s : State) (e : PathEntry) : (s.enqueue e).cores = s.cores := rfl
@[simp] theorem State.enqueue_dies (s : State) (e : PathEntry) : (s.enqueue e).dies = s.dies := rfl
@[simp] theorem State.enqueue_mem (s : State) (e : PathEntry) : (s.enqueue e).mem = s.mem := rfl
@[simp] theorem State.enqueue_poison (s : State) (e : PathEntry) : (s.enqueue e).poison = s.poison := rfl
@[simp] theorem State.enqueue_sectorKey (s : State) (e : PathEntry) : (s.enqueue e).sectorKey = s.sectorKey := rfl
@[simp] theorem State.enqueue_slots (s : State) (e : PathEntry) : (s.enqueue e).slots = s.slots := rfl
@[simp] theorem State.enqueue_channels (s : State) (e : PathEntry) : (s.enqueue e).channels = s.channels := rfl
@[simp] theorem State.enqueue_moving (s : State) (e : PathEntry) : (s.enqueue e).moving = s.moving := rfl
@[simp] theorem State.enqueue_parked (s : State) (e : PathEntry) : (s.enqueue e).parked = s.parked := rfl
@[simp] theorem State.enqueue_slices (s : State) (e : PathEntry) : (s.enqueue e).slices = s.slices := rfl
@[simp] theorem State.enqueue_chanSlice (s : State) (e : PathEntry) : (s.enqueue e).chanSlice = s.chanSlice := rfl
@[simp] theorem State.enqueue_scStamp (s : State) (e : PathEntry) : (s.enqueue e).scStamp = s.scStamp := rfl
@[simp] theorem State.enqueue_scHigh (s : State) (e : PathEntry) : (s.enqueue e).scHigh = s.scHigh := rfl
@[simp] theorem State.enqueue_tenants (s : State) (e : PathEntry) : (s.enqueue e).tenants = s.tenants := rfl
@[simp] theorem State.enqueue_ctxs (s : State) (e : PathEntry) : (s.enqueue e).ctxs = s.ctxs := rfl
@[simp] theorem State.enqueue_queues (s : State) (e : PathEntry) : (s.enqueue e).queues = s.queues := rfl
@[simp] theorem State.enqueue_launches (s : State) (e : PathEntry) : (s.enqueue e).launches = s.launches := rfl
@[simp] theorem State.enqueue_nodes (s : State) (e : PathEntry) : (s.enqueue e).nodes = s.nodes := rfl
@[simp] theorem State.enqueue_invalid (s : State) (e : PathEntry) : (s.enqueue e).invalid = s.invalid := rfl
@[simp] theorem State.enqueue_noPage (s : State) (e : PathEntry) : (s.enqueue e).noPage = s.noPage := rfl
@[simp] theorem State.enqueue_flaws (s : State) (e : PathEntry) : (s.enqueue e).flaws = s.flaws := rfl
@[simp] theorem State.enqueue_fwHeld (s : State) (e : PathEntry) : (s.enqueue e).fwHeld = s.fwHeld := rfl
@[simp] theorem State.enqueue_links (s : State) (e : PathEntry) : (s.enqueue e).links = s.links := rfl
@[simp] theorem State.enqueue_flash (s : State) (e : PathEntry) : (s.enqueue e).flash = s.flash := rfl
@[simp] theorem State.enqueue_switor (s : State) (e : PathEntry) : (s.enqueue e).switor = s.switor := rfl
@[simp] theorem State.enqueue_time (s : State) (e : PathEntry) : (s.enqueue e).time = s.time := rfl
@[simp] theorem State.enqueue_dispatchNo (s : State) (e : PathEntry) : (s.enqueue e).dispatchNo = s.dispatchNo := rfl
@[simp] theorem State.enqueue_lastServed (s : State) (e : PathEntry) : (s.enqueue e).lastServed = s.lastServed := rfl
@[simp] theorem State.enqueue_issueNo (s : State) (e : PathEntry) : (s.enqueue e).issueNo = s.issueNo := rfl
@[simp] theorem State.enqueue_agenda (s : State) (e : PathEntry) : (s.enqueue e).agenda = s.agenda := rfl
@[simp] theorem State.enqueue_tick (s : State) (e : PathEntry) : (s.enqueue e).tick = s.tick := rfl
@[simp] theorem State.updCore_w (s : State) (k : Nat) (f : Core → Core) : (s.updCore k f).w = s.w := rfl
@[simp] theorem State.updCore_g (s : State) (k : Nat) (f : Core → Core) : (s.updCore k f).g = s.g := rfl
@[simp] theorem State.updCore_iss (s : State) (k : Nat) (f : Core → Core) : (s.updCore k f).iss = s.iss := rfl
@[simp] theorem State.updCore_groups (s : State) (k : Nat) (f : Core → Core) : (s.updCore k f).groups = s.groups := rfl
@[simp] theorem State.updCore_dies (s : State) (k : Nat) (f : Core → Core) : (s.updCore k f).dies = s.dies := rfl
@[simp] theorem State.updCore_mem (s : State) (k : Nat) (f : Core → Core) : (s.updCore k f).mem = s.mem := rfl
@[simp] theorem State.updCore_poison (s : State) (k : Nat) (f : Core → Core) : (s.updCore k f).poison = s.poison := rfl
@[simp] theorem State.updCore_sectorKey (s : State) (k : Nat) (f : Core → Core) : (s.updCore k f).sectorKey = s.sectorKey := rfl
@[simp] theorem State.updCore_slots (s : State) (k : Nat) (f : Core → Core) : (s.updCore k f).slots = s.slots := rfl
@[simp] theorem State.updCore_channels (s : State) (k : Nat) (f : Core → Core) : (s.updCore k f).channels = s.channels := rfl
@[simp] theorem State.updCore_moving (s : State) (k : Nat) (f : Core → Core) : (s.updCore k f).moving = s.moving := rfl
@[simp] theorem State.updCore_parked (s : State) (k : Nat) (f : Core → Core) : (s.updCore k f).parked = s.parked := rfl
@[simp] theorem State.updCore_slices (s : State) (k : Nat) (f : Core → Core) : (s.updCore k f).slices = s.slices := rfl
@[simp] theorem State.updCore_chanSlice (s : State) (k : Nat) (f : Core → Core) : (s.updCore k f).chanSlice = s.chanSlice := rfl
@[simp] theorem State.updCore_scStamp (s : State) (k : Nat) (f : Core → Core) : (s.updCore k f).scStamp = s.scStamp := rfl
@[simp] theorem State.updCore_scHigh (s : State) (k : Nat) (f : Core → Core) : (s.updCore k f).scHigh = s.scHigh := rfl
@[simp] theorem State.updCore_tenants (s : State) (k : Nat) (f : Core → Core) : (s.updCore k f).tenants = s.tenants := rfl
@[simp] theorem State.updCore_ctxs (s : State) (k : Nat) (f : Core → Core) : (s.updCore k f).ctxs = s.ctxs := rfl
@[simp] theorem State.updCore_queues (s : State) (k : Nat) (f : Core → Core) : (s.updCore k f).queues = s.queues := rfl
@[simp] theorem State.updCore_launches (s : State) (k : Nat) (f : Core → Core) : (s.updCore k f).launches = s.launches := rfl
@[simp] theorem State.updCore_nodes (s : State) (k : Nat) (f : Core → Core) : (s.updCore k f).nodes = s.nodes := rfl
@[simp] theorem State.updCore_invalid (s : State) (k : Nat) (f : Core → Core) : (s.updCore k f).invalid = s.invalid := rfl
@[simp] theorem State.updCore_noPage (s : State) (k : Nat) (f : Core → Core) : (s.updCore k f).noPage = s.noPage := rfl
@[simp] theorem State.updCore_flaws (s : State) (k : Nat) (f : Core → Core) : (s.updCore k f).flaws = s.flaws := rfl
@[simp] theorem State.updCore_fwHeld (s : State) (k : Nat) (f : Core → Core) : (s.updCore k f).fwHeld = s.fwHeld := rfl
@[simp] theorem State.updCore_links (s : State) (k : Nat) (f : Core → Core) : (s.updCore k f).links = s.links := rfl
@[simp] theorem State.updCore_flash (s : State) (k : Nat) (f : Core → Core) : (s.updCore k f).flash = s.flash := rfl
@[simp] theorem State.updCore_switor (s : State) (k : Nat) (f : Core → Core) : (s.updCore k f).switor = s.switor := rfl
@[simp] theorem State.updCore_time (s : State) (k : Nat) (f : Core → Core) : (s.updCore k f).time = s.time := rfl
@[simp] theorem State.updCore_dispatchNo (s : State) (k : Nat) (f : Core → Core) : (s.updCore k f).dispatchNo = s.dispatchNo := rfl
@[simp] theorem State.updCore_lastServed (s : State) (k : Nat) (f : Core → Core) : (s.updCore k f).lastServed = s.lastServed := rfl
@[simp] theorem State.updCore_issueNo (s : State) (k : Nat) (f : Core → Core) : (s.updCore k f).issueNo = s.issueNo := rfl
@[simp] theorem State.updCore_agenda (s : State) (k : Nat) (f : Core → Core) : (s.updCore k f).agenda = s.agenda := rfl
@[simp] theorem State.updCore_tick (s : State) (k : Nat) (f : Core → Core) : (s.updCore k f).tick = s.tick := rfl
@[simp] theorem State.updCtx_w (s : State) (c : Nat) (f : Context → Context) : (s.updCtx c f).w = s.w := rfl
@[simp] theorem State.updCtx_g (s : State) (c : Nat) (f : Context → Context) : (s.updCtx c f).g = s.g := rfl
@[simp] theorem State.updCtx_iss (s : State) (c : Nat) (f : Context → Context) : (s.updCtx c f).iss = s.iss := rfl
@[simp] theorem State.updCtx_groups (s : State) (c : Nat) (f : Context → Context) : (s.updCtx c f).groups = s.groups := rfl
@[simp] theorem State.updCtx_cores (s : State) (c : Nat) (f : Context → Context) : (s.updCtx c f).cores = s.cores := rfl
@[simp] theorem State.updCtx_dies (s : State) (c : Nat) (f : Context → Context) : (s.updCtx c f).dies = s.dies := rfl
@[simp] theorem State.updCtx_mem (s : State) (c : Nat) (f : Context → Context) : (s.updCtx c f).mem = s.mem := rfl
@[simp] theorem State.updCtx_poison (s : State) (c : Nat) (f : Context → Context) : (s.updCtx c f).poison = s.poison := rfl
@[simp] theorem State.updCtx_sectorKey (s : State) (c : Nat) (f : Context → Context) : (s.updCtx c f).sectorKey = s.sectorKey := rfl
@[simp] theorem State.updCtx_slots (s : State) (c : Nat) (f : Context → Context) : (s.updCtx c f).slots = s.slots := rfl
@[simp] theorem State.updCtx_channels (s : State) (c : Nat) (f : Context → Context) : (s.updCtx c f).channels = s.channels := rfl
@[simp] theorem State.updCtx_moving (s : State) (c : Nat) (f : Context → Context) : (s.updCtx c f).moving = s.moving := rfl
@[simp] theorem State.updCtx_parked (s : State) (c : Nat) (f : Context → Context) : (s.updCtx c f).parked = s.parked := rfl
@[simp] theorem State.updCtx_slices (s : State) (c : Nat) (f : Context → Context) : (s.updCtx c f).slices = s.slices := rfl
@[simp] theorem State.updCtx_chanSlice (s : State) (c : Nat) (f : Context → Context) : (s.updCtx c f).chanSlice = s.chanSlice := rfl
@[simp] theorem State.updCtx_scStamp (s : State) (c : Nat) (f : Context → Context) : (s.updCtx c f).scStamp = s.scStamp := rfl
@[simp] theorem State.updCtx_scHigh (s : State) (c : Nat) (f : Context → Context) : (s.updCtx c f).scHigh = s.scHigh := rfl
@[simp] theorem State.updCtx_tenants (s : State) (c : Nat) (f : Context → Context) : (s.updCtx c f).tenants = s.tenants := rfl
@[simp] theorem State.updCtx_queues (s : State) (c : Nat) (f : Context → Context) : (s.updCtx c f).queues = s.queues := rfl
@[simp] theorem State.updCtx_launches (s : State) (c : Nat) (f : Context → Context) : (s.updCtx c f).launches = s.launches := rfl
@[simp] theorem State.updCtx_nodes (s : State) (c : Nat) (f : Context → Context) : (s.updCtx c f).nodes = s.nodes := rfl
@[simp] theorem State.updCtx_invalid (s : State) (c : Nat) (f : Context → Context) : (s.updCtx c f).invalid = s.invalid := rfl
@[simp] theorem State.updCtx_noPage (s : State) (c : Nat) (f : Context → Context) : (s.updCtx c f).noPage = s.noPage := rfl
@[simp] theorem State.updCtx_flaws (s : State) (c : Nat) (f : Context → Context) : (s.updCtx c f).flaws = s.flaws := rfl
@[simp] theorem State.updCtx_fwHeld (s : State) (c : Nat) (f : Context → Context) : (s.updCtx c f).fwHeld = s.fwHeld := rfl
@[simp] theorem State.updCtx_links (s : State) (c : Nat) (f : Context → Context) : (s.updCtx c f).links = s.links := rfl
@[simp] theorem State.updCtx_flash (s : State) (c : Nat) (f : Context → Context) : (s.updCtx c f).flash = s.flash := rfl
@[simp] theorem State.updCtx_switor (s : State) (c : Nat) (f : Context → Context) : (s.updCtx c f).switor = s.switor := rfl
@[simp] theorem State.updCtx_time (s : State) (c : Nat) (f : Context → Context) : (s.updCtx c f).time = s.time := rfl
@[simp] theorem State.updCtx_dispatchNo (s : State) (c : Nat) (f : Context → Context) : (s.updCtx c f).dispatchNo = s.dispatchNo := rfl
@[simp] theorem State.updCtx_lastServed (s : State) (c : Nat) (f : Context → Context) : (s.updCtx c f).lastServed = s.lastServed := rfl
@[simp] theorem State.updCtx_issueNo (s : State) (c : Nat) (f : Context → Context) : (s.updCtx c f).issueNo = s.issueNo := rfl
@[simp] theorem State.updCtx_agenda (s : State) (c : Nat) (f : Context → Context) : (s.updCtx c f).agenda = s.agenda := rfl
@[simp] theorem State.updCtx_tick (s : State) (c : Nat) (f : Context → Context) : (s.updCtx c f).tick = s.tick := rfl
@[simp] theorem State.updLaunch_w (s : State) (c q : Nat) (f : Launch → Launch) : (s.updLaunch c q f).w = s.w := rfl
@[simp] theorem State.updLaunch_g (s : State) (c q : Nat) (f : Launch → Launch) : (s.updLaunch c q f).g = s.g := rfl
@[simp] theorem State.updLaunch_iss (s : State) (c q : Nat) (f : Launch → Launch) : (s.updLaunch c q f).iss = s.iss := rfl
@[simp] theorem State.updLaunch_groups (s : State) (c q : Nat) (f : Launch → Launch) : (s.updLaunch c q f).groups = s.groups := rfl
@[simp] theorem State.updLaunch_cores (s : State) (c q : Nat) (f : Launch → Launch) : (s.updLaunch c q f).cores = s.cores := rfl
@[simp] theorem State.updLaunch_dies (s : State) (c q : Nat) (f : Launch → Launch) : (s.updLaunch c q f).dies = s.dies := rfl
@[simp] theorem State.updLaunch_mem (s : State) (c q : Nat) (f : Launch → Launch) : (s.updLaunch c q f).mem = s.mem := rfl
@[simp] theorem State.updLaunch_poison (s : State) (c q : Nat) (f : Launch → Launch) : (s.updLaunch c q f).poison = s.poison := rfl
@[simp] theorem State.updLaunch_sectorKey (s : State) (c q : Nat) (f : Launch → Launch) : (s.updLaunch c q f).sectorKey = s.sectorKey := rfl
@[simp] theorem State.updLaunch_slots (s : State) (c q : Nat) (f : Launch → Launch) : (s.updLaunch c q f).slots = s.slots := rfl
@[simp] theorem State.updLaunch_channels (s : State) (c q : Nat) (f : Launch → Launch) : (s.updLaunch c q f).channels = s.channels := rfl
@[simp] theorem State.updLaunch_moving (s : State) (c q : Nat) (f : Launch → Launch) : (s.updLaunch c q f).moving = s.moving := rfl
@[simp] theorem State.updLaunch_parked (s : State) (c q : Nat) (f : Launch → Launch) : (s.updLaunch c q f).parked = s.parked := rfl
@[simp] theorem State.updLaunch_slices (s : State) (c q : Nat) (f : Launch → Launch) : (s.updLaunch c q f).slices = s.slices := rfl
@[simp] theorem State.updLaunch_chanSlice (s : State) (c q : Nat) (f : Launch → Launch) : (s.updLaunch c q f).chanSlice = s.chanSlice := rfl
@[simp] theorem State.updLaunch_scStamp (s : State) (c q : Nat) (f : Launch → Launch) : (s.updLaunch c q f).scStamp = s.scStamp := rfl
@[simp] theorem State.updLaunch_scHigh (s : State) (c q : Nat) (f : Launch → Launch) : (s.updLaunch c q f).scHigh = s.scHigh := rfl
@[simp] theorem State.updLaunch_tenants (s : State) (c q : Nat) (f : Launch → Launch) : (s.updLaunch c q f).tenants = s.tenants := rfl
@[simp] theorem State.updLaunch_ctxs (s : State) (c q : Nat) (f : Launch → Launch) : (s.updLaunch c q f).ctxs = s.ctxs := rfl
@[simp] theorem State.updLaunch_queues (s : State) (c q : Nat) (f : Launch → Launch) : (s.updLaunch c q f).queues = s.queues := rfl
@[simp] theorem State.updLaunch_nodes (s : State) (c q : Nat) (f : Launch → Launch) : (s.updLaunch c q f).nodes = s.nodes := rfl
@[simp] theorem State.updLaunch_invalid (s : State) (c q : Nat) (f : Launch → Launch) : (s.updLaunch c q f).invalid = s.invalid := rfl
@[simp] theorem State.updLaunch_noPage (s : State) (c q : Nat) (f : Launch → Launch) : (s.updLaunch c q f).noPage = s.noPage := rfl
@[simp] theorem State.updLaunch_flaws (s : State) (c q : Nat) (f : Launch → Launch) : (s.updLaunch c q f).flaws = s.flaws := rfl
@[simp] theorem State.updLaunch_fwHeld (s : State) (c q : Nat) (f : Launch → Launch) : (s.updLaunch c q f).fwHeld = s.fwHeld := rfl
@[simp] theorem State.updLaunch_links (s : State) (c q : Nat) (f : Launch → Launch) : (s.updLaunch c q f).links = s.links := rfl
@[simp] theorem State.updLaunch_flash (s : State) (c q : Nat) (f : Launch → Launch) : (s.updLaunch c q f).flash = s.flash := rfl
@[simp] theorem State.updLaunch_switor (s : State) (c q : Nat) (f : Launch → Launch) : (s.updLaunch c q f).switor = s.switor := rfl
@[simp] theorem State.updLaunch_time (s : State) (c q : Nat) (f : Launch → Launch) : (s.updLaunch c q f).time = s.time := rfl
@[simp] theorem State.updLaunch_dispatchNo (s : State) (c q : Nat) (f : Launch → Launch) : (s.updLaunch c q f).dispatchNo = s.dispatchNo := rfl
@[simp] theorem State.updLaunch_lastServed (s : State) (c q : Nat) (f : Launch → Launch) : (s.updLaunch c q f).lastServed = s.lastServed := rfl
@[simp] theorem State.updLaunch_issueNo (s : State) (c q : Nat) (f : Launch → Launch) : (s.updLaunch c q f).issueNo = s.issueNo := rfl
@[simp] theorem State.updLaunch_agenda (s : State) (c q : Nat) (f : Launch → Launch) : (s.updLaunch c q f).agenda = s.agenda := rfl
@[simp] theorem State.updLaunch_tick (s : State) (c q : Nat) (f : Launch → Launch) : (s.updLaunch c q f).tick = s.tick := rfl
@[simp] theorem State.updQueue_w (s : State) (n : Nat) (f : Queue → Queue) : (s.updQueue n f).w = s.w := rfl
@[simp] theorem State.updQueue_g (s : State) (n : Nat) (f : Queue → Queue) : (s.updQueue n f).g = s.g := rfl
@[simp] theorem State.updQueue_iss (s : State) (n : Nat) (f : Queue → Queue) : (s.updQueue n f).iss = s.iss := rfl
@[simp] theorem State.updQueue_groups (s : State) (n : Nat) (f : Queue → Queue) : (s.updQueue n f).groups = s.groups := rfl
@[simp] theorem State.updQueue_cores (s : State) (n : Nat) (f : Queue → Queue) : (s.updQueue n f).cores = s.cores := rfl
@[simp] theorem State.updQueue_dies (s : State) (n : Nat) (f : Queue → Queue) : (s.updQueue n f).dies = s.dies := rfl
@[simp] theorem State.updQueue_mem (s : State) (n : Nat) (f : Queue → Queue) : (s.updQueue n f).mem = s.mem := rfl
@[simp] theorem State.updQueue_poison (s : State) (n : Nat) (f : Queue → Queue) : (s.updQueue n f).poison = s.poison := rfl
@[simp] theorem State.updQueue_sectorKey (s : State) (n : Nat) (f : Queue → Queue) : (s.updQueue n f).sectorKey = s.sectorKey := rfl
@[simp] theorem State.updQueue_slots (s : State) (n : Nat) (f : Queue → Queue) : (s.updQueue n f).slots = s.slots := rfl
@[simp] theorem State.updQueue_channels (s : State) (n : Nat) (f : Queue → Queue) : (s.updQueue n f).channels = s.channels := rfl
@[simp] theorem State.updQueue_moving (s : State) (n : Nat) (f : Queue → Queue) : (s.updQueue n f).moving = s.moving := rfl
@[simp] theorem State.updQueue_parked (s : State) (n : Nat) (f : Queue → Queue) : (s.updQueue n f).parked = s.parked := rfl
@[simp] theorem State.updQueue_slices (s : State) (n : Nat) (f : Queue → Queue) : (s.updQueue n f).slices = s.slices := rfl
@[simp] theorem State.updQueue_chanSlice (s : State) (n : Nat) (f : Queue → Queue) : (s.updQueue n f).chanSlice = s.chanSlice := rfl
@[simp] theorem State.updQueue_scStamp (s : State) (n : Nat) (f : Queue → Queue) : (s.updQueue n f).scStamp = s.scStamp := rfl
@[simp] theorem State.updQueue_scHigh (s : State) (n : Nat) (f : Queue → Queue) : (s.updQueue n f).scHigh = s.scHigh := rfl
@[simp] theorem State.updQueue_tenants (s : State) (n : Nat) (f : Queue → Queue) : (s.updQueue n f).tenants = s.tenants := rfl
@[simp] theorem State.updQueue_ctxs (s : State) (n : Nat) (f : Queue → Queue) : (s.updQueue n f).ctxs = s.ctxs := rfl
@[simp] theorem State.updQueue_launches (s : State) (n : Nat) (f : Queue → Queue) : (s.updQueue n f).launches = s.launches := rfl
@[simp] theorem State.updQueue_nodes (s : State) (n : Nat) (f : Queue → Queue) : (s.updQueue n f).nodes = s.nodes := rfl
@[simp] theorem State.updQueue_invalid (s : State) (n : Nat) (f : Queue → Queue) : (s.updQueue n f).invalid = s.invalid := rfl
@[simp] theorem State.updQueue_noPage (s : State) (n : Nat) (f : Queue → Queue) : (s.updQueue n f).noPage = s.noPage := rfl
@[simp] theorem State.updQueue_flaws (s : State) (n : Nat) (f : Queue → Queue) : (s.updQueue n f).flaws = s.flaws := rfl
@[simp] theorem State.updQueue_fwHeld (s : State) (n : Nat) (f : Queue → Queue) : (s.updQueue n f).fwHeld = s.fwHeld := rfl
@[simp] theorem State.updQueue_links (s : State) (n : Nat) (f : Queue → Queue) : (s.updQueue n f).links = s.links := rfl
@[simp] theorem State.updQueue_flash (s : State) (n : Nat) (f : Queue → Queue) : (s.updQueue n f).flash = s.flash := rfl
@[simp] theorem State.updQueue_switor (s : State) (n : Nat) (f : Queue → Queue) : (s.updQueue n f).switor = s.switor := rfl
@[simp] theorem State.updQueue_time (s : State) (n : Nat) (f : Queue → Queue) : (s.updQueue n f).time = s.time := rfl
@[simp] theorem State.updQueue_dispatchNo (s : State) (n : Nat) (f : Queue → Queue) : (s.updQueue n f).dispatchNo = s.dispatchNo := rfl
@[simp] theorem State.updQueue_lastServed (s : State) (n : Nat) (f : Queue → Queue) : (s.updQueue n f).lastServed = s.lastServed := rfl
@[simp] theorem State.updQueue_issueNo (s : State) (n : Nat) (f : Queue → Queue) : (s.updQueue n f).issueNo = s.issueNo := rfl
@[simp] theorem State.updQueue_agenda (s : State) (n : Nat) (f : Queue → Queue) : (s.updQueue n f).agenda = s.agenda := rfl
@[simp] theorem State.updQueue_tick (s : State) (n : Nat) (f : Queue → Queue) : (s.updQueue n f).tick = s.tick := rfl
@[simp] theorem State.updNode_w (s : State) (c n : Nat) (f : Node → Node) : (s.updNode c n f).w = s.w := rfl
@[simp] theorem State.updNode_g (s : State) (c n : Nat) (f : Node → Node) : (s.updNode c n f).g = s.g := rfl
@[simp] theorem State.updNode_iss (s : State) (c n : Nat) (f : Node → Node) : (s.updNode c n f).iss = s.iss := rfl
@[simp] theorem State.updNode_groups (s : State) (c n : Nat) (f : Node → Node) : (s.updNode c n f).groups = s.groups := rfl
@[simp] theorem State.updNode_cores (s : State) (c n : Nat) (f : Node → Node) : (s.updNode c n f).cores = s.cores := rfl
@[simp] theorem State.updNode_dies (s : State) (c n : Nat) (f : Node → Node) : (s.updNode c n f).dies = s.dies := rfl
@[simp] theorem State.updNode_mem (s : State) (c n : Nat) (f : Node → Node) : (s.updNode c n f).mem = s.mem := rfl
@[simp] theorem State.updNode_poison (s : State) (c n : Nat) (f : Node → Node) : (s.updNode c n f).poison = s.poison := rfl
@[simp] theorem State.updNode_sectorKey (s : State) (c n : Nat) (f : Node → Node) : (s.updNode c n f).sectorKey = s.sectorKey := rfl
@[simp] theorem State.updNode_slots (s : State) (c n : Nat) (f : Node → Node) : (s.updNode c n f).slots = s.slots := rfl
@[simp] theorem State.updNode_channels (s : State) (c n : Nat) (f : Node → Node) : (s.updNode c n f).channels = s.channels := rfl
@[simp] theorem State.updNode_moving (s : State) (c n : Nat) (f : Node → Node) : (s.updNode c n f).moving = s.moving := rfl
@[simp] theorem State.updNode_parked (s : State) (c n : Nat) (f : Node → Node) : (s.updNode c n f).parked = s.parked := rfl
@[simp] theorem State.updNode_slices (s : State) (c n : Nat) (f : Node → Node) : (s.updNode c n f).slices = s.slices := rfl
@[simp] theorem State.updNode_chanSlice (s : State) (c n : Nat) (f : Node → Node) : (s.updNode c n f).chanSlice = s.chanSlice := rfl
@[simp] theorem State.updNode_scStamp (s : State) (c n : Nat) (f : Node → Node) : (s.updNode c n f).scStamp = s.scStamp := rfl
@[simp] theorem State.updNode_scHigh (s : State) (c n : Nat) (f : Node → Node) : (s.updNode c n f).scHigh = s.scHigh := rfl
@[simp] theorem State.updNode_tenants (s : State) (c n : Nat) (f : Node → Node) : (s.updNode c n f).tenants = s.tenants := rfl
@[simp] theorem State.updNode_ctxs (s : State) (c n : Nat) (f : Node → Node) : (s.updNode c n f).ctxs = s.ctxs := rfl
@[simp] theorem State.updNode_queues (s : State) (c n : Nat) (f : Node → Node) : (s.updNode c n f).queues = s.queues := rfl
@[simp] theorem State.updNode_launches (s : State) (c n : Nat) (f : Node → Node) : (s.updNode c n f).launches = s.launches := rfl
@[simp] theorem State.updNode_invalid (s : State) (c n : Nat) (f : Node → Node) : (s.updNode c n f).invalid = s.invalid := rfl
@[simp] theorem State.updNode_noPage (s : State) (c n : Nat) (f : Node → Node) : (s.updNode c n f).noPage = s.noPage := rfl
@[simp] theorem State.updNode_flaws (s : State) (c n : Nat) (f : Node → Node) : (s.updNode c n f).flaws = s.flaws := rfl
@[simp] theorem State.updNode_fwHeld (s : State) (c n : Nat) (f : Node → Node) : (s.updNode c n f).fwHeld = s.fwHeld := rfl
@[simp] theorem State.updNode_links (s : State) (c n : Nat) (f : Node → Node) : (s.updNode c n f).links = s.links := rfl
@[simp] theorem State.updNode_flash (s : State) (c n : Nat) (f : Node → Node) : (s.updNode c n f).flash = s.flash := rfl
@[simp] theorem State.updNode_switor (s : State) (c n : Nat) (f : Node → Node) : (s.updNode c n f).switor = s.switor := rfl
@[simp] theorem State.updNode_time (s : State) (c n : Nat) (f : Node → Node) : (s.updNode c n f).time = s.time := rfl
@[simp] theorem State.updNode_dispatchNo (s : State) (c n : Nat) (f : Node → Node) : (s.updNode c n f).dispatchNo = s.dispatchNo := rfl
@[simp] theorem State.updNode_lastServed (s : State) (c n : Nat) (f : Node → Node) : (s.updNode c n f).lastServed = s.lastServed := rfl
@[simp] theorem State.updNode_issueNo (s : State) (c n : Nat) (f : Node → Node) : (s.updNode c n f).issueNo = s.issueNo := rfl
@[simp] theorem State.updNode_agenda (s : State) (c n : Nat) (f : Node → Node) : (s.updNode c n f).agenda = s.agenda := rfl
@[simp] theorem State.updNode_tick (s : State) (c n : Nat) (f : Node → Node) : (s.updNode c n f).tick = s.tick := rfl
@[simp] theorem State.updPort_w (s : State) (p : Nat) (f : Port → Port) : (s.updPort p f).w = s.w := rfl
@[simp] theorem State.updPort_g (s : State) (p : Nat) (f : Port → Port) : (s.updPort p f).g = s.g := rfl
@[simp] theorem State.updPort_iss (s : State) (p : Nat) (f : Port → Port) : (s.updPort p f).iss = s.iss := rfl
@[simp] theorem State.updPort_groups (s : State) (p : Nat) (f : Port → Port) : (s.updPort p f).groups = s.groups := rfl
@[simp] theorem State.updPort_cores (s : State) (p : Nat) (f : Port → Port) : (s.updPort p f).cores = s.cores := rfl
@[simp] theorem State.updPort_dies (s : State) (p : Nat) (f : Port → Port) : (s.updPort p f).dies = s.dies := rfl
@[simp] theorem State.updPort_mem (s : State) (p : Nat) (f : Port → Port) : (s.updPort p f).mem = s.mem := rfl
@[simp] theorem State.updPort_poison (s : State) (p : Nat) (f : Port → Port) : (s.updPort p f).poison = s.poison := rfl
@[simp] theorem State.updPort_sectorKey (s : State) (p : Nat) (f : Port → Port) : (s.updPort p f).sectorKey = s.sectorKey := rfl
@[simp] theorem State.updPort_slots (s : State) (p : Nat) (f : Port → Port) : (s.updPort p f).slots = s.slots := rfl
@[simp] theorem State.updPort_channels (s : State) (p : Nat) (f : Port → Port) : (s.updPort p f).channels = s.channels := rfl
@[simp] theorem State.updPort_moving (s : State) (p : Nat) (f : Port → Port) : (s.updPort p f).moving = s.moving := rfl
@[simp] theorem State.updPort_parked (s : State) (p : Nat) (f : Port → Port) : (s.updPort p f).parked = s.parked := rfl
@[simp] theorem State.updPort_slices (s : State) (p : Nat) (f : Port → Port) : (s.updPort p f).slices = s.slices := rfl
@[simp] theorem State.updPort_chanSlice (s : State) (p : Nat) (f : Port → Port) : (s.updPort p f).chanSlice = s.chanSlice := rfl
@[simp] theorem State.updPort_scStamp (s : State) (p : Nat) (f : Port → Port) : (s.updPort p f).scStamp = s.scStamp := rfl
@[simp] theorem State.updPort_scHigh (s : State) (p : Nat) (f : Port → Port) : (s.updPort p f).scHigh = s.scHigh := rfl
@[simp] theorem State.updPort_tenants (s : State) (p : Nat) (f : Port → Port) : (s.updPort p f).tenants = s.tenants := rfl
@[simp] theorem State.updPort_ctxs (s : State) (p : Nat) (f : Port → Port) : (s.updPort p f).ctxs = s.ctxs := rfl
@[simp] theorem State.updPort_queues (s : State) (p : Nat) (f : Port → Port) : (s.updPort p f).queues = s.queues := rfl
@[simp] theorem State.updPort_launches (s : State) (p : Nat) (f : Port → Port) : (s.updPort p f).launches = s.launches := rfl
@[simp] theorem State.updPort_nodes (s : State) (p : Nat) (f : Port → Port) : (s.updPort p f).nodes = s.nodes := rfl
@[simp] theorem State.updPort_invalid (s : State) (p : Nat) (f : Port → Port) : (s.updPort p f).invalid = s.invalid := rfl
@[simp] theorem State.updPort_noPage (s : State) (p : Nat) (f : Port → Port) : (s.updPort p f).noPage = s.noPage := rfl
@[simp] theorem State.updPort_flaws (s : State) (p : Nat) (f : Port → Port) : (s.updPort p f).flaws = s.flaws := rfl
@[simp] theorem State.updPort_fwHeld (s : State) (p : Nat) (f : Port → Port) : (s.updPort p f).fwHeld = s.fwHeld := rfl
@[simp] theorem State.updPort_flash (s : State) (p : Nat) (f : Port → Port) : (s.updPort p f).flash = s.flash := rfl
@[simp] theorem State.updPort_switor (s : State) (p : Nat) (f : Port → Port) : (s.updPort p f).switor = s.switor := rfl
@[simp] theorem State.updPort_time (s : State) (p : Nat) (f : Port → Port) : (s.updPort p f).time = s.time := rfl
@[simp] theorem State.updPort_dispatchNo (s : State) (p : Nat) (f : Port → Port) : (s.updPort p f).dispatchNo = s.dispatchNo := rfl
@[simp] theorem State.updPort_lastServed (s : State) (p : Nat) (f : Port → Port) : (s.updPort p f).lastServed = s.lastServed := rfl
@[simp] theorem State.updPort_issueNo (s : State) (p : Nat) (f : Port → Port) : (s.updPort p f).issueNo = s.issueNo := rfl
@[simp] theorem State.updPort_agenda (s : State) (p : Nat) (f : Port → Port) : (s.updPort p f).agenda = s.agenda := rfl
@[simp] theorem State.updPort_tick (s : State) (p : Nat) (f : Port → Port) : (s.updPort p f).tick = s.tick := rfl
@[simp] theorem State.updPart_w (s : State) (k p : Nat) (f : Partition → Partition) : (s.updPart k p f).w = s.w := rfl
@[simp] theorem State.updPart_g (s : State) (k p : Nat) (f : Partition → Partition) : (s.updPart k p f).g = s.g := rfl
@[simp] theorem State.updPart_iss (s : State) (k p : Nat) (f : Partition → Partition) : (s.updPart k p f).iss = s.iss := rfl
@[simp] theorem State.updPart_groups (s : State) (k p : Nat) (f : Partition → Partition) : (s.updPart k p f).groups = s.groups := rfl
@[simp] theorem State.updPart_dies (s : State) (k p : Nat) (f : Partition → Partition) : (s.updPart k p f).dies = s.dies := rfl
@[simp] theorem State.updPart_mem (s : State) (k p : Nat) (f : Partition → Partition) : (s.updPart k p f).mem = s.mem := rfl
@[simp] theorem State.updPart_poison (s : State) (k p : Nat) (f : Partition → Partition) : (s.updPart k p f).poison = s.poison := rfl
@[simp] theorem State.updPart_sectorKey (s : State) (k p : Nat) (f : Partition → Partition) : (s.updPart k p f).sectorKey = s.sectorKey := rfl
@[simp] theorem State.updPart_slots (s : State) (k p : Nat) (f : Partition → Partition) : (s.updPart k p f).slots = s.slots := rfl
@[simp] theorem State.updPart_channels (s : State) (k p : Nat) (f : Partition → Partition) : (s.updPart k p f).channels = s.channels := rfl
@[simp] theorem State.updPart_moving (s : State) (k p : Nat) (f : Partition → Partition) : (s.updPart k p f).moving = s.moving := rfl
@[simp] theorem State.updPart_parked (s : State) (k p : Nat) (f : Partition → Partition) : (s.updPart k p f).parked = s.parked := rfl
@[simp] theorem State.updPart_slices (s : State) (k p : Nat) (f : Partition → Partition) : (s.updPart k p f).slices = s.slices := rfl
@[simp] theorem State.updPart_chanSlice (s : State) (k p : Nat) (f : Partition → Partition) : (s.updPart k p f).chanSlice = s.chanSlice := rfl
@[simp] theorem State.updPart_scStamp (s : State) (k p : Nat) (f : Partition → Partition) : (s.updPart k p f).scStamp = s.scStamp := rfl
@[simp] theorem State.updPart_scHigh (s : State) (k p : Nat) (f : Partition → Partition) : (s.updPart k p f).scHigh = s.scHigh := rfl
@[simp] theorem State.updPart_tenants (s : State) (k p : Nat) (f : Partition → Partition) : (s.updPart k p f).tenants = s.tenants := rfl
@[simp] theorem State.updPart_ctxs (s : State) (k p : Nat) (f : Partition → Partition) : (s.updPart k p f).ctxs = s.ctxs := rfl
@[simp] theorem State.updPart_queues (s : State) (k p : Nat) (f : Partition → Partition) : (s.updPart k p f).queues = s.queues := rfl
@[simp] theorem State.updPart_launches (s : State) (k p : Nat) (f : Partition → Partition) : (s.updPart k p f).launches = s.launches := rfl
@[simp] theorem State.updPart_nodes (s : State) (k p : Nat) (f : Partition → Partition) : (s.updPart k p f).nodes = s.nodes := rfl
@[simp] theorem State.updPart_invalid (s : State) (k p : Nat) (f : Partition → Partition) : (s.updPart k p f).invalid = s.invalid := rfl
@[simp] theorem State.updPart_noPage (s : State) (k p : Nat) (f : Partition → Partition) : (s.updPart k p f).noPage = s.noPage := rfl
@[simp] theorem State.updPart_flaws (s : State) (k p : Nat) (f : Partition → Partition) : (s.updPart k p f).flaws = s.flaws := rfl
@[simp] theorem State.updPart_fwHeld (s : State) (k p : Nat) (f : Partition → Partition) : (s.updPart k p f).fwHeld = s.fwHeld := rfl
@[simp] theorem State.updPart_links (s : State) (k p : Nat) (f : Partition → Partition) : (s.updPart k p f).links = s.links := rfl
@[simp] theorem State.updPart_flash (s : State) (k p : Nat) (f : Partition → Partition) : (s.updPart k p f).flash = s.flash := rfl
@[simp] theorem State.updPart_switor (s : State) (k p : Nat) (f : Partition → Partition) : (s.updPart k p f).switor = s.switor := rfl
@[simp] theorem State.updPart_time (s : State) (k p : Nat) (f : Partition → Partition) : (s.updPart k p f).time = s.time := rfl
@[simp] theorem State.updPart_dispatchNo (s : State) (k p : Nat) (f : Partition → Partition) : (s.updPart k p f).dispatchNo = s.dispatchNo := rfl
@[simp] theorem State.updPart_lastServed (s : State) (k p : Nat) (f : Partition → Partition) : (s.updPart k p f).lastServed = s.lastServed := rfl
@[simp] theorem State.updPart_issueNo (s : State) (k p : Nat) (f : Partition → Partition) : (s.updPart k p f).issueNo = s.issueNo := rfl
@[simp] theorem State.updPart_agenda (s : State) (k p : Nat) (f : Partition → Partition) : (s.updPart k p f).agenda = s.agenda := rfl
@[simp] theorem State.updPart_tick (s : State) (k p : Nat) (f : Partition → Partition) : (s.updPart k p f).tick = s.tick := rfl
@[simp] theorem State.setSlot_w (s : State) (k : Nat) (e : SlotEntry) : (s.setSlot k e).w = s.w := rfl
@[simp] theorem State.setSlot_g (s : State) (k : Nat) (e : SlotEntry) : (s.setSlot k e).g = s.g := rfl
@[simp] theorem State.setSlot_iss (s : State) (k : Nat) (e : SlotEntry) : (s.setSlot k e).iss = s.iss := rfl
@[simp] theorem State.setSlot_groups (s : State) (k : Nat) (e : SlotEntry) : (s.setSlot k e).groups = s.groups := rfl
@[simp] theorem State.setSlot_cores (s : State) (k : Nat) (e : SlotEntry) : (s.setSlot k e).cores = s.cores := rfl
@[simp] theorem State.setSlot_dies (s : State) (k : Nat) (e : SlotEntry) : (s.setSlot k e).dies = s.dies := rfl
@[simp] theorem State.setSlot_mem (s : State) (k : Nat) (e : SlotEntry) : (s.setSlot k e).mem = s.mem := rfl
@[simp] theorem State.setSlot_poison (s : State) (k : Nat) (e : SlotEntry) : (s.setSlot k e).poison = s.poison := rfl
@[simp] theorem State.setSlot_sectorKey (s : State) (k : Nat) (e : SlotEntry) : (s.setSlot k e).sectorKey = s.sectorKey := rfl
@[simp] theorem State.setSlot_channels (s : State) (k : Nat) (e : SlotEntry) : (s.setSlot k e).channels = s.channels := rfl
@[simp] theorem State.setSlot_moving (s : State) (k : Nat) (e : SlotEntry) : (s.setSlot k e).moving = s.moving := rfl
@[simp] theorem State.setSlot_parked (s : State) (k : Nat) (e : SlotEntry) : (s.setSlot k e).parked = s.parked := rfl
@[simp] theorem State.setSlot_slices (s : State) (k : Nat) (e : SlotEntry) : (s.setSlot k e).slices = s.slices := rfl
@[simp] theorem State.setSlot_chanSlice (s : State) (k : Nat) (e : SlotEntry) : (s.setSlot k e).chanSlice = s.chanSlice := rfl
@[simp] theorem State.setSlot_scStamp (s : State) (k : Nat) (e : SlotEntry) : (s.setSlot k e).scStamp = s.scStamp := rfl
@[simp] theorem State.setSlot_scHigh (s : State) (k : Nat) (e : SlotEntry) : (s.setSlot k e).scHigh = s.scHigh := rfl
@[simp] theorem State.setSlot_tenants (s : State) (k : Nat) (e : SlotEntry) : (s.setSlot k e).tenants = s.tenants := rfl
@[simp] theorem State.setSlot_ctxs (s : State) (k : Nat) (e : SlotEntry) : (s.setSlot k e).ctxs = s.ctxs := rfl
@[simp] theorem State.setSlot_queues (s : State) (k : Nat) (e : SlotEntry) : (s.setSlot k e).queues = s.queues := rfl
@[simp] theorem State.setSlot_launches (s : State) (k : Nat) (e : SlotEntry) : (s.setSlot k e).launches = s.launches := rfl
@[simp] theorem State.setSlot_nodes (s : State) (k : Nat) (e : SlotEntry) : (s.setSlot k e).nodes = s.nodes := rfl
@[simp] theorem State.setSlot_invalid (s : State) (k : Nat) (e : SlotEntry) : (s.setSlot k e).invalid = s.invalid := rfl
@[simp] theorem State.setSlot_noPage (s : State) (k : Nat) (e : SlotEntry) : (s.setSlot k e).noPage = s.noPage := rfl
@[simp] theorem State.setSlot_flaws (s : State) (k : Nat) (e : SlotEntry) : (s.setSlot k e).flaws = s.flaws := rfl
@[simp] theorem State.setSlot_fwHeld (s : State) (k : Nat) (e : SlotEntry) : (s.setSlot k e).fwHeld = s.fwHeld := rfl
@[simp] theorem State.setSlot_links (s : State) (k : Nat) (e : SlotEntry) : (s.setSlot k e).links = s.links := rfl
@[simp] theorem State.setSlot_flash (s : State) (k : Nat) (e : SlotEntry) : (s.setSlot k e).flash = s.flash := rfl
@[simp] theorem State.setSlot_switor (s : State) (k : Nat) (e : SlotEntry) : (s.setSlot k e).switor = s.switor := rfl
@[simp] theorem State.setSlot_time (s : State) (k : Nat) (e : SlotEntry) : (s.setSlot k e).time = s.time := rfl
@[simp] theorem State.setSlot_dispatchNo (s : State) (k : Nat) (e : SlotEntry) : (s.setSlot k e).dispatchNo = s.dispatchNo := rfl
@[simp] theorem State.setSlot_lastServed (s : State) (k : Nat) (e : SlotEntry) : (s.setSlot k e).lastServed = s.lastServed := rfl
@[simp] theorem State.setSlot_issueNo (s : State) (k : Nat) (e : SlotEntry) : (s.setSlot k e).issueNo = s.issueNo := rfl
@[simp] theorem State.setSlot_agenda (s : State) (k : Nat) (e : SlotEntry) : (s.setSlot k e).agenda = s.agenda := rfl
@[simp] theorem State.setSlot_tick (s : State) (k : Nat) (e : SlotEntry) : (s.setSlot k e).tick = s.tick := rfl
@[simp] theorem State.setChannel_w (s : State) (c : Channel) : (s.setChannel c).w = s.w := rfl
@[simp] theorem State.setChannel_g (s : State) (c : Channel) : (s.setChannel c).g = s.g := rfl
@[simp] theorem State.setChannel_iss (s : State) (c : Channel) : (s.setChannel c).iss = s.iss := rfl
@[simp] theorem State.setChannel_groups (s : State) (c : Channel) : (s.setChannel c).groups = s.groups := rfl
@[simp] theorem State.setChannel_cores (s : State) (c : Channel) : (s.setChannel c).cores = s.cores := rfl
@[simp] theorem State.setChannel_dies (s : State) (c : Channel) : (s.setChannel c).dies = s.dies := rfl
@[simp] theorem State.setChannel_mem (s : State) (c : Channel) : (s.setChannel c).mem = s.mem := rfl
@[simp] theorem State.setChannel_poison (s : State) (c : Channel) : (s.setChannel c).poison = s.poison := rfl
@[simp] theorem State.setChannel_sectorKey (s : State) (c : Channel) : (s.setChannel c).sectorKey = s.sectorKey := rfl
@[simp] theorem State.setChannel_slots (s : State) (c : Channel) : (s.setChannel c).slots = s.slots := rfl
@[simp] theorem State.setChannel_moving (s : State) (c : Channel) : (s.setChannel c).moving = s.moving := rfl
@[simp] theorem State.setChannel_parked (s : State) (c : Channel) : (s.setChannel c).parked = s.parked := rfl
@[simp] theorem State.setChannel_slices (s : State) (c : Channel) : (s.setChannel c).slices = s.slices := rfl
@[simp] theorem State.setChannel_chanSlice (s : State) (c : Channel) : (s.setChannel c).chanSlice = s.chanSlice := rfl
@[simp] theorem State.setChannel_scStamp (s : State) (c : Channel) : (s.setChannel c).scStamp = s.scStamp := rfl
@[simp] theorem State.setChannel_scHigh (s : State) (c : Channel) : (s.setChannel c).scHigh = s.scHigh := rfl
@[simp] theorem State.setChannel_tenants (s : State) (c : Channel) : (s.setChannel c).tenants = s.tenants := rfl
@[simp] theorem State.setChannel_ctxs (s : State) (c : Channel) : (s.setChannel c).ctxs = s.ctxs := rfl
@[simp] theorem State.setChannel_queues (s : State) (c : Channel) : (s.setChannel c).queues = s.queues := rfl
@[simp] theorem State.setChannel_launches (s : State) (c : Channel) : (s.setChannel c).launches = s.launches := rfl
@[simp] theorem State.setChannel_nodes (s : State) (c : Channel) : (s.setChannel c).nodes = s.nodes := rfl
@[simp] theorem State.setChannel_invalid (s : State) (c : Channel) : (s.setChannel c).invalid = s.invalid := rfl
@[simp] theorem State.setChannel_noPage (s : State) (c : Channel) : (s.setChannel c).noPage = s.noPage := rfl
@[simp] theorem State.setChannel_flaws (s : State) (c : Channel) : (s.setChannel c).flaws = s.flaws := rfl
@[simp] theorem State.setChannel_fwHeld (s : State) (c : Channel) : (s.setChannel c).fwHeld = s.fwHeld := rfl
@[simp] theorem State.setChannel_links (s : State) (c : Channel) : (s.setChannel c).links = s.links := rfl
@[simp] theorem State.setChannel_flash (s : State) (c : Channel) : (s.setChannel c).flash = s.flash := rfl
@[simp] theorem State.setChannel_switor (s : State) (c : Channel) : (s.setChannel c).switor = s.switor := rfl
@[simp] theorem State.setChannel_time (s : State) (c : Channel) : (s.setChannel c).time = s.time := rfl
@[simp] theorem State.setChannel_dispatchNo (s : State) (c : Channel) : (s.setChannel c).dispatchNo = s.dispatchNo := rfl
@[simp] theorem State.setChannel_lastServed (s : State) (c : Channel) : (s.setChannel c).lastServed = s.lastServed := rfl
@[simp] theorem State.setChannel_issueNo (s : State) (c : Channel) : (s.setChannel c).issueNo = s.issueNo := rfl
@[simp] theorem State.setChannel_agenda (s : State) (c : Channel) : (s.setChannel c).agenda = s.agenda := rfl
@[simp] theorem State.setChannel_tick (s : State) (c : Channel) : (s.setChannel c).tick = s.tick := rfl
@[simp] theorem State.putGroup_w (s : State) (g : Group) : (s.putGroup g).w = s.w := rfl
@[simp] theorem State.putGroup_g (s : State) (g : Group) : (s.putGroup g).g = s.g := rfl
@[simp] theorem State.putGroup_iss (s : State) (g : Group) : (s.putGroup g).iss = s.iss := rfl
@[simp] theorem State.putGroup_cores (s : State) (g : Group) : (s.putGroup g).cores = s.cores := rfl
@[simp] theorem State.putGroup_dies (s : State) (g : Group) : (s.putGroup g).dies = s.dies := rfl
@[simp] theorem State.putGroup_mem (s : State) (g : Group) : (s.putGroup g).mem = s.mem := rfl
@[simp] theorem State.putGroup_poison (s : State) (g : Group) : (s.putGroup g).poison = s.poison := rfl
@[simp] theorem State.putGroup_sectorKey (s : State) (g : Group) : (s.putGroup g).sectorKey = s.sectorKey := rfl
@[simp] theorem State.putGroup_slots (s : State) (g : Group) : (s.putGroup g).slots = s.slots := rfl
@[simp] theorem State.putGroup_channels (s : State) (g : Group) : (s.putGroup g).channels = s.channels := rfl
@[simp] theorem State.putGroup_moving (s : State) (g : Group) : (s.putGroup g).moving = s.moving := rfl
@[simp] theorem State.putGroup_parked (s : State) (g : Group) : (s.putGroup g).parked = s.parked := rfl
@[simp] theorem State.putGroup_slices (s : State) (g : Group) : (s.putGroup g).slices = s.slices := rfl
@[simp] theorem State.putGroup_chanSlice (s : State) (g : Group) : (s.putGroup g).chanSlice = s.chanSlice := rfl
@[simp] theorem State.putGroup_scStamp (s : State) (g : Group) : (s.putGroup g).scStamp = s.scStamp := rfl
@[simp] theorem State.putGroup_scHigh (s : State) (g : Group) : (s.putGroup g).scHigh = s.scHigh := rfl
@[simp] theorem State.putGroup_tenants (s : State) (g : Group) : (s.putGroup g).tenants = s.tenants := rfl
@[simp] theorem State.putGroup_ctxs (s : State) (g : Group) : (s.putGroup g).ctxs = s.ctxs := rfl
@[simp] theorem State.putGroup_queues (s : State) (g : Group) : (s.putGroup g).queues = s.queues := rfl
@[simp] theorem State.putGroup_launches (s : State) (g : Group) : (s.putGroup g).launches = s.launches := rfl
@[simp] theorem State.putGroup_nodes (s : State) (g : Group) : (s.putGroup g).nodes = s.nodes := rfl
@[simp] theorem State.putGroup_invalid (s : State) (g : Group) : (s.putGroup g).invalid = s.invalid := rfl
@[simp] theorem State.putGroup_noPage (s : State) (g : Group) : (s.putGroup g).noPage = s.noPage := rfl
@[simp] theorem State.putGroup_flaws (s : State) (g : Group) : (s.putGroup g).flaws = s.flaws := rfl
@[simp] theorem State.putGroup_fwHeld (s : State) (g : Group) : (s.putGroup g).fwHeld = s.fwHeld := rfl
@[simp] theorem State.putGroup_links (s : State) (g : Group) : (s.putGroup g).links = s.links := rfl
@[simp] theorem State.putGroup_flash (s : State) (g : Group) : (s.putGroup g).flash = s.flash := rfl
@[simp] theorem State.putGroup_switor (s : State) (g : Group) : (s.putGroup g).switor = s.switor := rfl
@[simp] theorem State.putGroup_time (s : State) (g : Group) : (s.putGroup g).time = s.time := rfl
@[simp] theorem State.putGroup_dispatchNo (s : State) (g : Group) : (s.putGroup g).dispatchNo = s.dispatchNo := rfl
@[simp] theorem State.putGroup_lastServed (s : State) (g : Group) : (s.putGroup g).lastServed = s.lastServed := rfl
@[simp] theorem State.putGroup_issueNo (s : State) (g : Group) : (s.putGroup g).issueNo = s.issueNo := rfl
@[simp] theorem State.putGroup_agenda (s : State) (g : Group) : (s.putGroup g).agenda = s.agenda := rfl
@[simp] theorem State.putGroup_tick (s : State) (g : Group) : (s.putGroup g).tick = s.tick := rfl
@[simp] theorem State.interrupt_w (s : State) (t v : Nat) : (s.interrupt t v).w = s.w := rfl
@[simp] theorem State.interrupt_g (s : State) (t v : Nat) : (s.interrupt t v).g = s.g := rfl
@[simp] theorem State.interrupt_iss (s : State) (t v : Nat) : (s.interrupt t v).iss = s.iss := rfl
@[simp] theorem State.interrupt_groups (s : State) (t v : Nat) : (s.interrupt t v).groups = s.groups := rfl
@[simp] theorem State.interrupt_cores (s : State) (t v : Nat) : (s.interrupt t v).cores = s.cores := rfl
@[simp] theorem State.interrupt_dies (s : State) (t v : Nat) : (s.interrupt t v).dies = s.dies := rfl
@[simp] theorem State.interrupt_mem (s : State) (t v : Nat) : (s.interrupt t v).mem = s.mem := rfl
@[simp] theorem State.interrupt_poison (s : State) (t v : Nat) : (s.interrupt t v).poison = s.poison := rfl
@[simp] theorem State.interrupt_sectorKey (s : State) (t v : Nat) : (s.interrupt t v).sectorKey = s.sectorKey := rfl
@[simp] theorem State.interrupt_slots (s : State) (t v : Nat) : (s.interrupt t v).slots = s.slots := rfl
@[simp] theorem State.interrupt_channels (s : State) (t v : Nat) : (s.interrupt t v).channels = s.channels := rfl
@[simp] theorem State.interrupt_moving (s : State) (t v : Nat) : (s.interrupt t v).moving = s.moving := rfl
@[simp] theorem State.interrupt_parked (s : State) (t v : Nat) : (s.interrupt t v).parked = s.parked := rfl
@[simp] theorem State.interrupt_slices (s : State) (t v : Nat) : (s.interrupt t v).slices = s.slices := rfl
@[simp] theorem State.interrupt_chanSlice (s : State) (t v : Nat) : (s.interrupt t v).chanSlice = s.chanSlice := rfl
@[simp] theorem State.interrupt_scStamp (s : State) (t v : Nat) : (s.interrupt t v).scStamp = s.scStamp := rfl
@[simp] theorem State.interrupt_scHigh (s : State) (t v : Nat) : (s.interrupt t v).scHigh = s.scHigh := rfl
@[simp] theorem State.interrupt_ctxs (s : State) (t v : Nat) : (s.interrupt t v).ctxs = s.ctxs := rfl
@[simp] theorem State.interrupt_queues (s : State) (t v : Nat) : (s.interrupt t v).queues = s.queues := rfl
@[simp] theorem State.interrupt_launches (s : State) (t v : Nat) : (s.interrupt t v).launches = s.launches := rfl
@[simp] theorem State.interrupt_nodes (s : State) (t v : Nat) : (s.interrupt t v).nodes = s.nodes := rfl
@[simp] theorem State.interrupt_invalid (s : State) (t v : Nat) : (s.interrupt t v).invalid = s.invalid := rfl
@[simp] theorem State.interrupt_noPage (s : State) (t v : Nat) : (s.interrupt t v).noPage = s.noPage := rfl
@[simp] theorem State.interrupt_flaws (s : State) (t v : Nat) : (s.interrupt t v).flaws = s.flaws := rfl
@[simp] theorem State.interrupt_fwHeld (s : State) (t v : Nat) : (s.interrupt t v).fwHeld = s.fwHeld := rfl
@[simp] theorem State.interrupt_links (s : State) (t v : Nat) : (s.interrupt t v).links = s.links := rfl
@[simp] theorem State.interrupt_flash (s : State) (t v : Nat) : (s.interrupt t v).flash = s.flash := rfl
@[simp] theorem State.interrupt_switor (s : State) (t v : Nat) : (s.interrupt t v).switor = s.switor := rfl
@[simp] theorem State.interrupt_time (s : State) (t v : Nat) : (s.interrupt t v).time = s.time := rfl
@[simp] theorem State.interrupt_dispatchNo (s : State) (t v : Nat) : (s.interrupt t v).dispatchNo = s.dispatchNo := rfl
@[simp] theorem State.interrupt_lastServed (s : State) (t v : Nat) : (s.interrupt t v).lastServed = s.lastServed := rfl
@[simp] theorem State.interrupt_issueNo (s : State) (t v : Nat) : (s.interrupt t v).issueNo = s.issueNo := rfl
@[simp] theorem State.interrupt_agenda (s : State) (t v : Nat) : (s.interrupt t v).agenda = s.agenda := rfl
@[simp] theorem State.interrupt_tick (s : State) (t v : Nat) : (s.interrupt t v).tick = s.tick := rfl
@[simp] theorem State.answer_w (s : State) (n : Nat) (c : Cmd) (t : Nat) : (s.answer n c t).w = s.w := rfl
@[simp] theorem State.answer_g (s : State) (n : Nat) (c : Cmd) (t : Nat) : (s.answer n c t).g = s.g := rfl
@[simp] theorem State.answer_iss (s : State) (n : Nat) (c : Cmd) (t : Nat) : (s.answer n c t).iss = s.iss := rfl
@[simp] theorem State.answer_groups (s : State) (n : Nat) (c : Cmd) (t : Nat) : (s.answer n c t).groups = s.groups := rfl
@[simp] theorem State.answer_cores (s : State) (n : Nat) (c : Cmd) (t : Nat) : (s.answer n c t).cores = s.cores := rfl
@[simp] theorem State.answer_dies (s : State) (n : Nat) (c : Cmd) (t : Nat) : (s.answer n c t).dies = s.dies := rfl
@[simp] theorem State.answer_mem (s : State) (n : Nat) (c : Cmd) (t : Nat) : (s.answer n c t).mem = s.mem := rfl
@[simp] theorem State.answer_poison (s : State) (n : Nat) (c : Cmd) (t : Nat) : (s.answer n c t).poison = s.poison := rfl
@[simp] theorem State.answer_sectorKey (s : State) (n : Nat) (c : Cmd) (t : Nat) : (s.answer n c t).sectorKey = s.sectorKey := rfl
@[simp] theorem State.answer_slots (s : State) (n : Nat) (c : Cmd) (t : Nat) : (s.answer n c t).slots = s.slots := rfl
@[simp] theorem State.answer_channels (s : State) (n : Nat) (c : Cmd) (t : Nat) : (s.answer n c t).channels = s.channels := rfl
@[simp] theorem State.answer_moving (s : State) (n : Nat) (c : Cmd) (t : Nat) : (s.answer n c t).moving = s.moving := rfl
@[simp] theorem State.answer_parked (s : State) (n : Nat) (c : Cmd) (t : Nat) : (s.answer n c t).parked = s.parked := rfl
@[simp] theorem State.answer_slices (s : State) (n : Nat) (c : Cmd) (t : Nat) : (s.answer n c t).slices = s.slices := rfl
@[simp] theorem State.answer_chanSlice (s : State) (n : Nat) (c : Cmd) (t : Nat) : (s.answer n c t).chanSlice = s.chanSlice := rfl
@[simp] theorem State.answer_scStamp (s : State) (n : Nat) (c : Cmd) (t : Nat) : (s.answer n c t).scStamp = s.scStamp := rfl
@[simp] theorem State.answer_scHigh (s : State) (n : Nat) (c : Cmd) (t : Nat) : (s.answer n c t).scHigh = s.scHigh := rfl
@[simp] theorem State.answer_ctxs (s : State) (n : Nat) (c : Cmd) (t : Nat) : (s.answer n c t).ctxs = s.ctxs := rfl
@[simp] theorem State.answer_queues (s : State) (n : Nat) (c : Cmd) (t : Nat) : (s.answer n c t).queues = s.queues := rfl
@[simp] theorem State.answer_launches (s : State) (n : Nat) (c : Cmd) (t : Nat) : (s.answer n c t).launches = s.launches := rfl
@[simp] theorem State.answer_nodes (s : State) (n : Nat) (c : Cmd) (t : Nat) : (s.answer n c t).nodes = s.nodes := rfl
@[simp] theorem State.answer_invalid (s : State) (n : Nat) (c : Cmd) (t : Nat) : (s.answer n c t).invalid = s.invalid := rfl
@[simp] theorem State.answer_noPage (s : State) (n : Nat) (c : Cmd) (t : Nat) : (s.answer n c t).noPage = s.noPage := rfl
@[simp] theorem State.answer_flaws (s : State) (n : Nat) (c : Cmd) (t : Nat) : (s.answer n c t).flaws = s.flaws := rfl
@[simp] theorem State.answer_fwHeld (s : State) (n : Nat) (c : Cmd) (t : Nat) : (s.answer n c t).fwHeld = s.fwHeld := rfl
@[simp] theorem State.answer_links (s : State) (n : Nat) (c : Cmd) (t : Nat) : (s.answer n c t).links = s.links := rfl
@[simp] theorem State.answer_flash (s : State) (n : Nat) (c : Cmd) (t : Nat) : (s.answer n c t).flash = s.flash := rfl
@[simp] theorem State.answer_switor (s : State) (n : Nat) (c : Cmd) (t : Nat) : (s.answer n c t).switor = s.switor := rfl
@[simp] theorem State.answer_time (s : State) (n : Nat) (c : Cmd) (t : Nat) : (s.answer n c t).time = s.time := rfl
@[simp] theorem State.answer_dispatchNo (s : State) (n : Nat) (c : Cmd) (t : Nat) : (s.answer n c t).dispatchNo = s.dispatchNo := rfl
@[simp] theorem State.answer_lastServed (s : State) (n : Nat) (c : Cmd) (t : Nat) : (s.answer n c t).lastServed = s.lastServed := rfl
@[simp] theorem State.answer_issueNo (s : State) (n : Nat) (c : Cmd) (t : Nat) : (s.answer n c t).issueNo = s.issueNo := rfl
@[simp] theorem State.answer_agenda (s : State) (n : Nat) (c : Cmd) (t : Nat) : (s.answer n c t).agenda = s.agenda := rfl
@[simp] theorem State.answer_tick (s : State) (n : Nat) (c : Cmd) (t : Nat) : (s.answer n c t).tick = s.tick := rfl
@[simp] theorem holdSlot_g (s : State) : (holdSlot s).g = s.g := rfl
@[simp] theorem holdSlot_groups (s : State) : (holdSlot s).groups = s.groups := rfl
@[simp] theorem holdSlot_cores (s : State) : (holdSlot s).cores = s.cores := rfl
@[simp] theorem holdSlot_dies (s : State) : (holdSlot s).dies = s.dies := rfl
@[simp] theorem holdSlot_mem (s : State) : (holdSlot s).mem = s.mem := rfl
@[simp] theorem holdSlot_poison (s : State) : (holdSlot s).poison = s.poison := rfl
@[simp] theorem holdSlot_sectorKey (s : State) : (holdSlot s).sectorKey = s.sectorKey := rfl
@[simp] theorem holdSlot_slots (s : State) : (holdSlot s).slots = s.slots := rfl
@[simp] theorem holdSlot_channels (s : State) : (holdSlot s).channels = s.channels := rfl
@[simp] theorem holdSlot_moving (s : State) : (holdSlot s).moving = s.moving := rfl
@[simp] theorem holdSlot_parked (s : State) : (holdSlot s).parked = s.parked := rfl
@[simp] theorem holdSlot_slices (s : State) : (holdSlot s).slices = s.slices := rfl
@[simp] theorem holdSlot_chanSlice (s : State) : (holdSlot s).chanSlice = s.chanSlice := rfl
@[simp] theorem holdSlot_scStamp (s : State) : (holdSlot s).scStamp = s.scStamp := rfl
@[simp] theorem holdSlot_scHigh (s : State) : (holdSlot s).scHigh = s.scHigh := rfl
@[simp] theorem holdSlot_tenants (s : State) : (holdSlot s).tenants = s.tenants := rfl
@[simp] theorem holdSlot_ctxs (s : State) : (holdSlot s).ctxs = s.ctxs := rfl
@[simp] theorem holdSlot_queues (s : State) : (holdSlot s).queues = s.queues := rfl
@[simp] theorem holdSlot_launches (s : State) : (holdSlot s).launches = s.launches := rfl
@[simp] theorem holdSlot_nodes (s : State) : (holdSlot s).nodes = s.nodes := rfl
@[simp] theorem holdSlot_invalid (s : State) : (holdSlot s).invalid = s.invalid := rfl
@[simp] theorem holdSlot_noPage (s : State) : (holdSlot s).noPage = s.noPage := rfl
@[simp] theorem holdSlot_flaws (s : State) : (holdSlot s).flaws = s.flaws := rfl
@[simp] theorem holdSlot_fwHeld (s : State) : (holdSlot s).fwHeld = s.fwHeld := rfl
@[simp] theorem holdSlot_links (s : State) : (holdSlot s).links = s.links := rfl
@[simp] theorem holdSlot_flash (s : State) : (holdSlot s).flash = s.flash := rfl
@[simp] theorem holdSlot_switor (s : State) : (holdSlot s).switor = s.switor := rfl
@[simp] theorem holdSlot_time (s : State) : (holdSlot s).time = s.time := rfl
@[simp] theorem holdSlot_dispatchNo (s : State) : (holdSlot s).dispatchNo = s.dispatchNo := rfl
@[simp] theorem holdSlot_lastServed (s : State) : (holdSlot s).lastServed = s.lastServed := rfl
@[simp] theorem holdSlot_issueNo (s : State) : (holdSlot s).issueNo = s.issueNo := rfl
@[simp] theorem holdSlot_agenda (s : State) : (holdSlot s).agenda = s.agenda := rfl
@[simp] theorem holdSlot_tick (s : State) : (holdSlot s).tick = s.tick := rfl
@[simp] theorem retireOff_g (s : State) : (retireOff s).g = s.g := rfl
@[simp] theorem retireOff_iss (s : State) : (retireOff s).iss = s.iss := rfl
@[simp] theorem retireOff_groups (s : State) : (retireOff s).groups = s.groups := rfl
@[simp] theorem retireOff_cores (s : State) : (retireOff s).cores = s.cores := rfl
@[simp] theorem retireOff_dies (s : State) : (retireOff s).dies = s.dies := rfl
@[simp] theorem retireOff_mem (s : State) : (retireOff s).mem = s.mem := rfl
@[simp] theorem retireOff_poison (s : State) : (retireOff s).poison = s.poison := rfl
@[simp] theorem retireOff_sectorKey (s : State) : (retireOff s).sectorKey = s.sectorKey := rfl
@[simp] theorem retireOff_slots (s : State) : (retireOff s).slots = s.slots := rfl
@[simp] theorem retireOff_channels (s : State) : (retireOff s).channels = s.channels := rfl
@[simp] theorem retireOff_moving (s : State) : (retireOff s).moving = s.moving := rfl
@[simp] theorem retireOff_parked (s : State) : (retireOff s).parked = s.parked := rfl
@[simp] theorem retireOff_slices (s : State) : (retireOff s).slices = s.slices := rfl
@[simp] theorem retireOff_chanSlice (s : State) : (retireOff s).chanSlice = s.chanSlice := rfl
@[simp] theorem retireOff_scStamp (s : State) : (retireOff s).scStamp = s.scStamp := rfl
@[simp] theorem retireOff_scHigh (s : State) : (retireOff s).scHigh = s.scHigh := rfl
@[simp] theorem retireOff_tenants (s : State) : (retireOff s).tenants = s.tenants := rfl
@[simp] theorem retireOff_ctxs (s : State) : (retireOff s).ctxs = s.ctxs := rfl
@[simp] theorem retireOff_queues (s : State) : (retireOff s).queues = s.queues := rfl
@[simp] theorem retireOff_launches (s : State) : (retireOff s).launches = s.launches := rfl
@[simp] theorem retireOff_nodes (s : State) : (retireOff s).nodes = s.nodes := rfl
@[simp] theorem retireOff_invalid (s : State) : (retireOff s).invalid = s.invalid := rfl
@[simp] theorem retireOff_noPage (s : State) : (retireOff s).noPage = s.noPage := rfl
@[simp] theorem retireOff_flaws (s : State) : (retireOff s).flaws = s.flaws := rfl
@[simp] theorem retireOff_fwHeld (s : State) : (retireOff s).fwHeld = s.fwHeld := rfl
@[simp] theorem retireOff_links (s : State) : (retireOff s).links = s.links := rfl
@[simp] theorem retireOff_flash (s : State) : (retireOff s).flash = s.flash := rfl
@[simp] theorem retireOff_switor (s : State) : (retireOff s).switor = s.switor := rfl
@[simp] theorem retireOff_time (s : State) : (retireOff s).time = s.time := rfl
@[simp] theorem retireOff_dispatchNo (s : State) : (retireOff s).dispatchNo = s.dispatchNo := rfl
@[simp] theorem retireOff_lastServed (s : State) : (retireOff s).lastServed = s.lastServed := rfl
@[simp] theorem retireOff_issueNo (s : State) : (retireOff s).issueNo = s.issueNo := rfl
@[simp] theorem retireOff_agenda (s : State) : (retireOff s).agenda = s.agenda := rfl
@[simp] theorem retireOff_tick (s : State) : (retireOff s).tick = s.tick := rfl
@[simp] theorem takeTrap_groups (t : TrapInfo) (s : State) : (takeTrap t s).groups = s.groups := rfl
@[simp] theorem takeTrap_cores (t : TrapInfo) (s : State) : (takeTrap t s).cores = s.cores := rfl
@[simp] theorem takeTrap_dies (t : TrapInfo) (s : State) : (takeTrap t s).dies = s.dies := rfl
@[simp] theorem takeTrap_mem (t : TrapInfo) (s : State) : (takeTrap t s).mem = s.mem := rfl
@[simp] theorem takeTrap_poison (t : TrapInfo) (s : State) : (takeTrap t s).poison = s.poison := rfl
@[simp] theorem takeTrap_sectorKey (t : TrapInfo) (s : State) : (takeTrap t s).sectorKey = s.sectorKey := rfl
@[simp] theorem takeTrap_slots (t : TrapInfo) (s : State) : (takeTrap t s).slots = s.slots := rfl
@[simp] theorem takeTrap_channels (t : TrapInfo) (s : State) : (takeTrap t s).channels = s.channels := rfl
@[simp] theorem takeTrap_moving (t : TrapInfo) (s : State) : (takeTrap t s).moving = s.moving := rfl
@[simp] theorem takeTrap_parked (t : TrapInfo) (s : State) : (takeTrap t s).parked = s.parked := rfl
@[simp] theorem takeTrap_slices (t : TrapInfo) (s : State) : (takeTrap t s).slices = s.slices := rfl
@[simp] theorem takeTrap_chanSlice (t : TrapInfo) (s : State) : (takeTrap t s).chanSlice = s.chanSlice := rfl
@[simp] theorem takeTrap_scStamp (t : TrapInfo) (s : State) : (takeTrap t s).scStamp = s.scStamp := rfl
@[simp] theorem takeTrap_scHigh (t : TrapInfo) (s : State) : (takeTrap t s).scHigh = s.scHigh := rfl
@[simp] theorem takeTrap_tenants (t : TrapInfo) (s : State) : (takeTrap t s).tenants = s.tenants := rfl
@[simp] theorem takeTrap_ctxs (t : TrapInfo) (s : State) : (takeTrap t s).ctxs = s.ctxs := rfl
@[simp] theorem takeTrap_queues (t : TrapInfo) (s : State) : (takeTrap t s).queues = s.queues := rfl
@[simp] theorem takeTrap_launches (t : TrapInfo) (s : State) : (takeTrap t s).launches = s.launches := rfl
@[simp] theorem takeTrap_nodes (t : TrapInfo) (s : State) : (takeTrap t s).nodes = s.nodes := rfl
@[simp] theorem takeTrap_invalid (t : TrapInfo) (s : State) : (takeTrap t s).invalid = s.invalid := rfl
@[simp] theorem takeTrap_noPage (t : TrapInfo) (s : State) : (takeTrap t s).noPage = s.noPage := rfl
@[simp] theorem takeTrap_flaws (t : TrapInfo) (s : State) : (takeTrap t s).flaws = s.flaws := rfl
@[simp] theorem takeTrap_fwHeld (t : TrapInfo) (s : State) : (takeTrap t s).fwHeld = s.fwHeld := rfl
@[simp] theorem takeTrap_links (t : TrapInfo) (s : State) : (takeTrap t s).links = s.links := rfl
@[simp] theorem takeTrap_flash (t : TrapInfo) (s : State) : (takeTrap t s).flash = s.flash := rfl
@[simp] theorem takeTrap_switor (t : TrapInfo) (s : State) : (takeTrap t s).switor = s.switor := rfl
@[simp] theorem takeTrap_time (t : TrapInfo) (s : State) : (takeTrap t s).time = s.time := rfl
@[simp] theorem takeTrap_dispatchNo (t : TrapInfo) (s : State) : (takeTrap t s).dispatchNo = s.dispatchNo := rfl
@[simp] theorem takeTrap_lastServed (t : TrapInfo) (s : State) : (takeTrap t s).lastServed = s.lastServed := rfl
@[simp] theorem takeTrap_issueNo (t : TrapInfo) (s : State) : (takeTrap t s).issueNo = s.issueNo := rfl
@[simp] theorem takeTrap_agenda (t : TrapInfo) (s : State) : (takeTrap t s).agenda = s.agenda := rfl
@[simp] theorem takeTrap_tick (t : TrapInfo) (s : State) : (takeTrap t s).tick = s.tick := rfl
@[simp] theorem retire_g (u : Use) (s t : State) : (retire u s t).g = t.g := rfl
@[simp] theorem retire_iss (u : Use) (s t : State) : (retire u s t).iss = t.iss := rfl
@[simp] theorem retire_groups (u : Use) (s t : State) : (retire u s t).groups = t.groups := rfl
@[simp] theorem retire_cores (u : Use) (s t : State) : (retire u s t).cores = t.cores := rfl
@[simp] theorem retire_dies (u : Use) (s t : State) : (retire u s t).dies = t.dies := rfl
@[simp] theorem retire_mem (u : Use) (s t : State) : (retire u s t).mem = t.mem := rfl
@[simp] theorem retire_poison (u : Use) (s t : State) : (retire u s t).poison = t.poison := rfl
@[simp] theorem retire_sectorKey (u : Use) (s t : State) : (retire u s t).sectorKey = t.sectorKey := rfl
@[simp] theorem retire_slots (u : Use) (s t : State) : (retire u s t).slots = t.slots := rfl
@[simp] theorem retire_channels (u : Use) (s t : State) : (retire u s t).channels = t.channels := rfl
@[simp] theorem retire_moving (u : Use) (s t : State) : (retire u s t).moving = t.moving := rfl
@[simp] theorem retire_parked (u : Use) (s t : State) : (retire u s t).parked = t.parked := rfl
@[simp] theorem retire_slices (u : Use) (s t : State) : (retire u s t).slices = t.slices := rfl
@[simp] theorem retire_chanSlice (u : Use) (s t : State) : (retire u s t).chanSlice = t.chanSlice := rfl
@[simp] theorem retire_scStamp (u : Use) (s t : State) : (retire u s t).scStamp = t.scStamp := rfl
@[simp] theorem retire_scHigh (u : Use) (s t : State) : (retire u s t).scHigh = t.scHigh := rfl
@[simp] theorem retire_tenants (u : Use) (s t : State) : (retire u s t).tenants = t.tenants := rfl
@[simp] theorem retire_ctxs (u : Use) (s t : State) : (retire u s t).ctxs = t.ctxs := rfl
@[simp] theorem retire_queues (u : Use) (s t : State) : (retire u s t).queues = t.queues := rfl
@[simp] theorem retire_launches (u : Use) (s t : State) : (retire u s t).launches = t.launches := rfl
@[simp] theorem retire_nodes (u : Use) (s t : State) : (retire u s t).nodes = t.nodes := rfl
@[simp] theorem retire_invalid (u : Use) (s t : State) : (retire u s t).invalid = t.invalid := rfl
@[simp] theorem retire_noPage (u : Use) (s t : State) : (retire u s t).noPage = t.noPage := rfl
@[simp] theorem retire_flaws (u : Use) (s t : State) : (retire u s t).flaws = t.flaws := rfl
@[simp] theorem retire_fwHeld (u : Use) (s t : State) : (retire u s t).fwHeld = t.fwHeld := rfl
@[simp] theorem retire_links (u : Use) (s t : State) : (retire u s t).links = t.links := rfl
@[simp] theorem retire_flash (u : Use) (s t : State) : (retire u s t).flash = t.flash := rfl
@[simp] theorem retire_switor (u : Use) (s t : State) : (retire u s t).switor = t.switor := rfl
@[simp] theorem retire_time (u : Use) (s t : State) : (retire u s t).time = t.time := rfl
@[simp] theorem retire_dispatchNo (u : Use) (s t : State) : (retire u s t).dispatchNo = t.dispatchNo := rfl
@[simp] theorem retire_lastServed (u : Use) (s t : State) : (retire u s t).lastServed = t.lastServed := rfl
@[simp] theorem retire_issueNo (u : Use) (s t : State) : (retire u s t).issueNo = t.issueNo := rfl
@[simp] theorem retire_agenda (u : Use) (s t : State) : (retire u s t).agenda = t.agenda := rfl
@[simp] theorem retire_tick (u : Use) (s t : State) : (retire u s t).tick = t.tick := rfl
@[simp] theorem retire_w_wid (u : Use) (s t : State) : (retire u s t).w.wid = t.w.wid := rfl
@[simp] theorem retire_w_pc (u : Use) (s t : State) : (retire u s t).w.pc = t.w.pc := rfl
@[simp] theorem retire_w_regs (u : Use) (s t : State) : (retire u s t).w.regs = t.w.regs := rfl
@[simp] theorem retire_w_nregs (u : Use) (s t : State) : (retire u s t).w.nregs = t.w.nregs := rfl
@[simp] theorem retire_w_status (u : Use) (s t : State) : (retire u s t).w.status = t.w.status := rfl
@[simp] theorem retire_w_saved (u : Use) (s t : State) : (retire u s t).w.saved = t.w.saved := rfl
@[simp] theorem retire_w_entries (u : Use) (s t : State) : (retire u s t).w.entries = t.w.entries := rfl
@[simp] theorem retire_w_nextSeq (u : Use) (s t : State) : (retire u s t).w.nextSeq = t.w.nextSeq := rfl
@[simp] theorem retire_w_packet (u : Use) (s t : State) : (retire u s t).w.packet = t.w.packet := rfl
@[simp] theorem retire_w_sleepLeft (u : Use) (s t : State) : (retire u s t).w.sleepLeft = t.w.sleepLeft := rfl
@[simp] theorem retire_w_copyQ (u : Use) (s t : State) : (retire u s t).w.copyQ = t.w.copyQ := rfl
@[simp] theorem retire_w_tileQ (u : Use) (s t : State) : (retire u s t).w.tileQ = t.w.tileQ := rfl
@[simp] theorem retire_w_collQ (u : Use) (s t : State) : (retire u s t).w.collQ = t.w.collQ := rfl
@[simp] theorem retire_w_cgOpen (u : Use) (s t : State) : (retire u s t).w.cgOpen = t.w.cgOpen := rfl
@[simp] theorem retire_w_slots (u : Use) (s t : State) : (retire u s t).w.slots = t.w.slots := rfl
@[simp] theorem retire_w_hold (u : Use) (s t : State) : (retire u s t).w.hold = t.w.hold := rfl
@[simp] theorem retire_w_lastIssue (u : Use) (s t : State) : (retire u s t).w.lastIssue = t.w.lastIssue := rfl
@[simp] theorem retire_w_setNo (u : Use) (s t : State) : (retire u s t).w.setNo = t.w.setNo := rfl
@[simp] theorem retire_w_stopPc (u : Use) (s t : State) : (retire u s t).w.stopPc = t.w.stopPc := rfl
@[simp] theorem retire_w_skidPackets (u : Use) (s t : State) : (retire u s t).w.skidPackets = t.w.skidPackets := rfl
@[simp] theorem retire_w_bcast (u : Use) (s t : State) : (retire u s t).w.bcast = t.w.bcast := rfl
@[simp] theorem retire_w_part (u : Use) (s t : State) : (retire u s t).w.part = t.w.part := rfl
@[simp] theorem retire_w_scSaved (u : Use) (s t : State) : (retire u s t).w.scSaved = t.w.scSaved := rfl
@[simp] theorem retire_w_meeting (u : Use) (s t : State) : (retire u s t).w.meeting = t.w.meeting := rfl
@[simp] theorem State.mapRegs_w_wid (s : State) (f : Regs → Regs) : (s.mapRegs f).w.wid = s.w.wid := rfl
@[simp] theorem State.mapRegs_w_pc (s : State) (f : Regs → Regs) : (s.mapRegs f).w.pc = s.w.pc := rfl
@[simp] theorem State.mapRegs_w_clk (s : State) (f : Regs → Regs) : (s.mapRegs f).w.clk = s.w.clk := rfl
@[simp] theorem State.mapRegs_w_nregs (s : State) (f : Regs → Regs) : (s.mapRegs f).w.nregs = s.w.nregs := rfl
@[simp] theorem State.mapRegs_w_status (s : State) (f : Regs → Regs) : (s.mapRegs f).w.status = s.w.status := rfl
@[simp] theorem State.mapRegs_w_saved (s : State) (f : Regs → Regs) : (s.mapRegs f).w.saved = s.w.saved := rfl
@[simp] theorem State.mapRegs_w_entries (s : State) (f : Regs → Regs) : (s.mapRegs f).w.entries = s.w.entries := rfl
@[simp] theorem State.mapRegs_w_nextSeq (s : State) (f : Regs → Regs) : (s.mapRegs f).w.nextSeq = s.w.nextSeq := rfl
@[simp] theorem State.mapRegs_w_windows (s : State) (f : Regs → Regs) : (s.mapRegs f).w.windows = s.w.windows := rfl
@[simp] theorem State.mapRegs_w_packet (s : State) (f : Regs → Regs) : (s.mapRegs f).w.packet = s.w.packet := rfl
@[simp] theorem State.mapRegs_w_sleepLeft (s : State) (f : Regs → Regs) : (s.mapRegs f).w.sleepLeft = s.w.sleepLeft := rfl
@[simp] theorem State.mapRegs_w_copyQ (s : State) (f : Regs → Regs) : (s.mapRegs f).w.copyQ = s.w.copyQ := rfl
@[simp] theorem State.mapRegs_w_tileQ (s : State) (f : Regs → Regs) : (s.mapRegs f).w.tileQ = s.w.tileQ := rfl
@[simp] theorem State.mapRegs_w_collQ (s : State) (f : Regs → Regs) : (s.mapRegs f).w.collQ = s.w.collQ := rfl
@[simp] theorem State.mapRegs_w_cgOpen (s : State) (f : Regs → Regs) : (s.mapRegs f).w.cgOpen = s.w.cgOpen := rfl
@[simp] theorem State.mapRegs_w_slots (s : State) (f : Regs → Regs) : (s.mapRegs f).w.slots = s.w.slots := rfl
@[simp] theorem State.mapRegs_w_hold (s : State) (f : Regs → Regs) : (s.mapRegs f).w.hold = s.w.hold := rfl
@[simp] theorem State.mapRegs_w_lastIssue (s : State) (f : Regs → Regs) : (s.mapRegs f).w.lastIssue = s.w.lastIssue := rfl
@[simp] theorem State.mapRegs_w_setNo (s : State) (f : Regs → Regs) : (s.mapRegs f).w.setNo = s.w.setNo := rfl
@[simp] theorem State.mapRegs_w_stopPc (s : State) (f : Regs → Regs) : (s.mapRegs f).w.stopPc = s.w.stopPc := rfl
@[simp] theorem State.mapRegs_w_skid (s : State) (f : Regs → Regs) : (s.mapRegs f).w.skid = s.w.skid := rfl
@[simp] theorem State.mapRegs_w_skidPackets (s : State) (f : Regs → Regs) : (s.mapRegs f).w.skidPackets = s.w.skidPackets := rfl
@[simp] theorem State.mapRegs_w_bcast (s : State) (f : Regs → Regs) : (s.mapRegs f).w.bcast = s.w.bcast := rfl
@[simp] theorem State.mapRegs_w_badRegs (s : State) (f : Regs → Regs) : (s.mapRegs f).w.badRegs = s.w.badRegs := rfl
@[simp] theorem State.mapRegs_w_part (s : State) (f : Regs → Regs) : (s.mapRegs f).w.part = s.w.part := rfl
@[simp] theorem State.mapRegs_w_scSaved (s : State) (f : Regs → Regs) : (s.mapRegs f).w.scSaved = s.w.scSaved := rfl
@[simp] theorem State.mapRegs_w_meeting (s : State) (f : Regs → Regs) : (s.mapRegs f).w.meeting = s.w.meeting := rfl
@[simp] theorem State.mapRegs_w_regs (s : State) (f : Regs → Regs) : (s.mapRegs f).w.regs = f s.w.regs := rfl
@[simp] theorem State.enqueue_w_wid (s : State) (e : PathEntry) : (s.enqueue e).w.wid = s.w.wid := rfl
@[simp] theorem State.enqueue_w_pc (s : State) (e : PathEntry) : (s.enqueue e).w.pc = s.w.pc := rfl
@[simp] theorem State.enqueue_w_regs (s : State) (e : PathEntry) : (s.enqueue e).w.regs = s.w.regs := rfl
@[simp] theorem State.enqueue_w_clk (s : State) (e : PathEntry) : (s.enqueue e).w.clk = s.w.clk := rfl
@[simp] theorem State.enqueue_w_nregs (s : State) (e : PathEntry) : (s.enqueue e).w.nregs = s.w.nregs := rfl
@[simp] theorem State.enqueue_w_status (s : State) (e : PathEntry) : (s.enqueue e).w.status = s.w.status := rfl
@[simp] theorem State.enqueue_w_saved (s : State) (e : PathEntry) : (s.enqueue e).w.saved = s.w.saved := rfl
@[simp] theorem State.enqueue_w_windows (s : State) (e : PathEntry) : (s.enqueue e).w.windows = s.w.windows := rfl
@[simp] theorem State.enqueue_w_packet (s : State) (e : PathEntry) : (s.enqueue e).w.packet = s.w.packet := rfl
@[simp] theorem State.enqueue_w_sleepLeft (s : State) (e : PathEntry) : (s.enqueue e).w.sleepLeft = s.w.sleepLeft := rfl
@[simp] theorem State.enqueue_w_copyQ (s : State) (e : PathEntry) : (s.enqueue e).w.copyQ = s.w.copyQ := rfl
@[simp] theorem State.enqueue_w_tileQ (s : State) (e : PathEntry) : (s.enqueue e).w.tileQ = s.w.tileQ := rfl
@[simp] theorem State.enqueue_w_collQ (s : State) (e : PathEntry) : (s.enqueue e).w.collQ = s.w.collQ := rfl
@[simp] theorem State.enqueue_w_cgOpen (s : State) (e : PathEntry) : (s.enqueue e).w.cgOpen = s.w.cgOpen := rfl
@[simp] theorem State.enqueue_w_slots (s : State) (e : PathEntry) : (s.enqueue e).w.slots = s.w.slots := rfl
@[simp] theorem State.enqueue_w_hold (s : State) (e : PathEntry) : (s.enqueue e).w.hold = s.w.hold := rfl
@[simp] theorem State.enqueue_w_lastIssue (s : State) (e : PathEntry) : (s.enqueue e).w.lastIssue = s.w.lastIssue := rfl
@[simp] theorem State.enqueue_w_setNo (s : State) (e : PathEntry) : (s.enqueue e).w.setNo = s.w.setNo := rfl
@[simp] theorem State.enqueue_w_stopPc (s : State) (e : PathEntry) : (s.enqueue e).w.stopPc = s.w.stopPc := rfl
@[simp] theorem State.enqueue_w_skid (s : State) (e : PathEntry) : (s.enqueue e).w.skid = s.w.skid := rfl
@[simp] theorem State.enqueue_w_skidPackets (s : State) (e : PathEntry) : (s.enqueue e).w.skidPackets = s.w.skidPackets := rfl
@[simp] theorem State.enqueue_w_bcast (s : State) (e : PathEntry) : (s.enqueue e).w.bcast = s.w.bcast := rfl
@[simp] theorem State.enqueue_w_badRegs (s : State) (e : PathEntry) : (s.enqueue e).w.badRegs = s.w.badRegs := rfl
@[simp] theorem State.enqueue_w_part (s : State) (e : PathEntry) : (s.enqueue e).w.part = s.w.part := rfl
@[simp] theorem State.enqueue_w_scSaved (s : State) (e : PathEntry) : (s.enqueue e).w.scSaved = s.w.scSaved := rfl
@[simp] theorem State.enqueue_w_meeting (s : State) (e : PathEntry) : (s.enqueue e).w.meeting = s.w.meeting := rfl

end Sys2Proof.Machine
end

