-- ==== Sys2Proof/Tests/Slice0.lean ====
section
/-!
SUPPORT. The model's own tests: decoding, well-formedness, values from the spec's worked cases, one step, and a witness for every statement
that has hypotheses.
-/
namespace Sys2Proof.Tests
open Sys2Proof Sys2Proof.Machine

set_option maxRecDepth 20000
set_option Elab.async false

/-! ### Decoding: the words of the spec's own listings (03_packet.md to 15_barrier.md) -/

/-- 03_packet.md and 05_scalar.md: the worked words of the scalar majors. -/
theorem test_decode_scalar : ∀ x ∈ ([
    (0x08020401, .saddI 8 8 1), (0x080244C0, .saddI 9 9 0x40), (0x00200000, .exit), (0x00000000, .nop), (0x0602860E, .sadd64 10 12 14),
    (0x0920C184, .sshlI 3 3 4), (0x0DA40232, .scmpI 6 2 4 50), (0x150FFFFD, .bc 2 (-3)), (0x154FFFFD, .bnc 2 (-3)), (0x18100028, .call 40),
    (0x18200014, .jmp 20), (0x18300000, .ret), (0x1C590002, .mpush 100 2), (0x1CA02400, .waitcI 8 0), (0x1C0A0000, .rsr 40 0),
    (0x00800007, .trap 7), (0x00C08003, .ipf 2 3), (0x10228003, .sli 10 3), (0x1022_8004, .sli 10 4)] : List (Word × Instr)), instrOf x.1 = x.2 := by decide

/-- 06_lane_int.md. -/
theorem test_decode_lane_int : ∀ x ∈ ([
    (0x28008007, .vaddS32I 2 0 7), (0x20A14307, .vsubSatU32 5 6 7), (0x21C2860E, .vadd64 10 12 14), (0x25424483, .vshlS 9 9 3),
    (0x290040C0, .vminU32I 1 1 0x40), (0x2CC50205, .vmulWideU32 20 4 5), (0x3120C082, .vbfxS32 3 1 2), (0x34440001, .vcmp 2 2 0 0 1),
    (0x34B64409, .vcmp 5 11 1 8 9), (0x38604103, .pandn 1 2 3), (0x39610286, .vsel 11 4 5 6), (0x3C008182, .vsext8 2 3 2),
    (0x3CA1C380, .vsatU8S32 7 7)] : List (Word × Instr)), instrOf x.1 = x.2 := by decide

/-- 07_lane_float.md. -/
theorem test_decode_lane_float : ∀ x ∈ ([
    (0x4020C082, .fadd 1 3 1 2), (0x46814282, .fmulI 0 5 5 2), (0x48020307, .ffma 0 8 6 7), (0x4BE20309, .ffnmsS 3 8 6 9),
    (0x4F02858C, .hfmaBf16x2 0 10 11 12), (0x50460082, .vcmpF32 2 3 1 2), (0x50C00204, .vcmpF32 6 0 4 4), (0x5430C109, .vcvtWiden 0 3 0 3 2 9),
    (0x543A4482, .vcvtNarrow 0 3 1 1 9 2), (0x55020203, .vcvtWiden 1 0 1 0 4 3), (0x5801C300, .vrcp 7 6), (0x58E04100, .vtanh 1 2),
    (0x5C088A1E, .fdot 1 2 20 30), (0x5E190A9F, .idotSat 3 4 21 31)] : List (Word × Instr)), instrOf x.1 = x.2 := by decide

/-- 08_lane_cross.md and 09_chain.md. -/
theorem test_decode_lane_cross : ∀ x ∈ ([
    (0x6000C082, .vshflIdx 3 1 2), (0x60614210, .vshflXor 5 4 16), (0x6081825F, .vbcast 6 4 95), (0x64004100, .vsome 1 2), (0x644A0180, .vbits 40 3),
    (0x64C24400, .vredAddF32 9 8), (0x6542C500, .vscanxAddS32 11 10), (0x68030100, .vmatch 12 2), (0x68410100, .vlead 4 2), (0x68838088, .vtopk 14 1 8),
    (0x6C000000, .vlid 0), (0x6C21CA00, .vrnd 7 20), (0x80000008, .cbind 8), (0x80000060, .cbind 96), (0x80200000, .cunbind), (0x80430000, .cget 12),
    (0x80414080, .cgetP 5), (0x80600380, .cset 7), (0x84050208, .cadd 20 4 8), (0x84E54289, .csbbSat 21 5 9), (0x8540C208, .ccmp 10 3 4 8),
    (0x88040809, .cshl 16 16 9), (0x88640809, .cshrw 16 16 9), (0x8884020A, .cmac 16 4 10), (0x8C008084, .cld 0 0 0 2 1 4),
    (0x8EA0C090, .cst 1 1 0 3 1 16)] : List (Word × Instr)), instrOf x.1 = x.2 := by decide

/-- 10_buffer.md and 12_copy.md. -/
theorem test_decode_memory : ∀ x ∈ ([
    (0x90008084, .ld 0 0 0 0 2 1 4), (0x92A0C506, .ld 1 1 1 0 3 10 6), (0x94094184, .st 0 0 0 1 5 3 4), (0x94D84108, .st 0 1 2 3 1 2 8),
    (0x98110105, .atomAdd 2 4 2 5), (0x99E90106, .atomCas 5 4 2 6), (0x9A000107, .redAdd 0 0 2 7), (0x9C80C082, .sldB32 3 1 2),
    (0x9CE1817F, .sstB16 6 2 127), (0x9E024200, .satomAdd 9 4 0), (0xA0008A00, .ldrec 2 20), (0xA0200A02, .strec 20 2), (0xA0415400, .mkrec 5 40),
    (0xA0604100, .kmov 1 2), (0xA4000001, .fence 1), (0xA4200000, .rfence), (0xA4400A00, .pf 20 0), (0xA4600A16, .flush 20 22),
    (0xA4800A16, .inval 20 22), (0xA88C2060, .cpy32 1 3 4 6), (0xA80050B1, .stage 10 11), (0xA800A162, .waitge 20 22), (0xA9800003, .qfence 3),
    (0xA8006004, .rdstage 12)] : List (Word × Instr)), instrOf x.1 = x.2 := by decide

/-- 13_tile.md and 15_barrier.md; nemit s8, v12 and coll s20 are written from format S3 (R357, R397). -/
theorem test_decode_tile_barrier : ∀ x ∈ ([
    (0xC0000414, .mma 0 0 8 20), (0xC094061E, .mma 2 5 12 30), (0xC1EC4828, .mmaSat 7 11 16 40), (0xC4040014, .tzero 1 20), (0xC4804414, .tld 2 0 8 20),
    (0xC4C88496, .tst 3 2 9 22), (0xC408C814, .tget 2 16 20), (0xC4010214, .tfill 0 4 20), (0xC8000000, .mcommit), (0xC8004001, .mwait 1),
    (0xAC000003, .gbMeet 3), (0xAC200001, .gbPost 1), (0xAC400002, .gbAwait 2), (0xAC40C000, .gbAwaitPar 1 0), (0xAC600400, .gbBytes 8 0),
    (0xAC604481, .gbMembers 9 1), (0xAC800A18, .mbArm 20 24), (0xACA78A19, .mbPost 30 20 25), (0xACC00A1A, .mbBytes 20 26), (0xACE00A1E, .mbAwait 20 30),
    (0b101100#6 ++ 0#5 ++ 0#7 ++ 8#7 ++ 12#7, .nemit 8 12), (0b101100#6 ++ 1#5 ++ 0#7 ++ 20#7 ++ 0#7, .coll 20)] : List (Word × Instr)),
    instrOf x.1 = x.2 := by decide

/-- R90, R95: majors 0x38 to 0x3F raise FUTURE_OP, unassigned majors and minors ILL_OP. -/
theorem test_decode_faults : ∀ x ∈ ([
    (0xE0000000, .futureOp 0xE0000000), (0xE8000001, .futureOp 0xE8000001), (0xF4000000, .futureOp 0xF4000000), (0xFC000000, .futureOp 0xFC000000),
    (0x74000000, .illOp 0x74000000), (0xB4000000, .illOp 0xB4000000), (0x06400000, .illOp 0x06400000), (0x0A000000, .illOp 0x0A000000), (0xA4A00000, .illOp 0xA4A00000), (0xC8010000, .illOp 0xC8010000)] : List (Word × Instr)), instrOf x.1 = x.2 := by decide

/-- R73, 03_packet.md: the header of the first worked packet: c01, guards p1, always and always, lookaheads 4 and 2. -/
theorem test_decode_header : decodeHeader 0x00480605 =
    { literal := 0, la2 := 0, la1 := 2, la0 := 4, guard2 := 0, guard1 := 12, guard0 := 1, c12 := false, c01 := true } ∧
    (decodeHeader 0x4002C030).literal = 2 ∧ (decodeHeader 0x4002C030).guard2 = 12 := by decide

/-- The table's view of the decoder. -/
theorem test_decodeTableWord : decodeTableWord 32 0x28008007 = some (.vaddS32I 2 0 7) ∧ decodeTableWord 32 0xFC000000 = none := by decide

/-! ### Well-formedness: a term that each check refuses (R87, R88, R90..R94) -/

theorem test_wf_refuses : ∀ i ∈ ([
    .ipf 0 0, .ipf 5 0, .sadd64 1 2 4, .sadd64 2 3 4, .ssub64 2 4 5, .scmp 10 0 1 2, .scmpI 15 0 1 2, .jmp 21, .rsr 3 13, .rsr 3 0, .rsr 3 11, .wsr 2 10,
    .wsr 3 11, .mpush 123 0, .mpush 5 12, .mflip 123 0, .mpop 124, .mvps 126 0, .mvsp 12 4, .mvsp 0 124, .waitc 6 0, .waitcI 7 0, .vadd64 2 4 7,
    .vsub64 3 4 6, .vmulWideS32 5 0 1, .vcmp 6 0 0 1 2, .vcmp 0 12 0 1 2, .vcmp 0 0 2 1 2, .pand 12 0 0, .pnot 0 13, .pset 12, .vsel 20 0 1 2,
    .vsext8 0 1 4, .vsext16 0 1 2, .vsatS32S64 0 1, .vcmpF32 8 0 1 2, .vcvtWiden 3 0 0 0 1 2, .vcvtWiden 0 0 0 0 1 2, .vcvtWiden 0 15 0 0 1 2,
    .vcvtWiden 0 3 0 4 1 2, .vcvtWiden 0 3 1 0 1 2, .vshflUp 0 1 96, .vbcast 0 1 96, .vsome 0 12, .vbits 123 0, .vlead 12 0, .vrnd 0 1, .cbind 5,
    .cgetP 12, .ccmp 14 0 1 2, .cmac 0 1 2, .cld 0 1 0 0 0 0, .ld 0 1 3 0 0 0 0, .st 0 2 0 0 0 0 0, .atomAdd 6 0 0 0, .redXor 7 0 0 0, .ldrec 0 1,
    .mkrec 0 4, .fence 5, .pf 2 2, .pf 3 0, .flush 1 2, .waitge 2 3, .qfence 0, .gbMeet 16, .gbMembers 0 16, .mbArm 1 0, .mbAwait 1 0, .nemit 0 2,
    .coll 1, .mma 9 0 0 0, .mma 0 12 0 0, .mma 0 0 0 1, .mmaSat 6 0 0 0, .tzero 4 0, .tzero 0 1, .tld 3 0 0 0, .tst 8 0 0 0, .tget 4 0 0,
    .tget 2 2 0, .tfill 1 1 0] : List Instr), i.wf = false := by decide

/-- Each of them is an ILL_OP at decode (R89). -/
theorem test_wf_illOp : ∀ i ∈ ([.ipf 5 0, .sadd64 1 2 4, .scmp 15 0 1 2, .jmp 21, .vcmp 6 0 0 1 2, .cbind 5, .ld 0 1 3 0 0 0 0, .qfence 0, .gbMeet 16,
    .mma 9 0 0 0, .tget 2 2 0] : List Instr), (encode i).map decode = some (.error .illOp) := by decide

/-! ### Values: one instruction each on a small state -/

/-- A resident warp whose registers are r, a slot of it in the issue stage. -/
def slot (r : Regs) : State :=
  { State.reset with w := { State.reset.w with regs := r }, g := { State.reset.g with status := .resident },
                     iss := { Issue.empty with at_ := 0x1004, next := 0x1008, back := { Undo.zero with regs := r } } }
/-- All 96 lanes active. -/
def full : Regs := Regs.zero.maskSet (BitVec.allOnes 96)
/-- The lanes of the low word of m active. -/
def low (m : Word) : Regs := Regs.zero.maskSet (m.setWidth 96)
/-- r with vector registers that hold one word in every lane. -/
def vs (r : Regs) (l : List (Nat × Word)) : Regs :=
  l.foldl (fun r x => r.vset (BitVec.ofNat 7 x.1) (Vector.replicate 96 x.2)) r
/-- r with vector registers that hold the listed words in their first lanes. -/
def vl (r : Regs) (l : List (Nat × List Word)) : Regs :=
  l.foldl (fun r x => r.vset (BitVec.ofNat 7 x.1) (Vector.ofFn fun i => (x.2[i.val]?).getD 0)) r
/-- r with scalar registers. -/
def ss (r : Regs) (l : List (Nat × Word)) : Regs := l.foldl (fun r x => r.sset (BitVec.ofNat 7 x.1) x.2) r
/-- What f reads of the state after an instruction. -/
def outOf {α : Type} (f : State → α) (i : Instr) (s : State) : Option α := match exec i s with | .next t => some (f t) | _ => none
/-- A lane of a vector register after an instruction. -/
def vOut (d : BitVec 7) (l : Nat) (i : Instr) (r : Regs) : Option Word := outOf (fun t => laneAt (t.w.regs.vget d) l) i (slot r)
/-- The first n lanes of a vector register after an instruction. -/
def vFirst (d : BitVec 7) (n : Nat) (i : Instr) (r : Regs) : Option (List Word) :=
  outOf (fun t => (List.range n).map (laneAt (t.w.regs.vget d))) i (slot r)
/-- A scalar register after an instruction. -/
def sOut (d : BitVec 7) (i : Instr) (r : Regs) : Option Word := outOf (fun t => t.w.regs.sget d) i (slot r)

/-- 06_lane_int.md, the edge table: saturation and absolute difference. -/
theorem test_lane_saturate :
    vOut 3 95 (.vaddSatS32 3 1 2) (vs full [(1, 0x7FFFFFF0), (2, 0x20)]) = some 0x7FFFFFFF ∧
    addSatU 0xFFFFFFF0 0x20 = 0xFFFFFFFF ∧ subSatU 5 9 = 0 ∧ subSatS 0x80000000 1 = 0x80000000 ∧ absDiffS 0x80000000 0x7FFFFFFF = 0xFFFFFFFF ∧
    madSatS 0x40000000 2 0 = 0x7FFFFFFF := by decide

/-- 06_lane_int.md, the edge table: shifts, products, funnel shift, bit counts. -/
theorem test_lane_bits :
    vOut 3 0 (.vsra 3 1 2) (vs full [(1, 0x80000000), (2, 40)]) = some 0xFFFFFFFF ∧ mulHiS 0xFFFFFFFF 2 = 0xFFFFFFFF ∧
    mulHiU 0xFFFFFFFF 2 = 1 ∧ vOut 3 7 (.vfshl 3 1 2) (vs full [(3, 0x12345678), (1, 0x9ABCDEF0), (2, 8)]) = some 0x3456789A ∧
    popCount 0xF0F00001 = 9 ∧ clz 0 = 32 ∧ bitRev 1 = 0x80000000 := by decide

/-- 06_lane_int.md: vsat.s32.s64 of 2^32, in the pair v8, v9. -/
theorem test_lane_sat64 : vOut 3 1 (.vsatS32S64 3 8) (vs full [(8, 0), (9, 1)]) = some 0x7FFFFFFF := by decide

/-- 05_scalar.md R128: sbfx of the field at 28, 12 bits long. -/
theorem test_sbfx : sOut 3 (.sbfxU32 3 1 2) (ss full [(1, 0xA0000000), (2, 0x0C1C)]) = some 0xA ∧
    sOut 3 (.sbfxS32 3 1 2) (ss full [(1, 0xA0000000), (2, 0x0C1C)]) = some 0xFFFFFFFA := by decide

/-- R125: sadd64 carries into the odd register (2^32 - 1 + 1). -/
theorem test_sadd64 : sOut 11 (.sadd64 10 12 14) (ss full [(12, 0xFFFFFFFF), (14, 1)]) = some 1 := by decide

/-- 07_lane_float.md, the edge table: addition and multiplication. -/
theorem test_float_add :
    vOut 3 95 (.fadd 1 3 1 2) (vs full [(1, 0x7F7FFFFF), (2, 0x7F7FFFFF)]) = some 0x7F7FFFFF ∧ fAdd .rne 0x7F7FFFFF 0x7F7FFFFF = 0x7F800000 ∧
    fAdd .rd 0x3F800000 0xBF800000 = 0x80000000 ∧ fAdd .rne 0x7F800000 0xFF800000 = 0x7FC00000 ∧ fMul .rne 0x00800000 0x3F000000 = 0x00400000 ∧
    fMul .rne 0x3F800001 0x3F800001 = 0x3F800002 ∧ fAdd .rne 0x3F800002 0xBF800002 = 0 := by decide

/-- 07_lane_float.md: the fused product, rounded once. -/
theorem test_float_fma : vOut 3 2 (.ffma 0 3 1 2) (vs full [(3, 0xBF800002), (1, 0x3F800001), (2, 0x3F800001)]) = some 0x28800000 := by decide

/-- 07_lane_float.md: minimum, maximum, negation, packed addition, comparison. -/
theorem test_float_min :
    fMin 0x7FC00000 0x3F800000 = 0x3F800000 ∧ fMin 0 0x80000000 = 0x80000000 ∧ fMax 0xFF800001 0x7FA00000 = 0x7FC00000 ∧
    fNeg 0xFFC12345 = 0x7FC00000 ∧ vOut 3 0 (.haddF16x2 0 3 1 2) (vs full [(1, 0x7BFF3C00), (2, 0x7BFF3C00)]) = some 0x7C004000 ∧
    outOf (fun t => (t.w.regs.pget 5).getLsbD 95) (.vcmpF32 0 5 1 2) (slot (vs full [(1, 0), (2, 0x80000000)])) = some true := by decide

/-- 07_lane_float.md: conversions. -/
theorem test_float_convert :
    vOut 3 0 (.vcvtNarrow 0 2 0 1 3 1) (vs full [(1, 0x3F808000), (3, 0x1234)]) = some 0x3F801234 ∧
    cvtNarrow (.flt .f32) (.flt .bf16) .ru 1 0x3F808000 0x1234 = 0x3F811234 ∧ cvtNarrow (.flt .f32) (.int true 32) .rz 0 0xCF000001 0 = 0x80000000 ∧
    cvtNarrow (.flt .f32) (.int false 32) .rz 0 0xBF800000 0 = 0 ∧ cvtWiden (.flt .f32) (.flt .e5m2) .rne 0 0x7D = 0x7FC00000 := by decide

/-- 07_lane_float.md: vrcp, vrsq and vexp2 at the edge. -/
theorem test_float_special :
    vOut 3 0 (.vrcp 3 1) (vs full [(1, 1)]) = some 0x7F800000 ∧ vOut 3 0 (.vrsq 3 1) (vs full [(1, 0x80000000)]) = some 0xFF800000 ∧
    vOut 3 0 (.vexp2 3 1) (vs full [(1, 0xC3150000)]) = some 1 := by decide

/-- 07_lane_float.md, the worked fdot: formats mixed, a scale, bits lost in a chunk. -/
theorem test_fdot : vOut 20 0 (.fdot 1 2 20 30) (ss (vs (low 1) [(4, 0x00B80950), (8, 0x003C2940), (20, 0xBF000000)]) [(30, 0x102)]) = some 0x426E02C0 := by
  decide

/-- 04_warp.md, kernel split_at_40: mpush, mflip and mpop. -/
theorem test_masks :
    outOf (fun t => (t.w.regs.mask, t.w.regs.sget 102)) (.mpush 100 2) (slot (full.pset 2 0xFFFFFFFFFF)) = some (0xFFFFFFFFFF, 0xFFFFFFFF) ∧
    outOf (fun t => t.w.regs.mask) (.mflip 100 2) (slot ((ss (low 0) [(100, 0xFFFFFFFF), (101, 0xFFFFFFFF), (102, 0xFFFFFFFF)]).pset 2 0xFFFFFFFFFF)) =
      some 0xFFFFFFFFFFFFFF0000000000 ∧
    outOf (fun t => t.w.regs.mask) (.mpop 100) (slot (ss (low 0) [(100, 0xFFFFFFFF), (101, 0xFFFFFFFF), (102, 0xFFFFFFFF)])) =
      some (BitVec.allOnes 96) := by decide

/-- 08_lane_cross.md: the two orders of a float sum over lanes 0, 2, 3 and 5. -/
theorem test_cross_sum :
    vOut 9 5 (.vredAddF32 9 8) (vl (low 0x2D) [(8, [0x4B800000, 0, 0x3F800000, 0x3F800000, 0, 0])]) = some 0x4B800001 ∧
    vFirst 9 6 (.vscanAddF32 9 8) (vl (low 0x2D) [(8, [0x4B800000, 0, 0x3F800000, 0x3F800000, 0, 0])]) =
      some [0x4B800000, 0, 0x4B800000, 0x4B800000, 0, 0x4B800000] := by decide

/-- 09_chain.md, the worked case of two 128-bit chains: its operands. -/
def chains (carry : Carries) (l : List (Nat × List Word)) : Regs :=
  let r := vl (low 0xFF) ([(4, [0xFFFFFFFF, 0xFFFFFFFF, 0xFFFFFFFF, 0xFFFFFFFF, 0, 0, 0, 1]), (5, [1, 2, 0, 0, 0xFFFFFFFF, 3, 0, 0])] ++ l)
  ss { r with chn := 4, carry := carry } [(10, 1)]
/-- The carry words of chains 0 and 1 after an instruction. -/
def carries (i : Instr) (r : Regs) : Option (Word × Word) := outOf (fun t => (t.w.regs.carry[0], t.w.regs.carry[1])) i (slot r)

/-- cadd and cadd.sat of the worked case. -/
theorem test_chain_add :
    vFirst 20 8 (.cadd 20 4 5) (chains (Vector.replicate 48 0) []) = some [0, 2, 0, 0, 0xFFFFFFFF, 3, 0, 1] ∧
    carries (.cadd 20 4 5) (chains (Vector.replicate 48 0) []) = some (1, 0) ∧
    vFirst 21 8 (.caddSat 21 4 5) (chains (Vector.replicate 48 0) []) =
      some [0xFFFFFFFF, 0xFFFFFFFF, 0xFFFFFFFF, 0xFFFFFFFF, 0xFFFFFFFF, 3, 0, 1] := by decide

/-- cmac and cshrw of the worked case. -/
theorem test_chain_mac :
    vFirst 22 8 (.cmac 22 4 10) (chains (Vector.replicate 48 0) []) = some [0xFFFFFFFE, 0xFFFFFFFF, 0xFFFFFFFF, 0xFFFFFFFF, 0, 0, 0, 3] ∧
    carries (.cmac 22 4 10) (chains (Vector.replicate 48 0) []) = some (1, 0) ∧
    vFirst 22 8 (.cshrw 22 22 10) (chains ((Vector.replicate 48 0).set 0 1)
      [(22, [0xFFFFFFFE, 0xFFFFFFFF, 0xFFFFFFFF, 0xFFFFFFFF, 0, 0, 0, 3])]) = some [0xFFFFFFFF, 0xFFFFFFFF, 0xFFFFFFFF, 1, 0, 0, 3, 0] ∧
    carries (.cshrw 22 22 10) (chains ((Vector.replicate 48 0).set 0 1)
      [(22, [0xFFFFFFFE, 0xFFFFFFFF, 0xFFFFFFFF, 0xFFFFFFFF, 0, 0, 0, 3])]) = some (0xFFFFFFFE, 0) := by decide

/-- R190: a guard set in lanes 0 and 1 alone splits chain 0: a CHAIN_SPLIT trap whose record carries the mask 1 and n = 4. -/
theorem test_chain_split :
    let r := (chains (Vector.replicate 48 0) []).pset 3 3
    outOf (fun t => t.g.trap.map fun x => (x.cause, laneAt (t.w.regs.vget 23) 0)) (.cadd 23 4 5)
      { slot r with iss := { (slot r).iss with guard := 3 } } = some (some (.chainSplit, 0)) := by decide

/-- One step runs the placed word: sadd s8, s8, 1 writes s8 and leaves the pc at 0x1008; a FUTURE_OP word halts the warp (R90, R309). -/
theorem test_step :
    (match step (State.reset.withFetchWord 32 0x08020401) with
      | .next s => (s.groups.head?.bind fun g => g.warps.head?).map fun w => (w.regs.sget 8, w.pc)
      | _ => none) = some (1, 0x1008) ∧
    (match step (State.reset.withFetchWord 32 0xFC000000) with
      | .next s => s.groups.head?.bind fun g => g.warps.head?.map fun w => (w.status, w.pc, g.trap.map (·.cause))
      | _ => none) = some (.halted, 0x1004, some .futureOp) := by decide

/-! ### Witnesses: a state and operands that meet the hypotheses of each statement -/

/-- Nothing in the state keeps or turns away a slot: no window, entry, hold or guard, literals for every escape,
no word that ECC cannot correct, no chain bound that the mask splits. -/
def calm (s : State) : Bool :=
  decide (2 ≤ s.iss.lits.length) && decide (s.iss.la ≠ 15) && decide (s.w.windows = []) && decide (s.w.entries = []) && decide (s.w.hold = .none) &&
  decide (s.iss.guard = 12) && decide (s.w.badRegs = []) && (decide (s.src.chn = 0) || decide (guardSplits s.src.chn s.src.mask s.active = 0))

/-- In such a state every use whose fields are well formed and whose registers are allocated is free. -/
theorem free_of_calm {u : Use} {s : State} (hc : calm s = true) (hw : u.wf = true) (hv : u.vtop ≤ s.w.nregs) : Free u s := by
  simp only [calm, Bool.and_eq_true, Bool.or_eq_true, decide_eq_true_eq] at hc
  obtain ⟨⟨⟨⟨⟨⟨⟨hl, hla⟩, hwin⟩, hent⟩, hh⟩, hg⟩, hb⟩, hs⟩ := hc
  have hp : ∀ n, s.w.pending n = [] := fun n => by simp [Warp.pending, hent]
  exact
    { literal := fun f _ => by
        simp only [immOk]
        split
        · exact decide_eq_true (by omega)
        · split
          · exact decide_eq_true (by omega)
          · rfl
      fields := hw, lookahead := fun h => absurd h hla, registers := hv, results := by simp [awaitsResult, hwin], cache := by rw [hh]; rfl
      guard := fun _ => by rw [hg]; rfl, windows := by simp [laConflict, hwin, hp, meets], chains := fun _ h => hs.resolve_left h
      room := fun p _ => by simp [Warp.counter, Warp.onPath, hent], fence := fun _ => hh, words := by simp [badLanes, hb] }

/-- The hypotheses of Retires. -/
def Met (u : Use) (s t : State) : Prop := Free u s ∧ (s.iss.chained = true ∨ leavesSplit u t = false)

theorem met_of_calm {u : Use} {s : State} (t : State) (hc : calm s = true) (hw : u.wf = true) (hv : u.vtop ≤ s.w.nregs)
    (hm : u.touchesMask = false ∨ t.w.regs.chn = 0) : Met u s t :=
  ⟨free_of_calm hc hw hv, .inr <| by rcases hm with h | h <;> simp [leavesSplit, h]⟩

/-- A calm slot over registers r. -/
def free (r : Regs) : State := { slot r with iss := { (slot r).iss with lits := [7, 0x80000000] } }
theorem free_calm : calm (free full) = true := by decide +kernel

/-- ScalarRegisterForms, ScalarImmediateForms, ScalarOtherForms, ConditionForms, ConditionalBranches: no hypothesis beside a free slot; the
highest register of each field, the two literals and the last codes. -/
theorem witness_scalar (t : State) :
    Met { reads := [.s 127, .s 0], writes := [.s 124] } (free full) t ∧ Met { imm := some 0x41, reads := [.s 0], writes := [.s 124] } (free full) t ∧
    Met { wf := even 126#7 && even 126#7 && even 0#7, reads := rspair 126#7 ++ rspair 0#7, writes := rspair 126#7 } (free full) (free full) ∧
    Met { wf := decide ((9#4).toNat ≤ 9), imm := some 0x40, reads := [.s 1], writes := [.c 7] } (free full) t ∧
    Met { reads := maskRegs } (free full) t ∧ (63#7).toNat ≤ 63 ∧ 66 ≤ (66#7).toNat ∧ (even 10#7 && even 12#7 && even 15#7) = false :=
  ⟨met_of_calm t free_calm rfl (by decide +kernel) (.inl (by decide +kernel)), met_of_calm t free_calm rfl (by decide +kernel) (.inl (by decide +kernel)),
    met_of_calm _ free_calm rfl (by decide +kernel) (.inr (by decide +kernel)), met_of_calm t free_calm rfl (by decide +kernel) (.inl (by decide +kernel)),
    met_of_calm t free_calm rfl (by decide +kernel) (.inl (by decide +kernel)), by decide +kernel⟩

/-- Transfers: an address pair that is a multiple of 16 in an upper half of all ones, and one that is 8 past it. -/
theorem witness_transfers (t : State) :
    Met { wf := even 120#7, reads := rspair 120#7 } (free (ss full [(120, 0xFFFFFFF0), (121, 0xFFFFFFFF)])) t ∧
    ((ss full [(120, 0xFFFFFFF0), (121, 0xFFFFFFFF)]).spair 120).toNat % 2 ^ 48 % 16 = 0 ∧
    Free { wf := even 120#7, reads := rspair 120#7 } (free (ss full [(120, 8)])) ∧ ((ss full [(120, 8)]).spair 120).toNat % 2 ^ 48 % 16 ≠ 0 ∧
    Met { writes := [.s 120, .s 121] } (free full) t :=
  ⟨met_of_calm t (by decide +kernel) rfl (by decide +kernel) (.inl (by decide +kernel)), by decide +kernel, free_of_calm (by decide +kernel) rfl (by decide +kernel), by decide +kernel,
    met_of_calm t free_calm rfl (by decide +kernel) (.inl (by decide +kernel))⟩

/-- StateRegisters: code 1 in a group that may not time, codes 12 and 11, a code of no register and an odd pair, and wsr. -/
theorem witness_state_registers (t : State) :
    (free full).g.desc.determ = false ∧ (free full).g.desc.timing = false ∧
    Free { wf := decide ((1#7).toNat ≤ 12) && even 126#7, writes := [.s 126, .s 127] } (free full) ∧
    Met { wf := decide ((12#7).toNat ≤ 12), writes := [.s 124] } (free full) t ∧
    12 < (13#7).toNat ∧ (11#7).toNat = 11 ∧ even 125#7 = false ∧ (12#7).toNat ≠ 11 ∧
    Met { wf := decide ((11#7).toNat = 11) && even 126#7, reads := rspair 126#7, writes := [.draw] } (free full) t :=
  ⟨rfl, rfl, free_of_calm free_calm rfl (by decide +kernel), met_of_calm t free_calm rfl (by decide +kernel) (.inl (by decide +kernel)),
    by decide +kernel, by decide +kernel, by decide +kernel, by decide +kernel,
    met_of_calm t free_calm rfl (by decide +kernel) (.inl (by decide +kernel))⟩

/-- MaskForms: the highest triple and the highest predicate, no chain bound. -/
theorem witness_masks :
    Met { wf := tripleBase 117#7 && predOk 11#4, reads := maskRegs ++ [.p 11], writes := rtriple 117#7 ++ maskRegs } (free full) (free full) ∧
    Met { wf := (tripleBase 125#7 || (125 : BitVec 7) == 125) && predOk 11#4, reads := [.p 11], writes := rtriple 125#7 } (free full) (free full) :=
  ⟨met_of_calm _ free_calm rfl (by decide +kernel) (.inr (by decide +kernel)), met_of_calm _ free_calm rfl (by decide +kernel) (.inr (by decide +kernel))⟩

/-- A load entry of the warp on path p, its number n. -/
def entry (n p : Nat) : PathEntry :=
  { seq := n, set := 0, path := p, pc := 0x1004, clk0 := 0, op := .load 4 false, dst := 8, order := 0, scope := 0, policy := 0,
    reqs := [{ lane := 0, va := 0x2000, drop := false, data := 0, len := 0 }], writes := [.v 8], pend := false, got := none, fails := [],
    done := false, back := none, parked := false }

/-- WaitsAndHints: waitc with nothing outstanding and a bound of 0; with one entry outstanding and a bound of 0 it stalls; ipf of four lines. -/
theorem witness_waits (t : State) :
    let v : Use := { wf := decide ((0#4) ≠ 6) && decide ((0#4) ≠ 7), imm := some 0 }
    let busy : State := { free full with w := { (free full).w with entries := [entry 0 0] }, iss := { (free full).iss with back := { Undo.zero with seq0 := 1, regs := full } } }
    Met v (free full) t ∧ ((free full).w.entries.filter fun e => e.path == 0 && decide (e.seq < (free full).iss.back.seq0)).length ≤ (immVal 0 []).toNat ∧
    Free v busy ∧ (immVal 0 busy.iss.lits).toNat < (busy.w.entries.filter fun e => e.path == 0 && decide (e.seq < busy.iss.back.seq0)).length ∧
    Met { wf := decide (1 ≤ (4#7).toNat) && decide ((4#7).toNat ≤ 4), imm := some 0x40 } (free full) t :=
  ⟨met_of_calm t free_calm rfl (by decide +kernel) (.inl (by decide +kernel)), by decide +kernel,
    { literal := fun f h => (by cases h; rfl), fields := rfl, lookahead := fun h => absurd h (by decide +kernel), registers := by decide +kernel, results := by decide +kernel,
      cache := rfl, guard := fun _ => rfl, windows := by decide +kernel, chains := fun h => absurd h (by decide +kernel), room := fun p h => (by cases h),
      fence := fun _ => rfl, words := by decide +kernel }, by decide +kernel, met_of_calm t free_calm rfl (by decide +kernel) (.inl (by decide +kernel))⟩

/-- The first 64 KiB of context 0 mapped on core 0, writable and executable. -/
def mapped (s : State) : State :=
  { s with cores := s.cores.set 0 { Core.fresh with
      tlb := [{ ctx := 0, va := 0, size := 65536, pa := 0x100000, w := true, x := true, a := 0xFFFF, d := 0xFFFF, o := false, key := 0, policy := 0 }] } }
/-- WaitsAndHints: a line that the cache holds, one of an executable page, and one whose tables lie in no window. -/
theorem witness_prefetch :
    let s := mapped (free full)
    let c : State := s.updCore 0 fun k => { k with icache := [{ ctx := 0, va := 0xFF80, data := [] }] }
    (∃ l ∈ (c.coreAt 0).icache, l.ctx = 0 ∧ l.va = 0xFF80) ∧ (s.coreAt 0).icache = [] ∧ (s.coreAt 0).ifills = [] ∧
    (match s.translate 0 0 0xFF80 false with | (.ok _ t, _) => t.x | _ => false) = true ∧
    (match s.translate 0 0 0x10000 false with | (.fail c, _) => decide (c = .addrFault) | _ => false) = true := by
  refine ⟨⟨_, .head _, rfl, rfl⟩, ?_⟩
  decide +kernel

/-- TrapInstructions, PreciseTrapTaken: a free slot of a resident group whose other warp runs, before a halt broadcast and after one. -/
theorem witness_traps :
    let s : State := { free full with g := { (free full).g with warps := [Warp.fresh 0 128 4, Warp.fresh 1 128 4] } }
    Free { imm := some 0x41 } s ∧ s.g.status = .resident ∧ (∃ x ∈ s.g.warps, x.status = .ready) ∧ s.w.bcast = false ∧
    { s.w with bcast := true }.bcast = true :=
  ⟨free_of_calm (by decide +kernel) rfl (by decide +kernel), rfl, ⟨Warp.fresh 1 128 4, .tail _ (.head _), rfl⟩, rfl, rfl⟩

/-- LaneBinaryForms, LaneOtherForms, PredicateForms, FloatForms, ShuffleForms, CrossLaneForms: v127 of 128 registers, the even pair v126, the
last predicate, the last codes of the compares and of vsel, shuffle distances 95 and 127. -/
theorem witness_lanes (t : State) :
    Met { vtop := vtop [127, 0, 127], reads := [.v 0, .v 127], writes := [.v 127], lane := true, shadowed := true } (free full) t ∧
    Met { wf := even 126#7 && even 126#7 && even 0#7, vtop := vtop [127, 127, 1], reads := rvpair 126#7 ++ rvpair 0#7, writes := rvpair 126#7, lane := true } (free full) t ∧
    Met { wf := decide ((3#7).toNat < 4), vtop := vtop [127, 0], reads := [.v 0], writes := [.v 127], lane := true } (free full) t ∧
    Met { wf := (decide ((5#5).toNat ≤ 5) && decide ((1#3).toNat ≤ 1)) && predOk 11#4, vtop := vtop [127, 0], reads := [.v 127, .v 0], writes := [.p 11],
          lane := true } (free full) t ∧
    Met { wf := decide (8 ≤ (19#5).toNat) && decide ((19#5).toNat ≤ 19), vtop := vtop [127, 0, 0], reads := [.v 0, .v 0, .p 11], writes := [.v 127],
          lane := true } (free full) t ∧
    Met { wf := decide ((95#7).toNat ≤ 95), vtop := vtop [127, 0], reads := [.v 0], writes := [.v 127], lane := true } (free full) t ∧
    Met { wf := tripleBase 117#7 && predOk 11#4, reads := [.p 11], writes := rtriple 117#7, lane := true } (free full) (free full) ∧
    predOk 11#4 = true ∧ (95 : Nat) < 96 ∧ 95 < (96#7).toNat :=
  ⟨met_of_calm t free_calm rfl (by decide +kernel) (.inl (by decide +kernel)), met_of_calm t free_calm rfl (by decide +kernel) (.inl (by decide +kernel)),
    met_of_calm t free_calm rfl (by decide +kernel) (.inl (by decide +kernel)), met_of_calm t free_calm rfl (by decide +kernel) (.inl (by decide +kernel)),
    met_of_calm t free_calm rfl (by decide +kernel) (.inl (by decide +kernel)), met_of_calm t free_calm rfl (by decide +kernel) (.inl (by decide +kernel)),
    met_of_calm _ free_calm rfl (by decide +kernel) (.inr (by decide +kernel)), by decide +kernel⟩

/-- ConversionAndDotForms: the last wide and other codes with an element 7, a control word that fdot takes, one that it does not, and those of idot. -/
theorem witness_dots (t : State) :
    Met { wf := cvtOk 0 14 7 && ((0#2) == 0 || cvtNarrowRounds 0 14), vtop := vtop [127, 0], reads := [.v 0, .v 127], writes := [.v 127], lane := true,
          shadowed := cvtFloat 14 } (free full) t ∧
    (fdotFormats ((0x4FF#32).extractLsb' 8 3).toNat).isSome = true ∧ (0x4FF#32) &&& 0xFFFFC800#32 = 0 ∧
    (fdotFormats ((0x500#32).extractLsb' 8 3).toNat).isNone = true ∧ (0x800#32) &&& 0xFFFFC800#32 ≠ 0 ∧
    (0x700#32) &&& 0xFFFFF8FF#32 = 0 ∧ (0x701#32) &&& 0xFFFFF8FF#32 ≠ 0 ∧
    Met { vtop := max (127 + 1) (max (4 * 31 + 4) (4 * 0 + 4)), reads := rvrun (4 * 31) 4 ++ rvrun 0 4 ++ [.v 127, .s 1], writes := [.v 127], lane := true,
          shadowed := true } (free full) t :=
  ⟨met_of_calm t free_calm (by decide +kernel) (by decide +kernel) (.inl (by decide +kernel)), by decide +kernel, by decide +kernel, by decide +kernel, by decide +kernel, by decide +kernel, by decide +kernel,
    met_of_calm t free_calm rfl (by decide +kernel) (.inl (by decide +kernel))⟩

/-- A calm slot with chains of n limbs bound. -/
def bound (n : Nat) : State := free { full with chn := n }

/-- ChainForms: no binding, bindings of 1 and of 96 limbs, the compare codes 8 and 13, a multiply-accumulate word below and at the limb count. -/
theorem witness_chains (t : State) :
    (free full).src.chn = 0 ∧ Free { vtop := vtop [127], reads := [.chn, .carry], writes := [.v 127], lane := true } (free full) ∧
    (bound 2).src.chn ≠ 0 ∧ Met { vtop := vtop [127], reads := [.chn, .carry], writes := [.v 127], lane := true } (bound 2) t ∧
    Met { wf := decide (8 ≤ (13#5).toNat) && decide ((13#5).toNat ≤ 13) && predOk 11#4, vtop := vtop [127, 0], reads := [.v 127, .v 0, .chn],
          writes := [.p 11], lane := true } (bound 96) t ∧
    Met { wf := even 126#7, vtop := vtop [127, 127], reads := [.v 126, .v 127, .v 127, .s 1, .chn], writes := [.v 127, .carry], lane := true } (bound 96) t ∧
    ((free (ss { full with chn := 96 } [(1, 95)])).src.sget 1).toNat < 96 ∧ 96 ≤ ((free (ss { full with chn := 96 } [(1, 96)])).src.sget 1).toNat ∧
    Met { wf := bindCounts.contains 96, reads := maskRegs, writes := [.chn, .carry] } { bound 96 with iss := { (bound 96).iss with chained := true } } t :=
  ⟨by decide +kernel, free_of_calm free_calm rfl (by decide +kernel), by decide +kernel, met_of_calm t (by decide +kernel) rfl (by decide +kernel) (.inl (by decide +kernel)),
    met_of_calm t (by decide +kernel) rfl (by decide +kernel) (.inl (by decide +kernel)), met_of_calm t (by decide +kernel) rfl (by decide +kernel) (.inl (by decide +kernel)), by decide +kernel, by decide +kernel,
    free_of_calm (by decide +kernel) (by decide +kernel) (by decide +kernel), .inl rfl⟩

/-- A record: base, extent in bytes, element format code, bounds mode. -/
def rec (base extent fmt mode : Nat) : BitVec 256 := BitVec.ofNat 256 (base + 2 ^ 64 * extent + 2 ^ 192 * fmt + 2 ^ 200 * mode + 2 ^ 202)

/-- LaneAddresses: the last element of an extent of 64 bytes, one past it in each mode, an extent smaller than an element; and the offsets of the
worked record of 10_buffer.md. -/
theorem witness_addresses :
    ¬((60 : Int) < 0 ∨ (recExtent (rec 0x1000 64 4 0) : Int) < 60 + (4 : Nat)) ∧ laneAddr (rec 0x1000 64 4 0) 60 4 = .ok 0x103C ∧
    ((recExtent (rec 0x1000 64 4 0) : Int) < 61 + (4 : Nat)) ∧ recMode (rec 0x1000 64 4 0) = 0 ∧ recMode (rec 0x1000 64 4 1) = 1 ∧
    recMode (rec 0x1000 64 4 2) = 2 ∧ laneAddr (rec 0x1000 64 4 2) 64 4 = .ok 0x103C ∧ recExtent (rec 0x1000 3 4 2) < 4 ∧
    laneAddr (rec 0xFFFFFFFFF000 0x2000 4 0) 0x1000 4 = .bad .addrFault 0x1000000000000 := by decide +kernel

/-- A slot with record k1, lanes 0 and 95 active, v1 holding the element index x in both. -/
def access (k : BitVec 256) (x : Word) : State := free (((vs full [(1, x)]).maskSet (BitVec.twoPow 96 95 ||| 1)).kset 1 k)

/-- LoadStoreForms, ChainAccessForms, AtomicForms: a usable record whose lanes have addresses, one that drops them all, an unusable record. -/
theorem witness_accesses (t : State) :
    recUsable (rec 0x2000 64 8 1) = true ∧ (124#7).toNat % fmtRegs 8 = 0 ∧ (124#7).toNat + fmtRegs 8 ≤ (access (rec 0x2000 64 8 1) 3).w.nregs ∧
    (∀ l ∈ lanesIn (access (rec 0x2000 64 8 1) 3).active,
      laneAddr (rec 0x2000 64 8 1) (laneOffset (access (rec 0x2000 64 8 1) 3).src (rec 0x2000 64 8 1) false 16 1 l) 16 = .ok 0x2030) ∧
    (∀ l ∈ lanesIn (access (rec 0x2000 64 8 1) 4).active,
      laneAddr (rec 0x2000 64 8 1) (laneOffset (access (rec 0x2000 64 8 1) 4).src (rec 0x2000 64 8 1) false 16 1 l) 16 = .drop) ∧
    Met (mUse false false 0 0 1 1 124 (access (rec 0x2000 64 8 1) 3)) (access (rec 0x2000 64 8 1) 3) t ∧
    Met (mUse true true 2 2 1 1 124 (access (rec 0x2000 64 8 1) 3)) (access (rec 0x2000 64 8 1) 3) t ∧
    recUsable (rec 0x2000 64 9 0) = false ∧ Free (mUse false false 0 0 1 1 127 (access (rec 0x2000 64 9 0) 3)) (access (rec 0x2000 64 9 0) 3) ∧
    Met (cUse false 1 2 1 1 127) (bound 96) t ∧ Free (cUse true 0 0 1 1 127) (free full) ∧
    atomUsable (rec 0x2000 64 7 1) = true ∧ (124#7).toNat % 4 = 0 ∧ (124#7).toNat + 4 ≤ (access (rec 0x2000 64 7 1) 7).w.nregs ∧
    (∀ l ∈ lanesIn (access (rec 0x2000 64 7 1) 7).active,
      laneAddr (rec 0x2000 64 7 1) (laneOffset (access (rec 0x2000 64 7 1) 7).src (rec 0x2000 64 7 1) false 8 1 l) 8 = .ok 0x2038) ∧
    Met (aUse .cas true 5 1 1 124 (access (rec 0x2000 64 7 1) 7)) (access (rec 0x2000 64 7 1) 7) t ∧
    atomUsable (rec 0x2000 64 3 1) = false ∧ Free (aUse .add true 5 1 1 127 (access (rec 0x2000 64 3 1) 7)) (access (rec 0x2000 64 3 1) 7) :=
  ⟨by decide +kernel, by decide +kernel, by decide +kernel, by decide +kernel, by decide +kernel, met_of_calm t (by decide +kernel) (by decide +kernel) (by decide +kernel) (.inl (by decide +kernel)),
    met_of_calm t (by decide +kernel) (by decide +kernel) (by decide +kernel) (.inl (by decide +kernel)), by decide +kernel, free_of_calm (by decide +kernel) (by decide +kernel) (by decide +kernel),
    met_of_calm t (by decide +kernel) rfl (by decide +kernel) (.inl (by decide +kernel)), free_of_calm free_calm rfl (by decide +kernel), by decide +kernel, by decide +kernel, by decide +kernel, by decide +kernel,
    met_of_calm t (by decide +kernel) (by decide +kernel) (by decide +kernel) (.inl (by decide +kernel)), by decide +kernel, free_of_calm (by decide +kernel) (by decide +kernel) (by decide +kernel)⟩

/-- The translation answers an address that satisfies p. -/
def reaches (s : State) (va : Nat) (p : Nat → Tlb → State → Bool) : Bool :=
  match s.translate s.g.core s.g.ref.ctx va false with | (.ok pa t, s1) => p pa t s1 | _ => false
/-- A calm slot whose group has one valid page of scratchpad. -/
def paged (r : Regs) : State :=
  { free r with g := { (free r).g with pages := [{ valid := true, inMem := false, index := 0, toward := none }] } }

/-- ScratchForms: the last doubleword of a page in lanes 0 and 95, by an offset of -4 bytes, and the pair v126, v127. -/
theorem witness_scratch (t : State) :
    let s := paged ((vs full [(1, 4092)]).maskSet (BitVec.twoPow 96 95 ||| 1))
    (∀ l ∈ lanesIn s.active,
      let p := ((laneAt (s.src.vget 1) l).toNat : Int) + 4 * (127#7).toInt
      0 ≤ p ∧ s.g.scratchOk p.toNat 1 = true ∧ p.toNat % 8 = 0) ∧
    Met { wf := even 126#7, vtop := max (1 + 1) (126 + max 2 (max 0 1)), reads := .v 1 :: rvrun 126 2, writes := rvrun 126 0, lane := true,
          path := some 2, mem := true } s t :=
  ⟨by decide +kernel, met_of_calm t (by decide +kernel) rfl (by decide +kernel) (.inl (by decide +kernel))⟩

/-- A slot whose warp has 126 registers. -/
def narrow (s : State) : State := { s with w := { s.w with nregs := 126 } }

/-- LoadStoreForms, AtomicForms: v125 of an element of four registers, v124 of one where 126 registers are allocated. -/
theorem witness_data_registers :
    let s := access (rec 0x2000 64 8 1) 3
    let a := access (rec 0x2000 64 7 1) 7
    (125#7).toNat % fmtRegs 8 ≠ 0 ∧ Free (mUse false false 0 0 1 1 125 s) s ∧
    (narrow s).w.nregs < (124#7).toNat + fmtRegs 8 ∧ Free (mUse true true 0 0 1 1 124 (narrow s)) (narrow s) ∧
    (123#7).toNat % 2 ≠ 0 ∧ Free (aUse .add true 5 1 1 123 a) a ∧
    (narrow a).w.nregs < (124#7).toNat + 4 ∧ Free (aUse .cas true 5 1 1 124 (narrow a)) (narrow a) := by
  refine ⟨by decide +kernel, free_of_calm ?_ ?_ ?_, by decide +kernel, free_of_calm ?_ ?_ ?_, by decide +kernel, free_of_calm ?_ ?_ ?_, by decide +kernel,
    free_of_calm ?_ ?_ ?_⟩ <;> decide +kernel

/-- Lanes 0 and 95. -/
def ends : LaneMask := BitVec.twoPow 96 95 ||| 1

/-- LoadStoreForms, AtomicForms: both lanes outside the extent; both beyond 48 bits; both off their alignment. -/
theorem witness_lane_faults :
    (let s := access (rec 0x2000 64 4 0) 16
     recUsable (s.src.kget 1) = true ∧ FirstFails [.bounds, .addrFault, .misalign] s.active
       (fun l => (laneAddr (s.src.kget 1) (laneOffset s.src (s.src.kget 1) false 4 1 l) 4).failure) .bounds ends 0x2040) ∧
    (let s := access (rec 0xFFFFFFFFFFFC 64 4 0) 1
     atomUsable (s.src.kget 1) = true ∧ FirstFails [.bounds, .addrFault, .misalign] s.active
       (fun l => (laneAddr (s.src.kget 1) (laneOffset s.src (s.src.kget 1) false 4 1 l) 4).failure) .addrFault ends 0x1000000000000) ∧
    (let s := access (rec 0x2002 64 4 0) 1
     recUsable (s.src.kget 1) = true ∧ FirstFails [.bounds, .addrFault, .misalign] s.active
       (fun l => (laneAddr (s.src.kget 1) (laneOffset s.src (s.src.kget 1) false 4 1 l) 4).failure) .misalign ends 0x2006) :=
  ⟨⟨by decide +kernel, ⟨[], [.addrFault, .misalign], rfl, nofun⟩, by decide +kernel, ⟨0, by decide +kernel⟩⟩,
    ⟨by decide +kernel, ⟨[.bounds], [.misalign], rfl, by decide +kernel⟩, by decide +kernel, ⟨0, by decide +kernel⟩⟩,
    ⟨by decide +kernel, ⟨[.bounds, .addrFault], [], rfl, by decide +kernel⟩, by decide +kernel, ⟨0, by decide +kernel⟩⟩⟩

/-- ScratchForms: both lanes in a page that is not valid, and both off their alignment. -/
theorem witness_scratch_faults :
    let fails (s : State) (l : Nat) : Option (Cause × Nat) :=
      let p : Int := ((laneAt (s.src.vget 1) l).toNat : Int) + 4 * (127#7).toInt
      if p < 0 ∨ s.g.scratchOk p.toNat 1 = false then some (.scratchRange, (p % 2 ^ 64).toNat)
      else if p.toNat % 8 ≠ 0 then some (.misalign, (p % 2 ^ 64).toNat) else none
    let s (x : Word) := paged ((vs full [(1, x)]).maskSet ends)
    FirstFails [.scratchRange, .misalign] (s 0).active (fails (s 0)) .scratchRange ends 0xFFFFFFFFFFFFFFFC ∧
    FirstFails [.scratchRange, .misalign] (s 4096).active (fails (s 4096)) .misalign ends 0xFFC :=
  ⟨⟨⟨[], [.misalign], rfl, nofun⟩, by decide +kernel, ⟨0, by decide +kernel⟩⟩,
    ⟨⟨[.scratchRange], [], rfl, by decide +kernel⟩, by decide +kernel, ⟨0, by decide +kernel⟩⟩⟩

/-- RecordForms, FenceForms: an address that is a multiple of 32, one that is not; the highest registers; no entry outstanding, and one. -/
theorem witness_records (t : State) :
    let u : Use := { wf := even 126#7, reads := rspair 126#7, writes := [.k 31], path := some 3, mem := true }
    (ss full [(122, 0x60)]).addrPair 122 % 32 = 0 ∧ Met { u with reads := rspair 122#7 } (free (ss full [(122, 0x60)])) t ∧
    (ss full [(122, 0x50)]).addrPair 122 % 32 ≠ 0 ∧ Free u (free (ss full [(122, 0x50)])) ∧
    Met { wf := (120#7).toNat % 8 == 0, reads := (List.range 8).map fun i => .s (120 + i), writes := [.k 31], mem := true } (free full) t ∧
    Met { wf := decide ((4#7).toNat ≤ 4), mem := true } (free full) t ∧ (∀ e ∈ (free full).w.entries, e.path ≤ 4 → e.done = true ∨ e.parked = true) ∧
    Met { wf := even 126#7 && decide ((1#7).toNat ≤ 1), reads := rspair 126#7, mem := true } (free full) t :=
  ⟨by decide +kernel, met_of_calm t (by decide +kernel) rfl (by decide +kernel) (.inl (by decide +kernel)), by decide +kernel, free_of_calm (by decide +kernel) rfl (by decide +kernel),
    met_of_calm t free_calm rfl (by decide +kernel) (.inl (by decide +kernel)), met_of_calm t free_calm rfl (by decide +kernel) (.inl (by decide +kernel)), by decide +kernel,
    met_of_calm t free_calm rfl (by decide +kernel) (.inl (by decide +kernel))⟩

/-- FenceForms: an entry of path 4 keeps the warp from being idle. -/
theorem witness_fence : let s : State := { free full with w := { (free full).w with entries := [entry 0 4], nextSeq := 1 } }
    (∃ e ∈ s.w.entries, e.path ≤ 4 ∧ e.seq < s.w.nextSeq ∧ e.done = false ∧ e.parked = false) ∧ front { wf := decide ((0#7).toNat ≤ 4), mem := true } s = .pass := by decide +kernel

/-- CopyForms: a copy of the last 32 bytes of a record to the last 32 of a page, under tag 7; a record that is not usable. -/
theorem witness_cpy32 (t : State) :
    let s := paged (((vs full [(2, 8), (3, 40), (4, 4064)]).maskSet (BitVec.twoPow 96 95 ||| 1)).kset 1 (rec 0x2000 64 4 0))
    let u (s : State) : Use := { wf := even 2#7, vtop := max (2 + 2) (4 + 1), reads := [.v 2, .v 3, .v 4, .k 1], lane := true, path := some (8 + (7#3).toNat),
                                 mem := true }
    recUsable (s.src.kget 1) = true ∧
    (∀ l ∈ lanesIn s.active, copyLane s.g (s.src.kget 1) (laneAt (s.src.vget 2) l).toNat (laneAt (s.src.vget 3) l).toNat
      (laneAt (s.src.vget 4) l).toNat = .ok (0x2020, 32)) ∧
    Met (u s) s t ∧ recUsable ((free full).src.kget 1) = false ∧ Free (u (free full)) (free full) :=
  ⟨by decide +kernel, by decide +kernel, met_of_calm t (by decide +kernel) rfl (by decide +kernel) (.inl (by decide +kernel)), by decide +kernel, free_of_calm free_calm rfl (by decide +kernel)⟩

/-- CopyForms: both lanes off their alignment, with a destination in no valid page, and past the extent. -/
theorem witness_cpy32_faults :
    let fails (s : State) (l : Nat) : Option (Cause × Nat) :=
      match copyLane s.g (s.src.kget 1) (laneAt (s.src.vget 2) l).toNat (laneAt (s.src.vget 3) l).toNat (laneAt (s.src.vget 4) l).toNat with
      | .error x => some x
      | .ok _ => none
    let s (index dst : Word) := paged (((vs full [(2, index), (3, 40), (4, dst)]).maskSet ends).kset 1 (rec 0x2000 64 4 0))
    FirstFails [.misalign, .scratchRange, .bounds] (s 8 4062).active (fails (s 8 4062)) .misalign ends 4062 ∧
    FirstFails [.misalign, .scratchRange, .bounds] (s 8 4096).active (fails (s 8 4096)) .scratchRange ends 4096 ∧
    FirstFails [.misalign, .scratchRange, .bounds] (s 9 4064).active (fails (s 9 4064)) .bounds ends 0x2024 :=
  ⟨⟨⟨[], [.scratchRange, .bounds], rfl, nofun⟩, by decide +kernel, ⟨0, by decide +kernel⟩⟩,
    ⟨⟨[.misalign], [.bounds], rfl, by decide +kernel⟩, by decide +kernel, ⟨0, by decide +kernel⟩⟩,
    ⟨⟨[.misalign, .scratchRange], [], rfl, by decide +kernel⟩, by decide +kernel, ⟨0, by decide +kernel⟩⟩⟩

/-- A calm slot of a group with a copy schedule at 0x4000, whose header of one entry stands in the record cache; the entry is of stage 0. -/
def staged : State :=
  let g (va n : Nat) : Granule := { ctx := 0, va := va, data := BitVec.ofNat 256 n }
  { free full with
    g := { (free full).g with desc := { (free full).g.desc with sched := 0x4000 } }
    cores := (free full).cores.set 0 { Core.fresh with recs := [g 0x4000 1, g 0x4020 0, g 0x4040 0, g 0x4060 0] } }
/-- A stage of warp 0. -/
def stageOne : StageReq := { warp := 0, pc := 0x1004, clk0 := 0, number := 1, dy := 0, dz := 0 }

/-- CopyForms: a warp whose copy queue holds an item. -/
def queued (op : CopyOp) : State :=
  { staged with w := { staged.w with copyQ := [{ set := 0, pc := 0x1004, clk0 := 0, op := op, st := .queued, rows := 0, held := [], heldBytes := 0 }] } }

/-- CopyForms: stage without a schedule, behind another warp's stage, behind a fence, with the schedule at hand; waitge at an address that is no
multiple of 8, with the counter reached and not. -/
theorem witness_stage (t : State) :
    let u : Use := { reads := [.s 0, .s 1], mem := true }
    let v : Use := { wf := even 2#7 && even 4#7, reads := rspair 2#7 ++ rspair 4#7, mem := true }
    (free full).g.desc.sched = 0 ∧ Free u (free full) ∧ staged.g.desc.sched ≠ 0 ∧ staged.g.schedWait = [] ∧ Met u staged t ∧
    staged.w.copyQ = [] ∧ staged.iss.chained = false ∧ (queued (.stage 1)).w.setWaits staged.iss.setNo = false ∧
    Met u { staged with iss := { staged.iss with chained := true } } t ∧
    (State.releaseStage { queued (.stage 1) with g := { staged.g with stage := 1 } } stageOne).isSome = true ∧
    (let s : State := { staged with g := { staged.g with schedWait := [{ stageOne with warp := 1 }] } }
     Met u s t ∧ s.g.schedWait = [{ stageOne with warp := 1 }] ∧ 1 ≠ s.w.wid) ∧
    Met u (queued (.fence 0)) t ∧ (queued (.fence 0)).g.schedWait = [] ∧ (queued (.fence 0)).w.copyQ ≠ [] ∧
    (∀ x ∈ (queued (.fence 0)).w.copyQ, x.op ≠ .stage (0 + 1)) ∧
    (ss full [(2, 4)]).addrPair 2 % 8 ≠ 0 ∧ Free v (free (ss full [(2, 4)])) ∧
    (let s := mapped (free (ss full [(2, 0xFFF8)]))
     (ss full [(2, 0xFFF8)]).addrPair 2 % 8 = 0 ∧
     reaches s 0xFFF8 (fun pa t s1 => decide (pa = 0x10FFF8) && !s1.parkedOver s1.g.core pa 8 && (s1.homeFails pa 8 t.key true).isNone &&
       decide ((s.src.spair 4).toNat ≤ leNat (s1.homeRead pa 8))) = true ∧ Met v s t) ∧
    (let s := mapped (free (ss full [(2, 0xFFF8), (4, 1)]))
     reaches s 0xFFF8 (fun pa t s1 => !s1.parkedOver s1.g.core pa 8 && (s1.homeFails pa 8 t.key true).isNone &&
       decide (leNat (s1.homeRead pa 8) < (s.src.spair 4).toNat)) = true ∧ Free v s) ∧
    Met { wf := decide ((7#3) ≠ 0), mem := true } (free full) t ∧ Met { writes := [.s 124], mem := true } (free full) t := by
  refine ⟨by decide +kernel, free_of_calm free_calm rfl (by decide +kernel), by decide +kernel, by decide +kernel,
    met_of_calm t (by decide +kernel) rfl (by decide +kernel) (.inl (by decide +kernel)), rfl, rfl, by decide +kernel,
    met_of_calm t (by decide +kernel) rfl (by decide +kernel) (.inl (by decide +kernel)), by decide +kernel,
    ⟨met_of_calm t (by decide +kernel) rfl (by decide +kernel) (.inl (by decide +kernel)), rfl, by decide +kernel⟩,
    met_of_calm t (by decide +kernel) rfl (by decide +kernel) (.inl (by decide +kernel)), by decide +kernel, by decide +kernel, by decide +kernel,
    by decide +kernel, free_of_calm (by decide +kernel) rfl (by decide +kernel),
    ⟨by decide +kernel, by decide +kernel, met_of_calm t (by decide +kernel) rfl (by decide +kernel) (.inl (by decide +kernel))⟩,
    ⟨by decide +kernel, free_of_calm (by decide +kernel) rfl (by decide +kernel)⟩,
    met_of_calm t free_calm rfl (by decide +kernel) (.inl (by decide +kernel)), met_of_calm t free_calm rfl (by decide +kernel) (.inl (by decide +kernel))⟩

/-- Context 0 of tenant 0, its tables at 0x200000. -/
def context0 : Context :=
  { id := 0, tenant := 0, state := .idle, root := 0x200000, poolBase := 0, poolPages := 0, poolUsed := [], watchdog := 0, dies := 0xFF, trapBase := 0,
    trapLog2 := 0, afBase := 0, afCap := 0, nextSeq := 0, heldTraps := [], absent := [], heldAbsent := [], savedQueues := [], destroying := false,
    migrating := none, cmd := none, waiting := [], lost := 0 }

/-- Tables at 0x200000 and 0x201000 inside the window of tenant 0; the first 1 GiB is one page that is backed and away (R373, R378). -/
def away (s : State) : State :=
  { s with ctxs := [context0], tenants := s.tenants.set 0 { Tenant.fresh with enabled := true, windows := [(0x200000, 0x100000)] },
           mem := [(0x200000, 0x01), (0x200001, 0x10), (0x200002, 0x20), (0x201000, 0x88)] }

/-- CopyForms: the page of the schedule is away. -/
theorem witness_stage_away :
    let g : Group := { (free full).g with desc := { (free full).g.desc with sched := 0x4000 }, stage := 1 }
    State.releaseStage (away { free full with g := g }) stageOne = none := by decide +kernel

/-- A calm slot of warp 15, of 16 in its group; barrier 15 with members and bits. -/
def atBarrier (members bits : BitVec 16) (meeting : Bool) : State :=
  { free full with
    w := { (free full).w with wid := 15, meeting := meeting }
    g := { (free full).g with warps := List.replicate 16 (Warp.fresh 0 128 4),
                              bars := (List.replicate 15 (GBar.fresh 16)) ++ [{ GBar.fresh 16 with members := members, bits := bits }] } }

/-- BarrierForms: barrier 15 and warp 15, its member and arrival bits set and clear, meeting and not; the limits of gb.bytes and gb.members. -/
theorem witness_barriers (t : State) :
    let u : Use := { wf := decide ((15#4).toNat < 16) }
    let m := 0x8000#16
    (∀ members bits meeting, calm (atBarrier members bits meeting) = true ∧ ((atBarrier members bits meeting).g.bar 15).members = members ∧
      ((atBarrier members bits meeting).g.bar 15).bits = bits ∧ (atBarrier members bits meeting).w.meeting = meeting) ∧
    m.getLsbD (atBarrier m 0 true).w.wid = true ∧ (0#16).getLsbD (atBarrier m 0 true).w.wid = false ∧
    Met u (atBarrier m 0 true) t ∧ Free u (atBarrier m m false) ∧
    ((atBarrier m m false).g.bar 15).phase = decide (0 = 1) ∧ ((atBarrier m m false).g.bar 15).phase ≠ decide (1 = 1) ∧
    (0x800000#32).toNat ≤ 2 ^ 23 ∧ 2 ^ 23 < (0x800001#32).toNat ∧ (0xFFFF#32).toNat < 2 ^ (atBarrier m m false).g.warps.length ∧
    2 ^ (atBarrier m m false).g.warps.length ≤ (0x10000#32).toNat :=
  ⟨fun _ _ _ => ⟨free_calm, rfl, rfl, rfl⟩, by decide +kernel, by decide +kernel, met_of_calm t free_calm rfl (by decide +kernel) (.inl (by decide +kernel)),
    free_of_calm free_calm rfl (by decide +kernel), by decide +kernel⟩

/-- BarrierForms: the limits of the memory barrier updates, an address that is a multiple of 16 and one that is not; mb.await with the phase word
reached and not. -/
theorem witness_memory_barriers (t : State) :
    let u : Use := { wf := even 2#7, reads := rspair 2#7 ++ [.s 4], path := some 4, mem := true }
    let v : Use := { wf := even 2#7, reads := rspair 2#7 ++ [.s 4], mem := true }
    (ss full [(2, 0xFFF0)]).addrPair 2 % 16 = 0 ∧ Met u (free (ss full [(2, 0xFFF0), (4, 0x1000000)])) t ∧
    (∀ x ∈ ([(0x1000000, 0x1000000, true), (65535, 65535, true), (0x7FFFFFFF, 0x7FFFFFFF, true)] : List (Word × Nat × Bool)), x.1.toNat = x.2.1) ∧
    2 ^ 24 < (0x1000001#32).toNat ∧ 65535 < (65536#32).toNat ∧ 2 ^ 31 ≤ (0x80000000#32).toNat ∧
    (ss full [(2, 0xFFF8)]).addrPair 2 % 16 ≠ 0 ∧ Free u (free (ss full [(2, 0xFFF8), (4, 1)])) ∧
    (let s := mapped (free (ss full [(2, 0xFFF0), (4, 1)]))
     reaches s 0xFFF0 (fun pa t s1 => !s1.parkedOver s1.g.core pa 16 && (s1.homeFails pa 16 t.key true).isNone &&
       decide (field (s1.homeRead pa 16) 12 4 ≠ (s.src.sget 4).toNat)) = true ∧ Met v s t) ∧
    (let s := mapped (free (ss full [(2, 0xFFF0)]))
     reaches s 0xFFF0 (fun pa t s1 => !s1.parkedOver s1.g.core pa 16 && (s1.homeFails pa 16 t.key true).isNone &&
       decide (field (s1.homeRead pa 16) 12 4 = (s.src.sget 4).toNat)) = true ∧ Free v s) :=
  ⟨by decide +kernel, met_of_calm t (by decide +kernel) rfl (by decide +kernel) (.inl (by decide +kernel)), by decide +kernel, by decide +kernel, by decide +kernel, by decide +kernel, by decide +kernel,
    free_of_calm (by decide +kernel) rfl (by decide +kernel), ⟨by decide +kernel, met_of_calm t (by decide +kernel) rfl (by decide +kernel) (.inl (by decide +kernel))⟩,
    ⟨by decide +kernel, free_of_calm (by decide +kernel) rfl (by decide +kernel)⟩⟩

/-- A calm slot of a group with a draw class, one accumulator unit and 128 valid pages. -/
def tiled (r : Regs) : State :=
  { free r with g := { (free r).g with desc := { (free r).g.desc with draw := 1, units := 1 },
                                       pages := List.replicate 128 { valid := true, inMem := false, index := 0, toward := none } } }

/-- An mma of the warp, posted. -/
def tile (op : TileOp) (st : TileState) : TileEntry :=
  { seq := 3, set := 0, pc := 0x1004, clk0 := 0, op := op, act := 1, addrs := [(0, 0)], word := 0, coord := 0, age := 0, st := st, commit := 0, rows := [], chunks := 0,
    granted := none, divs := 0, rerun := false, rewrite := false, suspect := none }

/-- MatrixForms: an mma of the last format and shape with its rows and its block at the top of the window; no draw; a full table. -/
theorem witness_matrix (t : State) :
    let u : Use := { wf := decide ((8#4).toNat ≤ 8) && decide ((11#4).toNat ≤ 11) && even 2#7, vtop := 127 + 1, reads := .v 127 :: rspair 2#7, lane := true,
                     mem := true }
    let s := tiled ((ss (vs full [(127, BitVec.ofNat 32 (2 ^ 19 - mmaRow 8 11))])
      [(2, BitVec.ofNat 32 (2 ^ 19 - mmaBlock 8 11)), (3, 0)]).maskSet (BitVec.twoPow 96 95 ||| 1))
    s.tableFull = false ∧ s.g.desc.draw ≠ 0 ∧ operandOk (s.src.sget 2) true = true ∧ coordOk s.g.desc (s.src.sget 3) (mmaN 11) = true ∧
    operandB (s.src.sget 2) % 16 = 0 ∧ s.g.scratchOk (operandB (s.src.sget 2)) (mmaBlock 8 11) = true ∧
    (∀ l ∈ lanesIn s.active, (laneAt (s.src.vget 127) l).toNat % 16 = 0 ∧ s.g.scratchOk (laneAt (s.src.vget 127) l).toNat (mmaRow 8 11) = true) ∧
    Met u s t ∧ (free full).tableFull = false ∧ (free full).g.desc.draw = 0 ∧ Free u (free full) ∧
    (let w : Warp := { (tiled full).w with tileQ := List.replicate 16 (tile (.mma 0 0 false) .posted) }
     let g : Group := { (tiled full).g with warps := [w] }
     let f : State := { tiled full with groups := [g], g := g, w := w }
     f.tableFull = true ∧ Free u f ∧ Free { wf := true && even 2#7, reads := rspair 2#7, lane := true, path := some 5, mem := true } f) :=
  ⟨by decide +kernel, by decide +kernel, by decide +kernel, by decide +kernel, by decide +kernel, by decide +kernel, by decide +kernel, met_of_calm t (by decide +kernel) rfl (by decide +kernel) (.inl (by decide +kernel)), by decide +kernel,
    by decide +kernel, free_of_calm free_calm rfl (by decide +kernel), ⟨by decide +kernel, free_of_calm (by decide +kernel) rfl (by decide +kernel),
      free_of_calm (by decide +kernel) rfl (by decide +kernel)⟩⟩

/-- MatrixForms, TileMoveForms: operand words, coordinates and B addresses that each check refuses; both lanes' rows off 16 bytes, and in no valid page;
a move under a full table. -/
theorem witness_tile_faults :
    let s (x : Word) := tiled ((vs full [(1, x)]).maskSet ends)
    operandOk 0x00080000 false = false ∧ operandOk 0x00100000 true = false ∧ operandOk 0x00100000 false = true ∧
    coordOk (tiled full).g.desc 1 32 = false ∧ operandB 8 % 16 ≠ 0 ∧ (paged full).g.scratchOk (operandB 0x1000) (mmaBlock 8 11) = false ∧
    FirstFails [.misalign, .scratchRange] (s 8).active (rowFailure (s 8).g (mmaRow 8 11) fun l => (laneAt ((s 8).src.vget 1) l).toNat) .misalign ends 8 ∧
    FirstFails [.misalign, .scratchRange] (s 0x80000).active
      (rowFailure (s 0x80000).g (256 * moveSize 0) fun l => (laneAt ((s 0x80000).src.vget 1) l).toNat) .scratchRange ends 0x80000 :=
  ⟨by decide +kernel, by decide +kernel, by decide +kernel, by decide +kernel, by decide +kernel, by decide +kernel,
    ⟨⟨[], [.scratchRange], rfl, nofun⟩, by decide +kernel, ⟨0, by decide +kernel⟩⟩,
    ⟨⟨[.misalign], [], rfl, by decide +kernel⟩, by decide +kernel, ⟨0, by decide +kernel⟩⟩⟩

/-- TileMoveForms: moves of the widest code whose rows end at the top of the window, counts of eight registers, mcommit and mwait at 62, 63 and 127. -/
theorem witness_moves (t : State) :
    let s := tiled ((ss (vs full [(1, BitVec.ofNat 32 (2 ^ 19 - 256 * moveSize 0))]) [(2, 0), (3, 0)]).maskSet (BitVec.twoPow 96 95 ||| 1))
    let u (wf : Bool) (vtop : Nat) (reads writes : List RegId) : Use :=
      { wf := wf && even 2#7, vtop := vtop, reads := reads ++ rspair 2#7, writes := writes, lane := true, path := some 5, mem := true }
    s.tableFull = false ∧ coordOk s.g.desc (s.src.sget 3) (32 * 2 ^ 3) = true ∧ coordOk s.g.desc (s.src.sget 3) (2 ^ 3) = true ∧
    operandOk (s.src.sget 2) true = true ∧
    (∀ l ∈ lanesIn s.active, (laneAt (s.src.vget 1) l).toNat % 16 = 0 ∧
      s.g.scratchOk (laneAt (s.src.vget 1) l).toNat (32 * 2 ^ 3 * moveSize 0) = true) ∧
    Met (u (decide ((2#4).toNat ≤ 2) && decide ((3#4).toNat ≤ 3)) (1 + 1) [.v 1] []) s t ∧
    Met (u (decide ((3#4).toNat ≤ 3) && (120#7).toNat % 8 == 0) (120 + 8) [] (rvrun 120 8)) s t ∧
    Met { mem := true } s t ∧ s.w.outstanding ≤ (0#7).toNat ∧
    (let f : State := { s with w := { s.w with cgOpen := 63, tileQ := (List.range 63).map fun k => { tile (.mma 0 0 false) .posted with commit := k } } }
     63 ≤ f.w.outstanding ∧ (62#7).toNat < f.w.outstanding ∧ Free { mem := true } f) :=
  ⟨by decide +kernel, by decide +kernel, by decide +kernel, by decide +kernel, by decide +kernel, met_of_calm t (by decide +kernel) rfl (by decide +kernel) (.inl (by decide +kernel)),
    met_of_calm t (by decide +kernel) rfl (by decide +kernel) (.inl (by decide +kernel)), met_of_calm t (by decide +kernel) rfl (by decide +kernel) (.inl (by decide +kernel)), by decide +kernel,
    ⟨by decide +kernel, by decide +kernel, free_of_calm (by decide +kernel) rfl (by decide +kernel)⟩⟩

/-- A node bound in context 0 under number 255. -/
def node0 : Node :=
  { ctx := 0, num := 255, launch := 1, arg := 0, rickVa := 0, quota := 256, batches := 1, pool := 0, hw := [], rick := [], rickHead := 0, timerOn := false,
    freeBatch := [0], formed := 0, unbinding := false }

/-- EmissionForms: nemit to the bound node 255 and to node 254, which is not; coll at a multiple of 64 and past it. -/
theorem witness_emission (t : State) :
    let s : State := { free (ss full [(1, 255)]) with nodes := [node0] }
    let u : Use := { wf := (124#7).toNat % 4 == 0, vtop := 124 + 4, reads := .s 1 :: rvrun 124 4, lane := true, path := some 4, mem := true }
    let v : Use := { wf := even 2#7, reads := rspair 2#7, mem := true }
    s.g.desc.determ = false ∧ s.nodeOf s.g.ref.ctx ((s.src.sget 1).toNat % 256) = some node0 ∧ Met u s t ∧
    s.nodeOf s.g.ref.ctx 254 = none ∧ Free u { free (ss full [(1, 254)]) with nodes := [node0] } ∧
    (ss full [(2, 0xFFC0)]).addrPair 2 % 64 = 0 ∧ Met v (free (ss full [(2, 0xFFC0)])) t ∧ (ss full [(2, 0xFFE0)]).addrPair 2 % 64 ≠ 0 ∧
    Free v (free (ss full [(2, 0xFFE0)])) :=
  ⟨rfl, by decide +kernel, met_of_calm t (by decide +kernel) rfl (by decide +kernel) (.inl (by decide +kernel)), by decide +kernel, free_of_calm (by decide +kernel) rfl (by decide +kernel), by decide +kernel,
    met_of_calm t (by decide +kernel) rfl (by decide +kernel) (.inl (by decide +kernel)), by decide +kernel, free_of_calm (by decide +kernel) rfl (by decide +kernel)⟩

/-! ### Witnesses of the events: a device with one group on core 0 -/

/-- Warp r is taken into the issue stage, its group on a core, and p holds of the state that results: the hypothesis Holds. -/
def held (s : State) (r : WRef) (p : State → Bool) : Bool := match s.load r with | some t => t.g.onCore && p t | none => false
/-- The same for HoldsAny. -/
def heldAny (s : State) (r : WRef) (p : State → Bool) : Bool :=
  match s.load r with | some t => (t.g.onCore || t.g.absent || t.g.status == .retired) && p t | none => false
/-- The same for HoldsGroup. -/
def heldGroup (s : State) (r : GRef) (p : State → Bool) : Bool :=
  match s.groupOf r with | some g => p { s with g := g, w := (g.warps.head?).getD s.w } | none => false

theorem holds_of_held {s : State} {r : WRef} {p : State → Bool} (h : held s r p = true) : ∃ t, s.Holds r t ∧ p t = true := by
  unfold held at h
  split at h
  · next t ht => exact ⟨t, ⟨ht, (Bool.and_eq_true _ _ ▸ h).1⟩, (Bool.and_eq_true _ _ ▸ h).2⟩
  · exact absurd h (by simp)

theorem holdsAny_of_held {s : State} {r : WRef} {p : State → Bool} (h : heldAny s r p = true) : ∃ t, s.HoldsAny r t ∧ p t = true := by
  unfold heldAny at h
  split at h
  · next t ht => exact ⟨t, ⟨ht, (Bool.and_eq_true _ _ ▸ h).1⟩, (Bool.and_eq_true _ _ ▸ h).2⟩
  · exact absurd h (by simp)

theorem holdsGroup_of_held {s : State} {r : GRef} {p : State → Bool} (h : heldGroup s r p = true) : ∃ t, s.HoldsGroup r t ∧ p t = true := by
  unfold heldGroup at h
  split at h
  · next g hg => exact ⟨_, ⟨g, hg, rfl⟩, h⟩
  · exact absurd h (by simp)

/-- Group 0 of launch 1 of context 0, and its warp 0. -/
def ref0 : GRef := { ctx := 0, seq := 1, lgi := 0 }
def warp0 : WRef := { g := ref0, w := 0 }
/-- A resident group of one warp on core 0. -/
def group (w : Warp) : Group :=
  { Group.fresh ref0 { Desc.zero with warps := 1, units := 1, draw := 1, vregs := 128 } with
    status := .resident, warps := [w], pages := List.replicate 128 { valid := true, inMem := false, index := 0, toward := none } }
/-- A device that holds that group; the first 64 KiB of its context are mapped. -/
def world (w : Warp) : State := mapped { State.reset with groups := [group w], ctxs := [context0] }
/-- A warp with entries. -/
def busy (l : List PathEntry) : Warp := { Warp.fresh 0 128 0x1004 with entries := l, nextSeq := 10 }

/-- A result that leaves a chain split under the mask, as the statement of PathEvents says it. -/
def splitsChain (u : State) (e : PathEntry) : Bool :=
  let r := u.w.regs.putEntry e
  meets e.writes maskRegs && decide (r.chn ≠ 0) && decide (splitChains r.chn r.mask ≠ 0)

/-- PathEvents: a load, a record load and an atomic that write no mask, and an mb.post into s125 under chains of three limbs, which splits one; a
store, and releasing stores at grp and sys, at the head of their queue; each kind of scratchpad access. -/
theorem witness_paths :
    held (world (busy [entry 3 0])) warp0 (fun t => !t.returnHeld 3 && (match t.loadPart 3 with | some (u, e) => !splitsChain u e | none => false)) = true ∧
    held (world (busy [{ entry 3 3 with op := .ldrec }])) warp0 (fun t => match t.recordPart 3 with | some (u, e) => !splitsChain u e | none => false) = true ∧
    held (world (busy [{ entry 3 4 with op := .atom .add false 8 true }])) warp0 (fun t =>
      !t.returnHeld 3 && (match t.atomPart 3 with | some (u, e) => !splitsChain u e | none => false)) = true ∧
    held (world { busy [{ entry 3 4 with op := .mbPost 1, dst := 125, writes := [.s 125] }] with regs := { full with chn := 3 } }) warp0 (fun t =>
      !t.returnHeld 3 && (match t.atomPart 3 with | some (u, e) => splitsChain u e && decide (u.g.status = .resident) | none => false)) = true ∧
    held (world (busy [entry 2 0, { entry 3 1 with op := .store 4 }])) warp0 (fun t =>
      (match t.w.entries.find? fun e => e.path == 1 && !e.done with
       | some e => decide (e.order = 0) && !t.w.setWaits e.set &&
           (match t.fixLoads e.seq with | some u => decide (u.storeFails e e.reqs = some []) | none => false) && decide (e.op.chains = none)
       | none => false)) = true ∧
    (∀ scope ∈ [0, 2], held (world (busy [{ entry 3 1 with op := .store 16, order := 1, scope := scope }])) warp0 (fun t =>
      (match t.fixLoads 3 with
       | some u => u.w.allDone 3 && (match u.release (u.scopeOf { entry 3 1 with op := .store 16, order := 1, scope := scope }) with
           | some v => decide (v.storeFails { entry 3 1 with op := .store 16, order := 1, scope := scope } (entry 3 1).reqs = some []) | none => false)
       | none => false)) = true) ∧
    (∀ op ∈ ([.sload 8 false, .sstore 1, .satom .cas false] : List PathOp),
      let e := { entry 3 2 with op := op, reqs := [{ lane := 95, va := 524280, drop := false, data := 0, len := 0 }] }
      held (world (busy [e])) warp0 (fun t => decide (t.w.entryAt 3 2 = some e) && !t.returnHeld 3 && !t.w.scratchAhead e && !t.scratchAway e &&
        (e.reqs.all fun q => !t.scratchShut q.va e.op.size && !t.rowHeld q.va e.op.size) &&
        (match t.scratchLanesDo e e.reqs with | some x => !splitsChain x.1 (e.judge x.2.1 x.2.2) | none => false)) = true) := by decide +kernel

/-- A line of the L1 with a dirty byte. -/
def dirtyLine : Line := { base := 0x100000, key := 0, keep := false, valid := 0, clean := [], dirty := [(0x100001, 7)] }
/-- A warp that a hold stops. -/
def holding (h : Hold) : State := world { busy [] with hold := h }

/-- CacheEvents: every kind of hold with nothing outstanding; a dirty line; a fill; a walk to a leaf whose A bit is set, and clear. -/
theorem witness_caches :
    held (holding (.fence 0 10)) warp0 (fun t => decide (t.w.hold = .fence 0 10) && t.w.fenceMet 10) = true ∧
    (∀ k ∈ [1, 2], held (holding (.fence k 10)) warp0 (fun t => decide (t.w.hold = .fence k 10) && t.w.fenceMet 10 && (t.release k).isSome) = true) ∧
    (∀ k ∈ [3, 4], held (holding (.fence k 10)) warp0 (fun t => decide (t.w.hold = .fence k 10) && t.w.fenceMet 10 && (t.release (k - 2)).isSome) = true) ∧
    held { holding (.rfence 10) with groups := [group { busy [{ entry 3 1 with done := true }, entry 4 0] with hold := .rfence 10 }] } warp0 (fun t =>
      decide (t.w.hold = .rfence 10) && (t.w.entries.all fun e => !(e.path == 1 && decide (e.seq < 10)) || e.done) && (t.release 1).isSome) = true ∧
    held (holding (.cache true 0xFE00 1)) warp0 (fun t => decide (t.w.hold = .cache true 0xFE00 1) &&
      !(t.cacheLines true fun l => (t.namedLines 0xFE00 1).contains l.base).coreParked t.g.core) = true ∧
    (({ State.reset with cores := [{ Core.fresh with l1 := [dirtyLine] }] }.coreAt 0).line? 0x100001).isSome = true ∧
    (let s := { world (busy []) with cores := (world (busy [])).cores.modify 0 fun k => { k with ifills := [(0, 0xFF80)] } }
     (s.coreAt 0).ifills.contains (0, 0xFF80) = true ∧
     (match s.translate 0 0 0xFF80 false with | (.ok pa t, u) => t.x && (u.homeFails pa 128 t.key true).isNone | _ => false) = true) ∧
    (let s (b : Byte) := { away State.reset with mem := [(0x200000, 0x01), (0x200001, 0x10), (0x200002, 0x20), (0x201000, b)] }
     let t (b : Byte) := { s b with tenants := (s b).tenants.set 0 { Tenant.fresh with enabled := true, windows := [(0, 2 ^ 30)] } }
     (match (t 0xA1).walk 0 0x3FFFFFFF with | .leaf e _ size => e.getLsbD 5 && decide (size = 2 ^ 30) | _ => false) = true ∧
     (match (t 0x81).walk 0 0 with | .leaf e ea _ => !e.getLsbD 5 && !(t 0x81).copying ea | _ => false) = true) := by decide +kernel

/-- A warp in a status. -/
def standing (st : WStatus) : Warp := { busy [] with status := st }

/-- A warp stalled at a word of a packet. -/
def watching (x : Word) : State :=
  world { standing .stalled with pc := 0x1004, packet := some (0x1000, { header := 0, slot0 := x, slot1 := x, slot2 := x }) }

/-- WarpEvents: a sleeping warp, one that hears a halt, one under a watchdog, a stalled one, a draining one alone and beside another; an arrival on
barrier 15. -/
theorem witness_warps :
    held (world (standing .sleeping)) warp0 (fun t => decide (t.w.status = .sleeping) && decide (t.g.status = .resident)) = true ∧
    held (world { standing .sleeping with bcast := true }) warp0 (fun t => t.w.bcast && decide (t.w.status = .sleeping)) = true ∧
    held { world (standing .ready) with ctxs := [{ context0 with watchdog := 1 }] } warp0 (fun t =>
      (match t.ctxOf 0 with | some c => decide (c.watchdog ≠ 0) | none => false) && decide (t.g.status = .resident)) = true ∧
    (∀ x ∈ [(0xA8000002#32, 8), (0xACE00000#32, 16)], held (watching x.1) warp0 (fun t =>
      decide (t.w.status = .stalled) && decide (t.w.packet = some (0x1000, { header := 0, slot0 := x.1, slot1 := x.1, slot2 := x.1 })) &&
      (match t.peek t.g.core t.g.ref.ctx (t.w.regs.addrPair 0) false with
       | .ok pa k => !t.parkedOver t.g.core pa x.2 && decide (t.homeFails pa x.2 k.key true = none)
       | _ => false)) = true) ∧
    (0xA8000002#32) &&& 0xFFFC000F = 0xA8000002 ∧ (0xACE00000#32) &&& 0xFFFFC000 = 0xACE00000 ∧
    held (world (standing .draining)) warp0 (fun t => decide (t.w.entries = []) && decide (t.w.reserved = 0) && decide (t.g.posted = []) &&
      (((t.g.putWarp { t.w with status := .exited }).dropMember t.w.wid).warps.all fun v => decide (v.status = .exited)) &&
      decide (((t.g.putWarp { t.w with status := .exited }).dropMember t.w.wid).status = .resident)) = true ∧
    held { world (standing .draining) with groups := [{ group (standing .draining) with warps := [standing .draining, { standing .ready with wid := 1 }] }] }
      warp0 (fun t => ((t.g.putWarp { t.w with status := .exited }).dropMember t.w.wid).warps.any fun v => decide (v.status ≠ .exited)) = true ∧
    heldAny { world (busy []) with groups := [{ group (busy []) with posted := [{ warp := 0, set := 0, bar := 15, upto := 10 }] }] } warp0 (fun t =>
      decide ((t.g.posted.find? fun p => p.warp == t.w.wid && p.bar == 15) = some { warp := 0, set := 0, bar := 15, upto := 10 }) && t.w.fenceMet 10 &&
      !t.w.setWaits 0 && !t.g.absent && decide (15 < t.g.bars.length)) = true := by decide +kernel

/-- The bytes of a schedule entry: a record of 64 bytes at 0x2000, x = 4 bytes, y = 2 rows, z = 1, to scratch, no target. -/
def schedBytes : List Byte :=
  leBytes 32 (rec 0x2000 64 4 1).toNat ++ leBytes 4 0 ++ leBytes 4 0 ++ leBytes 4 (4 + 65536 * 2) ++ leBytes 4 1 ++ leBytes 4 0 ++ leBytes 4 0 ++
    leBytes 4 1 ++ leBytes 4 0 ++ List.replicate 96 0
/-- An item of a copy queue. -/
def item (op : CopyOp) (st : CopyState) (bytes : Nat) : CopyItem :=
  { set := 0, pc := 0x1004, clk0 := 0, op := op, st := st, rows := 0, held := [], heldBytes := bytes }
/-- A device whose warp has the item and a cpy32 entry. -/
def copying (i : CopyItem) (l : List LaneReq) : State := world { busy [{ entry 3 8 with op := .cpy32, reqs := l }] with copyQ := [i] }
/-- A lane of a cpy32 of 32 bytes to the top of the window. -/
def laneReq : LaneReq := { lane := 95, va := 0x2000, drop := false, data := 524256, len := 32 }

/-- CopyEvents: a stage that waited, an entry queued, a hold of 65533 bytes behind a row of 4, a row before the last, a lane of a cpy32, and none left. -/
theorem witness_copies :
    (let w := { busy [] with copyQ := [item (.stage 1) .queued 0] }
     let g : Group := { group w with desc := { (group w).desc with sched := 0x4000 }, stage := 1, schedWait := [stageOne] }
     let s := { world w with groups := [g], cores := staged.cores }
     (s.groupOf ref0).map (·.schedWait) = some [stageOne] ∧ stageOne.warp = warp0.w ∧
     heldAny s warp0 (fun t =>
       let t1 := { t with g := { t.g with schedWait := [] } }
       decide (t.g.schedWait = [stageOne]) && decide (t.w.wid = 0) && decide (t.w.copyQ = [item (.stage 1) .queued 0]) && !t.w.setWaits 0 &&
       (match t1.readGranules t1.g.core t1.g.ref.ctx t1.g.desc.sched 2 with
        | .ok h u => headerOk h && (u.releaseAll stageOne h (List.range (wordAt h 0))).isSome
        | _ => false)) = true) ∧
    heldAny (copying (item (.cpy32 3) .queued 0) [laneReq]) warp0 (fun t => decide (t.w.passFences.copyQ = [item (.cpy32 3) .queued 0])) = true ∧
    65536 < 65533 + (itemEntry schedBytes 0 0 0).x ∧
    (let i := item (.sched 0 schedBytes 0 0) .moving 65532
     let e := itemEntry schedBytes 0 0 0
     0 + 1 < e.y * e.z ∧ i.heldBytes + e.x ≤ 65536 ∧ e.dest = none ∧ e.kind ≠ 1 ∧
     heldAny (copying i []) warp0 (fun t => decide (t.w.copyQ = [i]) && decide (t.g.linear.toNat = 0) &&
       (match t.rowRead [] e.src (e.x0 + (e.y0 + (0 : Nat)) * recStrideY e.src + (e.z0 + (0 : Nat)) * recStrideZ e.src) e.x with
        | .ok _ _ u => decide (u.w = t.w) && !u.scratchHeld e.dst e.x | _ => false)) = true) ∧
    heldAny (copying (item (.cpy32 3) .moving 0) [laneReq]) warp0 (fun t =>
      !t.w.setWaits 0 && !t.scratchHeld laneReq.data.toNat 32 && (match t.laneCopy [] laneReq with | .ok _ _ _ => true | _ => false)) = true ∧
    heldAny (copying (item (.cpy32 3) .moving 0) []) warp0 (fun t => !t.g.absent &&
      (match t.w.entries.find? (·.seq == 3) with | some e => decide (e.reqs.length ≤ 0) && decide (e.fails = []) | none => false)) = true := by decide +kernel

/-- A device whose warp has a tile entry. -/
def tiling (e : TileEntry) : State := world { busy [{ entry 3 5 with op := .move }] with tileQ := [e] }
/-- An mma of the last format and shape. -/
def lastMma (st : TileState) : TileEntry := tile (.mma 8 11 true) st

/-- MatrixEvents: a posted mma, one that gathers its rows and one whose row ECC cannot correct, a move at the head of the queue, one ready for its
first chunk with words that read and with one that ECC cannot correct, one that runs, with a shadow that agrees and one that does not, an idle engine. -/
theorem witness_engine :
    held (tiling (lastMma .posted)) warp0 (fun t => decide (t.w.mmaOf 3 = some (lastMma .posted)) && decide (t.g.status = .resident) &&
      !t.w.setWaits 0 && decide (t.latches t.g.core < 2) && (t.w.tileBefore 3).all fun x => x.op.isMove || x.latched) = true ∧
    held (tiling (lastMma .gathering)) warp0 (fun t => decide (t.w.mmaOf 3 = some (lastMma .gathering)) &&
      (match t.scratchRows (mmaRow 8 11) (lastMma .gathering).addrs with | some x => decide (x.2.2 = []) | none => false)) = true ∧
    held { tiling (lastMma .gathering) with groups := (tiling (lastMma .gathering)).groups.map fun (g : Group) => { g with badScratch := [0] } } warp0 (fun t =>
      (match t.scratchRows (mmaRow 8 11) (lastMma .gathering).addrs with | some x => decide (x.2.2 ≠ []) | none => false)) = true ∧
    held (tiling (tile (.tzero 32) .posted)) warp0 (fun t => decide (t.w.tileQ = [tile (.tzero 32) .posted]) && decide (t.g.status = .resident) &&
      !t.moveWaits (tile (.tzero 32) .posted) && (t.w.entryAt 3 5).isSome && (t.moveRun (tile (.tzero 32) .posted)).isSome) = true ∧
    (∀ bad ∈ ([[], [accIndex 0 0 0]] : List (List Nat)),
      let e : TileEntry := { tile (.mma 0 0 false) .ready with rows := [(0, [])] }
      let s := { tiling e with groups := (tiling e).groups.map fun (g : Group) => { g with badAcc := bad } }
      (s.coreAt 0).colCheck = false ∧ (s.coreAt 0).mowing = [] ∧ s.engineBusy 0 = false ∧
      (match pickGrant (s.grantList 0) with
       | some (g, w, e) => s.powerOk 0 g && (match s.load ⟨g.ref, w.wid⟩ with
           | some t => (match t.scratchRows (runBytes 0) (chunkRuns 0 0 (operandB e.word) e.chunks) with
             | some x => decide (x.2.2 = []) && decide (chunkBad x.1.g e = decide (bad ≠ [])) | none => false)
           | none => false)
       | none => false) = true) ∧
    (let s := tiling { tile (.mma 0 0 false) .running with granted := some [(accIndex 0 0 0, 0x3F800000)], rows := [(0, [])] }
     let shadow (exp : Int) : ShadowReading := { at_ := 0, lane := 0, elem := 0, val := { cls := .normal, neg := false, exp := exp, sig := 128 } }
     (match s.running 0 with
      | some (g, w, e) => !e.rerun && (s.load ⟨g.ref, w.wid⟩).isSome && decide (e.divergence [shadow 1] = some 0) && (e.divergence [shadow 0]).isNone | none => false) = true) ∧
    (tiling (lastMma .posted)).engineBusy 0 = false := by decide +kernel

/-- The window of an instruction whose results are not written: FADD of 1.0 into v8 on lane 0. -/
def window (divs : Nat) (rerun : Bool) : LookWindow :=
  { left := 0, set := 1, reads := [], writes := [.v 8], ready := false, entry := none, pc := 0x1004, shadowed := true, divs := divs, rerun := rerun,
    rewrite := false, suspect := if rerun then some (.lane, 35) else none, word := 0x20000000, act := 1, undo := Undo.zero }

/-- A device whose warp has a window. -/
def watched (divs : Nat) (rerun : Bool) : State := world { busy [] with windows := [window divs rerun] }

/-- A column chunk that is being checked. -/
def checked (divs : Nat) : State := tiling { tile (.mma 0 0 false) .running with granted := some [], divs := divs, rerun := true, suspect := some 33 }

/-- DivergenceEvents: results to be written, under no shadow and under one of another class; the second and the third check; a live lane and a live
column; of 1.0, shadows one unit off, two units off, and of the next exponent after a carry. -/
theorem witness_divergence :
    held (watched 0 false) warp0 (fun t => (match t.w.unwritten with
      | some x => x.shadowed && decide (t.divergence x.set [] = none) &&
          (t.divergence x.set [{ at_ := 8, lane := 0, elem := 0, val := { cls := .nan, neg := false, exp := 0, sig := 0 } }]).isSome &&
          (t.w.windows.all fun z => !t.bankHeld z.writes (lanesIn z.act))
      | none => false)) = true ∧
    held (watched 1 true) warp0 (fun t => (match t.w.windows.find? fun x => x.rerun && !x.rewrite with
      | some x => decide (x.divs < 2) && decide (x.suspect = some (.lane, 35)) | none => false) &&
      decide (t.g.core = 0) && decide (t.w.part = 0) && decide ((t.coreAt 0).unit { kind := .lane, core := 0, part := 0, index := 35 } = some .live)) = true ∧
    held (watched 2 true) warp0 (fun t =>
      (match t.w.windows.find? fun x => x.rerun && !x.rewrite with | some x => decide (2 ≤ x.divs) && decide (x.suspect = some (.lane, 35)) | none => false)) = true ∧
    (match (checked 1).running 0 with
     | some (g, w, e) => e.rerun && !e.rewrite && decide (e.suspect = some 33) && decide (e.divs < 2) && ((checked 1).load ⟨g.ref, w.wid⟩).isSome | none => false) = true ∧
    (match (checked 2).running 0 with
     | some (g, w, e) => e.rerun && !e.rewrite && decide (e.suspect = some 33) && decide (2 ≤ e.divs) && ((checked 2).load ⟨g.ref, w.wid⟩).isSome | none => false) = true ∧
    ((checked 1).coreAt 0).unit { kind := .column, core := 0, part := 0, index := 33 } = some .live ∧
    (∀ u ∈ ([{ kind := .lane, core := 0, part := 0, index := 35 }, { kind := .column, core := 0, part := 0, index := 33 }] : List UnitId),
      ((State.reset.updCore 0 fun k => k.setUnit u .suspect).coreAt 0).unit u = some .suspect) ∧
    Fmt.f32.cls 0x3F800000 = .normal ∧ Fmt.f32.cls 0x7F800000 = .infinity ∧ Fmt.f32.signOf 0x3F800000 = false ∧
    Fmt.f32.diverges 0x3F800000 { cls := .normal, neg := false, exp := 0, sig := 129 } = false ∧
    Fmt.f32.diverges 0x3F800000 { cls := .normal, neg := false, exp := 0, sig := 130 } = true ∧
    Fmt.f32.diverges 0x3FFFFFFF { cls := .normal, neg := false, exp := 1, sig := 128 } = false := by decide +kernel

/-- Core 191 with partition 3 changed. -/
def withPart (f : Partition → Partition) : State := State.reset.updPart 191 3 f

/-- UnitEvents: the last unit of each kind, a bank in use and one that is not, an evacuating bank; a partition of 12 lanes, of 11, and one whose
mowing is not done; a scratchpad and an engine at their rewrite points. -/
theorem witness_units :
    (∀ x ∈ ([(.lane, 3, 35), (.quad, 3, 8), (.bank, 3, 23), (.bank, 3, 25), (.scalar, 3, 0), (.sbank, 0, 35), (.column, 0, 33)] : List (UnitKind × Nat × Nat)),
      let u : UnitId := { kind := x.1, core := 191, part := x.2.1, index := x.2.2 }
      (State.reset.coreAt 191).unit u = some .live ∧ ((State.reset.setMowing u false).coreAt 191).unit u = some .live) ∧
    (State.reset.partAt 191 3).retiredWhole = false ∧ (State.reset.partAt 191 3).evacuates = false ∧ 25 ∉ (State.reset.partAt 191 3).bankOf ∧
    23 ∈ (State.reset.partAt 191 3).bankOf ∧
    (bankTable (State.reset.partAt 191 3).bankOf ((State.reset.partAt 191 3).spares (State.reset.partAt 191 3).bankOf) 23).isSome = true ∧
    (let p := { Partition.fresh with banks := (List.range 26).map fun b => if b % 2 = 1 ∧ b < 24 then UnitState.live else UnitState.retired,
                                     bankOf := (List.range 24).map (· ||| 1) }
     bankTable p.bankOf (p.spares p.bankOf) 23 = none) ∧
    (State.reset.coreAt 191).relays = false ∧
    ((State.reset.updCore 191 fun k => { k with sbanks := k.sbanks.set 0 .evacuating }).coreAt 191).relays = true ∧
    State.copyLeft (withPart fun p => { p with banks := p.banks.set 25 .evacuating }) { kind := .bank, core := 191, part := 3, index := 25 } = false ∧
    ((withPart fun p => { p with banks := p.banks.set 25 .evacuating }).coreAt 191).unit { kind := .bank, core := 191, part := 3, index := 25 } =
      some .evacuating ∧
    (∀ x ∈ State.reset.flash.retired, x.1 ≠ unitCode { kind := .bank, core := 191, part := 3, index := 25 }) ∧
    (withPart fun p => { p with mowing := [(.lane, 0)] }).rewriteReady 191 (some 3) = false ∧
    (withPart fun p => { p with mowing := [(.lane, 0)] }).rewriteReady 191 none = false ∧
    (∀ n ∈ [12, 11],
      let s := withPart fun p => { p with lanes := List.replicate n .live ++ List.replicate (36 - n) .suspect }
      s.rewriteReady 191 (some 3) = true ∧ ((s.retireSuspects 191 3).partAt 191 3).width = n ∧
      ((s.retireSuspects 191 3).partAt 191 3).retiredWhole = false ∧ ((s.retireSuspects 191 3).partAt 191 3).scalar = .live) ∧
    State.reset.rewriteReady 191 none = true ∧ unitsIn (State.reset.coreAt 191).sbanks .evacuating = [] ∧
    (State.reset.coreAt 191).sbankRanks.length ≤ (unitsIn (State.reset.coreAt 191).sbanks .live).length ∧
    (let s := State.reset.updCore 191 fun k => { k with cols := List.replicate 8 .live ++ List.replicate 26 .retired, colCheck := true }
     (s.coreAt 191).colCheck = true ∧ unitsIn (s.coreAt 191).cols .suspect = [] ∧ 8 ≤ (unitsIn (s.coreAt 191).cols .live).length) := by decide +kernel

/-- A launch of context 0. -/
def launch0 : Launch :=
  { (default : Launch) with ctx := 0, seq := 1, desc := { Desc.zero with warps := 1, units := 21, draw := 1, vregs := 128 }, dx := 1, dy := 1, dz := 1, total := 1 }
/-- A group of that launch that waits. -/
def waits (st : GStatus) (image : Nat) (target : Option Nat) : Group :=
  { group (busy []) with status := st, image := image, target := target, desc := launch0.desc }
/-- A device with that launch and a group of it, its context admitted to one die. -/
def dispatching (g : Group) : State :=
  { State.reset with groups := [g], launches := [launch0], ctxs := [{ context0 with dies := 0x80 }] }

/-- One 1 GiB page of context 0 over the first 1 GiB, readable, writable and executable (R372, R373), and bytes written into it. -/
def flat (s : State) (l : List (Nat × List Byte)) : State :=
  { s with ctxs := [{ context0 with root := 0x3FFFE000, poolBase := 0x2000000, poolPages := 4096, trapBase := 0x20000, trapLog2 := 4 }],
           tenants := s.tenants.set 0 { Tenant.fresh with enabled := true, windows := [(0, 2 ^ 30)], ctxLimit := 2 },
           mem := l.foldl (fun m x => Memory.writeN m x.1 x.2) [(0x3FFFE000, 0x01), (0x3FFFE001, 0xF0), (0x3FFFE002, 0xFF), (0x3FFFE003, 0x3F), (0x3FFFF000, 0xE7)] }

/-- A group whose page 127 is on its way to memory or to frame 143. -/
def switching (m : Bool) : Group :=
  { group (busy []) with image := 0x8000, pages := List.replicate 128 { valid := true, inMem := !m, index := 0, toward := some (m, 143) } }

/-- DispatchEvents: a group with its image that a core can hold; one that waits for a core that can hold it now; a page on its way to a frame and to
memory, with its place in memory at hand and away; an arrival for an absent group; a diversion entry. -/
theorem witness_dispatch :
    (let g := waits .evicted 0x8000 none
     let s := dispatching g
     s.ctxs.all (·.state != .resuming) = true ∧
     (s.groups.filter fun g => (g.status == .pending || g.status == .evicted) && g.target.isSome && s.dispatches g.ref.ctx).isEmpty = true ∧
     s.serveOrder.head? = some launch0 ∧ (s.nextOf launch0).map (·.image) = some g.image ∧ (g.status = .pending → g.image ≠ 0) ∧ ((s.taken g).bestCore g).isSome = true) ∧
    (let g := waits .pending 0x8000 (some 191)
     let s := dispatching g
     (s.groups.filter fun g => (g.status == .pending || g.status == .evicted) && g.target.isSome && s.dispatches g.ref.ctx).map (·.target) = [some 191] ∧
     (s.coreAt 191).fits (s.others 191 g) g = true ∧ (s.coreAt 191).vacated = false) ∧
    (∀ m ∈ [false, true], heldGroup { State.reset with groups := [switching m] } ref0 (fun t =>
      decide ((t.g.pages[127]?.bind (·.toward)) = some (m, 143))) = true) ∧
    heldGroup (flat { State.reset with groups := [switching true] } []) ref0 (fun t =>
      t.fwReady t.g.ref.ctx (t.g.imageVa (4096 * 127)) 4096 &&
      (match t.peek t.g.core t.g.ref.ctx (t.g.imageVa (4096 * 127)) true with | .ok _ _ => true | _ => false)) = true ∧
    heldGroup (away { State.reset with groups := [switching true] }) ref0 (fun t => !t.fwReady t.g.ref.ctx (t.g.imageVa (4096 * 127)) 4096) = true ∧
    heldAny { world (busy [entry 3 0]) with groups := [{ group (busy [entry 3 0]) with away := true, status := .evicted }] } warp0 (fun t =>
      t.g.absent && (t.w.entries.find? fun e => e.seq == 3 && !e.done).isSome && (t.loadPart 3).isSome) = true ∧
    (let d : Divert := { ref := ref0, forward := false, clks := [(0, 5)] }
     let s := { world (busy []) with cores := (world (busy [])).cores.modify 191 fun k => { k with divert := [d] } }
     (match s.groupOf ref0 with | some g => (s.coreAt 191).divert.all fun d => !(g.landing d.clks) | none => false) = true) := by decide +kernel

/-- DispatchEvents: a held trap record and a queue of 16 with 15 records in it. -/
theorem witness_trap_queue :
    let s := flat State.reset [(0x20000 - 16, [15])]
    let t := { s with ctxs := s.ctxs.map fun (c : Context) => { c with heldTraps := [List.replicate 256 1] } }
    (match t.fwIndices 0 0x20000 with
     | some (w, r, u) => decide (w = 15) && decide (r = 0) && u.fwReady 0 (0x20000 + 256 * (w % 2 ^ 4)) 256 && u.fwReady 0 (0x20000 - 16) 8
     | none => false) = true ∧ 15 < 0 + 2 ^ 4 ∧ (t.ctxOf 0).map (·.heldTraps) = some [List.replicate 256 1] := by decide +kernel

/-- Where one run of the pool is free, that is the area. -/
theorem area_of {s : State} {ctx pages i : Nat} (k : Nat) {c : Context} (hc : s.ctxOf ctx = some c)
    (h : ((List.range (c.poolPages + 1 - pages)).filter fun i => !(c.poolUsed.any (runsMeet (i, pages)))) = [i]) :
    s.reserveArea ctx pages k =
      some (c.poolBase + 4096 * i, s.updCtx ctx fun (c : Context) => { c with poolUsed := (i, pages) :: c.poolUsed }) := by
  simp [State.reserveArea, hc, h, Nat.mod_one]

/-- A context whose pool has 128 pages, one in use, and the pages of an image of 21 accumulator units. -/
def pooled : Context := { context0 with poolBase := 0x2000000, poolPages := 1166, poolUsed := [(128, 1)], dies := 0x80 }

/-- DispatchEvents: a pending group gets its areas and a core. -/
theorem witness_dispatch_pending :
    let g := waits .pending 0 none
    let s := { dispatching g with ctxs := [pooled] }
    s.nextOf launch0 = some g ∧ ∃ h u k, s.reserveGroup g = some (h, u) ∧ (u.taken g).bestCore h = some k := by
  intro g s
  have hr : ∃ x, s.reserveGroup g = some x ∧ (x.2.taken g).bestCore x.1 = some 168 := by
    rw [State.reserveGroup, area_of (c := pooled) (i := 129) 0 rfl (by decide +kernel), Option.bind_some,
      area_of (c := { pooled with poolUsed := [(129, 1037), (128, 1)] }) (i := 0) 1 (by decide +kernel) (by decide +kernel), Option.bind_some, if_neg (by decide +kernel)]
    exact ⟨_, rfl, by decide +kernel⟩
  obtain ⟨x, h1, h2⟩ := hr
  exact ⟨rfl, x.1, x.2, 168, h1, h2⟩

/-- DispatchEvents: a group with its image that no eligible core can hold beside the groups of lower priority there. -/
theorem witness_victims :
    let g := { waits .evicted 0x8000 none with prio := 1 }
    let v (i : Nat) : Group := { waits .resident 0x8000 none with ref := { ctx := 0, seq := 2, lgi := i }, core := 168 + i }
    let s := { dispatching g with groups := g :: (List.range 24).map v }
    s.serveOrder.head? = some launch0 ∧ s.nextOf launch0 = some g ∧ (s.taken g).bestCore g = none ∧
    ((s.taken g).victims g).map (fun x => (x.1, x.2.length)) = some (168, 1) := by decide +kernel

/-- A group of one warp, two pages and a status. -/
def leaving (st : GStatus) : Group :=
  { group (busy []) with status := st, pages := List.replicate 2 { valid := true, inMem := false, index := 0, toward := none } }

/-- A block of task control for a migration to a core. -/
def taskTo (core : Nat) : TaskBlock := { warps := 1, regs := 128, units := 1, pages := 2, core := core }

/-- LeavingEvents: a group that leaves with nothing outstanding, one that halts, one that may migrate, one that migrates to a core that can hold it and to
one that cannot, and one that is gleaned. -/
theorem witness_leaving :
    heldGroup (world (busy [])) ref0 (fun t => decide (t.g.status = .resident)) = true ∧
    heldGroup { world (busy []) with cores := (world (busy [])).cores.modify 0 fun k => { k with vacated := true } } ref0 (fun t =>
      decide (t.g.status = .resident) && decide (1 ≠ t.g.core) && (t.admitted t.g.ref.ctx).contains 1 && t.mayMigrate t.g) = true ∧
    heldGroup { world (busy []) with groups := [leaving .evicting] } ref0 (fun t => decide (t.g.status = .evicting) &&
      (t.g.warps.all (·.canLeave)) && !t.g.away && decide ((t.coreAt t.g.core).divert.length < 64) &&
      (match t.release 1 with | some u => decide (u.g.returnSize ≤ u.g.returnSpace) | none => false) &&
      (match t.capture with | some u => decide (u.g.trap = none) && (match u.ctxOf u.g.ref.ctx with | some c => decide (c.state ≠ .destroyed) | none => true)
                            | none => false)) = true ∧
    heldGroup { world (busy []) with groups := [{ leaving .halting with warps := [standing .halted] }] } ref0 (fun t => decide (t.g.status = .halting) &&
      (t.g.warps.all (·.stopped)) && t.capture.isSome) = true ∧
    heldGroup { world (busy []) with groups := [{ leaving .migrating with task := some (taskTo 191) }] } ref0 (fun t => decide (t.g.status = .migrating) && !t.g.away &&
      decide (t.g.task = some (taskTo 191)) && (match t.capture with
        | some u => (u.coreAt 191).fits (u.others 191 u.g) u.g && !(u.coreAt 191).vacated && decide (u.g.trap = none) | none => false)) = true ∧
    heldGroup { world (busy []) with groups :=
        [{ leaving .migrating with task := some (taskTo 191), desc := { Desc.zero with warps := 1, units := 22, vregs := 128 } }] }
      ref0 (fun t => decide (t.g.status = .migrating) && !t.g.away && (match t.capture with
        | some u => !(u.coreAt 191).fits (u.others 191 u.g) u.g | none => false)) = true ∧
    heldGroup { world (busy []) with groups := [{ leaving .resuming with away := true, target := some 191 }] } ref0 (fun t => t.g.away &&
      decide (t.g.status = .resuming) && decide (t.g.target = some 191) && t.tableRoom 191 t.g && !t.g.absentFault && decide ((t.g.warps.map (·.wid)).Nodup) &&
      (t.g.warps.all fun w => w.slots.all fun e => !e.done || !meets e.writes maskRegs) &&
      t.g.warps.any fun w => decide (w.status ≠ .exited) && decide (w.saved ≠ .exited)) = true := by decide +kernel

/-- LeavingEvents: a group with a load outstanding gets its return slots behind its image. -/
theorem witness_return_area :
    let g := { leaving .evicting with warps := [busy [entry 3 0]], image := 0x2000000 }
    let s := { world (busy []) with groups := [g], ctxs := [{ context0 with poolBase := 0x2000000, poolPages := g.desc.imageSize / 4096 + 1,
                                                                            poolUsed := [(0, g.desc.imageSize / 4096)] }] }
    g.away = false ∧ g.warps.all (·.canLeave) = true ∧ g.returnSpace < g.returnSize ∧ g.returnSize = 4096 ∧
    heldGroup s ref0 (fun t => match t.release 1 with
      | some u => decide (u.g.returnSpace < u.g.returnSize) && (u.growImage u.g.returnSize).isSome | none => false) = true := by decide +kernel

/-- A packet of a kind, flags 0, with what follows its header. -/
def packet (kind : Nat) (body : List Byte) : List Byte := (leBytes 4 (0x10000 + kind) ++ body ++ List.replicate 60 0).take 64
/-- A queue of context 0. -/
def queue0 : Queue :=
  { num := 1023, ctx := 0, ring := 0x10000, log2 := 4, cap := 7, widxVa := 0x11000, ridxVa := 0x11008, errVa := 0x11020, state := .idle, nest := [],
    line := [], waitFor := none, unbind := none, stores := [] }
/-- A device whose queue holds one packet, and bytes elsewhere. -/
def fronted (p : List Byte) (l : List (Nat × List Byte)) : State := { flat State.reset ([(0x10000, p), (0x11000, [1])] ++ l) with queues := [queue0] }
/-- The front end reads the packet x, whose header is sound, and p holds of it and of the state after. -/
def fetched (s : State) (x : List Byte) (p : List Byte → State → Bool) : Bool :=
  match s.frontRead queue0 with | .packet b _ level _ _ t => decide (b = x) && headerSound (field x 0 4) && decide (level < 4) && p x t | _ => false
/-- The same of a device whose queue holds x, and bytes elsewhere. -/
def takes (x : List Byte) (l : List (Nat × List Byte)) (p : List Byte → State → Bool) : Bool := fetched (fronted x l) x p
/-- A descriptor that is sound: 16 registers, one warp, no unit; for a node kernel with its timer. -/
def descBytes (node : Bool) : List Byte :=
  leBytes 8 0x40000 ++ leBytes 8 0 ++ [2, 1, 1, 0, 1, if node then 8 else 0] ++ leBytes 2 0x0100 ++ leBytes 2 (if node then 1 else 0) ++ List.replicate 230 0
/-- The descriptor at 0x30000 in the front end's record cache. -/
def described (node : Bool) (s : State) : State :=
  { s with switor := { s.switor with recs := (List.range 8).map fun i =>
      { ctx := 0, va := 0x30000 + 32 * i, data := if i = 0 then BitVec.ofNat 256 (leNat ((descBytes node).take 32)) else 0 } } }
/-- A grid launch of one group of the descriptor at 0x30000, its priority prio. -/
def gridBytes (prio : Byte) : List Byte := [prio, 0, 0, 0] ++ leBytes 8 0x30000 ++ leBytes 8 0 ++ leBytes 4 1 ++ leBytes 4 1 ++ leBytes 4 1
/-- A bind of node 255 to the descriptor at 0x30000. -/
def bindBytes : List Byte :=
  [7, 255, 0, 0] ++ leBytes 8 0x30000 ++ leBytes 8 0 ++ leBytes 8 0x50000 ++ leBytes 4 256 ++ leBytes 4 1 ++ leBytes 8 0x60000

/-- PacketEvents: each kind of packet, with what it needs; a wait that holds and one that does not; a signal with an address and without; a body
that is not sound. -/
theorem witness_packets :
    takes (packet 0 []) [] (fun b _ => decide (packetKind b = 0) && zeros b 4 60) = true ∧
    takes (packet 3 (leBytes 4 0 ++ leBytes 8 0x12000 ++ leBytes 4 1048576)) [] (fun b _ => decide (packetKind b = 3) && zeros b 4 4 &&
      decide (field b 16 4 = 2 ^ 20) && decide (field b 8 8 % 64 = 0) && decide (field b 8 8 < 2 ^ 48) && zeros b 20 44) = true ∧
    (∀ n ∈ [1, 2], takes (packet 4 (leBytes 4 0 ++ leBytes 8 0x13000 ++ leBytes 8 n)) [(0x13000, [1])] (fun b t =>
      let ws := ([8, 24, 40] : List Nat).map fun o => (field b o 8, field b (o + 8) 8)
      decide (packetKind b = 4) && zeros b 4 4 && zeros b 56 8 && (ws.any fun w => decide (w.1 ≠ 0)) &&
      (ws.all fun w => decide (w.1 % 8 = 0) && decide (w.1 < 2 ^ 48)) &&
      (match (t.updQueue 1023 fun q => { q with state := .active }).wordsReached 0 ws with | .all x _ => x == decide (n = 1) | _ => false)) = true) ∧
    (∀ a ∈ [0, 0x13000], takes (packet 5 (leBytes 4 0 ++ leBytes 8 a ++ leBytes 8 (if a = 0 then 0 else 1))) [] (fun b t =>
      let u := t.updQueue 1023 fun q => { q with state := .active }
      decide (packetKind b = 5) && zeros b 4 4 && zeros b 24 40 && u.frontReleases (field b 0 4) &&
      signalSound (field b 8 8) (field b 16 8) && decide (field b 8 8 = a) &&
      (decide (a = 0) || match u.engineAdd noCore 0 (field b 8 8) (field b 16 8) with | .ok _ _ _ => true | _ => false)) = true) ∧
    takes (packet 6 []) [] (fun b _ => decide (packetKind b = 6) && zeros b 4 60) = true ∧
    takes (packet 7 []) [] (fun b t => decide (packetKind b = 7) && zeros b 4 60 &&
      (t.updQueue 1023 fun q => { q with state := .active }).frontReleases (field b 0 4)) = true ∧
    (∀ k ∈ [0, 6, 7], fetched (fronted (packet k [1]) []) (packet k [1]) (fun b t => decide (packetKind b = k) && !zeros b 4 60 &&
      ((t.updQueue 1023 fun q => { q with state := .active }).queueError queue0 0x12 0 (field b 0 4) 0 0x10000).isSome) = true) ∧
    (packetKind (packet (7 + 2 ^ 12) []) = 7 ∧ headerSound (field (packet (7 + 2 ^ 12) []) 0 4) = true ∧ (fronted [] []).queueClear queue0 = true) := by decide +kernel

/-- The front end reads a packet of queue q, and p holds of it, its level and the state after; beside that, the queue can go into error. -/
def fronts (s : State) (q : Queue) (p : List Byte → Nat → State → Bool) : Bool :=
  match s.frontRead q with
  | .packet b va level _ ridx t => p b level t && (t.queueError q 0x11 level (field b 0 4) ridx va).isSome
  | _ => false
/-- An address that no page maps. -/
def nowhere : Nat := 2 ^ 40

/-- PacketEvents: a header that is not sound; a barrier bit beside a launch that is not complete; a body of each kind that is not sound; a fifth level. -/
theorem witness_packet_refused :
    fronts (fronted (leBytes 4 9 ++ List.replicate 60 0) []) queue0 (fun b _ _ => !headerSound (field b 0 4)) = true ∧
    fronts { fronted (packet (2 ^ 12) []) [] with launches := [{ launch0 with queue := 1023 }] } queue0 (fun b _ t => headerSound (field b 0 4) &&
      decide (field b 0 4 / 2 ^ 12 % 2 = 1) && !t.queueClear queue0) = true ∧
    (∀ x ∈ ([(1, packet 1 [8]), (2, packet 2 ([0, 0, 0, 0] ++ leBytes 8 1)), (3, packet 3 [1]), (4, packet 4 []), (5, packet 5 [1]),
        (8, packet 2 ([8, 255, 0, 0] ++ List.replicate 32 0 ++ leBytes 4 1))] : List (Nat × List Byte)),
      fronts (fronted x.2 []) queue0 (fun b level _ => headerSound (field b 0 4) && decide (packetKind b = x.1) && decide (level < 4) &&
        ((decide (x.1 = 2) || decide (x.1 = 8)) && !bindSound queue0 b || decide (x.1 = 1) && decide (8 ≤ field b 4 1) ||
          (decide (x.1 = 3) || decide (x.1 = 5)) && !zeros b 4 4 || decide (x.1 = 4) && decide (field b 8 8 = 0))) = true) ∧
    (let q := { queue0 with nest := List.replicate 4 { va := 0x12000, left := 1 } }
     fronts { fronted [] [(0x12000, packet 3 [])] with queues := [q] } q (fun b level _ => headerSound (field b 0 4) && decide (packetKind b = 3) &&
       decide (level = 4)) = true) := by decide +kernel

/-- PacketEvents: a descriptor, a word of a wait and one of a signal that cannot be read. -/
theorem witness_packet_unread :
    let u (t : State) : State := t.updQueue 1023 fun q => { q with state := .active }
    let error (q : Queue) (w : State) : Bool := (w.queueError q 0x01 0 0x10001 0 0x10000).isSome
    fronts (fronted (packet 1 ([7, 0, 0, 0] ++ leBytes 8 nowhere ++ (gridBytes 7).drop 12)) []) queue0 (fun b _ t => decide (packetKind b = 1) &&
      decide (field b 8 8 % 256 = 0) && decide (field b 8 8 < 2 ^ 48) &&
      (match (u t).frontGranules 0 (field b 8 8) 8 with | .fail _ w => error queue0 w | _ => false)) = true ∧
    fronts (fronted (packet 2 ([7, 255, 0, 0] ++ leBytes 8 nowhere ++ bindBytes.drop 12)) []) queue0 (fun b _ t => decide (packetKind b = 2) &&
      bindSound queue0 b && (match (u t).frontGranules 0 (field b 8 8) 8 with | .fail _ w => error queue0 w | _ => false)) = true ∧
    fronts (fronted (packet 4 (leBytes 4 0 ++ leBytes 8 nowhere ++ leBytes 8 1)) []) queue0 (fun b _ t => decide (packetKind b = 4) &&
      (match (u t).wordsReached 0 (([8, 24, 40] : List Nat).map fun o => (field b o 8, field b (o + 8) 8)) with | .failed v => error queue0 v | _ => false))
      = true ∧
    fronts (fronted (packet 5 (leBytes 4 0 ++ leBytes 8 nowhere ++ leBytes 8 1)) []) queue0 (fun b _ t => decide (packetKind b = 5) &&
      signalSound (field b 8 8) (field b 16 8) && (u t).frontReleases (field b 0 4) &&
      (match (u t).engineAdd noCore 0 (field b 8 8) (field b 16 8) with | .fail _ _ v => error queue0 v | _ => false)) = true := by decide +kernel

/-- PacketEvents: a bind that R334 refuses, one of a node that is bound, one where no hardware queue is free, and an unbind of a node that is not bound. -/
theorem witness_bind_refused :
    let u (t : State) : State := t.updQueue 1023 fun q => { q with state := .active }
    let bind (s : State) (p : State → Bool) : Bool := fronts s queue0 fun b _ t => decide (packetKind b = 2) && bindSound queue0 b &&
      (match (u t).frontGranules 0 (field b 8 8) 8 with | .ok d w => (w.queueError queue0 0x15 0 0x10002 0 0x10000).isSome &&
        (match w.refusal 0 d true 0 with | some _ => decide (d = List.replicate 256 0) | none => p w) | _ => false)
    let s := described true (fronted (packet 2 bindBytes) [])
    bind { s with switor := { s.switor with recs := s.switor.recs.map fun r => { r with data := 0 } } } (fun _ => false) = true ∧
    bind { s with nodes := [node0] } (fun w => (w.nodeOf 0 255).isSome) = true ∧
    bind { s with nodes := List.replicate 1023 { node0 with num := 1 } } (fun w => (w.nodeOf 0 255).isNone && decide (1024 ≤ w.hardwareQueues)) = true ∧
    fronts (fronted (packet 2 ([7, 255, 0, 0] ++ leBytes 8 0 ++ leBytes 8 0 ++ leBytes 8 0 ++ leBytes 4 0 ++ leBytes 4 1)) []) queue0 (fun b _ t =>
      decide (packetKind b = 8) && bindSound queue0 b && ((u t).nodeOf 0 (field b 5 1)).isNone) = true := by decide +kernel

/-- PacketEvents: indices out of range, a packet of the ring and one of an indirect buffer that cannot be read, and the error record stored. -/
theorem witness_front_errors :
    let indices (s : State) (q : Queue) (p : Nat → Nat → State → Bool) : Bool := match s.fwRead 0 q.widxVa 8 with
      | .ok w _ s1 => (match s1.fwRead 0 q.ridxVa 8 with
          | .ok r _ s2 => (match s2.engineCheck noCore 0 [] (pieces q.ridxVa 8) with | .ok _ _ s3 => p (leNat w) (leNat r) s3 | _ => false)
          | _ => false)
      | _ => false
    let unread (s : State) (va : Nat) : Bool := match s.fwRead 0 va 64 with | .fail _ _ v => (v.queueError queue0 0x10 0 0 0 va).isSome | _ => false
    indices (fronted [] [(0x11008, [2])]) queue0 (fun w r s => decide (w < r) && (s.queueError queue0 0x17 0 0 r 0).isSome) = true ∧
    indices (fronted [] [(0x11000, [18]), (0x11008, [1])]) queue0 (fun w r _ => decide (r + 2 ^ 4 < w)) = true ∧
    (let q := { queue0 with ring := nowhere }
     indices { fronted [] [] with queues := [q] } q (fun w r s => decide (r < w) && decide (w ≤ r + 2 ^ 4) && unread s (q.packetVa r)) = true) ∧
    (let q := { queue0 with nest := [{ va := nowhere, left := 1 }] }
     indices { fronted [] [] with queues := [q] } q (fun w r s => decide (r < w) && decide (w ≤ r + 2 ^ 4) && unread s nowhere) = true) ∧
    (fronted [] []).acked noCore = true ∧
    (match (fronted [] []).fwWrite 0 queue0.errVa (List.replicate 32 1) with | .ok _ _ _ => true | _ => false) = true := by decide +kernel

/-- PacketEvents: the context fence beside a launch that is not complete; a waiting queue that reads its packet. -/
theorem witness_packet_waits :
    fetched { fronted (packet 7 []) [] with launches := [launch0] } (packet 7 []) (fun _ t => t.launches.any fun l => decide (l.ctx = 0) && !l.complete) = true ∧
    (let q := { queue0 with state := .waiting }
     (match State.frontRead { fronted (packet 0 []) [] with queues := [q] } q with
      | .packet b _ _ _ _ _ => decide (b = packet 0 []) && headerSound (field b 0 4) | _ => false) = true) := by decide +kernel

/-- The unbind of node 255, with no signal. -/
def unbindBytes : List Byte := [7, 255, 0, 0] ++ leBytes 8 0 ++ leBytes 8 0 ++ leBytes 8 0 ++ leBytes 4 0 ++ leBytes 4 1

/-- PacketEvents: a launch of the largest priority of its queue, one whose descriptor is refused, and a bind and an unbind of node 255. -/
theorem witness_launches :
    (∀ ok ∈ [true, false], fetched (described false (fronted (packet 1 (gridBytes 7)) [])) (packet 1 (gridBytes 7)) (fun b t =>
      let t := if ok then t else { t with switor := { t.switor with recs := t.switor.recs.map fun r => { r with data := 0 } } }
      decide (packetKind b = 1) && decide (field b 4 1 = 7) && zeros b 5 3 && decide (field b 8 8 < 2 ^ 48) && decide (field b 8 8 % 256 = 0) &&
      decide (field b 16 8 < 2 ^ 48) && decide (field b 16 8 % 16 = 0) && decide (1 ≤ field b 24 4) && decide (1 ≤ field b 28 4) && decide (1 ≤ field b 32 4) &&
      decide (field b 24 4 * field b 28 4 * field b 32 4 ≤ 2 ^ 32) && signalSound (field b 40 8) (field b 48 8) && zeros b 56 8 &&
      (match (t.updQueue 1023 fun q => { q with state := .active }).frontGranules 0 (field b 8 8) 8 with
       | .ok d w => (match w.refusal 0 d false (field b 36 4) with
           | none => ok | some c => !ok && (w.queueError queue0 c 0 (field b 0 4) 0 0x10000).isSome)
       | _ => false)) = true) ∧
    fetched (described true (fronted (packet 2 bindBytes) [])) (packet 2 bindBytes) (fun b t => decide (packetKind b = 2) && bindSound queue0 b &&
      (match (t.updQueue 1023 fun q => { q with state := .active }).frontGranules 0 (field b 8 8) 8 with
       | .ok d w => decide (w.refusal 0 d true 0 = none) && decide (w.nodeOf 0 (field b 5 1) = none) && decide (w.hardwareQueues < 1024)
       | _ => false)) = true ∧
    fetched { fronted (packet 2 unbindBytes) [] with nodes := [node0], launches := [launch0] } (packet 2 unbindBytes) (fun b t =>
      let u := t.updQueue 1023 fun q => { q with state := .active }
      decide (packetKind b = 8) && bindSound queue0 b && decide (queue0.unbind = none) && (u.queues.all fun x => decide (x.unbind ≠ some (field b 5 1))) &&
      (u.nodeOf 0 (field b 5 1)).isSome) = true := by decide +kernel

/-- A launch whose groups have all retired, with a signal and its cores; a node that has nothing left; a queue at its unbind packet. -/
def doneLaunch : Launch := { launch0 with next := 1, sigVa := 0x13000, sigInc := 1, release := 1, ranCores := [191] }

def doneNode : Node := { node0 with unbinding := true }

def unbindQueue : Queue := { queue0 with state := .waiting, unbind := some 255 }

/-- CompletionEvents: a launch with its signal, an aborted one, an unbinding node whose launch signals and one whose launch is aborted, an nemit to a
node. -/
theorem witness_completion :
    (let s := { flat State.reset [] with launches := [doneLaunch] }
     s.launchOf 0 1 = some doneLaunch ∧ doneLaunch.complete = false ∧ (s.lookedAt doneLaunch).launchDone doneLaunch = true ∧ doneLaunch.node = none ∧
     doneLaunch.aborted = false ∧ doneLaunch.only = none ∧ doneLaunch.sigVa ≠ 0 ∧
     (match s.releaseLaunch doneLaunch with | some u => (match u.engineAdd noCore 0 0x13000 1 with | .ok _ _ _ => true | _ => false) | none => false) = true) ∧
    (let l := { launch0 with next := 1, aborted := true }
     let s := { flat State.reset [] with launches := [l] }
     s.launchOf 0 1 = some l ∧ s.ended l = true) ∧
    (∀ stop ∈ [false, true],
      let l := { doneLaunch with aborted := stop }
      let s := { fronted [] [] with launches := [l], nodes := [doneNode], queues := [unbindQueue] }
      s.nodeOf 0 255 = some doneNode ∧ (s.queues.find? fun q => q.ctx == 0 && q.unbind == some 255) = some unbindQueue ∧
      s.launchOf 0 doneNode.launch = some l ∧ (s.lookedAt l).nodeDone doneNode l = true ∧ unbindQueue.state ≠ .error ∧ unbindQueue.state ≠ .stopped ∧
      (match s.releaseLaunch l with
       | some u => (match u.unbound unbindQueue with | some (t, ok) => ok && (t.signal l).isSome | none => false) | none => false) = true) ∧
    (let e := { entry 3 4 with op := .nemit 255 }
     heldAny { world (busy [e]) with nodes := [node0] } warp0 (fun t => decide (t.w.entryAt 3 4 = some e) &&
       t.w.allDone 3 && (t.w.entries.all fun d => d.done || decide (3 ≤ d.seq)) && (t.release 1).isSome) = true) := by decide +kernel

/-- CompletionEvents: a record that has room in its hardware queue; records queued under a timer and without one; a timer without a free batch. -/
theorem witness_formation :
    (let n := { node0 with hw := List.replicate 254 0 }
     n.unbinding = false ∧ n.hw.length < 256 ∧ n.queued + 1 ≠ launch0.desc.capacity) ∧
    (∀ on ∈ [false, true],
      let n := { node0 with hw := List.replicate 95 0, timerOn := on }
      let s := { flat State.reset [] with nodes := [n], launches := [launch0] }
      s.nodeOf 0 255 = some n ∧ s.launchOf 0 n.launch = some launch0 ∧ n.queued ≠ 0 ∧ launch0.aborted = false ∧ launch0.split = false ∧
      0 < launch0.desc.warps ∧
      (match s.takeBatch n with
       | some x => (match s.fwWrite n.ctx x.1 (batchBytes n ((n.hw ++ n.rick).take (min (96 * launch0.desc.warps) n.queued))) with
         | .ok _ _ _ => true | _ => false) | none => false) = true) ∧
    (let n := { node0 with hw := [0], timerOn := true, freeBatch := [] }
     (State.nodeOf { State.reset with nodes := [n] } 0 255) = some n ∧ n.queued ≠ 0) := by
  decide +kernel

/-- A sound context record (R363) and a sound queue descriptor (R365), at the limits of their fields. -/
def recordBytes : List Byte :=
  leBytes 8 0x3FFFE000 ++ leBytes 8 0x2000000 ++ leBytes 4 1 ++ [0, 0, 0x80, 0] ++ leBytes 8 0x20000 ++ [12, 0, 0, 0, 0, 0, 0, 0] ++ leBytes 8 0 ++ leBytes 2 4096 ++
    List.replicate 14 0
def queueBytes : List Byte :=
  leBytes 8 0x10000 ++ [20, 7, 0, 0, 0, 0, 0, 0] ++ leBytes 8 0x11000 ++ leBytes 8 0x11008 ++ leBytes 8 0x11020 ++ List.replicate 24 0

/-- A command of tenant 0 for a context, its code, tag 5 and the operands (R365). -/
def cmd (code ctx : Nat) (operands : List Byte) : Cmd :=
  { tenant := 0, block := ([BitVec.ofNat 8 code, 0] ++ leBytes 2 ctx ++ leBytes 4 5 ++ operands ++ List.replicate 56 0).take 64 }

/-- ContextCommands: a tenant below its limit with a sound record and an unsound one; a sound and an unsound queue descriptor; the last numbers; a
command for a context of another tenant and for none. -/
theorem witness_create :
    (let s := flat State.reset []
     let live := s.ctxs.filter fun c => c.state != .destroyed || c.destroying
     s.Takes (cmd 1 0 recordBytes) (zeros (cmd 1 0 recordBytes).block 2 2) ∧ s.recordSound 0 (cmd 1 0 recordBytes).operands = true ∧
     s.Takes (cmd 1 0 []) (zeros (cmd 1 0 []).block 2 2) ∧ s.recordSound 0 (cmd 1 0 []).operands = false ∧
     live.countP (·.tenant == 0) < (s.tenants.getD 0 Tenant.fresh).ctxLimit ∧ (∀ c ∈ live, c.id ≠ 255)) ∧
    (let s := fronted [] []
     (∃ x, s.TakesFor (cmd 5 0 queueBytes) true x ∧ x.state ≠ .destroyed) ∧
     queueSound (cmd 5 0 queueBytes).operands = true ∧ queueSound (cmd 5 0 []).operands = false ∧ s.queues.length + s.nodes.length < 1024 ∧
     ∀ q ∈ s.queues, q.num ≠ 1022) ∧
    (let s := flat State.reset []
     s.Takes (cmd 2 1 []) true ∧ (cmd 2 1 []).clean 8 = true ∧ s.ctxOf 1 = none ∧ (s.ctxOf 0).map (·.tenant) = some 0 ∧
     State.Takes { s with tenants := s.tenants.set 1 { Tenant.fresh with enabled := true } } { cmd 2 0 [] with tenant := 1 } true ∧ 0 ≠ 1) := by
  refine ⟨⟨⟨by decide +kernel, by decide +kernel, by decide +kernel⟩, by decide +kernel, ⟨by decide +kernel, by decide +kernel, by decide +kernel⟩,
    by decide +kernel⟩, ⟨⟨_, ⟨⟨by decide +kernel, by decide +kernel, rfl⟩, rfl, rfl, rfl, rfl⟩, by decide +kernel⟩, by decide +kernel⟩,
    ⟨by decide +kernel, by decide +kernel, rfl⟩, by decide +kernel, by decide +kernel, by decide +kernel,
    ⟨by decide +kernel, by decide +kernel, rfl⟩, by decide +kernel⟩

/-- ContextCommands: the last byte of each command's block is not zero; a command comes while another of its context is under way. -/
theorem witness_command_fields :
    (∀ x ∈ ([(2, 8), (3, 8), (4, 8), (6, 10), (7, 10), (8, 20), (9, 20), (10, 12), (11, 10), (12, 10)] : List (Nat × Nat)),
      (cmd x.1 0 (List.replicate 55 0 ++ [1])).clean x.2 = false) ∧ zeros (cmd 1 256 []).block 2 2 = false ∧
    (let s := { State.reset with tenants := State.reset.tenants.set 0 { Tenant.fresh with enabled := true },
                                 ctxs := [{ context0 with cmd := some (3, cmd 3 0 []) }] }
     s.Takes (cmd 4 0 []) true ∧ (s.ctxOf 0).bind (·.cmd) = some (3, cmd 3 0 []) ∧ (s.ctxOf 0).map (·.waiting) = some [] ∧ (cmd 4 0 []).clean 8 = true) :=
  ⟨by decide +kernel, by decide +kernel, ⟨by decide +kernel, by decide +kernel, rfl⟩, by decide +kernel⟩

/-- ContextCommands: queues in each state, contexts in each state that take a command, and the limits of a quantum. -/
theorem witness_commands :
    (∀ st ∈ ([.stopped, .idle, .active, .waiting, .error] : List QState),
      (State.queueOf { fronted [] [] with queues := [{ queue0 with state := st }] } (cmd 6 0 (leBytes 2 1023)).queue).map (·.state) = some st ∧
      (State.queueOf { fronted [] [] with queues := [{ queue0 with state := st }] } 1023).map (·.ctx) = some 0) ∧
    (∀ st : CtxState, ∀ n ∈ [8, 10], let c := cmd 6 0 (if n = 8 then [] else leBytes 2 1023)
      State.TakesFor { flat State.reset [] with ctxs := [{ context0 with state := st }] } c (c.clean n) { context0 with state := st }) ∧
    ((cmd 11 0 (leBytes 2 2047)).target < 2 ^ 11 ∧ (cmd 11 0 (leBytes 2 2047)).clean 10 = true) ∧
    (∀ n ∈ [99, 100, 100000, 100001], (cmd 10 0 (leBytes 4 n)).quantum = n ∧
      (zeros (cmd 10 0 (leBytes 4 n)).block 2 2 && (cmd 10 0 (leBytes 4 n)).clean 12) = true) ∧
    (let s := { State.reset with ctxs := [{ context0 with state := .evicting, cmd := some (3, cmd 3 0 []) }], groups := [leaving .evicted, leaving .halted] }
     (s.ctxOf 0).map (·.state) = some .evicting ∧ s.allAway 0 = true ∧ (s.ctxOf 0).bind (·.cmd) = some (3, cmd 3 0 [])) ∧
    (let s := { State.reset with ctxs := [{ context0 with migrating := some 1 }], groups := [leaving .retired] }
     ((s.ctxOf 0).bind (·.migrating)) ≠ none ∧ s.noneLeft 0 = true) := by
  refine ⟨by decide +kernel, fun _ n hn => ?_, by decide +kernel, by decide +kernel, by decide +kernel, by decide +kernel⟩
  fin_cases hn <;> exact ⟨⟨by decide +kernel, rfl, by decide +kernel⟩, rfl, rfl, rfl, rfl⟩

/-- A halted group of one warp, without registers, with its image at 0x8000; its context is faulted. -/
def small : Group := { leaving .halted with desc := { Desc.zero with warps := 1 }, image := 0x8000, warps := [{ standing .halted with nregs := 0 }] }
def faulted (s : State) : State := { s with ctxs := s.ctxs.map fun (c : Context) => { c with state := .faulted }, groups := [small] }

/-- A read of the firmware under a translation that it holds: the bytes at the home, the state as it was. -/
theorem engineRead_held (s : State) (t : Tlb) : ∀ l : List (Nat × Nat),
    (l.all fun p => t.covers 0 p.1 && t.marked p.1 false && (s.homeFails (t.pa + (p.1 - t.va)) p.2 t.key true).isNone &&
      decide (t.pa + (p.1 - t.va) < 2 ^ 51)) = true →
    s.engineRead noCore 0 [t] l = .ok (l.flatMap fun p => s.homeRead (t.pa + (p.1 - t.va)) p.2) [t] s
  | [], _ => rfl
  | (va, n) :: rest, h => by
    simp only [List.all_cons, Bool.and_eq_true, Option.isNone_iff_eq_none, decide_eq_true_eq] at h
    obtain ⟨⟨⟨⟨h1, h2⟩, h3⟩, h4⟩, h5⟩ := h
    simp only [State.engineRead, State.heldXl, List.find?_cons, h1, h2, Bool.not_false, Bool.true_or, Bool.and_self, State.ordered, noCore,
      Nat.lt_irrefl, decide_false, Bool.false_and, Bool.false_eq_true, if_false, h3, State.sendLoad, if_pos h4]
    rw [show (192 : Nat) = noCore from rfl, engineRead_held s t rest h5]
    rfl

/-- Consecutive cells read as they were listed. -/
theorem read_cells (a : Nat) (f : Nat → Byte) (j : Nat) : ∀ n k, k ≤ j → j < k + n →
    Memory.read ((List.range' k n).map fun i => (a + i, f i)) (a + j) = f j
  | 0, k, h, h2 => by omega
  | n + 1, k, h, h2 => by
    simp only [List.range'_succ, List.map_cons, Memory.read]
    by_cases e : k = j
    · simp [e]
    · rw [if_neg (by omega), if_neg (by omega)]
      exact read_cells a f j n (k + 1) (by omega) (by omega)

/-- Rows of n put one after another. -/
theorem flat_range (f : Nat → Byte) (n : Nat) : ∀ k, ((List.range k).flatMap fun i => (List.range n).map fun j => f (n * i + j)) = (List.range (k * n)).map f
  | 0 => by simp
  | k + 1 => by
    rw [List.range_succ, List.flatMap_append, flat_range f n k, Nat.succ_mul, List.range_add]
    simp [Nat.mul_comm]

/-- The image of `small` as the device writes it, and a state whose memory holds it at 0x8000, its page tables at 0x1000. -/
def image : List Byte := imageBytes small small.imageState ++ leBytes 1024 0
def imaged : State := { faulted (flat State.reset []) with
      ctxs := (faulted (flat State.reset [])).ctxs.map fun (c : Context) => { c with root := 0x1000 },
      mem := [(0x1000, 0x01), (0x1001, 0x20), (0x2000, 0xE7), (0x3000, 1)] ++ cellsAt 0x8000 image }
def imagedT : Tlb := { ctx := 0, va := 0, size := 2 ^ 30, pa := 0, w := true, x := true, a := 1, d := 1, o := false, key := 0, policy := 0 }
theorem imaged_walk : imaged.walk 0 0x8000 = .leaf 0xE7 0x2000 (2 ^ 30) := by decide +kernel
theorem imaged_translate : imaged.translate noCore 0 0x8000 false = (.ok 0x8000 imagedT, imaged) := by
  have hi : ((imaged.coreAt noCore).tlb.find? (·.covers 0 0x8000)) = none := by decide +kernel
  have hd : (imaged.dies.getD (dieOf noCore) { tlb := [], ceiling := 4, hot := false }).tlb.find? (·.covers 0 0x8000) = none := by decide +kernel
  have hc : imaged.cores.length = 192 ∧ imaged.dies.length = 8 := by decide +kernel
  have hin : imaged.install noCore imagedT = imaged := by
    simp [State.install, noCore, dieOf, List.modify_eq_self, hc]
  have hl : imaged.leafTlb 0 0x8000 0xE7#64 0x2000 (2 ^ 30) true = imagedT := by decide +kernel
  have hf : imaged.copying 0x2000 = false ∧ imaged.refused 0x8000 = false := by decide +kernel
  simp only [State.translate, hi, hd, State.walkIn, imaged_walk, hf]
  have hl' : imaged.leafTlb 0 32768 231#64 8192 1073741824 true = imagedT := hl
  simp [hl', hin]
  simp [imagedT, hf]

theorem image_length : (imageBytes small small.imageState).length = 68608 := by
  have h1 : (imageHeader small small.imageState).length = 256 := by decide +kernel
  have h2 : ((List.range 16).flatMap fun b => (small.bars.getD b (GBar.fresh 0)).bytes).length = 256 := by decide +kernel
  have h4 : small.desc.warps = 1 ∧ small.desc.rows = 0 ∧ small.desc.vregs = 0 := by decide +kernel
  have h5 : (small.warps.find? (·.wid == 0)).isSome = true := by decide +kernel
  obtain ⟨w, hw⟩ := Option.isSome_iff_exists.mp h5
  simp only [imageBytes, List.length_append, h1, h2, h4, leBytes, List.length_map, List.length_range, openBytes, List.range_one,
    List.flatMap_cons, List.flatMap_nil, List.append_nil, hw, Warp.vectorBytes, List.range_zero, Nat.mul_zero]
  simp [List.length_flatMap]

theorem imaged_pages : (((List.range' 1 16).map fun i => (0x8000 + 4096 * i, 4096)).all fun p =>
      imagedT.covers 0 p.1 && imagedT.marked p.1 false && (imaged.homeFails (imagedT.pa + (p.1 - imagedT.va)) p.2 imagedT.key true).isNone &&
      decide (imagedT.pa + (p.1 - imagedT.va) < 2 ^ 51)) = true := by decide +kernel
theorem imaged_page : imaged.homeFails 0x8000 4096 imagedT.key true = none := by decide +kernel
theorem image_all : image.length = 17 * 4096 := by simp [image, image_length, leBytes]

/-- Memory above the page tables of `imaged`. -/
theorem read_above_tables (m : List Host.Cell) (i : Nat) : Memory.read ([(0x1000, 0x01), (0x1001, 0x20), (0x2000, 0xE7), (0x3000, 1)] ++ m) (0x8000 + i) = Memory.read m (0x8000 + i) := by
  simp only [List.cons_append, List.nil_append, Memory.read]
  rw [if_neg (by omega), if_neg (by omega), if_neg (by omega), if_neg (by omega), if_neg (by omega), if_neg (by omega),
    if_neg (by omega), if_neg (by omega)]

theorem read_image (i : Nat) (hi : i < 17 * 4096) : Memory.read (cellsAt 0x8000 image) (0x8000 + i) = image.getD i 0 := by
  rw [cellsAt, List.range_eq_range', image_all]
  exact read_cells _ _ i _ 0 (by omega) (by omega)

theorem imaged_home (i : Nat) (hi : i < 17 * 4096) : imaged.homeByte (0x8000 + i) = Memory.read imaged.mem (0x8000 + i) := by
  have : 0x8000 + i < hbmEnd := by simp [hbmEnd]; omega
  rw [State.homeByte, if_pos this]

theorem imaged_mem : imaged.mem = [(0x1000, 0x01), (0x1001, 0x20), (0x2000, 0xE7), (0x3000, 1)] ++ cellsAt 0x8000 image := rfl
theorem imaged_byte (i : Nat) (hi : i < 17 * 4096) : imaged.homeByte (0x8000 + i) = image.getD i 0 := by
  rw [imaged_home i hi, imaged_mem, read_above_tables, read_image i hi]

theorem imaged_all : ((List.range 17).flatMap fun i => imaged.homeRead (0x8000 + 4096 * i) 4096) = image := by
  have hh : ∀ i, imaged.homeRead (0x8000 + 4096 * i) 4096 = (List.range 4096).map fun j => imaged.homeByte (0x8000 + (4096 * i + j)) := by
    intro i; simp only [State.homeRead, Nat.add_assoc]
  simp only [hh]
  rw [flat_range (fun k => imaged.homeByte (0x8000 + k)) 4096 17]
  apply List.ext_getElem
  · rw [List.length_map, List.length_range, image_all]
  · intro i h1 h2
    rw [List.getElem_map, List.getElem_range, imaged_byte i (image_all ▸ h2), List.getD_eq_getElem]

theorem imaged_read : imaged.engineRead noCore 0 [] ((0x8000, 4096) :: (List.range' 1 16).map fun i => (0x8000 + 4096 * i, 4096)) =
    .ok image [imagedT] imaged := by
  rw [State.engineRead, show imaged.heldXl [] noCore 0 0x8000 false = (.ok 0x8000 imagedT, [imagedT], imaged) from by
    simp [State.heldXl, imaged_translate]]
  simp only [State.ordered, noCore, Nat.lt_irrefl, decide_false, Bool.false_and, Bool.false_eq_true, if_false, imaged_page, State.sendLoad,
    show (0x8000 : Nat) < 2 ^ 51 from by decide, if_true]
  rw [show (192 : Nat) = noCore from rfl, engineRead_held imaged imagedT _ imaged_pages]
  rw [List.flatMap_map, ← imaged_all, show List.range 17 = 0 :: List.range' 1 16 from rfl, List.flatMap_cons]
  simp only [imagedT, Nat.zero_add, Nat.sub_zero, Nat.mul_zero, Nat.add_zero]

theorem imaged_get : imaged.fwGet 0 small.image (small.desc.imageSize + small.returnSpace) = some (image, imaged) := by
  have hp : pieces small.image (small.desc.imageSize + small.returnSpace) =
      (0x8000, 4096) :: (List.range' 1 16).map fun i => (0x8000 + 4096 * i, 4096) := by decide +kernel
  simp only [State.fwGet, State.fwRead, hp, imaged_read]

theorem image_unchanged : small.unchanged image = true := by
  have hr : returnBytes small = [] := by decide +kernel
  have ht : 1024 + small.desc.warps * (2048 + 384 * small.desc.vregs) = 3072 := by decide +kernel
  simp only [Group.unchanged, hr, ht, image, Bool.and_eq_true, beq_iff_eq, List.length_nil, List.take_zero, and_true]
  refine ⟨?_, ?_⟩
  · rw [List.take_append_of_le_length (by simp [image_length])]
  · rw [List.drop_append_of_le_length (by simp [image_length]),
      List.take_append_of_le_length (by simp [image_length])]

/-- ContextEndings: a halted group with its image as the device wrote it in memory, and one with another. -/
theorem witness_group_resume :
    let c := cmd 8 0 (leBytes 8 1)
    (∃ x, imaged.TakesFor c (c.clean 20) x ∧ x.state = .faulted) ∧ c.group = ref0 ∧ imaged.groupOf ref0 = some small ∧ small.status = .halted ∧
    (imaged.fwGet 0 small.image (small.desc.imageSize + small.returnSpace) = some (image, imaged) ∧ small.unchanged image = true) ∧
    (match (faulted (flat State.reset [])).fwGet 0 small.image (small.desc.imageSize + small.returnSpace) with
     | some (im, _) => !small.unchanged im | none => false) = true :=
  ⟨⟨_, ⟨⟨by decide +kernel, by decide +kernel, by decide +kernel⟩, rfl, rfl, rfl, rfl⟩, rfl⟩, by decide +kernel, by decide +kernel,
    by decide +kernel, ⟨imaged_get, image_unchanged⟩, by decide +kernel⟩

/-- ContextEndings: a halted group of a faulted context whose launch has its queue; a context to destroy, one with a command under way and one that
waits; one that is being destroyed; a launch that arrives. -/
theorem witness_endings :
    (let s := { faulted (fronted [] []) with launches := [{ launch0 with queue := 1023 }] }
     let t := State.retireGroup { s with g := small.discarded }
     let v := ((t.putGroup t.g).dropPending 0 1).updLaunch 0 1 fun l => { l with aborted := true }
     (match v.launchOf 0 1 with
      | some l => (match v.queueOf l.queue with
          | some q => decide (q.ctx = 0) && (match v.fwGet q.ctx q.ridxVa 8 with
              | some (r, u) => (u.writeError q (errorRecord 0x18 l.level q.num l.header.toNat (leNat r) l.pktVa)).isSome | none => false)
          | none => false)
      | none => false) = true) ∧
    (∀ under ∈ ([none, some (3, cmd 3 0 []), some (11, cmd 11 0 [1])] : List (Option (Nat × Cmd))), ∀ wait ∈ [[], [Waiting.mk 4 (cmd 4 0 []) [] false]],
      let x := { context0 with cmd := under, waiting := wait }
      let s := { flat State.reset [] with ctxs := [x] }
      s.Takes (cmd 2 0 []) ((cmd 2 0 []).clean 8) ∧ s.ctxOf (cmd 2 0 []).ctx = some x ∧ x.tenant = (cmd 2 0 []).tenant ∧ x.state ≠ .destroyed ∧
      x.destroying = false) ∧
    (let s := { State.reset with ctxs := [{ context0 with state := .destroyed, destroying := true }], groups := [leaving .retired] }
     (s.ctxOf 0).map (·.destroying) = some true ∧ s.allLanded 0 = true) ∧
    State.launchOf { State.reset with ctxs := [context0] } 0 1 = none := by
  refine ⟨by decide +kernel, fun _ _ _ _ => ⟨⟨by decide +kernel, rfl, by decide +kernel⟩, rfl, rfl, nofun, rfl⟩, by decide +kernel⟩

/-- A device whose context, which is destroyed, has one 4 KiB page that is backed and away, four levels down. -/
def awayPage : State :=
  { State.reset with
    ctxs := [{ context0 with state := .destroyed }],
    tenants := State.reset.tenants.set 0 { Tenant.fresh with enabled := true, windows := [(0x200000, 0x8000)] },
    mem := [(0x200000, 0x01), (0x200001, 0x10), (0x200002, 0x20), (0x201000, 0x01), (0x201001, 0x20), (0x201002, 0x20), (0x202000, 0x01), (0x202001, 0x30),
            (0x202002, 0x20), (0x203FF8, 0x08)] }

/-- PageEvents: the last page of a table is away, and a place is free for it; a sound invalidation request, one of a context of another tenant, and
one ready to complete. -/
theorem witness_pages :
    awayPage.walk 0 0x1FFFFF = .away 0x203FF8 3 ∧ awayPage.copying 0x203FF8 = false ∧ awayPage.moving = none ∧
    { awayPage with fwHeld := [{ ctx := 0, va := 0x1FFF00, data := [1] }] }.firmwareAwaits 0 0x1FFFFF = true ∧
    0x207000 % levelSize 3 = 0 ∧ awayPage.placeFree 0 (awayPage.tenantUses 0) (levelSize 3) 0x207000 = true ∧
    (let s := flat State.reset []
     let req (n : Nat) := leBytes 8 0xFFFFFFFFF000 ++ leBytes 4 1 ++ leBytes 2 n ++ leBytes 2 0 ++ leBytes 8 0x13000 ++ leBytes 8 7
     (s.tenants.getD 0 Tenant.fresh).enabled = true ∧ field (req 0) 0 8 < 2 ^ 48 ∧ field (req 0) 0 8 % 4096 = 0 ∧ zeros (req 0) 14 2 = true ∧
     field (req 0) 16 8 % 8 = 0 ∧
     (s.ctxs.any fun c => decide (c.id = field (req 0) 12 2) && decide (c.tenant = 0) && decide (c.state ≠ .destroyed)) = true ∧ s.invalid = [] ∧
     (s.ctxs.all fun c => decide (c.id ≠ field (req 1) 12 2)) = true) := by decide +kernel

/-- PageEvents: a page of 1 GiB is away, and the window of its tenant has no place for it. -/
theorem witness_no_place :
    (away State.reset).walk 0 0x3FFFFFFF = .away 0x201000 1 ∧ (away State.reset).copying 0x201000 = false ∧
    { away State.reset with fwHeld := [{ ctx := 0, va := 0x3FFFFF00, data := [1] }] }.firmwareAwaits 0 0x3FFFFFFF = true ∧
    ∀ pa, ¬(away State.reset).placeFree 0 ((away State.reset).tenantUses 0) (levelSize 1) pa = true := by
  refine ⟨by decide +kernel, by decide +kernel, by decide +kernel, fun pa h => ?_⟩
  simp only [State.placeFree, Bool.and_eq_true] at h
  have hw := h.1.1.2
  simp [State.inWindows, away, State.reset, levelSize, coveredBy] at hw
  by_cases hp : 2097152 ≤ pa ∧ pa < 3145728
  · simp [hp] at hw
  · simp [hp] at hw

/-- PageEvents: an invalidation whose translations are removed completes with its value stored. -/
theorem witness_invalidation :
    let x : Invalid := { tenant := 0, ctx := 0, va := 0, pages := 1, compVa := 0x13000, value := 7, removed := true }
    let s := { flat State.reset [] with invalid := [x] }
    (s.invalid.find? (·.tenant == 0)) = some x ∧ s.heldNamed x = false ∧ s.acked noCore = true ∧
    (∀ p ∈ s.writeBackCores.parked, p.core = noCore ∨ p.core = noCore + 1) ∧
    (match s.writeBackCores.fwWrite 0 0x13000 (leBytes 8 7) with | .ok _ _ _ => true | _ => false) = true := by decide +kernel

/-- MemoryDeviceEvents: the last channel is due and a slot is in reserve; a granule before and in its copy; the last slice; the last sector, good,
flawed and with a bad tag. -/
theorem witness_devices :
    (let s := { State.reset with channels := [{ num := 383, corrected := [], badGranules := [], due := some 1, retired := false }] }
     (s.channelAt 383).retired = false ∧ s.dueFirst 383 = true ∧ s.moving = none ∧
     (∃ k < 3072, (s.slotEntry k).state = .reserve) ∧ ∀ x ∈ s.flash.retired, x.1 ≠ BitVec.ofNat 64 (6 + 2 ^ 8 * 383)) ∧
    State.unreached (flat State.reset []) 0x3FFFF = false ∧ State.unreached (flat State.reset []) 0x40000 = true ∧
    State.reset.slices.getD 127 false = true ∧ State.reset.sliceTaker 127 ≠ none ∧
    (∀ x ∈ State.reset.flash.retired, x.1 ≠ BitVec.ofNat 64 (7 + 2 ^ 8 * 127)) ∧
    (let sec := 128 * (hbmEnd / 128 - 1)
     let bad : State := { State.reset with sectorKey := [(sec, 64)] }
     sec < hbmEnd ∧ (State.reset.channelAt (State.reset.channelOf sec)).retired = false ∧ sec ∉ State.reset.flaws ∧
     State.reset.tagStands sec = true ∧ bad.tagStands sec = false ∧ sec ∉ bad.flaws) := by decide +kernel

/-- MemoryDeviceEvents: a retired group of a determinate launch with a staged byte; host bytes inside and outside the windows; an error record. -/
theorem witness_outside :
    (let g := { leaving .retired with staged := [{ va := 0xFFF8, data := [1, 2], red := none }] }
     let l := { launch0 with desc := { launch0.desc with determ := true } }
     let s := { flat State.reset [] with groups := [g], launches := [l] }
     s.launchOf 0 1 = some l ∧ ((s.groups.find? fun g => g.ref.ctx == 0 && g.ref.seq == 1 && g.ref.lgi == l.released).map (·.status)) = some .retired ∧
     (s.applyAll 0 1 g.staged).isSome = true) ∧
    (let s := flat State.reset []
     (s.tenants.getD 0 Tenant.fresh).enabled = true ∧ s.inWindows 0 (sectorOf 0x3FFFFFFE) 128 = true ∧ s.inWindows 0 (sectorOf 0x40000000) 128 = false ∧
     s.refused (sectorOf 0x3FFFFFFE) = false ∧ s.badStored (sectorOf 0x3FFFFFFE) = false ∧
     0x3FFFFFFE % 128 + 2 ≤ 128 ∧ 0x3FFFFFFE < hbmEnd ∧ s.moving = none) ∧
    (let s := { flat State.reset [] with tenants := [{ Tenant.fresh with errHeld := [List.replicate 32 1], errBase := 0x40000, errLog2 := 4 }] }
     (s.placeError 0 (List.replicate 32 1)).isSome = true) := by decide +kernel

/-- Links that are trained, with a route to device 5 through port 11. -/
def linked (st : PState) : State :=
  { State.reset with switor := { State.reset.switor with boot := 0x10 },
                     links := { Links.fresh with identity := some 4, routes := [(5, [11])],
                                                 ports := State.reset.links.ports.set 11 { Port.fresh with state := st },
                                                 grants := [{ source := 5, key := 63, access := 7, base := 0, size := 1 }] } }

/-- LinkEvents: bring-up has ended and no identity is written, and one is; port 11 in every state; masks that leave 8, 7, 4 and 3 strands; strand 7 of
8 and 3 of 4 with replays past their limit; flits waiting that have a route; an operation of this device and of another; a flit's number expected and
not; a flit that is taken; one that the peer asks for again and one that it does not; the retirement list with and without an identifier. -/
theorem witness_links :
    (let s := { State.reset with switor := { State.reset.switor with boot := 0x10 } }
     s.switor.boot = 0x10 ∧ s.links.identity = none) ∧ (linked .off).links.identity = some 4 ∧ (linked .off).switor.boot = 0x10 ∧
    (∀ st ∈ ([.off, .training, .up, .degraded, .draining] : List PState), ((linked st).portAt 11).state = st ∧ ((linked st).portAt 11).replay = []) ∧
    (∀ x ∈ ([(255, 8), (127, 7), (15, 4), (7, 3)] : List (Nat × Nat)), strandCount (BitVec.ofNat 8 x.1 &&& ~~~((linked .training).barred 11)) = x.2) ∧
    (∀ x ∈ ([(255, 7), (15, 3)] : List (Nat × Nat)),
      let s := (linked .up).updPort 11 fun q => { q with strands := BitVec.ofNat 8 x.1, nakAt := [(x.2, 0)] }
      (s.portAt 11).state = .up ∧ (s.portAt 11).strands.getLsbD x.2 = true ∧ (s.portAt 11).strandBad s.time.toNat x.2 = true ∧
      strandCount ((s.portAt 11).strands &&& ~~~(BitVec.twoPow 8 x.2)) = strandCount (BitVec.ofNat 8 x.1) - 1) ∧
    (let x : RemoteOp := { source := 5, target := 5, number := 1, key := 63, pa := 0x1FFFF8, kind := .store (leBytes 8 1), order := 0, clock := 0 }
     let s := linked .up
     let t := s.updPort 11 fun q => { q with replay := [(3, .op x)] }
     s.links.identity = some { x with source := 4 }.source ∧ s.links.identity ≠ some x.source ∧
     (∀ y ∈ [(flitFor (.op x), Flit.op x)], s.routePort y.1 ≠ none) ∧ (65535#16) ≠ (s.portAt 11).recvSeq ∧
     (s.takeFlit (.done 4 1 .prot)).isSome = true ∧ ((t.updPort 11 fun q => { q with state := .draining }).portAt 11).replay ≠ [] ∧
     (t.portAt 11).replay.map (·.1) = [3]) ∧
    (let f : Flash := { State.reset.flash with retired := [(6#64, 0)] }
     (∀ x ∈ f.retired, x.1 ≠ 7#64) ∧ ∃ x ∈ f.retired, x.1 = 6#64) := by
  refine ⟨by decide +kernel, by decide +kernel, by decide +kernel, by decide +kernel, by decide +kernel, by decide +kernel, by decide +kernel, by decide, ?_⟩
  exact ⟨_, List.mem_cons_self, rfl⟩

/-- LinkEvents: an operation for another device; one that has been performed; one whose granule is being copied; one that a grant admits up to its
last byte and one past it, whose kind it does not matter; one past the end of memory that a grant admits; one at a bad sector; a load and a store. -/
theorem witness_remote :
    let x : RemoteOp := { source := 5, target := 4, number := 1, key := 63, pa := 0x1FFFF8, kind := .store (leBytes 8 1), order := 0, clock := 0 }
    let l : RemoteOp := { x with kind := .load 8 }
    let s := linked .up
    let done := { s with links := { s.links with performed := [((5, 1), .prot)] } }
    let bad := { s with flaws := [0x1FFF80] }
    let far := { s with links := { s.links with grants := [{ source := 5, key := 63, access := 7, base := hbmEnd, size := 1 }] } }
    s.links.identity = some x.target ∧ s.links.identity ≠ some { x with target := 9 }.target ∧
    (done.links.performed.find? fun y => y.1 == (x.source, x.number)) = some ((5, 1), .prot) ∧ (∀ y ∈ s.links.performed, y.1 ≠ (x.source, x.number)) ∧
    { s with moving := some (0, 0x1FF, true) }.copyingIn x.pa (opLength x.kind) = true ∧ s.copyingIn x.pa (opLength x.kind) = false ∧
    (∀ g ∈ s.links.grants, g.admits { x with pa := 0x1FFFF9 } = false) ∧ (∃ g ∈ s.links.grants, g.admits x = true) ∧ (∃ g ∈ s.links.grants, g.admits l = true) ∧
    (∃ g ∈ far.links.grants, g.admits { x with pa := hbmEnd } = true) ∧ hbmEnd < hbmEnd + opLength x.kind ∧ x.pa + opLength x.kind ≤ hbmEnd ∧
    bad.homeFails l.pa (opLength l.kind) l.key (opReads l.kind) = some .eccUncorr ∧ (∃ g ∈ bad.links.grants, g.admits l = true) ∧
    bad.copyingIn l.pa (opLength l.kind) = false ∧
    s.homeFails x.pa (opLength x.kind) x.key (opReads x.kind) = none ∧ s.homeFails l.pa (opLength l.kind) l.key (opReads l.kind) = none ∧
    (opResult x.kind (s.homeRead x.pa (opLength x.kind))).isSome = true := by decide +kernel

/-- A collective record: an all-gather of one element among two members, this device of rank 0; its tables in the first 64 KiB. -/
def collBytes : List Byte :=
  [1, 0, 2, 0] ++ leBytes 4 1 ++ leBytes 8 0x3000 ++ leBytes 8 0x4000 ++ leBytes 8 0x5000 ++ List.replicate 32 0
/-- A device whose warp has a collective entry; device 0 is reached through port 11. -/
def collecting (i : CollItem) : State :=
  let s := world { busy [] with collQ := [i] }
  { s with links := { (linked .up).links with routes := [(0, [11])] },
           cores := s.cores.modify 0 fun k => { k with recs :=
             [{ ctx := 0, va := 0x6000, data := BitVec.ofNat 256 (leNat (collBytes.take 32)) }, { ctx := 0, va := 0x6020, data := 0 }] } }
/-- An entry whose record is at 0x6000. -/
def coll0 : CollItem := { set := 0, pc := 0x1004, clk0 := 0, addr := 0x6000, fence := none, record := none, peers := [], written := false }

/-- CollectiveEvents: an entry that starts with every peer reached; one whose peer can no longer be reached; a peer's data under a record that agrees
and under one that does not; every rank's data. -/
theorem witness_collectives :
    heldAny (collecting coll0) warp0 (fun t => decide (t.w.passFences.collQ = [coll0]) &&
      (let t1 := { t with w := t.w.passFences }
       match t1.readGranules t1.g.core t1.g.ref.ctx 0x6000 2 with
       | .ok b u => decide (b = collBytes) && collSound collBytes &&
           (match u.engineRead u.g.core u.g.ref.ctx [] (pieces 0x3000 (2 * collM collBytes)) with
            | .ok ids _ v => decide (ids = [0, 0, 0, 0]) && ((List.range (collM collBytes)).all fun q => decide (q = collRank collBytes) ||
                (v.routePort ((memberIds [0, 0, 0, 0]).getD q 0)).isSome) && decide (collRank collBytes ∈ collRanks collBytes) &&
                (match v.engineRead v.g.core v.g.ref.ctx [] (pieces 0x4000 (4 * collSource collBytes)) with | .ok _ _ _ => true | _ => false)
            | _ => false)
       | _ => false)) = true ∧
    (let i := { coll0 with record := some collBytes, peers := [(0, [7])] }
     let s := collecting i
     heldAny { s with links := { s.links with routes := [] } } warp0 (fun t =>
       let t1 := { t with w := t.w.passFences }
       decide (t1.w.collQ = [i]) &&
       (match t1.engineRead t1.g.core t1.g.ref.ctx [] (pieces (field collBytes 8 8) (2 * collM collBytes)) with
        | .ok ids _ v => decide (v.routePort ((memberIds ids).getD 1 0) = none) | _ => false)) = true) ∧
    heldAny (collecting { coll0 with record := some collBytes, peers := [(0, [7])] }) warp0 (fun t =>
      match t.w.collQ with | [i] => (i.record == some collBytes) && i.peers.all fun y => y.1 != 1 | _ => false) = true ∧
    (1 ≠ collRank collBytes ∧ 1 < collM collBytes ∧ 1 ∈ collRanks collBytes ∧ collAgrees collBytes (collBytes.set 3 1) = true ∧
     collAgrees collBytes (collBytes.set 4 2) = false) ∧
    (let i := { coll0 with record := some collBytes, peers := [(0, [7]), (1, [8])] }
     heldAny (collecting i) warp0 (fun t => decide (t.w.collQ = [i]) && ((collRanks collBytes).all fun q => i.peers.any fun y => decide (y.1 = q)) &&
       (match t.collWrite t.g.core t.g.ref.ctx (pieces (field collBytes 24 8) 8) ((collResult collBytes i.peers).flatMap fun w => leBytes 4 w.toNat) with
        | .ok _ _ _ => true | _ => false)) = true ∧
     heldAny (collecting { i with written := true }) warp0 (fun t =>
       decide (t.w.collQ = [{ i with written := true }]) && (t.collSignal { i with written := true } collBytes).isSome) = true) := by decide +kernel

/-- The images of bring-up: all sound, and none. -/
def images (good : Bool) : List BootImage :=
  (List.range 8).map fun k =>
    { header := leBytes 4 0x53570001 ++ [if k = 4 then 0 else 1, BitVec.ofNat 8 k] ++ leBytes 14 0 ++ leBytes 44 0 ++
        leBytes 64 (shake256 []), body := [], signed := good }
/-- The first bytes of SHAKE256 of the empty message, as the standard's published example gives them. -/
theorem test_shake256 : shake256 [] % 2 ^ 32 = 0x2BDDB946 := by decide +kernel

/-- A device after bring-up. -/
def booted : State := { State.reset with switor := { State.reset.switor with boot := 0x10 } }

/-- A bring-up step that finds good or bad images, memory that trains or does not, and fails by itself or not. -/
def bringUp (good trains fails : Bool) : BootInput :=
  { images := images good, hbmTrains := trains, sweepFails := [], stepFails := fails }

/-- A device that has done so many steps of its bring-up. -/
def atStep (n : Nat) : State := { State.reset with switor := { State.reset.switor with boot := n } }

/-- ManagementEvents: each step of bring-up with good and with bad images, with memory that trains and that does not; after it, keys left and none left;
a FIFO with room, one that is full, and a sender that waits; no request, one that waits its turn and one whose index has passed; an identity, a
diagnostic command and a command of the physical function that are there and that are not. -/
theorem witness_management :
    (∀ n ≤ 5, (atStep n).switor.boot = n) ∧ (atStep 6).switor.boot = 6 ∧ State.reset.flash.versions.length = 8 ∧
    (∀ good trains, (bringUp good trains true).stepFails = true ∧ (bringUp good trains false).stepFails = false ∧
      (bringUp good trains false).hbmTrains = trains) ∧
    (∀ k < 8, (match (bringUp true true false).images[k]? with | some y => imageRuns State.reset.flash.versions k y | none => false) = true) ∧
    (match (bringUp false true false).images[4]? with | some y => !imageRuns State.reset.flash.versions 4 y | none => false) = true ∧
    State.reset.switor.boot ≠ 0x10 ∧ booted.switor.boot = 0x10 ∧ booted.flash.gleku < 2 ^ 20 ∧
    2 ^ 20 ≤ ({ booted with flash := { booted.flash with gleku := 2 ^ 20 } }).flash.gleku ∧ (booted.dies[7]?).isSome = true ∧
    0x048 ∈ ([0x000, 0x008, 0x048, 0x058] : List Nat) ∧ (3 : Nat) < 4 ∧
    (let m := [7, 7] ++ List.replicate 62 0
     let count (n : Nat) := ({ booted.switor with mail := List.replicate n m }).mail.countP fun x => field x 0 1 == field m 0 1 && field x 1 1 == field m 1 1
     m.length = 64 ∧ field m 0 1 < 8 ∧ field m 1 1 < 8 ∧ ¬16 ≤ count 15 ∧ 16 ≤ count 16 ∧
     (¬∃ x ∈ booted.switor.mailWait, field x 0 1 = field m 0 1) ∧ ∃ x ∈ ({ booted.switor with mailWait := [m] }).mailWait, field x 0 1 = field m 0 1) ∧
    (booted.switor.requests = [] ∧ ∀ i, ({ booted.switor with requests := [{ nonce := [0, 0, 0, 0], index := i }] }).requests =
      [{ nonce := [0, 0, 0, 0], index := i }]) ∧
    (booted.links.identity = none ∧ (linked .up).links.identity ≠ none ∧ (linked .up).switor.boot = 0x10) ∧
    (booted.switor.diagStatus ≠ 1 ∧ ({ booted.switor with diagStatus := 1 }).diagStatus = 1) ∧
    (booted.switor.pfRun = none ∧ ({ booted.switor with pfRun := some [] }).pfRun ≠ none) := by
  refine ⟨fun _ _ => rfl, rfl, rfl, fun _ _ => ⟨rfl, rfl, rfl⟩, by decide +kernel, by decide +kernel, by decide +kernel, by decide +kernel, by decide +kernel,
    by decide +kernel, by decide +kernel, by decide +kernel, by decide +kernel, by decide +kernel, ⟨rfl, fun _ => rfl⟩, by decide +kernel, by decide +kernel,
    ⟨rfl, nofun⟩⟩

/-- A tenant record (R415): an error queue of 16 at 4 KiB into one window of 2 MiB, 16 contexts. -/
def tenantBytes : List Byte :=
  leBytes 8 0x1000 ++ [4, 16] ++ List.replicate 22 0 ++ leBytes 8 0 ++ leBytes 4 1 ++ leBytes 4 0 ++ List.replicate 208 0

/-- A device whose diagnostic command is under way. -/
def diagnosing (v : BitVec 64) : State := { booted with switor := { booted.switor with diagStatus := 1, diagCmd := v } }

/-- A device whose block of the physical function holds a command: its code, the byte 2 and the address. -/
def commanded (code n pa : Nat) : List Byte := [BitVec.ofNat 8 code, 0, BitVec.ofNat 8 n] ++ leBytes 5 0 ++ leBytes 8 pa ++ leBytes 48 0

/-- DiagnosticEvents: no command under way; each code with its operand, the last core, a core past it, and a unit that is retired; a code that is not
listed. -/
theorem witness_diagnostics :
    booted.switor.diagStatus ≠ 1 ∧ (∀ v, (diagnosing v).switor.diagStatus = 1) ∧
    (∀ n ∈ ([1, 2, 3, 4, 5, 6, 0, 7] : List Nat), ((diagnosing (BitVec.ofNat 64 n)).switor.diagCmd.extractLsb' 0 8).toNat = n ∧
      (diagnosing (BitVec.ofNat 64 n)).switor.diagCmd >>> 8 = 0) ∧
    (∀ n ∈ ([1, 2, 4, 5, 6] : List Nat), ((diagnosing (BitVec.ofNat 64 (n + 2 ^ 16 * 191))).switor.diagCmd.extractLsb' 0 8).toNat = n ∧
      (diagnosing (BitVec.ofNat 64 (n + 2 ^ 16 * 191))).switor.diagCmd >>> 8 = BitVec.ofNat 64 (256 * 191)) ∧
    (∀ core < 192, (diagnosing (BitVec.ofNat 64 (2 + 2 ^ 16 * 192))).switor.diagCmd >>> 8 ≠ BitVec.ofNat 64 (256 * core)) ∧
    (let u : UnitId := { kind := .column, core := 191, part := 0, index := 33 }
     let s := (diagnosing (3 + (unitCode u <<< 8))).updCore 191 fun k => k.setUnit u .retired
     (s.switor.diagCmd.extractLsb' 0 8).toNat = 3 ∧ unitOf (s.switor.diagCmd >>> 8) = some u ∧ unitCode u = s.switor.diagCmd >>> 8 ∧
     (s.coreAt 191).unit u = some .retired) := by
  refine ⟨by decide +kernel, fun _ => rfl, by decide +kernel, by decide +kernel, by decide +kernel, by decide +kernel⟩

/-- DiagnosticEvents: each command of the physical function, clean and not; sound and unsound records; the last tenant and key; a grant that is there
and a full table; a code that is not listed. -/
theorem witness_commands_pf :
    (∀ b, ({ booted.switor with pfRun := some b }).pfRun = some b) ∧
    (∀ x ∈ ([(0x21, (true, true)), (0x22, (true, false)), (0x23, (true, true)), (0x24, (true, false)), (0x25, (false, true)), (0x26, (false, true))] :
       List (Nat × (Bool × Bool))),
      let b := commanded x.1 (if x.2.1 then 15 else 0) (if x.2.2 then 0x10000 else 0)
      field b 0 1 = x.1 ∧ pfClean b x.2 = true ∧ pfClean (b.set 63 1) x.2 = false) ∧
    field (commanded 0x27 0 0) 0 1 = 0x27 ∧ field (commanded 0x20 0 0) 0 1 < 0x21 ∧
    booted.noContext 15 = true ∧
    (let s := { booted with mem := Memory.writeN [] 0x10000 tenantBytes }
     s.physRead 0x10000 256 = some tenantBytes ∧ s.tenantSound 15 tenantBytes = true) ∧
    booted.physRead 0x10000 256 = some (List.replicate 256 0) ∧ booted.tenantSound 15 (List.replicate 256 0) = false ∧
    (let s := { booted with tenants := booted.tenants.set 15 { Tenant.fresh with enabled := true } }
     (s.tenants.getD (63 / 4) Tenant.fresh).enabled = true ∧ (s.physRead 0x10000 96).isSome = true) ∧
    (let s := { linked .up with mem := Memory.writeN [] 0x10000 (leBytes 2 5 ++ [63, 7]) |> fun m => Memory.writeN m 0x10010 [1] }
     ((s.physRead 0x10000 32).bind grantOf) = some { source := 5, key := 63, access := 7, base := 0, size := 1 } ∧
     s.links.grants.length < 256 ∧ (s.links.grants.any fun x => Grant.same { source := 5, key := 63, access := 7, base := 0, size := 1 } x) = true) ∧
    256 ≤ (List.replicate 256 ({ source := 5, key := 63, access := 7, base := 0, size := 1 } : Grant)).length ∧
    (let s := flat State.reset []
     (0 : Nat) < 16 ∧ (s.tenants.getD 0 Tenant.fresh).enabled = true) := by
  refine ⟨fun _ => rfl, ?_⟩
  decide +kernel

/-- The next turn issues a warp whose slot i of packet p answers ok, an exec that p holds of. -/
noncomputable def issues (s : State) (p : Packet → State → Bool) : Bool :=
  match s.turn with
  | .issue core part _ => decide (core < 192) && (match s.turned.ranked core part with
      | r :: _ => (match s.turned.load r with
          | some t => decide (t.w.begun (t.w.pc / 16 * 16) ≤ 4) && (match t.fetch core (t.w.pc / 16 * 16) with | .packet p1 u => p p1 u | _ => false)
          | none => false)
      | [] => false)
  | _ => false

/-- StepRunsDecoded: a turn of each kind; a packet at hand whose first slot runs, traps, or stalls; one that is malformed; a set of one slot whose pipe
no unit holds, free and busy. -/
theorem witness_step :
    ({ State.reset with agenda := [.event .powerOff] }).turn = .event .powerOff ∧ isEvent .powerOff = true ∧
    (∀ t : Turn, ({ State.reset with agenda := [t] }).turn = t) ∧
    ((State.reset.withFetchWord 32 0x08020401).coreAt 0).icache.length = 1 ∧
    issues (State.reset.withFetchWord 32 0x08020401) (fun p u => p.ok && decide (p.firstFrom ((u.w.pc - u.w.pc / 16 * 16 - 4) / 4) = some 0) &&
      decide (p.setFrom 0 = [0]) && !u.w.bcast && ((pipesOf p [0]).all fun x => !((u.coreAt 0).parts.getD u.w.part Partition.fresh).holds x) &&
      decide (instrOf (p.slot 0) = .saddI 8 8 1)) = true ∧
    issues { State.reset.withFetchWord 32 0x08020401 with agenda := [.issue 0 0 [Pipe.scalar.code]] } (fun p _ =>
      (pipesOf p [0]).any fun x => [Pipe.scalar.code].contains x.code) = true ∧
    issues (State.reset.withFetchWord 32 0xFC000000) (fun p _ => p.ok && decide (instrOf (p.slot 0) = .futureOp 0xFC000000)) = true ∧
    issues (State.reset.withFetchWord 32 0xAC000000) (fun p _ => p.ok && decide (instrOf (p.slot 0) = .gbMeet 0)) = true ∧
    (let s := State.reset.withFetchWord 32 0x08020401
     s.w.packet = none ∧ ((s.coreAt 0).icache.map fun l => l.data.length) = [128] ∧
     issues { s with cores := s.cores.modify 0 fun k => { k with icache := k.icache.map fun l =>
       { l with data := (List.replicate 8 (leBytes 4 0xE0000000 ++ List.replicate 12 0)).flatten } } } (fun p _ => !p.ok) = true) ∧
    ({ code := 2, cmd := cmd 2 0 [], edits := [], now := true } : Waiting).instr = some (.destroy (cmd 2 0 [])) := by
  refine ⟨rfl, rfl, fun _ => rfl, ?_⟩
  decide +kernel

/-- StepKeepsMemory, RegistersKept, MemoryKept, HomeBytes, BitFieldValues, EncodeDecode: a sound memory and a step that answers a next state; a word
whose exec does; a write that ends where local memory ends; bit 31; a well-formed word of a full field. -/
theorem witness_frames :
    State.reset.MemOk ∧ (match step (State.reset.withFetchWord 32 0x08020401) with | .next _ => true | _ => false) = true ∧
    (encode (.nop)).isSome = true ∧ (match exec .nop State.reset with | .next _ => true | _ => false) = true ∧
    (∀ a b, Instr.nop ≠ .pf a b ∧ Instr.nop ≠ .ipf a b ∧ Instr.nop ≠ .stage a b ∧ Instr.nop ≠ .waitge a b ∧ Instr.nop ≠ .mbAwait a b) ∧
    State.reset.moving = none ∧ (hbmEnd - 2) + ([1, 2] : List Byte).length ≤ hbmEnd ∧ (31 : Nat) < 32 ∧
    (Instr.mpush 117 11).wf = true ∧ (encode (.mpush 117 11)).isSome = true :=
  ⟨rfl, by decide +kernel, rfl, rfl, fun _ _ => ⟨nofun, nofun, nofun, nofun, nofun⟩, rfl, by decide +kernel, by decide +kernel, by decide +kernel, rfl⟩

/-- SlotChecks: each check turns away some slot that passes those before it: a literal that is missing, a pair that is odd, a register past the
allocation, a hold, a guard that is false, a window in force, a chain that the mask splits, a counter that is full, a word that ECC cannot correct. -/
theorem witness_checks :
    let s := free full
    immOk 0x41 ({ s with iss := { s.iss with lits := [7] } }).iss.lits = false ∧ even 1#7 = false ∧ s.w.nregs < 129 ∧ s.w.nregs = 128 ∧
    (Hold.rfence 0).stopsAll = true ∧ guardBit 0 s.src = false ∧ awaitsResult s = false ∧
    laConflict [] [.v 8] { s with w := { s.w with windows := [{ window 0 false with left := 1, set := 1 }] } } = true ∧
    (let t := free ({ full with chn := 2 }.maskSet 3)
     t.src.chn ≠ 0 ∧ guardSplits t.src.chn t.src.mask (BitVec.twoPow 96 0) ≠ 0) ∧
    63 ≤ { s.w with entries := List.replicate 63 (entry 3 0) }.counter 0 ∧ Hold.rfence 0 ≠ .none ∧
    badLanes { reads := [.v 8], lane := true } { s with w := { s.w with badRegs := [(8, 0)] } } ≠ [] ∧
    badLanes { via := some (8, fun l => 95 - l), lane := true } { s with w := { s.w with badRegs := [(8, 0)] } } = [95] ∧
    Use.late { lane := true, path := some 3 } = true ∧ Use.late { lane := true } = false := by decide +kernel

end Sys2Proof.Tests
end

section
/-!
SUPPORT. A store at the home slices as `homeByte` shows it, and the parts of the device right after reset.
-/
namespace Sys2Proof.Machine

/-! ### Writes at the home slices (R8, R213) -/

/-- A store at the home slices changes what the memory holds, its poison, flaws and keys, and the writes that wait, and nothing else (R387). -/
theorem State.homeStore_frame (s : State) (core key : Nat) (ps : List Host.Cell) :
    ∃ m fl p ks wait, s.homeStore core key ps =
      { s with mem := m, flaws := fl, poison := p, sectorKey := ks, parked := wait } := by
  unfold State.homeStore
  generalize (ps.map fun c => sectorOf c.1).eraseDups = secs
  induction secs generalizing s with
  | nil => exact ⟨_, _, _, _, _, rfl⟩
  | cons sec secs ih =>
    rw [List.foldl_cons]
    by_cases hc : s.copying sec = true
    · rw [if_pos hc]
      exact ih _
    · rw [if_neg hc]
      exact ih (s.putSector key sec _)

/-- What a store at the home slices leaves at an address: the memory's byte inside local memory, the byte that was there outside it. -/
theorem State.homeStore_homeByte (s : State) (core key : Nat) (ps : List Host.Cell) (a : Nat) :
    (s.homeStore core key ps).homeByte a = if a < hbmEnd then Memory.read (s.homeStore core key ps).mem a else s.homeByte a := by
  obtain ⟨m, fl, p, ks, wait, h⟩ := s.homeStore_frame core key ps
  by_cases ha : a < hbmEnd <;> simp [State.homeByte, h, ha]

/-- The addresses of the cells of a byte string, one after another. -/
theorem cellsAt_addresses (a : Nat) (bs : List Byte) : (cellsAt a bs).map (·.1) = List.range' a bs.length := by
  simp [cellsAt, List.range'_eq_map_range]

/-- A byte of a byte string is among its cells. -/
theorem mem_cellsAt_of_getElem? {bs : List Byte} {i : Nat} {b : Byte} (a : Nat) (h : bs[i]? = some b) : (a + i, b) ∈ cellsAt a bs := by
  obtain ⟨hi, hb⟩ := List.getElem?_eq_some_iff.mp h
  exact List.mem_map.mpr ⟨i, List.mem_range.mpr hi, by rw [List.getD_eq_getElem _ _ hi, hb]⟩

/-- A byte string stored inside local memory, no granule being copied, reads back, and every other byte is as it was (R213). -/
theorem State.homeStore_cellsAt {s : State} (core key pa : Nat) (bs : List Byte) (w : s.MemOk) (hm : s.moving = none)
    (hend : pa + bs.length ≤ hbmEnd) :
    (∀ i b, bs[i]? = some b → (s.homeStore core key (cellsAt pa bs)).homeByte (pa + i) = b) ∧
    (∀ a, a < pa ∨ pa + bs.length ≤ a → (s.homeStore core key (cellsAt pa bs)).homeByte a = s.homeByte a) := by
  have distinct : ((cellsAt pa bs).map (·.1)).Nodup := by
    rw [cellsAt_addresses]
    exact List.nodup_range'
  obtain ⟨written, kept⟩ := State.homeStore_read core key w hm distinct
  refine ⟨fun i b hb => ?_, fun a ha => ?_⟩
  · have hc := mem_cellsAt_of_getElem? pa hb
    have hlt : pa + i < hbmEnd := lt_of_lt_of_le (mem_cellsAt hc).2 hend
    rw [State.homeStore_homeByte, if_pos hlt]
    exact written _ hc
  · have apart : ∀ c ∈ cellsAt pa bs, c.1 ≠ a := fun c hc => by
      have := mem_cellsAt hc
      omega
    rw [State.homeStore_homeByte]
    split
    case isTrue hlt => rw [kept a apart, State.homeByte, if_pos hlt]
    case isFalse => rfl

/-- A write inside local memory is a store at the home slices (R213). -/
theorem State.homeWrite_local (s : State) (core key : Nat) {pa : Nat} (bs : List Byte) (h : pa < hbmEnd) :
    s.homeWrite core key pa bs = s.homeStore core key (cellsAt pa bs) := if_pos h

/-- A write of no byte where local memory ends changes nothing. -/
theorem State.homeWrite_nil_hbmEnd (s : State) (core key : Nat) : s.homeWrite core key hbmEnd [] = s := by
  have hlow : hbmEnd < 2 ^ 51 := by decide
  unfold State.homeWrite State.homeUpdated
  rw [if_neg (lt_irrefl hbmEnd)]
  exact if_pos hlow

/-- Settles O59: inside local memory the write is a store at the home slices; the one write of the hypotheses that starts outside it is that
of no byte at its end. -/
theorem homeBytes : Obligations.HomeBytes := by
  intro s core key pa bs w hm hend
  by_cases hpa : pa < hbmEnd
  · rw [State.homeWrite_local s core key bs hpa]
    exact State.homeStore_cellsAt core key pa bs w hm hend
  · obtain rfl : bs = [] := List.eq_nil_of_length_eq_zero (by omega)
    obtain rfl : pa = hbmEnd := Nat.le_antisymm hend (by omega)
    rw [State.homeWrite_nil_hbmEnd]
    exact ⟨nofun, fun _ _ => rfl⟩

/-! ### The device right after reset (R2, R404) -/

theorem State.core_of_reset {k : Core} (h : k ∈ State.reset.cores) : k = Core.fresh := List.eq_of_mem_replicate h

theorem Core.partition_of_fresh {p : Partition} (h : p ∈ Core.fresh.parts) : p = Partition.fresh := List.eq_of_mem_replicate h

theorem State.tenant_of_reset {t : Tenant} (h : t ∈ State.reset.tenants) : t = Tenant.fresh := List.eq_of_mem_replicate h

theorem State.port_of_reset {p : Port} (h : p ∈ State.reset.links.ports) : p = Port.fresh := List.eq_of_mem_replicate h

/-- No die holds a translation right after reset. -/
theorem State.die_tlb_of_reset {d : Die} (h : d ∈ State.reset.dies) : d.tlb = [] := by rw [List.eq_of_mem_replicate h]

/-- The caches, engine and units of a core before bring-up (R404, log entries 5 and 6). -/
theorem Core.fresh_idle :
    Core.fresh.l1 = [] ∧ Core.fresh.icache = [] ∧ Core.fresh.tlb = [] ∧ Core.fresh.recs = [] ∧ Core.fresh.engineActive = false ∧
    Core.fresh.parts.length = 4 ∧
    (∀ p ∈ Core.fresh.parts, p.lanes = List.replicate 36 .live ∧ p.banks = List.replicate 26 .live) ∧
    Core.fresh.sbanks = List.replicate 36 .live ∧ Core.fresh.cols = List.replicate 34 .live := by
  refine ⟨rfl, rfl, rfl, rfl, rfl, List.length_replicate, fun p hp => ?_, rfl, rfl⟩
  rw [Core.partition_of_fresh hp]
  exact ⟨rfl, rfl⟩

/-- Settles O52: each list of the reset state is empty or repeats one fresh part, of which the lemmas above speak. -/
theorem resetState : Obligations.ResetState := by
  refine ⟨rfl, rfl, rfl, rfl, rfl, rfl, List.length_replicate, fun k hk => ?core, List.length_replicate,
    fun d hd => State.die_tlb_of_reset hd, rfl, fun _ => rfl, fun t ht => ?tenant, List.length_replicate, rfl, List.length_replicate,
    fun p hp => ?port, rfl⟩
  case core =>
    rw [State.core_of_reset hk]
    exact Core.fresh_idle
  case tenant => rw [State.tenant_of_reset ht]; rfl
  case port => rw [State.port_of_reset hp]; rfl

end Sys2Proof.Machine
end

section
/-!
SUPPORT. The checks of a slot before its effect, each in the words of the spec, and their order (03_packet.md R76, R82..R87, R89;
log entries 18, 94 and 95).
-/
namespace Sys2Proof.Machine

/-! ### The checks -/

/-- The packet has the literal that the slot's immediate field asks for (R86). -/
def Use.literalThere (u : Use) (s : State) : Prop := ∀ f, u.imm = some f → immOk f s.iss.lits = true

/-- The slot's fields are well formed, and its lookahead is 15 only where it has a path (R84, R87, R89). -/
def Use.fieldsOk (u : Use) (s : State) : Prop := u.wf = true ∧ (s.iss.la = 15 → u.path.isSome = true)

/-- No result is waited for, and no hold stops every slot (R82, R228, R230). -/
def State.mayIssue (s : State) : Prop := awaitsResult s = false ∧ s.w.hold.stopsAll = false

/-- The slot is of the lane class, or its scalar guard holds (R76). -/
def Use.guardHolds (u : Use) (s : State) : Prop := u.lane = true ∨ guardBit s.iss.guard s.src = true

/-- The lane guard splits a bound chain (R145, R190). -/
def Use.splitsChain (u : Use) (s : State) : Prop :=
  u.lane = true ∧ s.src.chn ≠ 0 ∧ guardSplits s.src.chn s.src.mask s.active ≠ 0

/-- The in-flight counter of the slot's path is full (R109, R112). -/
def Use.counterFull (u : Use) (s : State) : Prop := ∃ p, u.path = some p ∧ 63 ≤ s.w.counter p

/-- The slot is of the M or T pipe, which a fence or an acquire holds (R220, R227). -/
def Use.fenced (u : Use) (s : State) : Prop := u.mem = true ∧ s.w.hold ≠ .none

open Classical in
/-- The checks of a slot, each in its place. -/
theorem front_eq (u : Use) (s : State) : front u s =
    if ¬u.literalThere s then .trap .illPacket
    else if ¬u.fieldsOk s then .trap .illOp
    else if s.w.nregs < u.vtop then .trap .regRange
    else if ¬s.mayIssue then .stall
    else if ¬u.guardHolds s then .off
    else if laConflict (u.allReads s.iss.guard) u.writes s = true then .trap .laConflict
    else if u.splitsChain s then .split (guardSplits s.src.chn s.src.mask s.active)
    else if u.counterFull s then .stall
    else if u.fenced s then .stall
    else if u.late = false ∧ badLanes u s ≠ [] then .bad (badLanes u s)
    else .pass := by
  unfold front
  refine if_congr ?literal rfl (if_congr ?fields rfl (if_congr Iff.rfl rfl (if_congr ?results rfl (if_congr ?guard rfl (if_congr Iff.rfl rfl
    (if_congr ?chains rfl (if_congr ?room rfl (if_congr ?fence rfl (if_congr ?words rfl rfl)))))))))
  case literal => unfold Use.literalThere; cases u.imm <;> simp
  case fields => unfold Use.fieldsOk; cases u.path <;> simp [imp_iff_not_or]
  case results => unfold State.mayIssue; simp [imp_iff_not_or]
  case guard => unfold Use.guardHolds; simp
  case chains => unfold Use.splitsChain; simp [and_assoc]
  case room => unfold Use.counterFull; cases u.path <;> simp
  case fence => unfold Use.fenced; simp
  case words => simp

/-- A slot whose lane guard splits a chain traps with CHAIN_SPLIT (R190, R191). -/
theorem slotDo_guardSplits {u : Use} {body : State → Eff} {s : State} {m : BitVec 48} (hf : front u s = .split m) :
    slotDo u body s = .next (takeTrap (s.splitTrap s.src.chn m) s) := by simp [slotDo, hf]

/-- Settles O60: the check that finds something is the first one of `front_eq` that does, and a slot does what it finds. -/
theorem slotChecks : Obligations.SlotChecks := by
  unfold Obligations.SlotChecks
  intro u body s literal fields clear guarded conflict splits blocked trap
  have order := front_eq u s
  refine ⟨fun hl => ?illPacket, fun hl hf => ?illOp, fun hl hf hv => ?regRange, fun hl hf hv hc => ?held, fun hl hf hv hc hg => ?off,
    ⟨rfl, rfl, rfl, rfl⟩, fun hl hf hv hc hg => ?guarded⟩
  case illPacket =>
    rw [if_pos (show ¬u.literalThere s from hl)] at order
    exact slotDo_front_trap order
  all_goals rw [if_neg (not_not.mpr (show u.literalThere s from hl))] at order
  case illOp =>
    rw [if_pos (show ¬u.fieldsOk s from hf)] at order
    exact slotDo_front_trap order
  all_goals rw [if_neg (not_not.mpr (show u.fieldsOk s from hf))] at order
  case regRange =>
    rw [if_pos hv] at order
    exact slotDo_front_trap order
  all_goals rw [if_neg (Nat.not_lt.mpr hv)] at order
  case held =>
    rw [if_pos (show ¬s.mayIssue from hc)] at order
    exact slotDo_stall order
  all_goals rw [if_neg (not_not.mpr (show s.mayIssue from hc))] at order
  case off =>
    rw [if_pos (show ¬u.guardHolds s from hg)] at order
    exact slotDo_off order
  rw [if_neg (not_not.mpr (show u.guardHolds s from hg))] at order
  refine ⟨fun hx => ?conflict, fun hx hs => ?split, fun hx hs hb => ?blocked, fun hx hs hb hlate hbad => ?bad, fun hx hs hb hgood => ?pass⟩
  case conflict =>
    rw [if_pos hx] at order
    exact slotDo_front_trap order
  all_goals rw [if_neg hx] at order
  case split =>
    rw [if_pos (show u.splitsChain s from hs)] at order
    exact slotDo_guardSplits order
  all_goals rw [if_neg (show ¬u.splitsChain s from hs)] at order
  case blocked =>
    rw [← ite_or, if_pos (show u.counterFull s ∨ u.fenced s from hb)] at order
    exact slotDo_stall order
  all_goals rw [← ite_or, if_neg (show ¬(u.counterFull s ∨ u.fenced s) from hb)] at order
  case bad =>
    rw [if_pos ⟨hlate, hbad⟩] at order
    exact slotDo_bad order
  case pass =>
    rw [if_neg (by rintro ⟨hlate, hbad⟩; rcases hgood with h | h <;> simp_all)] at order
    exact order

end Sys2Proof.Machine
end

section
/-!
SUPPORT. What an event of the matrix engine does to the entry that it acts on (13_tile.md R272, R276, R277, R286, R291).
-/
namespace Sys2Proof.Machine

/-! ### Operand latches and gathers -/

/-- A posted mma takes an operand latch once one is free and every earlier entry of its queue is a move or holds one (R276). -/
theorem State.takeLatch_posted {s : State} {seq : Nat} {e : TileEntry} (he : s.w.mmaOf seq = some e) (hst : e.st = .posted)
    (hg : s.g.status = .resident) (hw : s.w.setWaits e.set = false) (hl : s.latches s.g.core < 2)
    (hb : ∀ x ∈ s.w.tileBefore seq, (x.op.isMove || x.latched) = true) :
    s.takeLatch seq = some { s with w := s.w.setTile { e with st := .gathering } } := by
  have before : ((s.w.tileBefore seq).all fun x => x.op.isMove || x.latched) = true := List.all_eq_true.mpr hb
  simp only [State.takeLatch, he, Option.bind_some, hst, hg, hw, hl, before, beq_self_eq_true, Bool.not_false, decide_true,
    Bool.and_self, if_true]

/-- A gathering mma whose rows are read: the rows are in its latch, or one of them stops the op (R289, R291). -/
theorem State.gather_rows {s : State} {seq f sh : Nat} {sat : Bool} {e : TileEntry} {x : State × List (Nat × List Byte) × List LaneFail}
    (he : s.w.mmaOf seq = some e) (hop : e.op = .mma f sh sat) (hst : e.st = .gathering) (hx : s.scratchRows (mmaRow f sh) e.addrs = some x) :
    s.gather seq = some (if x.2.2.isEmpty then { x.1 with w := x.1.w.setTile { e with st := .ready, rows := x.2.1 } }
      else x.1.tileStop e .eccUncorr) := by
  simp only [State.gather, he, Option.bind_some, hst, hop, hx, Option.map_some]

/-! ### Column chunks -/

/-- A grant whose runs of B are read: the words of the chunk, or the end of an op that meets a word which ECC cannot correct
(R272, R291). -/
theorem State.grantTo_runs {s : State} {f sh : Nat} {sat : Bool} {e : TileEntry} {x : State × List (Nat × List Byte) × List LaneFail}
    (hop : e.op = .mma f sh sat) (hx : s.scratchRows (runBytes f) (chunkRuns f sh (operandB e.word) e.chunks) = some x) :
    s.grantTo e = some (if !x.2.2.isEmpty || chunkBad x.1.g e then x.1.tileStop e .eccUncorr
      else State.updCore { x.1 with w := x.1.w.setTile { e with st := .running, granted := some (chunkWords x.1.g e f sh sat (x.2.1.map Prod.snd)) } }
        x.1.g.core fun k => { k with engineActive := true }) := by
  simp only [State.grantTo, hop, hx, Option.map_some]

/-- No check of a column holds the grants of a core (R35, R440). -/
theorem Core.mowing_no_column {k : Core} (h : ∀ m ∈ k.mowing, m.1 ≠ .column) : (k.mowing.any (·.1 == .column)) = false := by
  simpa using h

/-- The event of a grant does what the arbiter's choice asks (R277, R278). -/
theorem execColumnChunkGrant_granted {s t u : State} {core : Nat} {g : Group} {w : Warp} {e : TileEntry}
    (hcheck : (s.coreAt core).colCheck = false) (hmow : ∀ m ∈ (s.coreAt core).mowing, m.1 ≠ .column) (hbusy : s.engineBusy core = false)
    (hpick : pickGrant (s.grantList core) = some (g, w, e)) (hpower : s.powerOk core g = true) (hload : s.load ⟨g.ref, w.wid⟩ = some t)
    (hu : t.grantTo e = some u) : execColumnChunkGrant core s = .next u.park := by
  simp only [execColumnChunkGrant, hcheck, Core.mowing_no_column hmow, hbusy, hpick, hpower, hload, hu, Bool.or_self, Bool.not_true,
    Bool.false_eq_true, if_false, Option.map_some, Option.getD_some]

/-- A computed chunk of which a column diverges waits for the check of that column (R42). -/
theorem execColumnChunkDone_diverges {s t : State} {core j : Nat} {g : Group} {w : Warp} {e : TileEntry} {shadows : List ShadowReading}
    (hrun : s.running core = some (g, w, e)) (hre : e.rerun = false) (hload : s.load ⟨g.ref, w.wid⟩ = some t)
    (hd : e.divergence shadows = some j) :
    execColumnChunkDone core shadows s =
      .next { t with w := t.w.setTile { e with rerun := true, suspect := (s.coreAt core).logicalCols[j]? } }.park := by
  simp only [execColumnChunkDone, hrun, hre, hload, hd, Bool.false_eq_true, if_false]

/-- A computed chunk that agrees with its shadows is written (R272). -/
theorem execColumnChunkDone_agrees {s t : State} {core : Nat} {g : Group} {w : Warp} {e : TileEntry} {shadows : List ShadowReading}
    (hrun : s.running core = some (g, w, e)) (hre : e.rerun = false) (hload : s.load ⟨g.ref, w.wid⟩ = some t)
    (hd : e.divergence shadows = none) : execColumnChunkDone core shadows s = .next (t.chunkWritten e).park := by
  simp only [execColumnChunkDone, hrun, hre, hload, hd, Bool.false_eq_true, if_false]

/-- No shadow value diverges where there is none to read (R39). -/
theorem TileEntry.divergence_nil (e : TileEntry) : e.divergence [] = none := by
  unfold TileEntry.divergence
  split
  · split
    · exact List.find?_eq_none.mpr fun j _ => by simp
    · rfl
  · rfl

/-- The outputs of an integer format have no shadow value (R39). -/
theorem TileEntry.divergence_integer {e : TileEntry} {f sh : Nat} {sat : Bool} (hop : e.op = .mma f sh sat) (hf : 7 ≤ f)
    (shadows : List ShadowReading) : e.divergence shadows = none := by
  simp only [TileEntry.divergence, hop, if_neg (Nat.not_lt.mpr hf)]

/-! ### Accumulator moves -/

/-- The move at the head of the tile queue is performed, and its entry completes with the lanes that fail (R286). -/
theorem State.moveDone_head {s : State} {e : TileEntry} {l : List TileEntry} {x : PathEntry} {u : State × List LaneFail}
    (hq : s.w.tileQ = e :: l) (hop : e.op.isMove = true) (hg : s.g.status = .resident) (hw : s.moveWaits e = false)
    (hx : s.w.entryAt e.seq 5 = some x) (hu : s.moveRun e = some u) :
    s.moveDone = some (
      let w := u.1.w.dropTile e
      State.finish { u.1 with w := { w with badRegs := w.badRegs.filter fun y =>
        !(x.writes.contains (.v y.1) && (e.act.getLsbD y.2 && !(u.2.any (·.lane == y.2)))) } } { x with fails := u.2 }) := by
  simp only [State.moveDone, hq, hop, hg, hw, hx, hu, Bool.not_true, bne_self_eq_false, Bool.or_self, Bool.false_eq_true, if_false,
    Option.bind_some, Option.map_some]

/-- Settles O37: each event is one of a warp or of a core, and its lemma above says what it does. -/
theorem matrixEvents : Obligations.MatrixEvents := by
  unfold Obligations.MatrixEvents
  refine ⟨fun s r t h => ⟨fun seq e he => ⟨?latch, ?gathered⟩, ?move⟩, fun s core => ⟨?grant, ?done, ?idle⟩⟩
  case latch =>
    intro hst hg hw hl hb
    exact onWarp_next h (State.takeLatch_posted he hst hg hw hl hb)
  case gathered =>
    intro f sh sat x hop hst hx
    have event := onWarp_next h (f := (·.gather seq)) (State.gather_rows he hop hst hx)
    refine ⟨fun hok => ?_, fun hbad => ?_⟩
    · rw [if_pos (List.isEmpty_iff.mpr hok)] at event
      exact event
    · rw [if_neg (mt List.isEmpty_iff.mp hbad)] at event
      exact event
  case move =>
    intro e l x u hq hop hg hw hx hu
    exact onWarp_next h (State.moveDone_head hq hop hg hw hx hu)
  case grant =>
    intro g w e t f sh sat x hcheck hmow hbusy hpick hpower hload hop hx
    have event := execColumnChunkGrant_granted hcheck hmow hbusy hpick hpower hload (State.grantTo_runs hop hx)
    refine ⟨fun hok hgood => ?_, fun hbad => ?_⟩
    · rw [if_neg (by simp [hok, hgood])] at event
      exact event
    · rw [if_pos (by simpa using hbad)] at event
      exact event
  case done =>
    intro g w e t hrun hre hload
    exact ⟨fun xs j hd => execColumnChunkDone_diverges hrun hre hload hd, fun xs hd => execColumnChunkDone_agrees hrun hre hload hd,
      e.divergence_nil, fun f sh sat xs hop hf => TileEntry.divergence_integer hop hf xs⟩
  case idle =>
    intro hidle
    exact congrArg Host.Outcome.next (if_neg (by simp [hidle]))

end Sys2Proof.Machine
end

section
/-!
SUPPORT. Divergences and their checks (01_fold.md R39..R43): which shadow values diverge, what a check that passes or fails does to the
instruction or chunk, and what stands once a third divergence has put its set back.
-/
namespace Sys2Proof.Machine

/-! ### Shadow values (R39, R40) -/

/-- A shadow of another class or sign diverges. -/
theorem Fmt.diverges_of_kind {f : Fmt} {x : Nat} {sh : Shadow} (h : f.cls x ≠ sh.cls ∨ f.signOf x ≠ sh.neg) : f.diverges x sh = true := by
  simp only [Fmt.diverges, Bool.or_eq_true, bne_iff_ne]
  exact Or.inl h

/-- A shadow of the same class and sign diverges only from a result that is finite and not zero. -/
theorem Fmt.diverges_special {f : Fmt} {x : Nat} {sh : Shadow} (hc : f.cls x = sh.cls) (hs : f.signOf x = sh.neg)
    (hn : f.cls x ≠ .normal) (hsub : f.cls x ≠ .subnormal) : f.diverges x sh = false := by
  simp only [Fmt.diverges, hs, beq_false_of_ne hn, beq_false_of_ne hsub, ← hc, bne_self_eq_false, Bool.or_self, Bool.false_and]

/-- A shadow of the same class and sign of a finite result that is not zero diverges by its exponent, or by more than one unit of its
significand, unless the result's rounding has carried into the shadow's exponent. -/
theorem Fmt.diverges_finite {f : Fmt} {x : Nat} {sh : Shadow} (hc : f.cls x = sh.cls) (hs : f.signOf x = sh.neg)
    (hn : f.cls x = .normal ∨ f.cls x = .subnormal) :
    f.diverges x sh = true ↔
      ¬(f.leadSig x = 2 ^ f.shadowBits ∧ sh.exp = f.leadExp x + 1 ∧ sh.sig = 2 ^ (f.shadowBits - 1)) ∧
      (f.leadExp x ≠ sh.exp ∨ f.leadSig x + 1 < sh.sig ∨ sh.sig + 1 < f.leadSig x) := by
  have finite : (f.cls x == .normal || f.cls x == .subnormal) = true := by simpa using hn
  simp only [Fmt.diverges, hs, finite, ← hc, bne_self_eq_false, Bool.or_self, Bool.false_or, Bool.true_and, Bool.and_eq_true, Bool.not_eq_true',
    Bool.or_eq_true, bne_iff_ne, decide_eq_true_eq, ← Bool.not_eq_true, beq_iff_eq, and_assoc, or_assoc]

/-! ### Results of a set (R39, R41, R82) -/

/-- A set whose oldest unwritten result is to come and whose shadows agree writes its results. -/
theorem exec_registerResultWritten_agree {s t : State} {r : WRef} {x : LookWindow} {xs : List ShadowReading} (h : s.Holds r t)
    (hx : t.w.unwritten = some x) (hd : t.divergence x.set xs = none)
    (hfree : ∀ z ∈ t.w.windows, z.set = x.set → z.entry = none → t.bankHeld z.writes (lanesIn z.act) = false) :
    exec (.registerResultWritten r xs) s =
      .next { t with w := t.w.mapSet x.set fun (z : LookWindow) => if z.entry.isNone then { z with ready := true } else z }.park := by
  refine onWarp_next h ?_
  have free : (t.w.windows.any fun z => z.set == x.set && z.entry.isNone && t.bankHeld z.writes (lanesIn z.act)) = false := by
    simpa [and_imp] using hfree
  simp only [hx, Option.bind_some, hd, free, Bool.false_eq_true, if_false]

/-- A set one of whose shadows diverges writes nothing, and the slot that diverges waits for its check. -/
theorem exec_registerResultWritten_diverges {s t : State} {r : WRef} {x y : LookWindow} {u : UnitKind × Nat} {xs : List ShadowReading}
    (h : s.Holds r t) (hx : t.w.unwritten = some x) (hd : t.divergence x.set xs = some (y, u)) :
    exec (.registerResultWritten r xs) s =
      .next { t with w := t.w.mapSet x.set fun (z : LookWindow) => if z.pc = y.pc then { z with rerun := true, suspect := some u } else z }.park := by
  refine onWarp_next h ?_
  simp only [hx, Option.bind_some, hd]

/-- A set diverges only by a shadowed slot and a shadow value. -/
theorem State.divergence_eq_none {t : State} {set : Nat} {xs : List ShadowReading}
    (h : ∀ z ∈ t.w.windows, z.set = set → ∀ l, z.divergesAt t.w.regs l xs = false) : t.divergence set xs = none := by
  simp only [State.divergence]
  refine List.findSome?_eq_none_iff.mpr fun z hz => ?_
  obtain ⟨hmem, hz⟩ := List.mem_filter.mp hz
  simp only [Bool.and_eq_true, beq_iff_eq] at hz
  rw [List.find?_eq_none.mpr fun l _ => by rw [h z hmem hz.1.1 l]; exact Bool.false_ne_true]
  rfl

/-! ### The check after a divergence (R41, R42, R43) -/

/-- A check of a diverging instruction's unit is counted in the divergence log. -/
def State.logDivergence (s : State) : State := { s with switor := { s.switor with divLog := s.switor.divLog + 1 } }

/-- The diverging slot of a set changed. -/
def State.mapSlot (s : State) (x : LookWindow) (f : LookWindow → LookWindow) : State :=
  { s with w := s.w.mapSet x.set fun y => if y.pc = x.pc then f y else y }

/-- The warp in the issue stage waits for the check of a unit, on which its slot x has diverged. -/
structure State.AwaitsCheck (t : State) (x : LookWindow) (u : UnitId) : Prop where
  slot : (t.w.windows.find? fun x => x.rerun && !x.rewrite) = some x
  unit : x.suspect = some (u.kind, u.index)
  core : u.core = t.g.core
  part : u.part = t.w.part

/-- A check that passes sends the instruction back, but at its third divergence (R41, R43). -/
theorem State.rerunDone_passed {t : State} {x : LookWindow} {u : UnitId} (h : t.AwaitsCheck x u) :
    t.rerunDone u true = some (if 3 ≤ x.divs + 1 then t.machineCheck x
      else (t.mapSlot x fun y => { y with divs := x.divs + 1, rerun := false }).logDivergence) := by
  simp only [State.rerunDone, h.slot, Option.bind_some, h.unit, h.core, h.part, bne_self_eq_false, Bool.or_self, Bool.false_eq_true, if_false,
    if_true]
  exact (apply_ite some _ _ _).symm

/-- A live unit that fails the check is blamed, and the instruction waits for its rewrite point (R41). -/
theorem State.rerunDone_failed_live {t : State} {x : LookWindow} {u : UnitId} (h : t.AwaitsCheck x u)
    (hu : (t.coreAt u.core).unit u = some .live) :
    t.rerunDone u false = some ((t.mapSlot x fun y => { y with rewrite := true }).failUnit u).logDivergence := by
  simp only [State.rerunDone, h.slot, Option.bind_some, h.unit, h.core ▸ hu, h.core, h.part, bne_self_eq_false, Bool.or_self, Bool.false_eq_true,
    if_false]
  rfl

/-- A unit that is suspect already fails the check, and the instruction waits for its rewrite point (R41). -/
theorem State.rerunDone_failed_suspect {t : State} {x : LookWindow} {u : UnitId} (h : t.AwaitsCheck x u)
    (hu : (t.coreAt u.core).unit u = some .suspect) :
    t.rerunDone u false = some (t.mapSlot x fun y => { y with rewrite := true }).logDivergence := by
  simp only [State.rerunDone, h.slot, Option.bind_some, h.unit, h.core ▸ hu, h.core, h.part, bne_self_eq_false, Bool.or_self, Bool.false_eq_true,
    if_false]
  rfl

/-- The third divergence puts the warp back to what it was before the set, and stops it at the slot (R43). -/
theorem State.machineCheck_warp (t : State) (x : LookWindow) :
    (t.machineCheck x).w.regs = x.undo.regs ∧ (t.machineCheck x).w.clk = x.undo.clk0 ∧ (t.machineCheck x).w.pc = x.pc ∧
    (t.machineCheck x).w.status = .halted := ⟨rfl, rfl, rfl, rfl⟩

/-- A check of a column that passes has the chunk computed again, but at its third divergence (R42, R43). -/
theorem State.recheck_passed (t : State) (core col : Nat) (e : TileEntry) :
    t.recheck core col true e = if 3 ≤ e.divs + 1 then t.tileStop e .machineCheck
      else State.logDivergence { t with w := t.w.setTile { e with divs := e.divs + 1, rerun := false, suspect := none } } := rfl

/-- A live column that fails the check is suspect, and the chunk waits for the table (R42). -/
theorem State.recheck_failed_live {t : State} {core col : Nat} (e : TileEntry)
    (hu : (t.coreAt core).unit { kind := .column, core := core, part := 0, index := col } = some .live) :
    t.recheck core col false e = (State.logDivergence { t with w := t.w.setTile { e with rewrite := true } }).failUnit
      { kind := .column, core := core, part := 0, index := col } := by
  simp only [State.recheck, Bool.false_eq_true, if_false, hu]
  rfl

/-- A column that is suspect already fails the check, and the chunk waits for the table (R42). -/
theorem State.recheck_failed_suspect {t : State} {core col : Nat} (e : TileEntry)
    (hu : (t.coreAt core).unit { kind := .column, core := core, part := 0, index := col } = some .suspect) :
    t.recheck core col false e = State.logDivergence { t with w := t.w.setTile { e with rewrite := true } } := by
  simp only [State.recheck, Bool.false_eq_true, if_false, hu]
  rfl

/-- The check of the column of a chunk that diverged ends (R42). -/
theorem execColumnRecheckDone_next {s t : State} {core col : Nat} {g : Group} {w : Warp} {e : TileEntry} (pass : Bool)
    (hrun : s.running core = some (g, w, e)) (hre : e.rerun = true) (hrw : e.rewrite = false) (hsus : e.suspect = some col)
    (hload : s.load ⟨g.ref, w.wid⟩ = some t) : execColumnRecheckDone core col pass s = .next (t.recheck core col pass e).park := by
  simp only [execColumnRecheckDone, hrun, hre, hrw, hsus, hload, Bool.not_true, bne_self_eq_false, Bool.or_self, Bool.false_eq_true, if_false]

/-- Settles O38: a result or a check is an event of one warp or core, and the lemmas above say what it does and which shadows diverge. -/
theorem divergenceEvents : Obligations.DivergenceEvents := by
  unfold Obligations.DivergenceEvents
  refine ⟨fun s r t h => ⟨fun x hx => ⟨?agree, ?diverges, ?unread, ?unshadowed⟩, fun x u hx hs hcore hpart => ?rerun⟩, ?column,
    fun f x sh => ⟨Fmt.diverges_of_kind, fun hc hs => ⟨Fmt.diverges_special hc hs, Fmt.diverges_finite hc hs⟩⟩⟩
  case agree =>
    intro xs hd hfree
    exact exec_registerResultWritten_agree h hx hd hfree
  case diverges =>
    intro xs y u hd
    exact exec_registerResultWritten_diverges h hx hd
  case unread => exact State.divergence_eq_none fun z _ _ l => by simp [LookWindow.divergesAt]
  case unshadowed =>
    intro hsh xs
    exact State.divergence_eq_none fun z hz hset l => by simp [LookWindow.divergesAt, hsh z hz hset]
  case rerun =>
    have awaits : t.AwaitsCheck x u := ⟨hx, hs, hcore, hpart⟩
    have passed := onWarp_next (f := (·.rerunDone u true)) h (State.rerunDone_passed awaits)
    refine ⟨fun hd => ?_, fun hd => ⟨?_, t.machineCheck_warp x⟩, fun hlive => ?_, fun hsus => ?_⟩
    · rw [if_neg (by omega)] at passed
      exact passed
    · rw [if_pos (by omega)] at passed
      exact passed
    · exact onWarp_next h (State.rerunDone_failed_live awaits hlive)
    · exact onWarp_next h (State.rerunDone_failed_suspect awaits hsus)
  case column =>
    intro s core col g w e t hrun hre hrw hsus hload
    have passed := execColumnRecheckDone_next true hrun hre hrw hsus hload
    have failed := execColumnRecheckDone_next false hrun hre hrw hsus hload
    rw [State.recheck_passed] at passed
    refine ⟨fun hd => ?_, fun hd => ?_, fun hlive => ?_, fun hsus => ?_⟩
    · rw [if_neg (by omega)] at passed
      exact passed
    · rw [if_pos (by omega)] at passed
      exact passed
    · rw [State.recheck_failed_live e hlive] at failed
      exact failed
    · rw [State.recheck_failed_suspect e hsus] at failed
      exact failed

end Sys2Proof.Machine
end

section
/-!
SUPPORT. What checks, evacuations and rewrite points do to the units of a core (01_fold.md R20, R22, R24, R29, R33..R38, R440).
-/
namespace Sys2Proof.Machine

/-! ### A live unit that fails its check (R21, R22, R33, R440) -/

/-- A unit of a core made suspect (R33). -/
def State.suspectUnit (s : State) (u : UnitId) : State := s.updCore u.core fun k => k.setUnit u .suspect

/-- A live unit that fails is treated by its kind. -/
theorem State.failUnit_live {s : State} {u : UnitId} (h : (s.coreAt u.core).unit u = some .live) :
    (u.kind = .lane → s.failUnit u = s.suspectUnit u) ∧
    (u.kind = .quad → s.failUnit u = (s.suspectUnit u).updPart u.core u.part fun p =>
      { p with lanes := (List.range p.lanes.length).map fun l =>
          if l / 4 = u.index ∧ p.lanes.getD l .retired = .live then .suspect else p.lanes.getD l .retired }) ∧
    (u.kind = .bank → s.failUnit u =
      if (s.partAt u.core u.part).retiredWhole || (s.partAt u.core u.part).evacuates || !(s.partAt u.core u.part).bankOf.contains u.index
      then s.suspectUnit u else s.evacuateBank u) ∧
    (u.kind = .scalar → s.failUnit u = (s.retireUnit u).retirePart u.core u.part) ∧
    (u.kind = .sbank → s.failUnit u = if (s.coreAt u.core).relays then s.suspectUnit u else s.evacuateScratch u) ∧
    (u.kind = .column → s.failUnit u = (s.suspectUnit u).updCore u.core fun k => { k with colCheck := true }) := by
  unfold State.failUnit
  rw [if_neg (not_not.mpr h)]
  refine ⟨?_, ?_, ?_, ?_, ?_, ?_⟩ <;> intro hk <;> rw [hk] <;> rfl

/-- A bank that fails while its partition is retired, evacuates another bank or does not name it stays suspect (R33, log entry 107). -/
theorem State.failUnit_bank_waits {s : State} {u : UnitId} (h : (s.coreAt u.core).unit u = some .live) (hk : u.kind = .bank)
    (hp : (s.partAt u.core u.part).retiredWhole = true ∨ (s.partAt u.core u.part).evacuates = true ∨ u.index ∉ (s.partAt u.core u.part).bankOf) :
    s.failUnit u = s.suspectUnit u := by
  obtain ⟨-, -, bank, -⟩ := State.failUnit_live h
  exact (bank hk).trans (if_pos (by simpa [or_assoc] using hp))

/-- An assigned bank that fails is evacuated at once (R24, R36, log entry 107). -/
theorem State.failUnit_bank_assigned {s : State} {u : UnitId} (h : (s.coreAt u.core).unit u = some .live) (hk : u.kind = .bank)
    (hr : (s.partAt u.core u.part).retiredWhole = false) (he : (s.partAt u.core u.part).evacuates = false)
    (hb : u.index ∈ (s.partAt u.core u.part).bankOf) : s.failUnit u = s.evacuateBank u := by
  obtain ⟨-, -, bank, -⟩ := State.failUnit_live h
  exact (bank hk).trans (if_neg (by simp [hr, he, hb]))

/-- A bank for which R24 has a table: the partition takes it, and the copy starts at the bank's first row. -/
theorem State.evacuateBank_table {s : State} {u : UnitId} {t : List Nat}
    (h : bankTable (s.partAt u.core u.part).bankOf ((s.partAt u.core u.part).spares (s.partAt u.core u.part).bankOf) u.index = some t) :
    s.evacuateBank u = (s.updCore u.core fun k => k.setUnit u .evacuating).updPart u.core u.part fun q =>
      { q with newBankOf := some t, copied := (u.index, 0) :: q.copied } := by
  simp only [State.evacuateBank, h]

/-- A bank for which R24 has no table: the partition retires whole (R22). -/
theorem State.evacuateBank_none {s : State} {u : UnitId}
    (h : bankTable (s.partAt u.core u.part).bankOf ((s.partAt u.core u.part).spares (s.partAt u.core u.part).bankOf) u.index = none) :
    s.evacuateBank u = (s.updCore u.core fun k => k.setUnit u .evacuating).retirePart u.core u.part := by
  simp only [State.evacuateBank, h]

/-! ### Evacuations that end (R34, R36) -/

/-- A unit without a record in flash gets one as it retires. -/
theorem Flash.retire_new {f : Flash} {id : BitVec 64} (h : ∀ x ∈ f.retired, x.1 ≠ id) (time : Nat) :
    f.retire id time = { f with retired := f.retired ++ [(id, time)] } := by
  unfold Flash.retire
  refine if_neg fun listed => ?_
  obtain ⟨x, hx, hid⟩ := List.any_eq_true.mp listed
  exact h x hx (beq_iff_eq.mp hid)

/-- A bank whose last row is copied retires. -/
theorem execEvacuationComplete_copied {s : State} {u : UnitId} (hu : (s.coreAt u.core).unit u = some .evacuating) (hc : s.copyLeft u = false)
    (hf : ∀ x ∈ s.flash.retired, x.1 ≠ unitCode u) :
    execEvacuationComplete u s =
      .next { s with cores := (s.updCore u.core fun k => k.setUnit u .retired).cores,
                     flash := { s.flash with retired := s.flash.retired ++ [(unitCode u, s.time.toNat)] },
                     switor := { s.switor with cause := s.switor.cause ||| 1 } } := by
  rw [execEvacuationComplete, if_pos ⟨hu, by rw [hc]; rfl⟩, ← Flash.retire_new hf]
  rfl

/-! ### Rewrite points (R29, R37) -/

/-- A rewrite point that is not ready only holds issue. -/
theorem State.rewriteAt_held {s : State} {core : Nat} {part : Option Nat} (swap : State → Option State) (h : s.rewriteReady core part = false) :
    s.rewriteAt core part swap = s.setRewriting core part true := by
  simp only [State.rewriteAt, h, Bool.false_eq_true, if_false]

/-- A rewrite point that is ready swaps its tables, and issue resumes. -/
theorem State.rewriteAt_ready {s t : State} {core : Nat} {part : Option Nat} {swap : State → Option State} (h : s.rewriteReady core part = true)
    (ht : swap s = some t) : s.rewriteAt core part swap = t.setRewriting core part false := by
  simp only [State.rewriteAt, h, if_true, ht, Option.map_some, Option.getD_some]

/-- The rewrite point of a partition is an event of its tables. -/
theorem exec_rewritePoint_partition {core part : Nat} (hc : core < 192) (hp : part < 4) (s : State) :
    exec (.rewritePoint core (.partition part)) s = .next (s.rewriteAt core (some part) fun t => some (t.rewritePart core part)) :=
  congrArg Host.Outcome.next ((if_neg (Nat.not_le.mpr hc)).trans (if_pos hp))

/-- The rewrite point of a partition that is ready. -/
theorem exec_rewritePoint_partition_ready {s : State} {core part : Nat} (hc : core < 192) (hp : part < 4)
    (h : s.rewriteReady core (some part) = true) :
    exec (.rewritePoint core (.partition part)) s = .next ((s.rewritePart core part).setRewriting core (some part) false) :=
  (exec_rewritePoint_partition hc hp s).trans
    (congrArg Host.Outcome.next (State.rewriteAt_ready (swap := fun t => some (t.rewritePart core part)) h rfl))

/-- The rewrite point of a scratchpad is an event of its table. -/
theorem exec_rewritePoint_scratchpad {core : Nat} (hc : core < 192) (s : State) :
    exec (.rewritePoint core .scratchpad) s = .next (s.rewriteAt core none fun t => t.rewriteScratch core) :=
  congrArg Host.Outcome.next (if_neg (Nat.not_le.mpr hc))

/-- A partition of at least 12 lanes with its scalar pipe takes its new tables (R20, R25, R37). -/
theorem State.rewritePart_wide {s : State} {core part : Nat} (hr : ((s.retireSuspects core part).partAt core part).retiredWhole = false)
    (hw : 12 ≤ ((s.retireSuspects core part).partAt core part).width)
    (hs : ((s.retireSuspects core part).partAt core part).scalar = .live) :
    let u := s.retireSuspects core part
    let q := u.partAt core part
    let moved := (unitsIn q.banks .evacuating).isEmpty
    s.rewritePart core part =
      (((u.updPart core part fun x =>
        { x with bankOf := if moved then q.newBankOf.getD q.bankOf else q.bankOf, newBankOf := if moved then none else x.newBankOf,
                 retiredWhole := false, laneTable := unitsIn x.lanes .live }).fitBudget core part).replayOn core part).nextEvacuation core part := by
  simp only [State.rewritePart, hr, Bool.false_eq_true, if_false, Option.isNone_some, Option.getD_some]
  exact if_neg (by simp [hs, hw])

/-- A partition of fewer than 12 lanes, or without its scalar pipe, retires whole (R20, R22). -/
theorem State.rewritePart_narrow {s : State} {core part : Nat}
    (h : ((s.retireSuspects core part).partAt core part).width < 12 ∨ ((s.retireSuspects core part).partAt core part).scalar ≠ .live) :
    s.rewritePart core part =
      (((s.retireSuspects core part).retirePart core part).updPart core part fun x => { x with laneTable := unitsIn x.lanes .live }).replayOn
        core part :=
  if_pos (or_assoc.mp (Or.inl h))

/-- The table of a scratchpad takes the banks that are not lost, and the frames that they bring are offered (R27, R29, R296). -/
theorem State.rewriteScratch_live {s : State} {core : Nat} (he : unitsIn (s.coreAt core).sbanks .evacuating = []) :
    let k := s.coreAt core
    let live := (List.range k.sbanks.length).filter fun b => k.sbanks.getD b .retired == .live || k.sbanks.getD b .retired == .suspect
    k.sbankRanks.length ≤ live.length →
    s.rewriteScratch core = some (((s.updCore core fun k => { k with sbankRanks := live }).offerFrames core).nextRelay core) := by
  intro k live hl
  simp only [State.rewriteScratch, he, List.isEmpty_nil, Bool.not_true, Bool.false_eq_true, if_false]
  exact if_pos hl

/-! ### Columns (R440) -/

/-- The column table of an engine without suspect columns takes its live columns, at least 8, and its chunks go on. -/
theorem execColumnTableRewrite_live {s : State} {core : Nat} (hc : core < 192) (hcheck : (s.coreAt core).colCheck = true)
    (hsus : unitsIn (s.coreAt core).cols .suspect = []) (hlive : 8 ≤ (unitsIn (s.coreAt core).cols .live).length) :
    execColumnTableRewrite core s = .next { s with
      cores := (s.updCore core fun k => { k with colTable := unitsIn (s.coreAt core).cols .live, colCheck := false }).cores,
      groups := s.groups.map fun g =>
        if g.onCore && g.core == core then
          { g with warps := g.warps.map fun w => { w with tileQ := w.tileQ.map fun (e : TileEntry) =>
              if e.rewrite then { e with rerun := false, rewrite := false, suspect := none } else e } }
        else g } := by
  have due : ¬(192 ≤ core ∨ (!(s.coreAt core).colCheck && (s.coreAt core).colTable == unitsIn (s.coreAt core).cols .live) = true) := by
    simp [hc, hcheck]
  simp only [execColumnTableRewrite, if_neg due, hsus, List.map_nil, List.foldl_nil, if_neg (Nat.not_lt.mpr hlive)]
  rfl

/-- Settles O39: a check, an evacuation and a rewrite point are each one of the lemmas above. -/
theorem unitEvents : Obligations.UnitEvents := by
  unfold Obligations.UnitEvents
  refine ⟨⟨fun s u => ⟨?hold, rfl⟩, ?failed, fun s u => execEvacuationComplete_copied⟩, fun s core hcore =>
    ⟨fun part hpart => ⟨?held, fun hready hwhole => ⟨?wide, ?narrow⟩⟩, ⟨?relayHeld, ?relaid⟩, execColumnTableRewrite_live hcore⟩⟩
  case hold =>
    intro hlive
    exact congrArg Host.Outcome.next (if_pos hlive)
  case failed =>
    intro s u s1 p suspect hlive
    have check : exec (.selfCheckStep u false) s = .next (s1.failUnit u) := rfl
    obtain ⟨lane, quad, -, scalar, sbank, column⟩ := State.failUnit_live hlive
    rw [check]
    refine ⟨fun hk => ?_, fun hk => ?_, fun hk hp => ?_, fun hk hr he hb => ⟨fun t ht => ?_, fun ht => ?_⟩, fun hk => ?_,
      fun hk => ⟨fun hrel => ?_, fun hrel => ?_⟩, fun hk => ?_⟩
    · rw [lane hk]; rfl
    · rw [quad hk]; rfl
    · rw [State.failUnit_bank_waits hlive hk hp]; rfl
    · rw [State.failUnit_bank_assigned hlive hk hr he hb, State.evacuateBank_table ht]
    · rw [State.failUnit_bank_assigned hlive hk hr he hb, State.evacuateBank_none ht]
    · rw [scalar hk]
    · rw [sbank hk, if_pos hrel]; rfl
    · rw [sbank hk, if_neg (by rw [hrel]; exact Bool.false_ne_true)]; rfl
    · rw [column hk]; rfl
  case held =>
    intro hready
    rw [exec_rewritePoint_partition hcore hpart, State.rewriteAt_held _ hready]
  case wide =>
    intro hwidth hscalar
    rw [exec_rewritePoint_partition_ready hcore hpart hready, State.rewritePart_wide hwhole hwidth hscalar]
  case narrow =>
    intro hlost
    rw [exec_rewritePoint_partition_ready hcore hpart hready, State.rewritePart_narrow hlost]
  case relayHeld =>
    intro hready
    rw [exec_rewritePoint_scratchpad hcore, State.rewriteAt_held _ hready]
  case relaid =>
    intro hready hevac hlen
    rw [exec_rewritePoint_scratchpad hcore, State.rewriteAt_ready hready (State.rewriteScratch_live hevac hlen)]

end Sys2Proof.Machine
end

section
/-!
SUPPORT. What the performance of a path entry does (10_buffer.md R209, R218, R219, R223, R225): a result is written and its entry
completes, or it is judged at its writer and undone (R190, R191, log entry 32).
-/
namespace Sys2Proof.Machine

/-! ### What a set that is undone leaves of its group (R43, R191, R319) -/

@[simp] theorem Group.setBar_status (g : Group) (b : Nat) (x : GBar) : (g.setBar b x).status = g.status := rfl

@[simp] theorem Group.retract_status (g : Group) (b w : Nat) : (g.retract b w).status = g.status := rfl

/-- A fold whose every step keeps a value keeps it. -/
theorem foldl_keeps {α β γ : Type} (p : β → γ) {f : β → α → β} (h : ∀ b a, p (f b a) = p b) : ∀ (l : List α) (b : β), p (l.foldl f b) = p b
  | [], _ => rfl
  | a :: l, b => (foldl_keeps p h l (f b a)).trans (h b a)

@[simp] theorem Group.setMembers_status (g : Group) (b : Nat) (m : BitVec 16) : (g.setMembers b m).status = g.status := by
  simp only [Group.setMembers, Group.setBar_status]
  exact foldl_keeps Group.status (fun g w => by split; exacts [g.retract_status b w, rfl]) _ g

@[simp] theorem Group.undeed_status (g : Group) (d : Deed) : (g.undeed d).status = g.status := by
  unfold Group.undeed
  by_cases hm : d.old.members = d.new_.members <;> by_cases ht : d.old.trans = d.new_.trans <;> simp [hm, ht]

@[simp] theorem Group.unpost_status (g : Group) (wid set : Nat) : (g.unpost wid set).status = g.status := by
  unfold Group.unpost
  exact foldl_keeps Group.status (fun g (p : Posted) => g.setBar_status p.bar _) _ _

@[simp] theorem State.putBack_status (s : State) (x : Undo) (set : Nat) : (s.putBack x set).g.status = s.g.status :=
  (foldl_keeps Group.status Group.undeed_status x.deeds _).trans (Group.unpost_status s.g s.w.wid set)

/-- A trap that reaches a resident group is the group's (R292, R309). -/
theorem Group.raise_resident {g : Group} (h : g.status = .resident) (t : TrapInfo) : (g.raise t).trap = some t := by
  simp only [Group.raise, h]

/-! ### Completion (R113) -/

@[simp] theorem State.acquireAt_g (s : State) (scope : Nat) : (s.acquireAt scope).g = s.g := by unfold State.acquireAt; split <;> rfl

@[simp] theorem State.acquireAt_w (s : State) (scope : Nat) : (s.acquireAt scope).w = s.w := by unfold State.acquireAt; split <;> rfl

@[simp] theorem Warp.liftFence_regs (w : Warp) : w.liftFence.regs = w.regs := by
  unfold Warp.liftFence
  split
  · split <;> rfl
  · rfl

/-- Completion changes no register and leaves the group as it is. -/
theorem State.complete_keeps (s : State) (seq : Nat) : (s.complete seq).w.regs = s.w.regs ∧ (s.complete seq).g = s.g := by
  simp only [State.complete, Warp.liftFence_regs]
  split
  · split <;> simp
  · simp

/-! ### A result that lands (R190, R191) -/

/-- The result of an entry splits a chain where the entry writes the mask and a chain is bound that the mask would split. -/
theorem Warp.splitBy_iff (w : Warp) (e : PathEntry) :
    w.splitBy e = true ↔ meets e.writes maskRegs = true ∧ (w.regs.putEntry e).chn ≠ 0 ∧
      splitChains (w.regs.putEntry e).chn (w.regs.putEntry e).mask ≠ 0 := by
  simp only [Warp.splitBy, Bool.and_eq_true, bne_iff_ne, and_assoc]

/-- A result that splits no chain is written, and its entry completes. -/
theorem State.landed_written {s : State} {e : PathEntry} (h : ¬s.w.splitBy e = true) :
    s.landed e = State.finish { s with w := s.w.putEntry e } e := if_neg h

/-- The registers as they were before the entry's set, where it kept them; else as they are. -/
def Warp.regsBefore (w : Warp) (e : PathEntry) : Regs := (e.back.map (·.regs)).getD w.regs

/-- A warp put back before an entry's set has the registers of then. -/
theorem State.splitBack_regs (s : State) (e : PathEntry) : (s.splitBack e).w.regs = s.w.regsBefore e := by
  unfold State.splitBack Warp.regsBefore
  cases e.back <;> rfl

/-- The trap of a split result reaches the resident group of its warp, precisely at the slot that has raised it. -/
theorem State.splitBack_trap {s : State} (e : PathEntry) (h : s.g.status = .resident) : (s.splitBack e).g.trap = some (s.w.splitLate e) := by
  unfold State.splitBack
  cases e.back with
  | none => exact Group.raise_resident h _
  | some x => exact Group.raise_resident ((s.putBack_status x e.set).trans h) _

/-- A result that splits a chain is not written: the registers are those before its set, and CHAIN_SPLIT is raised precisely. -/
theorem State.landed_split {s : State} {e : PathEntry} (h : s.w.splitBy e = true) :
    (s.landed e).w.regs = s.w.regsBefore e ∧
    (s.g.status = .resident → ∃ x, (s.landed e).g.trap = some x ∧ x.cause = .chainSplit ∧ x.precise = true ∧ x.pc = e.pc) := by
  obtain ⟨regs, group⟩ := State.complete_keeps { s with w := s.w.setEntry e } e.seq
  rw [State.landed, if_pos h]
  refine ⟨?_, fun hr => ⟨_, State.splitBack_trap e ((congrArg Group.status group).trans hr), rfl, rfl, rfl⟩⟩
  rw [State.splitBack_regs, Warp.regsBefore, regs]
  rfl

/-! ### Loads, records and atomics -/

theorem State.loadDone_part {s u : State} {seq : Nat} {e : PathEntry} (hr : s.returnHeld seq = false) (hp : s.loadPart seq = some (u, e)) :
    s.loadDone seq = some (u.landed e) := by
  simp only [State.loadDone, hr, hp, Bool.false_eq_true, if_false, Option.map_some]

theorem State.recordDone_part {s u : State} {seq : Nat} {e : PathEntry} (hp : s.recordPart seq = some (u, e)) :
    s.recordDone seq = some (u.landed e) := by
  simp only [State.recordDone, hp, Option.map_some]

theorem State.atomDone_part {s u : State} {seq : Nat} {e : PathEntry} (hr : s.returnHeld seq = false) (hp : s.atomPart seq = some (u, e)) :
    s.atomDone seq = some (u.landed e) := by
  simp only [State.atomDone, hr, hp, Bool.false_eq_true, if_false]

/-! ### Stores (R219, R220) -/

/-- What an ordered store waits for before it leaves the queue: nothing at order 0, else the warp's earlier entries and the release at its
scope. -/
theorem State.release_for_order {u v : State} {e : PathEntry}
    (h : e.order = 0 ∧ v = u ∨ e.order ≠ 0 ∧ u.w.allDone e.seq = true ∧ u.release (u.scopeOf e) = some v) :
    (if e.order = 0 then some u else if u.w.allDone e.seq then u.release (u.scopeOf e) else none) = some v := by
  rcases h with ⟨h0, rfl⟩ | ⟨h0, hdone, hrel⟩
  · exact if_pos h0
  · rw [if_neg h0, if_pos hdone, hrel]

/-- A store of lanes that none fails, and none is of a chain, leaves the queue lane by lane. -/
theorem State.storeLeaves_lanes {s u v : State} {e : PathEntry} (he : (s.w.entries.find? fun e => e.path == 1 && !e.done) = some e)
    (hw : s.w.setWaits e.set = false) (hcopy : e.order = 2 → s.lanesCopying e = false) (hu : s.fixLoads e.seq = some u)
    (hv : e.order = 0 ∧ v = u ∨ e.order ≠ 0 ∧ u.w.allDone e.seq = true ∧ u.release (u.scopeOf e) = some v)
    (hok : v.storeFails e e.reqs = some []) (hc : e.op.chains = none) :
    s.storeLeaves = some (
      let x := v.storeLanes e ((e.reqs.filter fun q => !q.drop).map fun q => [q])
      x.1.finish { e with got := some [], fails := e.fails ++ x.2 }) := by
  have free : (s.w.setWaits e.set || (e.order == 2 && s.lanesCopying e)) = false := by
    rw [hw, Bool.false_or, Bool.and_eq_false_imp]
    exact fun h => hcopy (beq_iff_eq.mp h)
  simp only [State.storeLeaves, he, free, Bool.false_eq_true, if_false, hu, Option.bind_some, State.release_for_order hv, hok, Option.map_some, hc,
    PathEntry.judge, PathEntry.storeGroups, List.append_nil, List.any_nil, Bool.not_false, Bool.and_true, State.storeTried, List.foldl_nil]

/-! ### Scratchpad accesses (R216, R224, R225, R241) -/

/-- A scratchpad access that nothing holds is performed on its lanes. -/
theorem State.scratchDone_lanes {s : State} {seq : Nat} {e : PathEntry} {x : State × List (Nat × BitVec 128) × List LaneFail}
    (he : s.w.entryAt seq 2 = some e) (hr : s.returnHeld seq = false) (ha : s.w.scratchAhead e = false) (hp : s.scratchAway e = false)
    (hl : ∀ q ∈ e.reqs, s.scratchShut q.va e.op.size = false ∧ (e.op.writesScratch = true → s.rowHeld q.va e.op.size = false))
    (hx : s.scratchLanesDo e e.reqs = some x) : s.scratchDone seq = some (x.1.landed (e.judge x.2.1 x.2.2)) := by
  have free : (e.reqs.any fun r => s.scratchShut r.va e.op.size || (e.op.writesScratch && s.rowHeld r.va e.op.size)) = false := by
    simpa using hl
  simp only [State.scratchDone, he, Option.bind_some, hr, ha, hp, free, Bool.or_self, Bool.false_eq_true, if_false, hx, Option.map_some]

/-- Judging an entry's lanes leaves its operation as it is. -/
@[simp] theorem PathEntry.judge_op (e : PathEntry) (vals : List (Nat × BitVec 128)) (fs : List LaneFail) : (e.judge vals fs).op = e.op := by
  unfold PathEntry.judge
  split <;> rfl

theorem Regs.putEntry_sload {e : PathEntry} {n : Nat} {signed : Bool} (h : e.op = .sload n signed) (g : Regs) :
    g.putEntry e = g.putLoad e n signed := by simp only [Regs.putEntry, h]

theorem Regs.putEntry_sstore {e : PathEntry} {n : Nat} (h : e.op = .sstore n) (g : Regs) : g.putEntry e = g := by simp only [Regs.putEntry, h]

theorem Regs.putEntry_satom {e : PathEntry} {op : AtomKind} {signed : Bool} (h : e.op = .satom op signed) (g : Regs) :
    g.putEntry e = g.putLoad e 4 false := by simp only [Regs.putEntry, h]

/-- Settles O33: an entry that is performed lands, and `State.landed_written` and `State.landed_split` say what that does. -/
theorem pathEvents : Obligations.PathEvents := by
  unfold Obligations.PathEvents
  intro splits written
  have writes (u : State) (e : PathEntry) (hs : ¬splits u e) : Host.Outcome.next (u.landed e).park = written u e := by
    rw [State.landed_written (mt (u.w.splitBy_iff e).mp hs)]
  refine ⟨fun s r t h => ⟨?load, ?record, ?atomic, ?store⟩, ?scratch⟩
  case load =>
    intro seq u e hr hp hs
    exact (onWarp_next h (State.loadDone_part hr hp)).trans (writes u e hs)
  case record =>
    intro seq u e hp hs
    exact (onWarp_next h (State.recordDone_part hp)).trans (writes u e hs)
  case atomic =>
    intro seq u e hr hp
    have event : exec (.atomicPerformed r seq) s = .next (u.landed e).park := onWarp_next h (State.atomDone_part hr hp)
    refine ⟨fun hs => event.trans (writes u e hs), fun hs => ⟨u.landed e, event, ?_, ?_⟩⟩
    all_goals obtain ⟨regs, trap⟩ := State.landed_split ((u.w.splitBy_iff e).mpr hs)
    · rw [regs, Warp.regsBefore]
      cases e.back <;> rfl
    · exact trap
  case store =>
    intro e u v he hw hcopy hu hv hok hc
    exact onWarp_next h (State.storeLeaves_lanes he hw hcopy hu hv hok hc)
  case scratch =>
    intro s r t seq e x h he hr ha hp hl hx e1
    have event : exec (.scratchAccessPerformed r seq) s = .next (x.1.landed e1).park :=
      onWarp_next h (State.scratchDone_lanes he hr ha hp hl hx)
    have op : e1.op = e.op := e.judge_op x.2.1 x.2.2
    exact ⟨fun hs => event.trans (writes x.1 e1 hs), fun g n signed ho => Regs.putEntry_sload (op.trans ho) g,
      fun g n ho => Regs.putEntry_sstore (op.trans ho) g, fun g k signed ho => Regs.putEntry_satom (op.trans ho) g⟩

end Sys2Proof.Machine
end

section
/-!
SUPPORT. What an event of the copy unit does to the entry at the head of a copy queue (12_copy.md R245, R253, R256, R259, R265, R266).
-/
namespace Sys2Proof.Machine

/-! ### Stages (R245, R253, R255) -/

/-- The oldest stage of a group, once it heads its warp's copy queue with its set written, is the next to be applied. -/
theorem State.nextStage_head {s : State} {q : StageReq} {l : List StageReq} {i : CopyItem} {m : List CopyItem}
    (hq : s.g.schedWait = q :: l) (hi : s.w.copyQ = i :: m) (hwid : q.warp = s.w.wid) (hop : i.op = .stage q.number)
    (hw : s.w.setWaits i.set = false) : s.nextStage = State.releaseStage { s with g := { s.g with schedWait := l } } q := by
  simp only [State.nextStage, hq, hi, hwid, hop, hw, bne_self_eq_false, Bool.or_self, Bool.false_eq_true, if_false]

/-- A stage whose header is sound takes its place in the copy queue by what it releases, and raises what fails (R255, R258). -/
theorem State.releaseStage_read {s u : State} {q : StageReq} {h : List Byte} {x : State × List CopyItem × List TrapInfo}
    (hread : s.readGranules s.g.core s.g.ref.ctx s.g.desc.sched 2 = .ok h u) (hok : headerOk h = true)
    (hx : u.releaseAll q h (List.range (wordAt h 0)) = some x) :
    s.releaseStage q = some (x.2.2.foldl (fun v f => v.engineTrap f q.clk0) { x.1 with w := x.1.w.putReleased q.number x.2.1 }) := by
  simp only [State.releaseStage, hread, hok, hx, if_true, Option.map_some]

/-- The read of a schedule ends for the group's oldest stage, in that stage's warp. -/
theorem execScheduleReadDone_next {s t u : State} {r : WRef} {g : Group} {q : StageReq} (h : s.HoldsAny r t) (hg : s.groupOf r.g = some g)
    (hq : g.schedWait.head? = some q) (hw : q.warp = r.w) (hu : t.nextStage = some u) : execScheduleReadDone r.g s = .next u.parkAny := by
  obtain ⟨rg, rw⟩ := r
  obtain rfl : q.warp = rw := hw
  have event := onWarpAny_next (f := (·.nextStage)) h hu
  simp only [execScheduleReadDone, hg, Option.bind_some, hq]
  exact event

/-! ### The head of a copy queue (R265, R266) -/

/-- The head of a copy queue replaced. -/
theorem State.setCopyHead_cons {s : State} {i : CopyItem} {l : List CopyItem} (h : s.w.copyQ = i :: l) (j : CopyItem) :
    s.setCopyHead j = { s with w := { s.w with copyQ := j :: l } } := by
  rw [State.setCopyHead, h, List.tail_cons]

/-- The head of a copy queue performed. -/
theorem State.popCopy_cons {s : State} {i : CopyItem} {l : List CopyItem} (h : s.w.copyQ = i :: l) :
    s.popCopy = { s with w := { s.w with copyQ := l }.passFences } := by
  rw [State.popCopy, h, List.tail_cons]

/-- A row of at most 64 KiB under one hold lands in scratch, and lowers the group barrier of an entry of kind 1 (R256, R257). -/
theorem State.rowMove_lands {s u : State} {i : CopyItem} {e : SchedEntry} {bs : List Byte} {held : List Tlb} (index : Nat)
    (hsize : i.heldBytes + e.x ≤ 65536) (hdest : e.dest = none)
    (hread : s.rowRead i.held e.src (e.x0 + (e.y0 + (i.rows % e.y : Nat)) * recStrideY e.src + (e.z0 + (i.rows / e.y : Nat)) * recStrideZ e.src) e.x =
      .ok bs held u)
    (hfree : u.scratchHeld (e.dst + (i.rows / e.y * e.y + i.rows % e.y) * e.x) e.x = false) :
    s.rowMove i index e = some (
      let v := u.scratchWrite (e.dst + (i.rows / e.y * e.y + i.rows % e.y) * e.x) bs
      (if e.kind = 1 then { v with g := v.g.landBytes e.bar e.x } else v).setCopyHead
        { i with rows := i.rows + 1, held := held, heldBytes := i.heldBytes + e.x }) := by
  simp only [State.rowMove, if_neg (Nat.not_lt.mpr hsize), hread, hdest, hfree, Bool.false_eq_true, if_false]

/-- A row that is not the last of its entry lands, and the entry goes on (R256). -/
theorem State.copyLands_row {s u : State} {i j : CopyItem} {l : List CopyItem} {index : Nat} {bytes : List Byte} {dy dz : Int}
    (hq : s.w.copyQ = i :: l) (hop : i.op = .sched index bytes dy dz) (hst : i.st = .moving)
    (hrow : i.rows + 1 < (itemEntry bytes dy dz s.g.linear.toNat).y * (itemEntry bytes dy dz s.g.linear.toNat).z)
    (hu : s.rowMove i index (itemEntry bytes dy dz s.g.linear.toNat) = some (u.setCopyHead j)) (hj : j.rows = i.rows + 1) :
    s.copyLands = some (u.setCopyHead j) := by
  simp only [State.copyLands, hq, hst, bne_self_eq_false, Bool.false_eq_true, if_false, hop, if_pos (Nat.lt_of_succ_lt hrow), hu, Option.map_some]
  exact congrArg some (if_neg fun h => absurd (hj ▸ h.1) (Nat.ne_of_lt hrow))

/-- A lane of a cpy32 lands in scratch (R259). -/
theorem State.copyLands_lane {s u : State} {i : CopyItem} {l : List CopyItem} {seq : Nat} {e : PathEntry} {q : LaneReq} {bs : List Byte}
    {held : List Tlb} (hq : s.w.copyQ = i :: l) (hop : i.op = .cpy32 seq) (hst : i.st = .moving)
    (he : (s.w.entries.find? (·.seq == seq)) = some e) (hlane : e.reqs[i.rows]? = some q) (hw : s.w.setWaits e.set = false)
    (hfree : s.scratchHeld q.data.toNat 32 = false) (hcopy : s.laneCopy i.held q = .ok bs held u) :
    s.copyLands = some ((u.scratchWrite q.data.toNat bs).setCopyHead
      { i with rows := i.rows + 1, held := held, heldBytes := i.heldBytes + 32 }) := by
  simp only [State.copyLands, hq, hst, bne_self_eq_false, Bool.false_eq_true, if_false, hop, he, Option.bind_some, hlane, hw, hfree, Bool.or_self,
    hcopy]

/-- An entry without failures raises no trap (R221). -/
theorem entryTrap_eq_none (wid : Nat) {e : PathEntry} (h : e.fails = []) : entryTrap wid e = none := by
  rw [entryTrap, h]
  rfl

/-- An entry without failures, of a group that is not away, completes (R113). -/
theorem State.finishAny_complete {s : State} {e : PathEntry} (ha : s.g.absent = false) (h : e.fails = []) :
    s.finishAny e = State.complete { s with w := s.w.setEntry e } e.seq := by
  simp only [State.finishAny, ha, Bool.false_eq_true, if_false, State.finish, entryTrap_eq_none _ h]

/-- Settles O36: each event is one of a warp wherever its group stands, and its lemma above says what it does. -/
theorem copyEvents : Obligations.CopyEvents := by
  unfold Obligations.CopyEvents
  intro s r t h
  refine ⟨?schedule, ?start, fun i l n bytes dy dz hq hop hst => ⟨?renew, ?row⟩, fun i l seq e hq hop hst he => ⟨?lane, ?complete⟩⟩
  case schedule =>
    rintro q l g hd u x hg hhead hr hq hw ⟨i, m, hi, hop, hset⟩ hread hok hx
    exact execScheduleReadDone_next h hg hhead hr ((State.nextStage_head hq hi hw hop hset).trans (State.releaseStage_read hread hok hx))
  case start =>
    intro i l hq hfence hstage hst hset
    refine onWarpAny_next h ?_
    have ready : (i.st == .queued && !t.w.passFences.setWaits i.set) = true := by rw [hst, hset]; rfl
    rw [← State.setCopyHead_cons (s := { t with w := t.w.passFences }) hq]
    simp only [hq]
    cases hop : i.op with
    | fence n => exact absurd hop (hfence n)
    | stage n => exact absurd hop (hstage n)
    | sched => exact if_pos ready
    | cpy32 => exact if_pos ready
  case renew =>
    intro hsize
    refine onWarpAny_next h ?_
    have due : (i.st == .moving && decide (65536 < i.heldBytes + (itemEntry bytes dy dz 0).x)) = true := by
      rw [hst, decide_eq_true hsize]
      rfl
    rw [← State.setCopyHead_cons hq]
    simp only [hq, hop]
    exact if_pos due
  case row =>
    intro bs held u hrow hsize hdest hread _ place hfree v
    exact onWarpAny_next h (State.copyLands_row hq hop hst hrow (State.rowMove_lands n hsize hdest hread hfree) rfl)
  case lane =>
    intro q bs held u hlane hw hfree hcopy
    exact onWarpAny_next h (State.copyLands_lane hq hop hst he hlane hw hfree hcopy)
  case complete =>
    intro hrows ha hfails
    refine onWarpAny_next h ?_
    have done : (i.st == .moving && decide (e.reqs.length ≤ i.rows)) = true := by
      rw [hst, decide_eq_true hrows]
      rfl
    have number : e.seq = seq := beq_iff_eq.mp (List.find?_some (p := fun e : PathEntry => e.seq == seq) he)
    have performed := State.finishAny_complete (s := t.popCopy) (e := e) (by exact ha) hfails
    rw [State.popCopy_cons hq, number] at performed
    simp only [hq, hop, he, Option.bind_some, State.popCopy_cons hq]
    exact (if_pos done).trans (congrArg some performed)

end Sys2Proof.Machine
end

section
/-!
SUPPORT. What an event of a warp's own does: sleep, halts, the watchdog, rereads of a watched word, exit and posted arrivals (04_warp.md
R108, 05_scalar.md R138, 12_copy.md R263, 15_barrier.md R315, R317).
-/
namespace Sys2Proof.Machine

/-- A warp that is ready, stalled or asleep stops where it stands, and remembers what it was (R108, R309). -/
theorem Warp.stop_running {w : Warp} (pc skid : Nat) (h : w.status = .ready ∨ w.status = .stalled ∨ w.status = .sleeping) :
    w.running = true ∧ w.stop pc skid =
      { w with status := .halted, saved := w.status, pc := pc, stopPc := pc, skid := skid, bcast := false } := by
  rcases h with h | h | h <;> exact ⟨by simp [Warp.running, h], by simp [Warp.stop, h]⟩

/-! ### Rereads (R263, R326, R395) -/

/-- The words of waitge and of mb.await differ in bit 26 (03_packet.md R91). -/
theorem waitge_ne_mbAwait {x : Word} (h : x &&& 0xFFFFC000 = 0xACE00000) : x &&& 0xFFFC000F ≠ 0xA8000002 := by
  intro h2
  have set := congrArg (·.getLsbD 26) h
  have clear := congrArg (·.getLsbD 26) h2
  simp only [BitVec.getLsbD_and] at set clear
  simp_all

/-- The word that a warp at a waitge watches: eight bytes that are to reach its target (R263). -/
theorem Warp.watched_waitge {w : Warp} {a : Nat} {p : Packet} {x : Word} (hp : w.packet = some (a, p))
    (hx : p.slot ((w.pc - a - 4) / 4) = x) (h : x &&& 0xFFFC000F = 0xA8000002) :
    w.watched = some { va := w.regs.addrPair (x.extractLsb' 11 7), len := 8,
                       met := fun bs => decide ((w.regs.spair (x.extractLsb' 4 7)).toNat ≤ leNat bs) } := by
  simp only [Warp.watched, hp, Option.bind_some, hx]
  exact if_pos (beq_iff_eq.mpr h)

/-- The word that a warp at an mb.await watches: a barrier whose phase is to change (R326). -/
theorem Warp.watched_mbAwait {w : Warp} {a : Nat} {p : Packet} {x : Word} (hp : w.packet = some (a, p))
    (hx : p.slot ((w.pc - a - 4) / 4) = x) (h : x &&& 0xFFFFC000 = 0xACE00000) :
    w.watched = some { va := w.regs.addrPair (x.extractLsb' 7 7), len := 16,
                       met := fun bs => field bs 12 4 != (w.regs.sget (x.extractLsb' 0 7)).toNat } := by
  simp only [Warp.watched, hp, Option.bind_some, hx]
  exact (if_neg (mt beq_iff_eq.mp (waitge_ne_mbAwait h))).trans (if_pos (beq_iff_eq.mpr h))

/-- A stalled warp rereads a word that can be read at its home: the warp is ready if it meets its test (R263). -/
theorem State.rewatch_read {s : State} {x : Watched} {pa : Nat} {k : Tlb} (hst : s.w.status = .stalled) (hx : s.w.watched = some x)
    (hpk : s.peek s.g.core s.g.ref.ctx x.va false = .ok pa k) (hpark : s.parkedOver s.g.core pa x.len = false)
    (hok : s.homeFails pa x.len k.key true = none) :
    s.rewatch = some (
      let u := s.sendLoad s.g.core k.key pa 0 x.len
      if x.met (s.homeRead pa x.len) = true then { u with w := { u.w with status := .ready } } else u) := by
  have met : s.watchMet x.va x.len x.met = x.met (s.homeRead pa x.len) := by
    simp only [State.watchMet, hpk, hpark, hok, Bool.not_false, Bool.true_and, Option.isSome_none, Bool.false_or]
  simp only [State.rewatch, if_pos hst, hx, Option.map_some, met, hpk]

/-- A notice and the interval reread alike (R263). -/
theorem exec_reread {i : Instr} {r : WRef} {s t u : State} (h : s.Holds r t) (hu : t.rewatch = some u)
    (hi : i ∈ [Instr.writeNotice (.warp r), .rereadInterval (.warp r)]) : exec i s = .next u.park := by
  have event := onWarp_next h hu
  rcases List.mem_pair.mp hi with rfl | rfl <;> exact event

/-! ### Exit (R108, R292, R317) -/

/-- A draining warp with nothing outstanding leaves its barriers; the last one of a resident group retires it. -/
theorem State.warpExits_drained {s : State} (hst : s.w.status = .draining) (he : s.w.entries = []) (hr : s.w.reserved = 0)
    (hw : ∀ x ∈ s.w.windows, x.shadowed = true → x.ready = true) (hp : ∀ p ∈ s.g.posted, p.warp ≠ s.w.wid) :
    s.warpExits = some (
      let w := { s.w with status := .exited }
      let g := (s.g.putWarp w).dropMember w.wid
      if g.warps.all (·.status == .exited) && g.status == .resident then
        State.leftCore (State.retireGroup { s with w := w, g := g }) g.core
      else { s with w := w, g := g }) := by
  have shadows : (!(s.w.windows.any fun x => x.shadowed && !x.ready)) = true := by simpa using hw
  have arrivals : (!(s.g.posted.any (·.warp == s.w.wid))) = true := by simpa using hp
  rw [State.warpExits, if_pos ⟨hst, by rw [he]; rfl, hr, shadows, arrivals⟩]
  exact (apply_ite some _ _ _).symm

/-! ### Posted arrivals (R315) -/

/-- A posted arrival is applied once the warp's earlier entries have completed and its set has written. -/
theorem State.applyArrival_found {s : State} {b : Nat} {p : Posted}
    (hf : (s.g.posted.find? fun p => p.warp == s.w.wid && p.bar == b) = some p) (hm : s.w.fenceMet p.upto = true)
    (hw : s.w.setWaits p.set = false) :
    s.applyArrival b = some { s with g := { s.g with posted := s.g.posted.erase p }.arrive b } := by
  simp only [State.applyArrival, hf, hm, hw, Bool.not_false, Bool.and_self, if_true]

/-- An arrival at a barrier of a group that is not away raises its count, and the barrier is tested (R315, R316). -/
theorem Group.arrive_bars {g : Group} {b : Nat} (ha : g.absent = false) (hb : b < g.bars.length) :
    (g.arrive b).bars[b]? = some { g.bar b with arrived := (g.bar b).arrived + 1 }.test := by
  simp only [Group.arrive, ha, Bool.false_eq_true, if_false, Group.setBar]
  exact List.getElem?_set_self hb

/-- Settles O35: each event is one of a warp, and its lemma above says what it does. -/
theorem warpEvents : Obligations.WarpEvents := by
  unfold Obligations.WarpEvents
  refine ⟨fun s r t h => ⟨?wakes, ?hears, ?watchdog, ?rereads, ?drains⟩, ?arrival⟩
  case wakes =>
    intro hst hg
    exact onWarp_next h (if_pos ⟨hst, hg⟩)
  case hears =>
    intro hb hst
    obtain ⟨running, stopped⟩ := Warp.stop_running t.w.pc t.w.skid hst
    rw [← stopped]
    exact onWarp_next h (if_pos (by rw [hb, running]; rfl))
  case watchdog =>
    intro c hr hc hn hg
    obtain ⟨g, w⟩ := r
    obtain rfl : w = 0 := hr
    refine onWarp_next h ?_
    rw [hc]
    exact if_neg (not_or.mpr ⟨hn, not_not.mpr hg⟩)
  case rereads =>
    intro a p x pa k hst hp hx
    refine ⟨fun hop hpk hpark hok i hi => ?waitge, fun hop hpk hpark hok i hi => ?mbAwait⟩
    case waitge =>
      have event := exec_reread h (State.rewatch_read hst (Warp.watched_waitge hp hx hop) hpk hpark hok) hi
      simp only [decide_eq_true_eq] at event
      exact event
    case mbAwait =>
      have event := exec_reread h (State.rewatch_read hst (Warp.watched_mbAwait hp hx hop) hpk hpark hok) hi
      simp only [bne_iff_ne] at event
      exact event
  case drains =>
    intro hst he hr hw hp w g
    have event := onWarp_next h (State.warpExits_drained hst he hr hw hp)
    refine ⟨fun hstay => ?stays, fun hall hres => ?last⟩
    case stays =>
      have others : ¬(g.warps.all (·.status == .exited) && g.status == .resident) = true := by
        obtain ⟨v, hv, hne⟩ := hstay
        simp only [Bool.and_eq_true, List.all_eq_true, beq_iff_eq]
        exact fun hall => hne (hall.1 v hv)
      simp only [] at event
      rw [if_neg others] at event
      exact event
    case last =>
      have alone : (g.warps.all (·.status == .exited) && g.status == .resident) = true := by
        simp only [Bool.and_eq_true, List.all_eq_true, beq_iff_eq]
        exact ⟨hall, hres⟩
      simp only [] at event
      rw [if_pos alone] at event
      exact event
  case arrival =>
    intro s r t b p h hf hm hw
    exact ⟨onWarpAny_next h (State.applyArrival_found hf hm hw), fun ha hb => Group.arrive_bars ha hb⟩

end Sys2Proof.Machine
end

section
/-!
ENCODE AND DECODE. Every well-formed instruction decodes from its word (03_packet.md R85, R90), and the words written out.
-/
namespace Sys2Proof.Laws.RoundTrip
open Sys2Proof Sys2Proof.Machine

/-- The word of every instruction decodes to it: one lemma for each constructor, in the order of the opcode map. -/
theorem statement (i : Instr) : Statement i :=
  i.casesOn (motive := Statement)
    nop exit yield sleep trap brk ipf ipfInv sadd ssub smul smulhiS32 smulhiU32 sand sor sxor sandn sshl sshr ssra sminS32 smaxS32
    sminU32 smaxU32 sadd64 ssub64 saddI ssubI smulI smulhiS32I smulhiU32I sandI sorI sxorI sandnI sshlI sshrI ssraI sminS32I smaxS32I
    sminU32I smaxU32I scmp scmpI cand cor cxor candn smov sli sbfxU32 sbfxS32 sbfi spopc sclz sctz sbrev bc bnc bany ball bnone br call
    jmp ret rsr wsr mpush mflip mpop waitc waitcI mvps mvsp vaddS32 vsubS32 vaddSatS32 vaddSatU32 vsubSatS32 vsubSatU32 vminS32 vmaxS32
    vminU32 vmaxU32 vshl vshr vsra vabsdS32 vadd64 vsub64 vaddS32S vsubS32S vaddSatS32S vaddSatU32S vsubSatS32S vsubSatU32S vminS32S
    vmaxS32S vminU32S vmaxU32S vshlS vshrS vsraS vabsdS32S vaddS32I vsubS32I vaddSatS32I vaddSatU32I vsubSatS32I vsubSatU32I vminS32I
    vmaxS32I vminU32I vmaxU32I vshlI vshrI vsraI vabsdS32I vmulLo vmulhiS32 vmulhiU32 vmadLo vmadSatS32 vmulWideS32 vmulWideU32 vand vor
    vxor vandn vnot vpopc vclz vbrev vbfxU32 vbfxS32 vbfi vfshl vfshr vcmp pand por pxor pandn pnot pmov pset pclr vsel vsext8 vzext8
    vsext16 vzext16 vsatS8S32 vsatU8S32 vsatS16S32 vsatU16S32 vsatS32S64 fadd fsub fmul fmin fmax fcopysign fabs fneg faddS faddI fmulS
    fmulI fminS fminI fmaxS fmaxI ffma ffms ffnma ffnms ffmaS ffmsS ffnmaS ffnmsS haddF16x2 hmulF16x2 hfmaF16x2 hminF16x2 haddBf16x2
    hmulBf16x2 hfmaBf16x2 hminBf16x2 vcmpF32 vcvtWiden vcvtNarrow vrcp vrsq vsqrt vexp2 vlog2 vsinpi vcospi vtanh fdot idot idotSat
    vshflIdx vshflUp vshflDown vshflXor vbcast vsome vevery vbits vredAddS32 vredMinS32 vredMaxS32 vredAddF32 vredMinF32 vredMaxF32
    vscanAddS32 vscanxAddS32 vscanAddF32 vredAnd vredOr vredXor vmatch vrank vlead visect vtopk vargmaxF32 vargmaxS32 vlid vrnd cbind
    cunbind cget cgetP cset cadd cadc csub csbb caddSat cadcSat csubSat csbbSat ccmp cshl cshr cshlw cshrw cmac cld cst ld st atomAdd
    atomMin atomMax atomAnd atomOr atomXor atomExch atomCas redAdd redMin redMax redAnd redOr redXor sldU8 sldS8 sldU16 sldS16 sldB32
    sldB64 sstB8 sstB16 sstB32 sstB64 satomAdd satomMinS32 satomMaxS32 satomMinU32 satomMaxU32 satomAnd satomOr satomXor satomExch
    satomCas ldrec strec mkrec kmov fence rfence pf flush inval cpy32 stage waitge qfence rdstage gbMeet gbPost gbAwait gbAwaitPar
    gbBytes gbMembers mbArm mbPost mbBytes mbAwait nemit coll mma mmaSat tzero tld tst tget tfill mcommit mwait registerResultWritten
    shadowRerunDone columnRecheckDone selfCheckStep mowingHold evacuationComplete rewritePoint columnTableRewrite loadReturn
    storeLeavesQueue scratchAccessPerformed recordReturn atomicPerformed ifetchFillDone translationWalkDone sleepTimerLapse haltBroadcast
    watchdog warpDrained arrivalApplied writeNotice rereadInterval scheduleReadDone copyEntryStart copyHoldRenew copyDataLanded
    cpy32Complete operandLatchTake gatherDone columnChunkGrant columnChunkDone engineIdle accMovePerformed dispatchSelect quantumExpiry
    evictReturnAreaReady diversionEntryFree evictionComplete divertedArrival gleaningComplete migrationDecision migrationStreamEnd
    haltComplete trapQueueSlotFree packetNop gridLaunch nodeBind nodeUnbind nodeUnbindComplete indirectBuffer waitPacket signalPacket
    recordFence contextFence queueWaitSatisfied launchComplete nodeRecordOffer nodeTimerLapse batchFreeFormation create destroy
    destroyComplete suspend suspendComplete resume queueAdd queueStart queueStop queueReset groupResume groupAbort setQuantum migrate
    migrateComplete pageBringIn invalidationRequest invalidationComplete dirtySectorWriteback channelRetirement granuleCopyStart
    granuleCopyEnd sliceRetirement scrubSector stileRelease hostAccess linkId portEnable portTrained portRetrain portDisable portDrained
    strandRetire flitReceive flitNak remoteOperation collEntryPerform collPeerData collComplete bringUp mailboxMessage powerSample
    attestRequest diagRetirementRecords diagCoreDump diagRevive diagVacate diagVacateEnd diagSlotTable eventCauseClear tenantSet
    tenantClear keyLoad keyClear linkGrant linkRevoke registerWrite illPacket illOp futureOp scratchPageSwitchDone writeBackLanded
    powerOff hostErrorQueueSlotFree unlistedCommandCode splitLaunchArrival targetCompletionReport

/-- Settles O54: each constructor has its round trip. -/
theorem encodeDecode : Obligations.EncodeDecode := fun i w hwf hw hne => statement i hwf hne w hw

end Sys2Proof.Laws.RoundTrip

namespace Sys2Proof.Machine

/-- Settles O53: each of the 31 words is decoded by evaluation; the statement is about closed words alone. -/
theorem decodeWords : Obligations.DecodeWords := by
  unfold Obligations.DecodeWords
  decide

end Sys2Proof.Machine
end

section
/-!
SUPPORT. What reads, writes and translations leave: the warp in the issue stage (11_access.md R229, 12_copy.md R253, 19_page.md R374..R378).
-/
namespace Sys2Proof.Machine

/-! ### Stores at the home slices and link operations -/

@[simp] theorem State.homeStore_w (s : State) (core key : Nat) (ps : List Host.Cell) : (s.homeStore core key ps).w = s.w := by
  obtain ⟨m, fl, p, ks, wait, h⟩ := s.homeStore_frame core key ps
  rw [h]

@[simp] theorem State.sendOp_w (s : State) (core pa key order : Nat) (kind : RemoteKind) : (s.sendOp core pa key order kind).w = s.w := by
  obtain ⟨l, h⟩ := s.sendOp_links core pa key order kind
  rw [h]

@[simp] theorem State.sendLoad_w (s : State) (core key pa order n : Nat) : (s.sendLoad core key pa order n).w = s.w := by
  unfold State.sendLoad
  split
  · rfl
  · exact State.sendOp_w ..

@[simp] theorem State.homeWrite_w (s : State) (core key pa : Nat) (bs : List Byte) : (s.homeWrite core key pa bs).w = s.w := by
  unfold State.homeWrite State.homeUpdated
  split
  · exact State.homeStore_w ..
  · dsimp only
    split
    · rfl
    · exact State.sendOp_w ..

@[simp] theorem State.afterFail_w (s : State) (c : Cause) (key pa : Nat) : (s.afterFail c key pa).w = s.w := by
  unfold State.afterFail
  split
  · obtain ⟨_, _, _, _, h⟩ := s.tagFailure_frame key pa
    rw [h]
  · rfl

/-! ### Translation (R374..R378) -/

theorem State.noPlace_w {s t : State} {core ctx ea : Nat} (h : s.noPlace core ctx ea = some t) : t.w = s.w := by
  unfold State.noPlace at h
  obtain ⟨x, -, h⟩ := Option.bind_eq_some_iff.mp h
  split at h
  · cases h
  · cases h; rfl

@[simp] theorem State.walkIn_w (s : State) (core ctx va : Nat) (write : Bool) : (s.walkIn core ctx va write).2.w = s.w := by
  unfold State.walkIn
  split
  · rfl
  · obtain ⟨_, _, _, _, h⟩ := s.tagFailure_frame (s.sectorKeyId ‹Nat›) ‹Nat›
    simp only [h]
  · split
    · next h => exact State.noPlace_w h
    · rfl
  · next e ea size _ =>
    have marked (bits : DWord) (p : Prop) [Decidable p] : (if p then s else s.orEntry ea bits).w = s.w := by split <;> rfl
    dsimp only
    generalize (if (write && e.getLsbD 1) = true then 0x60#64 else 0x20#64) = bits
    split
    · rfl
    · exact marked ..

@[simp] theorem State.translate_w (s : State) (core ctx va : Nat) (write : Bool) : (s.translate core ctx va write).2.w = s.w := by
  have found : ∀ r : Xl × State, r.2.w = s.w →
      (match r with
        | (.ok pa t, s1) => if write && !t.w then (Xl.fail .prot, s1) else if s1.refused pa then (Xl.fail .addrFault, s1) else (Xl.ok pa t, s1)
        | other => other).2.w = s.w := by
    intro r h
    split
    · split
      · exact h
      · split <;> exact h
    · exact h
  unfold State.translate
  dsimp only
  apply found
  split
  · split
    · exact State.walkIn_w ..
    · rfl
  · exact State.walkIn_w ..

/-! ### What a read ends in -/

/-- Whatever a read ends in, the warp in the issue stage is w. -/
def Got.HasWarp (w : Warp) : Got → Prop
  | .ok _ t => t.w = w
  | .fail _ t => t.w = w
  | .wait => True

/-- Whatever an engine's access ends in, the warp in the issue stage is w. -/
def EGot.HasWarp (w : Warp) : EGot → Prop
  | .ok _ _ t => t.w = w
  | .fail _ _ t => t.w = w
  | .wait => True

theorem State.readGranule_hasWarp (s : State) (core ctx va : Nat) : (s.readGranule core ctx va).HasWarp s.w := by
  have ht := s.translate_w core ctx va false
  unfold State.readGranule
  split
  · rfl
  · split
    · next h => rw [h] at ht; exact ht
    · trivial
    · next pa t s1 h =>
      rw [h] at ht
      split
      · trivial
      · split
        · exact (State.afterFail_w ..).trans ht
        · exact (State.sendLoad_w ..).trans ht

theorem State.readGranules_hasWarp (core ctx : Nat) (n : Nat) : ∀ (s : State) (va : Nat), (s.readGranules core ctx va n).HasWarp s.w := by
  induction n with
  | zero => exact fun _ _ => rfl
  | succ n ih =>
    intro s va
    have first := s.readGranule_hasWarp core ctx va
    unfold State.readGranules
    split
    · next bs s1 h =>
      rw [h] at first
      have rest := ih s1 (va + 32)
      rw [show s1.w = s.w from first] at rest
      split
      · next h2 => rw [h2] at rest; exact rest
      · exact rest
    · exact first

end Sys2Proof.Machine
end

section
/-!
SUPPORT. What the engines and the copy schedule leave: the warp in the issue stage, or its registers (12_copy.md R253..R258, 14_group.md
R305, R370).
-/
namespace Sys2Proof.Machine

/-! ### Engines (R245, R266) -/

theorem State.heldXl_w (s : State) (held : List Tlb) (core ctx va : Nat) (write : Bool) :
    (s.heldXl held core ctx va write).2.2.w = s.w := by
  have ht := s.translate_w core ctx va write
  unfold State.heldXl
  split
  · rfl
  · split
    · next h => rw [h] at ht; exact ht
    · next _ h => rw [h] at ht; exact ht

theorem State.orderedGate_w {s t : State} {va pa : Nat} {always : Bool} (h : s.orderedGate va pa always = some t) : t.w = s.w := by
  unfold State.orderedGate at h
  split at h
  · cases h; rfl
  · split at h
    · cases h; rfl
    · cases h

theorem State.engineRead_hasWarp (core ctx : Nat) (l : List (Nat × Nat)) :
    ∀ (s : State) (held : List Tlb), (s.engineRead core ctx held l).HasWarp s.w := by
  induction l with
  | nil => exact fun _ _ => rfl
  | cons x rest ih =>
    intro s held
    obtain ⟨va, n⟩ := x
    have hx := s.heldXl_w held core ctx va false
    unfold State.engineRead
    split
    · next h => rw [h] at hx; exact hx
    · trivial
    · next pa t held1 s1 h =>
      rw [h] at hx
      split
      · trivial
      · next s2 hgate =>
        have h2 : s2.w = s.w := by
          split at hgate
          · exact (State.orderedGate_w hgate).trans hx
          · cases hgate; exact hx
        split
        · exact (State.afterFail_w ..).trans h2
        · have rest := ih (s2.sendLoad core t.key pa 0 n) held1
          rw [State.sendLoad_w, h2] at rest
          split
          · next h3 => rw [h3] at rest; exact rest
          · exact rest

theorem State.engineCheck_hasWarp (core ctx : Nat) (l : List (Nat × Nat)) :
    ∀ (s : State) (held : List Tlb), (s.engineCheck core ctx held l).HasWarp s.w := by
  induction l with
  | nil => exact fun _ _ => rfl
  | cons x rest ih =>
    intro s held
    obtain ⟨va, n⟩ := x
    have hx := s.heldXl_w held core ctx va true
    unfold State.engineCheck
    split
    · next h => rw [h] at hx; exact hx
    · trivial
    · next pa t held1 s1 h =>
      rw [h] at hx
      split
      · exact hx
      · split
        · trivial
        · split
          · exact hx
          · have rest := ih s1 held1
            rw [show s1.w = s.w from hx] at rest
            exact rest

theorem State.enginePut_w (core ctx : Nat) (l : List (Nat × Nat)) :
    ∀ (s : State) (held : List Tlb) (bs : List Byte), (s.enginePut core ctx held l bs).w = s.w := by
  induction l with
  | nil => exact fun _ _ _ => rfl
  | cons x rest ih =>
    intro s held bs
    obtain ⟨va, n⟩ := x
    have hx := s.heldXl_w held core ctx va true
    unfold State.enginePut
    split
    · next h => rw [h] at hx; exact (ih ..).trans ((State.homeWrite_w ..).trans hx)
    · next h => rw [h] at hx; exact (ih ..).trans hx

theorem State.engineWrite_hasWarp (s : State) (core ctx : Nat) (held : List Tlb) (va : Nat) (bs : List Byte) :
    (s.engineWrite core ctx held va bs).HasWarp s.w := by
  have check := State.engineCheck_hasWarp core ctx (pieces va bs.length) s held
  unfold State.engineWrite
  split
  · next h => rw [h] at check; exact (State.enginePut_w ..).trans check
  · exact check

/-! ### The firmware's accesses and its absent-fault records (R305, R370) -/

theorem State.fwPut_w (s : State) (ctx va : Nat) (bs : List Byte) : (s.fwPut ctx va bs).w = s.w := by
  have put := s.engineWrite_hasWarp noCore ctx [] va bs
  unfold State.fwPut State.fwWrite
  dsimp only
  split
  · rfl
  · split
    · next h => rw [h] at put; exact put
    · next h => rw [h] at put; exact put
    · rfl

theorem State.fwGet_w {s : State} {ctx va n : Nat} {x : List Byte × State} (h : s.fwGet ctx va n = some x) : x.2.w = s.w := by
  have read := State.engineRead_hasWarp noCore ctx (pieces va n) s []
  unfold State.fwGet State.fwRead at h
  split at h
  · next hr => rw [hr] at read; cases h; exact read
  · next hr => rw [hr] at read; cases h; exact read
  · cases h

theorem State.fwIndices_w {s : State} {ctx base : Nat} {x : Nat × Nat × State} (h : s.fwIndices ctx base = some x) : x.2.2.w = s.w := by
  obtain ⟨w, hw, h⟩ := Option.bind_eq_some_iff.mp h
  obtain ⟨r, hr, rfl⟩ := Option.map_eq_some_iff.mp h
  exact (State.fwGet_w hr).trans (State.fwGet_w hw)

theorem State.placeAbsent_w {s t : State} {c : Context} {a : Absent} {r : List Byte} (h : s.placeAbsent c a r = some t) : t.w = s.w := by
  obtain ⟨x, hx, h⟩ := Option.bind_eq_some_iff.mp h
  have hi := State.fwIndices_w hx
  dsimp only at h
  split at h
  · cases h
    refine (State.fwPut_w ..).trans ?_
    split
    · exact hi
    · exact (State.updCtx_w ..).trans ((State.fwPut_w ..).trans hi)
  · cases h

theorem State.absentFault_w (s : State) (t : TrapInfo) : (s.absentFault t).w = s.w := by
  unfold State.absentFault
  split
  · rfl
  · dsimp only
    split
    · next h =>
      split at h
      · exact (State.placeAbsent_w h).trans rfl
      · cases h
    · rfl

@[simp] theorem State.raiseAfter_regs (s : State) (t : TrapInfo) (clk0 : DWord) : (s.raiseAfter t clk0).w.regs = s.w.regs := by
  unfold State.raiseAfter
  dsimp only
  split
  · rfl
  · split <;> rfl

@[simp] theorem State.engineTrap_regs (s : State) (t : TrapInfo) (clk0 : DWord) : (s.engineTrap t clk0).w.regs = s.w.regs := by
  unfold State.engineTrap
  split
  · rw [State.absentFault_w]
  · exact State.raiseAfter_regs ..

/-! ### The copy schedule (R253..R258) -/

/-- Whatever the release of an entry ends in, the warp in the issue stage is w. -/
def SGot.HasWarp (w : Warp) : SGot → Prop
  | .skip t => t.w = w
  | .item _ t => t.w = w
  | .fail _ t => t.w = w
  | .wait => True

theorem State.releaseOne_hasWarp (s : State) (r : StageReq) (h : List Byte) (i : Nat) : (s.releaseOne r h i).HasWarp s.w := by
  have entry := State.readGranules_hasWarp s.g.core s.g.ref.ctx 2 s (s.g.desc.sched + 64 + 64 * i)
  unfold State.releaseOne
  dsimp only
  split
  · trivial
  · next he => rw [he] at entry; exact entry
  · next bs s1 he =>
    rw [he] at entry
    split
    · exact entry
    · split
      · have record := s1.readGranule_hasWarp s.g.core s.g.ref.ctx (field h 16 6 + 32 * bitsAt (wordAt bs 13) 12 4)
        rw [show s1.w = s.w from entry] at record
        split
        · trivial
        · next hr => rw [hr] at record; exact record
        · next hr =>
          rw [hr] at record
          split <;> exact record
      · split <;> exact entry

theorem State.releaseAll_w (r : StageReq) (h : List Byte) (l : List Nat) :
    ∀ (s : State) (y : State × List CopyItem × List TrapInfo), s.releaseAll r h l = some y → y.1.w = s.w := by
  induction l with
  | nil => intro s y hy; cases hy; rfl
  | cons i rest ih =>
    intro s y hy
    have one := s.releaseOne_hasWarp r h i
    unfold State.releaseAll at hy
    split at hy
    · cases hy
    · next h1 => rw [h1] at one; exact (ih _ _ hy).trans one
    · next h1 =>
      rw [h1] at one
      obtain ⟨z, hz, rfl⟩ := Option.map_eq_some_iff.mp hy
      exact (ih _ _ hz).trans one
    · next h1 =>
      rw [h1] at one
      obtain ⟨z, hz, rfl⟩ := Option.map_eq_some_iff.mp hy
      exact (ih _ _ hz).trans one

/-- The traps of a stage's entries leave the registers. -/
theorem State.engineTraps_regs (clk0 : DWord) (ts : List TrapInfo) :
    ∀ s : State, (ts.foldl (fun s t => s.engineTrap t clk0) s).w.regs = s.w.regs :=
  foldl_keeps (fun s : State => s.w.regs) (fun s t => s.engineTrap_regs t clk0) ts

theorem State.releaseStage_regs {s t : State} {r : StageReq} (h : s.releaseStage r = some t) : t.w.regs = s.w.regs := by
  have header := State.readGranules_hasWarp s.g.core s.g.ref.ctx 2 s s.g.desc.sched
  unfold State.releaseStage at h
  dsimp only at h
  split at h
  · cases h
  · next s1 hh =>
    rw [hh] at header
    cases h
    have kept : s1.w.regs = s.w.regs := congrArg Warp.regs header
    exact (State.engineTraps_regs ..).trans kept
  · next s1 hh =>
    rw [hh] at header
    split at h
    · obtain ⟨x, hx, rfl⟩ := Option.map_eq_some_iff.mp h
      have kept : x.1.w.regs = s.w.regs := congrArg Warp.regs ((State.releaseAll_w _ _ _ _ _ hx).trans header)
      exact (State.engineTraps_regs ..).trans kept
    · cases h
      have kept : s1.w.regs = s.w.regs := congrArg Warp.regs header
      exact (State.engineTraps_regs ..).trans kept

theorem State.nextStage_regs {s t : State} (h : s.nextStage = some t) : t.w.regs = s.w.regs := by
  unfold State.nextStage at h
  split at h
  · split at h
    · cases h
    · exact (State.releaseStage_regs h).trans rfl
  · cases h

end Sys2Proof.Machine
end

section
/-!
SUPPORT. Which registers an instruction word may write, form by form (03_packet.md R79, R87, 04_warp.md R113, 05_scalar.md R130).
-/
namespace Sys2Proof.Machine

/-! ### Effects that write no register -/

/-- A slot whose use or effect is read in the state that it starts in. -/
theorem keepsRegs_of_state {f : State → State → Result} {ds : List RegId} (h : ∀ s, KeepsRegs (f s) ds) : KeepsRegs (fun s => f s s) ds :=
  fun s t he => h s s t he

/-- An effect leaves the registers of the warp, whatever it ends in. -/
def Eff.KeepsRegs (s : State) : Eff → Prop
  | .done t => t.w.regs = s.w.regs
  | .pause t => t.w.regs = s.w.regs
  | .trapIn _ t => t.w.regs = s.w.regs
  | _ => True

/-- A slot whose effect leaves the registers leaves them. -/
theorem slotDo_keepsRegs {u : Use} {body : State → Eff} {ds : List RegId} (h : ∀ s, (body s).KeepsRegs s) : KeepsRegs (slotDo u body) ds :=
  slotDo_none_keeps
    (fun s t hb => by
      have hs := h s
      rcases hb with hb | hb <;> (rw [hb] at hs; exact hs))
    (fun s x v hb => by
      have hs := h s
      rw [hb] at hs
      exact hs)

/-- An effect that a check chooses. -/
theorem Eff.KeepsRegs.ite {s : State} {p : Prop} [Decidable p] {e f : Eff} (he : e.KeepsRegs s) (hf : f.KeepsRegs s) :
    (if p then e else f).KeepsRegs s := by
  split
  · exact he
  · exact hf

/-- An effect that the limb count turns away leaves the registers where the effect does. -/
theorem bound_keepsRegs {s : State} {e : Eff} (h : e.KeepsRegs s) : (bound s e).KeepsRegs s := .ite trivial h

theorem regChecks_keepsRegs {s : State} {usable : Bool} {d : BitVec 7} {n : Nat} {e : Eff} (h : e.KeepsRegs s) :
    (regChecks s usable d n e).KeepsRegs s := .ite trivial (.ite trivial (.ite trivial h))

@[simp] theorem State.holdFor_regs (s : State) (acquires : Bool) (seq scope : Nat) : (s.holdFor acquires seq scope).w.regs = s.w.regs := by
  unfold State.holdFor
  split <;> rfl

@[simp] theorem Warp.passFences_regs (w : Warp) : w.passFences.regs = w.regs := by
  have fence (w : Warp) (id : Nat) : (w.passFence id).regs = w.regs := by unfold Warp.passFence; split <;> rfl
  have empty (w : Warp) : w.passEmpty.regs = w.regs := by
    unfold Warp.passEmpty
    split
    · split
      · split <;> rfl
      · rfl
    · rfl
  unfold Warp.passFences
  refine foldl_keeps Warp.regs (fun v _ => ?_) _ _
  refine (foldl_keeps Warp.regs (fun v f => ?_) _ _).trans (empty v)
  cases f with
  | none => rfl
  | some id => exact fence v id

@[simp] theorem State.postTile_regs (s : State) (op : TileOp) (addrs : List (Nat × Nat)) (word coord : Word) :
    (s.postTile op addrs word coord).w.regs = s.w.regs :=
  Warp.passFences_regs _

@[simp] theorem State.prefetchLines_w (core ctx : Nat) (l : List Nat) : ∀ s : State, (s.prefetchLines core ctx l).w = s.w := by
  induction l with
  | nil => exact fun _ => rfl
  | cons va rest ih =>
    intro s
    have ht := s.translate_w core ctx va false
    unfold State.prefetchLines
    split
    · exact ih s
    · split
      · next h =>
        rw [h] at ht
        refine (ih _).trans ?_
        split <;> exact ht
      · next h => rw [h] at ht; exact (ih _).trans ht
      · exact ih s

@[simp] theorem State.allocLine_w (s : State) (core pa key policy : Nat) : (s.allocLine core pa key policy).w = s.w := by
  unfold State.allocLine
  split
  · rfl
  · dsimp only
    split
    · rfl
    · exact State.homeStore_w ..

@[simp] theorem State.prefetch_w (s : State) (va : Nat) : (s.prefetch va).w = s.w := by
  have ht := s.translate_w s.g.core s.g.ref.ctx va false
  unfold State.prefetch
  split
  · next h =>
    rw [h] at ht
    split
    · exact ht
    · refine (foldl_keeps State.w (fun t i => ?_) _ _).trans ht
      dsimp only
      split
      · rfl
      · exact State.allocLine_w ..
  · next _ h => rw [h] at ht; exact ht

theorem State.watch_keepsRegs (s : State) (va n : Nat) (met : List Byte → Bool) : (s.watch va n met).KeepsRegs s := by
  have ht := congrArg Warp.regs (s.translate_w s.g.core s.g.ref.ctx va false)
  unfold State.watch
  split
  · next h => rw [h] at ht; exact ht
  · trivial
  · next h =>
    rw [h] at ht
    split
    · trivial
    · split
      · exact (congrArg Warp.regs (State.afterFail_w ..)).trans ht
      · split
        · exact (congrArg Warp.regs (State.sendLoad_w ..)).trans ht
        · trivial

/-! ### The forms of the instructions that write no register as they issue -/

theorem indirect_keepsRegs (a : BitVec 7) (s : State) : (indirect a s).KeepsRegs s := .ite rfl trivial

theorem waitPath_keepsRegs (path t : Nat) (s : State) : (waitPath path t s).KeepsRegs s := .ite rfl trivial

theorem mIssue_keepsRegs (threeD store : Bool) (o sc pol : BitVec 2) (k : BitVec 5) (a d : BitVec 7) (s : State) :
    (mIssue threeD store o sc pol k a d s).KeepsRegs s :=
  regChecks_keepsRegs (by
    split
    · trivial
    · exact State.holdFor_regs ..)

theorem cIssue_keepsRegs (store : Bool) (o sc pol : BitVec 2) (k : BitVec 5) (a d : BitVec 7) (s : State) :
    (cIssue store o sc pol k a d s).KeepsRegs s :=
  bound_keepsRegs (.ite trivial (State.holdFor_regs ..))

theorem aIssue_keepsRegs (op : AtomKind) (ret : Bool) (o : BitVec 3) (k : BitVec 5) (a d : BitVec 7) (s : State) :
    (aIssue op ret o k a d s).KeepsRegs s :=
  regChecks_keepsRegs (by
    split
    · trivial
    · exact State.holdFor_regs ..)

theorem gAtom_keeps {op : AtomKind} {ret : Bool} {o : BitVec 3} {k : BitVec 5} {a d : BitVec 7} : KeepsRegs (gAtom op ret o k a d) [] :=
  keepsRegs_of_state (f := fun s => slotDo (aUse op ret o k a d s) (aIssue op ret o k a d)) fun _ =>
    slotDo_keepsRegs (aIssue_keepsRegs op ret o k a d)

theorem scratchDo_keeps {op : PathOp} {n rd wr : Nat} {pair : Bool} {d a f : BitVec 7} : KeepsRegs (scratchDo op n rd wr pair d a f) [] :=
  slotDo_keepsRegs fun s => by
    split
    · trivial
    · rfl

theorem mbIssue_keepsRegs (lo hi : Nat) (op : Word → PathOp) (d : Nat) (writes : List RegId) (a b : BitVec 7) (s : State) :
    (mbIssue lo hi op d writes a b s).KeepsRegs s := .ite trivial (.ite trivial rfl)

theorem mmaDo_keeps {sat : Bool} {f sh : BitVec 4} {v p : BitVec 7} : KeepsRegs (mmaDo sat f sh v p) [] :=
  slotDo_keepsRegs fun s => .ite trivial (.ite trivial (.ite trivial (.ite trivial (.ite trivial (.ite trivial (by
    split
    · trivial
    · exact State.postTile_regs ..))))))

theorem moveDo_keeps {op : State → TileOp} {u : Use} {words : Option (Word → Bool)} {width : Nat} {scr : Option (BitVec 7 × Nat)}
    {p : BitVec 7} {dst : Nat} {ds : List RegId} : KeepsRegs (moveDo op u words width scr p dst) ds :=
  slotDo_keepsRegs fun s => .ite trivial (.ite trivial (.ite trivial (by
    split
    · trivial
    · exact State.postTile_regs ..)))

/-! ### The forms of the instructions that write more than one register -/

theorem sBin64_keeps {f : DWord → DWord → DWord} {d a b : BitVec 7} : KeepsRegs (sBin64 f d a b) [.s d.toNat, .s (d.toNat + 1)] :=
  slotDo_map_keeps (f := fun s r => r.spairSet d (f (s.src.spair a) (s.src.spair b))) fun hw _ _ _ hr => by
    simp only [Bool.and_eq_true] at hw
    exact same_spairSet hw.1.1 hr _ _

/-- An effect that is done in v ends in v. -/
theorem eq_of_done {v t : State} (h : Eff.done v = .done t ∨ Eff.done v = .pause t) : v = t := by
  rcases h with h | h <;> cases h
  rfl

theorem execRsr_keeps {d r : BitVec 7} :
    KeepsRegs (execRsr d r) (if stateReg64 r.toNat then [.s d.toNat, .s (d.toNat + 1)] else [.s d.toNat]) :=
  slotDo_keeps (fun hw s t hb x hx => by
    simp only [Bool.and_eq_true, Bool.or_eq_true, Bool.not_eq_true'] at hw
    split at hb
    · rcases hb with hb | hb <;> cases hb
    · split at hb
      · next hwide =>
        obtain rfl := eq_of_done hb
        have he : even d = true := hw.2.resolve_left (by simp [hwide])
        rw [if_pos hwide] at hx
        exact same_spairSet he hx _ _
      · next hword =>
        obtain rfl := eq_of_done hb
        rw [if_neg hword] at hx
        exact same_sset (by simpa using hx) _ _) fun s x v h => by
    split at h
    · cases h
    · split at h <;> cases h

theorem execCall_keeps {o : BitVec 20} : KeepsRegs (execCall o) [.s 120, .s 121] :=
  slotDo_keeps fun _ s t hb r hr => by
    obtain rfl := eq_of_done hb
    exact same_spairSet (d := 120) rfl hr _ _

/-- A write of the draw counter leaves every other register. -/
theorem same_draw {r : RegId} (h : r ≠ .draw) (a : Regs) (x : DWord) : Regs.same r a { a with draw := x } := by
  cases r with
  | draw => exact absurd rfl h
  | _ => rfl

/-- A write of the limb count and the carry words leaves every other register. -/
theorem same_bind {r : RegId} (h : r ∉ [RegId.chn, .carry]) (a : Regs) (n : Nat) (c : Carries) :
    Regs.same r a { a with chn := n, carry := c } := by
  cases r with
  | chn => exact absurd (by simp) h
  | carry => exact absurd (by simp) h
  | _ => rfl

theorem execWsr_keeps {a r : BitVec 7} : KeepsRegs (execWsr a r) [.draw] :=
  slotDo_keeps fun _ s t hb x hx => by
    obtain rfl := eq_of_done hb
    exact same_draw (by simpa using hx) _ _

theorem execVrnd_keeps {d a : BitVec 7} : KeepsRegs (execVrnd d a) [.v d.toNat, .draw] :=
  slotDo_keeps fun _ s t hb r hr => by
    obtain rfl := eq_of_done hb
    simp only [List.mem_cons, List.not_mem_nil, or_false, not_or] at hr
    split
    · exact same_writeV hr.1 _ _
    · exact same_trans (same_writeV hr.1 _ _) (same_draw hr.2 _ _)

theorem tripleBase_le {d : BitVec 7} (h : tripleBase d = true) : d.toNat ≤ 125 := by
  have : d.toNat ≤ 122 := of_decide_eq_true h
  omega

theorem execMpush_keeps {d : BitVec 7} {p : BitVec 4} : KeepsRegs (execMpush d p) (rtriple d ++ maskRegs) :=
  slotDo_map_keeps (f := fun s r => (r.tripleSet d s.src.mask).maskSet (s.src.mask &&& s.src.pget p.toNat)) fun hw _ _ _ hr => by
    simp only [Bool.and_eq_true] at hw
    simp only [List.mem_append, not_or] at hr
    exact same_trans (same_tripleSet (tripleBase_le hw.1) hr.1 _ _) (same_maskSet hr.2 _ _)

theorem execMvps_keeps {d : BitVec 7} {p : BitVec 4} : KeepsRegs (execMvps d p) (rtriple d) :=
  slotDo_map_keeps (f := fun s r => r.tripleSet d (s.src.pget p.toNat)) fun hw _ _ _ hr => by
    simp only [Bool.and_eq_true, Bool.or_eq_true, beq_iff_eq] at hw
    refine same_tripleSet ?_ hr _ _
    rcases hw.1 with h | h
    · exact tripleBase_le h
    · rw [h]; decide

theorem execVbits_keeps {d : BitVec 7} {a : BitVec 4} : KeepsRegs (execVbits d a) (rtriple d) :=
  slotDo_map_keeps (f := fun s r => r.tripleSet d (s.active &&& s.src.pget a.toNat)) fun hw _ _ _ hr => by
    simp only [Bool.and_eq_true] at hw
    exact same_tripleSet (tripleBase_le hw.1) hr _ _

/-- An instruction that writes the mask alone. -/
theorem slotDo_maskSet_keeps {u : Use} {f : State → LaneMask} : KeepsRegs (slotDo u fun s => .done (s.mapRegs (·.maskSet (f s)))) maskRegs :=
  slotDo_map_keeps (f := fun s r => r.maskSet (f s)) fun _ _ _ _ hr => same_maskSet hr _ _

/-- An instruction that writes a record register. -/
theorem slotDo_kset_keeps {u : Use} {d : Nat} {f : State → BitVec 256} :
    KeepsRegs (slotDo u fun s => .done (s.mapRegs (·.kset d (f s)))) [.k d] :=
  slotDo_map_keeps (f := fun s r => r.kset d (f s)) fun _ _ _ _ hr => same_kset (by simpa using hr) _ _

/-- A vector pair written by a slot whose destination must be even. -/
theorem vBin64_keeps {f : DWord → DWord → DWord} {d a b : BitVec 7} : KeepsRegs (vBin64 f d a b) [.v d.toNat, .v (d.toNat + 1)] :=
  slotDo_writeV2_keeps fun hw => by
    simp only [Bool.and_eq_true] at hw
    exact hw.1.1

/-- A dot product writes its destination where its control word is sound. -/
theorem slotDo_checked_writeV_keeps {u : Use} {d : BitVec 7} {body : State → Eff}
    (h : ∀ s, (∃ x, body s = .trap x) ∨ ∃ x, body s = .done (s.writeV d x)) : KeepsRegs (slotDo u body) [.v d.toNat] :=
  slotDo_keeps (fun _ s t hb r hr => by
    rcases h s with ⟨x, hx⟩ | ⟨x, hx⟩ <;> rw [hx] at hb
    · rcases hb with hb | hb <;> cases hb
    · obtain rfl := eq_of_done hb
      exact same_writeV (by simpa using hr) _ _) fun s x v hb => by
    rcases h s with ⟨x, hx⟩ | ⟨x, hx⟩ <;> rw [hx] at hb <;> cases hb

theorem execFdot_keeps {a b : BitVec 5} {d c : BitVec 7} : KeepsRegs (execFdot a b d c) [.v d.toNat] :=
  slotDo_checked_writeV_keeps fun s => by
    dsimp only
    split
    · exact .inl ⟨_, rfl⟩
    · split
      · exact .inl ⟨_, rfl⟩
      · exact .inr ⟨_, rfl⟩

theorem execIdot_keeps {a b : BitVec 5} {d c : BitVec 7} : KeepsRegs (execIdot a b d c) [.v d.toNat] :=
  slotDo_checked_writeV_keeps fun s => by
    dsimp only
    split
    · exact .inl ⟨_, rfl⟩
    · exact .inr ⟨_, rfl⟩

theorem execIdotSat_keeps {a b : BitVec 5} {d c : BitVec 7} : KeepsRegs (execIdotSat a b d c) [.v d.toNat] :=
  slotDo_checked_writeV_keeps fun s => by
    dsimp only
    split
    · exact .inl ⟨_, rfl⟩
    · exact .inr ⟨_, rfl⟩

/-! ### Chains -/

/-- A chain slot leaves what its effect leaves where chains are bound (R189). -/
theorem slotDo_bound_keeps {u : Use} {f : State → Regs → Regs} {ds : List RegId} (h : ∀ s a, ∀ r ∉ ds, Regs.same r a (f s a)) :
    KeepsRegs (slotDo u fun s => bound s (.done (s.mapRegs (f s)))) ds :=
  slotDo_keeps (fun _ s t hb r hr => by
    obtain rfl := eq_of_done (bound_done hb)
    exact h s _ r hr) fun _ _ _ h => nomatch bound_trapIn h

theorem execCget_keeps {d : BitVec 7} : KeepsRegs (execCget d) [.v d.toNat] :=
  slotDo_bound_keeps (f := fun s r => r.vset d
    (mergeLanes (chainLaneMask s.src.chn s.active) (lanesOf fun l => carryAt s.src.carry (l.val / s.src.chn)) (r.vget d)))
    fun _ _ _ hr => same_vset (by simpa using hr) _ _

theorem execCgetP_keeps {p : BitVec 4} : KeepsRegs (execCgetP p) [.p p.toNat] :=
  slotDo_bound_keeps (f := fun s r => r.pset p.toNat (mergeMask (chainLaneMask s.src.chn s.active)
    (maskOf fun l => carryAt s.src.carry (l / s.src.chn) != 0) (r.pget p.toNat)))
    fun _ _ _ hr => same_pset (by simpa using hr) _ _

theorem execCcmp_keeps {c : BitVec 5} {p : BitVec 4} {a b : BitVec 7} : KeepsRegs (execCcmp c p a b) [.p p.toNat] :=
  slotDo_bound_keeps (f := fun s r => r.pset p.toNat (mergeMask (chainLaneMask s.src.chn s.active)
    (maskOf fun l => relCond (c.toNat - 8) (chainVal (s.src.vget a) s.src.chn (l / s.src.chn)) (chainVal (s.src.vget b) s.src.chn (l / s.src.chn)))
    (r.pget p.toNat)))
    fun _ _ _ hr => same_pset (by simpa using hr) _ _

theorem execCset_keeps {a : BitVec 7} : KeepsRegs (execCset a) [.carry] :=
  slotDo_keeps (fun _ s t hb r hr => by
    obtain rfl := eq_of_done (bound_done hb)
    exact same_writeCarry (by simpa using hr) _ _) fun _ _ _ h => nomatch bound_trapIn h

theorem execCmac_keeps {d a b : BitVec 7} : KeepsRegs (execCmac d a b) [.v d.toNat, .carry] :=
  slotDo_keeps (fun _ s t hb r hr => by
    have hb := bound_done hb
    split at hb
    · rcases hb with hb | hb <;> cases hb
    · obtain rfl := eq_of_done hb
      exact same_chain hr s _ _) fun _ _ _ h => by
    have h := bound_trapIn h
    split at h <;> cases h

/-- The amount of a chain shift by bits: below a limb (R197). -/
def shiftBits (_ : Nat) (w : Word) : Nat := (w.extractLsb' 0 5).toNat

/-- The amount of a chain shift by limbs: whole limbs, no more than the chain holds (R197). -/
def shiftLimbs (n : Nat) (w : Word) : Nat := 32 * min w.toNat n

/-! ### The other instructions -/

theorem execMvsp_keeps {p : BitVec 4} {a : BitVec 7} : KeepsRegs (execMvsp p a) [.p p.toNat] :=
  slotDo_map_keeps (f := fun s r => r.pset p.toNat (s.src.triple a)) fun _ _ _ _ hr => same_pset (by simpa using hr) _ _

theorem execVshflIdx_keeps {d a b : BitVec 7} : KeepsRegs (execVshflIdx d a b) [.v d.toNat] :=
  keepsRegs_of_state (f := fun t => slotDo
    { vtop := vtop [d, a, b], reads := [rv a, rv b], writes := [rv d], lane := true,
      via := some (a.toNat, shuffleLane fun l => some (laneAt (t.src.vget b) l).toNat) }
    fun s => .done (s.writeV d (shuffle (s.src.vget a) fun l => some (laneAt (s.src.vget b) l).toNat))) fun _ => slotDo_writeV_keeps

/-- A slot that binds or unbinds chains (R187, R188). -/
theorem slotDo_bind_keeps {u : Use} {n : Nat} {c : Carries} :
    KeepsRegs (slotDo u fun s => .done (s.mapRegs fun r => { r with chn := n, carry := c })) [.chn, .carry] :=
  slotDo_map_keeps (f := fun _ r => { r with chn := n, carry := c }) fun _ _ _ _ hr => same_bind hr _ _ _

theorem mIssue_keeps {threeD store : Bool} {o sc pol : BitVec 2} {k : BitVec 5} {a d : BitVec 7} :
    KeepsRegs (fun s => slotDo (mUse threeD store o sc k a d s) (mIssue threeD store o sc pol k a d) s) [] :=
  keepsRegs_of_state (f := fun s => slotDo (mUse threeD store o sc k a d s) (mIssue threeD store o sc pol k a d)) fun _ =>
    slotDo_keepsRegs (mIssue_keepsRegs threeD store o sc pol k a d)

/-- A decode fault traps with no register written (R89, R309). -/
theorem takeTrap_keeps {x : State → TrapInfo} : KeepsRegs (fun s => .next (takeTrap (x s) s)) [] := fun s t h r _ => by
  cases h
  exact same_refl _ _

theorem execPf_keeps {a l : BitVec 7} : KeepsRegs (execPf a l) [] :=
  slotDo_keepsRegs fun s => by
    show (if l = 0 then s.prefetch (s.src.addrPair a) else s).w.regs = s.w.regs
    split
    · rw [State.prefetch_w]
    · rfl

/-- A warp that a flag chooses has the registers that both choices have. -/
theorem Warp.ite_regs {p : Prop} [Decidable p] {v w : Warp} {r : Regs} (hv : v.regs = r) (hw : w.regs = r) :
    (if p then v else w).regs = r := by
  split
  · exact hv
  · exact hw

theorem execQfence_keeps {q : BitVec 3} : KeepsRegs (execQfence q) [] :=
  slotDo_keepsRegs fun s => by
    have copies {x : List CopyItem} : (if q.getLsbD 0 then { s.w with copyQ := x } else s.w).regs = s.w.regs := Warp.ite_regs rfl rfl
    have tiles {w : Warp} {y : List TileEntry} (hw : w.regs = s.w.regs) :
        (if q.getLsbD 1 then { w with tileQ := y } else w).regs = s.w.regs := Warp.ite_regs hw hw
    exact Warp.ite_regs (tiles copies) (tiles copies)

theorem execCpy32_keeps {t : BitVec 3} {k : BitVec 5} {a b : BitVec 7} : KeepsRegs (execCpy32 t k a b) [] :=
  slotDo_keepsRegs fun s => .ite trivial (by
    dsimp only
    split
    · trivial
    · rfl)

/-- A stage that may start at once leaves the registers, as one that waits does. -/
theorem State.nextStage_getD_regs (s : State) : (s.nextStage.getD s).w.regs = s.w.regs := by
  cases h : s.nextStage with
  | none => rfl
  | some t => exact State.nextStage_regs h

theorem execStage_keeps {a b : BitVec 7} : KeepsRegs (execStage a b) [] :=
  slotDo_keepsRegs fun s => .ite trivial (by
    dsimp only
    split
    · rfl
    · exact State.nextStage_getD_regs _)

/-! ### The instructions whose effect writes no register, one by one -/

theorem execMbAwait_keeps {a b : BitVec 7} : KeepsRegs (execMbAwait a b) [] := slotDo_keepsRegs fun s => .ite trivial (s.watch_keepsRegs ..)

theorem execWaitge_keeps {a b : BitVec 7} : KeepsRegs (execWaitge a b) [] := slotDo_keepsRegs fun s => .ite trivial (s.watch_keepsRegs ..)

theorem execNop_keeps : KeepsRegs execNop [] := slotDo_keepsRegs fun _ => rfl

theorem execExit_keeps : KeepsRegs execExit [] := slotDo_keepsRegs fun _ => rfl

theorem execYield_keeps : KeepsRegs execYield [] := slotDo_keepsRegs fun _ => rfl

theorem execIpfInv_keeps : KeepsRegs execIpfInv [] := slotDo_keepsRegs fun _ => rfl

theorem execBr_keeps {o : BitVec 20} : KeepsRegs (execBr o) [] := slotDo_keepsRegs fun _ => rfl

theorem execRfence_keeps : KeepsRegs execRfence [] := slotDo_keepsRegs fun _ => rfl

theorem execFlush_keeps {a b : BitVec 7} : KeepsRegs (execFlush a b) [] := slotDo_keepsRegs fun _ => rfl

theorem execInval_keeps {a b : BitVec 7} : KeepsRegs (execInval a b) [] := slotDo_keepsRegs fun _ => rfl

theorem execTrap_keeps {n : BitVec 7} : KeepsRegs (execTrap n) [] := slotDo_keepsRegs fun _ => trivial

theorem execBrk_keeps {n : BitVec 7} : KeepsRegs (execBrk n) [] := slotDo_keepsRegs fun _ => trivial

theorem execSleep_keeps {n : BitVec 7} : KeepsRegs (execSleep n) [] := slotDo_keepsRegs fun _ => .ite rfl rfl

theorem execFence_keeps {k : BitVec 7} : KeepsRegs (execFence k) [] := slotDo_keepsRegs fun _ => .ite rfl rfl

theorem execIpf_keeps {m i : BitVec 7} : KeepsRegs (execIpf m i) [] := slotDo_keepsRegs fun s => congrArg Warp.regs (s.prefetchLines_w ..)

theorem execLdrec_keeps {k : BitVec 5} {a : BitVec 7} : KeepsRegs (execLdrec k a) [] := slotDo_keepsRegs fun _ => .ite trivial rfl

theorem execStrec_keeps {a : BitVec 7} {k : BitVec 5} : KeepsRegs (execStrec a k) [] := slotDo_keepsRegs fun _ => .ite trivial rfl

theorem execGbBytes_keeps {a b : BitVec 7} : KeepsRegs (execGbBytes a b) [] := slotDo_keepsRegs fun _ => .ite trivial rfl

theorem execGbMembers_keeps {a b : BitVec 7} : KeepsRegs (execGbMembers a b) [] := slotDo_keepsRegs fun _ => .ite trivial rfl

theorem execColl_keeps {a : BitVec 7} : KeepsRegs (execColl a) [] := slotDo_keepsRegs fun _ => .ite trivial rfl

theorem execNemit_keeps {n v : BitVec 7} : KeepsRegs (execNemit n v) [] := slotDo_keepsRegs fun _ => .ite trivial rfl

theorem execGbAwait_keeps {b : BitVec 7} : KeepsRegs (execGbAwait b) [] := slotDo_keepsRegs fun _ => .ite trivial rfl

theorem execGbAwaitPar_keeps {q : BitVec 1} {b : BitVec 7} : KeepsRegs (execGbAwaitPar q b) [] := slotDo_keepsRegs fun _ => .ite trivial rfl

theorem execMcommit_keeps : KeepsRegs execMcommit [] := slotDo_keepsRegs fun _ => .ite trivial rfl

theorem execGbPost_keeps {b : BitVec 7} : KeepsRegs (execGbPost b) [] := slotDo_keepsRegs fun _ => .ite trivial (.ite trivial rfl)

theorem execGbMeet_keeps {b : BitVec 7} : KeepsRegs (execGbMeet b) [] :=
  slotDo_keepsRegs fun _ => .ite (.ite rfl rfl) (.ite trivial (.ite rfl rfl))

theorem execMwait_keeps {n : BitVec 7} : KeepsRegs (execMwait n) [] := slotDo_keepsRegs fun _ => .ite rfl trivial

theorem execTzero_keeps {w : BitVec 4} {p : BitVec 7} : KeepsRegs (execTzero w p) [] := moveDo_keeps

theorem execTld_keeps {f w : BitVec 4} {v p : BitVec 7} : KeepsRegs (execTld f w v p) [] := moveDo_keeps

theorem execTst_keeps {f w : BitVec 4} {v p : BitVec 7} : KeepsRegs (execTst f w v p) [] := moveDo_keeps

theorem execTget_keeps {m : BitVec 4} {v p : BitVec 7} : KeepsRegs (execTget m v p) [] := moveDo_keeps

theorem execTfill_keeps {m : BitVec 4} {v p : BitVec 7} : KeepsRegs (execTfill m v p) [] := moveDo_keeps

/-- Every instruction word leaves every register but its results, by its operand form (R79, R87). -/
theorem exec_keepsRegs (i : Instr) (h : (encode i).isSome = true) : KeepsRegs (exec i) i.results := by
  cases i with
  | sadd | ssub | smul | smulhiS32 | smulhiU32 | sand | sor | sxor | sandn | sshl | sshr | ssra | sminS32 | smaxS32 | sminU32 | smaxU32
  | sbfxU32 | sbfxS32 | saddI | ssubI | smulI | smulhiS32I | smulhiU32I | sandI | sorI | sxorI | sandnI | sshlI | sshrI | ssraI
  | sminS32I | smaxS32I | sminU32I | smaxU32I | smov | spopc | sclz | sctz | sbrev | sli | sbfi | rdstage => exact slotDo_writeS_keeps
  | sadd64 | ssub64 => exact sBin64_keeps
  | rsr => exact execRsr_keeps
  | wsr => exact execWsr_keeps
  | scmp | scmpI | cand | cor | cxor | candn | vsome | vevery => exact slotDo_cset_keeps
  | bc | bnc | bany | ball | bnone =>
    refine slotDo_keepsRegs fun _ => ?_
    exact .ite rfl rfl
  | call => exact execCall_keeps
  | jmp | ret => exact slotDo_keepsRegs (indirect_keepsRegs _)
  | waitc | waitcI =>
    refine slotDo_keepsRegs fun s => ?_
    exact waitPath_keepsRegs _ _ s
  | mpush => exact execMpush_keeps
  | mflip | mpop => exact slotDo_maskSet_keeps
  | mvps => exact execMvps_keeps
  | vbits => exact execVbits_keeps
  | mvsp => exact execMvsp_keeps
  | vaddS32 | vsubS32 | vaddSatS32 | vaddSatU32 | vsubSatS32 | vsubSatU32 | vminS32 | vmaxS32 | vminU32 | vmaxU32 | vshl | vshr | vsra
  | vabsdS32 | vmulLo | vmulhiS32 | vmulhiU32 | vand | vor | vxor | vandn | vbfxU32 | vbfxS32 | fadd | fsub | fmul | fmin | fmax
  | fcopysign | haddF16x2 | hmulF16x2 | hminF16x2 | haddBf16x2 | hmulBf16x2 | hminBf16x2 | vaddS32S | vsubS32S | vaddSatS32S
  | vaddSatU32S | vsubSatS32S | vsubSatU32S | vminS32S | vmaxS32S | vminU32S | vmaxU32S | vshlS | vshrS | vsraS | vabsdS32S | faddS
  | fmulS | fminS | fmaxS | vaddS32I | vsubS32I | vaddSatS32I | vaddSatU32I | vsubSatS32I | vsubSatU32I | vminS32I | vmaxS32I | vminU32I
  | vmaxU32I | vshlI | vshrI | vsraI | vabsdS32I | faddI | fmulI | fminI | fmaxI | vmadLo | vmadSatS32 | vbfi | vfshl | vfshr | ffma
  | ffms | ffnma | ffnms | hfmaF16x2 | hfmaBf16x2 | ffmaS | ffmsS | ffnmaS | ffnmsS | vnot | vpopc | vclz | vbrev | vsatS8S32
  | vsatU8S32 | vsatS16S32 | vsatU16S32 | fabs | fneg | vrcp | vrsq | vsqrt | vexp2 | vlog2 | vsinpi | vcospi | vtanh | vsext8 | vzext8
  | vsext16 | vzext16 | vredAddS32 | vredMinS32 | vredMaxS32 | vredAddF32 | vredMinF32 | vredMaxF32 | vscanAddS32 | vscanxAddS32
  | vscanAddF32 | vredAnd | vredOr | vredXor | vmatch | vrank | vargmaxF32 | vargmaxS32 | vshflUp | vshflDown | vshflXor | vbcast | vsel
  | vsatS32S64 | vcvtWiden | vcvtNarrow | visect | vtopk | vlid => exact slotDo_writeV_keeps
  | vshflIdx => exact execVshflIdx_keeps
  | vadd64 | vsub64 => exact vBin64_keeps
  | vmulWideS32 | vmulWideU32 => exact slotDo_writeV2_keeps id
  | vcmp | vcmpF32 | pand | por | pxor | pandn | pnot | pmov | pset | pclr | vlead => exact slotDo_writeP_keeps
  | fdot => exact execFdot_keeps
  | idot => exact execIdot_keeps
  | idotSat => exact execIdotSat_keeps
  | vrnd => exact execVrnd_keeps
  | cbind | cunbind => exact slotDo_bind_keeps
  | cget => exact execCget_keeps
  | cgetP => exact execCgetP_keeps
  | cset => exact execCset_keeps
  | ccmp => exact execCcmp_keeps
  | cmac => exact execCmac_keeps
  | cadd | cadc | csub | csbb | caddSat | cadcSat | csubSat | csbbSat => exact chainBin_keeps
  | cshl => exact chainShift_keeps (left := true) (am := shiftBits)
  | cshr => exact chainShift_keeps (left := false) (am := shiftBits)
  | cshlw => exact chainShift_keeps (left := true) (am := shiftLimbs)
  | cshrw => exact chainShift_keeps (left := false) (am := shiftLimbs)
  | mkrec | kmov => exact slotDo_kset_keeps
  | ld | st => exact mIssue_keeps
  | cld | cst =>
    refine slotDo_keepsRegs fun _ => ?_
    exact cIssue_keepsRegs ..
  | atomAdd | atomMin | atomMax | atomAnd | atomOr | atomXor | atomExch | atomCas | redAdd | redMin | redMax | redAnd | redOr | redXor =>
    exact gAtom_keeps
  | sldU8 | sldS8 | sldU16 | sldS16 | sldB32 | sldB64 | sstB8 | sstB16 | sstB32 | sstB64 | satomAdd | satomMinS32 | satomMaxS32
  | satomMinU32 | satomMaxU32 | satomAnd | satomOr | satomXor | satomExch | satomCas => exact scratchDo_keeps
  | mbArm | mbPost | mbBytes =>
    refine slotDo_keepsRegs fun _ => ?_
    exact mbIssue_keepsRegs ..
  | mma | mmaSat => exact mmaDo_keeps
  | illOp | futureOp => exact takeTrap_keeps
  | pf => exact execPf_keeps
  | mbAwait => exact execMbAwait_keeps
  | waitge => exact execWaitge_keeps
  | nop => exact execNop_keeps
  | exit => exact execExit_keeps
  | yield => exact execYield_keeps
  | ipfInv => exact execIpfInv_keeps
  | br => exact execBr_keeps
  | rfence => exact execRfence_keeps
  | flush => exact execFlush_keeps
  | inval => exact execInval_keeps
  | trap => exact execTrap_keeps
  | brk => exact execBrk_keeps
  | sleep => exact execSleep_keeps
  | fence => exact execFence_keeps
  | ipf => exact execIpf_keeps
  | ldrec => exact execLdrec_keeps
  | strec => exact execStrec_keeps
  | gbBytes => exact execGbBytes_keeps
  | gbMembers => exact execGbMembers_keeps
  | coll => exact execColl_keeps
  | nemit => exact execNemit_keeps
  | gbAwait => exact execGbAwait_keeps
  | gbAwaitPar => exact execGbAwaitPar_keeps
  | mcommit => exact execMcommit_keeps
  | gbPost => exact execGbPost_keeps
  | gbMeet => exact execGbMeet_keeps
  | mwait => exact execMwait_keeps
  | tzero => exact execTzero_keeps
  | tld => exact execTld_keeps
  | tst => exact execTst_keeps
  | tget => exact execTget_keeps
  | tfill => exact execTfill_keeps
  | qfence => exact execQfence_keeps
  | cpy32 => exact execCpy32_keeps
  | stage => exact execStage_keeps
  | _ => exact absurd h Bool.false_ne_true

/-- Settles O57: each operand form leaves every register but the ones that its words list. -/
theorem registersKept : Obligations.RegistersKept := fun i s t hi => exec_keepsRegs i hi s t

end Sys2Proof.Machine
end

section
/-!
SCALAR AND CONTROL FORMS. Immediates, branches, transfers, waits and hints, and the instructions that trap (05_scalar.md R123,
R129..R131, R136..R141).
-/
namespace Sys2Proof.Machine

/-! ### Immediates (R86, R123) -/

/-- An immediate form of the scalar arithmetic, the function of its slot said otherwise. -/
theorem sBinI_retires_as {i : Instr} {f g : Word → Word → Word} {d a n : BitVec 7} {s : State} (hfg : ∀ x y, f x y = g x y)
    (h : exec i s = sBinI f d a n s) :
    Retires i { imm := some n, reads := [.s a.toNat], writes := [.s d.toNat] } s
      (s.mapRegs (·.sset d (g (s.src.sget a) (immVal n s.iss.lits)))) := by
  obtain rfl : f = g := funext fun x => funext (hfg x)
  exact sBinI_retires h

/-- A field that asks for no literal is its own 7 bits, sign-extended (R86). -/
theorem immVal_of_not_escape {f : BitVec 7} (lits : List Word) (h1 : f.toNat ≠ 64) (h2 : f.toNat ≠ 65) :
    immVal f lits = f.signExtend 32 := by
  have ne {n : BitVec 7} (h : f.toNat ≠ n.toNat) : (f == n) = false := beq_false_of_ne fun e => h (congrArg BitVec.toNat e)
  unfold immVal
  rw [ne (n := 0x40#7) h1, ne (n := 0x41#7) h2]
  rfl

theorem immVal_small {f : BitVec 7} (lits : List Word) (h : f.toNat ≤ 63) : immVal f lits = BitVec.ofNat 32 f.toNat := by
  have hm : f.msb = false := by rw [BitVec.msb_eq_decide, decide_eq_false_iff_not]; omega
  rw [immVal_of_not_escape lits (by omega) (by omega), BitVec.signExtend_eq_setWidth_of_msb_false hm, BitVec.ofNat_toNat]

theorem immVal_negative {f : BitVec 7} (lits : List Word) (h : 66 ≤ f.toNat) : immVal f lits = BitVec.ofInt 32 (f.toNat - 128) := by
  have := f.isLt
  rw [immVal_of_not_escape lits (by omega) (by omega)]
  apply BitVec.eq_of_toInt_eq
  rw [BitVec.toInt_signExtend_of_le (by decide), BitVec.toInt_ofInt, BitVec.toInt_eq_toNat_cond, if_neg (by omega),
    Int.bmod_eq_of_le (by omega) (by omega)]
  rfl

/-- Settles O2: each of the 16 forms is sBinI of its function; an immediate field is taken by its 7 bits. -/
theorem scalarImmediateForms : Obligations.ScalarImmediateForms := by
  unfold Obligations.ScalarImmediateForms
  refine ⟨?forms, fun f lits => ⟨immVal_small lits, ?first, ?second, immVal_negative lits⟩⟩
  case forms =>
    simp only [List.forall_mem_cons]
    refine ⟨fun _ _ _ _ => sBinI_retires (f := (· + ·)) rfl,
      fun _ _ _ _ => sBinI_retires (f := (· - ·)) rfl,
      fun _ _ _ _ => sBinI_retires (f := (· * ·)) rfl,
      fun d a n s => (sBinI_retires_as (i := .smulhiS32I d a n) (s := s) mulHiS_eq rfl :),
      fun d a n s => (sBinI_retires_as (i := .smulhiU32I d a n) (s := s) mulHiU_eq rfl :),
      fun _ _ _ _ => sBinI_retires (f := (· &&& ·)) rfl,
      fun _ _ _ _ => sBinI_retires (f := (· ||| ·)) rfl,
      fun _ _ _ _ => sBinI_retires (f := (· ^^^ ·)) rfl,
      fun _ _ _ _ => sBinI_retires (f := andNot) rfl,
      fun _ _ _ _ => sBinI_retires (f := shl) rfl,
      fun _ _ _ _ => sBinI_retires (f := shr) rfl,
      fun d a n s => (sBinI_retires_as (i := .ssraI d a n) (s := s) sra_eq rfl :),
      fun d a n s => (sBinI_retires_as (i := .sminS32I d a n) (s := s) minS_eq rfl :),
      fun d a n s => (sBinI_retires_as (i := .smaxS32I d a n) (s := s) maxS_eq rfl :),
      fun d a n s => (sBinI_retires_as (i := .sminU32I d a n) (s := s) minU_eq rfl :),
      fun d a n s => (sBinI_retires_as (i := .smaxU32I d a n) (s := s) maxU_eq rfl :),
      fun _ h => nomatch h⟩
  case first => rintro rfl; rfl
  case second => rintro rfl; rfl

/-! ### Branches and transfers (R129..R131) -/

theorem State.packetAddr_eq (s : State) : s.packetAddr = s.iss.at_ / 16 * 16 := by
  unfold State.packetAddr
  omega

theorem Regs.addrPair_eq (r : Regs) (a : BitVec 7) : r.addrPair a = (r.spair a).toNat % 2 ^ 48 := by
  simp [Regs.addrPair]

/-- A conditional branch goes to its target where its condition holds, and that it has been taken is kept (R129). -/
theorem condBranch_taken {i : Instr} {reads : List RegId} {cond : Regs → Bool} {o : BitVec 20} {s : State}
    (h : exec i s = condBranch true reads cond o s) (hc : cond s.src = true) :
    Retires i { reads := reads } s
      { s with w := { s.w with pc := (((s.iss.at_ / 16 * 16 : Nat) + 16 * o.toInt) % 2 ^ 48).toNat + 4, packet := none },
               iss := { s.iss with taken := true } } :=
  retires_slot h (by rw [if_pos hc, ← s.packetAddr_eq]; rfl)

/-- A conditional branch whose condition does not hold changes nothing (R129). -/
theorem condBranch_passed {i : Instr} {reads : List RegId} {cond : Regs → Bool} {o : BitVec 20} {s : State}
    (h : exec i s = condBranch true reads cond o s) (hc : cond s.src = false) : Retires i { reads := reads } s s :=
  retires_slot h (if_neg (by simp [hc]))

/-- Settles O6: each branch by whether its condition holds. That a taken one is kept in the issue stage is the model's choice (log 9). -/
theorem conditionalBranches : Obligations.ConditionalBranches := by
  intro o s target went
  refine ⟨fun c => ?bc, fun c => ?bnc, ?bany, ?ball, ?bnone⟩
  case bc =>
    split
    · next h => exact condBranch_taken (cond := (·.cget c.toNat)) rfl h
    · next h => exact condBranch_passed (cond := (·.cget c.toNat)) rfl (eq_false_of_ne_true h)
  case bnc =>
    split
    · next h => exact condBranch_passed (cond := (!·.cget c.toNat)) rfl (by simp [h])
    · next h => exact condBranch_taken (cond := (!·.cget c.toNat)) rfl (by simp [h])
  case bany =>
    split
    · next h => exact condBranch_passed (cond := (maskAny ·.mask)) rfl (by simp [maskAny, h])
    · next h => exact condBranch_taken (cond := (maskAny ·.mask)) rfl (bne_iff_ne.mpr h)
  case ball =>
    split
    · next h => exact condBranch_taken (cond := (maskAll ·.mask)) rfl (beq_iff_eq.mpr h)
    · next h => exact condBranch_passed (cond := (maskAll ·.mask)) rfl (beq_false_of_ne h)
  case bnone =>
    split
    · next h => exact condBranch_taken (cond := (!maskAny ·.mask)) rfl (by simp [maskAny, h])
    · next h => exact condBranch_passed (cond := (!maskAny ·.mask)) rfl (congrArg not (bne_iff_ne.mpr h))

/-- A transfer to the address of a pair that is a multiple of 16 (R130, R131). -/
theorem indirect_retires {i : Instr} {u : Use} {a : BitVec 7} {s : State} (h : exec i s = slotDo u (indirect a) s)
    (ha : (s.src.spair a).toNat % 2 ^ 48 % 16 = 0) :
    Retires i u s { s with w := { s.w with pc := (s.src.spair a).toNat % 2 ^ 48 + 4, packet := none } } :=
  retires_slot h (by rw [indirect, Regs.addrPair_eq, if_pos ha]; rfl)

/-- A transfer to any other address is MISALIGN (R131). -/
theorem indirect_traps {i : Instr} {u : Use} {a : BitVec 7} {s : State} (h : exec i s = slotDo u (indirect a) s)
    (ha : (s.src.spair a).toNat % 2 ^ 48 % 16 ≠ 0) : Traps i u s (s.trapOf .misalign) :=
  traps_slot h (by rw [indirect, Regs.addrPair_eq, if_neg ha])

/-- Settles O7: the direct transfers by their target, jmp and ret by the alignment of their pair. -/
theorem transfers : Obligations.Transfers := by
  refine ⟨fun o s => ⟨?br, ?call⟩, fun a s => ⟨fun h => ?jmp, fun h => ?jmpOff⟩, fun s => ⟨fun h => ?ret, fun h => ?retOff⟩⟩
  case br => exact retires_slot rfl (by rw [← s.packetAddr_eq])
  case call => exact retires_slot rfl (by rw [← s.packetAddr_eq])
  case jmp => exact indirect_retires rfl h
  case jmpOff => exact indirect_traps rfl h
  case ret => exact indirect_retires rfl h
  case retOff => exact indirect_traps rfl h

/-! ### The instructions that trap (R139) -/

/-- Settles O11: the effect of trap and brk is their trap, and a decode fault is taken before any check. -/
theorem trapInstructions : Obligations.TrapInstructions :=
  ⟨fun _ _ => ⟨traps_of rfl, traps_of rfl⟩, fun _ => rfl, fun _ _ => rfl, fun _ _ => rfl⟩

/-! ### Waits and hints (R136..R141) -/

/-- A wait counts the entries of its path that the set before it left (R136). -/
theorem waitPath_eq (p t : Nat) (s : State) :
    waitPath p t s =
      if (s.w.entries.filter fun e => e.path == p && decide (e.seq < s.iss.back.seq0)).length ≤ t then .done s else .wait := by
  simp only [waitPath, Warp.onPath, List.countP_eq_length_filter, List.filter_filter, Bool.and_comm]

/-- The two forms of waitc name a path in the same way (R136). -/
theorem waitPath_field (p : BitVec 4) : (!(p == 6 || p == 7)) = (decide (p ≠ 6) && decide (p ≠ 7)) := by
  rw [Bool.not_or, decide_not, decide_not]
  rfl

theorem exec_waitc (p : BitVec 4) (b : BitVec 7) (s : State) :
    exec (.waitc p b) s = slotDo { wf := decide (p ≠ 6) && decide (p ≠ 7), reads := [.s b.toNat] }
      (fun s => waitPath p.toNat (s.src.sget b).toNat s) s := by
  rw [← waitPath_field]
  rfl

theorem exec_waitcI (p : BitVec 4) (b : BitVec 7) (s : State) :
    exec (.waitcI p b) s = slotDo { wf := decide (p ≠ 6) && decide (p ≠ 7), imm := some b }
      (fun s => waitPath p.toNat (immVal b s.iss.lits).toNat s) s := by
  rw [← waitPath_field]
  rfl

/-- A line that the core holds or is filling is left alone (R140). -/
theorem State.prefetchLines_there (s : State) {core ctx va : Nat} (rest : List Nat)
    (h : (∃ l ∈ (s.coreAt core).icache, l.ctx = ctx ∧ l.va = va) ∨ (ctx, va) ∈ (s.coreAt core).ifills) :
    s.prefetchLines core ctx (va :: rest) = s.prefetchLines core ctx rest :=
  if_pos (by simpa using h)

/-- A line that the core neither holds nor is filling starts its fill where its page is executable (R140). -/
theorem State.prefetchLines_found (s : State) {u : State} {core ctx va pa : Nat} {t : Tlb} (rest : List Nat)
    (h : ¬((∃ l ∈ (s.coreAt core).icache, l.ctx = ctx ∧ l.va = va) ∨ (ctx, va) ∈ (s.coreAt core).ifills))
    (ht : s.translate core ctx va false = (.ok pa t, u)) (hx : t.x = true) :
    s.prefetchLines core ctx (va :: rest) = (u.updCore core fun k => k.startFills ctx [va]).prefetchLines core ctx rest := by
  rw [State.prefetchLines, if_neg (by simpa using h), ht]
  exact congrArg (State.prefetchLines · core ctx rest) (if_pos hx)

/-- One at an address that is refused is dropped (R140). -/
theorem State.prefetchLines_refused (s : State) {u : State} {core ctx va : Nat} (rest : List Nat)
    (h : ¬((∃ l ∈ (s.coreAt core).icache, l.ctx = ctx ∧ l.va = va) ∨ (ctx, va) ∈ (s.coreAt core).ifills))
    (ht : s.translate core ctx va false = (.fail .addrFault, u)) :
    s.prefetchLines core ctx (va :: rest) = s.prefetchLines core ctx rest := by
  rw [State.prefetchLines, if_neg (by simpa using h), ht]

/-- Settles O10: each form by its effect, and the prefetch of a list of lines by its first. -/
theorem waitsAndHints : Obligations.WaitsAndHints := by
  refine ⟨fun s => retires_of rfl, fun s => retires_of rfl, fun s => retires_of rfl, fun n s => ?sleep, fun p b s => ?waitc,
    fun m i s => ?ipf, fun s _ _ _ _ rest _ _ => ?lines, fun s => retires_of rfl⟩
  case sleep =>
    refine retires_slot (show exec (.sleep n) s = execSleep n s from rfl) ?_
    dsimp only
    split <;> rfl
  case waitc =>
    exact ⟨fun h => retires_slot (exec_waitc p b s) (by rw [waitPath_eq, if_pos h]),
      fun h => stalls_wait (exec_waitc p b s) (by rw [waitPath_eq, if_neg (Nat.not_le.mpr h)]),
      fun h => retires_slot (exec_waitcI p b s) (by rw [waitPath_eq, if_pos h]),
      fun h => stalls_wait (exec_waitcI p b s) (by rw [waitPath_eq, if_neg (Nat.not_le.mpr h)])⟩
  case ipf =>
    refine retires_slot (show exec (.ipf m i) s = execIpf m i s from rfl) ?_
    rw [State.ipfLines, s.packetAddr_eq]
  case lines =>
    exact ⟨rfl, s.prefetchLines_there rest, fun h ht hx => s.prefetchLines_found rest h ht hx, fun h ht => s.prefetchLines_refused rest h ht⟩

end Sys2Proof.Machine
end

section
/-!
CONVERSIONS AND DOT PRODUCTS. What each form leaves, and the control words that it turns away (07_lane_float.md R167..R172).
-/
namespace Sys2Proof.Machine

/-- A register written from a function of the lane, in the active lanes. -/
theorem State.writeV_lanesOf (s : State) (d : BitVec 7) (f : Fin 96 → Word) : s.writeV d (lanesOf f) = s.putLanes d f := by
  simp [State.putLanes, State.writeV, mergeLanes, lanesOf, Lanes.tab]

theorem idotWordOk_iff {w : Word} : idotWordOk w = true ↔ w &&& 0xFFFFF8FF#32 = 0 := beq_iff_eq

/-- fdot retires under a control word whose formats are defined and whose reserved bits are clear (R170, R171). -/
theorem fdot_retires {a b : BitVec 5} {d c : BitVec 7} {s : State} {fa fb : Fmt}
    (hf : fdotFormats ((s.src.sget c).extractLsb' 8 3).toNat = some (fa, fb)) (hw : s.src.sget c &&& 0xFFFFC800#32 = 0) :
    Retires (.fdot a b d c) (dotUse true a b d c) s
      (s.putLanes d fun l => fdotLane fa fb (s.src.sget c) (s.src.quad a l) (s.src.quad b l) (s.src.vget d)[l]) := by
  refine retires_slot (show exec (.fdot a b d c) s = execFdot a b d c s from rfl) ?_
  simp only [hf, hw, bne_self_eq_false, Bool.false_eq_true, if_false, State.writeV_lanesOf]

/-- fdot raises ILL_OP under any other control word (R170). -/
theorem fdot_traps {a b : BitVec 5} {d c : BitVec 7} {s : State}
    (h : fdotFormats ((s.src.sget c).extractLsb' 8 3).toNat = none ∨ s.src.sget c &&& 0xFFFFC800#32 ≠ 0) :
    Traps (.fdot a b d c) (dotUse true a b d c) s (s.trapOf .illOp) := by
  refine traps_slot (show exec (.fdot a b d c) s = execFdot a b d c s from rfl) ?_
  dsimp only
  split
  · rfl
  · next hf => exact if_pos (bne_iff_ne.mpr (h.resolve_left (hf ▸ Option.some_ne_none _)))

/-- Settles O17: the conversions lane by lane, the dot products by whether their control word is sound. -/
theorem conversionAndDotForms : Obligations.ConversionAndDotForms := by
  refine ⟨fun w o r e d a s => ⟨?widen, ?narrow⟩, fun a b d c s => ⟨fun fa fb => fdot_retires, fdot_traps, fun h => ⟨?idot, ?idotSat⟩,
    fun h => ⟨?idotBad, ?idotSatBad⟩⟩⟩
  case widen => exact retires_slot (show _ = execVcvtWiden w o r e d a s from rfl) (congrArg Eff.done (s.writeV_lanesOf ..))
  case narrow => exact retires_slot (show _ = execVcvtNarrow w o r e d a s from rfl) (congrArg Eff.done (s.writeV_lanesOf ..))
  case idot =>
    refine retires_slot (show exec (.idot a b d c) s = execIdot a b d c s from rfl) ?_
    simp only [idotWordOk_iff.mpr h, Bool.not_true, Bool.false_eq_true, if_false, State.writeV_lanesOf]
  case idotSat =>
    refine retires_slot (show exec (.idotSat a b d c) s = execIdotSat a b d c s from rfl) ?_
    simp only [idotWordOk_iff.mpr h, Bool.not_true, Bool.false_eq_true, if_false, State.writeV_lanesOf, satS32_eq]
  case idotBad =>
    refine traps_slot (show exec (.idot a b d c) s = execIdot a b d c s from rfl) (if_pos ?_)
    simp only [eq_false_of_ne_true (mt idotWordOk_iff.mp h), Bool.not_false]
  case idotSatBad =>
    refine traps_slot (show exec (.idotSat a b d c) s = execIdotSat a b d c s from rfl) (if_pos ?_)
    simp only [eq_false_of_ne_true (mt idotWordOk_iff.mp h), Bool.not_false]

end Sys2Proof.Machine
end

section
/-!
GLOBAL ATOMICS AT ISSUE. The checks of the record, of the operand registers and of the lanes' addresses, in their order, and the entry
(10_buffer.md R205, R207, R217, R221, R223).
-/
namespace Sys2Proof.Machine

/-! ### The checks of the record and of the operand registers (R217) -/

theorem regChecks_unusable {s : State} {d : BitVec 7} {n : Nat} {e : Eff} :
    regChecks s false d n e = .trap (s.trapOf .badRecord) := rfl

theorem regChecks_unaligned {s : State} {d : BitVec 7} {n : Nat} {e : Eff} (h : d.toNat % n ≠ 0) :
    regChecks s true d n e = .trap (s.trapOf .illOp) := if_pos (bne_iff_ne.mpr h)

theorem regChecks_beyond {s : State} {d : BitVec 7} {n : Nat} {e : Eff} (h : d.toNat % n = 0) (hr : s.w.nregs < d.toNat + n) :
    regChecks s true d n e = .trap (s.trapOf .regRange) := by
  rw [regChecks, if_neg (by decide), if_neg (by simp [h]), if_pos hr]

theorem regChecks_pass {s : State} {d : BitVec 7} {n : Nat} {e : Eff} (h : d.toNat % n = 0) (hr : d.toNat + n ≤ s.w.nregs) :
    regChecks s true d n e = e := by
  rw [regChecks, if_neg (by decide), if_neg (by simp [h]), if_neg (Nat.not_lt.mpr hr)]

/-- The registers of an atomic's operand: those of an element, twice as many for cas (R223). -/
theorem atomRegs_eq (op : AtomKind) (kr : BitVec 256) :
    atomRegs op kr = if op = .cas then 2 * fmtRegs (recFmt kr) else fmtRegs (recFmt kr) := by
  unfold atomRegs
  split <;> omega

/-! ### The effect of an atomic (R205, R223) -/

section
variable {op : AtomKind} {ret : Bool} {o : BitVec 3} {k : BitVec 5} {a d : BitVec 7} {s : State}

theorem aIssue_badRecord (h : atomUsable (s.recOf k) = false) : aIssue op ret o k a d s = .trap (s.trapOf .badRecord) := by
  unfold aIssue
  dsimp only
  rw [h, regChecks_unusable]

theorem aIssue_unaligned (h : atomUsable (s.recOf k) = true) (hd : d.toNat % atomRegs op (s.recOf k) ≠ 0) :
    aIssue op ret o k a d s = .trap (s.trapOf .illOp) := by
  unfold aIssue
  dsimp only
  rw [h, regChecks_unaligned hd]

theorem aIssue_beyond (h : atomUsable (s.recOf k) = true) (hd : d.toNat % atomRegs op (s.recOf k) = 0)
    (hr : s.w.nregs < d.toNat + atomRegs op (s.recOf k)) : aIssue op ret o k a d s = .trap (s.trapOf .regRange) := by
  unfold aIssue
  dsimp only
  rw [h, regChecks_beyond hd hr]

theorem aIssue_laneTrap {cause : Cause} {lanes : LaneMask} {va : Nat} (h : atomUsable (s.recOf k) = true)
    (hd : d.toNat % atomRegs op (s.recOf k) = 0) (hr : d.toNat + atomRegs op (s.recOf k) ≤ s.w.nregs)
    (hl : FirstFails [.bounds, .addrFault, .misalign] s.active
      (fun l => (laneAddr (s.recOf k) (laneOffset s.src (s.recOf k) false (fmtSize (recFmt (s.recOf k))) a l)
        (fmtSize (recFmt (s.recOf k)))).failure) cause lanes va) :
    aIssue op ret o k a d s = .trap { s.trapOf cause with mask := lanes, addr := some va } := by
  unfold aIssue
  dsimp only
  rw [h, regChecks_pass hd hr, splitLanes_first _ hl]

/-- An atomic whose active lanes have an address or are dropped enters one entry, and holds the warp where it is ordered and returns. -/
theorem aIssue_enters {place : Nat → Option Nat} (h : atomUsable (s.recOf k) = true) (hd : d.toNat % atomRegs op (s.recOf k) = 0)
    (hr : d.toNat + atomRegs op (s.recOf k) ≤ s.w.nregs)
    (hl : ∀ l ∈ lanesIn s.active,
      laneAddr (s.recOf k) (laneOffset s.src (s.recOf k) false (fmtSize (recFmt (s.recOf k))) a l) (fmtSize (recFmt (s.recOf k))) =
        match place l with | some x => .ok x | none => .drop) :
    aIssue op ret o k a d s = .done
      ((s.enqueue { s.entryOf 4 (.atom op (fmtSigned (recFmt (s.recOf k))) (fmtSize (recFmt (s.recOf k))) ret) d.toNat
          ((lanesIn s.active).map fun l => { lane := l, va := (place l).getD 0, drop := (place l).isNone,
                                             data := atomData s.src op d.toNat (fmtRegs (recFmt (s.recOf k))) l, len := 0 })
          (if ret then rvrun d.toNat (fmtRegs (recFmt (s.recOf k))) else []) with order := maOrder o, scope := maScope o }).holdFor
        (ret && decide (maOrder o ≠ 0)) s.w.nextSeq (maScope o)) := by
  unfold aIssue
  dsimp only
  rw [h, regChecks_pass hd hr, splitLanes_ok _ _ _ _ place hl, decide_not]
  rfl

end

/-- Settles O24: the 14 instructions are one form, and its effect is taken check by check. -/
theorem atomicForms : Obligations.AtomicForms := by
  intro q hq o k a d s place kr n size m order scope reqs e
  have form : exec (q.1 o k a d) s = slotDo (aUse q.2.1 q.2.2 o k a d s) (aIssue q.2.1 q.2.2 o k a d) s := by
    simp only [List.mem_cons, List.not_mem_nil, or_false] at hq
    rcases hq with rfl | rfl | rfl | rfl | rfl | rfl | rfl | rfl | rfl | rfl | rfl | rfl | rfl | rfl <;> rfl
  have regs : atomRegs q.2.1 (s.recOf k) = m := atomRegs_eq ..
  refine ⟨fun hu hd hr hl => retires_slot form ?_, fun hu => traps_slot form (aIssue_badRecord hu),
    fun hu hd => traps_slot form (aIssue_unaligned hu (regs ▸ hd)),
    fun hu hd hr => traps_slot form (aIssue_beyond hu (regs ▸ hd) (regs ▸ hr)),
    fun cause lanes va hu hd hr hl => traps_slot form (aIssue_laneTrap hu (regs ▸ hd) (regs ▸ hr) hl)⟩
  rw [aIssue_enters hu (regs ▸ hd) (regs ▸ hr) hl]
  rfl

end Sys2Proof.Machine
end

section
/-!
CACHE EVENTS. How the hold of a fence, an rfence, a flush or an inval ends, the write-back of a sector, the fill of a line of code and
the end of a walk (10_buffer.md R212, 11_access.md R227, R228, R230, R239, 03_packet.md R97, 19_page.md R375, R377).
-/
namespace Sys2Proof.Machine

/-! ### The holds (R227, R228, R230) -/

/-- The warp holds no later access any more. -/
def State.unhold (s : State) : State := { s with w := { s.w with hold := .none } }

section
variable {t : State}

theorem State.writeBackLanded_fence0 {upto : Nat} (h : t.w.hold = .fence 0 upto) (hm : t.w.fenceMet upto = true) :
    t.writeBackLanded = some t.unhold := by
  unfold State.writeBackLanded
  rw [h]
  simp only [hm]
  rfl

/-- A fence of codes 1 to 4 ends with its release, the drop of clean lines and, for the sc ones, the clock step (R227, R228). -/
theorem State.writeBackLanded_fence {code upto : Nat} {u : State} (h : t.w.hold = .fence code upto) (h0 : code ≠ 0)
    (hm : t.w.fenceMet upto = true) (hr : t.release (if code = 2 ∨ code = 4 then 2 else 1) = some u) :
    t.writeBackLanded = some (State.unhold (if 3 ≤ code then
      (u.dropClean u.g.core).updCore u.g.core fun k => { k with scClock := k.scClock + 1 } else u.dropClean u.g.core)) := by
  unfold State.writeBackLanded
  rw [h]
  simp only [hm, Bool.not_true, Bool.false_eq_true, if_false, if_neg h0, hr]
  rfl

theorem State.writeBackLanded_rfence {upto : Nat} {u : State} (h : t.w.hold = .rfence upto)
    (hd : ∀ e ∈ t.w.entries, e.path = 1 → e.seq < upto → e.done = true) (hr : t.release 1 = some u) :
    t.writeBackLanded = some (u.updCore u.g.core fun k => { k with recs := [] }).unhold := by
  have done : (t.w.entries.any fun e => e.path == 1 && !e.done && decide (e.seq < upto)) = false := by
    simp only [List.any_eq_false, Bool.and_eq_true, beq_iff_eq, Bool.not_eq_true', decide_eq_true_eq, not_and]
    intro e he ⟨hp, hn⟩ hs
    exact absurd (hd e he hp hs) (by simp [hn])
  unfold State.writeBackLanded
  rw [h]
  simp only [done, hr]
  rfl

theorem State.writeBackLanded_cache {inval : Bool} {va count : Nat} (h : t.w.hold = .cache inval va count)
    (hp : (t.cacheLines inval fun l => count == 0 || (t.namedLines va count).contains l.base).coreParked
      (t.cacheLines inval fun l => count == 0 || (t.namedLines va count).contains l.base).g.core = false) :
    t.writeBackLanded = some (t.cacheLines inval fun l => count == 0 || (t.namedLines va count).contains l.base).unhold := by
  unfold State.writeBackLanded
  rw [h]
  simp only [hp]
  rfl

end

/-! ### The write-back of a sector and the fill of a line of code (R97, R212, R239) -/

theorem State.writeBackSector_line {s : State} {core pa : Nat} {l : Line} (h : (s.coreAt core).line? pa = some l) :
    s.writeBackSector core pa = (s.homeStore core l.key (Marks.within l.dirty (sectorOf pa) 128)).updCore core fun k =>
      k.setLine (l.cleaned (Marks.within l.dirty (sectorOf pa) 128)) := by
  unfold State.writeBackSector
  rw [h]

theorem State.codeLine_ok {s u : State} {core ctx va pa : Nat} {t : Tlb} (ht : s.translate core ctx va false = (.ok pa t, u))
    (hx : t.x = true) (hf : u.homeFails pa 128 t.key true = none) : s.codeLine core ctx va = (.ok pa t, u) := by
  unfold State.codeLine
  rw [ht]
  simp only [hx, hf]
  rfl

/-! ### The end of a walk (R375, R377) -/

/-- A page-table entry has bit 5, its A, set or not. -/
theorem and_accessed (e : DWord) : (e &&& 0x20#64) = if e.getLsbD 5 then 0x20#64 else 0#64 := BitVec.and_twoPow e 5

/-- A walk to a leaf whose A is set installs what it finds. -/
theorem State.walkIn_accessed {s : State} {core ctx va ea size : Nat} {e : DWord} (h : s.walk ctx va = .leaf e ea size)
    (ha : e.getLsbD 5 = true) :
    (s.walkIn core ctx va false).2 = s.install core (s.leafTlb ctx va e ea size (e.getLsbD 6)) ∧
      ∃ pa t, (s.walkIn core ctx va false).1 = .ok pa t := by
  have bits : e &&& 0x20#64 = 0x20#64 := by rw [and_accessed, ha]; rfl
  unfold State.walkIn
  rw [h]
  simp [bits]

/-- A walk to a leaf whose A is clear sets it first. -/
theorem State.walkIn_unaccessed {s : State} {core ctx va ea size : Nat} {e : DWord} (h : s.walk ctx va = .leaf e ea size)
    (ha : e.getLsbD 5 = false) (hc : s.copying ea = false) :
    (s.walkIn core ctx va false).2 = (s.orEntry ea 0x20).install core ((s.orEntry ea 0x20).leafTlb ctx va e ea size (e.getLsbD 6)) ∧
      ∃ pa t, (s.walkIn core ctx va false).1 = .ok pa t := by
  have bits : e &&& 0x20#64 = 0 := by rw [and_accessed, ha]; rfl
  unfold State.walkIn
  rw [h]
  simp [bits, hc]

theorem exec_translationWalkDone {s : State} {core ctx va : Nat} (h : ∃ pa t, (s.walkIn core ctx va false).1 = .ok pa t) :
    exec (.translationWalkDone core ctx va) s = .next (s.walkIn core ctx va false).2 := by
  obtain ⟨pa, t, h⟩ := h
  show execTranslationWalkDone core ctx va s = _
  unfold execTranslationWalkDone
  generalize s.walkIn core ctx va false = x at h ⊢
  obtain ⟨y, u⟩ := x
  cases h
  rfl

/-- Settles O34: each hold by what it waits for; the write-back, the fill and the walk by what they find. That a fence which is not an sc one
exchanges no clock is the model's choice (log 33). -/
theorem cacheEvents : Obligations.CacheEvents := by
  refine ⟨⟨fun s r t hst => ⟨?fence0, ?fence, ?fenceSc, ?rfence, ?cache⟩, ?sector⟩, fun s core ctx va => ⟨?fill, ?walkSet, ?walkClear⟩⟩
  case fence0 => exact fun upto h hm => onWarp_next hst (State.writeBackLanded_fence0 h hm)
  case fence =>
    intro code upto u h h1 h3 hm hr
    have scope : (if code = 2 ∨ code = 4 then 2 else 1) = code := by split <;> omega
    have landed := State.writeBackLanded_fence h (by omega) hm (scope.symm ▸ hr)
    rw [if_neg (by omega)] at landed
    exact onWarp_next hst landed
  case fenceSc =>
    intro code upto u h h3 h4 hm hr
    have scope : (if code = 2 ∨ code = 4 then 2 else 1) = code - 2 := by split <;> omega
    have landed := State.writeBackLanded_fence h (by omega) hm (scope.symm ▸ hr)
    rw [if_pos h3] at landed
    exact onWarp_next hst landed
  case rfence => exact fun upto u h hd hr => onWarp_next hst (State.writeBackLanded_rfence h hd hr)
  case cache =>
    intro inval va count h u hp
    exact onWarp_next hst (State.writeBackLanded_cache h hp)
  case sector => exact fun s core pa l h => congrArg Host.Outcome.next (State.writeBackSector_line h)
  case fill =>
    intro pa t u hi ht hx hf
    show execIfetchFillDone core ctx va s = _
    unfold execIfetchFillDone
    rw [hi, State.codeLine_ok ht hx hf]
    rfl
  case walkSet =>
    intro e ea size h ha
    obtain ⟨walked, ok⟩ := State.walkIn_accessed (core := core) h ha
    rw [exec_translationWalkDone ok, walked]
  case walkClear =>
    intro e ea size h ha hc
    obtain ⟨walked, ok⟩ := State.walkIn_unaccessed (core := core) h ha hc
    rw [exec_translationWalkDone ok, walked]

end Sys2Proof.Machine
end

section
/-!
A STEP. What a turn runs: an event, a command that has waited, or the slot or chained set at the PC of the warp that a partition issues from
(03_packet.md R72, R78, R79, R96, 04_warp.md R110).
-/
namespace Sys2Proof.Machine

/-! ### Turns -/

theorem step_event {s : State} {i : Instr} (h : s.turn = .event i) (hi : isEvent i = true) : step s = exec i s.turned := by
  rw [step, h, State.take, if_pos hi]

theorem step_command {s : State} {x : Waiting} {i : Instr} (h : s.turn = .command x) (hx : x.instr = some i) : step s = exec i s.turned := by
  rw [step, h, State.take, hx, Option.map_some, Option.getD_some]

theorem step_issue {s : State} {core part : Nat} {busy : List Nat} (h : s.turn = .issue core part busy) (hc : core < 192) :
    step s = s.turned.issueFrom core busy (s.turned.ranked core part) := by
  rw [step, h, State.take, if_pos hc, State.issue]

/-- A turn goes to the first warp that issues (R108, R110). -/
theorem State.issueFrom_issues {s t : State} {core : Nat} {busy : List Nat} {r : WRef} {rest : List WRef} {o : Result} (h : s.load r = some t)
    (ht : t.tryIssue core busy = (true, o)) : s.issueFrom core busy (r :: rest) = mapNext o State.park := by
  rw [State.issueFrom, h]
  dsimp only
  rw [ht]

/-- A warp that does not issue leaves the turn to the next (R108, R110). -/
theorem State.issueFrom_passes {s t u : State} {core : Nat} {busy : List Nat} {r : WRef} {rest : List WRef} (h : s.load r = some t)
    (ht : t.tryIssue core busy = (false, .next u)) : s.issueFrom core busy (r :: rest) = u.park.issueFrom core busy rest := by
  rw [State.issueFrom, h]
  dsimp only
  rw [ht]

theorem mapNext_id (r : Result) : mapNext r (fun t => t) = r := by cases r <;> rfl

/-! ### Fetch and decode (R72, R96) -/

/-- A warp that holds no packet fetches the 16 bytes at the address from the line that the core's instruction cache holds. -/
theorem State.fetch_cached {s : State} {core a : Nat} {l : CodeLine} (hp : s.w.packet = none)
    (hl : ((s.coreAt core).icache.find? fun l => l.ctx == s.g.ref.ctx && l.va == a / 128 * 128) = some l) :
    s.fetch core a = .packet (packetOf ((l.data.drop (a - a / 128 * 128)).take 16))
      { (s.updCore core fun k => { k with icache := codePut k.icache l }) with
        w := { s.w with packet := some (a, packetOf ((l.data.drop (a - a / 128 * 128)).take 16)) } } := by
  unfold State.fetch
  rw [hp]
  dsimp only
  rw [hl]

theorem instrOf_ok {w : Word} {i : Instr} (h : decode w = .ok i) : instrOf w = i := by rw [instrOf, h]

/-! ### One slot of a packet (R78, R79) -/

section
variable {c : SetCtx} {i : Nat} {t u : State}

/-- A set of one slot that traps ends in the trap. -/
theorem SetCtx.run_traps (hc : c.slots = [i]) (he : exec (instrOf (c.p.slot i)) (t.enter c i) = .next u) (hu : u.iss.trapped = true) :
    c.run c.slots none t = (true, .next u) := by
  rw [hc, SetCtx.run, he]
  simp [hu, SetCtx.trapBack, hc]

/-- A set of one slot that stalls has not issued. -/
theorem SetCtx.run_stalls (hc : c.slots = [i]) (he : exec (instrOf (c.p.slot i)) (t.enter c i) = .next u) (ht : u.iss.trapped = false)
    (hu : u.iss.stalled = true) : c.run c.slots none t = (false, .next u) := by
  rw [hc, SetCtx.run, he]
  simp [ht, hu, SetCtx.stallBack, hc]

/-- A set of one slot that neither traps nor stalls has issued. -/
theorem SetCtx.run_issues (hc : c.slots = [i]) (he : exec (instrOf (c.p.slot i)) (t.enter c i) = .next u) (ht : u.iss.trapped = false)
    (hu : u.iss.stalled = false) : c.run c.slots none t = (true, .next u.issued) := by
  rw [hc, SetCtx.run, he]
  simp [ht, hu, SetCtx.run, SetCtx.close, hc]

end

/-! ### A warp's try (R74, R78, R109, R110, R309, R310) -/

/-- The warp in the issue stage once its packet is fetched: the packets that it has begun since a halt broadcast are counted. -/
def State.begins (s : State) (begun : Nat) : State := { s with w := { s.w with skidPackets := begun } }

/-- A warp that was stalled is ready. -/
def Warp.readied (w : Warp) : Warp := { w with status := if w.status = .stalled then .ready else w.status }

/-- The state in which the set of slot i of the packet p at a runs: the PC past the set. -/
def State.entered (s : State) (p : Packet) (a i : Nat) : State :=
  { s with w := { s.w.readied with pc := p.after a ((p.setFrom i).getLastD i), setNo := s.w.setNo + 1 }, iss := { s.iss with drawSet := false } }

/-- The set of slot i of the packet p at a on a core. -/
def State.setOf (s : State) (core : Nat) (p : Packet) (a i : Nat) : SetCtx :=
  { p := p, a := a, slots := p.setFrom i, next := p.after a ((p.setFrom i).getLastD i), core := core,
    before := { s.entered p a i with w := { (s.entered p a i).w with pc := slotAddr a i } } }

/-- What the set of slot i comes to: one that needs a busy pipe has not issued (R110). -/
noncomputable def State.trySet (s : State) (core : Nat) (busy : List Nat) (p : Packet) (a i : Nat) : Bool × Result :=
  let r := (s.setOf core p a i).run (p.setFrom i) none (s.entered p a i)
  if r.1 && (pipesOf p (p.setFrom i)).any fun x => busy.contains x.code then (false, .next { s with w := s.w.readied }) else r

/-- What a warp's try comes to once its packet is fetched. -/
noncomputable def State.tryPacket (s : State) (core : Nat) (busy : List Nat) (p : Packet) (a : Nat) : Bool × Result :=
  if !p.ok then (true, mapNext (exec .illPacket { s with w := s.w.readied, iss := { s.iss with at_ := a + 4, core := core } }) fun t => t)
  else match p.firstFrom ((s.w.pc - a - 4) / 4) with
    | none => (false, .next { s with w := { s.w with pc := nextPacket a } })
    | some i =>
      if s.w.bcast && decide (12 < s.w.skid + (p.setFrom i).length) then (false, .next s)
      else if (pipesOf p (p.setFrom i)).any ((s.coreAt core).parts.getD s.w.part Partition.fresh).holds then
        (false, .next { s with w := { s.w with status := .stalled } })
      else s.trySet core busy p a i

theorem State.tryIssue_packet {t s : State} {core : Nat} {busy : List Nat} {p : Packet} (hb : t.w.begun (t.w.pc / 16 * 16) ≤ 4)
    (hf : t.fetch core (t.w.pc / 16 * 16) = .packet p s) :
    t.tryIssue core busy = (s.begins (t.w.begun (t.w.pc / 16 * 16))).tryPacket core busy p (t.w.pc / 16 * 16) := by
  refine (if_neg (Nat.not_lt.mpr hb)).trans ?_
  rw [hf]
  rfl

section
variable {s : State} {core : Nat} {busy : List Nat} {p : Packet} {a i : Nat}

/-- A malformed packet traps with no slot issued (R74). -/
theorem State.tryPacket_illPacket (hp : p.ok = false) : s.tryPacket core busy p a =
    (true, exec .illPacket { s with w := s.w.readied, iss := { s.iss with at_ := a + 4, core := core } }) := by
  rw [State.tryPacket, hp, mapNext_id]
  rfl

/-- A well-formed packet runs the set of its first instruction slot from the PC on (R78). -/
theorem State.tryPacket_set (hp : p.ok = true) (hi : p.firstFrom ((s.w.pc - a - 4) / 4) = some i)
    (hs : s.w.bcast = true → s.w.skid + (p.setFrom i).length ≤ 12)
    (hh : ∀ x ∈ pipesOf p (p.setFrom i), ((s.coreAt core).parts.getD s.w.part Partition.fresh).holds x = false) :
    s.tryPacket core busy p a = s.trySet core busy p a i := by
  have room : ¬(s.w.bcast && decide (12 < s.w.skid + (p.setFrom i).length)) = true := by
    simpa using hs
  have free : ¬(pipesOf p (p.setFrom i)).any ((s.coreAt core).parts.getD s.w.part Partition.fresh).holds = true := by
    simpa [List.any_eq_false] using hh
  rw [State.tryPacket, hp, hi]
  exact (if_neg room).trans (if_neg free)

theorem State.trySet_free (h : ∀ x ∈ pipesOf p (p.setFrom i), x.code ∉ busy) :
    s.trySet core busy p a i = (s.setOf core p a i).run (p.setFrom i) none (s.entered p a i) := by
  have free : (pipesOf p (p.setFrom i)).any (fun x => busy.contains x.code) = false := by simpa [List.any_eq_false] using h
  rw [State.trySet, free, Bool.and_false]
  rfl

theorem State.trySet_busy {o : Result} (ho : (s.setOf core p a i).run (p.setFrom i) none (s.entered p a i) = (true, o))
    (h : ∃ x ∈ pipesOf p (p.setFrom i), x.code ∈ busy) : s.trySet core busy p a i = (false, .next { s with w := s.w.readied }) := by
  have held : (pipesOf p (p.setFrom i)).any (fun x => busy.contains x.code) = true := by simpa using h
  rw [State.trySet, ho, held]
  rfl

end

/-- Settles O55: a turn by its kind; the turn of a partition by what the try of its first warp comes to. -/
theorem stepRunsDecoded : Obligations.StepRunsDecoded := by
  refine ⟨fun s => ⟨fun i => step_event, fun u h => ?upset, fun u h => ?copyRow, fun m h => ?mail, fun x i => step_command⟩,
    fun s core a l hp hl => ⟨_, State.fetch_cached hp hl, rfl, rfl, rfl⟩, fun w => ⟨fun i => instrOf_ok, fun h => ?illOp, fun h => ?futureOp⟩,
    fun s core part busy r rest t u0 p ht hc hr hl hb hf => ?issue⟩
  case upset => rw [step, h]; rfl
  case copyRow => rw [step, h]; rfl
  case mail => rw [step, h]; rfl
  case illOp => rw [instrOf, h]
  case futureOp => rw [instrOf, h]
  case issue =>
    intro a u ready
    have turn : step s = s.turned.issueFrom core busy (r :: rest) := hr ▸ step_issue ht hc
    have packet : t.tryIssue core busy = u.tryPacket core busy p a := State.tryIssue_packet hb hf
    constructor
    case left => exact fun hp => turn.trans (State.issueFrom_issues hl (packet.trans (State.tryPacket_illPacket hp)))
    case right =>
      intro i hp hi slots hs hh next v c
      have set : t.tryIssue core busy = u.trySet core busy p a i := packet.trans (State.tryPacket_set hp hi hs hh)
      refine ⟨fun o ho hbusy => turn.trans (State.issueFrom_passes hl (set.trans (State.trySet_busy ho hbusy))), fun hfree => ?runs⟩
      have runs : t.tryIssue core busy = c.run c.slots none v := set.trans (State.trySet_free hfree)
      refine ⟨fun o ho => turn.trans (State.issueFrom_issues hl (runs.trans ho)), fun one x hx => ⟨fun h1 => ?traps, fun h1 h2 => ?issued,
        fun h1 h2 => ?stalls⟩⟩
      case traps => exact turn.trans (State.issueFrom_issues hl (runs.trans (SetCtx.run_traps one hx h1)))
      case issued => exact turn.trans (State.issueFrom_issues hl (runs.trans (SetCtx.run_issues one hx h1 h2)))
      case stalls => exact turn.trans (State.issueFrom_passes hl (runs.trans (SetCtx.run_stalls one hx h1 h2)))

end Sys2Proof.Machine
end

section
/-!
SUPPORT. An instruction word stores nothing as it issues, form by form (04_warp.md R113, 10_buffer.md R210, R217, R219).
-/
namespace Sys2Proof.Machine

/-! ### What a store can change -/

/-- A group's scratchpad window, staged writes and accumulator rows. -/
def Group.banks (g : Group) : List Host.Cell × List Staged × List (Nat × Word) := (g.scratch, g.staged, g.acc)

/-- What the stores of a warp can change, and what a read of it rests on: the local storage with its poison and its tags, the writes over
the links, the free values that a remote byte is read from, each core's L1 lines, the banks of the group in the issue stage, and the groups
that are parked. -/
structure Stored where
  mem : List Host.Cell
  poison : List Nat
  sectorKey : List (Nat × Nat)
  links : Links
  tick : Nat
  l1 : Nat → List Line
  banks : List Host.Cell × List Staged × List (Nat × Word)
  groups : List Group

/-- What a state stores. -/
def State.stored (s : State) : Stored :=
  { mem := s.mem, poison := s.poison, sectorKey := s.sectorKey, links := s.links, tick := s.tick, l1 := fun k => (s.coreAt k).l1,
    banks := s.g.banks, groups := s.groups }

theorem State.stored_withGroup (s : State) {g : Group} (h : g.banks = s.g.banks) : ({ s with g := g } : State).stored = s.stored :=
  congrArg (fun b => { s.stored with banks := b }) h

theorem State.stored_updCore (s : State) (c : Nat) {f : Core → Core} (hf : ∀ k, (f k).l1 = k.l1) : (s.updCore c f).stored = s.stored := by
  have lines (k : Nat) : ((s.updCore c f).coreAt k).l1 = (s.coreAt k).l1 := by
    simp only [State.coreAt, State.updCore, List.getD_eq_getElem?_getD, List.getElem?_modify]
    by_cases hk : c = k
    · cases s.cores[k]? <;> simp [hk, hf]
    · simp [hk]
  exact congrArg (fun l => { s.stored with l1 := l }) (funext lines)

/-! ### The operations of a slot -/

theorem Group.raise_banks (g : Group) (x : TrapInfo) : (g.raise x).banks = g.banks := by
  unfold Group.raise
  split <;> rfl

/-- Taking a trap stores nothing (R309). -/
@[simp] theorem takeTrap_stored (x : TrapInfo) (s : State) : (takeTrap x s).stored = s.stored := s.stored_withGroup (s.g.raise_banks x)

@[simp] theorem State.tainted_stored (t : State) (n : Nat) (bad : List Nat) : (t.tainted n bad).stored = t.stored := by
  unfold State.tainted
  split <;> rfl

@[simp] theorem State.mapRegs_stored (s : State) (f : Regs → Regs) : (s.mapRegs f).stored = s.stored := rfl

@[simp] theorem State.writeCarry_stored (s : State) (f : Nat → Nat) : (s.writeCarry f).stored = s.stored := s.mapRegs_stored _

@[simp] theorem State.writeChains_stored (s : State) (d : BitVec 7) (f : Nat → Nat) : (s.writeChains d f).stored = s.stored := s.mapRegs_stored _

@[simp] theorem State.holdFor_stored (s : State) (acquires : Bool) (seq scope : Nat) : (s.holdFor acquires seq scope).stored = s.stored := by
  unfold State.holdFor
  split <;> rfl

@[simp] theorem State.postTile_stored (s : State) (op : TileOp) (addrs : List (Nat × Nat)) (word coord : Word) :
    (s.postTile op addrs word coord).stored = s.stored := State.stored_updCore _ s.g.core fun _ => rfl

theorem Group.setMembers_banks (g : Group) (b : Nat) (m : BitVec 16) : (g.setMembers b m).banks = g.banks :=
  foldl_keeps Group.banks (fun g w => by split <;> rfl) _ g

/-! ### One slot -/

/-- An effect stores nothing, whatever it ends in. -/
def Eff.StoresNothing (s : State) : Eff → Prop
  | .done t => t.stored = s.stored
  | .pause t => t.stored = s.stored
  | .trapIn _ t => t.stored = s.stored
  | _ => True

/-- A meaning stores nothing, whatever it answers. -/
def StoresNothing (f : State → Result) : Prop := ∀ s t, f s = .next t → t.stored = s.stored

/-- A slot whose use is read in the state that it starts in. -/
theorem storesNothing_of_state {f : State → State → Result} (h : ∀ s, StoresNothing (f s)) : StoresNothing (fun s => f s s) :=
  fun s t ht => h s s t ht

/-- A slot whose effect stores nothing stores nothing: the checks before the effect, the trap, the stall and the retirement change the warp
and what the group knows of its traps. -/
theorem slotDo_storesNothing {u : Use} {body : State → Eff} (h : ∀ s, (body s).StoresNothing s) : StoresNothing (slotDo u body) := by
  intro s t ht
  have h := h s
  obtain rfl := Host.Outcome.next.inj ht
  cases front u s with
  | trap c => exact takeTrap_stored ..
  | split m => exact takeTrap_stored ..
  | bad lanes => exact takeTrap_stored ..
  | stall => rfl
  | off => rfl
  | pass =>
    dsimp only
    cases hb : body s with
    | trap x => exact takeTrap_stored ..
    | trapIn x v => rw [hb] at h; exact (takeTrap_stored ..).trans h
    | wait => rfl
    | pause v => rw [hb] at h; exact h
    | done v =>
      rw [hb] at h
      dsimp only
      split
      · exact takeTrap_stored ..
      · exact (v.tainted_stored ..).trans h

/-- A slot that writes registers alone. -/
theorem slotDo_mapRegs_storesNothing {u : Use} {f : State → Regs → Regs} : StoresNothing (slotDo u fun s => .done (s.mapRegs (f s))) :=
  slotDo_storesNothing fun _ => State.mapRegs_stored ..

/-- A slot that writes a vector pair. -/
theorem slotDo_writeV2_storesNothing {u : Use} {d : BitVec 7} {f : State → Fin 96 → DWord} :
    StoresNothing (slotDo u fun s => .done (s.writeV2 d (f s))) :=
  slotDo_storesNothing fun _ => (State.mapRegs_stored ..).trans (State.mapRegs_stored ..)

/-- A slot whose effect is always done, in a state that stores what the slot found. -/
theorem slotDo_done_storesNothing {u : Use} {f : State → State} (h : ∀ s, (f s).stored = s.stored) :
    StoresNothing (slotDo u fun s => .done (f s)) := slotDo_storesNothing h

/-- A slot that always traps. -/
theorem slotDo_trap_storesNothing {u : Use} {f : State → TrapInfo} : StoresNothing (slotDo u fun s => .trap (f s)) :=
  slotDo_storesNothing fun _ => trivial

theorem Eff.StoresNothing.ite {s : State} {p : Prop} [Decidable p] {e f : Eff} (he : e.StoresNothing s) (hf : f.StoresNothing s) :
    (if p then e else f).StoresNothing s := by
  split
  · exact he
  · exact hf

theorem Eff.StoresNothing.bound {s : State} {e : Eff} (h : e.StoresNothing s) : (bound s e).StoresNothing s := .ite trivial h

theorem Eff.StoresNothing.regChecks {s : State} {usable : Bool} {d : BitVec 7} {n : Nat} {e : Eff} (h : e.StoresNothing s) :
    (regChecks s usable d n e).StoresNothing s := .ite trivial (.ite trivial (.ite trivial h))

/-! ### The operand forms -/

theorem mIssue_storesNothing (threeD store : Bool) (o sc pol : BitVec 2) (k : BitVec 5) (a d : BitVec 7) (s : State) :
    (mIssue threeD store o sc pol k a d s).StoresNothing s :=
  .regChecks (by
    split
    · trivial
    · exact State.holdFor_stored ..)

theorem mIssue_slot_storesNothing {threeD store : Bool} {o sc pol : BitVec 2} {k : BitVec 5} {a d : BitVec 7} :
    StoresNothing (fun s => slotDo (mUse threeD store o sc k a d s) (mIssue threeD store o sc pol k a d) s) :=
  storesNothing_of_state (f := fun s => slotDo (mUse threeD store o sc k a d s) (mIssue threeD store o sc pol k a d)) fun _ =>
    slotDo_storesNothing (mIssue_storesNothing threeD store o sc pol k a d)

theorem cIssue_storesNothing (store : Bool) (o sc pol : BitVec 2) (k : BitVec 5) (a d : BitVec 7) (s : State) :
    (cIssue store o sc pol k a d s).StoresNothing s :=
  .bound (.ite trivial (State.holdFor_stored ..))

theorem aIssue_storesNothing (op : AtomKind) (ret : Bool) (o : BitVec 3) (k : BitVec 5) (a d : BitVec 7) (s : State) :
    (aIssue op ret o k a d s).StoresNothing s :=
  .regChecks (by
    split
    · trivial
    · exact State.holdFor_stored ..)

theorem gAtom_storesNothing {op : AtomKind} {ret : Bool} {o : BitVec 3} {k : BitVec 5} {a d : BitVec 7} :
    StoresNothing (gAtom op ret o k a d) :=
  storesNothing_of_state (f := fun s => slotDo (aUse op ret o k a d s) (aIssue op ret o k a d)) fun _ =>
    slotDo_storesNothing (aIssue_storesNothing op ret o k a d)

theorem scratchDo_storesNothing {op : PathOp} {n rd wr : Nat} {pair : Bool} {d a f : BitVec 7} :
    StoresNothing (scratchDo op n rd wr pair d a f) :=
  slotDo_storesNothing fun s => by
    split
    · trivial
    · rfl

theorem mbIssue_storesNothing (lo hi : Nat) (op : Word → PathOp) (d : Nat) (writes : List RegId) (a b : BitVec 7) (s : State) :
    (mbIssue lo hi op d writes a b s).StoresNothing s := .ite trivial (.ite trivial rfl)

theorem mmaDo_storesNothing {sat : Bool} {f sh : BitVec 4} {v p : BitVec 7} : StoresNothing (mmaDo sat f sh v p) :=
  slotDo_storesNothing fun s => .ite trivial (.ite trivial (.ite trivial (.ite trivial (.ite trivial (.ite trivial (by
    split
    · trivial
    · next xs _ => exact s.postTile_stored (.mma f.toNat sh.toNat sat) xs (s.src.sget p) (s.src.sget (p + 1))))))))

theorem moveDo_storesNothing {op : State → TileOp} {u : Use} {words : Option (Word → Bool)} {width : Nat} {scr : Option (BitVec 7 × Nat)}
    {p : BitVec 7} {dst : Nat} : StoresNothing (moveDo op u words width scr p dst) :=
  slotDo_storesNothing fun s => .ite trivial (.ite trivial (.ite trivial (by
    split
    · trivial
    · next xs _ => exact s.postTile_stored (op s) xs (s.src.sget p) (s.src.sget (p + 1)))))

/-- A vector register and the carry words written. -/
theorem State.writeChain_stored (s : State) (d : BitVec 7) (f g : Nat → Nat) : ((s.writeChains d f).writeCarry g).stored = s.stored :=
  (State.writeCarry_stored ..).trans (State.writeChains_stored ..)

theorem execTzero_storesNothing {w : BitVec 4} {p : BitVec 7} : StoresNothing (execTzero w p) := moveDo_storesNothing

theorem execTld_storesNothing {f w : BitVec 4} {v p : BitVec 7} : StoresNothing (execTld f w v p) := moveDo_storesNothing

theorem execTst_storesNothing {f w : BitVec 4} {v p : BitVec 7} : StoresNothing (execTst f w v p) := moveDo_storesNothing

theorem execTget_storesNothing {m : BitVec 4} {v p : BitVec 7} : StoresNothing (execTget m v p) := moveDo_storesNothing

theorem execTfill_storesNothing {m : BitVec 4} {v p : BitVec 7} : StoresNothing (execTfill m v p) := moveDo_storesNothing

theorem chainBin_storesNothing {sub cin sat : Bool} {d a b : BitVec 7} : StoresNothing (chainBin sub cin sat d a b) :=
  slotDo_storesNothing fun s => .bound (s.writeChain_stored ..)

theorem chainShift_storesNothing {left : Bool} {amount : Nat → Word → Nat} {d a b : BitVec 7} :
    StoresNothing (chainShift left amount d a b) :=
  slotDo_storesNothing fun s => .bound (.ite (s.writeChain_stored ..) (s.writeChain_stored ..))

theorem execCmac_storesNothing {d a b : BitVec 7} : StoresNothing (execCmac d a b) :=
  slotDo_storesNothing fun _ => .bound (.ite trivial (State.writeChain_stored ..))

/-! ### The instructions that share no operand form -/

theorem execVshflIdx_storesNothing {d a b : BitVec 7} : StoresNothing (execVshflIdx d a b) :=
  storesNothing_of_state (f := fun t => slotDo
    { vtop := vtop [d, a, b], reads := [rv a, rv b], writes := [rv d], lane := true,
      via := some (a.toNat, shuffleLane fun l => some (laneAt (t.src.vget b) l).toNat) }
    fun s => .done (s.writeV d (shuffle (s.src.vget a) fun l => some (laneAt (s.src.vget b) l).toNat))) fun _ =>
    slotDo_storesNothing fun _ => rfl

/-- Whether or not the set has written the draw counter, vrnd writes registers alone (R185). -/
theorem execVrnd_storesNothing {d a : BitVec 7} : StoresNothing (execVrnd d a) :=
  slotDo_storesNothing fun s => by
    show State.stored (if s.iss.drawSet then _ else _) = s.stored
    split <;> rfl

theorem execFdot_storesNothing {a b : BitVec 5} {d c : BitVec 7} : StoresNothing (execFdot a b d c) :=
  slotDo_storesNothing fun s => by
    dsimp only
    split
    · trivial
    · exact .ite trivial (s.mapRegs_stored _)

theorem execCpy32_storesNothing {t : BitVec 3} {k : BitVec 5} {a b : BitVec 7} : StoresNothing (execCpy32 t k a b) :=
  slotDo_storesNothing fun s => .ite trivial (by
    dsimp only
    split
    · trivial
    · rfl)

/-- An ipf.inv drops lines of the instruction cache alone (R141). -/
theorem execIpfInv_storesNothing : StoresNothing execIpfInv :=
  slotDo_storesNothing fun s => s.stored_updCore s.iss.core fun _ => rfl

theorem execGbMembers_storesNothing {a b : BitVec 7} : StoresNothing (execGbMembers a b) :=
  slotDo_storesNothing fun s => .ite trivial (s.stored_withGroup (s.g.setMembers_banks ..))

/-- A decode fault stores nothing (R89, R309). -/
theorem takeTrap_storesNothing {x : State → TrapInfo} : StoresNothing (fun s => .next (takeTrap (x s) s)) := fun s t h => by
  obtain rfl := Host.Outcome.next.inj h
  exact takeTrap_stored ..

/-- Every instruction word that translates no address as it issues stores nothing then, by its operand form. -/
theorem exec_storesNothing (i : Instr) (h : (encode i).isSome = true)
    (hi : ∀ a b, i ≠ .pf a b ∧ i ≠ .ipf a b ∧ i ≠ .stage a b ∧ i ≠ .waitge a b ∧ i ≠ .mbAwait a b) : StoresNothing (exec i) := by
  cases i with
  | sadd | ssub | smul | smulhiS32 | smulhiU32 | sand | sor | sxor | sandn | sshl | sshr | ssra | sminS32 | smaxS32 | sminU32 | smaxU32
  | sbfxU32 | sbfxS32 | saddI | ssubI | smulI | smulhiS32I | smulhiU32I | sandI | sorI | sxorI | sandnI | sshlI | sshrI | ssraI
  | sminS32I | smaxS32I | sminU32I | smaxU32I | smov | spopc | sclz | sctz | sbrev | sli | sbfi | rdstage | sadd64 | ssub64
  | scmp | scmpI | cand | cor | cxor | candn | vsome | vevery | mpush | mflip | mpop | mvps | vbits | mvsp
  | vaddS32 | vsubS32 | vaddSatS32 | vaddSatU32 | vsubSatS32 | vsubSatU32 | vminS32 | vmaxS32 | vminU32 | vmaxU32 | vshl | vshr | vsra
  | vabsdS32 | vmulLo | vmulhiS32 | vmulhiU32 | vand | vor | vxor | vandn | vbfxU32 | vbfxS32 | fadd | fsub | fmul | fmin | fmax
  | fcopysign | haddF16x2 | hmulF16x2 | hminF16x2 | haddBf16x2 | hmulBf16x2 | hminBf16x2 | vaddS32S | vsubS32S | vaddSatS32S
  | vaddSatU32S | vsubSatS32S | vsubSatU32S | vminS32S | vmaxS32S | vminU32S | vmaxU32S | vshlS | vshrS | vsraS | vabsdS32S | faddS
  | fmulS | fminS | fmaxS | vaddS32I | vsubS32I | vaddSatS32I | vaddSatU32I | vsubSatS32I | vsubSatU32I | vminS32I | vmaxS32I | vminU32I
  | vmaxU32I | vshlI | vshrI | vsraI | vabsdS32I | faddI | fmulI | fminI | fmaxI | vmadLo | vmadSatS32 | vbfi | vfshl | vfshr | ffma
  | ffms | ffnma | ffnms | hfmaF16x2 | hfmaBf16x2 | ffmaS | ffmsS | ffnmaS | ffnmsS | vnot | vpopc | vclz | vbrev | vsatS8S32
  | vsatU8S32 | vsatS16S32 | vsatU16S32 | fabs | fneg | vrcp | vrsq | vsqrt | vexp2 | vlog2 | vsinpi | vcospi | vtanh | vsext8 | vzext8
  | vsext16 | vzext16 | vredAddS32 | vredMinS32 | vredMaxS32 | vredAddF32 | vredMinF32 | vredMaxF32 | vscanAddS32 | vscanxAddS32
  | vscanAddF32 | vredAnd | vredOr | vredXor | vmatch | vrank | vargmaxF32 | vargmaxS32 | vshflUp | vshflDown | vshflXor | vbcast | vsel
  | vsatS32S64 | vcvtWiden | vcvtNarrow | visect | vtopk | vlid
  | vcmp | vcmpF32 | pand | por | pxor | pandn | pnot | pmov | pset | pclr | vlead | cbind | cunbind | mkrec
  | kmov => exact slotDo_mapRegs_storesNothing
  | vadd64 | vsub64 | vmulWideS32 | vmulWideU32 => exact slotDo_writeV2_storesNothing
  | fdot => exact execFdot_storesNothing
  | vshflIdx => exact execVshflIdx_storesNothing
  | vrnd => exact execVrnd_storesNothing
  | wsr | call | nop | exit | yield | br | rfence | flush | inval | qfence =>
    refine slotDo_done_storesNothing fun _ => ?_
    exact rfl
  | trap | brk => exact slotDo_trap_storesNothing
  | cget | cgetP | cset | ccmp =>
    refine slotDo_storesNothing fun s => ?_
    exact .bound (s.mapRegs_stored _)
  | cadd | cadc | csub | csbb | caddSat | cadcSat | csubSat | csbbSat => exact chainBin_storesNothing
  | cmac => exact execCmac_storesNothing
  | cshl => exact chainShift_storesNothing (left := true) (amount := shiftBits)
  | cshr => exact chainShift_storesNothing (left := false) (amount := shiftBits)
  | cshlw => exact chainShift_storesNothing (left := true) (amount := shiftLimbs)
  | cshrw => exact chainShift_storesNothing (left := false) (amount := shiftLimbs)
  | bc | bnc | bany | ball | bnone | sleep | fence =>
    refine slotDo_storesNothing fun s => ?_
    exact .ite rfl rfl
  | jmp | ret | waitc | waitcI | mwait =>
    refine slotDo_storesNothing fun s => ?_
    exact .ite rfl trivial
  | idot | idotSat =>
    refine slotDo_storesNothing fun s => ?_
    exact .ite trivial (s.mapRegs_stored _)
  | ldrec | strec | gbBytes | coll | nemit | gbAwait | gbAwaitPar | mcommit =>
    refine slotDo_storesNothing fun s => ?_
    exact .ite trivial rfl
  | rsr =>
    refine slotDo_storesNothing fun s => ?_
    exact .ite trivial (.ite (s.mapRegs_stored _) (s.mapRegs_stored _))
  | gbPost =>
    refine slotDo_storesNothing fun s => ?_
    exact .ite trivial (.ite trivial rfl)
  | gbMeet =>
    refine slotDo_storesNothing fun s => ?_
    exact .ite (.ite rfl rfl) (.ite trivial (.ite rfl rfl))
  | gbMembers => exact execGbMembers_storesNothing
  | ld | st => exact mIssue_slot_storesNothing
  | cld | cst =>
    refine slotDo_storesNothing fun s => ?_
    exact cIssue_storesNothing ..
  | atomAdd | atomMin | atomMax | atomAnd | atomOr | atomXor | atomExch | atomCas | redAdd | redMin | redMax | redAnd | redOr | redXor =>
    exact gAtom_storesNothing
  | sldU8 | sldS8 | sldU16 | sldS16 | sldB32 | sldB64 | sstB8 | sstB16 | sstB32 | sstB64 | satomAdd | satomMinS32 | satomMaxS32
  | satomMinU32 | satomMaxU32 | satomAnd | satomOr | satomXor | satomExch | satomCas => exact scratchDo_storesNothing
  | mbArm | mbPost | mbBytes =>
    refine slotDo_storesNothing fun s => ?_
    exact mbIssue_storesNothing ..
  | mma | mmaSat => exact mmaDo_storesNothing
  | tzero => exact execTzero_storesNothing
  | tld => exact execTld_storesNothing
  | tst => exact execTst_storesNothing
  | tget => exact execTget_storesNothing
  | tfill => exact execTfill_storesNothing
  | cpy32 => exact execCpy32_storesNothing
  | ipfInv => exact execIpfInv_storesNothing
  | illOp | futureOp => exact takeTrap_storesNothing
  | pf a b | ipf a b | stage a b | waitge a b | mbAwait a b => exact absurd (hi a b) (by simp)
  | _ => exact absurd h Bool.false_ne_true

/-- Settles O58: what an instruction word leaves stored is what its clauses name. -/
theorem memoryKept : Obligations.MemoryKept := by
  intro i s t henc hi ht
  have kept : t.stored = s.stored := exec_storesNothing i henc hi s t ht
  obtain ⟨hmem, hpoison, hkey, hlinks, htick, hl1, hbanks, hgroups⟩ := (Stored.mk.injEq ..).mp kept
  obtain ⟨hscratch, hstaged, hacc⟩ : t.g.scratch = s.g.scratch ∧ t.g.staged = s.g.staged ∧ t.g.acc = s.g.acc := by
    simpa [Group.banks] using hbanks
  exact ⟨fun a => by simp only [State.homeByte, hmem, hlinks, htick], hpoison, hkey, congrFun hl1, hscratch, hstaged, hacc, hgroups⟩

end Sys2Proof.Machine
end

section
/-!
SUPPORT. State registers (05_scalar.md R118, R119, R133) and the taking of a precise trap (04_warp.md R108, 14_group.md R309, R310).
-/
namespace Sys2Proof.Machine

/-! ### What taking a precise trap changes (R108, R309) -/

/-- A trap halts a resident group, whose warps hear the halt (R292, R309). -/
theorem Group.raise_of_resident {g : Group} (h : g.status = .resident) (t : TrapInfo) :
    g.raise t = { g with status := .halting, trap := some t, warps := g.warps.map Warp.hears } := by
  rw [Group.raise, h]

/-- A warp that runs once it has heard a halt counts the slots from then on (R108). -/
theorem Warp.hears_running {w : Warp} (h : w.hears.status = .ready ∨ w.hears.status = .stalled ∨ w.hears.status = .sleeping) :
    w.hears.bcast = true ∧ w.hears.skid = 0 := by
  unfold Warp.hears at h ⊢
  split
  · exact ⟨rfl, rfl⟩
  · next stopped =>
    rw [if_neg stopped] at h
    exact absurd h stopped

/-- Settles O12: the warp stops with its status saved, and a resident group is raised. -/
theorem preciseTrapTaken : Obligations.PreciseTrapTaken := by
  intro t s u
  refine ⟨rfl, rfl, fun h => if_neg h, rfl, rfl, fun h => ?quiet, fun h => ?heard, fun c => ⟨rfl, rfl, rfl⟩, rfl, fun h => ?group⟩
  case quiet => exact if_neg (by simp [h])
  case heard => exact if_pos h
  case group =>
    have halted : u.g = { s.g with status := .halting, trap := some t, warps := s.g.warps.map Warp.hears } := Group.raise_of_resident h t
    rw [halted]
    refine ⟨rfl, rfl, fun x hx hr => ?_⟩
    obtain ⟨w, -, rfl⟩ := List.mem_map.mp hx
    exact Warp.hears_running hr

/-! ### State registers (R118, R133) -/

/-- A slot without an immediate whose fields are not well formed raises ILL_OP before its effect (R89). -/
theorem slotDo_illFormed {u : Use} {body : State → Eff} {s : State} (himm : u.imm = none) (hwf : u.wf = false) :
    slotDo u body s = .next (takeTrap (s.trapOf .illOp) s) := by
  obtain ⟨-, illOp, -⟩ := slotChecks u body s
  refine illOp (fun f hf => ?_) fun fields => ?_
  · rw [himm] at hf; cases hf
  · rw [hwf] at fields; cases fields.1

theorem stateReg64_eq (code : Nat) : stateReg64 code = decide (code ≤ 1 ∨ code = 11) := by
  rw [Bool.eq_iff_iff]
  simp only [stateReg64, Bool.or_eq_true, beq_iff_eq, decide_eq_true_eq]
  omega

/-- What rsr uses for the state register of a code (R133). -/
def rsrUse (d : BitVec 7) (code : Nat) : Use :=
  { wf := decide (code ≤ 12) && (decide ¬(code ≤ 1 ∨ code = 11) || even d),
    reads := if code = 11 then [.draw] else [],
    writes := if code ≤ 1 ∨ code = 11 then rspair d else [rs d] }

/-- The registers once a state register of a code is written: a pair, or the low word (R118, R133). -/
def Regs.putState (r : Regs) (d : BitVec 7) (code : Nat) (v : DWord) : Regs :=
  if code ≤ 1 ∨ code = 11 then r.spairSet d v else r.sset d (v.setWidth 32)

/-- What rsr does: PROT where time is kept from a group that is neither deterministic nor allowed to time, and otherwise the state register
written (R119, R133). -/
def rsrEffect (d : BitVec 7) (code : Nat) (s : State) : Eff :=
  if code = 1 ∧ s.g.desc.determ = false ∧ s.g.desc.timing = false then .trap (s.trapOf .prot)
  else .done (s.mapRegs (·.putState d code (s.stateReg code)))

theorem exec_rsr (d r : BitVec 7) (s : State) : exec (.rsr d r) s = slotDo (rsrUse d r.toNat) (rsrEffect d r.toNat) s := by
  show execRsr d r s = _
  unfold execRsr
  simp only [stateReg64_eq]
  refine congrFun (congrArg₂ slotDo ?use (funext fun t => ?effect)) s
  case use => simp only [rsrUse, beq_iff_eq, decide_eq_true_eq, decide_not]
  case effect =>
    have low : loWord (t.stateReg r.toNat) = (t.stateReg r.toNat).setWidth 32 := (BitVec.setWidth_eq_extractLsb' (by decide)).symm
    unfold rsrEffect Regs.putState
    refine if_congr (by simp [and_assoc]) rfl ?_
    by_cases wide : r.toNat ≤ 1 ∨ r.toNat = 11
    · simp only [wide, decide_true, if_true]
    · simp only [wide, decide_false, if_false, low, Bool.false_eq_true]
      rfl

/-- Settles O8: what rsr and wsr use and do, and the fields that they take. -/
theorem stateRegisters : Obligations.StateRegisters := by
  refine ⟨fun d r s => ?rsr, fun a r s => ?wsr⟩
  case rsr =>
    intro code wide u v
    have value : s.stateReg code = v := rfl
    refine ⟨fun h => ?ill, fun hcode hdeterm htiming => ?prot, fun h => ?reads⟩
    case ill =>
      refine (exec_rsr d r s).trans (slotDo_illFormed rfl ?_)
      simp only [rsrUse, Bool.and_eq_false_iff, Bool.or_eq_false_iff, decide_eq_false_iff_not, not_not, Nat.not_le]
      exact h
    case prot => exact traps_slot (exec_rsr d r s) (if_pos ⟨hcode, hdeterm, htiming⟩)
    case reads =>
      refine retires_slot (exec_rsr d r s) ?_
      rw [rsrEffect, if_neg, value]
      · rfl
      · simpa [imp_iff_not_or] using h
  case wsr =>
    refine ⟨fun h => ?ill, retires_of rfl⟩
    case ill =>
      show execWsr a r s = _
      refine slotDo_illFormed rfl ?_
      simpa [imp_iff_not_or] using h

end Sys2Proof.Machine
end

section
/-!
SUPPORT. ld and st at issue: the checks of the record, of the data registers and of the lanes' addresses, in their order, and the entry
(10_buffer.md R204..R207, R217..R221).
-/
namespace Sys2Proof.Machine

theorem State.regsOfK_usable {s : State} {k : BitVec 5} (h : recUsable (s.recOf k) = true) : s.regsOfK k = fmtRegs (recFmt (s.recOf k)) :=
  if_pos h

section
variable {threeD store : Bool} {o sc pol : BitVec 2} {k : BitVec 5} {a d : BitVec 7} {s : State}

theorem mIssue_badRecord (h : recUsable (s.recOf k) = false) : mIssue threeD store o sc pol k a d s = .trap (s.trapOf .badRecord) := by
  unfold mIssue
  dsimp only
  rw [h, regChecks_unusable]

theorem mIssue_unaligned (h : recUsable (s.recOf k) = true) (hd : d.toNat % fmtRegs (recFmt (s.recOf k)) ≠ 0) :
    mIssue threeD store o sc pol k a d s = .trap (s.trapOf .illOp) := by
  unfold mIssue
  dsimp only
  rw [State.regsOfK_usable h, h, regChecks_unaligned hd]

theorem mIssue_beyond (h : recUsable (s.recOf k) = true) (hd : d.toNat % fmtRegs (recFmt (s.recOf k)) = 0)
    (hr : s.w.nregs < d.toNat + fmtRegs (recFmt (s.recOf k))) : mIssue threeD store o sc pol k a d s = .trap (s.trapOf .regRange) := by
  unfold mIssue
  dsimp only
  rw [State.regsOfK_usable h, h, regChecks_beyond hd hr]

theorem mIssue_laneTrap {cause : Cause} {lanes : LaneMask} {va : Nat} (h : recUsable (s.recOf k) = true)
    (hd : d.toNat % fmtRegs (recFmt (s.recOf k)) = 0) (hr : d.toNat + fmtRegs (recFmt (s.recOf k)) ≤ s.w.nregs)
    (hl : FirstFails [.bounds, .addrFault, .misalign] s.active
      (fun l => (laneAddr (s.recOf k) (laneOffset s.src (s.recOf k) threeD (fmtSize (recFmt (s.recOf k))) a l)
        (fmtSize (recFmt (s.recOf k)))).failure) cause lanes va) :
    mIssue threeD store o sc pol k a d s = .trap { s.trapOf cause with mask := lanes, addr := some va } := by
  unfold mIssue laneReqs
  dsimp only
  rw [State.regsOfK_usable h, h, regChecks_pass hd hr, splitLanes_first _ hl]

/-- The requests of the active lanes of an access, each with its address or dropped, and its data (R204, R207). -/
def State.placedReqs (s : State) (d n : Nat) (place : Nat → Option Nat) : List LaneReq :=
  (lanesIn s.active).map fun l => { lane := l, va := (place l).getD 0, drop := (place l).isNone, data := laneData s.src d n l, len := 0 }

/-- An access whose active lanes have an address or are dropped enters one entry, and holds the warp where it is ordered (R217, R220). -/
theorem mIssue_enters {place : Nat → Option Nat} (h : recUsable (s.recOf k) = true) (hd : d.toNat % fmtRegs (recFmt (s.recOf k)) = 0)
    (hr : d.toNat + fmtRegs (recFmt (s.recOf k)) ≤ s.w.nregs)
    (hl : ∀ l ∈ lanesIn s.active,
      laneAddr (s.recOf k) (laneOffset s.src (s.recOf k) threeD (fmtSize (recFmt (s.recOf k))) a l) (fmtSize (recFmt (s.recOf k))) =
        match place l with | some x => .ok x | none => .drop) :
    mIssue threeD store o sc pol k a d s = .done
      ((s.enqueue { s.entryOf (if store then 1 else 0)
          (if store then .store (fmtSize (recFmt (s.recOf k))) else .load (fmtSize (recFmt (s.recOf k))) (fmtSigned (recFmt (s.recOf k))))
          d.toNat (s.placedReqs d.toNat (fmtRegs (recFmt (s.recOf k))) place)
          (if store then [] else rvrun d.toNat (fmtRegs (recFmt (s.recOf k)))) with
            order := o.toNat, scope := sc.toNat, policy := pol.toNat }).holdFor
        (if store then o == 2 else o != 0) s.w.nextSeq sc.toNat) := by
  unfold mIssue laneReqs
  dsimp only
  rw [State.regsOfK_usable h, h, regChecks_pass hd hr, splitLanes_ok _ _ _ _ place hl]
  rfl

end

/-- Settles O22: ld and st are one form, and its effect is taken check by check. -/
theorem loadStoreForms : Obligations.LoadStoreForms := by
  intro g o sc c k a d s place kr n size reqs e addressed
  have ld : exec (.ld g o sc c k a d) s = slotDo (mUse (g == 1) false o sc k a d s) (mIssue (g == 1) false o sc c k a d) s := rfl
  have st : exec (.st g o sc c k a d) s = slotDo (mUse (g == 1) true o sc k a d s) (mIssue (g == 1) true o sc c k a d) s := rfl
  refine ⟨fun ⟨hu, hd, hr, hl⟩ => ⟨?load, ?store⟩, fun hu => ?badRecord, fun hu hd => ?unaligned, fun hu hd hr => ?beyond,
    fun cause lanes va hu hd hr hl => ?lanes⟩
  case load =>
    refine retires_slot ld ?_
    rw [mIssue_enters hu hd hr hl, decide_not]
    rfl
  case store =>
    refine retires_slot st ?_
    rw [mIssue_enters hu hd hr hl]
    rfl
  case badRecord => exact ⟨traps_slot ld (mIssue_badRecord hu), traps_slot st (mIssue_badRecord hu)⟩
  case unaligned => exact ⟨traps_slot ld (mIssue_unaligned hu hd), traps_slot st (mIssue_unaligned hu hd)⟩
  case beyond => exact ⟨traps_slot ld (mIssue_beyond hu hd hr), traps_slot st (mIssue_beyond hu hd hr)⟩
  case lanes => exact ⟨traps_slot ld (mIssue_laneTrap hu hd hr hl), traps_slot st (mIssue_laneTrap hu hd hr hl)⟩

end Sys2Proof.Machine
end

section
/-!
SCALAR ARITHMETIC. The bits of the bit fields, the register forms, the condition bits and the moves of the mask (05_scalar.md R123..R128, R134,
R135).
-/
namespace Sys2Proof.Machine

/-! ### Bit fields (R128) -/

theorem fieldPos_eq (b : Word) : fieldPos b = b.toNat % 32 := by simp [fieldPos]

theorem fieldLen_eq (b : Word) : fieldLen b = min (b.toNat / 2 ^ 8 % 64) 32 := by simp [fieldLen, Nat.shiftRight_eq_div_pow]

theorem getLsbD_bfxU (a b : Word) {i : Nat} (hi : i < 32) :
    (bfxU a b).getLsbD i = (decide (i < fieldLen b) && a.getLsbD (fieldPos b + i)) := by
  rw [bfxU, BitVec.getLsbD_ofNat, Nat.testBit_mod_two_pow, Nat.testBit_div_two_pow, BitVec.testBit_toNat, Nat.add_comm, decide_eq_true hi,
    Bool.true_and]

/-- The signed field is the slice of the 64-bit sign extension, read as a signed number of its own length. -/
theorem bfxS_eq (a b : Word) : bfxS a b = ((a.signExtend 64).extractLsb' (fieldPos b) (fieldLen b)).signExtend 32 := by
  have slice : ((a.signExtend 64).extractLsb' (fieldPos b) (fieldLen b)).toNat =
      (a.signExtend 64).toNat / 2 ^ fieldPos b % 2 ^ fieldLen b := by
    rw [BitVec.extractLsb'_toNat, Nat.shiftRight_eq_div_pow]
  rw [BitVec.signExtend, BitVec.toInt_eq_toNat_cond, slice, bfxS]
  generalize (a.signExtend 64).toNat / 2 ^ fieldPos b = f
  rcases fieldLen b with _ | n
  · simp [Nat.mod_one]
  · have double : 2 * (f % 2 ^ (n + 1)) < 2 ^ (n + 1) ↔ ¬2 ^ n ≤ f % 2 ^ (n + 1) := by rw [Nat.pow_succ]; omega
    rw [if_neg (Nat.succ_ne_zero n), Nat.add_sub_cancel]
    by_cases negative : 2 ^ n ≤ f % 2 ^ (n + 1)
    · rw [if_pos negative, if_neg (fun h => double.mp h negative), Nat.cast_pow, Nat.cast_ofNat]
    · rw [if_neg negative, if_pos (double.mpr negative), BitVec.ofInt_natCast]

theorem getLsbD_bfxS (a b : Word) {i : Nat} (hi : i < 32) :
    (bfxS a b).getLsbD i =
      (decide (0 < fieldLen b) && (a.signExtend 64).getLsbD (fieldPos b + min i (fieldLen b - 1))) := by
  rw [bfxS_eq, BitVec.getLsbD_signExtend, decide_eq_true hi, Bool.true_and, BitVec.msb_eq_getLsbD_last]
  simp only [BitVec.getLsbD_extractLsb']
  split
  · next inside =>
    rw [Nat.min_eq_left (by omega), decide_eq_true inside, decide_eq_true (by omega : 0 < fieldLen b)]
  · next above =>
    rw [Nat.min_eq_right (by omega)]
    congr 1
    exact decide_eq_decide.mpr (by omega)

theorem getLsbD_bfi (a b d : Word) {i : Nat} (hi : i < 32) :
    (bfi a b d).getLsbD i =
      if fieldPos b ≤ i ∧ i < fieldPos b + fieldLen b then a.getLsbD (i - fieldPos b) else d.getLsbD i := by
  have mask : (BitVec.ofNat 32 ((2 ^ fieldLen b - 1) * 2 ^ fieldPos b)).getLsbD i =
      decide (fieldPos b ≤ i ∧ i < fieldPos b + fieldLen b) := by
    rw [BitVec.getLsbD_ofNat, Nat.testBit_mul_two_pow, Nat.testBit_two_pow_sub_one, decide_eq_true hi, Bool.true_and, ← Bool.decide_and]
    exact decide_eq_decide.mpr (by omega)
  have moved : (BitVec.ofNat 32 (a.toNat * 2 ^ fieldPos b)).getLsbD i = (decide (fieldPos b ≤ i) && a.getLsbD (i - fieldPos b)) := by
    rw [BitVec.getLsbD_ofNat, Nat.testBit_mul_two_pow, BitVec.testBit_toNat, decide_eq_true hi, Bool.true_and]
  simp only [bfi, BitVec.getLsbD_or, BitVec.getLsbD_and, BitVec.getLsbD_not, mask, moved, decide_eq_true hi, Bool.true_and]
  split
  · next inside => simp [inside]
  · next outside => simp [outside]

/-- Settles O4: bit i of each of the three, its position and length the fields of b. -/
theorem bitFieldValues : Obligations.BitFieldValues := by
  intro a b d i hi p n
  have hp : fieldPos b = p := fieldPos_eq b
  have hn : fieldLen b = n := fieldLen_eq b
  rw [← hp, ← hn]
  exact ⟨getLsbD_bfxU a b hi, getLsbD_bfxS a b hi, getLsbD_bfi a b d hi⟩

/-! ### Register forms (R123, R124, R127, R128) -/

/-- A two-register form of the scalar arithmetic, the function of its slot said otherwise. -/
theorem sBin_retires_as {i : Instr} {f g : Word → Word → Word} {d a b : BitVec 7} {s : State} (hfg : ∀ x y, f x y = g x y)
    (h : exec i s = sBin f d a b s) :
    Retires i { reads := [.s a.toNat, .s b.toNat], writes := [.s d.toNat] } s (s.mapRegs (·.sset d (g (s.src.sget a) (s.src.sget b)))) := by
  obtain rfl : f = g := funext fun x => funext (hfg x)
  exact sBin_retires h

/-- Settles O1: each of the 16 forms is sBin of its function. -/
theorem scalarRegisterForms : Obligations.ScalarRegisterForms := by
  unfold Obligations.ScalarRegisterForms
  simp only [List.forall_mem_cons]
  refine ⟨fun _ _ _ _ => sBin_retires (f := (· + ·)) rfl,
    fun _ _ _ _ => sBin_retires (f := (· - ·)) rfl,
    fun _ _ _ _ => sBin_retires (f := (· * ·)) rfl,
    fun d a b s => (sBin_retires_as (i := .smulhiS32 d a b) (s := s) mulHiS_eq rfl :),
    fun d a b s => (sBin_retires_as (i := .smulhiU32 d a b) (s := s) mulHiU_eq rfl :),
    fun _ _ _ _ => sBin_retires (f := (· &&& ·)) rfl,
    fun _ _ _ _ => sBin_retires (f := (· ||| ·)) rfl,
    fun _ _ _ _ => sBin_retires (f := (· ^^^ ·)) rfl,
    fun _ _ _ _ => sBin_retires (f := andNot) rfl,
    fun _ _ _ _ => sBin_retires (f := shl) rfl,
    fun _ _ _ _ => sBin_retires (f := shr) rfl,
    fun d a b s => (sBin_retires_as (i := .ssra d a b) (s := s) sra_eq rfl :),
    fun d a b s => (sBin_retires_as (i := .sminS32 d a b) (s := s) minS_eq rfl :),
    fun d a b s => (sBin_retires_as (i := .smaxS32 d a b) (s := s) maxS_eq rfl :),
    fun d a b s => (sBin_retires_as (i := .sminU32 d a b) (s := s) minU_eq rfl :),
    fun d a b s => (sBin_retires_as (i := .smaxU32 d a b) (s := s) maxU_eq rfl :),
    fun _ h => nomatch h⟩

/-- A pair form completes, and one with an odd register is turned away as ill-formed (R87, R124). -/
theorem sBin64_settled {i : Instr} {f : DWord → DWord → DWord} {d a b : BitVec 7} {s : State} (h : exec i s = sBin64 f d a b s) :
    Retires i { wf := even d && even a && even b, reads := rspair a ++ rspair b, writes := rspair d } s
        (s.mapRegs (·.spairSet d (f (s.src.spair a) (s.src.spair b)))) ∧
      ((even d && even a && even b) = false → exec i s = .next (takeTrap (s.trapOf .illOp) s)) :=
  ⟨sBin64_retires h, fun odd => h.trans (slotDo_illFormed rfl odd)⟩

/-- Settles O3: each form by its operand form; an odd register is turned away with the fields. -/
theorem scalarOtherForms : Obligations.ScalarOtherForms := by
  unfold Obligations.ScalarOtherForms
  simp only [List.forall_mem_cons]
  refine ⟨⟨fun _ _ _ _ => sBin64_settled (f := (· + ·)) rfl, fun _ _ _ _ => sBin64_settled (f := (· - ·)) rfl, fun _ h => nomatch h⟩,
    ⟨fun _ _ _ => sUn_retires (f := id) rfl, fun _ _ _ => sUn_retires (f := popCount) rfl, fun _ _ _ => sUn_retires (f := clz) rfl,
      fun _ _ _ => sUn_retires (f := ctz) rfl, fun _ _ _ => sUn_retires (f := bitRev) rfl, fun _ h => nomatch h⟩,
    fun _ _ _ => retires_of rfl,
    ⟨fun _ _ _ _ => sBin_retires (f := bfxU) rfl, fun _ _ _ _ => sBin_retires (f := bfxS) rfl, fun _ h => nomatch h⟩,
    fun _ _ _ _ => retires_of rfl⟩

/-! ### Conditions (R125, R126) -/

/-- The ten codes of scmp are equality and the orders of the signed and of the unsigned values (R90, R125). -/
theorem scmpCond_codes (a b : Word) :
    scmpCond 0 a b = decide (a = b) ∧ scmpCond 1 a b = decide (a ≠ b) ∧ scmpCond 2 a b = a.slt b ∧ scmpCond 3 a b = a.sle b ∧
    scmpCond 4 a b = b.slt a ∧ scmpCond 5 a b = b.sle a ∧ scmpCond 6 a b = a.ult b ∧ scmpCond 7 a b = a.ule b ∧
    scmpCond 8 a b = b.ult a ∧ scmpCond 9 a b = b.ule a := by
  refine ⟨beq_eq_decide a b, (congrArg not (beq_eq_decide a b)).trans decide_not.symm, ?orders⟩
  case orders =>
    simp only [scmpCond, BitVec.slt_eq_decide, BitVec.sle_eq_decide, BitVec.ult_eq_decide, BitVec.ule_eq_decide, and_self]

/-- Settles O5: scmp and its immediate form by their slots, the condition operations by theirs, cxor's inequality an exclusive or. -/
theorem conditionForms : Obligations.ConditionForms := by
  unfold Obligations.ConditionForms
  simp only [List.forall_mem_cons]
  exact ⟨fun _ _ _ _ _ => retires_of rfl, fun _ _ _ _ _ => retires_of rfl, scmpCond_codes,
    fun _ _ _ _ => cBin_retires (f := (· && ·)) rfl, fun _ _ _ _ => cBin_retires (f := (· || ·)) rfl,
    fun _ _ _ _ => cBin_retires (f := (· ^^ ·)) rfl, fun _ _ _ _ => cBin_retires (f := fun x y => x && !y) rfl, fun _ h => nomatch h⟩

/-! ### Masks (R134, R135) -/

/-- Settles O9: each of the five is one slot, whose effect reads and writes whole masks and triples, whatever lanes are active. -/
theorem maskForms : Obligations.MaskForms := fun d p s =>
  ⟨retires_slot (show exec (.mpush d p) s = execMpush d p s from rfl) rfl,
    retires_slot (show exec (.mflip d p) s = execMflip d p s from rfl) rfl,
    retires_slot (show exec (.mpop d) s = execMpop d s from rfl) rfl,
    retires_slot (show exec (.mvps d p) s = execMvps d p s from rfl) rfl,
    retires_slot (show exec (.mvsp p d) s = execMvsp p d s from rfl) rfl⟩

end Sys2Proof.Machine
end

section
/-!
INTEGER AND PREDICATE FORMS OF THE LANES. Each form by the function of its slot, the relations of vcmp and the bits of a predicate
(06_lane_int.md R142..R157, 07_lane_float.md R166).
-/
namespace Sys2Proof.Machine

/-! ### Integer forms (R142, R143, R147..R152, R156, R157) -/

/-- Settles O13: each row of the first list is one function in its three forms, each row of the second a function of two registers; the spec's
saturations, orders, shifts and products are put back into the model's names first. -/
theorem laneBinaryForms : Obligations.LaneBinaryForms := by
  unfold Obligations.LaneBinaryForms
  refine ⟨fun q hq d a b s => ?threeForms, fun q hq d a b s => vBin_retires (f := q.2) ?registerForm⟩
  case threeForms =>
    obtain ⟨hv, hs, hi⟩ : exec (q.1 d a b) s = vBin false q.2.2.2 d a b s ∧ exec (q.2.1 d a b) s = vBinS false q.2.2.2 d a b s ∧
        exec (q.2.2.1 d a b) s = vBinI q.2.2.2 d a b s := by
      revert q
      simp only [List.forall_mem_cons, ← satS32_eq, ← addSatU_eq, ← subSatU_eq, ← minS_eq, ← maxS_eq, ← minU_eq, ← maxU_eq, ← sra_eq]
      exact ⟨⟨rfl, rfl, rfl⟩, ⟨rfl, rfl, rfl⟩, ⟨rfl, rfl, rfl⟩, ⟨rfl, rfl, rfl⟩, ⟨rfl, rfl, rfl⟩, ⟨rfl, rfl, rfl⟩, ⟨rfl, rfl, rfl⟩,
        ⟨rfl, rfl, rfl⟩, ⟨rfl, rfl, rfl⟩, ⟨rfl, rfl, rfl⟩, ⟨rfl, rfl, rfl⟩, ⟨rfl, rfl, rfl⟩, ⟨rfl, rfl, rfl⟩, ⟨rfl, rfl, rfl⟩, nofun⟩
    exact ⟨vBin_retires hv, vBinS_retires hs, vBinI_retires hi⟩
  case registerForm =>
    revert q
    simp only [List.forall_mem_cons, ← mulHiS_eq, ← mulHiU_eq]
    exact ⟨rfl, rfl, rfl, rfl, rfl, rfl, rfl, rfl, rfl, nofun⟩

/-- Settles O14: each row is the operand form of its list, of the function that the row names; the 64-bit saturation is a slot of its own. -/
theorem laneOtherForms : Obligations.LaneOtherForms := by
  unfold Obligations.LaneOtherForms
  refine ⟨fun q hq d a b s => vTri_retires (f := q.2) ?destinationRead, fun q hq d a b s => vBin64_retires (f := q.2) ?pairs,
    fun q hq d a b s => vWide_retires (f := q.2) ?wideProducts, fun q hq d a s => vUn_retires (f := q.2) ?oneSource,
    fun q hq d a e s => vElem_retires (f := q.2.2) ?elements, fun d a s => ?pairSaturation⟩
  case destinationRead =>
    revert q
    simp only [List.forall_mem_cons, ← satS32_eq]
    exact ⟨rfl, rfl, rfl, rfl, rfl, nofun⟩
  case pairs =>
    revert q
    simp only [List.forall_mem_cons]
    exact ⟨rfl, rfl, nofun⟩
  case wideProducts =>
    revert q
    simp only [List.forall_mem_cons, ← mulWideS_eq, ← mulWideU_eq]
    exact ⟨rfl, rfl, nofun⟩
  case oneSource =>
    revert q
    simp only [List.forall_mem_cons, ← satTo_eq, Int.reduceNeg, Int.reduceLE]
    exact ⟨rfl, rfl, rfl, rfl, rfl, rfl, rfl, rfl, nofun⟩
  case elements =>
    revert q
    simp only [List.forall_mem_cons]
    exact ⟨rfl, rfl, rfl, rfl, nofun⟩
  case pairSaturation =>
    refine retires_slot (show exec (.vsatS32S64 d a) s = execVsatS32S64 d a s from rfl) ?_
    simp only [State.writeV_lanesOf, satS32_eq, Regs.vpair]

/-! ### Compares, predicates and the select (R153..R155, R166) -/

/-- The six relations of vcmp are equality and the orders of the signed values under type 0, of the unsigned values under type 1 (R153). -/
theorem vcmpCond_codes (x y : Word) {t : Nat} (ht : t ≤ 1) :
    vcmpCond 0 t x y = decide (x = y) ∧ vcmpCond 1 t x y = decide (x ≠ y) ∧
    vcmpCond 2 t x y = (if t = 0 then x.slt y else x.ult y) ∧ vcmpCond 3 t x y = (if t = 0 then x.sle y else x.ule y) ∧
    vcmpCond 4 t x y = (if t = 0 then y.slt x else y.ult x) ∧ vcmpCond 5 t x y = (if t = 0 then y.sle x else y.ule x) := by
  obtain rfl | rfl : t = 0 ∨ t = 1 := by omega
  case inl =>
    simp [vcmpCond, relCond, BitVec.toInt_inj, BitVec.slt_eq_decide, BitVec.sle_eq_decide, beq_eq_decide, bne]
  case inr =>
    simp [vcmpCond, relCond, BitVec.toNat_inj, BitVec.ult_eq_decide, BitVec.ule_eq_decide, beq_eq_decide, bne]

/-- A compare of two vector registers writes the bits of its relation. -/
theorem vCmp_retires {i : Instr} {wf : Bool} {f : Word → Word → Bool} {p : BitVec 4} {a b : BitVec 7} {s : State}
    (h : exec i s = vCmp wf f p a b s) :
    Retires i { wf := wf && predOk p, vtop := vtop [a, b], reads := [.v a.toNat, .v b.toNat], writes := [.p p.toNat], lane := true } s
      (s.writeP p.toNat (maskOf fun l => f (laneAt (s.src.vget a) l) (laneAt (s.src.vget b) l))) := retires_slot h rfl

theorem pBin_retires {i : Instr} {f : LaneMask → LaneMask → LaneMask} {d a b : BitVec 4} {s : State} (h : exec i s = pBin f d a b s) :
    Retires i { wf := predOk d && predOk a && predOk b, reads := [.p a.toNat, .p b.toNat], writes := [.p d.toNat], lane := true } s
      (s.writeP d.toNat (f (s.src.pget a.toNat) (s.src.pget b.toNat))) := retires_slot h rfl

theorem pUn_retires {i : Instr} {f : LaneMask → LaneMask} {d a : BitVec 4} {s : State} (h : exec i s = pUn f d a s) :
    Retires i { wf := predOk d && predOk a, reads := [.p a.toNat], writes := [.p d.toNat], lane := true } s
      (s.writeP d.toNat (f (s.src.pget a.toNat))) := retires_slot h rfl

theorem pConst_retires {i : Instr} {m : LaneMask} {d : BitVec 4} {s : State} (h : exec i s = pConst m d s) :
    Retires i { wf := predOk d, writes := [.p d.toNat], lane := true } s (s.writeP d.toNat m) := retires_slot h rfl

/-- A register of the lanes of two, chosen by a mask, written in the active lanes (R142, R155). -/
theorem State.writeV_mergeLanes (s : State) (d : BitVec 7) (m : LaneMask) (x y : Lanes Word) :
    s.writeV d (mergeLanes m x y) = s.putLanes d fun l => if m.getLsbD l.val then x[l] else y[l] := s.writeV_lanesOf d _

theorem predOk_iff {n : Nat} {x : BitVec n} : predOk x = true ↔ x.toNat < 12 := by
  simp only [predOk, decide_eq_true_iff]
  omega

/-- The bit of each lane after a merge: x's in the active lanes, the old one elsewhere (R142). -/
theorem getLsbD_mergeMask (act x old : LaneMask) {l : Nat} (hl : l < 96) :
    (mergeMask act x old).getLsbD l = if act.getLsbD l then x.getLsbD l else old.getLsbD l := by
  rw [mergeMask, BitVec.getLsbD_or, BitVec.getLsbD_and, BitVec.getLsbD_and, BitVec.getLsbD_not, decide_eq_true hl]
  cases act.getLsbD l <;> simp

/-- What a predicate register reads after a write to it. -/
theorem State.pget_writeP (s : State) {d : Nat} (x : LaneMask) (hd : d < 12) :
    (s.writeP d x).w.regs.pget d = mergeMask s.active x (s.w.regs.pget d) :=
  (Regs.pget_pset _ _ _ _ hd).trans (if_pos rfl)

/-- Settles O15: each form by its operand form; a write to a predicate merges it with the old bits by the active lanes. -/
theorem predicateForms : Obligations.PredicateForms := by
  unfold Obligations.PredicateForms
  refine ⟨fun _ _ _ _ _ _ => vCmp_retires rfl, fun x y _ ht => vcmpCond_codes x y ht, fun _ _ _ _ _ => vCmp_retires rfl,
    fun q hq d a b s => pBin_retires (f := q.2) ?twoPredicates,
    fun _ _ _ => ⟨pUn_retires (f := (~~~·)) rfl, pUn_retires (f := id) rfl, pConst_retires rfl, pConst_retires rfl⟩,
    fun q d a b s => ?select, fun s d x hd l hl => ?bits⟩
  case twoPredicates =>
    revert q
    simp only [List.forall_mem_cons]
    exact ⟨rfl, rfl, rfl, rfl, nofun⟩
  case select =>
    exact retires_slot (show exec (.vsel q d a b) s = execVsel q d a b s from rfl) (congrArg Eff.done (s.writeV_mergeLanes ..))
  case bits => rw [State.pget_writeP s x (predOk_iff.mp hd), getLsbD_mergeMask _ _ _ hl]

end Sys2Proof.Machine
end

section
/-!
FLOATING-POINT FORMS OF THE LANES. Each form by the function of its slot, under the rounding mode of the word (07_lane_float.md R158..R165,
R169).
-/
namespace Sys2Proof.Machine

/-- Settles O16: each row is the operand form of its list, of the function that the row names; the scalar and the immediate form of a row are of
one function, and the rounding mode of the word enters through that function alone. -/
theorem floatForms : Obligations.FloatForms := by
  unfold Obligations.FloatForms
  refine ⟨fun r q hq d a b s => vBin_retires (f := q.2) ?twoRegisters, fun r q hq d a b s => ?scalarAndImmediate,
    fun r q hq d a b s => vTri_retires (f := q.2) ?fused, fun r q hq d a b s => vTriS_retires (f := q.2) ?fusedScalar,
    fun q hq d a s => vUn_retires (f := q.2) ?oneSource⟩
  case twoRegisters =>
    revert q
    simp only [List.forall_mem_cons]
    exact ⟨rfl, rfl, rfl, rfl, rfl, rfl, rfl, rfl, rfl, rfl, rfl, rfl, nofun⟩
  case scalarAndImmediate =>
    obtain ⟨hs, hi⟩ : exec (q.1 d a b) s = vBinS true q.2.2 d a b s ∧ exec (q.2.1 d a b) s = vBinF q.2.2 d a b s := by
      revert q
      simp only [List.forall_mem_cons]
      exact ⟨⟨rfl, rfl⟩, ⟨rfl, rfl⟩, ⟨rfl, rfl⟩, ⟨rfl, rfl⟩, nofun⟩
    exact ⟨vBinS_retires hs, vBinF_retires hi⟩
  case fused =>
    revert q
    simp only [List.forall_mem_cons]
    exact ⟨rfl, rfl, rfl, rfl, rfl, rfl, nofun⟩
  case fusedScalar =>
    revert q
    simp only [List.forall_mem_cons]
    exact ⟨rfl, rfl, rfl, rfl, nofun⟩
  case oneSource =>
    revert q
    simp only [List.forall_mem_cons]
    exact ⟨rfl, rfl, rfl, rfl, rfl, rfl, rfl, rfl, rfl, rfl, nofun⟩

end Sys2Proof.Machine
end

section
/-!
CROSS-LANE FORMS. The lane that each shuffle takes, the votes, and the forms of the active lanes (08_lane_cross.md R176..R185).
-/
namespace Sys2Proof.Machine

/-! ### Shuffles (R176) -/

theorem laneAt_fin (v : Lanes Word) (l : Fin 96) : laneAt v l.val = v[l] := dif_pos l.isLt

theorem shuffleLane_some {src : Nat → Option Nat} {l j : Nat} (h : src l = some j) : shuffleLane src l = if j ≤ 95 then j else l := by
  rw [shuffleLane, h]

theorem shuffleLane_none {src : Nat → Option Nat} {l : Nat} (h : src l = none) : shuffleLane src l = l := by
  rw [shuffleLane, h]

/-- The lane that vshfl.up takes for lane l. -/
theorem shuffleLane_up (n l : Nat) :
    shuffleLane (fun l => if n ≤ l then some (l - n) else none) l = if n ≤ l ∧ l ≤ 95 + n then l - n else l := by
  by_cases reaches : n ≤ l
  · rw [shuffleLane_some (if_pos reaches)]
    exact if_congr (by omega) rfl rfl
  · rw [shuffleLane_none (if_neg reaches), if_neg fun h => reaches h.1]

/-- A register shuffled, in the active lanes: each takes the lane of its source, or its own. -/
theorem State.writeV_shuffle (s : State) (d : BitVec 7) (v : Lanes Word) (src : Nat → Option Nat) :
    s.writeV d (shuffle v src) = s.putLanes d fun l => laneAt v (shuffleLane src l.val) := s.writeV_lanesOf d _

theorem laneAt_ite (v : Lanes Word) (l : Fin 96) (c : Prop) [Decidable c] (j : Nat) :
    laneAt v (if c then j else l.val) = if c then laneAt v j else v[l] := by
  rw [apply_ite (laneAt v), laneAt_fin]

/-- A shuffle by a lane immediate, its source lanes and the values that they hold said otherwise. -/
theorem xShuffle_retires_as {i : Instr} {limit : Nat} {src : Nat → Nat → Option Nat} {d a n : BitVec 7} {s : State} {lane : Nat → Nat}
    {value : Fin 96 → Word} (h : exec i s = xShuffle limit src d a n s) (hlane : ∀ l, shuffleLane (src n.toNat) l = lane l)
    (hvalue : ∀ l : Fin 96, laneAt (s.src.vget a) (lane l.val) = value l) :
    Retires i { wf := decide (n.toNat ≤ limit), vtop := vtop [d, a], reads := [.v a.toNat], writes := [.v d.toNat], lane := true,
                via := some (a.toNat, lane) } s (s.putLanes d value) := by
  obtain rfl : shuffleLane (src n.toNat) = lane := funext hlane
  obtain rfl : (fun l : Fin 96 => laneAt (s.src.vget a) (shuffleLane (src n.toNat) l.val)) = value := funext hvalue
  exact retires_slot h (congrArg Eff.done (s.writeV_shuffle ..))

/-- A shuffle by a lane immediate beyond its limit is ill-formed. -/
theorem xShuffle_beyond {i : Instr} {limit : Nat} {src : Nat → Nat → Option Nat} {d a n : BitVec 7} {s : State}
    (h : exec i s = xShuffle limit src d a n s) (hn : limit < n.toNat) : exec i s = .next (takeTrap (s.trapOf .illOp) s) :=
  h.trans (slotDo_illFormed rfl (decide_eq_false (Nat.not_le.mpr hn)))

section
variable (d a n : BitVec 7) (s : State)

theorem exec_vshflUp : exec (.vshflUp d a n) s = execVshflUp d a n s := rfl

theorem exec_vshflDown : exec (.vshflDown d a n) s = execVshflDown d a n s := rfl

theorem exec_vshflXor : exec (.vshflXor d a n) s = execVshflXor d a n s := rfl

theorem exec_vbcast : exec (.vbcast d a n) s = execVbcast d a n s := rfl

end

/-- Settles O18: each shuffle by the lane that it takes, which names both the word that it reads and the value that it writes. -/
theorem shuffleForms : Obligations.ShuffleForms := by
  refine ⟨fun d a b s => ?indexed, fun d a n s => ⟨?up, ?down, ?xor, ?broadcast, ?beyond⟩, fun d s => ?lane, fun d a s => ?random⟩
  case indexed =>
    have taken (l : Nat) := shuffleLane_some (src := fun l => some (laneAt (s.src.vget b) l).toNat) (l := l) rfl
    rw [← funext taken]
    refine retires_slot (show exec (.vshflIdx d a b) s = execVshflIdx d a b s from rfl) ?_
    simp only [State.writeV_shuffle, taken, laneAt_ite, laneAt_fin]
  case up =>
    refine xShuffle_retires_as (exec_vshflUp d a n s) (shuffleLane_up n.toNat) fun l => ?_
    rw [laneAt_ite]
    exact if_congr (by omega) rfl rfl
  case down => exact xShuffle_retires_as (exec_vshflDown d a n s) (fun _ => shuffleLane_some rfl) fun l => laneAt_ite ..
  case xor => exact xShuffle_retires_as (exec_vshflXor d a n s) (fun _ => shuffleLane_some rfl) fun l => laneAt_ite ..
  case broadcast => exact xShuffle_retires_as (exec_vbcast d a n s) (fun _ => shuffleLane_some rfl) fun l => laneAt_ite ..
  case beyond =>
    intro hn
    simp only [List.forall_mem_cons]
    exact
      ⟨xShuffle_beyond (exec_vshflUp d a n s) hn, xShuffle_beyond (exec_vshflDown d a n s) hn, xShuffle_beyond (exec_vbcast d a n s) hn,
        fun _ h => nomatch h⟩
  case lane =>
    exact retires_slot (show exec (.vlid d) s = execVlid d s from rfl) (congrArg Eff.done (s.writeV_lanesOf d _))
  case random =>
    refine retires_slot (show exec (.vrnd d a) s = execVrnd d a s from rfl) ?_
    rw [State.writeV_lanesOf]
    cases s.iss.drawSet <;> rfl

/-! ### Votes and the forms of the active lanes (R177..R183) -/

/-- A vote writes its condition from the active lanes and the predicate. -/
theorem xVote_retires {i : Instr} {f : LaneMask → LaneMask → Bool} {d : BitVec 3} {p : BitVec 4} {s : State} {value : Bool}
    (h : exec i s = xVote f d p s) (hvalue : f s.active (s.src.pget p.toNat) = value) :
    Retires i { wf := predOk p, reads := [.p p.toNat], writes := [.c d.toNat], lane := true } s (s.mapRegs (·.cset d.toNat value)) :=
  retires_slot h (by rw [hvalue])

theorem maskAny_eq (m : LaneMask) : maskAny m = decide (m ≠ 0) := (congrArg not (beq_eq_decide m 0)).trans decide_not.symm

theorem voteEvery_eq (act p : LaneMask) : voteEvery act p = decide (act &&& ~~~p = 0) := beq_eq_decide _ _

/-- Settles O19: the votes by their conditions, each row of the list one function of the active lanes and the register, the rest slots of
their own. -/
theorem crossLaneForms : Obligations.CrossLaneForms := by
  unfold Obligations.CrossLaneForms
  refine ⟨fun d p s => ⟨?some, ?every⟩, fun d p s => ?gather, fun q hq d a s => xUn_retires (f := q.2.2) ?oneRegister,
    fun d a s => ?lead, fun d a b s => ⟨?intersection, ?top⟩⟩
  case some => exact xVote_retires (show exec (.vsome d p) s = execVsome d p s from rfl) (maskAny_eq _)
  case every => exact xVote_retires (show exec (.vevery d p) s = execVevery d p s from rfl) (voteEvery_eq ..)
  case gather => exact retires_slot (show exec (.vbits d p) s = execVbits d p s from rfl) rfl
  case oneRegister =>
    revert q
    simp only [List.forall_mem_cons]
    exact ⟨rfl, rfl, rfl, rfl, rfl, rfl, rfl, rfl, rfl, rfl, rfl, rfl, rfl, rfl, rfl, rfl, nofun⟩
  case lead => exact retires_slot (show exec (.vlead d a) s = execVlead d a s from rfl) rfl
  case intersection =>
    exact retires_slot (show exec (.visect d a b) s = execVisect d a b s from rfl) (congrArg Eff.done (writeV_eq s d _))
  case top => exact retires_slot (show exec (.vtopk d a b) s = execVtopk d a b s from rfl) (congrArg Eff.done (writeV_eq s d _))

end Sys2Proof.Machine
end

section
/-!
CHAIN FORMS. What a chain slot does without a binding and under one, the sums, the shift amounts, and the entry of cld and cst
(09_chain.md R187..R202).
-/
namespace Sys2Proof.Machine

/-! ### Slots that need a binding (R189) -/

theorem bound_of_unbound {s : State} {e : Eff} (h : s.src.chn = 0) : bound s e = .trap (s.trapOf .illOp) := if_pos h

theorem bound_of_bound {s : State} {e : Eff} (h : s.src.chn ≠ 0) : bound s e = e := if_neg h

/-- A chain instruction whose effect is done takes ILL_OP without a binding and retires under one (R189). -/
theorem bound_forms {i : Instr} {u : Use} {body : State → Eff} {s t : State} (he : exec i s = slotDo u (fun s => bound s (body s)) s)
    (hb : body s = .done t) : (s.src.chn = 0 → Traps i u s (s.trapOf .illOp)) ∧ (s.src.chn ≠ 0 → Retires i u s t) :=
  ⟨fun h => traps_slot he (bound_of_unbound h), fun h => retires_slot he ((bound_of_bound h).trans hb)⟩

/-! ### Sums and differences (R195) -/

/-- The sum or difference of a chain takes bit 0 of its carry word where the form reads it (R195). -/
theorem chainSum_eq (n : Nat) (sub cin : Bool) (a b : Lanes Word) (k : Carries) (c : Nat) :
    chainSum n sub cin a b k c =
      if sub then (chainVal a n c : Int) - chainVal b n c - (if cin ∧ (carryAt k c).getLsbD 0 then 1 else 0)
      else (chainVal a n c : Int) + chainVal b n c + (if cin ∧ (carryAt k c).getLsbD 0 then 1 else 0) := by
  simp only [chainSum, Bool.and_eq_true]

/-- A chain is clamped where the form saturates and its sum or difference is out of range, and reduced elsewhere (R195). -/
theorem chainSumVal_eq (n : Nat) (sub cin sat : Bool) (a b : Lanes Word) (k : Carries) (c : Nat) :
    chainSumVal n sub cin sat a b k c =
      if sat ∧ chainOver n sub (chainSum n sub cin a b k c) then (if sub then 0 else 2 ^ (32 * n) - 1)
      else (chainSum n sub cin a b k c % 2 ^ (32 * n)).toNat := by
  simp only [chainSumVal, Bool.and_eq_true]

/-- A chain addition or subtraction: y its values before reduction, past the carries and borrows out of the chain (R195). -/
theorem chainBin_forms {i : Instr} {sub cin sat : Bool} {d a b : BitVec 7} {s : State} {y : Nat → Int} {past : Nat → Bool}
    (h : exec i s = chainBin sub cin sat d a b s)
    (hy : ∀ c, chainSum s.src.chn sub cin (s.src.vget a) (s.src.vget b) s.src.carry c = y c)
    (hpast : ∀ c, chainOver s.src.chn sub (y c) = past c) :
    let n := s.src.chn
    let u : Use := { vtop := vtop [d, a, b], reads := [rv a, rv b, .chn] ++ (if cin then [.carry] else []), writes := [rv d, .carry],
                     lane := true }
    (n = 0 → Traps i u s (s.trapOf .illOp)) ∧
    (n ≠ 0 → Retires i u s
      ((s.writeChains d fun c => if sat ∧ past c then (if sub then 0 else 2 ^ (32 * n) - 1) else (y c % 2 ^ (32 * n)).toNat).writeCarry
        fun c => if past c then 1 else 0)) := by
  have value : chainSumVal s.src.chn sub cin sat (s.src.vget a) (s.src.vget b) s.src.carry = fun c =>
      if sat ∧ past c then (if sub then 0 else 2 ^ (32 * s.src.chn) - 1) else (y c % 2 ^ (32 * s.src.chn)).toNat :=
    funext fun c => by rw [chainSumVal_eq, hy, hpast]
  have carry : chainSumCarry s.src.chn sub cin (s.src.vget a) (s.src.vget b) s.src.carry = fun c => if past c then 1 else 0 :=
    funext fun c => by rw [chainSumCarry, hy, hpast]
  exact bound_forms h (by rw [value, carry])

/-! ### Shifts (R197) -/

/-- The chains of a shifted by t bits into d: what is pushed out of a chain replaces its carry word (R197). -/
def State.shiftChains (s : State) (left : Bool) (d a : BitVec 7) (t : Nat) : State :=
  let n := s.src.chn
  let y := if left then chainShl n t (s.src.vget a) s.src.carry else chainShr n (s.src.vget a) s.src.carry
  if left then (s.writeChains d fun c => y c % 2 ^ (32 * n)).writeCarry fun c => y c / 2 ^ (32 * n) % 2 ^ 32
  else (s.writeChains d fun c => y c / 2 ^ t % 2 ^ (32 * n)).writeCarry fun c => y c % 2 ^ t * 2 ^ 32 / 2 ^ t

/-- A chain shift by the amount t of its scalar (R197). -/
theorem chainShift_forms {i : Instr} {left : Bool} {amount : Nat → Word → Nat} {d a b : BitVec 7} {s : State} {t : Nat}
    (h : exec i s = chainShift left amount d a b s) (ht : amount s.src.chn (s.src.sget b) = t) :
    let u : Use := { vtop := vtop [d, a], reads := [rv a, rs b, .chn, .carry], writes := [rv d, .carry], lane := true }
    (s.src.chn = 0 → Traps i u s (s.trapOf .illOp)) ∧ (s.src.chn ≠ 0 → Retires i u s (s.shiftChains left d a t)) :=
  bound_forms h (by
    subst ht
    cases left with
    | true => rfl
    | false => rfl)

/-! ### The multiply-accumulate (R198) -/

/-- cmac takes ILL_OP for an index not below the limb count, which without a binding is every index (R189, R198). -/
theorem cmac_beyond {d a b : BitVec 7} {s : State} (h : s.src.chn ≤ (s.src.sget b).toNat) :
    Traps (.cmac d a b)
      { wf := even a, vtop := vtop [d, a + 1], reads := [rv a, rv (a + 1), rv d, rs b, .chn], writes := [rv d, .carry], lane := true } s
      (s.trapOf .illOp) :=
  traps_slot (show exec (.cmac d a b) s = execCmac d a b s from rfl) (by
    dsimp only
    rw [if_pos h]
    exact ite_self _)

/-- Settles O20: cbind and cunbind are slots of their own; the rest are slots that need a binding, the sums and the shifts by their shared
forms, cmac by whether its index is below the limb count. -/
theorem chainForms : Obligations.ChainForms := by
  unfold Obligations.ChainForms
  refine ⟨⟨fun n s => ?cbind, fun s => ?cunbind, fun d s => ?cget, fun p s => ?cgetP, fun a s => ?cset⟩, fun q hq d a b s => ?sums,
    fun c p a b s => ?ccmp, fun d a b s => ?shifts, fun d a b s => ⟨fun h => cmac_beyond h, fun h => ?cmac⟩⟩
  case cbind => exact retires_slot (show exec (.cbind n) s = execCbind n s from rfl) rfl
  case cunbind => exact retires_slot (show exec .cunbind s = execCunbind s from rfl) rfl
  case cget => exact bound_forms (show exec (.cget d) s = execCget d s from rfl) rfl
  case cgetP =>
    refine bound_forms (show exec (.cgetP p) s = execCgetP p s from rfl) ?_
    simp only [bne, beq_eq_decide, ne_eq, decide_not]
  case cset => exact bound_forms (show exec (.cset a) s = execCset a s from rfl) rfl
  case sums =>
    have form : exec (q.1 d a b) s = chainBin q.2.1 q.2.2.1 q.2.2.2 d a b s := by
      revert q
      simp only [List.forall_mem_cons]
      exact ⟨rfl, rfl, rfl, rfl, rfl, rfl, rfl, rfl, nofun⟩
    exact chainBin_forms form (fun c => chainSum_eq ..) fun c => rfl
  case ccmp => exact bound_forms (show exec (.ccmp c p a b) s = execCcmp c p a b s from rfl) rfl
  case shifts =>
    have bits : fieldPos (s.src.sget b) = (s.src.sget b).toNat % 32 := fieldPos_eq _
    obtain ⟨cshlTraps, cshl⟩ := chainShift_forms (show exec (.cshl d a b) s = execCshl d a b s from rfl) bits
    obtain ⟨cshrTraps, cshr⟩ := chainShift_forms (show exec (.cshr d a b) s = execCshr d a b s from rfl) bits
    obtain ⟨cshlwTraps, cshlw⟩ := chainShift_forms (show exec (.cshlw d a b) s = execCshlw d a b s from rfl) rfl
    obtain ⟨cshrwTraps, cshrw⟩ := chainShift_forms (show exec (.cshrw d a b) s = execCshrw d a b s from rfl) rfl
    simp only [List.forall_mem_cons]
    exact ⟨fun h => ⟨cshlTraps h, cshrTraps h, cshlwTraps h, cshrwTraps h, nofun⟩, fun h => ⟨cshl h, cshr h, cshlw h, cshrw h⟩⟩
  case cmac =>
    have unbound : s.src.chn ≠ 0 := Nat.ne_zero_of_lt h
    refine retires_slot (show exec (.cmac d a b) s = execCmac d a b s from rfl) ((bound_of_bound unbound).trans ?_)
    exact if_neg (Nat.not_le.mpr h)

/-! ### cld and cst at issue (R200, R201) -/

section
variable {store : Bool} {o sc pol : BitVec 2} {k : BitVec 5} {a d : BitVec 7} {s : State}

theorem cIssue_badRecord (hn : s.src.chn ≠ 0) (hk : recUsable (s.recOf k) = false) :
    cIssue store o sc pol k a d s = .trap (s.trapOf .badRecord) := by
  unfold cIssue
  dsimp only
  rw [bound_of_bound hn, hk]
  rfl

/-- A chain access under a binding enters one entry with the limbs of the active chains, and holds the warp where it is ordered (R200). -/
theorem cIssue_enters (hn : s.src.chn ≠ 0) (hk : recUsable (s.recOf k) = true) :
    cIssue store o sc pol k a d s = .done
      ((s.enqueue { s.entryOf (if store then 1 else 0) (if store then .chainStore s.src.chn else .chainLoad s.src.chn) d.toNat
          (chainReqs s (s.recOf k) a d) (if store then [] else [rv d]) with
            order := o.toNat, scope := sc.toNat, policy := pol.toNat, fails := chainFails s (s.recOf k) a }).holdFor
        (if store then o == 2 else o != 0) s.w.nextSeq sc.toNat) := by
  unfold cIssue
  dsimp only
  rw [bound_of_bound hn, hk]
  rfl

end

/-- Settles O23: cld and cst are one form, and its effect is taken check by check. -/
theorem chainAccessForms : Obligations.ChainAccessForms := by
  intro o sc c k a d s kr e u v
  have cld : exec (.cld o sc c k a d) s = slotDo (cUse false o sc k a d) (cIssue false o sc c k a d) s := rfl
  have cst : exec (.cst o sc c k a d) s = slotDo (cUse true o sc k a d) (cIssue true o sc c k a d) s := rfl
  refine ⟨fun hn hk => ⟨?load, ?store⟩, fun hn => ?unbound, fun hn hk => ?badRecord⟩
  case load =>
    refine retires_slot cld ?_
    rw [cIssue_enters hn hk, decide_not]
    rfl
  case store =>
    refine retires_slot cst ?_
    rw [cIssue_enters hn hk]
    rfl
  case unbound => exact ⟨traps_slot cld (bound_of_unbound hn), traps_slot cst (bound_of_unbound hn)⟩
  case badRecord => exact ⟨traps_slot cld (cIssue_badRecord hn hk), traps_slot cst (cIssue_badRecord hn hk)⟩

end Sys2Proof.Machine
end

section
/-!
LANE ADDRESSES AND SCRATCHPAD ACCESSES. The offset of a lane, its address by the bounds mode, and the 20 scratchpad forms at issue (10_buffer.md
R206, R207, R224, R226).
-/
namespace Sys2Proof.Machine

/-! ### Offsets and addresses (R206, R207) -/

theorem laneOffset_one (r : Regs) (k : BitVec 256) (size : Nat) (a : BitVec 7) (l : Nat) :
    laneOffset r k false size a l = ((laneAt (r.vget a) l).toNat : Int) * size := by
  simp [laneOffset]

theorem laneOffset_three (r : Regs) (k : BitVec 256) (size : Nat) (a : BitVec 7) (l : Nat) :
    laneOffset r k true size a l = ((laneAt (r.vget a) l).toNat : Int) * size +
      ((laneAt (r.vget (a + 1)) l).toNat : Int) * recStrideY k + ((laneAt (r.vget (a + 2)) l).toNat : Int) * recStrideZ k := by
  simp [laneOffset]

section
variable {k : BitVec 256} {off : Int} {size : Nat}

/-- What lies at an offset of a record: ADDR_FAULT beyond 48 bits, MISALIGN off the element size, else its address (R207). -/
def recReach (k : BitVec 256) (size : Nat) (off : Int) : LaneAddr :=
  let at_ := recBase k + off
  if at_ < 0 ∨ 2 ^ 48 ≤ at_ then .bad .addrFault (at_ % 2 ^ 64).toNat
  else if at_ % size ≠ 0 then .bad .misalign at_.toNat else .ok at_.toNat

/-- A lane that keeps an offset under the bounds mode gets what lies there. -/
theorem laneAddr_of_boundOff {o : Int} (h : boundOff k off size = some (some o)) : laneAddr k off size = recReach k size o := by
  unfold laneAddr recReach
  rw [h]
  dsimp only
  split
  · rfl
  · next hr =>
    have aligned : (recBase k + o).toNat % size = 0 ↔ (recBase k + o) % (size : Int) = 0 := by
      rw [← Int.natCast_inj, Int.natCast_emod, Int.toNat_of_nonneg (by omega), Int.natCast_zero]
    simp only [bne_iff_ne, ne_eq, aligned]

theorem laneAddr_bounds (h : boundOff k off size = none) : laneAddr k off size = .bad .bounds ((recBase k + off) % 2 ^ 64).toNat := by
  rw [laneAddr, h]

theorem laneAddr_drop (h : boundOff k off size = some none) : laneAddr k off size = .drop := by
  rw [laneAddr, h]

theorem boundOff_inside (h : ¬(off < 0 ∨ (recExtent k : Int) < off + size)) : boundOff k off size = some (some off) := if_neg h

/-! Outside the extent the record's mode decides. -/

variable (h : off < 0 ∨ (recExtent k : Int) < off + size)
include h

theorem boundOff_mode0 (hm : recMode k = 0) : boundOff k off size = none := by
  rw [boundOff, if_pos h, hm]
  rfl

theorem boundOff_mode1 (hm : recMode k = 1) : boundOff k off size = some none := by
  rw [boundOff, if_pos h, hm]
  rfl

/-- Clamping takes the first element below the extent and the last whole element above it. -/
theorem boundOff_mode2 (hm : recMode k = 2) (hs : size ≤ recExtent k) :
    boundOff k off size = some (some (if off < 0 then (0 : Int) else (recExtent k / size - 1) * size)) := by
  rw [boundOff, if_pos h, hm]
  exact if_neg (Nat.not_lt.mpr hs)

theorem boundOff_mode2_small (hm : recMode k = 2) (hs : recExtent k < size) : boundOff k off size = none := by
  rw [boundOff, if_pos h, hm]
  exact if_pos hs

end

/-- Settles O21: the offset by its form, the address by what the bounds mode makes of the offset. -/
theorem laneAddresses : Obligations.LaneAddresses :=
  ⟨fun _ _ _ _ _ _ => ⟨laneOffset_one .., laneOffset_three ..⟩, fun _ _ _ =>
    ⟨fun h => laneAddr_of_boundOff (boundOff_inside h), fun h hm => laneAddr_bounds (boundOff_mode0 h hm),
     fun h hm => laneAddr_drop (boundOff_mode1 h hm), fun h hm hs => laneAddr_of_boundOff (boundOff_mode2 h hm hs),
     fun h hm hs => laneAddr_bounds (boundOff_mode2_small h hm hs)⟩⟩

/-! ### Scratchpad forms (R224, R226) -/

theorem scratchCause_eq_none {g : Group} {x : Int} {n : Nat} (hx : 0 ≤ x) (hg : g.scratchOk x.toNat 1 = true) (ha : x.toNat % n = 0) :
    scratchCause g x n = none := by
  simp [scratchCause, hg, ha, Int.not_lt.mpr hx]

/-- What a lane of a scratchpad access fails with, and its address (R226). -/
theorem scratchCause_failure (g : Group) (x : Int) (n va : Nat) :
    (scratchCause g x n).map (fun c => (c, va)) =
      if x < 0 ∨ g.scratchOk x.toNat 1 = false then some (.scratchRange, va)
      else if x.toNat % n ≠ 0 then some (.misalign, va) else none := by
  unfold scratchCause
  simp only [Bool.not_eq_true', bne_iff_ne]
  split
  · rfl
  · split <;> rfl

/-- Settles O25: the 20 instructions are one slot; its lanes all pass, or the first cause of R226 that one of them fails is taken. That the page
judged is the one in which the address lies is the model's choice (log 12). -/
theorem scratchForms : Obligations.ScratchForms := by
  intro q hq d a f s size rd wr place u
  have form : exec (q.1 d a f) s = scratchDo q.2.1 size rd wr (decide (rd = 2) || decide (wr = 2)) d a f s := by
    subst size rd wr
    simp only [List.mem_cons, List.not_mem_nil, or_false] at hq
    rcases hq with rfl | rfl | rfl | rfl | rfl | rfl | rfl | rfl | rfl | rfl | rfl | rfl | rfl | rfl | rfl | rfl | rfl | rfl | rfl | rfl <;> rfl
  refine ⟨fun hl => retires_slot form ?enters, fun cause m va hl => traps_slot form ?traps⟩
  case enters =>
    have pass : ∀ l ∈ lanesIn s.active, scratchCause s.g (scratchAddr s.src a f l) size = none := fun l h =>
      (hl l h).elim fun low rest => scratchCause_eq_none low rest.1 rest.2
    rw [scratchLanes_ok _ _ _ _ _ pass]
    rfl
  case traps =>
    rw [scratchLanes_first _ (by simp only [scratchCause_failure]; exact hl)]

end Sys2Proof.Machine
end

section
/-!
RECORDS AND FENCES. ldrec and strec by the alignment of their address, the words that mkrec packs, and what a fence finds outstanding
(10_buffer.md R209, R227..R230).
-/
namespace Sys2Proof.Machine

/-! ### Records (R209) -/

/-- Shifting the higher words by 32 bits and adding the lowest is appending it (R209). -/
theorem toNat_add_shift_eq_append {n : Nat} (lo : Word) (hi : BitVec n) : lo.toNat + 2 ^ 32 * hi.toNat = (hi ++ lo).toNat := by
  rw [BitVec.toNat_append, ← Nat.shiftLeft_add_eq_or_of_lt lo.isLt, Nat.shiftLeft_eq]
  omega

/-- Eight words packed as a number, the first the lowest, are the words appended (R209). -/
theorem ofNat_foldr_words_eq_append (w : Nat → Word) :
    BitVec.ofNat 256 ((List.range 8).foldr (fun i x => (w i).toNat + 2 ^ 32 * x) 0) = w 7 ++ w 6 ++ w 5 ++ w 4 ++ w 3 ++ w 2 ++ w 1 ++ w 0 := by
  simp only [List.range, List.range.loop, List.foldr_cons, List.foldr_nil, Nat.mul_zero, Nat.add_zero]
  simp only [toNat_add_shift_eq_append, BitVec.ofNat_toNat, BitVec.setWidth_eq]

/-- Settles O26: ldrec and strec by the alignment of their address, mkrec by the words that it packs. -/
theorem recordForms : Obligations.RecordForms := by
  refine ⟨fun k a s => ⟨fun h => ⟨?load, ?store⟩, fun h => ⟨?loadTraps, ?storeTraps⟩⟩, fun k a s => ?pack, fun d a s => retires_of rfl⟩
  case load => exact retires_slot (show exec (.ldrec k a) s = execLdrec k a s from rfl) (if_neg (by simp [h]))
  case store => exact retires_slot (show exec (.strec a k) s = execStrec a k s from rfl) (if_neg (by simp [h]))
  case loadTraps => exact traps_slot (show exec (.ldrec k a) s = execLdrec k a s from rfl) (if_pos (bne_iff_ne.mpr h))
  case storeTraps => exact traps_slot (show exec (.strec a k) s = execStrec a k s from rfl) (if_pos (bne_iff_ne.mpr h))
  case pack =>
    refine retires_slot (show exec (.mkrec k a) s = execMkrec k a s from rfl) ?_
    rw [ofNat_foldr_words_eq_append fun i => s.src.sget (BitVec.ofNat 7 (a.toNat + i))]

/-! ### Fences (R227, R441) -/

/-- A fence finds nothing outstanding where each earlier entry of LD, ST, SCR, REC and ATM is performed at grp. -/
theorem Warp.fenceMet_iff (w : Warp) (upto : Nat) :
    w.fenceMet upto = true ↔ ∀ e ∈ w.entries, e.path ≤ 4 → e.seq < upto → e.done = true ∨ e.parked = true := by
  rw [Warp.fenceMet, List.all_eq_true]
  refine forall₂_congr fun e _ => ?_
  by_cases hp : e.path ≤ 4
  · by_cases hs : e.seq < upto <;> simp [fencePath, hp, hs]
  · simp [fencePath, hp]

/-- Settles O27: a fence by what it finds outstanding; the rest hold, or fill, whatever the state. That pf fills in its own step and that a fill of
the last-level cache leaves the state are the model's choice (logs 83, 80). -/
theorem fenceForms : Obligations.FenceForms := by
  refine ⟨fun k s => ⟨fun hk hi => ?free, fun h => ?holds⟩, fun s => retires_of rfl, fun a b s => ⟨retires_of rfl, retires_of rfl⟩,
    fun a l s => retires_slot (show exec (.pf a l) s = execPf a l s from rfl) rfl⟩
  case free => exact retires_slot (show exec (.fence k) s = execFence k s from rfl) (if_pos ⟨hk, (s.w.fenceMet_iff _).mpr hi⟩)
  case holds =>
    refine retires_slot (show exec (.fence k) s = execFence k s from rfl) (if_neg ?_)
    rw [Warp.fenceMet_iff]
    exact not_and_or.mpr h

end Sys2Proof.Machine
end

section
/-!
DISPATCH. What the dispatcher does for the first launch in its order and for the first group that waits for its core, and the events of page
switches, diverted arrivals, diversion entries and held trap records (14_group.md R216, R293, R294, R297, R304, R364, R366).
-/
namespace Sys2Proof.Machine

/-! ### The dispatcher (R293, R297) -/

section
variable {s t u : State} {l : Launch} {r : List Launch} {g h : Group} {gs : List Group} {k : Nat}

/-- The groups that wait for their victims to leave the core that they were given (R297). -/
def State.waitingGroups (s : State) : List Group :=
  s.groups.filter fun g => (g.status == .pending || g.status == .evicted) && g.target.isSome && s.dispatches g.ref.ctx

/-- A group that waits for its core comes before the launches, each in its order (R293, R297). -/
theorem State.select_eq (s : State) :
    s.select = ((s.waitingGroups.findSome? s.serveWaiting).or (s.serveOrder.findSome? s.serve)).getD s := by
  unfold State.select
  rw [← State.waitingGroups]
  dsimp only
  cases s.waitingGroups.findSome? s.serveWaiting <;> rfl

/-- The dispatcher serves the first group that waits, where it can be served. -/
theorem State.select_waiting (hw : s.waitingGroups = g :: gs) (hg : s.serveWaiting g = some t) : s.select = t := by
  rw [State.select_eq, hw, List.findSome?_cons, hg]
  rfl

/-- With no group that waits it serves the first launch of its order, where that can be served. -/
theorem State.select_launch (hw : s.waitingGroups = []) (ho : s.serveOrder = l :: r) (hl : s.serve l = some t) : s.select = t := by
  rw [State.select_eq, hw, ho, List.findSome?_cons, hl]
  rfl

theorem State.serveWaiting_placed (ht : g.target = some k) (hf : (s.coreAt k).fits (s.others k g) g = true) (hv : (s.coreAt k).vacated = false) :
    s.serveWaiting g = some (s.placeOn g k) := by
  simp [State.serveWaiting, ht, hf, hv]

/-- The group that a launch offers with the areas of its image, and the state that has reserved them (R294). -/
def State.imaged (s : State) (g : Group) : Option (Group × State) :=
  if g.status = .pending ∧ g.image = 0 then s.reserveGroup g else some (g, s)

theorem State.imaged_eq (hp : g.status = .pending ∧ g.image = 0 → s.reserveGroup g = some (h, u))
    (hk : (g.status = .pending → g.image ≠ 0) → h = g ∧ u = s) : s.imaged g = some (h, u) := by
  unfold State.imaged
  split
  · next c => exact hp c
  · next c =>
    obtain ⟨rfl, rfl⟩ := hk (not_and.mp c)
    rfl

section
variable (hn : s.nextOf l = some g) (hi : s.imaged g = some (h, u))
include hn hi

/-- A launch's group is placed on the best of the eligible cores (R293). -/
theorem State.serve_placed (hb : (u.taken g).bestCore h = some k) : s.serve l = some (((u.taken g).placeOn h k).servedLaunch l) := by
  change (s.nextOf l).bind (fun g => (s.imaged g).bind _) = _
  rw [hn, Option.bind_some, hi, Option.bind_some]
  dsimp only
  rw [hb]

/-- Where no core can hold it, victims are evicted and it waits for their core (R297). -/
theorem State.serve_evicts {vs : List Group} (hb : (u.taken g).bestCore h = none) (hv : (u.taken g).victims h = some (k, vs)) :
    s.serve l = some ((((u.taken g).evictAll (vs.map (·.ref))).setGroup { h with target := some k }).servedLaunch l) := by
  change (s.nextOf l).bind (fun g => (s.imaged g).bind _) = _
  rw [hn, Option.bind_some, hi, Option.bind_some]
  dsimp only
  rw [hb, hv]
  rfl

end
end

/-! ### Page switches (R216) -/

/-- An event of a group whose conditions do not hold leaves the state as it is. -/
theorem onGroup_stay {s t : State} {r : GRef} {f : State → Option State} (h : s.HoldsGroup r t) (hf : f t = none) : onGroup r f s = .next s := by
  obtain ⟨g, hg, rfl⟩ := h
  simp only [onGroup, hg, hf, Option.map_none, Option.getD_none]

/-- The group in the issue stage with page i in its new place; the next page of a group that leaves its core follows (R299). -/
def State.repointed (s : State) (i : Nat) (p : Page) (m : Bool) (f : Nat) : State :=
  let g := { s.g with pages := s.g.pages.set i { p with inMem := m, index := f, toward := none } }
  { s with g := if g.leaving then g.turnOut else g }

section
variable {s t : State} {i : Nat} {p : Page} {f : Nat} (hp : s.g.pages[i]? = some p)
include hp

theorem State.switchPage_toFrame (ht : p.toward = some (false, f)) : s.switchPage i = some (s.repointed i p false f) := by
  rw [State.switchPage, hp, Option.bind_some, ht]
  rfl

/-- A page that goes to memory is written there first (R216). -/
theorem State.switchPage_toMemory (ht : p.toward = some (true, f)) :
    s.switchPage i = (s.spillPage i).map fun t => t.repointed i p true f := by
  rw [State.switchPage, hp, Option.bind_some, ht]
  rfl

end

theorem State.spillPage_waits {s : State} {i : Nat} (h : s.fwReady s.g.ref.ctx (s.g.imageVa (4096 * i)) 4096 = false) : s.spillPage i = none := by
  rw [State.spillPage, h]
  rfl

/-- A page written to the scratch image, older copies of it gone from its core's L1 (R215). -/
theorem State.spillPage_written {s : State} {i pa : Nat} {l : Tlb} (h : s.fwReady s.g.ref.ctx (s.g.imageVa (4096 * i)) 4096 = true)
    (hp : s.peek s.g.core s.g.ref.ctx (s.g.imageVa (4096 * i)) true = .ok pa l) :
    s.spillPage i = some ((s.updCore s.g.core fun k => { k with l1 := k.l1.filter fun l => l.base / 4096 != pa / 4096 }).fwPut s.g.ref.ctx
      (s.g.imageVa (4096 * i)) (s.g.scratchRead (4096 * i) 4096)) := by
  rw [State.spillPage, h]
  dsimp only
  rw [hp]
  rfl

/-! ### Arrivals for an absent group and held trap records (R304, R364) -/

/-- A load, a record or an atomic that arrives for an absent group goes to its return slot (R304). -/
theorem State.divertedArrival_slot {s u : State} {seq : Nat} {e d : PathEntry} (ha : s.g.absent = true)
    (he : (s.w.entries.find? fun e => e.seq == seq && !e.done) = some e)
    (hd : e.path = 0 ∧ s.loadPart seq = some (u, d) ∨ e.path = 3 ∧ s.recordPart seq = some (u, d) ∨ e.path = 4 ∧ s.atomPart seq = some (u, d)) :
    s.divertedArrival seq = some (u.divertEntry d) := by
  rw [State.divertedArrival, ha, he, Option.bind_some]
  rcases hd with ⟨hp, hd⟩ | ⟨hp, hd⟩ | ⟨hp, hd⟩ <;> simp [hp, hd]

/-- What an update makes of the core that it names is all that counts. -/
theorem State.updCore_congr {s : State} {core : Nat} {f f' : Core → Core} (h : f (s.coreAt core) = f' (s.coreAt core)) :
    s.updCore core f = s.updCore core f' := by
  have same : s.cores.modify core f = s.cores.modify core f' := by
    refine List.ext_getElem (by simp) fun i hi _ => ?_
    rw [List.length_modify] at hi
    simp only [List.getElem_modify]
    split
    · next e =>
      subst e
      simpa [State.coreAt, hi] using h
    · rfl
  rw [State.updCore, State.updCore, same]

/-- The diversion entries of a group go where none of them has anything still to land (R304). -/
theorem diversionEntryFree_next {s : State} {core : Nat} {r : GRef}
    (h : ∀ g, s.groupOf r = some g → ∀ d ∈ (s.coreAt core).divert, d.ref = r → g.landing d.clks = false) :
    exec (.diversionEntryFree core r) s = .next (s.updCore core fun k => { k with divert := k.divert.filter fun d => d.ref != r }) := by
  have ended (d : Divert) (hd : d ∈ (s.coreAt core).divert) : (d.ref == r && !((s.groupOf r).any fun g => g.landing d.clks)) = (d.ref == r) := by
    by_cases hr : d.ref = r
    · have landed : ((s.groupOf r).any fun g => g.landing d.clks) = false := by
        rw [Option.any_eq_false]
        exact fun g hg => by simp [h g hg d hd hr]
      rw [landed, Bool.not_false, Bool.and_true]
    · simp [hr]
  refine congrArg Host.Outcome.next (State.updCore_congr ?_)
  rw [List.filter_congr fun d hd => congrArg not (ended d hd)]
  rfl

/-- A trap record is placed in the slot that the write index names, the index moved on and vector 1 raised (R364). -/
theorem State.placeTrap_placed {s u : State} {c : Context} {x : List Byte} {widx ridx : Nat}
    (hi : s.fwIndices c.id c.trapBase = some (widx, ridx, u)) (hw : widx < ridx + 2 ^ c.trapLog2)
    (ha : u.fwReady c.id (c.trapBase + 256 * (widx % 2 ^ c.trapLog2)) 256 = true) (hb : u.fwReady c.id (c.trapBase - 16) 8 = true) :
    s.placeTrap c x = some (((u.fwPut c.id (c.trapBase + 256 * (widx % 2 ^ c.trapLog2)) x).fwPut c.id (c.trapBase - 16)
      (leBytes 8 (widx + 1))).interrupt c.tenant 1) := by
  simp [State.placeTrap, hi, hw, ha, hb]

theorem State.placeHeldTrap_placed {s u : State} {ctx : Nat} {c : Context} {x : List Byte} {rest : List (List Byte)} (hc : s.ctxOf ctx = some c)
    (hh : c.heldTraps = x :: rest) (hp : s.placeTrap c x = some u) :
    s.placeHeldTrap ctx = u.updCtx ctx fun c => { c with heldTraps := rest } := by
  simp only [State.placeHeldTrap, hc, hh, hp, Option.map_some, Option.getD_some]

/-- Settles O40: the dispatcher's turn by whether a group waits for its core, the page switch by where the page goes, the rest each by its lemma
above. The waiting group before the launches, the order of victims and the place from which the order goes on are the model's choice (logs 39 to 41). -/
theorem dispatchEvents : Obligations.DispatchEvents := by
  refine ⟨fun s0 => ⟨fun l r g h u hw ho hn hp hk => ⟨fun k hb => ?placed, fun k vs hb hv => ?evicts⟩, fun g r k hw ht hf hv => ?waiting⟩,
    fun s r t i p f hr hp => ⟨fun ht => ?toFrame, fun ht => ⟨fun hn => ?waits, fun pa l hy hx => ?toMemory⟩⟩,
    fun s r t seq e u d hr ha he hd => ?arrival, fun s core r h _ => diversionEntryFree_next h,
    fun s ctx c x rest widx ridx u hc hh hi hw ha hb => ?trap⟩
  case placed => exact congrArg Host.Outcome.next (State.select_launch hw ho (State.serve_placed hn (State.imaged_eq hp hk) hb))
  case evicts => exact congrArg Host.Outcome.next (State.select_launch hw ho (State.serve_evicts hn (State.imaged_eq hp hk) hb hv))
  case waiting => exact congrArg Host.Outcome.next (State.select_waiting hw (State.serveWaiting_placed ht hf hv))
  case toFrame => exact onGroup_next (f := (·.switchPage i)) hr (State.switchPage_toFrame hp ht)
  case waits => exact onGroup_stay (f := (·.switchPage i)) hr (by rw [State.switchPage_toMemory hp ht, State.spillPage_waits hn]; rfl)
  case toMemory => exact onGroup_next (f := (·.switchPage i)) hr (by rw [State.switchPage_toMemory hp ht, State.spillPage_written hy hx]; rfl)
  case arrival => exact onWarpAny_next hr (State.divertedArrival_slot ha he hd)
  case trap => exact congrArg Host.Outcome.next (State.placeHeldTrap_placed hc hh (State.placeTrap_placed hi hw ha hb))

end Sys2Proof.Machine
end

section
/-!
COPIES. The lanes of cpy32, a stage that is applied as it issues or later, the word that waitge watches, and the marks of qfence (12_copy.md
R247, R253, R255, R259, R260, R262..R264).
-/
namespace Sys2Proof.Machine

/-! ### cpy32 (R259, R260) -/

/-- What a lane fails with, where it fails. -/
def laneError {α : Type} : Except (Cause × Nat) α → Option (Cause × Nat)
  | .error x => some x
  | .ok _ => none

/-- Where a lane of cpy32 reads, or what it fails with (R259, R260). -/
def State.copySource (s : State) (k : BitVec 5) (a b : BitVec 7) (l : Nat) : Except (Cause × Nat) (Nat × Nat) :=
  copyLane s.g (s.recOf k) (laneAt (s.src.vget a) l).toNat (laneAt (s.src.vget (a + 1)) l).toNat (laneAt (s.src.vget b) l).toNat

/-- The active lanes of cpy32, each with its place in scratch and its source. -/
def State.copyLanes (s : State) (k : BitVec 5) (a b : BitVec 7) : List (Nat × Nat × Except (Cause × Nat) (Nat × Nat)) :=
  (lanesIn s.active).map fun l => (l, (laneAt (s.src.vget b) l).toNat, s.copySource k a b l)

/-- The lanes of cpy32 that fail. -/
def cpy32Fails (xs : List (Nat × Nat × Except (Cause × Nat) (Nat × Nat))) : List LaneFail :=
  xs.filterMap fun x => match x.2.2 with
    | .error e => some { lane := x.1, cause := e.1, addr := e.2 }
    | .ok _ => none

/-- The requests of the lanes of cpy32 that have a source. -/
def cpy32Reqs (xs : List (Nat × Nat × Except (Cause × Nat) (Nat × Nat))) : List LaneReq :=
  xs.filterMap fun x => match x.2.2 with
    | .ok y => some { lane := x.1, va := y.1, drop := false, data := BitVec.ofNat 128 x.2.1, len := y.2 }
    | .error _ => none

/-- One entry on the path of a tag and one in the warp's copy queue (R259). -/
def State.copyEntered (s : State) (t : BitVec 3) (reqs : List LaneReq) : State :=
  { s with w := { s.w with
      entries := s.w.entries ++ [s.entryOf (8 + t.toNat) .cpy32 0 reqs []],
      nextSeq := s.w.nextSeq + 1,
      copyQ := s.w.copyQ ++ [{ set := s.iss.setNo, pc := s.iss.at_, clk0 := s.w.clk, op := .cpy32 s.w.nextSeq, st := .queued, rows := 0,
                               held := [], heldBytes := 0 }] } }

/-- What cpy32 does with the lanes that it finds. -/
def State.copyEffect (s : State) (t : BitVec 3) (xs : List (Nat × Nat × Except (Cause × Nat) (Nat × Nat))) : Eff :=
  match firstCause copyCauses (cpy32Fails xs) with
  | some (c, m, ad) => .trap (s.laneTrap c m ad)
  | none => .done (s.copyEntered t (cpy32Reqs xs))

section
variable {s : State} {t : BitVec 3} {k : BitVec 5} {a b : BitVec 7}

theorem execCpy32_eq (t : BitVec 3) (k : BitVec 5) (a b : BitVec 7) : execCpy32 t k a b =
    slotDo { wf := even a, vtop := max (a.toNat + 2) (b.toNat + 1), reads := [.v a.toNat, .v (a.toNat + 1), .v b.toNat, .k k.toNat],
             lane := true, path := some (8 + t.toNat), mem := true }
      fun s => if !recUsable (s.recOf k) then .trap (s.trapOf .badRecord) else s.copyEffect t (s.copyLanes k a b) := rfl

/-- The failures that cpy32 finds are those of its active lanes. -/
theorem State.cpy32Fails_lanes : cpy32Fails (s.copyLanes k a b) = failsOf (lanesIn s.active) fun l => laneError (s.copySource k a b l) := by
  rw [cpy32Fails, State.copyLanes, List.filterMap_map]
  refine List.filterMap_congr fun l _ => ?_
  simp only [Function.comp]
  cases s.copySource k a b l <;> rfl

theorem State.copyEffect_first {fail : Nat → Option (Cause × Nat)} {c : Cause} {m : LaneMask} {va : Nat}
    (hf : ∀ l, fail l = laneError (s.copySource k a b l)) (h : FirstFails [.misalign, .scratchRange, .bounds] s.active fail c m va) :
    s.copyEffect t (s.copyLanes k a b) = .trap { s.trapOf c with mask := m, addr := some va } := by
  rw [State.copyEffect, State.cpy32Fails_lanes, ← funext hf, copyCauses, firstCause_first h]
  rfl

/-- Active lanes that all have a source become one request each. -/
theorem State.copyEffect_enters {src : Nat → Nat × Nat} (h : ∀ l ∈ lanesIn s.active, s.copySource k a b l = .ok (src l)) :
    s.copyEffect t (s.copyLanes k a b) = .done (s.copyEntered t ((lanesIn s.active).map fun l =>
      { lane := l, va := (src l).1, drop := false, data := BitVec.ofNat 128 (laneAt (s.src.vget b) l).toNat, len := (src l).2 })) := by
  have pass : cpy32Fails (s.copyLanes k a b) = [] := by
    rw [State.cpy32Fails_lanes]
    exact List.filterMap_eq_nil_iff.mpr fun l hl => by simp only [h l hl]; rfl
  rw [State.copyEffect, pass, firstCause_nil]
  refine congrArg (fun reqs => Eff.done (s.copyEntered t reqs)) ?_
  rw [cpy32Reqs, State.copyLanes, List.filterMap_map, ← List.filterMap_eq_map]
  exact List.filterMap_congr fun l hl => by simp only [Function.comp, h l hl]

end

/-! ### stage (R253, R255, R262) -/

/-- The request of a stage that issues, of the next stage number (R262). -/
def State.stageRequest (s : State) (a b : BitVec 7) : StageReq :=
  { warp := s.w.wid, pc := s.iss.at_, clk0 := s.w.clk, number := s.g.stage + 1, dy := (s.src.sget a).toInt, dz := (s.src.sget b).toInt }

/-- The entry of a stage that issues (R255). -/
def State.stageItem (s : State) : CopyItem :=
  { set := s.iss.setNo, pc := s.iss.at_, clk0 := s.w.clk, op := .stage (s.g.stage + 1), st := .queued, rows := 0, held := [], heldBytes := 0 }

/-- A stage counted and entered in the copy queue, with the stages that the group then has to apply (R255, R262). -/
def State.stageEntered (s : State) (waits : List StageReq) : State :=
  { s with g := { s.g with stage := s.g.stage + 1, schedWait := waits }, w := { s.w with copyQ := s.w.copyQ ++ [s.stageItem] } }

section
variable {s : State} {a b : BitVec 7}

theorem execStage_eq (a b : BitVec 7) : execStage a b =
    slotDo { reads := [.s a.toNat, .s b.toNat], mem := true } fun s =>
      if s.g.desc.sched = 0 then .trap (s.trapOf .illOp)
      else
        let x := s.stageEntered (s.g.schedWait ++ [s.stageRequest a b])
        .done (if s.iss.chained then x else x.nextStage.getD x) := rfl

/-- A stage completes with its place taken, or with what it releases where it may be applied at once (R41, R253). -/
theorem stage_retires {t : State} (h : s.g.desc.sched ≠ 0)
    (ht : (if s.iss.chained then s.stageEntered (s.g.schedWait ++ [s.stageRequest a b])
      else (s.stageEntered (s.g.schedWait ++ [s.stageRequest a b])).nextStage.getD (s.stageEntered (s.g.schedWait ++ [s.stageRequest a b]))) = t) :
    Retires (.stage a b) { reads := [.s a.toNat, .s b.toNat], mem := true } s t :=
  retires_slot (congrFun (execStage_eq a b) s) ((if_neg h).trans (congrArg Eff.done ht))

/-- A group's oldest stage waits for its own warp (R253). -/
theorem State.nextStage_other {q : StageReq} {l : List StageReq} (hq : s.g.schedWait = q :: l) (hw : q.warp ≠ s.w.wid) :
    s.nextStage = none := by
  rw [State.nextStage, hq]
  cases s.w.copyQ with
  | nil => rfl
  | cons i m => exact if_pos (by simp [hw])

/-- A stage waits for the entries before it in its copy queue (R245). -/
theorem State.nextStage_behind {q : StageReq} {l : List StageReq} {i : CopyItem} {m : List CopyItem} (hq : s.g.schedWait = q :: l)
    (hi : s.w.copyQ = i :: m) (hop : i.op ≠ .stage q.number) : s.nextStage = none := by
  rw [State.nextStage, hq, hi]
  exact if_pos (by simp [hop])

/-- A stage behind another stage of its group, or behind an entry of its copy queue, is not applied as it issues. -/
theorem State.nextStage_stageEntered_none (hbusy : s.g.schedWait ≠ [] ∨ s.w.copyQ ≠ [])
    (hwarp : ∀ q l, s.g.schedWait = q :: l → q.warp ≠ s.w.wid) (hop : ∀ x ∈ s.w.copyQ, x.op ≠ .stage (s.g.stage + 1)) :
    (s.stageEntered (s.g.schedWait ++ [s.stageRequest a b])).nextStage = none := by
  cases hs : s.g.schedWait with
  | cons q l => exact State.nextStage_other (q := q) rfl (hwarp q l hs)
  | nil =>
    obtain ⟨i, m, hi⟩ := List.exists_cons_of_ne_nil (hbusy.resolve_left (not_not.mpr hs))
    exact State.nextStage_behind (q := s.stageRequest a b) rfl (congrArg (· ++ [s.stageItem]) hi) (hop i (by simp [hi]))

/-- A stage with nothing before it is applied as it issues, where its schedule can be read (R253, R255). -/
theorem stage_retires_alone {r : Option State} (h : s.g.desc.sched ≠ 0) (hs : s.g.schedWait = []) (hq : s.w.copyQ = [])
    (hc : s.iss.chained = false) (hw : (s.stageEntered [s.stageRequest a b]).w.setWaits s.iss.setNo = false)
    (hr : (s.stageEntered []).releaseStage (s.stageRequest a b) = r) :
    Retires (.stage a b) { reads := [.s a.toNat, .s b.toNat], mem := true } s (r.getD (s.stageEntered [s.stageRequest a b])) := by
  have next : (s.stageEntered [s.stageRequest a b]).nextStage = (s.stageEntered []).releaseStage (s.stageRequest a b) :=
    State.nextStage_head (i := s.stageItem) rfl (congrArg (· ++ [s.stageItem]) hq) rfl rfl hw
  refine stage_retires h ?_
  rw [hc, hs]
  exact congrArg (Option.getD · _) (next.trans hr)

end

/-! ### waitge (R263) -/

section
variable {s s1 : State} {va n pa : Nat} {t : Tlb} {met : List Byte → Bool}
  (ht : s.translate s.g.core s.g.ref.ctx va false = (.ok pa t, s1)) (hp : s1.parkedOver s1.g.core pa n = false)
  (hf : s1.homeFails pa n t.key true = none)
include ht hp hf

/-- The wait for a word ends, with an acquire, once the word meets its condition (R263, R326). -/
theorem State.watch_met (hm : met (s1.homeRead pa n) = true) : s.watch va n met =
    .done (((s1.sendLoad s1.g.core t.key pa 1 n).exchange s1.g.core pa false).dropClean s1.g.core) := by
  simp only [State.watch, ht, hp, hf, hm, Bool.false_eq_true, if_false, if_true]

theorem State.watch_unmet (hm : met (s1.homeRead pa n) = false) : s.watch va n met = .wait := by
  simp only [State.watch, ht, hp, hf, hm, Bool.false_eq_true, if_false]

end

/-! ### qfence (R247, R264) -/

/-- The mark of a qfence in the copy queue. -/
def State.copyMark (s : State) : CopyItem :=
  { set := s.iss.setNo, pc := s.iss.at_, clk0 := s.w.clk, op := .fence s.g.fenceId, st := .queued, rows := 0, held := [], heldBytes := 0 }

/-- Its mark in the tile queue. -/
def State.tileMark (s : State) : TileEntry :=
  { seq := 0, set := 0, pc := s.iss.at_, clk0 := s.w.clk, op := .fence s.g.fenceId, act := 0, addrs := [], word := 0, coord := 0, age := 0,
    st := .posted, commit := 0, rows := [], chunks := 0, granted := none, divs := 0, rerun := false, rewrite := false, suspect := none }

/-- Its mark in the collective queue. -/
def State.collMark (s : State) : CollItem :=
  { set := s.iss.setNo, pc := s.iss.at_, clk0 := s.w.clk, addr := 0, fence := some s.g.fenceId, record := none, peers := [], written := false }

/-- qfence enters its mark in each queue that its code names, and in no other. -/
theorem qfence_retires (q : BitVec 3) (s : State) :
    Retires (.qfence q) { wf := decide (q ≠ 0), mem := true } s
      { s with
        w := { s.w with
          copyQ := s.w.copyQ ++ (if q.getLsbD 0 then [s.copyMark] else []),
          tileQ := s.w.tileQ ++ (if q.getLsbD 1 then [s.tileMark] else []),
          collQ := s.w.collQ ++ (if q.getLsbD 2 then [s.collMark] else []) },
        g := { s.g with fenceId := s.g.fenceId + 1 } } := by
  have named : (q != 0) = decide (q ≠ 0) := (congrArg not (beq_eq_decide q 0)).trans decide_not.symm
  rw [← named]
  refine retires_slot (show exec (.qfence q) s = execQfence q s from rfl) ?_
  dsimp only
  cases q.getLsbD 0 <;> cases q.getLsbD 1 <;> cases q.getLsbD 2 <;>
    simp only [Bool.false_eq_true, if_true, if_false, List.append_nil] <;> rfl

/-- Settles O28: cpy32 by its lanes, stage by whether it may be applied as it issues, waitge by the word that it finds. The order of the causes of
cpy32, and its alignment before the clamp, are the model's choice (log 122). -/
theorem copyForms : Obligations.CopyForms := by
  refine ⟨fun t k a b s src => ⟨fun hk hl => ?enters, fun hk => ?badRecord, fun c m va hk hl => ?fails⟩,
    fun a b s => ⟨fun h0 => ?noSchedule, fun h0 => ⟨fun hc => ?unchained, fun hbusy hwarp hop => ?later,
      fun hs hq hc hw => ⟨fun hr => ?away, fun u hr => ?applied⟩⟩⟩,
    fun a b s s1 pa t => ⟨fun h8 => ?misaligned, fun h8 ht hp hf => ⟨fun hm => ?reached, fun hm => ?below⟩⟩,
    qfence_retires, fun d s => retires_of rfl⟩
  case enters =>
    refine retires_slot (congrFun (execCpy32_eq t k a b) s) ?_
    rw [show recUsable (s.recOf k) = true from hk]
    exact State.copyEffect_enters hl
  case badRecord =>
    refine traps_slot (congrFun (execCpy32_eq t k a b) s) ?_
    rw [show recUsable (s.recOf k) = false from hk]
    rfl
  case fails =>
    refine traps_slot (congrFun (execCpy32_eq t k a b) s) ?_
    rw [show recUsable (s.recOf k) = true from hk]
    refine State.copyEffect_first (fun l => ?_) hl
    dsimp only
    split <;> next h => exact (congrArg laneError h).symm
  case noSchedule => exact traps_slot (congrFun (execStage_eq a b) s) (if_pos h0)
  case unchained => exact stage_retires h0 (by rw [hc]; rfl)
  case later =>
    refine stage_retires h0 ?_
    split
    · rfl
    · next hc =>
      rw [State.nextStage_stageEntered_none (by simpa [hc] using hbusy) hwarp hop]
      rfl
  case away => exact stage_retires_alone (r := none) h0 hs hq hc hw hr
  case applied => exact stage_retires_alone (r := some u) h0 hs hq hc hw hr
  case misaligned => exact traps_slot (show exec (.waitge a b) s = execWaitge a b s from rfl) (if_pos (bne_iff_ne.mpr h8))
  case reached =>
    refine retires_slot (show exec (.waitge a b) s = execWaitge a b s from rfl) ((if_neg (by simpa using h8)).trans ?_)
    exact State.watch_met ht hp hf (decide_eq_true hm)
  case below =>
    refine stalls_wait (show exec (.waitge a b) s = execWaitge a b s from rfl) ((if_neg (by simpa using h8)).trans ?_)
    exact State.watch_unmet ht hp hf (decide_eq_false (Nat.not_le.mpr hm))

end Sys2Proof.Machine
end

section
/-!
MEMORY DEVICES. Channels, granules, slices and the scrubber, the stile, the host's reads and writes and its held error records (11_access.md R251,
18_context.md R361, R369, 19_page.md R382, R385..R388, R390, R391).
-/
namespace Sys2Proof.Machine

/-! ### Channels and slices (R385..R388) -/

section
variable (s : State)

/-- Slots changed one after another change the slot table alone. -/
theorem State.setSlots_frame (e : SlotEntry) (l : List Nat) : ∃ sl, l.foldl (fun t k => t.setSlot k e) s = { s with slots := sl } := by
  induction l generalizing s with
  | nil => exact ⟨_, rfl⟩
  | cons k l ih => exact ih (s.setSlot k e)

/-- So does giving a channel's slots their targets (R386). -/
theorem State.assignSlots_frame (ch : Nat) (l : List Nat) : ∃ sl, s.assignSlots ch l = { s with slots := sl } := by
  induction l generalizing s with
  | nil => exact ⟨_, rfl⟩
  | cons k l ih =>
    rw [State.assignSlots]
    split
    · exact ⟨_, rfl⟩
    · next c _ =>
      dsimp only
      split
      · next r _ =>
        exact ih ((s.setSlot r { state := .withdrawn, channel := c, target := 0 }).setSlot k { state := .moving, channel := ch, target := c })
      · exact ih (s.setSlot k { state := .moving, channel := ch, target := c })

/-- A channel marked as retired and its reserve slots withdrawn (R386). -/
def State.withdrawn (ch : Nat) : State :=
  (s.slotsOf ch .reserve).foldl (fun t k => t.setSlot k { state := .withdrawn, channel := ch, target := 0 })
    (s.setChannel { s.channelAt ch with retired := true })

/-- A channel recorded as retired, and the first of the slots that move (R386). -/
def State.channelGone (ch : Nat) : State :=
  { s with moving := s.firstMoving, flash := s.flash.retire (BitVec.ofNat 64 (6 + 2 ^ 8 * ch)) s.time.toNat,
           switor := { s.switor with cause := s.switor.cause ||| 2 } }

/-- The slot that moves first is read from the slots alone. -/
theorem State.channelGone_moving (ch : Nat) : (s.channelGone ch).moving = (s.channelGone ch).firstMoving := by
  have slots : (s.channelGone ch).slots = s.slots := by rw [State.channelGone]
  rw [firstMoving_congr _ _ slots, State.channelGone]

theorem State.withdrawn_assignSlots (ch : Nat) :
    ∃ cs sl, (s.withdrawn ch).assignSlots ch ((s.withdrawn ch).slotsOf ch .data) = { s with channels := cs, slots := sl } := by
  obtain ⟨reserve, hr⟩ := State.setSlots_frame (s.setChannel { s.channelAt ch with retired := true })
    { state := .withdrawn, channel := ch, target := 0 } (s.slotsOf ch .reserve)
  obtain ⟨slots, hs⟩ := (s.withdrawn ch).assignSlots_frame ch ((s.withdrawn ch).slotsOf ch .data)
  exact ⟨_, slots, hs.trans (congrArg (fun t : State => { t with slots := slots }) hr)⟩

/-- A channel past a threshold, the first in its order, is retired while none is and a reserve slot is left (R386). -/
theorem execChannelRetirement_next {ch : Nat} (h : ch < 384) (hr : (s.channelAt ch).retired = false) (hd : s.dueFirst ch = true)
    (hm : s.moving = none) (hs : ∃ k < 3072, (s.slotEntry k).state = .reserve) :
    ∃ cs sl, execChannelRetirement ch s = .next (State.channelGone { s with channels := cs, slots := sl } ch) := by
  have reserve : ((List.range 3072).any fun k => (s.slotEntry k).state == .reserve) = true := by simpa using hs
  obtain ⟨cs, sl, hw⟩ := s.withdrawn_assignSlots ch
  have done : execChannelRetirement ch s = .next (((s.withdrawn ch).assignSlots ch ((s.withdrawn ch).slotsOf ch .data)).channelGone ch) := by
    unfold execChannelRetirement
    rw [if_neg (by simp [hr, hd, hm, reserve, h])]
    unfold State.channelGone State.withdrawn
    rfl
  exact ⟨cs, sl, done.trans (by rw [hw])⟩

/-- A channel of a slice given to the slice that takes it (R388). -/
def State.takeChannel (slice c : Nat) : State :=
  match s.sliceTaker slice with
  | some x => { s with chanSlice := (c, x) :: s.chanSlice.filter (·.1 != c) }
  | none => s

/-- Channels given to other slices change the slices of the channels alone (R388). -/
theorem State.takeChannels_frame (slice : Nat) (l : List Nat) :
    ∃ cs, l.foldl (fun t c => t.takeChannel slice c) s = { s with chanSlice := cs } := by
  induction l generalizing s with
  | nil => exact ⟨_, rfl⟩
  | cons c l ih =>
    obtain ⟨cs, h⟩ := ih (s.takeChannel slice c)
    refine ⟨cs, h.trans ?_⟩
    unfold State.takeChannel
    split <;> rfl

/-- A slice recorded as retired (R388). -/
def State.sliceGone (slice : Nat) : State :=
  { s with flash := s.flash.retire (BitVec.ofNat 64 (7 + 2 ^ 8 * slice)) s.time.toNat, switor := { s.switor with cause := s.switor.cause ||| 1 } }

/-- A live slice that is not the last of its die retires, its channels given to others (R388). -/
theorem execSliceRetirement_next {slice : Nat} (h : slice < 128) (hl : s.slices.getD slice false = true) (ht : s.sliceTaker slice ≠ none) :
    ∃ cs, execSliceRetirement slice s = .next (State.sliceGone
      { s.foldStamps slice with slices := s.slices.set slice false, chanSlice := cs } slice) := by
  obtain ⟨cs, hc⟩ := State.takeChannels_frame { s.foldStamps slice with slices := s.slices.set slice false } slice (s.fronts slice)
  have done : execSliceRetirement slice s = .next (State.sliceGone ((s.fronts slice).foldl (fun t c => t.takeChannel slice c)
      { s.foldStamps slice with slices := s.slices.set slice false }) slice) := by
    unfold execSliceRetirement
    rw [if_neg (by rw [hl]; simp [h, ht])]
    unfold State.sliceGone State.takeChannel
    rfl
  exact ⟨cs, done.trans (by rw [hc])⟩

end

/-! ### The scrubber (R390, R391) -/

section
variable {s : State} {sec : Nat}

/-- An entry of the scrubber's log (R391). -/
def State.scrubEntry (s : State) (kind sec : Nat) : List Byte :=
  leBytes 1 kind ++ leBytes 1 0 ++ leBytes 2 (s.channelOf sec) ++ leBytes 4 0 ++ leBytes 8 sec ++ leBytes 1 (s.sectorKeyId sec) ++ leBytes 7 0 ++
    leBytes 8 s.time.toNat

/-- An entry added to the scrubber's log. -/
def State.scrubLogged (s : State) (x : List Byte) : State := { s with switor := { s.switor with scrubLog := s.switor.scrubLog ++ [x] } }

theorem State.scrubTag_eq : s.scrubTag sec = (s.scrubLogged (s.scrubEntry 3 sec)).poisonSector sec := rfl

/-- A corrected error changes the log and the channels alone (R386, R391). -/
theorem State.eccCorrected_frame (s : State) (source sec : Nat) :
    ∃ c, s.eccCorrected source sec = { s.logError 1 source (s.sectorKeyId sec) sec with channels := c } := by
  unfold State.eccCorrected
  dsimp only
  obtain ⟨c, h⟩ := State.markDue_frame (State.setChannel (s.logError 1 source (s.sectorKeyId sec) sec)
    { (s.logError 1 source (s.sectorKeyId sec) sec).channelAt (s.channelOf sec) with
      corrected := (((s.logError 1 source (s.sectorKeyId sec) sec).channelAt (s.channelOf sec)).corrected.filter
        fun x => decide (s.time.toNat < x + dayNs)) ++ [s.time.toNat] }) (s.channelOf sec)
  exact ⟨c, h⟩

/-- What the scrubber logs of a sector is the same after a correction. -/
theorem State.eccCorrected_scrubEntry (s : State) (source sec kind : Nat) :
    (s.eccCorrected source sec).scrubEntry kind sec = s.scrubEntry kind sec := by
  obtain ⟨c, h⟩ := s.eccCorrected_frame source sec
  rw [h]
  rfl

/-- What the scrubber does about what it finds in a sector (R390, R391). -/
def State.scrubResult (s : State) (sec : Nat) : SectorCheck → State
  | .clean => s
  | .corrected => if s.tagStands sec then s.eccCorrected 0 sec else (s.eccCorrected 0 sec).scrubTag sec
  | .uncorrectable => s.eccUncorrectable 0 sec
  | .tagFailure => s.scrubTag sec

theorem execScrubSector_live {sector : Nat} (h : 128 * sector < hbmEnd) (hl : (s.channelAt (s.channelOf (128 * sector))).retired = false)
    {found x : SectorCheck} (hx : s.scrubFinds (128 * sector) found = x) : execScrubSector sector found s = .next (s.scrubResult (128 * sector) x) := by
  unfold execScrubSector
  dsimp only
  rw [if_neg (by simp [hl, h]), hx]
  cases x <;> rfl

theorem State.scrubFinds_flaw (h : sec ∈ s.flaws) (found : SectorCheck) : s.scrubFinds sec found = .uncorrectable :=
  if_pos (List.contains_iff_mem.mpr h)

theorem State.scrubFinds_found {found : SectorCheck} (h : sec ∉ s.flaws) (ht : found = .clean → s.tagStands sec = true) :
    s.scrubFinds sec found = found := by
  rw [State.scrubFinds, if_neg (by simpa using h), if_neg]
  rintro ⟨hc, hn⟩
  simp [ht hc] at hn

theorem State.scrubFinds_tag (h : sec ∉ s.flaws) (ht : s.tagStands sec = false) : s.scrubFinds sec .clean = .tagFailure := by
  simp [State.scrubFinds, h, ht]

end

/-! ### The stile (R251, R382) -/

/-- The next group of a determinate launch, once it has retired, has its staged writes applied, where they all can be (R382). -/
theorem execStileRelease_next {s t : State} {ctx seq : Nat} {l : Launch} {g : Group} (hl : s.launchOf ctx seq = some l)
    (hg : (s.groups.find? fun g => g.ref.ctx == ctx && g.ref.seq == seq && g.ref.lgi == l.released) = some g) (hd : l.desc.determ = true)
    (hr : g.status = .retired) (ht : s.applyAll ctx seq g.staged = some t) :
    execStileRelease ctx seq s = .next (((t.updLaunch ctx seq fun l => { l with released := l.released + 1 }).freeArea ctx g.stagingArea).putGroup
      { g with staged := [], stagedSize := 0, stagingArea := 0 }) := by
  simp only [execStileRelease, hl, hg, hd, hr, ht, Bool.not_true, ne_eq, not_true_eq_false, or_self, Bool.false_eq_true, if_false]

/-! ### The host (R361) -/

section
variable {s : State} {tenant pa : Nat}

section
variable (ht : tenant < 16) (he : (s.tenants.getD tenant Tenant.fresh).enabled = true)
include ht he

theorem execHostAccess_read (len : Nat) : execHostAccess tenant pa len none s = .next (s.hostRead tenant pa len) := by
  unfold execHostAccess
  rw [if_neg (by rw [he]; simp [ht])]

theorem execHostAccess_write (bs : List Byte) :
    execHostAccess tenant pa bs.length (some bs) s = .next (s.hostWrite tenant pa bs).flushHeld := by
  unfold execHostAccess
  rw [if_neg (by rw [he]; simp [ht])]
  exact congrArg Host.Outcome.next (if_neg (not_not.mpr rfl))

end

/-- A read by the host leaves the memory and returns its bytes to its tenant (R361, R390). -/
theorem State.hostRead_returns (s : State) (tenant pa n : Nat) :
    (s.hostRead tenant pa n).mem = s.mem ∧
    (s.hostRead tenant pa n).tenants =
      s.tenants.modify tenant fun x => { x with readData := (List.range n).map fun i => s.hostByte tenant (pa + i) } := by
  have met (t : State) (sec : Nat) : (t.tagFailure (t.sectorKeyId sec) sec).mem = t.mem ∧ (t.tagFailure (t.sectorKeyId sec) sec).tenants = t.tenants := by
    obtain ⟨_, _, _, _, h⟩ := t.tagFailure_frame (t.sectorKeyId sec) sec
    rw [h]
    exact ⟨rfl, rfl⟩
  exact ⟨foldl_keeps State.mem (fun t sec => (met t sec).1) _ s,
    congrArg (List.modify · tenant _) (foldl_keeps State.tenants (fun t sec => (met t sec).2) _ s)⟩

theorem State.hostByte_outside (h : s.inWindows tenant (sectorOf pa) 128 = false) : s.hostByte tenant pa = 0xFF := by
  simp [State.hostByte, h]

theorem State.hostByte_inside (h : s.inWindows tenant (sectorOf pa) 128 = true) (hr : s.refused (sectorOf pa) = false)
    (hb : s.badStored (sectorOf pa) = false) : s.hostByte tenant pa = s.homeByte pa := by simp [State.hostByte, h, hr, hb]

/-- Bytes that one sector holds touch that sector alone. -/
theorem sectorsOf_one {n : Nat} (hn : 0 < n) (h : pa % 128 + n ≤ 128) : sectorsOf pa n = [sectorOf pa] := by
  have last : (pa + n - 1) / 128 - pa / 128 + 1 = 1 := by omega
  rw [sectorsOf, if_neg (by omega), last]
  rfl

/-- The part of bytes that one sector holds in that sector is all of them. -/
theorem partIn_one {bs : List Byte} (h : pa % 128 + bs.length ≤ 128) : partIn (sectorOf pa) pa bs = (pa, bs) := by
  have low : max (sectorOf pa) pa = pa := by unfold sectorOf; omega
  have len : min (sectorOf pa + 128) (pa + bs.length) - pa = bs.length := by unfold sectorOf; omega
  simp only [partIn, low, len, Nat.sub_self, List.drop_zero, List.take_length]

theorem State.hostWrite_one {bs : List Byte} (hn : 0 < bs.length) (h : pa % 128 + bs.length ≤ 128) :
    s.hostWrite tenant pa bs =
      if s.inWindows tenant (sectorOf pa) 128 then (s.physSector (sectorOf pa) (cellsAt pa bs)).noteStore 256 0 pa bs else s := by
  simp only [State.hostWrite, sectorsOf_one hn h, List.foldl_cons, List.foldl_nil, partIn_one h]

/-- A write to a sector of a live slot, no granule being copied, is performed (R385, R387). -/
theorem State.physSector_mem {sec : Nat} (ps : List Host.Cell) (h : sec < hbmEnd) (hr : s.refused sec = false) (hm : s.moving = none) :
    (s.physSector sec ps).mem = Memory.writeCells s.mem ps := by
  have still : s.copying sec = false := by simp [State.copying, hm]
  simp only [State.physSector, Nat.not_le.mpr h, hr, still, Bool.false_eq_true, if_false, State.keepSector]
  split <;> rfl

end

/-- The host frees a slot, and the oldest held record is placed in it (R369). -/
theorem execHostErrorQueueSlotFree_next {s t : State} {tenant : Nat} {r : List Byte} {rest : List (List Byte)}
    (hh : (s.tenants.getD tenant Tenant.fresh).errHeld = r :: rest) (ht : s.placeError tenant r = some t) :
    execHostErrorQueueSlotFree tenant s = .next { t with tenants := t.tenants.modify tenant fun x => { x with errHeld := rest } } := by
  simp only [execHostErrorQueueSlotFree, hh, ht, Option.map_some, Option.getD_some]

/-- Settles O47: each event by its lemma above, a sector by what the scrubber finds in it. The model's choices are the key id logged and ECC before
the tag (log 20), the sector that a number names (log 67) and the timestamps that a copied granule keeps (log 33). -/
theorem memoryDeviceEvents : Obligations.MemoryDeviceEvents := by
  refine ⟨⟨fun s ch hch hr hd hm hs hf => ?channel, fun s k g hm => ⟨fun hu => ?copied, fun hu => ?unreached⟩, fun s k g hm => ?copyEnd,
      fun s slice hsl hl ht hf => ?slice, fun s sector hin hlive =>
        ⟨fun hf ht => ?clean, fun hf ht => ?corrected, fun hf ht => ?correctedTag, fun hf ht => ?cleanTag, fun hf => ?tag, fun found h => ?flaw⟩⟩,
    fun s ctx seq l g t hl hg hd hr ht => execStileRelease_next hl hg hd hr ht, fun s tenant pa len ht he => ?read,
    fun s tenant pa bs ht he => ⟨?write, fun hn hfit => ⟨fun hw => ?outside, fun hw hpa hr hm => ?inside⟩⟩,
    fun s tenant r rest t hh ht => execHostErrorQueueSlotFree_next hh ht⟩
  case channel =>
    obtain ⟨cs, sl, h⟩ := execChannelRetirement_next s hch hr hd hm hs
    exact ⟨_, h, rfl, rfl, congrArg Flash.retired (Flash.retire_new hf _), State.channelGone_moving _ ch⟩
  case copied =>
    refine congrArg Host.Outcome.next ?_
    rw [hm]
    exact if_neg (by simp [hu])
  case unreached =>
    refine congrArg Host.Outcome.next ?_
    rw [hm]
    exact if_pos hu
  case copyEnd =>
    refine congrArg Host.Outcome.next ?_
    rw [hm]
  case slice =>
    obtain ⟨cs, h⟩ := execSliceRetirement_next s hsl hl ht
    exact ⟨_, h, rfl, rfl, congrArg Flash.retired (Flash.retire_new hf _)⟩
  case clean => exact execScrubSector_live hin hlive (State.scrubFinds_found hf fun _ => ht)
  case corrected =>
    have finds := State.scrubFinds_found (found := .corrected) hf nofun
    exact (execScrubSector_live hin hlive finds).trans (congrArg _ (if_pos ht))
  case correctedTag =>
    have finds := State.scrubFinds_found (found := .corrected) hf nofun
    refine (execScrubSector_live hin hlive finds).trans (congrArg _ ((if_neg (by simp [ht])).trans ?_))
    rw [State.scrubTag_eq, State.eccCorrected_scrubEntry]
    rfl
  case cleanTag => exact execScrubSector_live hin hlive (State.scrubFinds_tag hf ht)
  case tag => exact execScrubSector_live hin hlive (State.scrubFinds_found (found := .tagFailure) hf nofun)
  case flaw =>
    have finds : s.scrubFinds (128 * sector) found = .uncorrectable := by
      by_cases hf : 128 * sector ∈ s.flaws
      · exact State.scrubFinds_flaw hf found
      · obtain rfl := h.resolve_left hf
        exact State.scrubFinds_found hf nofun
    obtain ⟨c, p, fl, hp, he⟩ := s.eccUncorrectable_frame 0 (128 * sector)
    exact ⟨_, (execScrubSector_live hin hlive finds).trans (congrArg _ he), hp, rfl, rfl⟩
  case read =>
    obtain ⟨hmem, hten⟩ := s.hostRead_returns tenant pa len
    exact ⟨⟨_, execHostAccess_read ht he len, hmem, hten⟩, State.hostByte_outside, State.hostByte_inside⟩
  case write => exact execHostAccess_write ht he bs
  case outside => rw [State.hostWrite_one hn hfit, hw]; rfl
  case inside =>
    have hsec : sectorOf pa < hbmEnd := lt_of_le_of_lt (Nat.div_mul_le_self pa 128) hpa
    rw [State.hostWrite_one hn hfit, hw]
    exact State.physSector_mem _ hsec hr hm

end Sys2Proof.Machine
end

section
/-!
SUPPORT. The canonical form of memory through the accesses of a core: the home slices, translation, the caches, the scratchpad
(19_page.md R372, R387). A function that changes other fields of the state alone needs no lemma here: the form speaks of `mem`.
-/
namespace Sys2Proof.Machine

/-! ### What an operation may answer -/

/-- Whatever an operation answers, if it answers, meets p. -/
def Ends {α : Type} (p : α → Prop) (o : Option α) : Prop := ∀ a, o = some a → p a

theorem Ends.none {α : Type} {p : α → Prop} : Ends p none := nofun

theorem Ends.some {α : Type} {p : α → Prop} {a : α} (h : p a) : Ends p (some a) := fun _ e => Option.some.inj e ▸ h

theorem Ends.ite {α : Type} {p : α → Prop} {c : Prop} [Decidable c] {x y : Option α} (hx : Ends p x) (hy : Ends p y) :
    Ends p (if c then x else y) := by
  split
  · exact hx
  · exact hy

theorem Ends.map {α β : Type} {p : α → Prop} {q : β → Prop} {o : Option α} {f : α → β} (h : Ends p o) (hf : ∀ a, p a → q (f a)) :
    Ends q (o.map f) := fun b e => by
  obtain ⟨a, ha, rfl⟩ := Option.map_eq_some_iff.mp e
  exact hf a (h a ha)

theorem Ends.bind {α β : Type} {p : α → Prop} {q : β → Prop} {o : Option α} {f : α → Option β} (h : Ends p o) (hf : ∀ a, p a → Ends q (f a)) :
    Ends q (o.bind f) := fun b e => by
  obtain ⟨a, ha, hb⟩ := Option.bind_eq_some_iff.mp e
  exact hf a (h a ha) b hb

/-- Of what is found nothing is said. -/
theorem Ends.any {α : Type} {o : Option α} : Ends (fun _ => True) o := fun _ _ => trivial

theorem Ends.getD {α : Type} {p : α → Prop} {o : Option α} {a : α} (h : Ends p o) (ha : p a) : p (o.getD a) := by
  cases o with
  | none => exact ha
  | some b => exact h b rfl

theorem Ends.foldlM {α : Type} {p : State → Prop} {f : State → α → Option State} (hf : ∀ s a, p s → Ends p (f s a)) :
    ∀ (l : List α) {s : State}, p s → Ends p (l.foldlM f s)
  | [], _, hs => .some hs
  | a :: l, s, hs => (hf s a hs).bind fun _ ht => Ends.foldlM hf l ht

/-- The state that comes first in what is answered. -/
def FirstOk {α : Type} (x : State × α) : Prop := x.1.MemOk

/-- The state that comes second in what is answered. -/
def SecondOk {α : Type} (x : α × State) : Prop := x.2.MemOk

/-- A read leaves the form, whatever it ends in. -/
def Got.MemOk : Got → Prop
  | .ok _ t => t.MemOk
  | .fail _ t => t.MemOk
  | .wait => True

/-- An engine's access leaves the form, whatever it ends in. -/
def EGot.MemOk : EGot → Prop
  | .ok _ _ t => t.MemOk
  | .fail _ _ t => t.MemOk
  | .wait => True

theorem State.MemOk.ite {c : Prop} [Decidable c] {s t : State} (hs : s.MemOk) (ht : t.MemOk) : (if c then s else t).MemOk := by
  split
  · exact hs
  · exact ht

theorem Got.MemOk.ite {c : Prop} [Decidable c] {x y : Got} (hx : x.MemOk) (hy : y.MemOk) : (if c then x else y).MemOk := by
  split
  · exact hx
  · exact hy

theorem EGot.MemOk.ite {c : Prop} [Decidable c] {x y : EGot} (hx : x.MemOk) (hy : y.MemOk) : (if c then x else y).MemOk := by
  split
  · exact hx
  · exact hy

theorem SecondOk.ite {α : Type} {c : Prop} [Decidable c] {x y : α × State} (hx : SecondOk x) (hy : SecondOk y) : SecondOk (if c then x else y) := by
  split
  · exact hx
  · exact hy

theorem Got.MemOk.ok {r : Got} {bs : List Byte} {t : State} (h : r.MemOk) (e : r = .ok bs t) : t.MemOk := by rw [e] at h; exact h

theorem Got.MemOk.fail {r : Got} {c : Cause} {t : State} (h : r.MemOk) (e : r = .fail c t) : t.MemOk := by rw [e] at h; exact h

theorem EGot.MemOk.ok {r : EGot} {bs : List Byte} {l : List Tlb} {t : State} (h : r.MemOk) (e : r = .ok bs l t) : t.MemOk := by
  rw [e] at h; exact h

theorem EGot.MemOk.fail {r : EGot} {c : Cause} {a : Nat} {t : State} (h : r.MemOk) (e : r = .fail c a t) : t.MemOk := by
  rw [e] at h; exact h

/-! ### The home slices -/

section
variable {s : State} (h : s.MemOk)
include h

theorem State.MemOk.fold {α : Type} {f : State → α → State} (hf : ∀ s a, s.MemOk → (f s a).MemOk) (l : List α) : (l.foldl f s).MemOk :=
  foldl_wf f hf l s h

theorem State.MemOk.tagFailure (key pa : Nat) : (s.tagFailure key pa).MemOk := by
  obtain ⟨c, p, fl, sw, e⟩ := s.tagFailure_frame key pa
  rw [e]
  exact h

theorem State.MemOk.afterFail (c : Cause) (key pa : Nat) : (s.afterFail c key pa).MemOk := by
  unfold State.afterFail
  split
  · exact h.tagFailure key pa
  · exact h

theorem State.MemOk.sendFlit (target : Nat) (x : Flit) : (s.sendFlit target x).MemOk := by
  obtain ⟨l, e⟩ := s.sendFlit_links target x
  rw [e]
  exact h

theorem State.MemOk.sendWaiting : s.sendWaiting.MemOk :=
  State.MemOk.fold (s := { s with links := { s.links with waiting := [] } }) h (fun _ x ht => ht.sendFlit x.1 x.2) _

theorem State.MemOk.sendLoad (core key pa order n : Nat) : (s.sendLoad core key pa order n).MemOk := by
  unfold State.sendLoad
  split
  · exact h
  · obtain ⟨l, e⟩ := s.sendOp_links core pa key order (.load n)
    rw [e]
    exact h

theorem State.MemOk.homeStore (core key : Nat) (ps : List Host.Cell) : (s.homeStore core key ps).MemOk := State.homeStore_wf h core key ps

theorem State.MemOk.homeUpdated (core key pa order : Nat) (kind : RemoteKind) (bs : List Byte) :
    (s.homeUpdated core key pa order kind bs).MemOk := State.homeUpdated_wf h core key pa order kind bs

theorem State.MemOk.homeWrite (core key pa : Nat) (bs : List Byte) : (s.homeWrite core key pa bs).MemOk := State.homeWrite_wf h core key pa bs

/-! ### Translation -/

theorem State.MemOk.noPlace (core ctx ea : Nat) : Ends State.MemOk (s.noPlace core ctx ea) :=
  Ends.any.bind fun _ _ => .ite .none (.some h)

/-- A walk sets A and D bits in memory alone (R375). -/
theorem State.MemOk.walkIn (core ctx va : Nat) (write : Bool) : SecondOk (s.walkIn core ctx va write) := by
  unfold State.walkIn
  split
  · exact h
  · exact h.tagFailure ..
  · split
    · next e => exact h.noPlace core ctx _ _ e
    · exact h
  · exact .ite h (State.MemOk.ite h (State.orEntry_wf h ..))

theorem State.MemOk.translate (core ctx va : Nat) (write : Bool) : SecondOk (s.translate core ctx va write) := by
  have checked : ∀ r : Xl × State, SecondOk r → SecondOk (match r with
      | (.ok pa t, s1) => if write && !t.w then (.fail .prot, s1) else if s1.refused pa then (.fail .addrFault, s1) else (.ok pa t, s1)
      | other => other) := by
    intro r hr
    split
    · exact .ite hr (.ite hr hr)
    · exact hr
  unfold State.translate
  dsimp only
  apply checked
  split
  · split
    · exact h.walkIn ..
    · exact h
  · exact h.walkIn ..

theorem State.MemOk.translated {core ctx va : Nat} {write : Bool} {x : Xl} {t : State} (e : s.translate core ctx va write = (x, t)) : t.MemOk := by
  have ht := h.translate core ctx va write
  rw [e] at ht
  exact ht

/-! ### The caches of a core -/

theorem State.MemOk.writeBackLine (core : Nat) (l : Line) : (s.writeBackLine core l).MemOk := h.homeStore core l.key l.dirty

theorem State.MemOk.writeBackAll (core : Nat) : (s.writeBackAll core).MemOk := State.writeBackAll_wf h core

theorem State.MemOk.writeBackSector (core pa : Nat) : (s.writeBackSector core pa).MemOk := State.writeBackSector_wf h core pa

theorem State.MemOk.allocLine (core pa key policy : Nat) : (s.allocLine core pa key policy).MemOk := State.allocLine_wf h core pa key policy

theorem State.MemOk.storeBytes (core key policy pa : Nat) (bs : List Byte) : (s.storeBytes core key policy pa bs).MemOk :=
  State.storeBytes_wf h core key policy pa bs

theorem State.MemOk.loadBytes (core key policy pa n : Nat) : (s.loadBytes core key policy pa n).MemOk := by
  have past : ((s.writeBackSector core pa).dropSector core pa).MemOk := h.writeBackSector core pa
  have filled : (((s.allocLine core pa key policy).fillSector core pa key).touchLine core pa policy).MemOk := h.allocLine core pa key policy
  unfold State.loadBytes
  refine .ite (.ite trivial ?_) (.ite trivial (.ite h (.ite trivial ?_)))
  · split
    · exact past.afterFail ..
    · exact past
  · split
    · exact h.afterFail ..
    · exact filled

theorem State.MemOk.readGranule (core ctx va : Nat) : (s.readGranule core ctx va).MemOk := by
  unfold State.readGranule
  split
  · exact h
  · split
    · next e => exact h.translated e
    · trivial
    · next e =>
      have h1 := h.translated e
      split
      · trivial
      · split
        · exact h1.afterFail ..
        · exact h1.sendLoad ..

end

theorem State.MemOk.readGranules (core ctx : Nat) : ∀ (n : Nat) {s : State}, s.MemOk → ∀ va, (s.readGranules core ctx va n).MemOk
  | 0, _, h, _ => h
  | n + 1, s, h, va => by
    have first := h.readGranule core ctx va
    unfold State.readGranules
    split
    · next e =>
      have rest := State.MemOk.readGranules core ctx n (first.ok e) (va + 32)
      split
      · next e2 => exact rest.ok e2
      · exact rest
    · exact first

theorem State.MemOk.codeLine {s : State} (h : s.MemOk) (core ctx va : Nat) : SecondOk (s.codeLine core ctx va) := by
  unfold State.codeLine
  split
  · next e =>
    have h1 := h.translated e
    split
    · exact h1
    · split
      · exact h1.afterFail ..
      · exact h1
      · exact h1
  · exact h
  · next e => exact h.translated e
  · next e => exact h.translated e

theorem State.MemOk.prefetchLines (core ctx : Nat) : ∀ (l : List Nat) {s : State}, s.MemOk → (s.prefetchLines core ctx l).MemOk
  | [], _, h => h
  | va :: rest, s, h => by
    unfold State.prefetchLines
    split
    · exact State.MemOk.prefetchLines core ctx rest h
    · split
      · next e =>
        have ht := h.translated e
        exact State.MemOk.prefetchLines core ctx rest (.ite ht ht)
      · next e => exact State.MemOk.prefetchLines core ctx rest (h.translated e)
      · exact State.MemOk.prefetchLines core ctx rest h

theorem State.MemOk.prefetch {s : State} (h : s.MemOk) (va : Nat) : (s.prefetch va).MemOk := by
  unfold State.prefetch
  split
  · next e =>
    have h1 := h.translated e
    split
    · exact h1
    · refine h1.fold (fun u i hu => ?_) _
      exact .ite hu (hu.allocLine ..)
  · next e => exact h.translated e

/-! ### The scratchpad -/

section
variable {s : State} (h : s.MemOk)
include h

theorem State.MemOk.scratchWrite (a : Nat) (bs : List Byte) : (s.scratchWrite a bs).MemOk := by
  unfold State.scratchWrite
  refine State.MemOk.fold ?_ (fun u sec hu => ?_) _
  · exact h
  · dsimp only
    split
    · split
      · next e =>
        split
        · exact (hu.translated e).homeWrite ..
        · exact (hu.translated e).storeBytes ..
      · exact hu
    · exact hu

theorem State.MemOk.scratchLoad (a n : Nat) : (s.scratchLoad a n).MemOk := by
  unfold State.scratchLoad
  split
  · exact h
  · split
    · split
      · next e => exact (h.translated e).loadBytes ..
      · trivial
      · exact h
    · exact h

theorem State.MemOk.scratchRun (a n : Nat) : (s.scratchRun a n).MemOk := by
  unfold State.scratchRun
  refine List.foldlRecOn (motive := Got.MemOk) _ _ h fun r hr sec _ => ?_
  split
  · have part := State.MemOk.scratchLoad hr (max a sec) (min (a + n) (sec + 128) - max a sec)
    split
    · next e => exact part.ok e
    · exact part
  · exact hr

end

theorem State.MemOk.scratchRows (n : Nat) : ∀ (ps : List (Nat × Nat)) {s : State}, s.MemOk → Ends FirstOk (s.scratchRows n ps)
  | [], _, h => .some h
  | x :: rest, s, h => by
    unfold State.scratchRows
    refine .ite .none ?_
    split
    · exact .none
    · next e => exact (State.MemOk.scratchRows n rest ((h.scratchRun x.2 n).fail e)).map fun _ hy => hy
    · next e => exact (State.MemOk.scratchRows n rest ((h.scratchRun x.2 n).ok e)).map fun _ hy => hy

end Sys2Proof.Machine
end

section
/-!
SUPPORT. The canonical form of memory through the queues of a warp: loads, stores, atomics, records, the scratchpad, write-backs, the copy
unit, the schedules and the matrix engine (10_buffer.md to 13_tile.md; 19_page.md R372).
-/
namespace Sys2Proof.Machine

/-! ### Events -/

/-- A meaning keeps the canonical form of memory. -/
def KeepsMem (f : State → Result) : Prop := ∀ s t, s.MemOk → f s = .next t → t.MemOk

theorem KeepsMem.of_next {f : State → Result} {g : State → State} (e : ∀ s, f s = .next (g s)) (hg : ∀ s, s.MemOk → (g s).MemOk) :
    KeepsMem f := fun s t h ht => by
  obtain rfl := Host.Outcome.next.inj ((e s).symm.trans ht)
  exact hg s h

theorem State.MemOk.load {s : State} (h : s.MemOk) (r : WRef) : Ends State.MemOk (s.load r) := by
  unfold State.load
  split
  · exact .none
  · split
    · exact .none
    · exact .some h

theorem onWarp_keepsMem {r : WRef} {f : State → Option State} (hf : ∀ s, s.MemOk → Ends State.MemOk (f s)) : KeepsMem (onWarp r f) :=
  .of_next (fun _ => rfl) fun s h => by
    split
    · exact h
    · next e => exact .ite (((hf _ (h.load r _ e)).map (q := State.MemOk) fun _ ht => by exact ht).getD h) h

theorem onGroup_keepsMem {r : GRef} {f : State → Option State} (hf : ∀ s, s.MemOk → Ends State.MemOk (f s)) : KeepsMem (onGroup r f) :=
  .of_next (fun _ => rfl) fun s h => by
    split
    · exact h
    · next g _ => exact Ends.getD ((hf { s with g := g, w := (g.warps.head?).getD s.w } h).map fun _ ht => by exact ht) h

/-! ### What an entry does as it is performed -/

section
variable {s : State} (h : s.MemOk)
include h

theorem State.MemOk.acquireAt (scope : Nat) : (s.acquireAt scope).MemOk := .ite h h

theorem State.MemOk.complete (seq : Nat) : (s.complete seq).MemOk := by
  unfold State.complete
  dsimp only
  split
  · split
    · exact State.MemOk.acquireAt (by exact h) _
    · exact h
  · exact h

theorem State.MemOk.finish (e : PathEntry) : (s.finish e).MemOk := by
  have hc : ({ s with w := s.w.setEntry e }.complete e.seq).MemOk := State.MemOk.complete (by exact h) e.seq
  unfold State.finish
  dsimp only
  split
  · exact hc
  · exact hc

theorem State.MemOk.splitBack (e : PathEntry) : (s.splitBack e).MemOk := by
  unfold State.splitBack
  show State.MemOk (match e.back with | some x => s.putBack x e.set | none => s)
  split
  · exact h
  · exact h

theorem State.MemOk.landed (e : PathEntry) : (s.landed e).MemOk :=
  .ite (.splitBack (.complete (by exact h) e.seq) e) (.finish (by exact h) e)

theorem State.MemOk.orderedGate (va pa : Nat) (always : Bool) : Ends State.MemOk (s.orderedGate va pa always) := .ite (.some h) (.ite (.some h) .none)

theorem State.MemOk.stage (x : Staged) : Ends State.MemOk (s.stage x) := .ite .none (.some h)

theorem State.MemOk.release (scope : Nat) : Ends State.MemOk (s.release scope) :=
  .ite (.some h) (.ite .none (.some (h.writeBackAll s.g.core)))

theorem State.MemOk.clockAt (order scope pa : Nat) : (s.clockAt order scope pa).MemOk := .ite h h

/-! ### Loads -/

theorem State.MemOk.loadLane (e : PathEntry) (va n : Nat) : (s.loadLane e va n).MemOk := by
  unfold State.loadLane
  split
  · next et => exact h.translated et
  · trivial
  · next pa t s1 et =>
    have h1 := h.translated et
    have gated : Ends State.MemOk (if s1.ordered s1.g.core t then s1.orderedGate va pa false else some s1) :=
      .ite (h1.orderedGate va pa false) (.some h1)
    dsimp only
    split
    · trivial
    · next s2 e2 =>
      have h2 := gated s2 e2
      have past : ((s2.writeBackSector s2.g.core pa).dropSector s2.g.core pa).MemOk := h2.writeBackSector s2.g.core pa
      split
      · exact h2.clockAt ..
      · trivial
      · refine .ite (.ite trivial ?_) ?_
        · split
          · exact past.afterFail ..
          · exact (State.MemOk.sendLoad past ..).clockAt ..
        · have dropped : (if e.order = 1 ∧ (if 2 ^ 51 ≤ pa then 2 else e.scope) ≠ 0 then s2.dropSector s2.g.core pa else s2).MemOk := .ite h2 h2
          split
          · next e4 => exact ((dropped.loadBytes ..).ok e4 |>.sendLoad ..).clockAt ..
          · exact dropped.loadBytes ..

end

theorem State.MemOk.loadLanes (e : PathEntry) : ∀ (rs : List LaneReq) {s : State}, s.MemOk → Ends FirstOk (s.loadLanes e rs)
  | [], _, h => .some h
  | r :: rest, s, h => by
    unfold State.loadLanes
    refine .ite ((State.MemOk.loadLanes e rest h).map fun _ hx => hx) ?_
    split
    · exact .none
    · next e1 => exact (State.MemOk.loadLanes e rest ((h.loadLane ..).fail e1)).map fun _ hx => hx
    · next e1 => exact (State.MemOk.loadLanes e rest ((h.loadLane ..).ok e1)).map fun _ hx => hx

section
variable {s : State} (h : s.MemOk)
include h

theorem State.MemOk.fixLoad (e : PathEntry) : Ends State.MemOk (s.fixLoad e) :=
  .ite (.some h) <| Ends.bind (p := State.MemOk) (.ite (.ite (h.release _) .none) (.some h)) fun _ h0 =>
    (State.MemOk.loadLanes e e.reqs h0).map fun _ hx => hx

theorem State.MemOk.fixLoads (upto : Nat) : Ends State.MemOk (s.fixLoads upto) := Ends.foldlM (fun _ e ht => ht.fixLoad e) _ h

theorem State.MemOk.loadPart (seq : Nat) : Ends FirstOk (s.loadPart seq) := by
  unfold State.loadPart
  split
  · exact .none
  · exact (h.fixLoads _).bind fun _ h1 => Ends.any.map fun _ _ => h1

theorem State.MemOk.loadDone (seq : Nat) : Ends State.MemOk (s.loadDone seq) := .ite .none ((h.loadPart seq).map fun x hx => State.MemOk.landed hx x.2)

/-! ### Stores -/

theorem State.MemOk.storeLane (e : PathEntry) (va : Nat) (bs : List Byte) : ∀ t, s.storeLane e va bs = .ok t → t.MemOk := by
  intro u hu
  unfold State.storeLane at hu
  split at hu
  · next pa t s1 et =>
    have h1 := h.translated et
    dsimp only at hu
    split at hu
    · split at hu
      · next e2 =>
        cases hu
        exact (h1.stage _ _ e2).clockAt ..
      · cases hu
    · split at hu
      · cases hu
        exact State.MemOk.clockAt (by exact h1.homeUpdated s1.g.core t.key pa (clockOrder e.order) (.store bs) bs) ..
      · cases hu
        have h2 := h1.storeBytes s1.g.core t.key (if e.order = 2 then 3 else effPolicy t.policy e.policy) pa bs
        refine State.MemOk.clockAt ?_ ..
        exact State.MemOk.ite (h2.writeBackSector ..) h2
  · next et =>
    cases hu
    exact h.translated et

end

theorem State.MemOk.storeGroup (e : PathEntry) : ∀ (rs : List LaneReq) {s : State}, s.MemOk → ∀ t, s.storeGroup e rs = .ok t → t.MemOk
  | [], _, h, _, ht => by cases ht; exact h
  | r :: rest, s, h, t, ht => by
    unfold State.storeGroup at ht
    split at ht
    · next s1 e1 => exact State.MemOk.storeGroup e rest (s := s1.noteSent s.links.nextOp (e.lostTrap s.w.wid r) e.clk0) (h.storeLane e _ _ s1 e1) t ht
    · cases ht

theorem State.MemOk.storeLanes (e : PathEntry) : ∀ (rss : List (List LaneReq)) {s : State}, s.MemOk → FirstOk (s.storeLanes e rss)
  | [], _, h => h
  | g :: rest, s, h => by
    unfold State.storeLanes
    split
    · next s1 e1 => exact State.MemOk.storeLanes e rest (State.MemOk.storeGroup e g h s1 e1)
    · exact State.MemOk.storeLanes e rest h

section
variable {s : State} (h : s.MemOk)
include h

theorem State.MemOk.storeTried (fs : List LaneFail) : (s.storeTried fs).MemOk := h.fold (fun _ _ ht => ht.translate ..) fs

theorem State.MemOk.storeLeaves : Ends State.MemOk s.storeLeaves := by
  unfold State.storeLeaves
  split
  · exact .none
  · next e _ =>
    refine .ite .none ((h.fixLoads e.seq).bind fun s1 h1 => ?_)
    refine Ends.bind (p := State.MemOk) (.ite (.some h1) (.ite (h1.release _) .none)) fun s2 h2 => Ends.any.map fun fs _ => ?_
    exact State.MemOk.finish (State.MemOk.storeLanes _ _ (h2.storeTried fs)) _

/-! ### Atomics and records -/

theorem State.MemOk.homeUpdate (e : PathEntry) (va n : Nat) (rem : RemoteKind) (f : HomeOp) (staged : Option Staged) :
    (s.homeUpdate e va n rem f staged).MemOk := by
  unfold State.homeUpdate
  split
  · next et => exact h.translated et
  · trivial
  · next pa t s1 et =>
    have h1 := h.translated et
    have past {s2 : State} (h2 : s2.MemOk) : ((s2.writeBackSector s2.g.core pa).dropSector s2.g.core pa).MemOk := h2.writeBackSector s2.g.core pa
    refine .ite trivial (.ite ?_ ?_)
    · split
      · split
        · next e2 => exact (h1.stage _ _ e2).clockAt ..
        · exact h1
      · split
        · trivial
        · next e2 =>
          have h3 := past (h1.orderedGate _ _ _ _ e2)
          dsimp only
          split
          · exact h3.afterFail ..
          · refine .ite (h3.clockAt ..) ?_
            split
            · next e4 => exact (h3.stage _ _ e4).clockAt ..
            · exact h3
    · dsimp only
      split
      · exact (past h1).afterFail ..
      · have h3 := State.MemOk.homeUpdated (past h1)
        refine State.MemOk.clockAt ?_ ..
        exact State.MemOk.ite (h3 ..) (h3 ..)

end

theorem State.MemOk.atomLanes (e : PathEntry) (op : AtomKind) (signed : Bool) (n : Nat) (ret : Bool) :
    ∀ (rs : List LaneReq) {s : State}, s.MemOk → Ends FirstOk (s.atomLanes e op signed n ret rs)
  | [], _, h => .some h
  | r :: rest, s, h => by
    unfold State.atomLanes
    refine .ite ((State.MemOk.atomLanes e op signed n ret rest h).map fun _ hx => hx) ?_
    dsimp only
    split
    · exact .none
    · next e1 => exact (State.MemOk.atomLanes e op signed n ret rest ((h.homeUpdate ..).fail e1)).map fun _ hx => hx
    · next e1 =>
      have h1 := (h.homeUpdate ..).ok e1
      exact (State.MemOk.atomLanes e op signed n ret rest (by exact .ite h1 h1)).map fun _ hx => hx

section
variable {s : State} (h : s.MemOk)
include h

theorem State.MemOk.atomReady (e : PathEntry) : Ends State.MemOk (s.atomReady e) := by
  unfold State.atomReady
  split
  · exact .ite (.ite .none (.some h)) (.ite (h.release _) .none)
  · refine .ite .none ?_
    split
    · exact .ite (h.release _) .none
    · exact .some h

theorem State.MemOk.mbUpdate (e : PathEntry) (rem : RemoteKind) (f : HomeOp) (post : Bool) : Ends FirstOk (s.mbUpdate e rem f post) := by
  unfold State.mbUpdate
  dsimp only
  split
  · exact .none
  · next e1 => exact .some ((h.homeUpdate ..).fail e1)
  · next e1 => exact .some ((h.homeUpdate ..).ok e1)

theorem State.MemOk.atomPart (seq : Nat) : Ends FirstOk (s.atomPart seq) := by
  unfold State.atomPart
  refine Ends.any.bind fun e _ => (h.atomReady e).bind fun s1 h1 => Ends.map (p := FirstOk) ?_ fun _ hx => hx
  split
  · exact (State.MemOk.atomLanes e _ _ _ _ e.reqs h1).map fun _ hx => hx
  · exact h1.mbUpdate e _ _ _
  · exact h1.mbUpdate e _ _ _
  · exact h1.mbUpdate e _ _ _
  · exact .none

theorem State.MemOk.atomDone (seq : Nat) : Ends State.MemOk (s.atomDone seq) := by
  unfold State.atomDone
  refine .ite .none ?_
  split
  · next x e => exact .some (State.MemOk.landed (h.atomPart seq x e) x.2)
  · exact Ends.any.bind fun e _ => .ite .none ((h.atomReady e).map fun _ ht => ht)

theorem State.MemOk.recordPart (seq : Nat) : Ends FirstOk (s.recordPart seq) := by
  unfold State.recordPart
  refine Ends.any.bind fun e _ => ?_
  dsimp only
  split
  · exact .none
  · next e1 => exact .some ((h.readGranule ..).fail e1)
  · next e1 => exact .some ((h.readGranule ..).ok e1)

theorem State.MemOk.recordDone (seq : Nat) : Ends State.MemOk (s.recordDone seq) := (h.recordPart seq).map fun x hx => State.MemOk.landed hx x.2

end

/-! ### The scratchpad and the write-backs -/

theorem State.MemOk.scratchLanesDo (e : PathEntry) : ∀ (rs : List LaneReq) {s : State}, s.MemOk → Ends FirstOk (s.scratchLanesDo e rs)
  | [], _, h => .some h
  | r :: rest, s, h => by
    unfold State.scratchLanesDo
    dsimp only
    split
    · exact State.MemOk.scratchLanesDo e rest (h.scratchWrite ..)
    · split
      · exact .none
      · next e1 => exact (State.MemOk.scratchLanesDo e rest ((h.scratchLoad ..).fail e1)).map fun _ hx => hx
      · next e1 =>
        have h1 := (h.scratchLoad ..).ok e1
        refine (State.MemOk.scratchLanesDo e rest ?_).map fun _ hx => hx
        split
        · exact h1.scratchWrite ..
        · exact h1

section
variable {s : State} (h : s.MemOk)
include h

theorem State.MemOk.scratchDone (seq : Nat) : Ends State.MemOk (s.scratchDone seq) :=
  Ends.any.bind fun e _ => .ite .none ((State.MemOk.scratchLanesDo e e.reqs h).map fun _ hx => State.MemOk.landed hx _)

theorem State.MemOk.cacheLines (inval : Bool) (sel : Line → Bool) : (s.cacheLines inval sel).MemOk :=
  State.MemOk.fold h (fun _ l ht => ht.writeBackLine s.g.core l) ((s.coreAt s.g.core).l1.filter sel)

theorem State.MemOk.writeBackLanded : Ends State.MemOk s.writeBackLanded := by
  unfold State.writeBackLanded
  dsimp only
  split
  · exact .ite .none (.ite (.some h) ((h.release _).map fun _ h1 => State.MemOk.ite h1 h1))
  · exact .ite .none ((h.release 1).map fun _ h1 => h1)
  · next inval va count _ =>
    exact .ite .none (.some (h.cacheLines inval fun l => count == 0 || (s.namedLines va count).contains l.base))
  · exact .none

end

theorem execLoadReturn_keepsMem {r : WRef} {seq : Nat} : KeepsMem (execLoadReturn r seq) := onWarp_keepsMem fun _ h => h.loadDone seq

theorem execStoreLeavesQueue_keepsMem {r : WRef} : KeepsMem (execStoreLeavesQueue r) := onWarp_keepsMem fun _ h => h.storeLeaves

theorem execAtomicPerformed_keepsMem {r : WRef} {seq : Nat} : KeepsMem (execAtomicPerformed r seq) := onWarp_keepsMem fun _ h => h.atomDone seq

theorem execRecordReturn_keepsMem {r : WRef} {seq : Nat} : KeepsMem (execRecordReturn r seq) := onWarp_keepsMem fun _ h => h.recordDone seq

theorem execScratchAccessPerformed_keepsMem {r : WRef} {seq : Nat} : KeepsMem (execScratchAccessPerformed r seq) :=
  onWarp_keepsMem fun _ h => h.scratchDone seq

theorem execWriteBackLanded_keepsMem {r : WRef} : KeepsMem (execWriteBackLanded r) := onWarp_keepsMem fun _ h => h.writeBackLanded

theorem execDirtySectorWriteback_keepsMem {core pa : Nat} : KeepsMem (execDirtySectorWriteback core pa) :=
  .of_next (fun _ => rfl) fun _ h => h.writeBackSector core pa

end Sys2Proof.Machine
end

section
/-!
SUPPORT. The canonical form of memory through the engines: reads and writes for the firmware, images and absent-fault records, the copy
unit, the schedules and the matrix engine (12_copy.md, 13_tile.md, 14_group.md; 19_page.md R372).
-/
namespace Sys2Proof.Machine

/-! ### Reads and writes of an engine -/

/-- The state that comes third in what is answered. -/
def ThirdOk {α β : Type} (x : α × β × State) : Prop := x.2.2.MemOk

section
variable {s : State} (h : s.MemOk)
include h

theorem State.MemOk.heldXl (held : List Tlb) (core ctx va : Nat) (write : Bool) : ThirdOk (s.heldXl held core ctx va write) := by
  unfold State.heldXl
  split
  · exact h
  · split
    · next e => exact h.translated e
    · next e => exact h.translated e

theorem State.MemOk.heldXl_state {held l : List Tlb} {core ctx va : Nat} {write : Bool} {x : Xl} {t : State}
    (e : s.heldXl held core ctx va write = (x, l, t)) : t.MemOk := by
  have ht := h.heldXl held core ctx va write
  rw [e] at ht
  exact ht

end

theorem State.MemOk.engineRead (core ctx : Nat) : ∀ (ps : List (Nat × Nat)) {s : State}, s.MemOk → ∀ held, (s.engineRead core ctx held ps).MemOk
  | [], _, h, _ => h
  | (va, n) :: rest, s, h, held => by
    unfold State.engineRead
    split
    · next e => exact h.heldXl_state e
    · trivial
    · next pa t l s1 e =>
      have h1 := h.heldXl_state e
      have gated : Ends State.MemOk (if s1.ordered core t then s1.orderedGate va pa false else some s1) :=
        .ite (h1.orderedGate va pa false) (.some h1)
      split
      · trivial
      · next s2 e2 =>
        have h2 := gated s2 e2
        split
        · exact h2.afterFail ..
        · have hrest := State.MemOk.engineRead core ctx rest (h2.sendLoad core t.key pa 0 n) l
          split
          · next e3 => exact hrest.ok e3
          · exact hrest

theorem State.MemOk.engineCheck (core ctx : Nat) : ∀ (ps : List (Nat × Nat)) {s : State}, s.MemOk → ∀ held, (s.engineCheck core ctx held ps).MemOk
  | [], _, h, _ => h
  | (va, n) :: rest, s, h, held => by
    unfold State.engineCheck
    split
    · next e => exact h.heldXl_state e
    · trivial
    · next e =>
      have h1 := h.heldXl_state e
      refine .ite h1 (.ite trivial ?_)
      split
      · exact h1
      · exact State.MemOk.engineCheck core ctx rest h1 _

theorem State.MemOk.enginePut (core ctx : Nat) : ∀ (ps : List (Nat × Nat)) {s : State}, s.MemOk → ∀ held bs, (s.enginePut core ctx held ps bs).MemOk
  | [], _, h, _, _ => h
  | (va, n) :: rest, s, h, held, bs => by
    unfold State.enginePut
    split
    · next e => exact State.MemOk.enginePut core ctx rest ((h.heldXl_state e).homeWrite ..) _ _
    · next e => exact State.MemOk.enginePut core ctx rest (h.heldXl_state e) _ _

section
variable {s : State} (h : s.MemOk)
include h

theorem State.MemOk.engineWrite (core ctx : Nat) (held : List Tlb) (va : Nat) (bs : List Byte) : (s.engineWrite core ctx held va bs).MemOk := by
  have checked := State.MemOk.engineCheck core ctx (pieces va bs.length) h held
  unfold State.engineWrite
  split
  · next e => exact State.MemOk.enginePut core ctx _ (checked.ok e) _ _
  · exact checked

theorem State.MemOk.engineUpdate (core ctx va n : Nat) (kind : RemoteKind) (f : HomeOp) : (s.engineUpdate core ctx va n kind f).MemOk := by
  have checked := State.MemOk.engineCheck core ctx (pieces va n) h []
  unfold State.engineUpdate
  split
  · next e =>
    have h1 := checked.ok e
    split
    · next e2 =>
      have h2 := h1.heldXl_state e2
      split
      · exact h2.afterFail ..
      · exact h2.homeUpdated ..
    · next e2 => exact h1.heldXl_state e2
    · trivial
  · exact checked

theorem State.MemOk.engineAdd (core ctx va inc : Nat) : (s.engineAdd core ctx va inc).MemOk := h.engineUpdate ..

theorem State.MemOk.engineArrive (core ctx va : Nat) : (s.engineArrive core ctx va).MemOk := h.engineUpdate ..

/-! ### The firmware's accesses -/

theorem State.MemOk.fwRead (ctx va n : Nat) : (s.fwRead ctx va n).MemOk := State.MemOk.engineRead noCore ctx _ h []

theorem State.MemOk.fwWrite (ctx va : Nat) (bs : List Byte) : (s.fwWrite ctx va bs).MemOk := h.engineWrite ..

theorem State.MemOk.fwPut (ctx va : Nat) (bs : List Byte) : (s.fwPut ctx va bs).MemOk := by
  unfold State.fwPut
  refine .ite h ?_
  split
  · next e => exact (h.fwWrite ctx va bs).ok e
  · next e => exact (h.fwWrite ctx va bs).fail e
  · exact h

theorem State.MemOk.flushPuts : s.flushPuts.MemOk :=
  State.MemOk.fold (s := { s with fwHeld := [] }) h (fun _ x ht => ht.fwPut x.ctx x.va x.data) s.fwHeld

theorem State.MemOk.fwGet (ctx va n : Nat) : Ends SecondOk (s.fwGet ctx va n) := by
  unfold State.fwGet
  split
  · next e => exact .some ((h.fwRead ctx va n).ok e)
  · next e => exact .some ((h.fwRead ctx va n).fail e)
  · exact .none

theorem State.MemOk.fwIndices (ctx base : Nat) : Ends ThirdOk (s.fwIndices ctx base) :=
  (h.fwGet ctx (base - 16) 8).bind fun _ hw => (State.MemOk.fwGet hw ctx (base - 8) 8).map fun _ hr => hr

theorem State.MemOk.placeAbsent (c : Context) (a : Absent) (r : List Byte) : Ends State.MemOk (s.placeAbsent c a r) :=
  (h.fwIndices c.id c.afBase).bind fun _ hx =>
    .ite (.some (State.MemOk.fwPut (by exact .ite hx (State.MemOk.fwPut hx _ _ _)) ..)) .none

theorem State.MemOk.absentFault (t : TrapInfo) : (s.absentFault t).MemOk := by
  unfold State.absentFault
  split
  · exact h
  · next c _ =>
    dsimp only
    split
    · next e =>
      split at e
      · exact State.MemOk.placeAbsent (by exact h) c _ _ _ e
      · cases e
    · exact h

theorem State.MemOk.placeHeldAbsent (ctx : Nat) : (s.placeHeldAbsent ctx).MemOk := by
  unfold State.placeHeldAbsent
  split
  · exact h
  · split
    · exact h
    · exact Ends.getD ((h.placeAbsent _ _ _).map fun _ ht => by exact ht) h

theorem State.MemOk.engineTrap (t : TrapInfo) (clk0 : DWord) : (s.engineTrap t clk0).MemOk := .ite (h.absentFault t) h

theorem State.MemOk.putImage : s.putImage.MemOk := h.fwPut ..

theorem State.MemOk.park : s.park.MemOk := h

theorem State.MemOk.parkAny : s.parkAny.MemOk := by
  have ht : ({ s with g := s.g.putWarp s.w } : State).MemOk := h
  exact .ite ht.putImage ht

end

theorem onWarpAny_keepsMem {r : WRef} {f : State → Option State} (hf : ∀ s, s.MemOk → Ends State.MemOk (f s)) : KeepsMem (onWarpAny r f) :=
  .of_next (fun _ => rfl) fun s h => by
    split
    · exact h
    · next e => exact .ite (((hf _ (h.load r _ e)).map (q := State.MemOk) fun _ ht => ht.parkAny).getD h) h

/-! ### Schedules and the copy unit -/

/-- One entry of a schedule leaves the form, whatever it comes to. -/
def SGot.MemOk : SGot → Prop
  | .skip t => t.MemOk
  | .item _ t => t.MemOk
  | .fail _ t => t.MemOk
  | .wait => True

theorem State.MemOk.releaseOne {s : State} (h : s.MemOk) (r : StageReq) (hd : List Byte) (i : Nat) : (s.releaseOne r hd i).MemOk := by
  unfold State.releaseOne
  dsimp only
  split
  · trivial
  · next e => exact (State.MemOk.readGranules _ _ 2 h _).fail e
  · next e =>
    have h1 := (State.MemOk.readGranules _ _ 2 h _).ok e
    split
    · exact h1
    · split
      · split
        · trivial
        · next e2 => exact (h1.readGranule ..).fail e2
        · next e2 =>
          have h2 := (h1.readGranule ..).ok e2
          split
          · exact h2
          · exact h2
      · split
        · exact h1
        · exact h1

theorem State.MemOk.releaseAll (r : StageReq) (hd : List Byte) : ∀ (ns : List Nat) {s : State}, s.MemOk → Ends FirstOk (s.releaseAll r hd ns)
  | [], _, h => .some h
  | i :: rest, s, h => by
    have one := h.releaseOne r hd i
    unfold State.releaseAll
    split
    · exact .none
    · next e =>
      rw [e] at one
      exact State.MemOk.releaseAll r hd rest one
    · next e =>
      rw [e] at one
      exact (State.MemOk.releaseAll r hd rest one).map fun _ hy => hy
    · next e =>
      rw [e] at one
      exact (State.MemOk.releaseAll r hd rest one).map fun _ hy => hy

section
variable {s : State} (h : s.MemOk)
include h

theorem State.MemOk.engineTraps (ts : List TrapInfo) (clk0 : DWord) : (ts.foldl (fun s t => s.engineTrap t clk0) s).MemOk :=
  h.fold (fun _ t ht => ht.engineTrap t clk0) ts

theorem State.MemOk.releaseStage (r : StageReq) : Ends State.MemOk (s.releaseStage r) := by
  have read := State.MemOk.readGranules s.g.core s.g.ref.ctx 2 h s.g.desc.sched
  unfold State.releaseStage
  dsimp only
  split
  · exact .none
  · next e =>
    have h1 := read.fail e
    exact .some (.engineTraps (by exact h1) _ _)
  · next e =>
    have h1 := read.ok e
    refine .ite ?_ (.some (.engineTraps (by exact h1) _ _))
    exact (State.MemOk.releaseAll r _ _ h1).map fun _ hx => State.MemOk.engineTraps (by exact hx) _ _

theorem State.MemOk.nextStage : Ends State.MemOk s.nextStage := by
  unfold State.nextStage
  split
  · exact .ite .none (State.MemOk.releaseStage (by exact h) _)
  · exact .none

theorem State.MemOk.rowRead (held : List Tlb) (k : BitVec 256) (off : Int) (n : Nat) : (s.rowRead held k off n).MemOk := by
  unfold State.rowRead
  refine .ite h (.ite h ?_)
  split
  · next e => exact (State.MemOk.engineRead _ _ _ h _).ok e
  · exact State.MemOk.engineRead _ _ _ h _

theorem State.MemOk.rowWrite (held : List Tlb) (k : BitVec 256) (off : Int) (bs : List Byte) : (s.rowWrite held k off bs).MemOk :=
  .ite h (.ite h (h.engineWrite ..))

theorem State.MemOk.copyFails (i : CopyItem) (index : Nat) (c : Cause) (va : Nat) : (s.copyFails i index c va).MemOk :=
  State.MemOk.engineTrap (by exact h) _ _

theorem State.MemOk.dropCopies (va n : Nat) : (s.dropCopies va n).MemOk :=
  h.fold (fun _ _ ht => by
    split
    · exact ht
    · exact ht) (sectorsOf va n)

theorem State.MemOk.rowMove (i : CopyItem) (index : Nat) (e : SchedEntry) : Ends State.MemOk (s.rowMove i index e) := by
  have land {t : State} (ht : t.MemOk) (n : Nat) : (if e.kind = 1 then { t with g := t.g.landBytes e.bar n } else t).MemOk := .ite ht ht
  unfold State.rowMove
  refine .ite .none ?_
  split
  · exact .none
  · next e1 => exact .some (((h.rowRead ..).fail e1).copyFails ..)
  · next e1 =>
    have h1 := (h.rowRead ..).ok e1
    dsimp only
    split
    · split
      · exact .none
      · next e2 => exact .some (((h1.rowWrite ..).fail e2).copyFails ..)
      · next e2 =>
        have h2 := (h1.rowWrite ..).ok e2
        exact .some (land (.ite (.dropCopies (by exact h2) _ _) (by exact h2)) _)
    · exact .ite .none (.some (land (h1.scratchWrite _ _) _))

theorem State.MemOk.copyCompletes (i : CopyItem) (index : Nat) (e : SchedEntry) : Ends State.MemOk (s.copyCompletes i index e) := by
  unfold State.copyCompletes
  refine .ite ((h.release 1).bind fun s1 h1 => ?_) (.some h)
  split
  · exact .none
  · next e2 => exact .some (((h1.engineAdd ..).fail e2).copyFails ..)
  · next e2 =>
    have h2 := (h1.engineAdd ..).ok e2
    exact .some h2

theorem State.MemOk.laneCopy (held : List Tlb) (r : LaneReq) : (s.laneCopy held r).MemOk := by
  unfold State.laneCopy
  refine .ite h ?_
  split
  · next e => exact (State.MemOk.engineRead _ _ _ h _).ok e
  · exact State.MemOk.engineRead _ _ _ h _

theorem State.MemOk.copyLands : Ends State.MemOk s.copyLands := by
  unfold State.copyLands
  split
  · exact .none
  · next i _ _ =>
    refine .ite .none ?_
    split
    · exact .none
    · exact .none
    · refine .ite ((h.rowMove _ _ _).map fun s1 h1 => ?_) (h.copyCompletes _ _ _)
      split
      · exact .ite ((h1.copyCompletes _ _ _).getD h1) h1
      · exact h1
    · refine Ends.any.bind fun e _ => Ends.any.bind fun r _ => .ite .none ?_
      split
      · exact .none
      · next e1 =>
        have h1 := (h.laneCopy ..).fail e1
        exact .some h1
      · next e1 =>
        have h1 := (h.laneCopy ..).ok e1
        exact .some (h1.scratchWrite _ _)

theorem State.MemOk.finishAny (e : PathEntry) : (s.finishAny e).MemOk := by
  have hc : ({ s with w := s.w.setEntry e }.complete e.seq).MemOk := .complete (by exact h) e.seq
  unfold State.finishAny
  refine .ite ?_ (h.finish e)
  split
  · exact hc
  · exact hc.absentFault _

end

theorem execScheduleReadDone_keepsMem {g : GRef} : KeepsMem (execScheduleReadDone g) := fun s t h ht => by
  unfold execScheduleReadDone at ht
  split at ht
  · cases ht
    exact h
  · exact onWarpAny_keepsMem (fun _ h => h.nextStage) s t h ht

theorem execCopyEntryStart_keepsMem {r : WRef} : KeepsMem (execCopyEntryStart r) :=
  onWarpAny_keepsMem fun s h => by
    have hp : ({ s with w := s.w.passFences } : State).MemOk := h
    dsimp only
    split
    · exact .some hp
    · split
      · exact .some hp
      · exact .some (hp.nextStage.getD hp)
      · exact .ite (.some h) (.some hp)

theorem execCopyDataLanded_keepsMem {r : WRef} : KeepsMem (execCopyDataLanded r) := onWarpAny_keepsMem fun _ h => h.copyLands

theorem execCopyHoldRenew_keepsMem {r : WRef} : KeepsMem (execCopyHoldRenew r) :=
  onWarpAny_keepsMem fun s h => by
    split
    · exact .none
    · split
      · exact .ite (.some h) .none
      · exact .none

theorem execCpy32Complete_keepsMem {r : WRef} : KeepsMem (execCpy32Complete r) :=
  onWarpAny_keepsMem fun s h => by
    split
    · exact .none
    · split
      · exact Ends.any.bind fun _ _ => .ite (.some (.finishAny (by exact h) _)) .none
      · exact .none

theorem execArrivalApplied_keepsMem {r : WRef} {b : Nat} : KeepsMem (execArrivalApplied r b) :=
  onWarpAny_keepsMem fun s h => by
    show Ends State.MemOk (match s.g.posted.find? fun p => p.warp == s.w.wid && p.bar == b with | none => _ | some p => _)
    split
    · exact .none
    · exact .ite (.some h) .none

/-! ### The matrix engine -/

section
variable {s : State} (h : s.MemOk)
include h

theorem State.MemOk.gather (seq : Nat) : Ends State.MemOk (s.gather seq) := by
  refine Ends.any.bind fun e _ => ?_
  split
  · exact (State.MemOk.scratchRows _ _ h).map fun _ hx => State.MemOk.ite hx hx
  · exact .none

theorem State.MemOk.grantTo (e : TileEntry) : Ends State.MemOk (s.grantTo e) := by
  unfold State.grantTo
  split
  · exact (State.MemOk.scratchRows _ _ h).map fun _ hx => State.MemOk.ite hx hx
  · exact .none

theorem State.MemOk.moveRun (e : TileEntry) : Ends FirstOk (s.moveRun e) := by
  unfold State.moveRun
  dsimp only
  split
  · exact .some h
  · exact .some h
  · exact .some h
  · exact (State.MemOk.scratchRows _ _ h).map fun _ hx => hx
  · exact .some (h.fold (fun _ _ ht => ht.scratchWrite ..) _)
  · exact .some h

theorem State.MemOk.moveDone : Ends State.MemOk s.moveDone := by
  unfold State.moveDone
  split
  · exact .none
  · exact .ite .none (Ends.any.bind fun _ _ => (h.moveRun _).map fun _ hr => State.MemOk.finish (by exact hr) _)

end

theorem execOperandLatchTake_keepsMem {r : WRef} {seq : Nat} : KeepsMem (execOperandLatchTake r seq) :=
  onWarp_keepsMem fun _ h => Ends.any.bind fun _ _ => .ite (.some h) .none

theorem execGatherDone_keepsMem {r : WRef} {seq : Nat} : KeepsMem (execGatherDone r seq) := onWarp_keepsMem fun _ h => h.gather seq

theorem execColumnChunkGrant_keepsMem {core : Nat} : KeepsMem (execColumnChunkGrant core) :=
  .of_next (fun _ => rfl) fun s h => .ite h <| by
    split
    · exact h
    · refine .ite h ?_
      split
      · exact h
      · next e => exact Ends.getD (((h.load _ _ e).grantTo _).map fun _ ht => by exact ht) h

theorem execColumnChunkDone_keepsMem {core : Nat} {shadows : List ShadowReading} : KeepsMem (execColumnChunkDone core shadows) :=
  .of_next (fun _ => rfl) fun s h => by
    split
    · exact h
    · refine .ite h ?_
      split
      · exact h
      · next e =>
        have ht := h.load _ _ e
        refine State.MemOk.park ?_
        split
        · exact ht
        · exact ht

theorem execEngineIdle_keepsMem {core : Nat} : KeepsMem (execEngineIdle core) := .of_next (fun _ => rfl) fun _ h => .ite h h

theorem execAccMovePerformed_keepsMem {r : WRef} : KeepsMem (execAccMovePerformed r) := onWarp_keepsMem fun _ h => h.moveDone

end Sys2Proof.Machine
end

section
/-!
SUPPORT. The canonical form of memory through the groups: the image pool, starting and leaving a core, eviction, the gleaning, migration,
exit and dispatch (14_group.md; 19_page.md R372).
-/
namespace Sys2Proof.Machine

/-! ### The image pool and the frames -/

section
variable {s : State} (h : s.MemOk)
include h

theorem State.MemOk.offerFrames (core : Nat) : (s.offerFrames core).MemOk := h.fold (fun _ _ ht => by exact ht) _

theorem State.MemOk.reserveArea (ctx pages k : Nat) : Ends SecondOk (s.reserveArea ctx pages k) := by
  unfold State.reserveArea
  split
  · exact .none
  · dsimp only
    split
    · exact .none
    · exact .some h

theorem State.MemOk.growImage (n : Nat) : Ends State.MemOk (s.growImage n) :=
  Ends.any.bind fun _ _ => .ite (.some h) ((State.MemOk.reserveArea (by exact h) _ _ _).map fun _ hx => by exact hx)

theorem State.MemOk.shrinkImage (g : Group) : (s.shrinkImage g).MemOk := .ite h h

theorem State.MemOk.freeArea (ctx va : Nat) : (s.freeArea ctx va).MemOk := .ite h h

theorem State.MemOk.clearPage (ctx va : Nat) : (s.clearPage ctx va).MemOk := by
  unfold State.clearPage
  refine State.MemOk.fwPut ?_ ..
  split
  · exact h
  · exact h

theorem State.MemOk.reserveGroup (g : Group) : Ends SecondOk (s.reserveGroup g) := by
  have cleared {t : State} (ht : t.MemOk) (base : Nat) :
      ((List.range g.desc.pages).foldl (fun u i => u.clearPage g.ref.ctx (base + 4096 * i)) t).MemOk :=
    ht.fold (fun _ _ hu => hu.clearPage ..) _
  refine (h.reserveArea _ _ 0).bind fun a ha => (State.MemOk.reserveArea ha _ 128 1).bind fun b hb => ?_
  exact .ite ((State.MemOk.reserveArea hb _ _ 2).map fun _ hc => cleared hc _) (.some (cleared hb _))

theorem State.MemOk.putGroup (g : Group) : (s.putGroup g).MemOk := h

theorem State.MemOk.setGroup (g : Group) : (s.setGroup g).MemOk := .ite h h

theorem State.MemOk.startOn (g : Group) (core : Nat) : (s.startOn g core).MemOk := .setGroup (by exact .ite h h) _

theorem State.MemOk.resumeOn (g : Group) (core : Nat) : (s.resumeOn g core).MemOk := .setGroup (by exact h) _

theorem State.MemOk.placeOn (g : Group) (core : Nat) : (s.placeOn g core).MemOk := .ite (h.resumeOn g core) (h.startOn g core)

/-! ### Leaving a core -/

theorem State.MemOk.returnsReady : Ends State.MemOk s.returnsReady := .ite (.some h) (h.growImage _)

theorem State.MemOk.spillPage (i : Nat) : Ends State.MemOk (s.spillPage i) := by
  unfold State.spillPage
  refine .ite .none (.some (State.MemOk.fwPut ?_ ..))
  split
  · exact h
  · exact h

theorem State.MemOk.spillPages : Ends State.MemOk s.spillPages := (Ends.foldlM (fun _ i ht => ht.spillPage i) _ h).map fun _ ht => by exact ht

theorem State.MemOk.divertGroup : Ends State.MemOk s.divertGroup :=
  .ite (.some h) (.ite .none ((h.release 1).bind fun _ h1 => (State.MemOk.returnsReady h1).map fun _ h2 => by exact h2))

theorem State.MemOk.capture : Ends State.MemOk s.capture :=
  h.divertGroup.bind fun _ ht => .ite ((State.MemOk.spillPages ht).map fun _ hu => by exact hu) (.some ht)

theorem State.MemOk.placeTrap (c : Context) (r : List Byte) : Ends State.MemOk (s.placeTrap c r) :=
  (h.fwIndices c.id c.trapBase).bind fun _ hx => .ite (.some (State.MemOk.fwPut (State.MemOk.fwPut hx ..) ..)) .none

theorem State.MemOk.halted : s.halted.MemOk := by
  unfold State.halted
  split
  · exact h
  · next c _ =>
    have h1 : (State.putImage { s with g := { s.g with status := .halted, absentFault := false } }).MemOk := .putImage (by exact h)
    refine .ite h1 ?_
    show State.MemOk (match (if _ then _ else none) with | some t => t | none => _)
    split
    · next e =>
      split at e
      · exact h1.placeTrap c _ _ e
      · cases e
    · exact h1

theorem State.MemOk.placeHeldTrap (ctx : Nat) : (s.placeHeldTrap ctx).MemOk := by
  unfold State.placeHeldTrap
  split
  · exact h
  · split
    · exact h
    · exact Ends.getD ((h.placeTrap _ _).map fun _ ht => by exact ht) h

theorem State.MemOk.nextCommand (ctx : Nat) : (s.nextCommand ctx).MemOk := by
  unfold State.nextCommand
  split
  · exact .ite h h
  · exact h

theorem State.MemOk.flushHeld : s.flushHeld.MemOk :=
  h.flushPuts.fold (fun _ c ht => ((ht.placeHeldAbsent c).placeHeldTrap c).nextCommand c) _

theorem State.MemOk.evicted : s.evicted.MemOk := .ite h.halted (.putImage (by exact h))

theorem State.MemOk.leftCore (core : Nat) : (s.leftCore core).MemOk := State.MemOk.offerFrames (s := s.putGroup s.g) h core

theorem State.MemOk.divertEntry (e : PathEntry) : (s.divertEntry e).MemOk := by
  have hc : (State.complete { s with w := { s.w.setEntry e with
      slots := s.w.slots.map fun (x : PathEntry) => if x.seq = e.seq then { e with done := true } else x } } e.seq).MemOk :=
    .complete (by exact h) e.seq
  unfold State.divertEntry
  dsimp only
  split
  · exact hc
  · exact .ite (hc.absentFault _) hc

theorem State.MemOk.divertedArrival (seq : Nat) : Ends State.MemOk (s.divertedArrival seq) := by
  refine .ite .none (Ends.map (p := FirstOk) (Ends.any.bind fun e _ => ?_) fun x hx => State.MemOk.divertEntry hx x.2)
  split
  · exact h.loadPart seq
  · exact h.recordPart seq
  · exact h.atomPart seq
  · exact .none

/-! ### Retirement and the gleaning -/

theorem State.MemOk.dropPending (ctx seq : Nat) : (s.dropPending ctx seq).MemOk :=
  State.MemOk.fold (by exact h) (fun _ g ht => ((ht.freeArea ctx g.image).freeArea ctx g.scratchImage).freeArea ctx g.stagingArea) _

theorem State.MemOk.retireGroup : s.retireGroup.MemOk := (h.freeArea s.g.ref.ctx s.g.image).freeArea s.g.ref.ctx s.g.scratchImage

end

theorem State.MemOk.takeSlots : ∀ (es : List PathEntry) {s : State}, s.MemOk → (State.takeSlots es s).MemOk
  | [], _, h => h
  | e :: r, s, h => .ite (h.splitBack e) (State.MemOk.takeSlots r (by exact h))

section
variable {s : State} (h : s.MemOk)
include h

theorem State.MemOk.restore (base : Nat) (ages : List Nat) : (State.restore base ages s).MemOk := .takeSlots _ (by exact h)

theorem State.MemOk.restoreAll (base : Nat) (ages : List Nat) : (s.restoreAll base ages).MemOk := by
  have ht := h.fold (f := fun t v => let u := State.restore base ages { t with w := v }; { u with g := u.g.putWarp u.w })
    (fun t v ht => State.MemOk.restore (s := { t with w := v }) ht base ages) s.g.warps
  exact .ite ht ht

theorem State.MemOk.glean (core : Nat) : (s.glean core).MemOk := by
  unfold State.glean
  refine .ite (.leftCore (.retireGroup ?_) core) ?_
  · exact .restoreAll (by exact State.MemOk.shrinkImage (by exact h) s.g) _ _
  · exact .restoreAll (by exact State.MemOk.shrinkImage (by exact h) s.g) _ _

theorem State.MemOk.warpExits : Ends State.MemOk s.warpExits :=
  .ite (.ite (.some (.leftCore (.retireGroup (by exact h)) _)) (.some h)) .none

/-! ### Commands and dispatch -/

theorem State.MemOk.endCommand (ctx status : Nat) (put : Cmd → Cmd) : (s.endCommand ctx status put).MemOk := by
  unfold State.endCommand
  split
  · exact h
  · exact .nextCommand (by exact h) ctx

theorem State.MemOk.resumed (ctx : Nat) : (s.resumed ctx).MemOk := .endCommand (by exact h) ..

theorem State.MemOk.taken (g : Group) : (s.taken g).MemOk := .ite h h

theorem State.MemOk.serve (l : Launch) : Ends State.MemOk (s.serve l) := by
  refine Ends.any.bind fun g _ => Ends.bind (p := SecondOk) (.ite (h.reserveGroup g) (.some h)) fun x hx => ?_
  have ht := State.MemOk.taken hx g
  dsimp only
  split
  · exact .some (ht.placeOn _ _)
  · exact Ends.any.map fun v _ => State.MemOk.setGroup (by exact ht) _

theorem State.MemOk.serveWaiting (g : Group) : Ends State.MemOk (s.serveWaiting g) := by
  unfold State.serveWaiting
  split
  · exact .none
  · exact .ite (.some (h.placeOn g _)) (.ite .none (.some h))

end

/-- What the first of a list finds is what one of them finds. -/
theorem Ends.findSome? {α β : Type} {p : β → Prop} {f : α → Option β} (hf : ∀ a, Ends p (f a)) (l : List α) : Ends p (l.findSome? f) :=
  fun b e => by
    obtain ⟨a, -, ha⟩ := List.exists_of_findSome?_eq_some e
    exact hf a b ha

section
variable {s : State} (h : s.MemOk)
include h

theorem State.MemOk.select : s.select.MemOk := by
  unfold State.select
  dsimp only
  split
  · next e => exact Ends.findSome? h.serveWaiting _ _ e
  · exact (Ends.findSome? h.serve _).getD h

theorem State.MemOk.switchPage (i : Nat) : Ends State.MemOk (s.switchPage i) :=
  Ends.any.bind fun _ _ => Ends.any.bind fun _ _ =>
    Ends.map (p := State.MemOk) (.ite (h.spillPage i) (.some h)) fun _ ht => by exact ht

end

/-! ### The events of a group -/

theorem execTrapQueueSlotFree_keepsMem {ctx : Nat} : KeepsMem (execTrapQueueSlotFree ctx) := .of_next (fun _ => rfl) fun _ h => h.placeHeldTrap ctx

theorem execHaltComplete_keepsMem {r : GRef} : KeepsMem (execHaltComplete r) :=
  onGroup_keepsMem fun _ h => .ite (h.capture.map fun _ ht => ht.halted.leftCore _) .none

theorem execEvictionComplete_keepsMem {r : GRef} : KeepsMem (execEvictionComplete r) :=
  onGroup_keepsMem fun _ h => .ite (h.capture.map fun _ ht => ht.evicted.leftCore _) .none

theorem execEvictReturnAreaReady_keepsMem {r : GRef} : KeepsMem (execEvictReturnAreaReady r) :=
  onGroup_keepsMem fun _ h => .ite (h.divertGroup.map fun _ ht => ht.putImage) .none

theorem execDiversionEntryFree_keepsMem {core : Nat} {r : GRef} : KeepsMem (execDiversionEntryFree core r) := .of_next (fun _ => rfl) fun _ h => h

theorem execDivertedArrival_keepsMem {r : WRef} {seq : Nat} : KeepsMem (execDivertedArrival r seq) :=
  onWarpAny_keepsMem fun _ h => h.divertedArrival seq

theorem execGleaningComplete_keepsMem {r : GRef} : KeepsMem (execGleaningComplete r) :=
  onGroup_keepsMem fun _ h => .ite (Ends.any.bind fun k _ => .ite (.some (h.glean k)) .none) .none

theorem execMigrationDecision_keepsMem {r : GRef} {k : Nat} : KeepsMem (execMigrationDecision r k) :=
  onGroup_keepsMem fun _ h => .ite (.some h) .none

theorem execMigrationStreamEnd_keepsMem {r : GRef} : KeepsMem (execMigrationStreamEnd r) :=
  onGroup_keepsMem fun s h => by
    split
    · refine h.capture.map fun t ht => ?_
      exact .ite (.leftCore (.putImage (by exact ht)) _) (ht.evicted.leftCore _)
    · exact .none

theorem execWarpDrained_keepsMem {r : WRef} : KeepsMem (execWarpDrained r) := onWarp_keepsMem fun _ h => h.warpExits

theorem execDispatchSelect_keepsMem : KeepsMem execDispatchSelect :=
  .of_next (fun _ => rfl) fun _ h => (h.fold (fun _ c ht => ht.resumed c.id) _).select

theorem execQuantumExpiry_keepsMem {r : GRef} : KeepsMem (execQuantumExpiry r) := onGroup_keepsMem fun _ h => .ite (.some h) .none

theorem execScratchPageSwitchDone_keepsMem {r : GRef} {page : Nat} : KeepsMem (execScratchPageSwitchDone r page) :=
  onGroup_keepsMem fun _ h => h.switchPage page

end Sys2Proof.Machine
end

section
/-!
SUPPORT. The canonical form of memory through the fold: failures, evacuations, rewrite points, errors and the results that shadows check
(01_fold.md, 26_prog_retire.md; 19_page.md R372).
-/
namespace Sys2Proof.Machine

section
variable {s : State} (h : s.MemOk)
include h

/-! ### Failures and errors -/

theorem State.MemOk.evacuateBank (u : UnitId) : (s.evacuateBank u).MemOk := by
  unfold State.evacuateBank
  dsimp only
  split
  · exact h
  · exact h

theorem State.MemOk.failUnit (u : UnitId) : (s.failUnit u).MemOk := by
  unfold State.failUnit
  refine .ite h ?_
  dsimp only
  split
  · exact h
  · exact h
  · exact .ite h (h.evacuateBank u)
  · exact h
  · exact .ite h h
  · exact h

theorem State.MemOk.setMowing (u : UnitId) (on : Bool) : (s.setMowing u on).MemOk := .ite h h

theorem State.MemOk.copyRow (u : UnitId) : (s.copyRow u).MemOk := by
  unfold State.copyRow
  split
  · exact h
  · exact h
  · exact h

theorem State.MemOk.eccCorrected (source sec : Nat) : (s.eccCorrected source sec).MemOk := by
  unfold State.eccCorrected
  dsimp only
  obtain ⟨c, e⟩ := State.markDue_frame (State.setChannel (s.logError 1 source (s.sectorKeyId sec) sec)
    { (s.logError 1 source (s.sectorKeyId sec) sec).channelAt (s.channelOf sec) with
      corrected := (((s.logError 1 source (s.sectorKeyId sec) sec).channelAt (s.channelOf sec)).corrected.filter fun x =>
        decide (s.time.toNat < x + dayNs)) ++ [s.time.toNat] }) (s.channelOf sec)
  rw [e]
  exact h

theorem State.MemOk.eccUncorrectable (source sec : Nat) : (s.eccUncorrectable source sec).MemOk := by
  obtain ⟨c, p, fl, -, e⟩ := s.eccUncorrectable_frame source sec
  rw [e]
  exact h

/-- An ECC error in a word, wherever it is, leaves what the memory lists. -/
theorem State.MemOk.upset (u : Upset) : (s.upset u).MemOk := by
  unfold State.upset
  split
  · exact h
  · exact h
  · exact h
  · exact .ite h (.ite (h.eccCorrected ..) h)

/-! ### Rewrite points -/

theorem State.MemOk.setRewriting (core : Nat) (part : Option Nat) (on : Bool) : (s.setRewriting core part on).MemOk := by
  unfold State.setRewriting
  split
  · exact h
  · exact h

theorem State.MemOk.retireSuspects (core part : Nat) : (s.retireSuspects core part).MemOk := h.fold (fun _ _ ht => by exact ht) _

theorem State.MemOk.nextEvacuation (core part : Nat) : (s.nextEvacuation core part).MemOk := by
  unfold State.nextEvacuation
  refine .ite h ?_
  split
  · exact h.evacuateBank _
  · exact h

theorem State.MemOk.updPart (core part : Nat) (f : Partition → Partition) : (s.updPart core part f).MemOk := h

theorem State.MemOk.retirePart (core part : Nat) : (s.retirePart core part).MemOk := h

theorem State.MemOk.fitBudget (core part : Nat) : (s.fitBudget core part).MemOk := h

theorem State.MemOk.replayOn (core part : Nat) : (s.replayOn core part).MemOk := h

theorem State.MemOk.rewritePart (core part : Nat) : (s.rewritePart core part).MemOk := by
  have retired := h.retireSuspects core part
  unfold State.rewritePart
  refine .ite ?_ ?_
  · exact ((retired.retirePart core part).updPart core part _).replayOn core part
  · exact (((retired.updPart core part _).fitBudget core part).replayOn core part).nextEvacuation core part

theorem State.MemOk.nextRelay (core : Nat) : (s.nextRelay core).MemOk := by
  unfold State.nextRelay
  split
  · exact h
  · exact h

theorem State.MemOk.spillOf (x : Group × Nat) : Ends State.MemOk (s.spillOf x) :=
  (State.MemOk.spillPage (s := { s with g := x.1 }) h x.2).map fun _ ht => by exact ht

theorem State.MemOk.rewriteScratch (core : Nat) : Ends State.MemOk (s.rewriteScratch core) := by
  refine .ite (.some h) (.ite (.some (.nextRelay (.offerFrames (by exact h) core) core)) ?_)
  exact (Ends.foldlM (fun _ x ht => ht.spillOf x) _ h).map fun _ ht => State.MemOk.nextRelay (by exact ht) core

theorem State.MemOk.rewriteAt (core : Nat) (part : Option Nat) {swap : State → Option State} (hs : ∀ s, s.MemOk → Ends State.MemOk (swap s)) :
    (s.rewriteAt core part swap).MemOk := by
  have held := h.setRewriting core part true
  exact .ite (((hs s h).map fun _ ht => ht.setRewriting core part false).getD held) held

/-! ### Columns and shadows -/

theorem State.MemOk.recheck (core col : Nat) (pass : Bool) (e : TileEntry) : (s.recheck core col pass e).MemOk := by
  unfold State.recheck
  refine .ite (.ite h h) ?_
  split
  · exact .failUnit (by exact h) _
  · exact h
  · exact h

theorem State.MemOk.rerunDone (u : UnitId) (pass : Bool) : Ends State.MemOk (s.rerunDone u pass) := by
  refine Ends.any.bind fun x _ => .ite .none (.ite (.ite (.some h) (.some h)) ?_)
  split
  · exact .some (State.MemOk.failUnit (by exact h) u)
  · exact .some h
  · exact .some h

end

theorem execSelfCheckStep_keepsMem {u : UnitId} {pass : Bool} : KeepsMem (execSelfCheckStep u pass) :=
  .of_next (fun _ => rfl) fun _ h => .ite (h.setMowing u false) ((h.setMowing u false).failUnit u)

theorem execMowingHold_keepsMem {u : UnitId} : KeepsMem (execMowingHold u) := .of_next (fun _ => rfl) fun _ h => .ite (h.setMowing u true) h

theorem execEvacuationComplete_keepsMem {u : UnitId} : KeepsMem (execEvacuationComplete u) := .of_next (fun _ => rfl) fun _ h => .ite h h

theorem execRewritePoint_keepsMem {core : Nat} {table : SteerTable} : KeepsMem (execRewritePoint core table) :=
  .of_next (fun _ => rfl) fun s h => .ite h <| by
    split
    · exact .ite (h.rewriteAt core _ fun _ ht => .some (State.MemOk.rewritePart ht core _)) h
    · exact h.rewriteAt core _ fun _ ht => State.MemOk.rewriteScratch ht core

theorem execColumnTableRewrite_keepsMem {core : Nat} : KeepsMem (execColumnTableRewrite core) :=
  .of_next (fun _ => rfl) fun s h => by
    have retired := h.fold (f := State.retireUnit) (fun _ _ ht => by exact ht)
      ((unitsIn (s.coreAt core).cols .suspect).map fun i => ({ kind := .column, core := core, part := 0, index := i } : UnitId))
    exact .ite h (.ite retired retired)

theorem execColumnRecheckDone_keepsMem {core col : Nat} {pass : Bool} : KeepsMem (execColumnRecheckDone core col pass) :=
  .of_next (fun _ => rfl) fun s h => by
    split
    · exact h
    · refine .ite h ?_
      split
      · exact h
      · next e => exact (h.load _ _ e).recheck ..

theorem execRegisterResultWritten_keepsMem {r : WRef} {shadows : List ShadowReading} : KeepsMem (execRegisterResultWritten r shadows) :=
  onWarp_keepsMem fun s h => Ends.any.bind fun x _ => by
    split
    · exact .some h
    · exact .ite .none (.some h)

theorem execShadowRerunDone_keepsMem {r : WRef} {u : UnitId} {pass : Bool} : KeepsMem (execShadowRerunDone r u pass) :=
  onWarp_keepsMem fun _ h => h.rerunDone u pass

end Sys2Proof.Machine
end

section
/-!
SUPPORT. The canonical form of memory through the queues, the launches and the nodes (16_kernel.md, 17_queue.md; 19_page.md R372).
-/
namespace Sys2Proof.Machine

/-! ### Physical addresses and error records -/

section
variable {s : State} (h : s.MemOk)
include h

theorem State.MemOk.physWrite (pa : Nat) (bs : List Byte) : (s.physWrite pa bs).MemOk := State.physWrite_wf h pa bs

theorem State.MemOk.physMet (pa n : Nat) : (s.physMet pa n).MemOk :=
  h.fold (fun _ _ ht => by exact .ite (ht.tagFailure ..) ht) (sectorsOf pa n)

theorem State.MemOk.placeError (tenant : Nat) (r : List Byte) : Ends State.MemOk (s.placeError tenant r) :=
  .ite (.some ((h.physWrite ..).physWrite ..)) .none

theorem State.MemOk.hostError (tenant : Nat) (r : List Byte) : (s.hostError tenant r).MemOk := by
  unfold State.hostError
  dsimp only
  split
  · next e =>
    split at e
    · exact h.placeError _ _ _ e
    · cases e
  · exact h.physMet ..

theorem State.MemOk.writeError (q : Queue) (r : List Byte) : Ends State.MemOk (s.writeError q r) := by
  have written := h.fwWrite q.ctx q.errVa r
  unfold State.writeError
  refine .ite .none ?_
  split
  · next e => exact .some (written.ok e)
  · next e => exact .some ((written.fail e).hostError ..)
  · exact .none

theorem State.MemOk.queueError (q : Queue) (code level header ridx va : Nat) : Ends State.MemOk (s.queueError q code level header ridx va) :=
  (h.writeError _ _).map fun _ ht => by exact ht

theorem State.MemOk.frontGranule (ctx va : Nat) : (s.frontGranule ctx va).MemOk := by
  have read := h.fwRead ctx va 32
  fun_cases State.frontGranule with
  | case1 => exact h
  | case2 _ bs held t e =>
    have ht := read.ok e
    exact ht
  | case3 _ c a t e => exact read.fail e
  | case4 => trivial

end

theorem State.MemOk.frontGranules (ctx : Nat) : ∀ (n : Nat) {s : State}, s.MemOk → ∀ va, (s.frontGranules ctx va n).MemOk
  | 0, _, h, _ => h
  | n + 1, s, h, va => by
    have first := h.frontGranule ctx va
    unfold State.frontGranules
    split
    · next e =>
      have rest := State.MemOk.frontGranules ctx n (first.ok e) (va + 32)
      split
      · next e2 => exact rest.ok e2
      · exact rest
    · exact first

/-! ### Completion -/

theorem State.MemOk.releaseCores (scope : Nat) : ∀ (ks : List Nat) {s : State}, s.MemOk → Ends State.MemOk (s.releaseCores scope ks)
  | [], _, h => .ite .none (.some h)
  | k :: r, _, h => .ite .none (State.MemOk.releaseCores scope r (.ite h (h.writeBackAll k)))

section
variable {s : State} (h : s.MemOk)
include h

theorem State.MemOk.lookedAt (l : Launch) : (s.lookedAt l).MemOk := h.fold (fun _ k ht => ht.writeBackAll k) _

theorem State.MemOk.releaseLaunch (l : Launch) : Ends State.MemOk (s.releaseLaunch l) := .ite .none (State.MemOk.releaseCores _ _ h)

theorem State.MemOk.settleCtx (ctx : Nat) : (s.settleCtx ctx).MemOk := .ite h h

theorem State.MemOk.signal (l : Launch) : Ends State.MemOk (s.signal l) := by
  have added := h.engineAdd noCore l.ctx l.sigVa l.sigInc
  unfold State.signal
  refine .ite (.some h) ?_
  split
  · next e => exact .some (added.ok e)
  · exact .none
  · next e =>
    have ht := added.fail e
    split
    · exact (ht.fwGet _ _ _).bind fun _ hr => .ite (.some (State.MemOk.hostError hr ..)) (State.MemOk.queueError hr _ _ _ _ _ _)
    · exact .some (ht.hostError _ _)

theorem State.MemOk.markComplete (l : Launch) : (s.markComplete l).MemOk := .settleCtx (by exact h) l.ctx

theorem State.MemOk.completeLaunch (l : Launch) : Ends State.MemOk (s.completeLaunch l) :=
  (h.releaseLaunch l).bind fun _ ht => Ends.map (p := State.MemOk) (.ite (.some ht) (ht.signal l)) fun _ hu => hu.markComplete l

end

theorem execHostErrorQueueSlotFree_keepsMem {tenant : Nat} : KeepsMem (execHostErrorQueueSlotFree tenant) :=
  .of_next (fun _ => rfl) fun s h => by
    split
    · exact h
    · exact Ends.getD ((h.placeError _ _).map fun _ ht => by exact ht) (h.physMet ..)

theorem execLaunchComplete_keepsMem {ctx seq : Nat} : KeepsMem (execLaunchComplete ctx seq) :=
  .of_next (fun _ => rfl) fun s h => by
    split
    · exact h
    · next l _ => exact .ite h (.ite (.ite (h.markComplete l) h) (.ite ((h.completeLaunch l).getD h) h))

/-! ### The front end -/

/-- What the front end finds at a queue leaves the form. -/
def Front1.MemOk : Front1 → Prop
  | .later => True
  | .empty t => t.MemOk
  | .error _ _ _ _ t => t.MemOk
  | .packet _ _ _ _ _ t => t.MemOk

/-- What a packet does leaves the form, whatever it comes to. -/
def Acted.MemOk : Acted → Prop
  | .done t => t.MemOk
  | .kept t => t.MemOk
  | .waits t => t.MemOk
  | .error _ t => t.MemOk
  | .later => True

/-- What the words of a wait packet say leaves the form. -/
def Reached.MemOk : Reached → Prop
  | .later => True
  | .failed t => t.MemOk
  | .all _ t => t.MemOk

theorem Front1.MemOk.ite {c : Prop} [Decidable c] {x y : Front1} (hx : x.MemOk) (hy : y.MemOk) : (if c then x else y).MemOk := by
  split
  · exact hx
  · exact hy

theorem Acted.MemOk.ite {c : Prop} [Decidable c] {x y : Acted} (hx : x.MemOk) (hy : y.MemOk) : (if c then x else y).MemOk := by
  split
  · exact hx
  · exact hy

theorem State.MemOk.readLine {s : State} (h : s.MemOk) (q : Queue) (widx n i : Nat) : SecondOk (s.readLine q widx n i) := by
  fun_induction State.readLine s q widx n i with
  | case1 => exact h
  | case2 => exact h
  | case3 s n i _ bs held t e x ih =>
    have ht := (h.fwRead ..).ok e
    exact SecondOk.ite ht (ih ht)
  | case4 => exact h

theorem Queue.lined_memOk (q : Queue) (widx ridx : Nat) {x : EGot} (h : x.MemOk) : (q.lined widx ridx x).MemOk := by
  unfold Queue.lined
  split
  · exact State.MemOk.readLine (EGot.MemOk.ok h rfl) q widx 8 ridx
  · exact h

theorem State.MemOk.ringPacket {s : State} (h : s.MemOk) (q : Queue) (widx ridx : Nat) : (s.ringPacket q widx ridx).MemOk := by
  unfold State.ringPacket
  split
  · exact h
  · exact q.lined_memOk widx ridx (h.fwRead ..)

theorem Queue.next_memOk (q : Queue) (va widx ridx : Nat) {x : EGot} (h : x.MemOk) : (q.next va widx ridx x).MemOk := by
  unfold Queue.next
  split
  · trivial
  · exact h
  · exact h

theorem Queue.indexed_memOk (q : Queue) (widx ridx : Nat) {x : EGot} (h : x.MemOk) : (q.indexed widx ridx x).MemOk := by
  unfold Queue.indexed
  split
  · trivial
  · exact h
  · have hs := EGot.MemOk.ok h rfl
    refine .ite hs (.ite hs ?_)
    split
    · exact q.next_memOk _ widx ridx (hs.fwRead ..)
    · exact q.next_memOk _ widx ridx (hs.ringPacket q widx ridx)

theorem Queue.ridxRead_memOk (q : Queue) (widx : Nat) {x : EGot} (h : x.MemOk) : (q.ridxRead widx x).MemOk := by
  unfold Queue.ridxRead
  split
  · trivial
  · exact h
  · exact q.indexed_memOk widx _ (State.MemOk.engineCheck noCore q.ctx _ (EGot.MemOk.ok h rfl) [])

theorem Queue.widxRead_memOk (q : Queue) {x : EGot} (h : x.MemOk) : (q.widxRead x).MemOk := by
  fun_cases Queue.widxRead with
  | case1 => trivial
  | case2 => trivial
  | case3 c a t r e => exact State.MemOk.fwGet (EGot.MemOk.fail h rfl) _ _ _ _ e
  | case4 => exact q.ridxRead_memOk _ (State.MemOk.fwRead (EGot.MemOk.ok h rfl) ..)

theorem State.MemOk.frontRead {s : State} (h : s.MemOk) (q : Queue) : (s.frontRead q).MemOk :=
  q.widxRead_memOk (h.fwRead ..)

section
variable {s : State} (h : s.MemOk)
include h

theorem State.MemOk.updQueue (n : Nat) (f : Queue → Queue) : (s.updQueue n f).MemOk := h

theorem State.MemOk.consume (q : Queue) (widx ridx : Nat) : (s.consume q widx ridx).MemOk := by
  have h1 : (s.updQueue q.num fun x => { x with nest := popNest q.nest, waitFor := none, unbind := none, state := .active }).MemOk := h
  have written := h1.fwWrite q.ctx q.ridxVa (leBytes 8 (ridx + 1))
  unfold State.consume
  refine .ite ?_ h1
  refine State.MemOk.updQueue ?_ ..
  split
  · next e => exact written.ok e
  · exact h1

theorem State.MemOk.actGrid (q : Queue) (b : List Byte) (va level ridx : Nat) : (s.actGrid q b va level ridx).MemOk := by
  have read := State.MemOk.frontGranules q.ctx 8 h (field b 8 8)
  unfold State.actGrid
  refine .ite h ?_
  split
  · trivial
  · next e => exact read.fail e
  · next e =>
    have ht := read.ok e
    split
    · exact ht
    · exact ht

theorem State.MemOk.actIndirect (q : Queue) (b : List Byte) (level : Nat) : (s.actIndirect q b level).MemOk := .ite h (.ite h h)

end

theorem State.MemOk.wordsReached (ctx : Nat) : ∀ (ws : List (Nat × Nat)) {s : State}, s.MemOk → (s.wordsReached ctx ws).MemOk
  | [], _, h => h
  | (va, target) :: r, s, h => by
    have read := h.fwRead ctx va 8
    unfold State.wordsReached
    split
    · exact State.MemOk.wordsReached ctx r h
    · split
      · trivial
      · next e => exact read.fail e
      · next e =>
        have rest := State.MemOk.wordsReached ctx r (read.ok e)
        split
        · next e2 =>
          rw [e2] at rest
          exact rest
        · exact rest

section
variable {s : State} (h : s.MemOk)
include h

theorem State.MemOk.actWait (q : Queue) (b : List Byte) : (s.actWait q b).MemOk := by
  have words := State.MemOk.wordsReached q.ctx (([8, 24, 40] : List Nat).map fun o => (field b o 8, field b (o + 8) 8)) h
  unfold State.actWait
  refine .ite h ?_
  split
  · trivial
  · next e => rw [e] at words; exact words
  · next e => rw [e] at words; exact words
  · next e => rw [e] at words; exact words

theorem State.MemOk.actSignal (q : Queue) (b : List Byte) : (s.actSignal q b).MemOk := by
  have added := h.engineAdd noCore q.ctx (field b 8 8) (field b 16 8)
  unfold State.actSignal
  refine .ite h (.ite trivial (.ite h ?_))
  split
  · next e => exact added.ok e
  · next e => exact added.fail e
  · trivial

theorem State.MemOk.actRecordFence (q : Queue) (b : List Byte) : (s.actRecordFence q b).MemOk := .ite h h

theorem State.MemOk.actContextFence (q : Queue) (b : List Byte) : (s.actContextFence q b).MemOk := .ite h (.ite h h)

/-- The front end leaves the form where what the packet does leaves it. -/
theorem State.MemOk.frontEnd (n : Nat) (kinds : List Nat) {act : State → Queue → List Byte → Nat → Nat → Nat → Acted}
    (ha : ∀ t : State, t.MemOk → ∀ q b va level ridx, (act t q b va level ridx).MemOk) : (s.frontEnd n kinds act).MemOk := by
  unfold State.frontEnd
  split
  · exact h
  · next q _ =>
    have read := h.frontRead q
    refine .ite h ?_
    split
    · exact h
    · next e => rw [e] at read; exact read
    · next e => rw [e] at read; exact (State.MemOk.queueError read _ _ _ _ _ _).getD h
    · next b va level widx ridx t e =>
      rw [e] at read
      have acted := ha (t.updQueue n fun q => { q with state := .active }) read q b va level ridx
      refine .ite ((State.MemOk.queueError read _ _ _ _ _ _).getD h) (.ite h (.ite read ?_))
      split
      · next e2 => rw [e2] at acted; exact State.MemOk.consume acted ..
      · next e2 => rw [e2] at acted; exact acted
      · next e2 => rw [e2] at acted; exact acted
      · next e2 => rw [e2] at acted; exact (State.MemOk.queueError acted _ _ _ _ _ _).getD h
      · exact read

end

theorem execPacketNop_keepsMem {n : Nat} : KeepsMem (execPacketNop n) :=
  .of_next (fun _ => rfl) fun _ h => h.frontEnd n _ fun _ ht _ _ _ _ _ => .ite ht ht

theorem execGridLaunch_keepsMem {n : Nat} : KeepsMem (execGridLaunch n) :=
  .of_next (fun _ => rfl) fun _ h => h.frontEnd n _ fun _ ht _ _ _ _ _ => ht.actGrid ..

theorem execIndirectBuffer_keepsMem {n : Nat} : KeepsMem (execIndirectBuffer n) :=
  .of_next (fun _ => rfl) fun _ h => h.frontEnd n _ fun _ ht _ _ _ _ _ => ht.actIndirect ..

theorem execWaitPacket_keepsMem {n : Nat} : KeepsMem (execWaitPacket n) :=
  .of_next (fun _ => rfl) fun _ h => h.frontEnd n _ fun _ ht _ _ _ _ _ => ht.actWait ..

theorem execSignalPacket_keepsMem {n : Nat} : KeepsMem (execSignalPacket n) :=
  .of_next (fun _ => rfl) fun _ h => h.frontEnd n _ fun _ ht _ _ _ _ _ => ht.actSignal ..

theorem execRecordFence_keepsMem {n : Nat} : KeepsMem (execRecordFence n) :=
  .of_next (fun _ => rfl) fun _ h => h.frontEnd n _ fun _ ht _ _ _ _ _ => ht.actRecordFence ..

theorem execContextFence_keepsMem {n : Nat} : KeepsMem (execContextFence n) :=
  .of_next (fun _ => rfl) fun _ h => h.frontEnd n _ fun _ ht _ _ _ _ _ => ht.actContextFence ..

end Sys2Proof.Machine
end

section
/-!
SUPPORT. The canonical form of memory through the nodes and the commands to contexts (17_queue.md, 18_context.md; 19_page.md R372).
-/
namespace Sys2Proof.Machine

/-! ### Nodes -/

section
variable {s : State} (h : s.MemOk)
include h

theorem State.MemOk.formGroup (n : Node) (l : Launch) : Ends State.MemOk (s.formGroup n l) := by
  have formed {t : State} (ht : t.MemOk) (x : Nat × List Nat) (hw rick : List (BitVec 128)) (count : Nat) : (t.formed n l x hw rick count).MemOk := ht
  have written (x : Nat × List Nat) (hw rick : List (BitVec 128)) (count : Nat) : ∀ r : EGot, r.MemOk → Ends State.MemOk (match r with
      | .wait => none
      | .ok _ _ t => some (t.formed n l x hw rick count)
      | .fail _ _ t => some (t.formed n l x hw rick count)) := by
    intro r hr
    cases r with
    | wait => exact .none
    | ok => exact .some (formed hr ..)
    | fail => exact .some (formed hr ..)
  exact .ite .none (Ends.any.bind fun x _ => .ite .none (written _ _ _ _ _ (h.fwWrite ..)))

end

theorem State.MemOk.formAll (ctx num : Nat) : ∀ (k : Nat) {s : State}, s.MemOk → (s.formAll ctx num k).MemOk
  | 0, _, h => h
  | k + 1, s, h => by
    unfold State.formAll
    split
    · exact h
    · split
      · exact h
      · split
        · exact h
        · next e => exact State.MemOk.formAll ctx num k (h.formGroup _ _ _ e)

section
variable {s : State} (h : s.MemOk)
include h

theorem State.MemOk.updNode (ctx num : Nat) (f : Node → Node) : (s.updNode ctx num f).MemOk := h

theorem State.MemOk.acceptRecord (n : Node) (r : BitVec 128) : Ends State.MemOk (s.acceptRecord n r) :=
  .ite (.some h) (.ite (.some ((h.fwPut ..).updNode ..)) .none)

theorem State.MemOk.offerRecord (ctx num : Nat) (r : BitVec 128) : ∀ t, s.offerRecord ctx num r = .ok t → t.MemOk := by
  intro u e
  unfold State.offerRecord at e
  split at e
  · cases e
  · next n _ =>
    split at e
    · cases e
    · split at e
      · next t l e1 _ =>
        have ht := h.acceptRecord n r t e1
        split at e
        · cases e; exact ht
        · next m _ =>
          split at e
          · cases e; exact (ht.formGroup m l).getD (ht.updNode ..)
          · cases e; exact ht
      · cases e

end

theorem State.MemOk.offerAll (num : Nat) : ∀ (rs : List LaneReq) {s : State}, s.MemOk → FirstOk (s.offerAll num rs)
  | [], _, h => h
  | r :: rest, s, h => by
    unfold State.offerAll
    split
    · next e => exact State.MemOk.offerAll num rest (h.offerRecord _ _ _ _ e)
    · exact State.MemOk.offerAll num rest h

section
variable {s : State} (h : s.MemOk)
include h

theorem State.MemOk.nemitDone (seq : Nat) : Ends State.MemOk (s.nemitDone seq) := by
  refine Ends.any.bind fun e _ => ?_
  split
  · exact .ite .none ((h.release 1).map fun _ ht => State.MemOk.finishAny (State.MemOk.offerAll _ _ ht) _)
  · exact .none

theorem State.MemOk.actBind (q : Queue) (b : List Byte) (va level : Nat) : (s.actBind q b va level).MemOk := by
  have read := State.MemOk.frontGranules q.ctx 8 h (field b 8 8)
  unfold State.actBind
  refine .ite h ?_
  split
  · trivial
  · next e => exact read.fail e
  · next e =>
    have ht := read.ok e
    split
    · exact ht
    · exact .ite ht (.ite ht ht)

theorem State.MemOk.actUnbind (q : Queue) (b : List Byte) (va level : Nat) : (s.actUnbind q b va level).MemOk := by
  unfold State.actUnbind
  refine .ite h (.ite h ?_)
  split
  · exact h
  · next n _ =>
    refine .ite h ?_
    have ht := State.MemOk.formAll q.ctx (field b 5 1) (n.queued + 1) (h.updNode q.ctx (field b 5 1) fun n => { n with unbinding := true, timerOn := false })
    exact ht

theorem State.MemOk.unbound (q : Queue) : Ends FirstOk (s.unbound q) := by
  have read := h.frontRead q
  fun_cases State.unbound with
  | case1 b va level widx ridx t e =>
    rw [e] at read
    exact .some (State.MemOk.consume read ..)
  | case2 code header va ridx t e =>
    rw [e] at read
    exact (State.MemOk.queueError read _ _ _ _ _ _).map fun _ hu => hu
  | case3 => exact .none

theorem State.MemOk.freeNode (n : Node) (l : Launch) : (s.freeNode n l).MemOk := h.markComplete l

theorem State.MemOk.actAny (q : Queue) (b : List Byte) (va level ridx : Nat) : (s.actAny q b va level ridx).MemOk := by
  unfold State.actAny
  split
  · exact .ite h h
  · exact h.actGrid ..
  · exact h.actBind ..
  · exact h.actIndirect ..
  · exact h.actWait ..
  · exact h.actSignal ..
  · exact h.actRecordFence ..
  · exact h.actContextFence ..
  · exact h.actUnbind ..

theorem State.MemOk.queueLooks (n : Nat) : (s.queueLooks n).MemOk := by
  unfold State.queueLooks
  split
  · exact h
  · exact .ite (h.frontEnd n _ fun _ ht _ _ _ _ _ => ht.actAny ..) h

theorem State.MemOk.queueWakes (n : Nat) : (s.queueWakes n).MemOk := by
  unfold State.queueWakes
  split
  · exact h
  · next q _ =>
    have read := h.frontRead q
    refine .ite (h.queueLooks n) ?_
    split
    · exact h
    · next e => rw [e] at read; exact read
    · next e => rw [e] at read; exact (State.MemOk.queueError read _ _ _ _ _ _).getD h
    · next e => rw [e] at read; exact read

theorem State.MemOk.rewatch : Ends State.MemOk s.rewatch := by
  refine .ite (Ends.any.map fun x _ => ?_) .none
  have loaded : (match s.peek s.g.core s.g.ref.ctx x.va false with
      | .ok pa t => s.sendLoad s.g.core t.key pa 0 x.len
      | _ => s).MemOk := by
    split
    · exact h.sendLoad ..
    · exact h
  exact .ite (by exact loaded) loaded

end

theorem State.reread_keepsMem {x : Watcher} : KeepsMem fun s => s.reread x := by
  cases x with
  | warp r => exact onWarp_keepsMem fun _ h => h.rewatch
  | queue q => exact .of_next (fun _ => rfl) fun _ h => h.queueWakes q

theorem execNodeRecordOffer_keepsMem {r : WRef} {seq : Nat} : KeepsMem (execNodeRecordOffer r seq) := onWarpAny_keepsMem fun _ h => h.nemitDone seq

theorem execNodeTimerLapse_keepsMem {ctx node : Nat} : KeepsMem (execNodeTimerLapse ctx node) :=
  .of_next (fun _ => rfl) fun s h => by
    split
    · exact h
    · refine .ite ?_ h
      split
      · exact (h.formGroup _ _).getD h
      · exact h

theorem execBatchFreeFormation_keepsMem {ctx node : Nat} : KeepsMem (execBatchFreeFormation ctx node) :=
  .of_next (fun _ => rfl) fun s h => by
    split
    · exact h
    · refine .ite h ?_
      split
      · exact (h.formGroup _ _).getD h
      · exact h

theorem execNodeBind_keepsMem {n : Nat} : KeepsMem (execNodeBind n) :=
  .of_next (fun _ => rfl) fun _ h => h.frontEnd n _ fun _ ht _ _ _ _ _ => ht.actBind ..

theorem execNodeUnbind_keepsMem {n : Nat} : KeepsMem (execNodeUnbind n) :=
  .of_next (fun _ => rfl) fun _ h => h.frontEnd n _ fun _ ht _ _ _ _ _ => ht.actUnbind ..

theorem execNodeUnbindComplete_keepsMem {ctx node : Nat} : KeepsMem (execNodeUnbindComplete ctx node) :=
  .of_next (fun _ => rfl) fun s h => by
    split
    · next n q _ _ =>
      split
      · exact h
      · next l _ =>
        refine .ite h (Ends.getD ((h.releaseLaunch l).bind fun _ ht => (State.MemOk.unbound ht q).bind fun x hx => ?_) h)
        exact .ite (.some hx) (.ite (.some (State.MemOk.freeNode hx n l)) ((State.MemOk.signal hx l).map fun _ hu => State.MemOk.freeNode hu n l))
    · exact h

theorem execQueueWaitSatisfied_keepsMem {n : Nat} : KeepsMem (execQueueWaitSatisfied n) := .of_next (fun _ => rfl) fun _ h => h.queueLooks n

theorem execWriteNotice_keepsMem {x : Watcher} : KeepsMem (execWriteNotice x) := State.reread_keepsMem

theorem execRereadInterval_keepsMem {x : Watcher} : KeepsMem (execRereadInterval x) := State.reread_keepsMem

/-! ### Commands -/

section
variable {s : State} (h : s.MemOk)
include h

theorem State.MemOk.updCtx (ctx : Nat) (f : Context → Context) : (s.updCtx ctx f).MemOk := h

theorem State.MemOk.answer (code : Nat) (c : Cmd) (status : Nat) : (s.answer code c status).MemOk := h

theorem State.MemOk.startCommand (code : Nat) (c : Cmd) : (s.startCommand code c).MemOk := h

theorem State.MemOk.command (w : Waiting) (x : Context) {f : State → Option State} (hf : ∀ t, t.MemOk → Ends State.MemOk (f t)) :
    (s.command w x f).MemOk := by
  unfold State.command
  split
  · exact .ite h ((hf s h).getD h)
  · refine .ite ?_ h
    split
    · next e => exact State.MemOk.nextCommand (hf _ (by exact h) _ e) x.id
    · exact h

theorem State.MemOk.hostRecord (tenant : Nat) (src : List Byte) : (s.hostRecord tenant src).MemOk := h.hostError ..

theorem State.MemOk.moveRecord (c : Context) (src : List Byte) : (s.moveRecord c src).MemOk := .ite h (h.hostRecord ..)

theorem State.MemOk.moveAbsent (c : Context) : (s.moveAbsent c).MemOk := by
  refine State.MemOk.updCtx ?_ ..
  exact h.fold (fun _ _ ht => ht.moveRecord ..) _

theorem State.MemOk.abortCommands (x : Context) : (s.abortCommands x).MemOk :=
  State.MemOk.fold (State.MemOk.endCommand (by exact h) ..) (fun _ _ ht => by exact ht) x.waiting

theorem State.MemOk.abortRecord (ctx seq : Nat) : Ends State.MemOk (s.abortRecord ctx seq) := by
  unfold State.abortRecord
  split
  · exact .some h
  · exact .ite (.some h) ((h.fwGet _ _ _).bind fun _ hr => State.MemOk.writeError hr _ _)

theorem State.MemOk.splitAll (ctx : Nat) : (s.splitAll ctx).MemOk := h.fold (fun _ l ht => State.MemOk.dropPending ht ctx l.seq) _

end

theorem onCommand_keepsMem {code : Nat} {c : Cmd} {clean : Bool} {f : State → State} (hf : ∀ s, s.MemOk → (f s).MemOk) :
    KeepsMem (onCommand code c clean f) := .of_next (fun _ => rfl) fun s h => .ite h (.ite (h.answer ..) (hf s h))

theorem onContext_keepsMem {code : Nat} {c : Cmd} {edits : List Edit} {clean : Bool} {accepts : CtxState → Bool} {f : Context → State → Option State}
    (hf : ∀ x s, s.MemOk → Ends State.MemOk (f x s)) : KeepsMem (onContext code c edits clean accepts f) :=
  onCommand_keepsMem fun s h => by
    split
    · exact h
    · next x _ => exact .ite h (h.command _ x fun t ht => .ite (hf x t ht) (.some ht))

theorem onQueue_keepsMem {code : Nat} {c : Cmd} {accepts : CtxState → Bool} {from_ : QState → Bool} {f : State → State}
    (hf : ∀ s, s.MemOk → (f s).MemOk) : KeepsMem (onQueue code c accepts from_ f) :=
  onContext_keepsMem fun _ s h => .some <| by
    split
    · exact h
    · exact .ite h (.ite h (State.MemOk.answer (hf s h) ..))

theorem onHalted_keepsMem {code : Nat} {c : Cmd} {edits : List Edit} {f : Group → State → Option State}
    (hf : ∀ g s, s.MemOk → Ends State.MemOk (f g s)) : KeepsMem (onHalted code c edits f) :=
  onContext_keepsMem fun _ s h => by
    split
    · exact .some h
    · exact .ite (hf _ s h) (.some h)

theorem execCreate_keepsMem {tenant : Nat} {block : List Byte} : KeepsMem (execCreate tenant block) :=
  onCommand_keepsMem fun s h => .ite h <| .ite h <| by
    split
    · exact h
    · exact h

theorem execQueueAdd_keepsMem {tenant : Nat} {block : List Byte} : KeepsMem (execQueueAdd tenant block) :=
  onContext_keepsMem fun _ s h => .some <| .ite h <| .ite h <| by
    split
    · exact h
    · exact h

theorem execQueueStart_keepsMem {tenant : Nat} {block : List Byte} : KeepsMem (execQueueStart tenant block) := by
  unfold execQueueStart
  exact onQueue_keepsMem fun _ h => (h.updQueue ..).updCtx ..

theorem execQueueStop_keepsMem {tenant : Nat} {block : List Byte} : KeepsMem (execQueueStop tenant block) := by
  unfold execQueueStop
  exact onQueue_keepsMem fun _ h => h.updQueue ..

theorem execQueueReset_keepsMem {tenant : Nat} {block : List Byte} : KeepsMem (execQueueReset tenant block) := by
  unfold execQueueReset
  exact onQueue_keepsMem fun _ h => h.updQueue ..

theorem execSetQuantum_keepsMem {tenant : Nat} {block : List Byte} : KeepsMem (execSetQuantum tenant block) :=
  onCommand_keepsMem fun _ h => .ite h h

theorem execSuspend_keepsMem {c : Cmd} : KeepsMem (execSuspend c) := onContext_keepsMem fun _ _ h => .some h

theorem execResume_keepsMem {c : Cmd} : KeepsMem (execResume c) := onContext_keepsMem fun _ _ h => .some h

theorem execMigrate_keepsMem {tenant : Nat} {block : List Byte} : KeepsMem (execMigrate tenant block) := by
  unfold execMigrate
  refine onContext_keepsMem fun _ s h => .some (.ite (h.answer ..) ?_)
  exact State.MemOk.startCommand (State.MemOk.updCtx (State.MemOk.splitAll (by exact h) _) ..) ..

theorem execGroupResume_keepsMem {tenant : Nat} {block : List Byte} {edits : List Edit} : KeepsMem (execGroupResume tenant block edits) :=
  onHalted_keepsMem fun g s h => (h.fwGet _ _ _).map fun x hx => by
    have put : (State.putImage { x.2 with g := g.edited x.1 edits }).MemOk := .putImage (by exact hx)
    exact .ite hx put

theorem execGroupAbort_keepsMem {c : Cmd} : KeepsMem (execGroupAbort c) :=
  onHalted_keepsMem fun g s h => by
    have retired : (State.retireGroup { s with g := g.discarded }).MemOk := .retireGroup (by exact h)
    have dropped := State.MemOk.dropPending (retired.putGroup (State.retireGroup { s with g := g.discarded }).g) c.ctx c.group.seq
    exact Ends.map (State.MemOk.abortRecord (by exact dropped) _ _) fun _ hu => by exact hu

theorem execDestroy_keepsMem {c : Cmd} : KeepsMem (execDestroy c) :=
  onCommand_keepsMem fun s h => by
    split
    · exact h
    · next x _ => exact .ite h (.ite (h.command _ x fun _ ht => .some ht) (.moveAbsent (by exact h.abortCommands x) x))

theorem execSuspendComplete_keepsMem {ctx : Nat} : KeepsMem (execSuspendComplete ctx) :=
  .of_next (fun _ => rfl) fun s h => by
    split
    · exact h
    · exact .ite (.endCommand (by exact h) ..) h

theorem execMigrateComplete_keepsMem {ctx : Nat} : KeepsMem (execMigrateComplete ctx) :=
  .of_next (fun _ => rfl) fun s h => by
    split
    · exact h
    · exact .ite (.endCommand (by exact h) ..) h

theorem execDestroyComplete_keepsMem {ctx : Nat} : KeepsMem (execDestroyComplete ctx) :=
  .of_next (fun _ => rfl) fun s h => by
    split
    · exact h
    · next c _ =>
      have moved := h.moveAbsent c
      exact .ite (.endCommand (by exact moved) ..) h

theorem execSplitLaunchArrival_keepsMem {ctx : Nat} {x : SplitLaunch} : KeepsMem (execSplitLaunchArrival ctx x) :=
  .of_next (fun _ => rfl) fun s h => by
    split
    · exact h
    · exact .ite h h

theorem execTargetCompletionReport_keepsMem {ctx seq : Nat} : KeepsMem (execTargetCompletionReport ctx seq) := .of_next (fun _ => rfl) fun _ h => h

end Sys2Proof.Machine
end

section
/-!
SUPPORT. The canonical form of memory through the pages, the slots and the host, and through the links and the collectives (19_page.md,
20_link.md; R372).
-/
namespace Sys2Proof.Machine

/-! ### Pages and invalidations -/

section
variable {s : State} (h : s.MemOk)
include h

theorem State.MemOk.putEntry (ea : Nat) (e : DWord) : (s.putEntry ea e).MemOk := State.putEntry_wf h ea e

theorem State.MemOk.noRoom (ctx ea va size : Nat) : (s.noRoom ctx ea va size).MemOk := h

theorem State.MemOk.startInvalid (tenant : Nat) : (s.startInvalid tenant).MemOk := by
  unfold State.startInvalid
  split
  · exact h
  · exact .ite h h

theorem State.MemOk.writeBackCores : s.writeBackCores.MemOk := h.fold (fun _ k ht => ht.writeBackAll k) _

end

theorem execPageBringIn_keepsMem {ctx va : Nat} {backing : Option (List Byte)} : KeepsMem (execPageBringIn ctx va backing) :=
  .of_next (fun _ => rfl) fun s h => by
    split
    · next ea level _ =>
      extract_lets e size base
      refine .ite h ?_
      split
      · exact (h.putEntry ..).flushHeld
      · split
        · exact (h.noRoom ..).flushHeld
        · refine .ite h ?_
          extract_lets t
          have stored : t.MemOk := h.homeStore ..
          clear_value t
          have mapped := fun v : DWord => stored.putEntry ea v
          exact State.MemOk.flushHeld (by exact mapped _)
    · exact h

theorem execInvalidationRequest_keepsMem {tenant : Nat} {req : List Byte} : KeepsMem (execInvalidationRequest tenant req) :=
  .of_next (fun _ => rfl) fun s h => .ite h (.ite (h.hostRecord ..) (.startInvalid (by exact h) tenant))

theorem execInvalidationComplete_keepsMem {tenant : Nat} : KeepsMem (execInvalidationComplete tenant) :=
  .of_next (fun _ => rfl) fun s h => by
    split
    · exact h
    · next x _ =>
      refine .ite h (.ite h ?_)
      have ended {u : State} (hu : u.MemOk) : (State.startInvalid { u with invalid := u.invalid.erase x } tenant).MemOk :=
        .startInvalid (by exact hu) tenant
      have written := h.writeBackCores.fwWrite x.ctx x.compVa (leBytes 8 x.value)
      cases e : s.writeBackCores.fwWrite x.ctx x.compVa (leBytes 8 x.value) with
      | ok _ _ u => exact ended (written.ok e)
      | fail _ _ u => exact ended (written.fail e)
      | wait => exact h

/-! ### Slots and slices -/

section
variable {s : State} (h : s.MemOk)
include h

theorem State.MemOk.setSlot (k : Nat) (e : SlotEntry) : (s.setSlot k e).MemOk := h

end

theorem State.MemOk.assignSlots {s : State} (h : s.MemOk) (ch : Nat) (ks : List Nat) : (s.assignSlots ch ks).MemOk := by
  induction ks generalizing s with
  | nil => exact h
  | cons k rest ih =>
    unfold State.assignSlots
    split
    · exact h
    · refine ih (State.MemOk.setSlot ?_ ..)
      split
      · exact h
      · exact h

section
variable {s : State} (h : s.MemOk)
include h

theorem State.MemOk.advanceMove (k g : Nat) : (s.advanceMove k g).MemOk := by
  unfold State.advanceMove
  split
  · exact h
  · exact h

theorem State.MemOk.blankGranule (g : Nat) : (s.blankGranule g).MemOk := State.blankGranule_wf h g

theorem State.MemOk.keepStamps (old : State) (g : Nat) : (State.keepStamps old s g).MemOk := h.fold (fun _ _ ht => by exact ht) _

theorem State.MemOk.unpark (p : Parked) : (s.unpark p).MemOk := State.unpark_wf h p

theorem State.MemOk.unparkAll : s.unparkAll.MemOk :=
  State.MemOk.fold (s := { s with parked := s.parked.filter (·.atom.isSome) }) h (fun _ p ht => .ite ht (by exact ht.unpark p)) _

theorem State.MemOk.scrubTag (sec : Nat) : (s.scrubTag sec).MemOk := .ite h h

end

theorem State.MemOk.applyAll (ctx seq : Nat) : ∀ (xs : List Staged) {s : State}, s.MemOk → Ends State.MemOk (s.applyAll ctx seq xs)
  | [], _, h => .some h
  | x :: rest, s, h => by
    unfold State.applyAll
    split
    · exact .none
    · next e => exact State.MemOk.applyAll ctx seq rest (h.translated e)
    · next e =>
      have ht := h.translated e
      refine .ite .none ?_
      split
      · exact State.MemOk.applyAll ctx seq rest (ht.afterFail ..)
      · exact State.MemOk.applyAll ctx seq rest (by exact ht.homeWrite ..)

theorem execChannelRetirement_keepsMem {ch : Nat} : KeepsMem (execChannelRetirement ch) :=
  .of_next (fun _ => rfl) fun s h => .ite h <| by
    extract_lets own c s1 s2 s3
    have withdrawn : s2.MemOk := State.MemOk.fold (s := s1) h (fun t k ht => ht.setSlot k { state := .withdrawn, channel := ch, target := 0 }) own
    have assigned : s3.MemOk := withdrawn.assignSlots ch _
    clear_value s3
    show Memory.wf s3.mem = true
    exact assigned

theorem execGranuleCopyStart_keepsMem : KeepsMem execGranuleCopyStart :=
  .of_next (fun _ => rfl) fun s h => by
    split
    · next k g _ => exact .ite ((h.blankGranule g).advanceMove k g) (by exact h.physMet ..)
    · exact h

theorem execGranuleCopyEnd_keepsMem : KeepsMem execGranuleCopyEnd :=
  .of_next (fun _ => rfl) fun s h => by
    split
    · next k g _ => exact ((h.advanceMove k g).keepStamps s g).unparkAll.flushHeld
    · exact h

theorem execSliceRetirement_keepsMem {slice : Nat} : KeepsMem (execSliceRetirement slice) :=
  .of_next (fun _ => rfl) fun s h => .ite h <| by
    have moved := State.MemOk.fold (s := { s.foldStamps slice with slices := (s.foldStamps slice).slices.set slice false }) h
      (f := fun t c => match t.sliceTaker slice with
        | some x => { t with chanSlice := (c, x) :: t.chanSlice.filter (·.1 != c) }
        | none => t) (fun t c ht => by split <;> exact ht) (s.fronts slice)
    exact moved

theorem execScrubSector_keepsMem {sector : Nat} {found : SectorCheck} : KeepsMem (execScrubSector sector found) :=
  .of_next (fun _ => rfl) fun s h => .ite h <| by
    have corrected := h.eccCorrected 0 (128 * sector)
    split
    · exact h
    · exact .ite corrected (corrected.scrubTag _)
    · exact h.eccUncorrectable ..
    · exact h.scrubTag _

theorem execStileRelease_keepsMem {ctx seq : Nat} : KeepsMem (execStileRelease ctx seq) :=
  .of_next (fun _ => rfl) fun s h => by
    split
    · exact h
    · split
      · exact h
      · refine .ite h ?_
        split
        · exact h
        · next e =>
          have ht := State.MemOk.applyAll ctx seq _ h _ e
          exact State.MemOk.putGroup (State.MemOk.freeArea (by exact ht) _ _) _

/-! ### The host -/

section
variable {s : State} (h : s.MemOk)
include h

theorem State.MemOk.hostWrite (tenant pa : Nat) (bs : List Byte) : (s.hostWrite tenant pa bs).MemOk := State.hostWrite_wf h tenant pa bs

theorem State.MemOk.hostRead (tenant pa n : Nat) : (s.hostRead tenant pa n).MemOk := by
  have met := fun l : List Nat => h.fold (fun t sec ht => ht.tagFailure (t.sectorKeyId sec) sec) l
  exact met _

end

theorem execHostAccess_keepsMem {tenant pa len : Nat} {data : Option (List Byte)} : KeepsMem (execHostAccess tenant pa len data) :=
  .of_next (fun _ => rfl) fun s h => .ite h <| by
    split
    · exact h.hostRead ..
    · exact .ite h (h.hostWrite ..).flushHeld

/-! ### Ports -/

section
variable {s : State} (h : s.MemOk)
include h

theorem State.MemOk.updPort (p : Nat) (f : Port → Port) : (s.updPort p f).MemOk := h

theorem State.MemOk.routesUp (p : Nat) : (s.routesUp p).MemOk := by
  unfold State.routesUp
  show Memory.wf s.mem = true
  exact h

theorem State.MemOk.failSent (n : Nat) (c : Cause) : (s.failSent n c).MemOk := by
  have dropped : State.MemOk { s with links := { s.links with sent := s.links.sent.filter (·.number != n) } } := h
  unfold State.failSent
  dsimp only
  split
  · exact dropped
  · split
    · exact dropped
    · next u e =>
      have hu := dropped.load _ u e
      exact State.MemOk.parkAny (State.MemOk.ite (by exact hu) (hu.absentFault _))

theorem State.MemOk.loseFlit (target : Nat) (x : Flit) : (s.loseFlit target x).MemOk := by
  unfold State.loseFlit
  split
  · exact .ite (h.failSent ..) (h.sendFlit ..)
  · exact h.sendFlit ..

theorem State.MemOk.loseWaiting : s.loseWaiting.MemOk := State.MemOk.fold (by exact h) (fun _ x ht => ht.loseFlit x.1 x.2) _

theorem State.MemOk.drainPort (p : Nat) : (s.drainPort p).MemOk := .sendWaiting (.loseWaiting (by exact h))

/-! ### Remote operations -/

theorem State.MemOk.performHome (x : RemoteOp) : FirstOk (s.performHome x) := by
  have clocked {t : State} (ht : t.MemOk) : (t.opClock x).MemOk := .ite ht ht
  unfold State.performHome
  dsimp only
  split
  · exact h
  · split
    · exact h
    · split
      · exact h.afterFail ..
      · split
        · exact clocked h
        · exact clocked (h.homeWrite ..)

theorem State.MemOk.performRemote (x : RemoteOp) : Ends FirstOk (s.performRemote x) := by
  unfold State.performRemote
  split
  · exact .some h
  · exact .ite .none (.some (by exact h.performHome x))

theorem State.MemOk.takeAnswer (n : Nat) (a : LinkAnswer) : (s.takeAnswer n a).MemOk := by
  unfold State.takeAnswer
  split
  · exact .flushHeld (by exact h)
  · exact (h.failSent ..).flushHeld
  · exact (h.failSent ..).flushHeld
  · exact (h.failSent ..).flushHeld

theorem State.MemOk.takeFlit (x : Flit) : Ends State.MemOk (s.takeFlit x) := by
  unfold State.takeFlit
  refine .ite (.some (h.sendFlit ..).loseWaiting) ?_
  split
  · next y => exact (h.performRemote y).map fun _ ht => State.MemOk.sendFlit (by exact ht) _ _
  · exact .some (h.takeAnswer ..)

end

theorem execLinkId_keepsMem {id : BitVec 11} : KeepsMem (execLinkId id) := .of_next (fun _ => rfl) fun _ h => .ite (.ite h h) h

theorem execPortEnable_keepsMem {p : Nat} : KeepsMem (execPortEnable p) := .of_next (fun _ => rfl) fun _ h => .ite h h

theorem execPortTrained_keepsMem {p strands : Nat} {conflict : Bool} : KeepsMem (execPortTrained p strands conflict) :=
  .of_next (fun _ => rfl) fun _ h =>
    .ite h (.ite h (.ite ((h.updPort _ _).routesUp p).sendWaiting (.ite ((h.updPort _ _).routesUp p).sendWaiting h)))

theorem execPortRetrain_keepsMem {p : Nat} {ok : Bool} : KeepsMem (execPortRetrain p ok) := .of_next (fun _ => rfl) fun _ h => .ite h h

theorem execPortDisable_keepsMem {p : Nat} : KeepsMem (execPortDisable p) := .of_next (fun _ => rfl) fun _ h => .ite (h.drainPort p) h

theorem execPortDrained_keepsMem {p : Nat} : KeepsMem (execPortDrained p) := .of_next (fun _ => rfl) fun _ h => .ite h h

theorem execStrandRetire_keepsMem {p strand : Nat} : KeepsMem (execStrandRetire p strand) :=
  .of_next (fun _ => rfl) fun s h => .ite (by
    have kept := fun f : Port → Port => h.updPort p f
    exact State.MemOk.ite ((kept _).drainPort p) (kept _)) h

theorem execRemoteOperation_keepsMem {x : RemoteOp} : KeepsMem (execRemoteOperation x) :=
  .of_next (fun _ => rfl) fun _ h => (h.takeFlit _).getD h

theorem execFlitReceive_keepsMem {p : Nat} {seq : BitVec 16} {crcOk : Bool} {body : FlitBody} : KeepsMem (execFlitReceive p seq crcOk body) :=
  .of_next (fun _ => rfl) fun s h => .ite h <| .ite h <| by
    have acked : (match body.ack with | some n => s.updPort p (·.ackTo n) | none => s).MemOk := by
      split
      · exact h
      · exact h
    refine .ite (acked.sendWaiting.updPort ..) ?_
    split
    · exact acked.sendWaiting.updPort ..
    · exact Ends.getD ((acked.sendWaiting.takeFlit _).map fun _ ht => by exact ht) acked.sendWaiting

theorem execFlitNak_keepsMem {p : Nat} {n : Nak} : KeepsMem (execFlitNak p n) :=
  .of_next (fun _ => rfl) fun _ h => .ite (h.updPort ..).sendWaiting h

/-! ### Collectives -/

section
variable {s : State} (h : s.MemOk)
include h

theorem State.MemOk.collFails (i : CollItem) (c : Cause) (off : Nat) (va : Option Nat) : (s.collFails i c off va).MemOk :=
  .engineTrap (by exact h) ..

theorem State.MemOk.collReach (i : CollItem) (b : List Byte) {f : State → Option State} (hf : ∀ t, t.MemOk → Ends State.MemOk (f t)) :
    Ends State.MemOk (s.collReach i b f) := by
  have read := State.MemOk.engineRead s.g.core s.g.ref.ctx (pieces (field b 8 8) (2 * collM b)) h []
  unfold State.collReach
  split
  · exact .none
  · next e => exact .some ((read.fail e).collFails ..)
  · next e => exact .ite (.some ((read.ok e).collFails ..)) (hf _ (read.ok e))

theorem State.MemOk.collStart (i : CollItem) (b : List Byte) : Ends State.MemOk (s.collStart i b) :=
  h.collReach i b fun s1 h1 => .ite (.some h1) <| by
    have read := State.MemOk.engineRead s1.g.core s1.g.ref.ctx (pieces (field b 16 8) (4 * collSource b)) h1 []
    split
    · exact .none
    · next e => exact .some ((read.fail e).collFails ..)
    · next e =>
      have ht := read.ok e
      exact .some ht

end

theorem State.MemOk.collWrite (core ctx : Nat) : ∀ (ps : List (Nat × Nat)) {s : State}, s.MemOk → ∀ bs, (s.collWrite core ctx ps bs).MemOk
  | [], _, h, _ => h
  | (va, n) :: rest, s, h, bs => by
    have first := h.engineWrite core ctx [] va (bs.take n)
    unfold State.collWrite
    split
    · next e => exact State.MemOk.collWrite core ctx rest (first.ok e) _
    · exact first

section
variable {s : State} (h : s.MemOk)
include h

theorem State.MemOk.collSignal (i : CollItem) (b : List Byte) : Ends State.MemOk (s.collSignal i b) := by
  have ended : ∀ r : EGot, r.MemOk → Ends State.MemOk (match r with
      | .wait => none
      | .fail c va s2 => some (s2.collFails i c 0 (some va))
      | .ok _ _ s2 => some s2.popColl) := by
    intro r hr
    cases r with
    | wait => exact .none
    | fail => exact .some (State.MemOk.collFails hr ..)
    | ok => exact .some hr
  refine (h.release 2).bind fun s1 h1 => ended _ (.ite h1 ?_)
  have h1 : s1.MemOk := h1
  split
  · exact h1.engineAdd ..
  · exact h1.engineArrive ..
  · exact h1

theorem State.MemOk.collStore (i : CollItem) (b : List Byte) : Ends State.MemOk (s.collStore i b) := by
  have written := fun bs : List Byte => State.MemOk.collWrite s.g.core s.g.ref.ctx (pieces (field b 24 8) bs.length) h bs
  unfold State.collStore
  dsimp only
  split
  · exact .none
  · next e => exact .some (((written _).fail e).collFails ..)
  · next e =>
    have ht := (written _).ok e
    exact .some ht

end

theorem execCollEntryPerform_keepsMem {r : WRef} : KeepsMem (execCollEntryPerform r) :=
  onWarpAny_keepsMem fun s h => by
    have passed : State.MemOk { s with w := s.w.passFences } := h
    generalize ({ s with w := s.w.passFences } : State) = t at passed
    show Ends State.MemOk (match t.w.collQ with | [] => _ | i :: _ => _)
    split
    · exact .some passed
    · refine .ite (.some passed) ?_
      split
      · exact .ite (.some passed) (passed.collReach _ _ fun _ hu => .some hu)
      · have read := fun a => State.MemOk.readGranules t.g.core t.g.ref.ctx 2 passed a
        split
        · exact .none
        · next e => exact .some (((read _).fail e).collFails ..)
        · next e => exact .ite (((read _).ok e).collStart _ _) (.some (((read _).ok e).collFails ..))

theorem execCollPeerData_keepsMem {r : WRef} {rank : Nat} {record : List Byte} {data : List (BitVec 32)} :
    KeepsMem (execCollPeerData r rank record data) :=
  onWarpAny_keepsMem fun s h => by
    split
    · exact .none
    · split
      · exact .none
      · exact .ite .none (.ite (.some (h.collFails ..)) (.ite .none (.some h)))

theorem execCollComplete_keepsMem {r : WRef} : KeepsMem (execCollComplete r) :=
  onWarpAny_keepsMem fun s h => by
    split
    · exact .none
    · split
      · exact .none
      · exact .ite .none (.ite (h.collSignal _ _) (h.collStore _ _))

end Sys2Proof.Machine
end

section
/-!
SUPPORT. The canonical form of memory through the management processor: bring-up, mailboxes, reports, registers, diagnostics and the
commands of the physical function (21_firmware.md; 19_page.md R372).
-/
namespace Sys2Proof.Machine

/-! ### Bring-up -/

section
variable {s : State} (h : s.MemOk)
include h

theorem State.MemOk.verifyImage (images : List BootImage) (core : Nat) : Ends State.MemOk (s.verifyImage images core) :=
  Ends.any.bind fun _ _ => .ite (.some h) .none

theorem State.MemOk.verifyAll (images : List BootImage) (ks : List Nat) : FirstOk (s.verifyAll images ks) := by
  induction ks generalizing s with
  | nil => exact h
  | cons k rest ih =>
    unfold State.verifyAll
    split
    · next e => exact ih (h.verifyImage _ _ _ e)
    · exact h

theorem State.MemOk.bootFails (step : Nat) : (s.bootFails step).MemOk := h

theorem State.MemOk.booted (step : Nat) : (s.booted step).MemOk := h

theorem State.MemOk.updCore (core : Nat) (f : Core → Core) : (s.updCore core f).MemOk := h

theorem State.MemOk.bootTables (u : UnitId) : (s.bootTables u).MemOk := by
  unfold State.bootTables
  split
  · exact h
  · exact h
  · exact (h.updPart ..).rewritePart ..

theorem State.MemOk.setChannel (c : Channel) : (s.setChannel c).MemOk := h

theorem State.MemOk.channelRetired (n : Nat) : (((s.setChannel { s.channelAt n with retired := true }).slotsOf n .reserve).foldl
    (fun t k => t.setSlot k { state := .withdrawn, channel := n, target := 0 }) (s.setChannel { s.channelAt n with retired := true })).MemOk :=
  (h.setChannel _).fold (fun _ _ ht => ht.setSlot ..) _

theorem State.MemOk.applyRecord (x : BitVec 64) : (s.applyRecord x).MemOk := by
  unfold State.applyRecord
  split
  · exact (h.updCore ..).bootTables _
  · split
    · extract_lets n c s1 s2 s3
      have assigned : s3.MemOk := (h.channelRetired n).assignSlots ..
      clear_value s3
      exact assigned
    · refine State.MemOk.fold (by exact h) (fun t c ht => ?_) _
      split
      · exact ht
      · exact ht
    · exact h

theorem State.MemOk.sweepFail (u : UnitId) : (s.sweepFail u).MemOk := by
  unfold State.sweepFail
  refine State.MemOk.bootTables ?_ u
  split
  · exact (h.failUnit u).retireSuspects ..
  · exact .ite h h

/-! ### Mailboxes and registers -/

theorem State.MemOk.sendMail (m : List Byte) : (s.sendMail m).MemOk := .ite h (.ite h h)

theorem State.MemOk.askReport : s.askReport.MemOk := h

theorem State.MemOk.writeDiag (val : BitVec 64) : (s.writeDiag val).MemOk := .ite h h

theorem State.MemOk.writePf (val : BitVec 64) : (s.writePf val).MemOk := .ite h h

theorem State.MemOk.clearCause (bits : BitVec 64) : (s.clearCause bits).MemOk := h

theorem State.MemOk.giveIdentity (id : Nat) : (s.giveIdentity id).MemOk := .ite h h

end

theorem State.MemOk.scrubbed {s : State} : s.scrubbed.MemOk := rfl

theorem execBringUp_keepsMem {x : BootInput} : KeepsMem (execBringUp x) :=
  .of_next (fun _ => rfl) fun s h => .ite h <| .ite h <| by
    split
    · split
      · exact h
      · next e =>
        have ht := h.verifyImage _ _ _ e
        exact ht
    · have verified := h.verifyAll x.images [0, 1, 2, 3, 5, 6, 7]
      split
      next e =>
      rw [e] at verified
      exact State.MemOk.ite verified verified
    · have applied := h.fold (f := fun t (r : BitVec 64 × Nat) => t.applyRecord r.1) (fun _ _ ht => ht.applyRecord _) s.flash.retired
      exact applied.booted 3
    · exact .ite (State.MemOk.scrubbed (s := s)) h
    · exact (h.fold (fun _ _ ht => ht.sweepFail _) _).booted 5
    · exact h

theorem execMailboxMessage_keepsMem {src dst : Nat} : KeepsMem (execMailboxMessage src dst) :=
  .of_next (fun _ => rfl) fun _ h => State.MemOk.fold (by exact h) (fun _ m ht => ht.sendMail m) _

theorem execPowerOff_keepsMem : KeepsMem execPowerOff := .of_next (fun _ => rfl) fun _ _ => rfl

theorem execPowerSample_keepsMem {x : PowerInput} : KeepsMem (execPowerSample x) := .of_next (fun _ => rfl) fun _ h => .ite h h

theorem execAttestRequest_keepsMem : KeepsMem execAttestRequest :=
  .of_next (fun _ => rfl) fun s h => by
    extract_lets w
    split
    · exact h
    · split
      · exact .ite h h
      · exact .physWrite (by exact h) ..

theorem execEventCauseClear_keepsMem {bits : BitVec 64} : KeepsMem (execEventCauseClear bits) := .of_next (fun _ => rfl) fun _ h => .ite h h

theorem execRegisterWrite_keepsMem {off : Nat} {val : BitVec 64} : KeepsMem (execRegisterWrite off val) :=
  .of_next (fun _ => rfl) fun s h => by
    extract_lets w
    clear_value w
    refine .ite h (.ite (h.giveIdentity _) (.ite (.ite h.askReport h) ?_))
    refine .ite h (.ite h (.ite (h.writeDiag val) ?_))
    refine .ite h (.ite (h.clearCause val) ?_)
    exact .ite (h.writePf val) (.ite h h)

/-! ### Diagnostics -/

section
variable {s : State} (h : s.MemOk)
include h

theorem State.MemOk.diagEnds (status : Nat) : (s.diagEnds status).MemOk := h

theorem State.MemOk.pfEnds (status : Nat) : (s.pfEnds status).MemOk := h

theorem State.MemOk.plainKey (key : Nat) : (s.plainKey key).MemOk := h

end

theorem onDiag_keepsMem {code : Nat} {named : Option (BitVec 64)} {f : BitVec 64 → State → Option State}
    (hf : ∀ x s, s.MemOk → Ends State.MemOk (f x s)) : KeepsMem (onDiag code named f) :=
  .of_next (fun _ => rfl) fun s h => .ite h <| by
    split
    · next e => exact State.MemOk.diagEnds (hf _ s h _ e) 2
    · exact h

theorem execDiagRetirementRecords_keepsMem : KeepsMem execDiagRetirementRecords := onDiag_keepsMem fun _ _ h => .ite .none (.some (h.physWrite ..))

theorem execDiagCoreDump_keepsMem {operand : BitVec 64} : KeepsMem (execDiagCoreDump operand) :=
  onDiag_keepsMem fun _ _ h => Ends.any.map fun _ _ => h.physWrite ..

theorem execDiagRevive_keepsMem {operand : BitVec 64} {pass : Bool} : KeepsMem (execDiagRevive operand pass) :=
  onDiag_keepsMem fun _ _ h => Ends.any.bind fun _ _ => .ite (.some (by exact h)) .none

theorem execDiagVacate_keepsMem {operand : BitVec 64} : KeepsMem (execDiagVacate operand) :=
  onDiag_keepsMem fun _ _ h => Ends.any.map fun _ _ => by exact h

theorem execDiagVacateEnd_keepsMem {operand : BitVec 64} : KeepsMem (execDiagVacateEnd operand) :=
  onDiag_keepsMem fun _ _ h => Ends.any.map fun _ _ => by exact h

theorem execDiagSlotTable_keepsMem : KeepsMem execDiagSlotTable := onDiag_keepsMem fun _ _ h => .ite .none (.some (h.physWrite ..))

/-! ### Commands of the physical function -/

theorem FirstOk.ite {α : Type} {c : Prop} [Decidable c] {x y : State × α} (hx : FirstOk x) (hy : FirstOk y) : FirstOk (if c then x else y) := by
  split
  · exact hx
  · exact hy

theorem onPf_keepsMem {code : Nat} {byte word : Option Nat} {f : Nat → Nat → State → State × Nat}
    (hf : ∀ i j s, s.MemOk → FirstOk (f i j s)) : KeepsMem (onPf code byte word f) :=
  .of_next (fun _ => rfl) fun s h => by
    split
    · exact h
    · exact .ite h (.ite h (State.MemOk.pfEnds (hf _ _ s h) _))

theorem execTenantSet_keepsMem {tenant record : Nat} : KeepsMem (execTenantSet tenant record) :=
  onPf_keepsMem fun _ pa s h => .ite h <| .ite h <| by
    split
    · exact h.physMet ..
    · exact .ite h h

theorem execTenantClear_keepsMem {tenant : Nat} : KeepsMem (execTenantClear tenant) :=
  onPf_keepsMem fun t _ s h => .ite h <| .ite h <| by
    have plain := h.fold (fun u i hu => hu.plainKey (4 * t + i)) (List.range 4)
    exact plain

theorem execKeyLoad_keepsMem {key blob : Nat} : KeepsMem (execKeyLoad key blob) :=
  onPf_keepsMem fun _ pa s h => .ite h <| .ite h <| by
    split
    · exact h.physMet ..
    · exact State.MemOk.physWrite (by exact h) ..

theorem execKeyClear_keepsMem {key : Nat} : KeepsMem (execKeyClear key) := onPf_keepsMem fun _ _ _ h => .ite h (h.plainKey _)

theorem execLinkGrant_keepsMem {record : Nat} : KeepsMem (execLinkGrant record) :=
  onPf_keepsMem fun _ pa s h => by
    split
    · exact h.physMet ..
    · exact .ite h h

theorem execLinkRevoke_keepsMem {record : Nat} : KeepsMem (execLinkRevoke record) :=
  onPf_keepsMem fun _ pa s h => by
    split
    · exact h.physMet ..
    · exact .ite h h

theorem execUnlistedCommandCode_keepsMem {x : CommandWindow} {block : List Byte} : KeepsMem (execUnlistedCommandCode x block) := by
  cases x with
  | context tenant =>
    intro s t h e
    unfold execUnlistedCommandCode at e
    dsimp only at e
    split at e
    · cases e
      exact h
    · exact onCommand_keepsMem (fun _ hs => hs.answer ..) s t h e
  | pf => exact .of_next (fun _ => rfl) fun _ h => .ite (h.pfEnds 2) h
  | diag => exact .of_next (fun _ => rfl) fun _ h => .ite (h.diagEnds 3) h

end Sys2Proof.Machine
end

section
/-!
SUPPORT. The canonical form of memory through issue and the step (05_issue.md, 06_warp.md; 19_page.md R372): the instruction words, the
events, the fetch, a set of slots, and what a turn does.
-/
namespace Sys2Proof.Machine

/-! ### The instruction words -/

theorem StoresNothing.keepsMem {f : State → Result} (hf : StoresNothing f) : KeepsMem f := fun s t h e => by
  have same : t.mem = s.mem := congrArg Stored.mem (hf s t e)
  show Memory.wf t.mem = true
  rw [same]
  exact h

/-- An effect leaves the form, whatever it ends in. -/
def Eff.MemOk : Eff → Prop
  | .done t => t.MemOk
  | .pause t => t.MemOk
  | .trapIn _ t => t.MemOk
  | _ => True

theorem Eff.MemOk.ite {c : Prop} [Decidable c] {x y : Eff} (hx : x.MemOk) (hy : y.MemOk) : (if c then x else y).MemOk := by
  split
  · exact hx
  · exact hy

section
variable {s : State} (h : s.MemOk)
include h

theorem State.MemOk.takeTrap (x : TrapInfo) : (takeTrap x s).MemOk := h

theorem State.MemOk.tainted (seq : Nat) (bad : List Nat) : (s.tainted seq bad).MemOk := .ite h h

theorem State.MemOk.retired (u : Use) (s0 : State) : (retire u s0 s).MemOk := h

theorem State.MemOk.watch (va n : Nat) (met : List Byte → Bool) : (s.watch va n met).MemOk := by
  unfold State.watch
  split
  · next e => exact h.translated e
  · trivial
  · next pa x s1 e =>
    have ht := h.translated e
    refine .ite trivial ?_
    split
    · exact ht.afterFail ..
    · have sent := fun n => ht.sendLoad s1.g.core x.key pa 1 n
      exact .ite (by exact sent n) trivial

end

theorem slotDo_keepsMem {u : Use} {body : State → Eff} (hb : ∀ s, s.MemOk → (body s).MemOk) : KeepsMem (slotDo u body) :=
  .of_next (fun _ => rfl) fun s h => by
    have done := hb s h
    split
    · exact h
    · exact h
    · exact h
    · exact h
    · exact h
    · split
      · exact h
      · next e => rw [e] at done; exact done
      · exact h
      · next e => rw [e] at done; exact done
      · next e =>
        rw [e] at done
        exact .ite (h.takeTrap _) ((State.MemOk.tainted done _ _).retired ..)

theorem execPf_keepsMem {a l : BitVec 7} : KeepsMem (execPf a l) := slotDo_keepsMem fun _ h => State.MemOk.ite (h.prefetch _) h

theorem execIpf_keepsMem {m i : BitVec 7} : KeepsMem (execIpf m i) := slotDo_keepsMem fun _ h => State.MemOk.prefetchLines _ _ _ h

theorem execStage_keepsMem {a b : BitVec 7} : KeepsMem (execStage a b) :=
  slotDo_keepsMem fun _ h => .ite trivial (State.MemOk.ite (by exact h) (Ends.getD (State.MemOk.nextStage (by exact h)) (by exact h)))

theorem execWaitge_keepsMem {a b : BitVec 7} : KeepsMem (execWaitge a b) := slotDo_keepsMem fun _ h => .ite trivial (h.watch ..)

theorem execMbAwait_keepsMem {a b : BitVec 7} : KeepsMem (execMbAwait a b) := slotDo_keepsMem fun _ h => .ite trivial (h.watch ..)

/-- An instruction word leaves the form: the five that translate an address as they issue, and the others because they store nothing. -/
theorem exec_word_keepsMem (i : Instr) (hi : (encode i).isSome = true) : KeepsMem (exec i) := by
  by_cases five : ∀ a b, i ≠ .pf a b ∧ i ≠ .ipf a b ∧ i ≠ .stage a b ∧ i ≠ .waitge a b ∧ i ≠ .mbAwait a b
  · exact (exec_storesNothing i hi five).keepsMem
  · obtain ⟨a, b, rfl | rfl | rfl | rfl | rfl⟩ :
        ∃ a b, i = .pf a b ∨ i = .ipf a b ∨ i = .stage a b ∨ i = .waitge a b ∨ i = .mbAwait a b := by
      by_contra none
      exact five fun a b => ⟨fun e => none ⟨a, b, .inl e⟩, fun e => none ⟨a, b, .inr (.inl e)⟩, fun e => none ⟨a, b, .inr (.inr (.inl e))⟩,
        fun e => none ⟨a, b, .inr (.inr (.inr (.inl e)))⟩, fun e => none ⟨a, b, .inr (.inr (.inr (.inr e)))⟩⟩
    · exact execPf_keepsMem
    · exact execIpf_keepsMem
    · exact execStage_keepsMem
    · exact execWaitge_keepsMem
    · exact execMbAwait_keepsMem

/-! ### The events of a warp -/

theorem execIllPacket_keepsMem : KeepsMem execIllPacket := .of_next (fun _ => rfl) fun _ h => h.takeTrap _

theorem execIfetchFillDone_keepsMem {core ctx va : Nat} : KeepsMem (execIfetchFillDone core ctx va) :=
  .of_next (fun _ => rfl) fun s h => .ite h <| by
    have line := h.codeLine core ctx va
    split
    · next e => rw [e] at line; exact line
    · exact h
    · next e => rw [e] at line; exact line
    · exact h

theorem execTranslationWalkDone_keepsMem {core ctx va : Nat} : KeepsMem (execTranslationWalkDone core ctx va) :=
  .of_next (fun _ => rfl) fun s h => by
    have walked := h.walkIn core ctx va false
    split
    · next e => rw [e] at walked; exact walked
    · next e => rw [e] at walked; exact walked
    · exact h

theorem execSleepTimerLapse_keepsMem {r : WRef} : KeepsMem (execSleepTimerLapse r) := onWarp_keepsMem fun _ h => .ite (.some h) .none

theorem execHaltBroadcast_keepsMem {r : WRef} : KeepsMem (execHaltBroadcast r) := onWarp_keepsMem fun _ h => .ite (.some h) .none

theorem execWatchdog_keepsMem {g : GRef} : KeepsMem (execWatchdog g) :=
  onWarp_keepsMem fun s h => by
    split
    · exact .none
    · exact .ite .none (.some h)

/-! ### Every instruction -/

/-- A constructor that no word encodes leaves the form: each event, and a packet that is refused. -/
theorem exec_event_keepsMem (i : Instr) (hi : ¬ (encode i).isSome = true) : KeepsMem (exec i) := by
  cases i with
  | registerResultWritten => exact execRegisterResultWritten_keepsMem
  | shadowRerunDone => exact execShadowRerunDone_keepsMem
  | columnRecheckDone => exact execColumnRecheckDone_keepsMem
  | selfCheckStep => exact execSelfCheckStep_keepsMem
  | mowingHold => exact execMowingHold_keepsMem
  | evacuationComplete => exact execEvacuationComplete_keepsMem
  | rewritePoint => exact execRewritePoint_keepsMem
  | columnTableRewrite => exact execColumnTableRewrite_keepsMem
  | loadReturn => exact execLoadReturn_keepsMem
  | storeLeavesQueue => exact execStoreLeavesQueue_keepsMem
  | scratchAccessPerformed => exact execScratchAccessPerformed_keepsMem
  | recordReturn => exact execRecordReturn_keepsMem
  | atomicPerformed => exact execAtomicPerformed_keepsMem
  | warpDrained => exact execWarpDrained_keepsMem
  | arrivalApplied => exact execArrivalApplied_keepsMem
  | writeNotice => exact execWriteNotice_keepsMem
  | rereadInterval => exact execRereadInterval_keepsMem
  | scheduleReadDone => exact execScheduleReadDone_keepsMem
  | copyEntryStart => exact execCopyEntryStart_keepsMem
  | copyHoldRenew => exact execCopyHoldRenew_keepsMem
  | copyDataLanded => exact execCopyDataLanded_keepsMem
  | cpy32Complete => exact execCpy32Complete_keepsMem
  | operandLatchTake => exact execOperandLatchTake_keepsMem
  | gatherDone => exact execGatherDone_keepsMem
  | columnChunkGrant => exact execColumnChunkGrant_keepsMem
  | columnChunkDone => exact execColumnChunkDone_keepsMem
  | engineIdle => exact execEngineIdle_keepsMem
  | accMovePerformed => exact execAccMovePerformed_keepsMem
  | dispatchSelect => exact execDispatchSelect_keepsMem
  | quantumExpiry => exact execQuantumExpiry_keepsMem
  | evictReturnAreaReady => exact execEvictReturnAreaReady_keepsMem
  | diversionEntryFree => exact execDiversionEntryFree_keepsMem
  | evictionComplete => exact execEvictionComplete_keepsMem
  | divertedArrival => exact execDivertedArrival_keepsMem
  | gleaningComplete => exact execGleaningComplete_keepsMem
  | migrationDecision => exact execMigrationDecision_keepsMem
  | migrationStreamEnd => exact execMigrationStreamEnd_keepsMem
  | haltComplete => exact execHaltComplete_keepsMem
  | trapQueueSlotFree => exact execTrapQueueSlotFree_keepsMem
  | packetNop => exact execPacketNop_keepsMem
  | gridLaunch => exact execGridLaunch_keepsMem
  | nodeBind => exact execNodeBind_keepsMem
  | nodeUnbind => exact execNodeUnbind_keepsMem
  | nodeUnbindComplete => exact execNodeUnbindComplete_keepsMem
  | indirectBuffer => exact execIndirectBuffer_keepsMem
  | waitPacket => exact execWaitPacket_keepsMem
  | signalPacket => exact execSignalPacket_keepsMem
  | recordFence => exact execRecordFence_keepsMem
  | contextFence => exact execContextFence_keepsMem
  | queueWaitSatisfied => exact execQueueWaitSatisfied_keepsMem
  | launchComplete => exact execLaunchComplete_keepsMem
  | nodeRecordOffer => exact execNodeRecordOffer_keepsMem
  | nodeTimerLapse => exact execNodeTimerLapse_keepsMem
  | batchFreeFormation => exact execBatchFreeFormation_keepsMem
  | create => exact execCreate_keepsMem
  | destroy => exact execDestroy_keepsMem
  | destroyComplete => exact execDestroyComplete_keepsMem
  | suspend => exact execSuspend_keepsMem
  | suspendComplete => exact execSuspendComplete_keepsMem
  | resume => exact execResume_keepsMem
  | queueAdd => exact execQueueAdd_keepsMem
  | queueStart => exact execQueueStart_keepsMem
  | queueStop => exact execQueueStop_keepsMem
  | queueReset => exact execQueueReset_keepsMem
  | groupResume => exact execGroupResume_keepsMem
  | groupAbort => exact execGroupAbort_keepsMem
  | setQuantum => exact execSetQuantum_keepsMem
  | migrate => exact execMigrate_keepsMem
  | migrateComplete => exact execMigrateComplete_keepsMem
  | pageBringIn => exact execPageBringIn_keepsMem
  | invalidationRequest => exact execInvalidationRequest_keepsMem
  | invalidationComplete => exact execInvalidationComplete_keepsMem
  | dirtySectorWriteback => exact execDirtySectorWriteback_keepsMem
  | channelRetirement => exact execChannelRetirement_keepsMem
  | granuleCopyStart => exact execGranuleCopyStart_keepsMem
  | granuleCopyEnd => exact execGranuleCopyEnd_keepsMem
  | sliceRetirement => exact execSliceRetirement_keepsMem
  | scrubSector => exact execScrubSector_keepsMem
  | stileRelease => exact execStileRelease_keepsMem
  | hostAccess => exact execHostAccess_keepsMem
  | linkId => exact execLinkId_keepsMem
  | portEnable => exact execPortEnable_keepsMem
  | portTrained => exact execPortTrained_keepsMem
  | portRetrain => exact execPortRetrain_keepsMem
  | portDisable => exact execPortDisable_keepsMem
  | portDrained => exact execPortDrained_keepsMem
  | strandRetire => exact execStrandRetire_keepsMem
  | flitReceive => exact execFlitReceive_keepsMem
  | flitNak => exact execFlitNak_keepsMem
  | remoteOperation => exact execRemoteOperation_keepsMem
  | collEntryPerform => exact execCollEntryPerform_keepsMem
  | collPeerData => exact execCollPeerData_keepsMem
  | collComplete => exact execCollComplete_keepsMem
  | bringUp => exact execBringUp_keepsMem
  | mailboxMessage => exact execMailboxMessage_keepsMem
  | powerSample => exact execPowerSample_keepsMem
  | attestRequest => exact execAttestRequest_keepsMem
  | diagRetirementRecords => exact execDiagRetirementRecords_keepsMem
  | diagCoreDump => exact execDiagCoreDump_keepsMem
  | diagRevive => exact execDiagRevive_keepsMem
  | diagVacate => exact execDiagVacate_keepsMem
  | diagVacateEnd => exact execDiagVacateEnd_keepsMem
  | diagSlotTable => exact execDiagSlotTable_keepsMem
  | eventCauseClear => exact execEventCauseClear_keepsMem
  | tenantSet => exact execTenantSet_keepsMem
  | tenantClear => exact execTenantClear_keepsMem
  | keyLoad => exact execKeyLoad_keepsMem
  | keyClear => exact execKeyClear_keepsMem
  | linkGrant => exact execLinkGrant_keepsMem
  | linkRevoke => exact execLinkRevoke_keepsMem
  | registerWrite => exact execRegisterWrite_keepsMem
  | scratchPageSwitchDone => exact execScratchPageSwitchDone_keepsMem
  | writeBackLanded => exact execWriteBackLanded_keepsMem
  | powerOff => exact execPowerOff_keepsMem
  | hostErrorQueueSlotFree => exact execHostErrorQueueSlotFree_keepsMem
  | unlistedCommandCode => exact execUnlistedCommandCode_keepsMem
  | splitLaunchArrival => exact execSplitLaunchArrival_keepsMem
  | targetCompletionReport => exact execTargetCompletionReport_keepsMem
  | ifetchFillDone => exact execIfetchFillDone_keepsMem
  | translationWalkDone => exact execTranslationWalkDone_keepsMem
  | sleepTimerLapse => exact execSleepTimerLapse_keepsMem
  | haltBroadcast => exact execHaltBroadcast_keepsMem
  | watchdog => exact execWatchdog_keepsMem
  | illPacket => exact execIllPacket_keepsMem
  | _ => exact absurd rfl hi

theorem exec_keepsMem (i : Instr) : KeepsMem (exec i) := by
  by_cases hi : (encode i).isSome = true
  · exact exec_word_keepsMem i hi
  · exact exec_event_keepsMem i hi

/-! ### Fetch and issue -/

/-- A fetch leaves the form, whatever it ends in. -/
def Fetched.MemOk : Fetched → Prop
  | .packet _ t => t.MemOk
  | .stall t => t.MemOk
  | .trap _ t => t.MemOk

theorem State.MemOk.fetch {s : State} (h : s.MemOk) (core a : Nat) : (s.fetch core a).MemOk := by
  have missed (ctx va : Nat) : Fetched.MemOk (if (s.coreAt core).ifills.contains (ctx, va) then .stall s
      else match s.codeLine core ctx va with
        | (.ok _ _, s1) => .stall (s1.updCore core fun k => k.startFills ctx [va])
        | (.away, _) => .stall s
        | (.fail c, s1) => .trap c s1) := by
    have line := h.codeLine core ctx va
    split
    · exact h
    · split
      · next e => rw [e] at line; exact line
      · exact h
      · next e => rw [e] at line; exact line
  have looked (o : Option Packet) : Fetched.MemOk (match o with
      | some p => .packet p s
      | none => match (s.coreAt core).icache.find? fun l => l.ctx == s.g.ref.ctx && l.va == a / 128 * 128 with
        | some l => .packet (packetOf ((l.data.drop (a - a / 128 * 128)).take 16))
            { (s.updCore core fun k => { k with icache := codePut k.icache l }) with
              w := { s.w with packet := some (a, packetOf ((l.data.drop (a - a / 128 * 128)).take 16)) } }
        | none => if (s.coreAt core).ifills.contains (s.g.ref.ctx, a / 128 * 128) then .stall s
          else match s.codeLine core s.g.ref.ctx (a / 128 * 128) with
            | (.ok _ _, s1) => .stall (s1.updCore core fun k => k.startFills s.g.ref.ctx [a / 128 * 128])
            | (.away, _) => .stall s
            | (.fail c, s1) => .trap c s1) := by
    cases o with
    | some p => exact h
    | none =>
      dsimp only
      split
      · exact h
      · exact missed ..
  exact looked _

/-- A result that is a next state leaves the form. -/
def ResultOk (r : Result) : Prop := ∀ t, r = .next t → t.MemOk

theorem ResultOk.next {t : State} (h : t.MemOk) : ResultOk (.next t) := fun _ e => Host.Outcome.next.inj e ▸ h

theorem ResultOk.fault {x : Fault} : ResultOk (.fault x) := fun _ e => by cases e

theorem ResultOk.refused {x : Refusal} : ResultOk (.refused x) := fun _ e => by cases e

theorem ResultOk.mapNext {r : Result} {f : State → State} (h : ResultOk r) (hf : ∀ t, t.MemOk → (f t).MemOk) : ResultOk (mapNext r f) := by
  cases r with
  | next t => exact .next (hf t (h t rfl))
  | fault x => exact .fault
  | refused x => exact .refused

/-- What is issued, or not, leaves the form. -/
def IssueOk (x : Bool × Result) : Prop := ResultOk x.2

theorem IssueOk.ite {c : Prop} [Decidable c] {x y : Bool × Result} (hx : IssueOk x) (hy : IssueOk y) : IssueOk (if c then x else y) := by
  split
  · exact hx
  · exact hy

theorem IssueOk.next {b : Bool} {t : State} (h : t.MemOk) : IssueOk (b, .next t) := ResultOk.next h

theorem SetCtx.settle_mem (c : SetCtx) (t : State) : (c.settle t).mem = t.mem := by
  unfold SetCtx.settle
  rfl

theorem State.issued_mem (s : State) : s.issued.mem = s.mem := rfl

section
variable {c : SetCtx} (hc : c.before.MemOk) {t : State} (ht : t.MemOk)
include hc ht

/-- Whichever way a set ends, the memory it leaves is the one that it started with or the one that its slots left. -/
theorem SetCtx.trapBack_memOk : (c.trapBack t).MemOk := .ite ht hc

theorem SetCtx.stallBack_memOk : (c.stallBack t).MemOk := .ite ht hc

theorem SetCtx.close_memOk (mark : Option Nat) : (c.close mark t).MemOk := by
  unfold SetCtx.close
  have settled : (c.settle t).issued.MemOk := by
    unfold State.MemOk
    rw [State.issued_mem, SetCtx.settle_mem]
    exact ht
  extract_lets r
  clear_value r
  refine State.MemOk.ite ?_ (State.MemOk.ite settled ?_)
  · rw [State.MemOk, State.issued_mem]
    exact ht
  · split
    · exact settled
    · exact SetCtx.trapBack_memOk hc (State.MemOk.takeTrap (by exact hc) _)

end

theorem SetCtx.run_memOk {c : SetCtx} (hc : c.before.MemOk) (is : List Nat) (mark : Option Nat) {t : State} (ht : t.MemOk) :
    IssueOk (c.run is mark t) := by
  induction is generalizing mark t with
  | nil => exact IssueOk.next (SetCtx.close_memOk hc ht mark)
  | cons i rest ih =>
    unfold SetCtx.run
    split
    · next u e =>
      have hu : u.MemOk := exec_keepsMem _ _ u (by exact ht) e
      exact .ite (.next (SetCtx.trapBack_memOk hc hu)) (.ite (.next (SetCtx.stallBack_memOk hc hu)) (ih _ hu))
    · exact ResultOk.fault
    · exact ResultOk.refused

theorem State.MemOk.trapAt {s : State} (h : s.MemOk) (x : TrapInfo) : (s.trapAt x).MemOk := h

theorem State.MemOk.tryIssue {s : State} (h : s.MemOk) (core : Nat) (busy : List Nat) : IssueOk (s.tryIssue core busy) := by
  have fetched := h.fetch core (s.w.pc / 16 * 16)
  unfold State.tryIssue
  refine .ite (.next h) ?_
  split
  · next e => rw [e] at fetched; exact .next (by exact fetched)
  · next e => rw [e] at fetched; exact .next (by exact fetched)
  · next p s0 e =>
    rw [e] at fetched
    have hs0 : s0.MemOk := fetched
    refine .ite ?_ ?_
    · exact ResultOk.mapNext (fun t et => exec_keepsMem .illPacket _ t (by exact hs0) et) fun _ ht => ht
    · split
      · exact .next (by exact hs0)
      · exact .ite (.next (by exact hs0)) (.ite (.next (by exact hs0)) (.ite (.next (by exact hs0)) (SetCtx.run_memOk (by exact hs0) _ _ (by exact hs0))))

theorem State.MemOk.issueFrom {s : State} (h : s.MemOk) (core : Nat) (busy : List Nat) (rs : List WRef) : ResultOk (s.issueFrom core busy rs) := by
  induction rs generalizing s with
  | nil => exact .next h
  | cons r rest ih =>
    unfold State.issueFrom
    split
    · exact ih h
    · next t e =>
      have issued := State.MemOk.tryIssue (h.load r t e) core busy
      split
      · next e2 => rw [e2] at issued; exact ResultOk.mapNext issued fun _ ht => ht
      · next u e2 => rw [e2] at issued; exact ih (issued u rfl)
      · next e2 => rw [e2] at issued; exact issued

/-! ### The step -/

theorem State.MemOk.turned {s : State} (h : s.MemOk) : s.turned.MemOk := h

theorem State.MemOk.take {s : State} (h : s.MemOk) (x : Turn) : ResultOk (s.take x) := by
  have ran (i : Instr) : ResultOk (exec i s) := fun t e => exec_keepsMem i s t h e
  cases x with
  | issue core part busy =>
    unfold State.take
    dsimp only
    split
    · exact h.issueFrom core busy _
    · exact .fault
  | event i =>
    unfold State.take
    dsimp only
    split
    · exact ran i
    · exact .refused
  | upset u => exact .next (h.upset u)
  | copyRow u => exact .next (h.copyRow u)
  | mail m => exact .next (h.sendMail m)
  | command w =>
    show ResultOk ((w.instr.map fun i => exec i s).getD (.next s))
    cases w.instr with
    | none => exact .next h
    | some i => exact ran i

/-- Settles O56: what each turn does leaves the form, so the step does. -/
theorem stepKeepsMemory : Obligations.StepKeepsMemory := fun s t h e => State.MemOk.take h.turned s.turn t e

end Sys2Proof.Machine
end

section
/-!
TILES. The lanes of a tile instruction, and what mma and each accumulator move do by the first check that they fail (13_tile.md R269..R275,
R280..R286).
-/
namespace Sys2Proof.Machine

/-! ### mma (R269..R275) -/

/-- What mma does once it has a reservation: its checks in the order of R274, then its place in the tile queue. -/
def State.mmaEffect (t : State) (sat : Bool) (f s : BitVec 4) (v : BitVec 7) (word coord : Word) : Eff :=
  if !operandOk word (decide (7 ≤ f.toNat)) then .trap (t.trapOf .illOp)
  else if !coordOk t.g.desc coord (mmaN s.toNat) then .trap (t.trapOf .accRange)
  else if operandB word % 16 != 0 then .trap (t.addrTrap .misalign (operandB word))
  else if !t.g.scratchOk (operandB word) (mmaBlock f.toNat s.toNat) then .trap (t.addrTrap .scratchRange (operandB word))
  else match tileLanes t v (mmaRow f.toNat s.toNat) with
    | .inl x => .trap x
    | .inr xs =>
      let t1 := t.postTile (.mma f.toNat s.toNat sat) xs word coord
      .done { t1 with w := { t1.w with nextSeq := t1.w.nextSeq + 1 } }

theorem mmaDo_eq (sat : Bool) (f sh : BitVec 4) (v p : BitVec 7) : mmaDo sat f sh v p =
    slotDo { wf := decide (f.toNat ≤ 8) && decide (sh.toNat ≤ 11) && even p && (!sat || decide (7 ≤ f.toNat)), vtop := v.toNat + 1,
             reads := .v v.toNat :: rspair p, lane := true, mem := true } fun t =>
      if t.tableFull then .wait else if t.g.desc.draw = 0 then .trap (t.trapOf .draw) else t.mmaEffect sat f sh v (t.src.sget p) (t.src.sget (p + 1)) := rfl

section
variable {t : State} {sat : Bool} {f sh : BitVec 4} {v : BitVec 7} {word coord : Word}

theorem State.mmaEffect_illOp (h : ¬operandOk word (decide (7 ≤ f.toNat)) = true) :
    t.mmaEffect sat f sh v word coord = .trap (t.trapOf .illOp) := if_pos (by simpa using h)

section
variable (hw : operandOk word (decide (7 ≤ f.toNat)) = true)
include hw

theorem State.mmaEffect_accRange (h : ¬coordOk t.g.desc coord (mmaN sh.toNat) = true) :
    t.mmaEffect sat f sh v word coord = .trap (t.trapOf .accRange) := by
  simp [State.mmaEffect, hw, h]

section
variable (hc : coordOk t.g.desc coord (mmaN sh.toNat) = true)
include hc

theorem State.mmaEffect_misalign (h : operandB word % 16 ≠ 0) :
    t.mmaEffect sat f sh v word coord = .trap (t.addrTrap .misalign (operandB word)) := by
  simp [State.mmaEffect, hw, hc, h]

variable (ha : operandB word % 16 = 0)
include ha

theorem State.mmaEffect_scratchRange (h : ¬t.g.scratchOk (operandB word) (mmaBlock f.toNat sh.toNat) = true) :
    t.mmaEffect sat f sh v word coord = .trap (t.addrTrap .scratchRange (operandB word)) := by
  simp [State.mmaEffect, hw, hc, ha, h]

variable (hb : t.g.scratchOk (operandB word) (mmaBlock f.toNat sh.toNat) = true)
include hb

theorem State.mmaEffect_lanes {x : TrapInfo} (h : tileLanes t v (mmaRow f.toNat sh.toNat) = .inl x) : t.mmaEffect sat f sh v word coord = .trap x := by
  simp [State.mmaEffect, hw, hc, ha, hb, h]

theorem State.mmaEffect_posts {xs : List (Nat × Nat)} (h : tileLanes t v (mmaRow f.toNat sh.toNat) = .inr xs) :
    t.mmaEffect sat f sh v word coord =
      .done { t.postTile (.mma f.toNat sh.toNat sat) xs word coord with
        w := { (t.postTile (.mma f.toNat sh.toNat sat) xs word coord).w with
          nextSeq := (t.postTile (.mma f.toNat sh.toNat sat) xs word coord).w.nextSeq + 1 } } := by
  simp [State.mmaEffect, hw, hc, ha, hb, h]

end
end
end

/-- What either matrix instruction does, by the first of its checks that fails (R274). -/
theorem mma_forms {i : Instr} {sat : Bool} {f sh : BitVec 4} {v p : BitVec 7} {s : State} (hi : exec i s = mmaDo sat f sh v p s) :
    let word := s.src.sget p
    let coord := s.src.sget (p + 1)
    let place (l : Nat) : Nat := (laneAt (s.src.vget v) l).toNat
    let u : Use :=
      { wf := decide (f.toNat ≤ 8) && decide (sh.toNat ≤ 11) && even p && (!sat || decide (7 ≤ f.toNat)), vtop := v.toNat + 1,
        reads := .v v.toNat :: rspair p, lane := true, mem := true }
    let t1 := s.postTile (.mma f.toNat sh.toNat sat) ((lanesIn s.active).map fun l => (l, place l)) word coord
    (s.tableFull = true → Stalls i u s s) ∧
    (s.tableFull = false → s.g.desc.draw = 0 → Traps i u s (s.trapOf .draw)) ∧
    (s.tableFull = false → s.g.desc.draw ≠ 0 → operandOk word (decide (7 ≤ f.toNat)) = true → coordOk s.g.desc coord (mmaN sh.toNat) = true →
      operandB word % 16 = 0 → s.g.scratchOk (operandB word) (mmaBlock f.toNat sh.toNat) = true →
      (∀ l ∈ lanesIn s.active, place l % 16 = 0 ∧ s.g.scratchOk (place l) (mmaRow f.toNat sh.toNat) = true) →
      Retires i u s { t1 with w := { t1.w with nextSeq := t1.w.nextSeq + 1 } }) ∧
    (s.tableFull = false → s.g.desc.draw ≠ 0 →
      let wordOk := operandOk word (decide (7 ≤ f.toNat)) = true
      let placed := coordOk s.g.desc coord (mmaN sh.toNat) = true
      let bFits := s.g.scratchOk (operandB word) (mmaBlock f.toNat sh.toNat) = true
      (¬wordOk → Traps i u s (s.trapOf .illOp)) ∧
      (wordOk → ¬placed → Traps i u s (s.trapOf .accRange)) ∧
      (wordOk → placed → operandB word % 16 ≠ 0 → Traps i u s { s.trapOf .misalign with addr := some (operandB word) }) ∧
      (wordOk → placed → operandB word % 16 = 0 → ¬bFits → Traps i u s { s.trapOf .scratchRange with addr := some (operandB word) }) ∧
      (∀ cause m va, wordOk → placed → operandB word % 16 = 0 → bFits →
        FirstFails [.misalign, .scratchRange] s.active (rowFailure s.g (mmaRow f.toNat sh.toNat) place) cause m va →
        Traps i u s { s.trapOf cause with mask := m, addr := some va })) := by
  intro word coord place u t1
  have slot := hi.trans (congrFun (mmaDo_eq sat f sh v p) s)
  have checked {e : Eff} (hf : s.tableFull = false) (hd : s.g.desc.draw ≠ 0) (he : s.mmaEffect sat f sh v word coord = e) :
      (if s.tableFull then .wait else if s.g.desc.draw = 0 then .trap (s.trapOf .draw) else s.mmaEffect sat f sh v word coord) = e := by
    rw [hf, if_neg Bool.false_ne_true, if_neg hd, he]
  refine ⟨fun hf => stalls_wait slot (if_pos hf), fun hf hd => traps_slot slot ?draw, fun hf hd hw hc ha hb hl => ?posts,
    fun hf hd => ⟨fun hw => ?illOp, fun hw hc => ?accRange, fun hw hc ha => ?misalign, fun hw hc ha hb => ?scratchRange,
      fun c m va hw hc ha hb hl => ?lanes⟩⟩
  case draw => rw [hf, if_neg Bool.false_ne_true, if_pos hd]
  case posts => exact retires_slot slot (checked hf hd (State.mmaEffect_posts hw hc ha hb (tileLanes_ok s v _ hl)))
  case illOp => exact traps_slot slot (checked hf hd (State.mmaEffect_illOp hw))
  case accRange => exact traps_slot slot (checked hf hd (State.mmaEffect_accRange hw hc))
  case misalign => exact traps_slot slot (checked hf hd (State.mmaEffect_misalign hw hc ha))
  case scratchRange => exact traps_slot slot (checked hf hd (State.mmaEffect_scratchRange hw hc ha hb))
  case lanes => exact traps_slot slot (checked hf hd (State.mmaEffect_lanes hw hc ha hb (tileLanes_first hl)))

/-- Settles O30: both instructions are one slot, and do what the first check that fails says. The rank of MISALIGN and SCRATCH_RANGE among lanes is
the model's choice. -/
theorem matrixForms : Obligations.MatrixForms := by
  intro q hq f sh v p s
  obtain rfl | rfl : q = (.mma, false) ∨ q = (.mmaSat, true) := by simpa using hq
  · exact mma_forms (show exec (.mma f sh v p) s = mmaDo false f sh v p s from rfl)
  · exact mma_forms (show exec (.mmaSat f sh v p) s = mmaDo true f sh v p s from rfl)

/-! ### Accumulator moves (R280..R284) -/

/-- Whether an operand word is one that the move takes; some moves take any (R280). -/
def takesWord (words : Option (Word → Bool)) (word : Word) : Bool :=
  match words with
  | some f => f word
  | none => true

/-- The rows of the active lanes, of a move that has rows. -/
def State.moveRows (t : State) (scr : Option (BitVec 7 × Nat)) : TrapInfo ⊕ List (Nat × Nat) :=
  match scr with
  | some (v, n) => tileLanes t v n
  | none => .inr []

/-- What an accumulator move does once it has a reservation: its checks, then its places in the tile queue and on TIL. -/
def State.moveEffect (t : State) (op : TileOp) (words : Option (Word → Bool)) (width : Nat) (scr : Option (BitVec 7 × Nat)) (p : BitVec 7)
    (dst : Nat) (writes : List RegId) : Eff :=
  if !takesWord words (t.src.sget p) then .trap (t.trapOf .illOp)
  else if !coordOk t.g.desc (t.src.sget (p + 1)) width then .trap (t.trapOf .accRange)
  else
    match t.moveRows scr with
    | .inl x => .trap x
    | .inr xs => .done ((t.postTile op xs (t.src.sget p) (t.src.sget (p + 1))).enqueue (t.entryOf 5 .move dst [] writes))

theorem moveDo_eq (op : State → TileOp) (u : Use) (words : Option (Word → Bool)) (width : Nat) (scr : Option (BitVec 7 × Nat)) (p : BitVec 7)
    (dst : Nat) : moveDo op u words width scr p dst =
      slotDo { u with wf := u.wf && even p, reads := u.reads ++ rspair p, lane := true, path := some 5, mem := true } fun t =>
        if t.tableFull then .wait else t.moveEffect (op t) words width scr p dst u.writes := rfl

/-- The use of an accumulator move: its own, its pair of operand words, the matrix path. -/
def moveUse (u : Use) (p : BitVec 7) : Use :=
  { u with wf := u.wf && even p, reads := u.reads ++ rspair p, lane := true, path := some 5, mem := true }

section
variable {i : Instr} {op : State → TileOp} {u : Use} {words : Option (Word → Bool)} {width : Nat} {scr : Option (BitVec 7 × Nat)}
  {p : BitVec 7} {dst : Nat} {s : State} (hi : exec i s = moveDo op u words width scr p dst s)
include hi

theorem move_stalls (hf : s.tableFull = true) : Stalls i (moveUse u p) s s := stalls_wait hi (if_pos hf)

variable (hf : s.tableFull = false)
include hf

theorem move_illOp {f : Word → Bool} (hs : words = some f) (hw : f (s.src.sget p) = false) : Traps i (moveUse u p) s (s.trapOf .illOp) := by
  subst hs
  refine traps_slot (hi.trans (congrFun (moveDo_eq ..) s)) ?_
  simp only [State.moveEffect, takesWord, hf, hw]
  rfl

variable (hw : takesWord words (s.src.sget p) = true)
include hw

theorem move_accRange (hc : coordOk s.g.desc (s.src.sget (p + 1)) width = false) : Traps i (moveUse u p) s (s.trapOf .accRange) := by
  refine traps_slot (hi.trans (congrFun (moveDo_eq ..) s)) ?_
  simp only [State.moveEffect, hf, hw, hc]
  rfl

variable (hc : coordOk s.g.desc (s.src.sget (p + 1)) width = true)
include hc

theorem move_lanes {x : TrapInfo} (hx : s.moveRows scr = .inl x) :
    Traps i (moveUse u p) s x := by
  refine traps_slot (hi.trans (congrFun (moveDo_eq ..) s)) ?_
  simp only [State.moveEffect, hf, hw, hc, hx]
  rfl

theorem move_posts {xs : List (Nat × Nat)} (hx : s.moveRows scr = .inr xs) :
    Retires i (moveUse u p) s ((s.postTile (op s) xs (s.src.sget p) (s.src.sget (p + 1))).enqueue (s.entryOf 5 .move dst [] u.writes)) := by
  refine retires_slot (hi.trans (congrFun (moveDo_eq ..) s)) ?_
  simp only [State.moveEffect, hf, hw, hc, hx]
  rfl

end

/-- mcommit and mwait, by the commit groups outstanding (R285, R286). -/
theorem commit_forms (s : State) :
    (s.w.outstanding < 63 → Retires .mcommit { mem := true } s { s with w := { s.w with cgOpen := s.w.cgOpen + 1 } }) ∧
    (63 ≤ s.w.outstanding → Stalls .mcommit { mem := true } s s) ∧
    (∀ n : BitVec 7, (s.w.outstanding ≤ n.toNat → Retires (.mwait n) { mem := true } s s) ∧
      (n.toNat < s.w.outstanding → Stalls (.mwait n) { mem := true } s s)) :=
  ⟨fun h => retires_slot (show exec .mcommit s = execMcommit s from rfl) (if_neg (by omega)),
   fun h => stalls_wait (show exec .mcommit s = execMcommit s from rfl) (if_pos h), fun n =>
    ⟨fun h => retires_slot (show exec (.mwait n) s = execMwait n s from rfl) (if_pos h),
     fun h => stalls_wait (show exec (.mwait n) s = execMwait n s from rfl) (if_neg (by omega))⟩⟩

/-- Settles O31: the five moves are one slot each, by the first check that fails; the rank of MISALIGN and SCRATCH_RANGE among lanes is the model's
choice. -/
theorem tileMoveForms : Obligations.TileMoveForms := by
  refine ⟨fun f w m v p s => ?_, commit_forms⟩
  intro word coord place lanes width count size u went fits plain regs uZero uLd uSt uGet uFill
  have zero : exec (.tzero w p) s = execTzero w p s := rfl
  have ld : exec (.tld f w v p) s = execTld f w v p s := rfl
  have st : exec (.tst f w v p) s = execTst f w v p s := rfl
  have get : exec (.tget m v p) s = execTget m v p s := rfl
  have fill : exec (.tfill m v p) s = execTfill m v p s := rfl
  have zeroWord (h : word = 0) : (word == 0) = true := beq_iff_eq.mpr h
  refine ⟨fun hf i hi => ?stalls, fun hf => ⟨fun hw => ?ldWord, fun hw => ?stWord, fun hc => ?wide, fun hc => ?counted, fun c lanes va hc hl => ?lanes,
    fun hc => ?posts, fun hc => ?runs⟩⟩
  case stalls =>
    simp only [List.mem_cons, List.not_mem_nil, or_false] at hi
    obtain rfl | rfl | rfl | rfl | rfl := hi
    · exact move_stalls zero hf
    · exact move_stalls ld hf
    · exact move_stalls st hf
    · exact move_stalls get hf
    · exact move_stalls fill hf
  case ldWord => exact move_illOp ld hf rfl (beq_eq_false_iff_ne.mpr hw)
  case stWord => exact move_illOp st hf rfl hw
  case wide => exact ⟨move_accRange zero hf rfl hc, fun hw => move_accRange ld hf (zeroWord hw) hc, fun hw => move_accRange st hf hw hc⟩
  case counted => exact ⟨move_accRange get hf rfl hc, move_accRange fill hf rfl hc⟩
  case lanes => exact ⟨fun hw => move_lanes ld hf (zeroWord hw) hc (tileLanes_first hl), fun hw => move_lanes st hf hw hc (tileLanes_first hl)⟩
  case posts =>
    exact ⟨move_posts zero hf rfl hc rfl, fun hw hl => move_posts ld hf (zeroWord hw) hc (tileLanes_ok s v _ hl),
      fun hw hl => move_posts st hf hw hc (tileLanes_ok s v _ hl)⟩
  case runs => exact ⟨move_posts get hf rfl hc rfl, move_posts fill hf rfl hc rfl⟩

end Sys2Proof.Machine
end

section
/-!
BARRIERS AND EMISSION. The group barrier and memory barrier instructions, nemit and coll, each by the conditions that its slot tests
(15_barrier.md R315..R327, 17_queue.md R357, R358, 20_link.md R397).
-/
namespace Sys2Proof.Machine

/-! ### gb.meet and gb.post (R318..R320) -/

section
variable (b : BitVec 7) (s : State)

/-- A warp that has posted and waits. -/
def State.atMeeting (s : State) : State := { s with w := { s.w with meeting := true } }

theorem gbMeet_forms :
    let x := s.g.bar b.toNat
    let u : Use := { wf := decide (b.toNat < 16) }
    (s.w.meeting = true → x.bits.getLsbD s.w.wid = false → Retires (.gbMeet b) u s { s with w := { s.w with meeting := false } }) ∧
    (s.w.meeting = true → x.bits.getLsbD s.w.wid = true → Stalls (.gbMeet b) u s s) ∧
    (s.w.meeting = false → x.members.getLsbD s.w.wid = true → x.bits.getLsbD s.w.wid = false → Stalls (.gbMeet b) u s (s.post b.toNat).atMeeting) ∧
    (s.w.meeting = false → x.members.getLsbD s.w.wid = true → x.bits.getLsbD s.w.wid = true → Stalls (.gbMeet b) u s s.atMeeting) ∧
    (s.w.meeting = false → x.members.getLsbD s.w.wid = false → Traps (.gbMeet b) u s (s.trapOf .illOp)) := by
  have slot : exec (.gbMeet b) s = execGbMeet b s := rfl
  refine ⟨fun hm hb => retires_slot slot ?_, fun hm hb => stalls_pause slot ?_, fun hm hx hb => stalls_pause slot ?_,
    fun hm hx hb => stalls_pause slot ?_, fun hm hx => traps_slot slot ?_⟩
  · simp only [hm, GBar.bit, hb, if_true, Bool.false_eq_true, if_false]
  · simp only [hm, GBar.bit, hb, if_true]
  · simp only [hm, GBar.member, hx, GBar.bit, hb, Bool.not_true, Bool.false_eq_true, if_false]
    rfl
  · simp only [hm, GBar.member, hx, GBar.bit, hb, Bool.not_true, Bool.false_eq_true, if_false, if_true]
    rfl
  · simp only [hm, GBar.member, hx, Bool.not_false, Bool.false_eq_true, if_false, if_true]

theorem gbPost_forms :
    let x := s.g.bar b.toNat
    let u : Use := { wf := decide (b.toNat < 16) }
    (x.members.getLsbD s.w.wid = true → x.bits.getLsbD s.w.wid = false → Retires (.gbPost b) u s (s.post b.toNat)) ∧
    (x.members.getLsbD s.w.wid = true → x.bits.getLsbD s.w.wid = true → Stalls (.gbPost b) u s s) ∧
    (x.members.getLsbD s.w.wid = false → Traps (.gbPost b) u s (s.trapOf .illOp)) := by
  have slot : exec (.gbPost b) s = execGbPost b s := rfl
  refine ⟨fun hx hb => retires_slot slot ?_, fun hx hb => stalls_wait slot ?_, fun hx => traps_slot slot ?_⟩
  · simp only [GBar.member, hx, GBar.bit, hb, Bool.not_true, Bool.false_eq_true, if_false]
  · simp only [GBar.member, hx, GBar.bit, hb, Bool.not_true, Bool.false_eq_true, if_false, if_true]
  · simp only [GBar.member, hx, Bool.not_false, if_true]

/-! ### The awaits, gb.bytes and gb.members (R315, R320, R322) -/

theorem gbAwait_forms :
    let x := s.g.bar b.toNat
    let u : Use := { wf := decide (b.toNat < 16) }
    (x.bits.getLsbD s.w.wid = false → Retires (.gbAwait b) u s s) ∧ (x.bits.getLsbD s.w.wid = true → Stalls (.gbAwait b) u s s) := by
  have slot : exec (.gbAwait b) s = execGbAwait b s := rfl
  exact ⟨fun hb => retires_slot slot (if_neg (by simp [GBar.bit, hb])), fun hb => stalls_wait slot (if_pos hb)⟩

theorem gbAwaitPar_forms (q : BitVec 1) :
    let x := s.g.bar b.toNat
    let u : Use := { wf := decide (b.toNat < 16) }
    (x.phase ≠ decide (q = 1) → Retires (.gbAwaitPar q b) u s s) ∧ (x.phase = decide (q = 1) → Stalls (.gbAwaitPar q b) u s s) := by
  have slot : exec (.gbAwaitPar q b) s = execGbAwaitPar q b s := rfl
  refine ⟨fun hp => retires_slot slot (if_neg ?_), fun hp => stalls_wait slot (if_pos ?_)⟩
  · rw [beq_iff_eq, beq_eq_decide]
    exact hp
  · rw [beq_iff_eq, beq_eq_decide]
    exact hp

theorem gbCount_forms (a : BitVec 7) :
    let x := s.g.bar b.toNat
    let n := s.src.sget a
    let v : Use := { wf := decide (b.toNat < 16), reads := [.s a.toNat] }
    (n.toNat ≤ 2 ^ 23 → Retires (.gbBytes a b) v s { s with g := s.g.setBar b.toNat ({ x with trans := x.trans + n.setWidth 24 }.test) }) ∧
    (2 ^ 23 < n.toNat → Traps (.gbBytes a b) v s (s.trapOf .illOp)) ∧
    (n.toNat < 2 ^ s.g.warps.length → Retires (.gbMembers a b) v s { s with g := s.g.setMembers b.toNat (n.setWidth 16) }) ∧
    (2 ^ s.g.warps.length ≤ n.toNat → Traps (.gbMembers a b) v s (s.trapOf .illOp)) := by
  have bytes : exec (.gbBytes a b) s = execGbBytes a b s := rfl
  have members : exec (.gbMembers a b) s = execGbMembers a b s := rfl
  exact ⟨fun hn => retires_slot bytes (if_neg (Nat.not_lt.mpr hn)), fun hn => traps_slot bytes (if_pos hn),
    fun hn => retires_slot members (if_neg (Nat.not_le.mpr hn)), fun hn => traps_slot members (if_pos hn)⟩

end

/-! ### Memory transaction barriers (R323..R327) -/

section
variable {lo hi d : Nat} {op : Word → PathOp} {writes : List RegId} {a b : BitVec 7} {s : State}

/-- A count outside its limits comes before the address (R327). -/
theorem mbIssue_illOp (hn : (s.src.sget b).toNat < lo ∨ hi < (s.src.sget b).toNat) :
    mbIssue lo hi op d writes a b s = .trap (s.trapOf .illOp) := if_pos hn

variable (hn : ¬((s.src.sget b).toNat < lo ∨ hi < (s.src.sget b).toNat))
include hn

theorem mbIssue_misalign (ha : s.src.addrPair a % 16 ≠ 0) :
    mbIssue lo hi op d writes a b s = .trap { s.trapOf .misalign with addr := some (s.src.addrPair a) } :=
  (if_neg hn).trans (if_pos (bne_iff_ne.mpr ha))

theorem mbIssue_enters (ha : s.src.addrPair a % 16 = 0) : mbIssue lo hi op d writes a b s =
    .done (s.enqueue { s.entryOf 4 (op (s.src.sget b)) d [{ lane := 0, va := s.src.addrPair a, drop := false, data := 0, len := 16 }] writes with
      back := if meets writes maskRegs then some s.iss.back else none }) :=
  (if_neg hn).trans (if_neg (by simpa using ha))

end

/-- mb.arm, mb.post and mb.bytes, by their count and then by their address (R323..R325, R327). -/
theorem mbIssue_forms (d a b : BitVec 7) (s : State) :
    let va := s.src.addrPair a
    let n := s.src.sget b
    let u (writes : List RegId) : Use := { wf := even a, reads := rspair a ++ [.s b.toNat], writes := writes, path := some 4, mem := true }
    let went (op : PathOp) (dst : Nat) (writes : List RegId) : State :=
      s.enqueue { s.entryOf 4 op dst [{ lane := 0, va := va, drop := false, data := 0, len := 16 }] writes with
        back := if meets writes maskRegs then some s.iss.back else none }
    (va % 16 = 0 → 1 ≤ n.toNat → n.toNat ≤ 2 ^ 24 → Retires (.mbArm a b) (u []) s (went (.mbArm n) 0 [])) ∧
    (va % 16 = 0 → 1 ≤ n.toNat → n.toNat ≤ 65535 → Retires (.mbPost d a b) (u [.s d.toNat]) s (went (.mbPost n) d.toNat [.s d.toNat])) ∧
    (va % 16 = 0 → n.toNat < 2 ^ 31 → Retires (.mbBytes a b) (u []) s (went (.mbBytes n) 0 [])) ∧
    (n.toNat = 0 ∨ 2 ^ 24 < n.toNat → Traps (.mbArm a b) (u []) s (s.trapOf .illOp)) ∧
    (n.toNat = 0 ∨ 65535 < n.toNat → Traps (.mbPost d a b) (u [.s d.toNat]) s (s.trapOf .illOp)) ∧
    (2 ^ 31 ≤ n.toNat → Traps (.mbBytes a b) (u []) s (s.trapOf .illOp)) ∧
    (va % 16 ≠ 0 → 1 ≤ n.toNat → n.toNat ≤ 65535 → ∀ i ∈ ([(.mbArm a b, []), (.mbPost d a b, [.s d.toNat]), (.mbBytes a b, [])] :
        List (Instr × List RegId)), Traps i.1 (u i.2) s { s.trapOf .misalign with addr := some va }) := by
  intro va n u went
  have arm : exec (.mbArm a b) s = execMbArm a b s := rfl
  have post : exec (.mbPost d a b) s = execMbPost d a b s := rfl
  have bytes : exec (.mbBytes a b) s = execMbBytes a b s := rfl
  have count : (s.src.sget b).toNat = n.toNat := rfl
  refine ⟨fun ha h1 h2 => retires_slot arm (mbIssue_enters ?_ ha), fun ha h1 h2 => retires_slot post (mbIssue_enters ?_ ha),
    fun ha h2 => retires_slot bytes (mbIssue_enters ?_ ha), fun hn => traps_slot arm (mbIssue_illOp ?_), fun hn => traps_slot post (mbIssue_illOp ?_),
    fun hn => traps_slot bytes (mbIssue_illOp ?_), fun ha h1 h2 i hi => ?misaligned⟩
  case misaligned =>
    simp only [List.mem_cons, List.not_mem_nil, or_false] at hi
    obtain rfl | rfl | rfl := hi
    · exact traps_slot arm (mbIssue_misalign (by omega) ha)
    · exact traps_slot post (mbIssue_misalign (by omega) ha)
    · exact traps_slot bytes (mbIssue_misalign (by omega) ha)
  all_goals omega

/-- mb.await, by its address and then by the phase number that it finds (R326). -/
theorem mbAwait_forms (a b : BitVec 7) (s s1 : State) (pa : Nat) (t : Tlb) :
    let va := s.src.addrPair a
    let u : Use := { wf := even a, reads := rspair a ++ [.s b.toNat], mem := true }
    (va % 16 ≠ 0 → Traps (.mbAwait a b) u s { s.trapOf .misalign with addr := some va }) ∧
    (va % 16 = 0 → s.translate s.g.core s.g.ref.ctx va false = (.ok pa t, s1) → s1.parkedOver s1.g.core pa 16 = false →
      s1.homeFails pa 16 t.key true = none →
      (field (s1.homeRead pa 16) 12 4 ≠ (s.src.sget b).toNat →
        Retires (.mbAwait a b) u s (((s1.sendLoad s1.g.core t.key pa 1 16).exchange s1.g.core pa false).dropClean s1.g.core)) ∧
      (field (s1.homeRead pa 16) 12 4 = (s.src.sget b).toNat → Stalls (.mbAwait a b) u s s)) := by
  have slot : exec (.mbAwait a b) s = execMbAwait a b s := rfl
  refine ⟨fun ha => traps_slot slot (if_pos (bne_iff_ne.mpr ha)), fun ha ht hp hf => ⟨fun hm => retires_slot slot ?_, fun hm => stalls_wait slot ?_⟩⟩
  · exact (if_neg (by simpa using ha)).trans (State.watch_met ht hp hf (bne_iff_ne.mpr hm))
  · exact (if_neg (by simpa using ha)).trans (State.watch_unmet ht hp hf (by simpa using hm))

/-- Settles O29: each instruction by the conditions that its slot tests. That a count out of range comes before the address, and what a warp that
meets may still do, are the model's choice (log 35). -/
theorem barrierForms : Obligations.BarrierForms := by
  refine ⟨fun b s => ?_, mbIssue_forms, mbAwait_forms⟩
  obtain ⟨cleared, waits, posts, again, stranger⟩ := gbMeet_forms b s
  obtain ⟨posted, behind, outside⟩ := gbPost_forms b s
  obtain ⟨clear, set⟩ := gbAwait_forms b s
  exact ⟨cleared, waits, posts, again, stranger, posted, behind, outside, clear, set, gbAwaitPar_forms b s, gbCount_forms b s⟩

/-! ### nemit and coll (R357, R358, R397) -/

/-- Settles O32: nemit by its node, coll by its address. -/
theorem emissionForms : Obligations.EmissionForms := by
  refine ⟨fun n v s => ?nemit, fun a s => ?coll⟩
  case nemit =>
    have slot : exec (.nemit n v) s = execNemit n v s := rfl
    have bound : (s.g.desc.determ || (s.nodeOf s.g.ref.ctx ((s.src.sget n).toNat % 256)).isNone) = true ↔
        ¬(s.g.desc.determ = false ∧ ∃ b, s.nodeOf s.g.ref.ctx ((s.src.sget n).toNat % 256) = some b) := by
      rw [Bool.or_eq_true, ← Option.isSome_iff_exists, Option.isNone_iff_eq_none, ← Option.not_isSome_iff_eq_none]
      cases s.g.desc.determ <;> simp
    exact ⟨fun h => retires_slot slot (if_neg fun hb => bound.mp hb h), fun h => traps_slot slot (if_pos (bound.mpr h))⟩
  case coll =>
    have slot : exec (.coll a) s = execColl a s := rfl
    exact ⟨fun h => retires_slot slot (if_neg (by simpa using h)), fun h => traps_slot slot (if_pos (bne_iff_ne.mpr h))⟩

end Sys2Proof.Machine
end

section
/-!
LEAVING. How a group leaves its core and how the gleaning brings it back (14_group.md R292, R298..R309; 13_tile.md R275).
-/
namespace Sys2Proof.Machine

/-! ### Leaving a core (R298..R301) -/

section
variable {t u v : State}

/-- The space that a group's returns need is there, or its image grows to it (R299). -/
theorem State.returnsReady_some (h : u.g.returnSize ≤ u.g.returnSpace ∧ v = u ∨
    u.g.returnSpace < u.g.returnSize ∧ u.growImage u.g.returnSize = some v) : u.returnsReady = some v := by
  obtain ⟨fits, rfl⟩ | ⟨short, grown⟩ := h
  · exact if_pos fits
  · exact (if_neg (Nat.not_le.mpr short)).trans grown

/-- A group that leaves its core, its diversion entry there made (R299, R304). -/
def State.diverted (v : State) (core : Nat) : State :=
  let x := v.updCore core fun k => { k with divert := k.divert ++ [{ ref := v.g.ref, forward := false, clks := v.g.warps.map fun w => (w.wid, w.clk) }] }
  { x with g := Group.turnOut { x.g with
      away := true, leaving := true, quantumOver := false, warps := x.g.warps.map (Warp.captured (x.scClockOf core)),
      pages := x.g.pages.map fun p => { p with toward := none } } }

theorem State.divertGroup_some (ha : t.g.away = false) (hw : ∀ w ∈ t.g.warps, w.canLeave = true) (hd : (t.coreAt t.g.core).divert.length < 64)
    (hu : t.release 1 = some u) (hv : u.returnsReady = some v) : t.divertGroup = some (v.diverted t.g.core) := by
  have ready : (!t.g.warps.all (·.canLeave) || decide (64 ≤ (t.coreAt t.g.core).divert.length)) = false := by
    rw [List.all_eq_true.mpr hw, decide_eq_false (Nat.not_le.mpr hd)]
    rfl
  unfold State.divertGroup
  dsimp only
  rw [ha, ready, hu, Option.bind_some, hv]
  rfl

/-- A group with no trap and a context that is there is evicted with its image written (R300). -/
theorem State.evicted_untrapped (ht : u.g.trap = none) (hc : ∀ c, u.ctxOf u.g.ref.ctx = some c → c.state ≠ .destroyed) :
    u.evicted = State.putImage { u with g := { u.g with status := .evicted, target := none } } := by
  refine if_neg ?_
  rw [ht, Option.isSome_none, Bool.false_or, Option.any_eq_true]
  rintro ⟨c, e, gone⟩
  exact hc c e (by simpa [Context.gone] using gone)

end

/-! ### The gleaning (R306) -/

/-- A warp as the gleaning restores it, where no result that it takes up leaves a chain split. -/
def Warp.restored (base : Nat) (ages : List Nat) (w : Warp) : Warp :=
  (w.slots.filter (·.done)).foldl Warp.putEntry
    { w with slots := [], tileQ := w.tileQ.map (·.repost base ages), status := if w.status = .evicted then w.saved else w.status,
             stopPc := w.pc, skid := 0 }

theorem Warp.foldl_putEntry_kept (es : List PathEntry) (w : Warp) :
    (es.foldl Warp.putEntry w).wid = w.wid ∧ (es.foldl Warp.putEntry w).status = w.status := by
  induction es generalizing w with
  | nil => exact ⟨rfl, rfl⟩
  | cons e es ih => exact ih (w.putEntry e)

theorem Warp.restored_wid (base : Nat) (ages : List Nat) (w : Warp) : (w.restored base ages).wid = w.wid := (Warp.foldl_putEntry_kept _ _).1

theorem Warp.restored_status (base : Nat) (ages : List Nat) (w : Warp) :
    (w.restored base ages).status = if w.status = .evicted then w.saved else w.status := (Warp.foldl_putEntry_kept _ _).2

/-- Results that write no mask are all taken up (R190, R306). -/
theorem State.takeSlots_all (es : List PathEntry) (s : State) (h : ∀ e ∈ es, meets e.writes maskRegs = false) :
    State.takeSlots es s = { s with w := es.foldl Warp.putEntry s.w } := by
  induction es generalizing s with
  | nil => rfl
  | cons e es ih =>
    have stays : s.w.splitBy e = false := by simp [Warp.splitBy, h e (List.mem_cons_self ..)]
    unfold State.takeSlots
    rw [stays]
    exact ih _ fun x hx => h x (List.mem_cons_of_mem _ hx)

theorem State.restore_all (base : Nat) (ages : List Nat) (s : State) (h : ∀ e ∈ s.w.slots, e.done = true → meets e.writes maskRegs = false) :
    State.restore base ages s = { s with w := s.w.restored base ages } :=
  State.takeSlots_all _ _ fun e he => h e (List.mem_filter.mp he).1 (List.mem_filter.mp he).2

/-- Putting warps back changes the group's warps alone. -/
theorem Group.foldl_putWarp_kept (ws : List Warp) (g : Group) : ∃ vs, ws.foldl Group.putWarp g = { g with warps := vs } := by
  induction ws generalizing g with
  | nil => exact ⟨g.warps, rfl⟩
  | cons w ws ih =>
    obtain ⟨vs, e⟩ := ih (g.putWarp w)
    exact ⟨vs, e⟩

theorem Group.mem_putWarp {g : Group} {w x : Warp} (hx : x ∈ g.warps) (hw : x.wid ≠ w.wid) : x ∈ (g.putWarp w).warps :=
  List.mem_map.mpr ⟨x, hx, if_neg hw⟩

theorem Group.putWarp_mem {g : Group} {w : Warp} (h : w.wid ∈ g.warps.map (·.wid)) : w ∈ (g.putWarp w).warps := by
  obtain ⟨x, hx, e⟩ := List.mem_map.mp h
  exact List.mem_map.mpr ⟨x, hx, if_pos e⟩

theorem Group.putWarp_wids (g : Group) (w : Warp) : (g.putWarp w).warps.map (·.wid) = g.warps.map (·.wid) := by
  rw [Group.putWarp, List.map_map]
  refine List.map_congr_left fun x _ => ?_
  simp only [Function.comp]
  split
  · next e => exact e.symm
  · rfl

/-- A warp stays in its group while warps of other numbers are put back. -/
theorem Group.mem_foldl_putWarp {x : Warp} (ws : List Warp) (g : Group) (hx : x ∈ g.warps) (hw : ∀ w ∈ ws, x.wid ≠ w.wid) :
    x ∈ (ws.foldl Group.putWarp g).warps := by
  induction ws generalizing g with
  | nil => exact hx
  | cons w ws ih => exact ih (g.putWarp w) (Group.mem_putWarp hx (hw w (List.mem_cons_self ..))) fun v hv => hw v (List.mem_cons_of_mem _ hv)

/-- Of warps put back under numbers of their own each is in the group after. -/
theorem Group.foldl_putWarp_mem {x : Warp} (ws : List Warp) (g : Group) (hx : x ∈ ws) (hn : (ws.map (·.wid)).Nodup)
    (hg : ∀ w ∈ ws, w.wid ∈ g.warps.map (·.wid)) : x ∈ (ws.foldl Group.putWarp g).warps := by
  induction ws generalizing g with
  | nil => cases hx
  | cons w ws ih =>
    obtain ⟨fresh, hn⟩ := List.nodup_cons.mp hn
    obtain rfl | hx := List.mem_cons.mp hx
    · exact Group.mem_foldl_putWarp ws _ (Group.putWarp_mem (hg x (List.mem_cons_self ..))) fun v hv e => fresh (List.mem_map.mpr ⟨v, hv, e.symm⟩)
    · exact ih _ hx hn fun v hv => (Group.putWarp_wids g w).symm ▸ hg v (List.mem_cons_of_mem _ hv)

/-- The warps of a group are restored one after another, where no result leaves a chain split. -/
theorem State.foldl_restore (base : Nat) (ages : List Nat) (ws : List Warp) (s : State)
    (h : ∀ w ∈ ws, ∀ e ∈ w.slots, e.done = true → meets e.writes maskRegs = false) :
    (ws.foldl (fun t v => let u := State.restore base ages { t with w := v }; { u with g := u.g.putWarp u.w }) s).g =
      (ws.map (Warp.restored base ages)).foldl Group.putWarp s.g := by
  induction ws generalizing s with
  | nil => rfl
  | cons w ws ih =>
    rw [List.foldl_cons, List.map_cons, List.foldl_cons, ih _ fun v hv => h v (List.mem_cons_of_mem _ hv)]
    dsimp only
    rw [State.restore_all base ages { s with w := w } (h w (List.mem_cons_self ..))]

/-- A resident group all of whose warps are restored is the same group with those warps, each under its number. -/
theorem State.restoreAll_resident (base : Nat) (ages : List Nat) {s : State} (hs : s.g.status = .resident)
    (h : ∀ w ∈ s.g.warps, ∀ e ∈ w.slots, e.done = true → meets e.writes maskRegs = false) (hn : (s.g.warps.map (·.wid)).Nodup) :
    ∃ vs, (s.restoreAll base ages).g = { s.g with warps := vs } ∧ ∀ w ∈ s.g.warps, w.restored base ages ∈ vs := by
  have group := State.foldl_restore base ages s.g.warps s h
  obtain ⟨vs, kept⟩ := Group.foldl_putWarp_kept (s.g.warps.map (Warp.restored base ages)) s.g
  have wids : (s.g.warps.map (Warp.restored base ages)).map (·.wid) = s.g.warps.map (·.wid) := by
    rw [List.map_map]
    exact List.map_congr_left fun w _ => w.restored_wid base ages
  rw [kept] at group
  refine ⟨vs, ?_, fun w hw => ?_⟩
  · unfold State.restoreAll
    dsimp only
    rw [if_pos ((congrArg Group.status group).trans hs)]
    exact group
  · have present := Group.foldl_putWarp_mem _ s.g (List.mem_map_of_mem (f := Warp.restored base ages) hw) (wids ▸ hn) fun x hx =>
      wids ▸ List.mem_map_of_mem (f := Warp.wid) hx
    rwa [kept] at present

/-- A group on the core that it comes back to, its returns merged, before its warps are restored (R306). -/
def State.gleanStart (s : State) (core : Nat) (trap : Option TrapInfo) : State :=
  let ages := s.g.warps.flatMap fun w => w.tileQ.map (·.age)
  let clock := s.g.warps.foldl (fun m w => if w.status = .exited then m else maxClock m w.scSaved) (s.scClockOf core)
  let s1 := ((s.updCore core fun k => { k with ageNo := k.ageNo + ages.length, scClock := clock }).dropClean core).launchRuns s.g core
  let s2 := s1.updCore s.g.core fun k => { k with divert := k.divert.map fun d => if d.ref = s.g.ref then { d with forward := true } else d }
  let s3 := (s2.shrinkImage s.g).updCtx s.g.ref.ctx fun c => if trap.isSome then c.reported s.g.ref else c
  { s3 with g := { s.g.merge with
      core := core, target := none, away := false, returnSpace := 0, status := if trap.isSome then .halting else .resident,
      trap := trap, absentFault := trap.isSome && s.moreAbsent, pages := placePages s.g.desc.pages (s.freeFrames core) } }

/-- The group given its place in the order of issue, and retired where all its warps have exited. -/
def State.gleanEnd (s : State) (core : Nat) : State :=
  let x := s.stand s.g
  if x.1.status = .resident ∧ x.1.warps.all (·.status == .exited) then (State.retireGroup { x.2 with g := x.1 }).leftCore core
  else { x.2 with g := x.1 }

theorem State.glean_eq (s : State) (core : Nat) : s.glean core =
    ((s.gleanStart core s.absentTrap).restoreAll (s.coreAt core).ageNo (s.g.warps.flatMap fun w => w.tileQ.map (·.age))).gleanEnd core := rfl

/-- A group with a warp that has not exited stands as it is. -/
theorem State.gleanEnd_standing {s : State} {core : Nat} (h : ∃ w ∈ s.g.warps, w.status ≠ .exited) :
    (s.gleanEnd core).g = (s.stand s.g).1 := by
  obtain ⟨w, hw, running⟩ := h
  refine congrArg State.g (if_neg fun hx => ?_)
  have exited := List.all_eq_true.mp hx.2 _ (List.mem_map_of_mem hw)
  exact running (beq_iff_eq.mp exited)

/-- A group that is gleaned with no fault of its absence, and with a warp that has not exited, is resident on its new core (R306). -/
theorem State.glean_resident {t : State} {c : Nat} (hf : t.g.absentFault = false) (hn : (t.g.warps.map (·.wid)).Nodup)
    (hw : ∃ w ∈ t.g.warps, w.status ≠ .exited ∧ w.saved ≠ .exited)
    (hm : ∀ w ∈ t.g.warps, ∀ e ∈ w.slots, e.done = true → meets e.writes maskRegs = false) :
    (t.glean c).g.status = .resident ∧ (t.glean c).g.core = c ∧ (t.glean c).g.away = false := by
  have untrapped : t.absentTrap = none := if_pos (by rw [hf]; rfl)
  obtain ⟨vs, group, present⟩ := State.restoreAll_resident (s := t.gleanStart c none) (t.coreAt c).ageNo
    (t.g.warps.flatMap fun w => w.tileQ.map (·.age)) rfl hm hn
  obtain ⟨w, mem, running, saved⟩ := hw
  have awake : (w.restored (t.coreAt c).ageNo (t.g.warps.flatMap fun w => w.tileQ.map (·.age))).status ≠ .exited := by
    rw [Warp.restored_status]
    split
    · exact saved
    · exact running
  rw [State.glean_eq, untrapped, State.gleanEnd_standing ⟨_, by rw [group]; exact present w mem, awake⟩, group]
  exact ⟨rfl, rfl, rfl⟩

/-! ### Events -/

/-- An event of a group that does something. -/
theorem group_event {s t u : State} {r : GRef} {i : Instr} {f : State → Option State} (hi : exec i s = onGroup r f s) (h : s.HoldsGroup r t)
    (hf : f t = some u) : exec i s = .next (u.putGroup u.g) := hi.trans (onGroup_next h hf)

/-- A migrating group's image is streamed, and then the group waits for the gleaning on its new core, or is evicted (R308). -/
theorem migrationStreamEnd_next {s t u : State} {r : GRef} {b : TaskBlock} (h : s.HoldsGroup r t) (hs : t.g.status = .migrating)
    (hl : t.g.away = false ∨ t.g.leaving = true) (hb : t.g.task = some b) (hc : t.capture = some u) :
    let v := if (u.coreAt b.core).fits (u.others b.core u.g) u.g && !(u.coreAt b.core).vacated && u.g.trap.isNone then
        let x := u.numbered ((u.coreAt b.core).spread (u.others b.core u.g) u.g)
        (State.putImage { x.2 with g := { x.1 with target := some b.core } }).leftCore t.g.core
      else u.evicted.leftCore t.g.core
    exec (.migrationStreamEnd r) s = .next (v.putGroup v.g) := by
  have leaves : (!t.g.away || t.g.leaving) = true := by
    obtain ha | hl := hl
    · rw [ha]; rfl
    · rw [hl, Bool.or_true]
  intro v
  refine group_event (show _ = execMigrationStreamEnd r s from rfl) h ?_
  dsimp only
  rw [hs, leaves, hb, hc]
  rfl

/-- Settles O41: each event by the conditions it tests; a gleaned group keeps a warp that has not exited. -/
theorem leavingEvents : Obligations.LeavingEvents := by
  intro s r t h ended
  refine ⟨fun hs => ?quantum, fun k hs hk hm hy => ?migrates, fun ha hs hw hd u v hu hv => ?returns, fun u hs hc ht hg => ?evicted,
    fun u hs hw hc => ?halted, fun b u hs hl hb hc => ⟨fun hf hv ht => ?streamed, fun hf => ?turnedOut⟩,
    fun c ha hs ht hr => ⟨?gleaned, fun hf hn hw hm => State.glean_resident hf hn hw hm⟩⟩
  case quantum => exact group_event (show _ = execQuantumExpiry r s from rfl) h (if_pos hs)
  case migrates => exact group_event (show _ = execMigrationDecision r k s from rfl) h (if_pos ⟨hs, hk, List.contains_iff_mem.mpr hm, hy⟩)
  case returns =>
    have leaves : (!t.g.away && (t.g.status == .evicting || t.g.status == .migrating || (t.g.status == .halting && t.g.warps.all (·.stopped)))) = true := by
      rw [ha]
      obtain hs | hs | ⟨hs, stopped⟩ := hs
      · rw [hs]; rfl
      · rw [hs]; rfl
      · rw [hs, List.all_eq_true.mpr stopped]; rfl
    refine group_event (show _ = execEvictReturnAreaReady r s from rfl) h ((if_pos leaves).trans ?_)
    rw [State.divertGroup_some ha hw hd hu (State.returnsReady_some hv)]
    rfl
  case evicted =>
    refine group_event (show _ = execEvictionComplete r s from rfl) h ((if_pos hs).trans ?_)
    rw [hc, Option.map_some, State.evicted_untrapped ht hg]
  case halted =>
    refine group_event (show _ = execHaltComplete r s from rfl) h ((if_pos ⟨hs, List.all_eq_true.mpr hw⟩).trans ?_)
    rw [hc, Option.map_some]
  case streamed =>
    refine (migrationStreamEnd_next h hs hl hb hc).trans ?_
    rw [hf, hv, ht]
    rfl
  case turnedOut =>
    refine (migrationStreamEnd_next h hs hl hb hc).trans ?_
    rw [hf]
    rfl
  case gleaned =>
    refine group_event (show _ = execGleaningComplete r s from rfl) h ((if_pos ⟨ha, hs⟩).trans ?_)
    rw [ht, Option.bind_some, if_pos hr]

end Sys2Proof.Machine
end

section
/-!
PACKETS. What each packet kind does at the front end, read by its own event or by a queue that looks again (17_queue.md R345..R356).
-/
namespace Sys2Proof.Machine

/-! ### What a packet comes to -/

/-- The state that the front end leaves, by what the packet did (R347, R349, R351). -/
def Acted.outcome (x : Acted) (s t : State) (q : Queue) (n level header widx ridx va : Nat) : State :=
  match x with
  | .done u => u.consume q widx ridx
  | .kept u => u
  | .waits u => u.updQueue n fun q => { q with state := .waiting }
  | .error code u => (u.queueError q code level header ridx va).getD s
  | .later => t

/-- The events with which a waiting queue looks again. -/
noncomputable def looksAgain (n : Nat) (q : Queue) : List Instr :=
  if q.state = .waiting then [.queueWaitSatisfied n, .writeNotice (.queue n), .rereadInterval (.queue n)] else []

/-- The events that read a packet, by its kind. -/
noncomputable def packetInstrs (n : Nat) : List Instr :=
  [.packetNop n, .gridLaunch n, .nodeBind n, .indirectBuffer n, .waitPacket n, .signalPacket n, .recordFence n, .contextFence n, .nodeUnbind n]

/-- A queue that is neither stopped nor in error, and the packet that the front end reads there. -/
structure FrontReads (s : State) (n : Nat) (q : Queue) (b : List Byte) (va level widx ridx : Nat) (t : State) : Prop where
  queue : s.queueOf n = some q
  unbroken : q.state ≠ .error
  started : q.state ≠ .stopped
  read : s.frontRead q = .packet b va level widx ridx t

/-- A queue that looks again does so by every packet kind. -/
theorem looksAgain_exec {s : State} {n : Nat} {q : Queue} (hq : s.queueOf n = some q) {i : Instr} (hi : i ∈ looksAgain n q) :
    exec i s = .next (s.frontEnd n [0, 1, 2, 3, 4, 5, 6, 7, 8] State.actAny) := by
  unfold looksAgain at hi
  split at hi
  · next hw =>
    have looks : s.queueLooks n = s.frontEnd n [0, 1, 2, 3, 4, 5, 6, 7, 8] State.actAny := by
      unfold State.queueLooks
      rw [hq]
      exact if_pos hw
    have wakes : s.queueWakes n = s.queueLooks n := by
      unfold State.queueWakes
      rw [hq]
      exact if_pos (by rw [hw]; decide)
    simp only [List.mem_cons, List.not_mem_nil, or_false] at hi
    obtain rfl | rfl | rfl := hi
    · exact congrArg Host.Outcome.next looks
    · exact congrArg Host.Outcome.next (wakes.trans looks)
    · exact congrArg Host.Outcome.next (wakes.trans looks)
  · cases hi

/-- The event of a packet kind reads that kind alone. -/
theorem packetEvents_exec (s : State) (n k : Nat) {i : Instr} (hi : (packetInstrs n)[k]? = some i) :
    ∃ act, exec i s = .next (s.frontEnd n [k] act) := by
  have bound : k < 9 := (List.getElem?_eq_some_iff.mp hi).1
  interval_cases k <;> exact ⟨_, by cases hi; rfl⟩

/-- Each event that reads a packet, or looks again, goes through the front end. -/
theorem front_exec {s : State} {n : Nat} {q : Queue} (hq : s.queueOf n = some q) {i : Instr} (hi : i ∈ packetInstrs n ++ looksAgain n q) :
    ∃ kinds act, exec i s = .next (s.frontEnd n kinds act) := by
  obtain hi | hi := List.mem_append.mp hi
  · obtain ⟨k, hk⟩ := List.getElem?_of_mem hi
    obtain ⟨act, e⟩ := packetEvents_exec s n k hk
    exact ⟨[k], act, e⟩
  · exact ⟨_, _, looksAgain_exec hq hi⟩

section
variable {s : State} {n : Nat} {q : Queue} {b : List Byte} {va level widx ridx : Nat} {t : State} (h : FrontReads s n q b va level widx ridx t)
include h

/-- A header that is not sound puts the queue in error (R348, R351). -/
theorem FrontReads.unsound (hh : headerSound (field b 0 4) = false) {x : State} (hx : t.queueError q 0x11 level (field b 0 4) ridx va = some x)
    {i : Instr} (hi : i ∈ packetInstrs n ++ looksAgain n q) : exec i s = .next x := by
  obtain ⟨kinds, act, e⟩ := front_exec h.queue hi
  rw [e, frontEnd_header h.queue h.unbroken h.started h.read hh, hx, Option.getD_some]

/-- An idle queue that reads a packet is active (R347). -/
theorem FrontReads.wakes (hs : q.state = .idle) {i : Instr} (hi : i ∈ [Instr.writeNotice (.queue n), .rereadInterval (.queue n)]) :
    exec i s = .next (t.updQueue n fun q => { q with state := .active }) := by
  have woken : s.queueWakes n = t.updQueue n fun q => { q with state := .active } := by
    unfold State.queueWakes
    rw [h.queue]
    dsimp only
    rw [if_neg (not_not.mpr hs), h.read]
  simp only [List.mem_cons, List.not_mem_nil, or_false] at hi
  obtain rfl | rfl := hi
  · exact congrArg Host.Outcome.next woken
  · exact congrArg Host.Outcome.next woken

/-- A barrier bit that is not met leaves the queue waiting (R348). -/
theorem FrontReads.blocked (hh : headerSound (field b 0 4) = true) (hb : field b 0 4 / 2 ^ 12 % 2 = 1) (hc : t.queueClear q = false) {e i : Instr}
    (he : (packetInstrs n)[packetKind b]? = some e) (hi : i ∈ e :: looksAgain n q) :
    exec i s = .next (t.updQueue n fun q => { q with state := .waiting }) := by
  have listed : ([0, 1, 2, 3, 4, 5, 6, 7, 8] : List Nat).contains (packetKind b) = true := by
    have bound := (List.getElem?_eq_some_iff.mp he).1
    change packetKind b < 9 at bound
    simp only [List.contains_iff_mem, List.mem_cons, List.not_mem_nil, or_false]
    omega
  obtain rfl | hi := List.mem_cons.mp hi
  · obtain ⟨act, e⟩ := packetEvents_exec s n _ he
    rw [e, frontEnd_barrier h.queue h.unbroken h.started h.read hh hb hc (by simp)]
  · rw [looksAgain_exec h.queue hi, frontEnd_barrier h.queue h.unbroken h.started h.read hh hb hc listed]

end

/-- A packet with a sound header that is past its barrier bit, and the events that act on it. -/
structure FrontActs (s : State) (n : Nat) (q : Queue) (b : List Byte) (va level widx ridx : Nat) (t : State) (is : List Instr) : Prop where
  acts : ∀ i ∈ is, exec i s = .next (((t.updQueue n fun q => { q with state := .active }).actAny q b va level ridx).outcome s t q n level
    (field b 0 4) widx ridx va)

/-- The event of the packet's kind acts on it, and so does a queue that looks again. -/
theorem FrontReads.acts {s : State} {n : Nat} {q : Queue} {b : List Byte} {va level widx ridx : Nat} {t : State}
    (h : FrontReads s n q b va level widx ridx t) (hh : headerSound (field b 0 4) = true)
    (hb : field b 0 4 / 2 ^ 12 % 2 = 1 → t.queueClear q = true) {k : Nat} (hk : packetKind b = k) (h9 : k < 9) {e : Instr}
    {act : State → Queue → List Byte → Nat → Nat → Nat → Acted} (he : exec e s = .next (s.frontEnd n [k] act))
    (ha : ∀ u : State, act u q b va level ridx = u.actAny q b va level ridx) : FrontActs s n q b va level widx ridx t (e :: looksAgain n q) := by
  refine ⟨fun i hi => ?_⟩
  obtain rfl | hi := List.mem_cons.mp hi
  · rw [he, frontEnd_packet h.queue h.unbroken h.started h.read hh hb (by simp [hk]), ha]
    rfl
  · have listed : ([0, 1, 2, 3, 4, 5, 6, 7, 8] : List Nat).contains (packetKind b) = true := by
      simp only [List.contains_iff_mem, List.mem_cons, List.not_mem_nil, or_false]
      omega
    rw [looksAgain_exec h.queue hi, frontEnd_packet h.queue h.unbroken h.started h.read hh hb listed]
    rfl

section
variable {s : State} {n : Nat} {q : Queue} {b : List Byte} {va level widx ridx : Nat} {t v : State} {is : List Instr}
  (h : FrontActs s n q b va level widx ridx t is)
include h

theorem FrontActs.consumed (ha : (t.updQueue n fun q => { q with state := .active }).actAny q b va level ridx = .done v) :
    ∀ i ∈ is, exec i s = .next (v.consume q widx ridx) := fun i hi => by
  rw [h.acts i hi, ha]
  rfl

theorem FrontActs.kept (ha : (t.updQueue n fun q => { q with state := .active }).actAny q b va level ridx = .kept v) :
    ∀ i ∈ is, exec i s = .next v := fun i hi => by
  rw [h.acts i hi, ha]
  rfl

theorem FrontActs.waits (ha : (t.updQueue n fun q => { q with state := .active }).actAny q b va level ridx = .waits v) :
    ∀ i ∈ is, exec i s = .next (v.updQueue n fun q => { q with state := .waiting }) := fun i hi => by
  rw [h.acts i hi, ha]
  rfl

theorem FrontActs.fails {code : Nat} (ha : (t.updQueue n fun q => { q with state := .active }).actAny q b va level ridx = .error code v) :
    ∀ x, v.queueError q code level (field b 0 4) ridx va = some x → ∀ i ∈ is, exec i s = .next x := fun x hx i hi => by
  rw [h.acts i hi, ha]
  show Host.Outcome.next ((v.queueError q code level (field b 0 4) ridx va).getD s) = _
  rw [hx, Option.getD_some]

end

end Sys2Proof.Machine
end

section
/-!
PACKETS, kind by kind: what each does by the checks of its body (17_queue.md R345..R356), and the reads that fail (R351).
-/
namespace Sys2Proof.Machine

section
variable {u w v : State} {q : Queue} {b d : List Byte} {va level ridx : Nat}

theorem State.actAny_nop (hk : packetKind b = 0) : u.actAny q b va level ridx = if zeros b 4 60 then .done u else .error 0x12 u := by
  simp only [State.actAny, hk]

theorem State.actAny_grid (hk : packetKind b = 1) : u.actAny q b va level ridx = u.actGrid q b va level ridx := by
  simp only [State.actAny, hk]

theorem State.actAny_bind (hk : packetKind b = 2) : u.actAny q b va level ridx = u.actBind q b va level := by
  simp only [State.actAny, hk]

theorem State.actAny_indirect (hk : packetKind b = 3) : u.actAny q b va level ridx = u.actIndirect q b level := by
  simp only [State.actAny, hk]

theorem State.actAny_wait (hk : packetKind b = 4) : u.actAny q b va level ridx = u.actWait q b := by
  simp only [State.actAny, hk]

theorem State.actAny_signal (hk : packetKind b = 5) : u.actAny q b va level ridx = u.actSignal q b := by
  simp only [State.actAny, hk]

theorem State.actAny_recordFence (hk : packetKind b = 6) : u.actAny q b va level ridx = u.actRecordFence q b := by
  simp only [State.actAny, hk]

theorem State.actAny_contextFence (hk : packetKind b = 7) : u.actAny q b va level ridx = u.actContextFence q b := by
  simp only [State.actAny, hk]

theorem State.actAny_unbind (hk : packetKind b = 8) : u.actAny q b va level ridx = u.actUnbind q b va level := by
  simp only [State.actAny, hk]

/-! ### Grid launches (R334, R350) -/

/-- The body of a grid launch packet is sound (R350). -/
def GridSound (q : Queue) (b : List Byte) : Prop :=
  field b 4 1 < 8 ∧ field b 4 1 ≤ q.cap ∧ zeros b 5 3 = true ∧ field b 8 8 < 2 ^ 48 ∧ field b 8 8 % 256 = 0 ∧
    field b 16 8 < 2 ^ 48 ∧ field b 16 8 % 16 = 0 ∧ 1 ≤ field b 24 4 ∧ 1 ≤ field b 28 4 ∧ 1 ≤ field b 32 4 ∧
    field b 24 4 * field b 28 4 * field b 32 4 ≤ 2 ^ 32 ∧ signalSound (field b 40 8) (field b 48 8) = true ∧ zeros b 56 8 = true

theorem gridSound_iff (q : Queue) (b : List Byte) :
    (8 ≤ field b 4 1 ∨ q.cap < field b 4 1 ∨ (!zeros b 5 3) = true ∨ field b 8 8 / 2 ^ 48 ≠ 0 ∨ field b 8 8 % 256 ≠ 0 ∨
      field b 16 8 / 2 ^ 48 ≠ 0 ∨ field b 16 8 % 16 ≠ 0 ∨ field b 24 4 = 0 ∨ field b 28 4 = 0 ∨ field b 32 4 = 0 ∨
      2 ^ 32 < field b 24 4 * field b 28 4 * field b 32 4 ∨ (!signalSound (field b 40 8) (field b 48 8)) = true ∨ (!zeros b 56 8) = true) ↔
      ¬GridSound q b := by
  have high (x : Nat) : x / 2 ^ 48 ≠ 0 ↔ 2 ^ 48 ≤ x := by omega
  have zero (x : Nat) : x = 0 ↔ x < 1 := by omega
  simp only [GridSound, not_and_or, Nat.not_lt, Nat.not_le, Bool.not_eq_true', Bool.not_eq_true, high, zero (field b 24 4), zero (field b 28 4),
    zero (field b 32 4), ne_eq]

theorem State.actGrid_unsound (h : ¬GridSound q b) : u.actGrid q b va level ridx = .error 0x12 u := if_pos ((gridSound_iff q b).mpr h)

/-- The launch that a grid launch packet makes (R334, R350). -/
def State.gridLaunch (w : State) (q : Queue) (b d : List Byte) (va level ridx : Nat) : Launch :=
  { ctx := q.ctx, seq := ((w.ctxOf q.ctx).map (·.nextSeq)).getD 1, queue := q.num, header := BitVec.ofNat 32 (field b 0 4), pktVa := va,
    level := level, prio := field b 4 1, desc := descOf d, arg := field b 16 8, dx := field b 24 4, dy := field b 28 4, dz := field b 32 4,
    items := field b 36 4, sigVa := field b 40 8, sigInc := field b 48 8, sigQueue := q.num, acquire := field b 0 4 / 2 ^ 8 % 4,
    release := field b 0 4 / 2 ^ 10 % 4, parent := q.parentOf ridx, next := 0, total := field b 24 4 * field b 28 4 * field b 32 4,
    released := 0, acqCores := [], ranCores := [], node := none, aborted := false, complete := false, split := false, reported := false,
    only := none }

section
variable (h : GridSound q b)
include h

theorem State.actGrid_sound : u.actGrid q b va level ridx =
    match u.frontGranules q.ctx (field b 8 8) 8 with
    | .wait => .later
    | .fail _ t => .error 0x01 t
    | .ok d t => match t.refusal q.ctx d false (field b 36 4) with
      | some c => .error c t
      | none => .done (t.enlist q (t.gridLaunch q b d va level ridx)) :=
  if_neg fun c => (gridSound_iff q b).mp c h

theorem State.actGrid_unread {c : Cause} (hd : u.frontGranules q.ctx (field b 8 8) 8 = .fail c w) :
    u.actGrid q b va level ridx = .error 0x01 w := by
  rw [State.actGrid_sound h, hd]

theorem State.actGrid_refused {c : Nat} (hd : u.frontGranules q.ctx (field b 8 8) 8 = .ok d w)
    (hr : w.refusal q.ctx d false (field b 36 4) = some c) : u.actGrid q b va level ridx = .error c w := by
  rw [State.actGrid_sound h, hd]
  dsimp only
  rw [hr]

theorem State.actGrid_launches (hd : u.frontGranules q.ctx (field b 8 8) 8 = .ok d w)
    (hr : w.refusal q.ctx d false (field b 36 4) = none) :
    u.actGrid q b va level ridx = .done (w.enlist q (w.gridLaunch q b d va level ridx)) := by
  rw [State.actGrid_sound h, hd]
  dsimp only
  rw [hr]

end

/-! ### Node binds and unbinds (R356, R357) -/

/-- The node that a bind packet makes (R356, R357). -/
def State.boundNode (w : State) (q : Queue) (b d : List Byte) : Node :=
  { ctx := q.ctx, num := field b 5 1, launch := ((w.ctxOf q.ctx).map (·.nextSeq)).getD 1, arg := field b 16 8, rickVa := field b 24 8,
    quota := field b 32 4, batches := field b 36 4, pool := field b 40 8, hw := [], rick := [], rickHead := 0, timerOn := false,
    freeBatch := (List.range (field b 36 4)).map fun i => field b 40 8 + batchStride (descOf d).capacity * i, formed := 0, unbinding := false }

/-- The launch of the groups of that node, with an acquire at dev at least (R357). -/
def State.boundLaunch (w : State) (q : Queue) (b d : List Byte) (va level : Nat) : Launch :=
  { ctx := q.ctx, seq := ((w.ctxOf q.ctx).map (·.nextSeq)).getD 1, queue := q.num, header := BitVec.ofNat 32 (field b 0 4), pktVa := va,
    level := level, prio := field b 4 1, desc := descOf d, arg := field b 16 8, dx := 2 ^ 32 - 1, dy := 1, dz := 1, items := 0, sigVa := 0,
    sigInc := 0, sigQueue := q.num, acquire := max 1 (field b 0 4 / 2 ^ 8 % 4), release := field b 0 4 / 2 ^ 10 % 4, parent := 0, next := 0,
    total := 0, released := 0, acqCores := [], ranCores := [], node := some (field b 5 1), aborted := false, complete := false,
    split := false, reported := false, only := none }

theorem State.actBind_unsound (h : bindSound q b = false) : u.actBind q b va level = .error 0x12 u := if_pos (by rw [h]; rfl)

section
variable (h : bindSound q b = true)
include h

theorem State.actBind_unread {c : Cause} (hd : u.frontGranules q.ctx (field b 8 8) 8 = .fail c w) :
    u.actBind q b va level = .error 0x01 w := by
  refine (if_neg (by rw [h]; simp)).trans ?_
  rw [hd]

variable (hd : u.frontGranules q.ctx (field b 8 8) 8 = .ok d w)
include hd

theorem State.actBind_refused {c : Nat} (hr : w.refusal q.ctx d true 0 = some c) : u.actBind q b va level = .error c w := by
  refine (if_neg (by rw [h]; simp)).trans ?_
  rw [hd]
  dsimp only
  rw [hr]

variable (hr : w.refusal q.ctx d true 0 = none)
include hr

theorem State.actBind_bound (hn : w.nodeOf q.ctx (field b 5 1) ≠ none) : u.actBind q b va level = .error 0x15 w := by
  refine (if_neg (by rw [h]; simp)).trans ?_
  rw [hd]
  dsimp only
  rw [hr]
  exact if_pos (Option.isSome_iff_ne_none.mpr hn)

variable (hn : w.nodeOf q.ctx (field b 5 1) = none)
include hn

theorem State.actBind_full (hw : 1024 ≤ w.hardwareQueues) : u.actBind q b va level = .error 0x16 w := by
  refine (if_neg (by rw [h]; simp)).trans ?_
  rw [hd]
  dsimp only
  rw [hr]
  exact (if_neg (by rw [hn]; simp)).trans (if_pos hw)

theorem State.actBind_binds (hw : w.hardwareQueues < 1024) :
    u.actBind q b va level = .done (State.enlist { w with nodes := w.nodes ++ [w.boundNode q b d] } q (w.boundLaunch q b d va level)) := by
  refine (if_neg (by rw [h]; simp)).trans ?_
  rw [hd]
  dsimp only
  rw [hr]
  exact (if_neg (by rw [hn]; simp)).trans (if_neg (Nat.not_le.mpr hw))

end

section
variable (hq : q.unbind = none)
include hq

theorem State.actUnbind_unsound (h : bindSound q b = false) : u.actUnbind q b va level = .error 0x12 u :=
  (if_neg (by rw [hq]; simp)).trans (if_pos (by rw [h]; rfl))

variable (h : bindSound q b = true)
include h

theorem State.actUnbind_unknown (hn : u.nodeOf q.ctx (field b 5 1) = none) : u.actUnbind q b va level = .error 0x15 u := by
  refine (if_neg (by rw [hq]; simp)).trans ((if_neg (by rw [h]; simp)).trans ?_)
  rw [hn]

/-- A node takes no more records and forms what it has; the queue waits for it (R356). -/
theorem State.actUnbind_starts (hx : ∀ x ∈ u.queues, x.ctx = q.ctx → x.unbind ≠ some (field b 5 1)) {m : Node}
    (hn : u.nodeOf q.ctx (field b 5 1) = some m) : u.actUnbind q b va level = .waits
      ((((u.updNode q.ctx (field b 5 1) fun m => { m with unbinding := true, timerOn := false }).formAll q.ctx (field b 5 1)
        (m.queued + 1)).updLaunch q.ctx m.launch fun l =>
          { l with sigQueue := q.num, header := BitVec.ofNat 32 (field b 0 4), pktVa := va, level := level, sigVa := field b 48 8,
                   sigInc := field b 56 8, release := field b 0 4 / 2 ^ 10 % 4 }).updQueue q.num fun q =>
        { q with unbind := some (field b 5 1) }) := by
  have alone : ¬(u.queues.any fun x => x.ctx == q.ctx && x.unbind == some (field b 5 1)) = true := by
    rw [List.any_eq_true]
    rintro ⟨x, hm, he⟩
    rw [Bool.and_eq_true, beq_iff_eq, beq_iff_eq] at he
    exact hx x hm he.1 he.2
  refine (if_neg (by rw [hq]; simp)).trans ((if_neg (by rw [h]; simp)).trans ?_)
  rw [hn]
  exact if_neg alone

end

/-! ### Indirect packets and waits (R349, R350) -/

/-- The body of an indirect packet is sound (R349). -/
def IndirectSound (b : List Byte) : Prop :=
  zeros b 4 4 = true ∧ field b 8 8 < 2 ^ 48 ∧ field b 8 8 % 64 = 0 ∧ 1 ≤ field b 16 4 ∧ field b 16 4 ≤ 2 ^ 20 ∧ zeros b 20 44 = true

theorem indirectSound_iff (b : List Byte) :
    ((!zeros b 4 4) = true ∨ field b 8 8 / 2 ^ 48 ≠ 0 ∨ field b 8 8 % 64 ≠ 0 ∨ field b 16 4 = 0 ∨ 2 ^ 20 < field b 16 4 ∨ (!zeros b 20 44) = true) ↔
      ¬IndirectSound b := by
  have high (x : Nat) : x / 2 ^ 48 ≠ 0 ↔ 2 ^ 48 ≤ x := by omega
  have zero (x : Nat) : x = 0 ↔ x < 1 := by omega
  simp only [IndirectSound, not_and_or, Nat.not_lt, Nat.not_le, Bool.not_eq_true', Bool.not_eq_true, high, zero (field b 16 4), ne_eq]

theorem State.actIndirect_deep (h : level = 4) : u.actIndirect q b level = .error 0x13 u := if_pos h

theorem State.actIndirect_unsound (hl : level < 4) (h : ¬IndirectSound b) : u.actIndirect q b level = .error 0x12 u :=
  (if_neg (Nat.ne_of_lt hl)).trans (if_pos ((indirectSound_iff b).mpr h))

theorem State.actIndirect_opens (hl : level < 4) (h : IndirectSound b) : u.actIndirect q b level =
    .kept (u.updQueue q.num fun q => { q with nest := { va := field b 8 8, left := field b 16 4 } :: q.nest, waitFor := none, state := .active }) :=
  (if_neg (Nat.ne_of_lt hl)).trans (if_neg fun c => (indirectSound_iff b).mp c h)

/-- The words that a wait packet names, each with its target (R350). -/
def waitWords (b : List Byte) : List (Nat × Nat) := ([8, 24, 40] : List Nat).map fun o => (field b o 8, field b (o + 8) 8)

/-- The body of a wait packet is sound (R350). -/
def WaitSound (b : List Byte) : Prop :=
  zeros b 4 4 = true ∧ zeros b 56 8 = true ∧ (∃ w ∈ waitWords b, w.1 ≠ 0) ∧ ∀ w ∈ waitWords b, w.1 % 8 = 0 ∧ w.1 < 2 ^ 48

theorem waitSound_iff (b : List Byte) :
    ((!zeros b 4 4) = true ∨ (!zeros b 56 8) = true ∨ ((waitWords b).all fun w => w.1 == 0) = true ∨
      ((waitWords b).any fun w => w.1 % 8 != 0 || w.1 / 2 ^ 48 != 0) = true) ↔ ¬WaitSound b := by
  have bad (w : Nat × Nat) : (w.1 % 8 != 0 || w.1 / 2 ^ 48 != 0) = true ↔ ¬(w.1 % 8 = 0 ∧ w.1 < 2 ^ 48) := by
    rw [Bool.or_eq_true, bne_iff_ne, bne_iff_ne]
    omega
  have noWord : ((waitWords b).all fun w => w.1 == 0) = true ↔ ¬∃ w ∈ waitWords b, w.1 ≠ 0 := by simp
  have badWord : ((waitWords b).any fun w => w.1 % 8 != 0 || w.1 / 2 ^ 48 != 0) = true ↔ ¬∀ w ∈ waitWords b, w.1 % 8 = 0 ∧ w.1 < 2 ^ 48 := by
    simp only [List.any_eq_true, bad, not_forall, exists_prop]
  rw [noWord, badWord, WaitSound, Bool.not_eq_true', Bool.not_eq_true', ← Bool.not_eq_true, ← Bool.not_eq_true]
  simp only [not_and_or]

theorem State.actWait_unsound (h : ¬WaitSound b) : u.actWait q b = .error 0x12 u := if_pos ((waitSound_iff b).mpr h)

section
variable (h : WaitSound b)
include h

theorem State.actWait_sound : u.actWait q b =
    match u.wordsReached q.ctx (waitWords b) with
    | .later => .later
    | .failed t => .error 0x14 t
    | .all true t => .done t
    | .all false t => .waits t :=
  if_neg fun c => (waitSound_iff b).mp c h

theorem State.actWait_reached (hw : u.wordsReached q.ctx (waitWords b) = .all true v) : u.actWait q b = .done v := by
  rw [State.actWait_sound h, hw]

theorem State.actWait_unmet (hw : u.wordsReached q.ctx (waitWords b) = .all false v) : u.actWait q b = .waits v := by
  rw [State.actWait_sound h, hw]

theorem State.actWait_failed (hw : u.wordsReached q.ctx (waitWords b) = .failed v) : u.actWait q b = .error 0x14 v := by
  rw [State.actWait_sound h, hw]

end

/-! ### Signals (R350) -/

/-- The body of a signal packet is sound (R350). -/
def SignalPacketSound (b : List Byte) : Prop :=
  zeros b 4 4 = true ∧ signalSound (field b 8 8) (field b 16 8) = true ∧ zeros b 24 40 = true

theorem signalPacketSound_iff (b : List Byte) :
    ((!zeros b 4 4) = true ∨ (!signalSound (field b 8 8) (field b 16 8)) = true ∨ (!zeros b 24 40) = true) ↔ ¬SignalPacketSound b := by
  simp only [SignalPacketSound, not_and_or, Bool.not_eq_true', Bool.not_eq_true]

theorem State.actSignal_unsound (h : ¬SignalPacketSound b) : u.actSignal q b = .error 0x12 u := if_pos ((signalPacketSound_iff b).mpr h)

section
variable (h : SignalPacketSound b) (hr : u.frontReleases (field b 0 4) = true)
include h hr

theorem State.actSignal_sound : u.actSignal q b =
    if field b 8 8 = 0 then .done u
    else match u.engineAdd noCore q.ctx (field b 8 8) (field b 16 8) with
      | .ok _ _ t => .done t
      | .fail _ _ t => .error 0x14 t
      | .wait => .later :=
  (if_neg fun c => (signalPacketSound_iff b).mp c h).trans (if_neg (by rw [hr]; simp))

theorem State.actSignal_empty (ha : field b 8 8 = 0) : u.actSignal q b = .done u := (State.actSignal_sound h hr).trans (if_pos ha)

variable (ha : field b 8 8 ≠ 0)
include ha

theorem State.actSignal_added {bs : List Byte} {k : List Tlb} (he : u.engineAdd noCore q.ctx (field b 8 8) (field b 16 8) = .ok bs k v) :
    u.actSignal q b = .done v := by
  rw [State.actSignal_sound h hr, if_neg ha, he]

theorem State.actSignal_failed {c : Cause} {a : Nat} (he : u.engineAdd noCore q.ctx (field b 8 8) (field b 16 8) = .fail c a v) :
    u.actSignal q b = .error 0x14 v := by
  rw [State.actSignal_sound h hr, if_neg ha, he]

end

/-! ### Fences (R353) -/

/-- The record caches once a record fence has emptied them: the front end's, and each core's of the records of its context, or of all where the
context runs (R353). -/
def State.recordsDropped (u : State) (q : Queue) : State :=
  let runs (k : Nat) : Bool := u.groups.any fun g => g.ref.ctx == q.ctx && g.onCore && g.core == k
  { u with
    switor := { u.switor with recs := [] },
    cores := (List.range u.cores.length).map fun k => let c := u.coreAt k; { c with recs := if runs k then [] else c.recs.filter (·.ctx != q.ctx) } }

theorem State.actRecordFence_unsound (h : zeros b 4 60 = false) : u.actRecordFence q b = .error 0x12 u := if_pos (by rw [h]; rfl)

theorem State.actRecordFence_drops (h : zeros b 4 60 = true) : u.actRecordFence q b = .done (u.recordsDropped q) := if_neg (by rw [h]; simp)

theorem State.recordsDropped_coreAt (u : State) (q : Queue) {k : Nat} (hk : k < u.cores.length) :
    (u.recordsDropped q).coreAt k = { u.coreAt k with recs :=
      if (u.groups.any fun g => g.ref.ctx == q.ctx && g.onCore && g.core == k) then [] else (u.coreAt k).recs.filter (·.ctx != q.ctx) } := by
  simp only [State.coreAt, State.recordsDropped, List.getD_eq_getElem?_getD, List.getElem?_map, List.getElem?_range hk, Option.map_some,
    Option.getD_some]

/-- The launches that a context fence waits for (R353). -/
def State.fenceWants (u : State) (q : Queue) : List Nat := q.waitFor.getD ((u.launches.filter (·.ctx == q.ctx)).map (·.seq))

theorem State.actContextFence_unsound (h : zeros b 4 60 = false) : u.actContextFence q b = .error 0x12 u := if_pos (by rw [h]; rfl)

section
variable (h : zeros b 4 60 = true)
include h

theorem State.actContextFence_met (hl : ∀ l ∈ u.launches, l.ctx = q.ctx → l.seq ∈ u.fenceWants q → l.complete = true)
    (hr : u.frontReleases (field b 0 4) = true) : u.actContextFence q b = .done u := by
  refine (if_neg (by rw [h]; simp)).trans (if_pos (Bool.and_eq_true_iff.mpr ⟨List.all_eq_true.mpr fun m hm => List.all_eq_true.mpr fun l hl' => ?_, hr⟩))
  by_cases mine : l.ctx = q.ctx ∧ l.seq = m
  · rw [hl l hl' mine.1 (mine.2 ▸ hm), Bool.or_true]
  · have other : (l.ctx == q.ctx && l.seq == m) = false := by
      rw [Bool.eq_false_iff, ne_eq, Bool.and_eq_true, beq_iff_eq, beq_iff_eq]
      exact mine
    rw [other]
    rfl

theorem State.actContextFence_unmet (hl : ∃ l ∈ u.launches, l.ctx = q.ctx ∧ l.seq ∈ u.fenceWants q ∧ l.complete = false) :
    u.actContextFence q b = .waits (u.updQueue q.num fun x => { x with waitFor := some (u.fenceWants q) }) := by
  obtain ⟨l, mem, mine, wanted, incomplete⟩ := hl
  refine (if_neg (by rw [h]; simp)).trans (if_neg fun c => ?_)
  have met := List.all_eq_true.mp (List.all_eq_true.mp (Bool.and_eq_true_iff.mp c).1 _ wanted) l mem
  rw [mine, incomplete, beq_self_eq_true, beq_self_eq_true] at met
  cases met

end

end

/-! ### Reads that fail (R351) -/

/-- The indices are read, then the read index's write is tried, and then they are compared (R351). -/
theorem State.frontRead_indexed {s s1 s2 : State} {q : Queue} {w r : List Byte} {a c : List Tlb} {x : EGot}
    (hw : s.fwRead q.ctx q.widxVa 8 = .ok w a s1) (hr : s1.fwRead q.ctx q.ridxVa 8 = .ok r c s2)
    (hc : s2.engineCheck noCore q.ctx [] (pieces q.ridxVa 8) = x) : s.frontRead q = q.indexed (leNat w) (leNat r) x := by
  rw [frontRead_widx, hw, widxRead_ok, hr, ridxRead_ok, hc]

theorem Queue.indexed_range {q : Queue} {w r : Nat} {d : List Byte} {e : List Tlb} {s : State} (h : w < r ∨ r + 2 ^ q.log2 < w) :
    q.indexed w r (.ok d e s) = .error 0x17 0 0 r s := if_pos h

theorem Queue.indexed_unread {q : Queue} {w r : Nat} {d : List Byte} {e : List Tlb} {s : State} (h1 : r < w) (h2 : w ≤ r + 2 ^ q.log2) :
    q.indexed w r (.ok d e s) = match q.nest with
      | n :: _ => q.next n.va w r (s.fwRead q.ctx n.va 64)
      | [] => q.next (q.packetVa r) w r (s.ringPacket q w r) :=
  (if_neg (by omega)).trans (if_neg (by omega))

theorem Queue.indexed_nested {q : Queue} {w r : Nat} {d : List Byte} {e : List Tlb} {s v : State} {m : Nest} {l : List Nest} {f : Cause} {a : Nat}
    (h1 : r < w) (h2 : w ≤ r + 2 ^ q.log2) (hn : q.nest = m :: l) (hf : s.fwRead q.ctx m.va 64 = .fail f a v) :
    q.indexed w r (.ok d e s) = .error 0x10 0 m.va r v := by
  rw [Queue.indexed_unread h1 h2, hn]
  dsimp only
  rw [hf]
  rfl

theorem Queue.indexed_ring {q : Queue} {w r : Nat} {d : List Byte} {e : List Tlb} {s v : State} {f : Cause} {a : Nat}
    (h1 : r < w) (h2 : w ≤ r + 2 ^ q.log2) (hn : q.nest = []) (hl : ∀ x ∈ q.line, x.1 ≠ r) (hf : s.fwRead q.ctx (q.packetVa r) 64 = .fail f a v) :
    q.indexed w r (.ok d e s) = .error 0x10 0 (q.packetVa r) r v := by
  rw [Queue.indexed_unread h1 h2, hn]
  dsimp only
  rw [ringPacket_read w hl, hf]
  rfl

end Sys2Proof.Machine
end

section
/-!
PACKETS, together: every packet kind of the statement, each by its lemmas (17_queue.md R345..R356).
-/
namespace Sys2Proof.Machine

/-- Settles O42: the front end by its header and its barrier bit, then each packet kind by the checks of its body. The order of the reads, and that
the header is read before the barrier bit is met and the body after, are the model's choice (logs 45 and 46), the checks of the unbind packet's body
too (log 44); that the barrier bit and the context fence count bound nodes is log 49. -/
theorem packetEvents : Obligations.PacketEvents := by
  intro s n q hq he hs evs looks
  refine ⟨fun b va level widx ridx t hr => ?_, fun code h va ridx w x hr hx i hi => ?unread, fun w a s1 r c s2 d e s3 hw hr hc => ⟨fun hx => ?range, fun h1 h2 =>
    ⟨fun m l f g v hn hf => ?nested, fun f g v hn hl hf => ?ring⟩⟩, fun t code level h ridx va bs c v ha hw => queueError_written ha hw⟩
  case unread =>
    obtain ⟨kinds, act, e⟩ := front_exec hq hi
    rw [e, frontEnd_error hq he hs hr, hx, Option.getD_some]
  case range => exact (State.frontRead_indexed hw hr hc).trans (Queue.indexed_range hx)
  case nested => exact (State.frontRead_indexed hw hr hc).trans (Queue.indexed_nested h1 h2 hn hf)
  case ring => exact (State.frontRead_indexed hw hr hc).trans (Queue.indexed_ring h1 h2 hn hl hf)
  have reads : FrontReads s n q b va level widx ridx t := ⟨hq, he, hs, hr⟩
  intro u consumed waits fails seq
  refine ⟨fun hh x hx i hi => reads.unsound hh hx hi, fun hi i h => reads.wakes hi h, fun hh => ⟨fun hb hc e h i hi => reads.blocked hh hb hc h hi, fun hb => ?_⟩⟩
  refine ⟨fun hk => ?nop, fun hk => ?grid, fun hk => ?bind, fun hk hu => ?unbind, fun hk => ?indirect, fun hk => ?wait, fun hk => ?signal,
    fun hk => ?recordFence, fun hk => ?contextFence⟩
  case nop =>
    have acts := reads.acts hh hb hk (by decide) (show exec (.packetNop n) s = execPacketNop n s from rfl) fun u => (State.actAny_nop hk).symm
    exact ⟨fun hz => acts.consumed ((State.actAny_nop hk).trans (if_pos hz)), fun hz => acts.fails ((State.actAny_nop hk).trans (if_neg (by rw [hz]; simp)))⟩
  case grid =>
    have acts := reads.acts hh hb hk (by decide) (show exec (.gridLaunch n) s = execGridLaunch n s from rfl) fun u => (State.actAny_grid hk).symm
    exact ⟨fun h => acts.fails ((State.actAny_grid hk).trans (State.actGrid_unsound h)), fun h =>
      ⟨fun c w hd => acts.fails ((State.actAny_grid hk).trans (State.actGrid_unread h hd)), fun d w hd =>
        ⟨fun hn => ⟨w.gridLaunch q b d va level ridx, rfl, rfl, rfl, rfl, rfl, rfl, rfl, rfl, rfl, rfl, rfl, rfl, rfl, rfl, rfl, rfl,
          acts.consumed ((State.actAny_grid hk).trans (State.actGrid_launches h hd hn))⟩,
        fun c hc => acts.fails ((State.actAny_grid hk).trans (State.actGrid_refused h hd hc))⟩⟩⟩
  case bind =>
    have acts := reads.acts hh hb hk (by decide) (show exec (.nodeBind n) s = execNodeBind n s from rfl) fun u => (State.actAny_bind hk).symm
    exact ⟨fun h => acts.fails ((State.actAny_bind hk).trans (State.actBind_unsound h)), fun h =>
      ⟨fun c w hd => acts.fails ((State.actAny_bind hk).trans (State.actBind_unread h hd)), fun d w hd =>
        ⟨fun c hc => acts.fails ((State.actAny_bind hk).trans (State.actBind_refused h hd hc)), fun hn =>
          ⟨fun hm => acts.fails ((State.actAny_bind hk).trans (State.actBind_bound h hd hn hm)),
            fun hm hw => acts.fails ((State.actAny_bind hk).trans (State.actBind_full h hd hn hm hw)), fun hm hw =>
            ⟨w.boundNode q b d, w.boundLaunch q b d va level, rfl, rfl, rfl, rfl, rfl, rfl, rfl, rfl, rfl, rfl, rfl, rfl, rfl, rfl, rfl, rfl, rfl,
              acts.consumed ((State.actAny_bind hk).trans (State.actBind_binds h hd hn hm hw))⟩⟩⟩⟩⟩
  case unbind =>
    have acts := reads.acts hh hb hk (by decide) (show exec (.nodeUnbind n) s = execNodeUnbind n s from rfl) fun u => (State.actAny_unbind hk).symm
    exact ⟨fun h => acts.fails ((State.actAny_unbind hk).trans (State.actUnbind_unsound hu h)),
      fun h hn => acts.fails ((State.actAny_unbind hk).trans (State.actUnbind_unknown hu h hn)),
      fun h hx m hm => acts.waits ((State.actAny_unbind hk).trans (State.actUnbind_starts hu h hx hm))⟩
  case indirect =>
    have acts := reads.acts hh hb hk (by decide) (show exec (.indirectBuffer n) s = execIndirectBuffer n s from rfl) fun u => (State.actAny_indirect hk).symm
    exact ⟨fun h => acts.fails ((State.actAny_indirect hk).trans (State.actIndirect_deep h)),
      fun hl h => acts.fails ((State.actAny_indirect hk).trans (State.actIndirect_unsound hl h)),
      fun hl h => acts.kept ((State.actAny_indirect hk).trans (State.actIndirect_opens hl h))⟩
  case wait =>
    have acts := reads.acts hh hb hk (by decide) (show exec (.waitPacket n) s = execWaitPacket n s from rfl) fun u => (State.actAny_wait hk).symm
    exact ⟨fun h => acts.fails ((State.actAny_wait hk).trans (State.actWait_unsound h)), fun h =>
      ⟨fun v hv => acts.consumed ((State.actAny_wait hk).trans (State.actWait_reached h hv)),
        fun v hv => acts.waits ((State.actAny_wait hk).trans (State.actWait_unmet h hv)),
        fun v hv => acts.fails ((State.actAny_wait hk).trans (State.actWait_failed h hv))⟩⟩
  case signal =>
    have acts := reads.acts hh hb hk (by decide) (show exec (.signalPacket n) s = execSignalPacket n s from rfl) fun u => (State.actAny_signal hk).symm
    exact ⟨fun h => acts.fails ((State.actAny_signal hk).trans (State.actSignal_unsound h)), fun h hr =>
      ⟨fun ha => acts.consumed ((State.actAny_signal hk).trans (State.actSignal_empty h hr ha)), fun ha =>
        ⟨fun bs k v hv => acts.consumed ((State.actAny_signal hk).trans (State.actSignal_added h hr ha hv)),
          fun c a v hv => acts.fails ((State.actAny_signal hk).trans (State.actSignal_failed h hr ha hv))⟩⟩⟩
  case recordFence =>
    have acts := reads.acts hh hb hk (by decide) (show exec (.recordFence n) s = execRecordFence n s from rfl) fun u => (State.actAny_recordFence hk).symm
    exact ⟨fun h => acts.fails ((State.actAny_recordFence hk).trans (State.actRecordFence_unsound h)), fun h =>
      ⟨u.recordsDropped q, acts.consumed ((State.actAny_recordFence hk).trans (State.actRecordFence_drops h)), rfl,
        fun k hk => u.recordsDropped_coreAt q hk, rfl⟩⟩
  case contextFence =>
    have acts := reads.acts hh hb hk (by decide) (show exec (.contextFence n) s = execContextFence n s from rfl) fun u => (State.actAny_contextFence hk).symm
    exact ⟨fun h => acts.fails ((State.actAny_contextFence hk).trans (State.actContextFence_unsound h)), fun h =>
      ⟨fun hl hr => acts.consumed ((State.actAny_contextFence hk).trans (State.actContextFence_met h hl hr)),
        fun hl => acts.waits ((State.actAny_contextFence hk).trans (State.actContextFence_unmet h hl))⟩⟩

end Sys2Proof.Machine
end

section
/-!
COMPLETION. How launches and nodes complete, and how the records of an nemit become groups (17_queue.md R342..R358; 18_context.md R371).
-/
namespace Sys2Proof.Machine

/-! ### Launches and nodes (R350, R354..R356, R371) -/

section
variable {s t u v : State} {ctx seq num : Nat} {l : Launch} {n : Node} {q : Queue}

/-- A launch with a signal completes once its cores are released and its signal is added (R354). -/
theorem State.completeLaunch_signals {bs : List Byte} {h : List Tlb} (ho : l.only = none) (hu : s.releaseLaunch l = some u) (hz : l.sigVa ≠ 0)
    (hv : u.engineAdd noCore l.ctx l.sigVa l.sigInc = .ok bs h v) : s.completeLaunch l = some (v.markComplete l) := by
  have signalled : u.signal l = some v := by
    unfold State.signal
    rw [if_neg hz, hv]
  unfold State.completeLaunch
  rw [hu, Option.bind_some, ho, Option.isSome_none, if_neg Bool.false_ne_true, signalled]
  rfl

theorem launchComplete_done (hl : s.launchOf ctx seq = some l) (hc : l.complete = false) (hn : l.node = none) (ha : l.aborted = false)
    (hd : (s.lookedAt l).launchDone l = true) (hu : s.completeLaunch l = some u) : exec (.launchComplete ctx seq) s = .next u := by
  rw [show exec (.launchComplete ctx seq) s = execLaunchComplete ctx seq s from rfl]
  simp [execLaunchComplete, hl, hc, hn, ha, hd, hu]

theorem launchComplete_aborted (hl : s.launchOf ctx seq = some l) (hc : l.complete = false) (ha : l.aborted = true) (he : s.ended l = true) :
    exec (.launchComplete ctx seq) s = .next (s.markComplete l) := by
  rw [show exec (.launchComplete ctx seq) s = execLaunchComplete ctx seq s from rfl]
  simp [execLaunchComplete, hl, hc, ha, he]

/-- A node goes once its unbind packet is consumed: with its signal, or without one where its launch is aborted (R356). -/
theorem nodeUnbindComplete_frees (hn : s.nodeOf ctx num = some n) (hq : (s.queues.find? fun q => q.ctx == ctx && q.unbind == some num) = some q)
    (hl : s.launchOf ctx n.launch = some l) (hd : (s.lookedAt l).nodeDone n l = true) (he : q.state ≠ .error) (hs : q.state ≠ .stopped)
    (hu : s.releaseLaunch l = some u) (ht : u.unbound q = some (t, true))
    (hv : l.aborted = true ∧ v = t ∨ l.aborted = false ∧ t.signal l = some v) :
    exec (.nodeUnbindComplete ctx num) s = .next (v.freeNode n l) := by
  have ends : (if l.aborted then some (t.freeNode n l) else (t.signal l).map (·.freeNode n l)) = some (v.freeNode n l) := by
    obtain ⟨ha, rfl⟩ | ⟨ha, hv⟩ := hv
    · exact if_pos ha
    · simp [ha, hv]
  rw [show exec (.nodeUnbindComplete ctx num) s = execNodeUnbindComplete ctx num s from rfl]
  simp only [execNodeUnbindComplete, hn, hq, hl]
  rw [if_neg (by simp [hd, he, hs]), hu, Option.bind_some, ht, Option.bind_some]
  exact congrArg (fun o : Option State => Host.Outcome.next (o.getD s)) ends

end

/-! ### Records (R357, R358) -/

section
variable {s t u v : State} {ctx num : Nat} {l : Launch} {n : Node} {r : BitVec 128}

theorem State.nemitDone_offers {seq : Nat} {e : PathEntry} (he : t.w.entryAt seq 4 = some e) (ho : e.op = .nemit num) (hd : t.w.allDone seq = true)
    (first : ∀ d ∈ t.w.entries, d.done = false → d.seq < seq → ∀ m, d.op ≠ .nemit m) (hu : t.release 1 = some u) :
    t.nemitDone seq = some ((u.offerAll num e.reqs).1.finishAny { e with fails := (u.offerAll num e.reqs).2 }) := by
  unfold State.nemitDone
  rw [he, Option.bind_some]
  simp only [ho]
  rw [if_neg, hu]
  · rfl
  · simp only [hd, Bool.not_true, Bool.or_false, Bool.not_eq_true, List.any_eq_false]
    intro d hmem
    cases hop : d.op with
    | nemit m => simpa using fun hd hlt => first d hmem hd hlt m hop
    | _ => simp

theorem State.nodeOf_keys (hn : s.nodeOf ctx num = some n) : n.ctx = ctx ∧ n.num = num := by
  simpa using List.find?_some hn

/-- A node's record is changed where it stands, by a change that keeps its number. -/
theorem State.nodeOf_updNode {f : Node → Node} (hf : ∀ m, (f m).ctx = m.ctx ∧ (f m).num = m.num) (hn : s.nodeOf ctx num = some n) :
    (s.updNode ctx num f).nodeOf ctx num = some (f n) := by
  have keys : ((fun m : Node => m.ctx == ctx && m.num == num) ∘ fun m => if m.ctx = ctx ∧ m.num = num then f m else m) =
      fun m => m.ctx == ctx && m.num == num := by
    funext m
    simp only [Function.comp_apply]
    split <;> simp [hf m]
  unfold State.nodeOf State.updNode at *
  rw [List.find?_map, keys, hn, Option.map_some, if_pos (State.nodeOf_keys hn)]

/-- The record of node n, m, with a record in its hardware queue and the timer running (R357). -/
def Node.joined (n : Node) (r : BitVec 128) (m : Node) : Node := { m with hw := m.hw ++ [r], timerOn := n.timerOn || n.queued == 0 }

/-- A record with room joins the hardware queue (R357). -/
theorem State.offerRecord_joins (hn : s.nodeOf ctx num = some n) (hl : s.launchOf ctx n.launch = some l) (hu : n.unbinding = false)
    (hw : n.hw.length < 256) (hc : n.queued + 1 ≠ l.desc.capacity) : s.offerRecord ctx num r = .ok (s.updNode n.ctx n.num (n.joined r)) := by
  obtain ⟨rfl, rfl⟩ := State.nodeOf_keys hn
  have joins : s.acceptRecord n r = some (s.updNode n.ctx n.num (n.joined r)) := if_pos hw
  have partly : (n.joined r n).queued ≠ l.desc.capacity := by simpa [Node.joined, Node.queued, Nat.add_right_comm] using hc
  unfold State.offerRecord
  simp only [hn, hu, joins, hl]
  rw [if_neg Bool.false_ne_true, State.nodeOf_updNode (f := n.joined r) (fun m => ⟨rfl, rfl⟩) hn]
  exact if_neg partly

/-- A group forms from the first records queued, as many as a group holds, with the batch written (R358). -/
theorem State.formGroup_forms {bs : List Byte} {h : List Tlb} {x : Nat × List Nat} (hq : n.queued ≠ 0) (ha : l.aborted = false)
    (hs : l.split = false) (hw : 0 < l.desc.warps)
    (hx : s.takeBatch n = some x)
    (ht : s.fwWrite n.ctx x.1 (batchBytes n ((n.hw ++ n.rick).take (min (96 * l.desc.warps) n.queued))) = .ok bs h t) :
    s.formGroup n l = some (t.formed n l x (((n.hw ++ n.rick).drop (min (96 * l.desc.warps) n.queued)).take 256)
      (((n.hw ++ n.rick).drop (min (96 * l.desc.warps) n.queued)).drop 256) (min (96 * l.desc.warps) n.queued)) := by
  have some_records : min l.desc.capacity n.queued ≠ 0 := by unfold Desc.capacity; omega
  unfold State.formGroup
  rw [if_neg (by simp [ha, hs]), hx, Option.bind_some]
  refine (if_neg some_records).trans ?_
  show (match s.fwWrite n.ctx x.1 (batchBytes n ((n.hw ++ n.rick).take (min (96 * l.desc.warps) n.queued))) with
    | .wait => none | .ok _ _ t => some _ | .fail _ _ t => some _) = _
  rw [ht]
  rfl

theorem nodeTimerLapse_forms (hn : s.nodeOf ctx num = some n) (hl : s.launchOf ctx n.launch = some l) (ht : n.timerOn = true) (hq : n.queued ≠ 0) :
    exec (.nodeTimerLapse ctx num) s = .next ((s.formGroup n l).getD (s.updNode ctx num fun m => { m with timerOn := false })) := by
  rw [show exec (.nodeTimerLapse ctx num) s = execNodeTimerLapse ctx num s from rfl]
  simp [execNodeTimerLapse, hn, hl, ht, hq]

theorem batchFreeFormation_forms (hn : s.nodeOf ctx num = some n) (hl : s.launchOf ctx n.launch = some l) (ht : n.timerOn = false)
    (hq : n.queued ≠ 0) : exec (.batchFreeFormation ctx num) s = .next ((s.formGroup n l).getD s) := by
  rw [show exec (.batchFreeFormation ctx num) s = execBatchFreeFormation ctx num s from rfl]
  simp [execBatchFreeFormation, hn, hl, ht, hq]

/-- With no free batch no group forms (R358). -/
theorem State.formGroup_none (hb : n.freeBatch = []) : s.formGroup n l = none := by
  unfold State.formGroup
  split
  · rfl
  · rw [show s.takeBatch n = none by unfold State.takeBatch; rw [hb]]
    rfl

end

/-- Settles O43: a launch and a node complete by the lemmas on their two events, and a group forms by the one lemma on formGroup that the
timer and a free batch share. -/
theorem completionEvents : Obligations.CompletionEvents := by
  unfold Obligations.CompletionEvents
  refine ⟨fun s ctx => ⟨?launch, fun l => rfl, ?aborted, ?node⟩, ?offer, fun s ctx num n l hn hl => ⟨?joins, ?forms, ?lapses⟩⟩
  case launch =>
    intro seq l u bs h v hl hc hn ha ho hd hu hz hv
    exact launchComplete_done hl hc hn ha hd (State.completeLaunch_signals ho hu hz hv)
  case aborted => exact fun seq l hl hc ha he => launchComplete_aborted hl hc ha he
  case node =>
    intro num n q l u t hn hq hl hd he hs hu ht freed
    exact ⟨fun v ha hv => nodeUnbindComplete_frees hn hq hl hd he hs hu ht (.inr ⟨ha, hv⟩),
      fun ha => nodeUnbindComplete_frees hn hq hl hd he hs hu ht (.inl ⟨ha, rfl⟩)⟩
  case offer =>
    intro s r t seq e num u h he ho hd first hu
    exact onWarpAny_next (f := (·.nemitDone seq)) h (State.nemitDone_offers he ho hd first hu)
  case joins => exact fun r hu hw hc => State.offerRecord_joins hn hl hu hw hc
  case forms =>
    intro hq ha hs hw count all x bs h t hx ht formed
    have forms : s.formGroup n l = some formed := State.formGroup_forms hq ha hs hw hx ht
    exact ⟨fun on => by rw [nodeTimerLapse_forms hn hl on hq, forms]; rfl,
      fun off => by rw [batchFreeFormation_forms hn hl off hq, forms]; rfl⟩
  case lapses =>
    intro on hq hb
    rw [nodeTimerLapse_forms hn hl on hq, State.formGroup_none hb]
    rfl

end Sys2Proof.Machine
end

section
/-!
COMMANDS. What every command of a context does before its own work, and the commands (18_context.md R360..R371).
-/
namespace Sys2Proof.Machine

/-! ### What a command is answered before its own work (R360, R365) -/

section
variable {code : Nat} {c : Cmd} {edits : List Edit} {clean : Bool} {acc : CtxState → Bool} {f : Context → State → Option State} {s : State} {x : Context}

/-- A field that is not zero where its command has no operand is status 2 (R365; the model's choice, log entry 112). -/
theorem onCommand_unclean {f : State → State} (h : s.Takes c true) (hc : clean = false) : onCommand code c clean f s = .next (s.answer code c 2) := by
  obtain ⟨ht, he, -⟩ := h
  unfold onCommand
  rw [if_neg (by simp only [he]; simp; exact ht), hc]
  rfl

theorem State.Takes.fields_clean (h : s.Takes c true) (hc : clean = true) : s.Takes c clean := ⟨h.1, h.2.1, hc⟩

/-- A command that names no context of its tenant is status 2 (R365). -/
theorem onContext_unknown (h : s.Takes c true) (hc : clean = true) (hx : s.ctxOf c.ctx = none ∨ ∃ x, s.ctxOf c.ctx = some x ∧ x.tenant ≠ c.tenant) :
    onContext code c edits clean acc f s = .next (s.answer code c 2) := by
  unfold onContext
  rw [onCommand_next (h.fields_clean hc)]
  obtain hx | ⟨x, hx, ht⟩ := hx
  · rw [hx]
  · rw [hx]
    exact congrArg Host.Outcome.next (if_pos ht)

/-- A command waits behind one of its context that is under way (R365). -/
theorem onContext_waits (h : s.Takes c true) (hc : clean = true) (hx : s.ctxOf c.ctx = some x) (ht : x.tenant = c.tenant) (hu : x.cmd ≠ none)
    (hw : x.waiting = []) : onContext code c edits clean acc f s = .next (s.holdCommand ⟨code, c, edits, false⟩) := by
  have turn (g : State → Option State) : s.command ⟨code, c, edits, false⟩ x g = s.holdCommand ⟨code, c, edits, false⟩ := by
    unfold State.command
    rw [hw]
    exact if_pos (Option.isSome_iff_ne_none.mpr hu)
  unfold onContext
  rw [onCommand_next (h.fields_clean hc), hx]
  exact congrArg Host.Outcome.next ((if_neg (not_not.mpr ht)).trans (turn _))

/-- A command for a context in a state that does not allow it is status 1 (R365, R366). -/
theorem onContext_refused (h : s.TakesFor c clean x) (ha : acc x.state = false) : onContext code c edits clean acc f s = .next (s.answer code c 1) := by
  obtain ⟨takes, hx, ht, hu, hw⟩ := h
  have turn (g : State → Option State) : s.command ⟨code, c, edits, false⟩ x g = (g s).getD (s.holdCommand ⟨code, c, edits, false⟩) := by
    unfold State.command
    simp only [hw, hu]
    rfl
  unfold onContext
  rw [onCommand_next takes, hx]
  refine congrArg Host.Outcome.next ((if_neg (not_not.mpr ht)).trans ?_)
  rw [turn, ha]
  rfl

end

/-- The commands of a context but DESTROY: the code, whether the fields that it does not use are zero, the edits, the step (R365). -/
noncomputable def commandsOfContext (c : Cmd) (edits : List Edit) : List (Nat × Bool × List Edit × Instr) :=
  [(3, c.clean 8, [], .suspend c), (4, c.clean 8, [], .resume c), (5, true, [], .queueAdd c.tenant c.block), (6, c.clean 10, [], .queueStart c.tenant c.block),
   (7, c.clean 10, [], .queueReset c.tenant c.block), (8, c.clean 20, edits, .groupResume c.tenant c.block edits), (9, c.clean 20, [], .groupAbort c),
   (11, c.clean 10, [], .migrate c.tenant c.block), (12, c.clean 10, [], .queueStop c.tenant c.block)]

/-- A step is a command of a context: what it does before its own work is onContext (R365). -/
def OfContext (code : Nat) (c : Cmd) (edits : List Edit) (clean : Bool) (e : State → Result) : Prop := ∃ acc f, e = onContext code c edits clean acc f

theorem onHalted_ofContext (code : Nat) (c : Cmd) (edits : List Edit) (f : Group → State → Option State) :
    OfContext code c edits (c.clean 20) (onHalted code c edits f) := ⟨_, _, rfl⟩

theorem commandsOfContext_exec (c : Cmd) (edits : List Edit) : ∀ i ∈ commandsOfContext c edits, OfContext i.1 c i.2.2.1 i.2.1 (exec i.2.2.2) := by
  have suspend : OfContext 3 c [] (c.clean 8) (execSuspend c) := ⟨_, _, rfl⟩
  have resume : OfContext 4 c [] (c.clean 8) (execResume c) := ⟨_, _, rfl⟩
  have queueAdd : OfContext 5 c [] true (execQueueAdd c.tenant c.block) := ⟨_, _, rfl⟩
  have queueStart : OfContext 6 c [] (c.clean 10) (execQueueStart c.tenant c.block) := ⟨_, _, rfl⟩
  have queueReset : OfContext 7 c [] (c.clean 10) (execQueueReset c.tenant c.block) := ⟨_, _, rfl⟩
  have groupResume : OfContext 8 c edits (c.clean 20) (execGroupResume c.tenant c.block edits) := onHalted_ofContext 8 c edits _
  have groupAbort : OfContext 9 c [] (c.clean 20) (execGroupAbort c) := onHalted_ofContext 9 c [] _
  have migrate : OfContext 11 c [] (c.clean 10) (execMigrate c.tenant c.block) := by unfold execMigrate; exact ⟨_, _, rfl⟩
  have queueStop : OfContext 12 c [] (c.clean 10) (execQueueStop c.tenant c.block) := ⟨_, _, rfl⟩
  unfold commandsOfContext
  simp only [List.forall_mem_cons]
  exact ⟨suspend, resume, queueAdd, queueStart, queueReset, groupResume, groupAbort, migrate, queueStop, fun i hi => absurd hi List.not_mem_nil⟩

/-- CREATE, DESTROY and SET_QUANTUM look at their fields first as well. -/
theorem commands_unclean {s : State} {c : Cmd} (h : s.Takes c true) (edits : List Edit) :
    ∀ i ∈ ((1, zeros c.block 2 2, [], .create c.tenant c.block) :: (2, c.clean 8, [], .destroy c) ::
        (10, zeros c.block 2 2 && c.clean 12, [], .setQuantum c.tenant c.block) :: commandsOfContext c edits : List (Nat × Bool × List Edit × Instr)),
      i.2.1 = false → exec i.2.2.2 s = .next (s.answer i.1 c 2) := by
  simp only [List.forall_mem_cons]
  refine ⟨fun hc => (?create : execCreate c.tenant c.block s = _), fun hc => (?destroy : execDestroy c s = _),
    fun hc => (?setQuantum : execSetQuantum c.tenant c.block s = _), fun i hi hc => ?others⟩
  case create =>
    unfold execCreate
    exact onCommand_unclean h hc
  case destroy =>
    unfold execDestroy
    exact onCommand_unclean h hc
  case setQuantum =>
    unfold execSetQuantum
    exact onCommand_unclean h hc
  case others =>
    obtain ⟨acc, f, step⟩ := commandsOfContext_exec c edits i hi
    rw [step]
    exact onCommand_unclean h hc

theorem commands_unknown {s : State} {c : Cmd} (h : s.Takes c true) (edits : List Edit)
    (hx : s.ctxOf c.ctx = none ∨ ∃ x, s.ctxOf c.ctx = some x ∧ x.tenant ≠ c.tenant) :
    ∀ i ∈ (2, c.clean 8, [], .destroy c) :: commandsOfContext c edits, i.2.1 = true → exec i.2.2.2 s = .next (s.answer i.1 c 2) := by
  simp only [List.forall_mem_cons]
  refine ⟨fun hc => (?destroy : execDestroy c s = _), fun i hi hc => ?others⟩
  case destroy =>
    unfold execDestroy
    rw [onCommand_next (h.fields_clean hc)]
    obtain hx | ⟨x, hx, ht⟩ := hx
    · rw [hx]
    · rw [hx]
      exact congrArg Host.Outcome.next (if_pos ht)
  case others =>
    obtain ⟨acc, f, step⟩ := commandsOfContext_exec c edits i hi
    rw [step]
    exact onContext_unknown h hc hx

/-! ### Contexts and queues made (R361, R363, R365) -/

section
variable {s : State} {c : Cmd} {x : Context}

theorem create_unsound (h : s.Takes c (zeros c.block 2 2)) (hr : s.recordSound c.tenant c.operands = false) :
    exec (.create c.tenant c.block) s = .next (s.answer 1 c 2) := by
  show execCreate c.tenant c.block s = _
  unfold execCreate
  refine (onCommand_next h).trans (congrArg Host.Outcome.next (if_pos ?_))
  simpa using hr

/-- A context as CREATE leaves it (R363, R366). -/
def State.created (s : State) (c : Cmd) (id : Nat) : State :=
  State.answer { s with ctxs := s.ctxs.filter (·.id != id) ++ [contextOf id c.tenant c.operands] } 1 (c.put 2 (leBytes 2 id)) 0

theorem create_makes (h : s.Takes c (zeros c.block 2 2)) (hr : s.recordSound c.tenant c.operands = true)
    (hl : (s.ctxs.filter fun c => c.state != .destroyed || c.destroying).countP (·.tenant == c.tenant) <
      (s.tenants.getD c.tenant Tenant.fresh).ctxLimit)
    (hf : ∃ i < 256, ∀ c ∈ s.ctxs.filter fun c => c.state != .destroyed || c.destroying, c.id ≠ i) :
    ∃ id < 256, (∀ c ∈ s.ctxs.filter fun c => c.state != .destroyed || c.destroying, c.id ≠ id) ∧
      exec (.create c.tenant c.block) s = .next (s.created c id) := by
  have free (i : Nat) : (!(s.ctxs.filter fun c => c.state != .destroyed || c.destroying).any (·.id == i)) = true ↔
      ∀ c ∈ s.ctxs.filter fun c => c.state != .destroyed || c.destroying, c.id ≠ i := by simp
  obtain ⟨id, picked, hid, hp⟩ := filter_pick (Config.freePlace (8 * s.tick + 4)) (hf.imp fun i hi => ⟨hi.1, (free i).mpr hi.2⟩)
  refine ⟨id, hid, (free id).mp hp, (?_ : execCreate c.tenant c.block s = _)⟩
  unfold execCreate
  refine (onCommand_next h).trans (congrArg Host.Outcome.next ?_)
  refine (if_neg (by simpa using hr)).trans ((if_neg (Nat.not_le.mpr hl)).trans ?_)
  rw [picked]
  rfl

theorem CtxState.exists_of_ne {y : CtxState} (h : y ≠ .destroyed) : y.exists_ = true := by
  cases y with
  | destroyed => exact absurd rfl h
  | _ => rfl

theorem CtxState.runs_of_ne {y : CtxState} (h : y ≠ .destroyed) (hs : y ≠ .suspended) : y.runs = true := by
  cases y with
  | destroyed => exact absurd rfl h
  | suspended => exact absurd rfl hs
  | _ => rfl

theorem queueAdd_unsound (h : s.TakesFor c true x) (hx : x.state ≠ .destroyed) (hq : queueSound c.operands = false) :
    exec (.queueAdd c.tenant c.block) s = .next (s.answer 5 c 2) := by
  show execQueueAdd c.tenant c.block s = _
  unfold execQueueAdd
  refine onContext_next h (CtxState.exists_of_ne hx) (congrArg some (if_pos ?_))
  simpa using hq

theorem queueAdd_makes (h : s.TakesFor c true x) (hx : x.state ≠ .destroyed) (hq : queueSound c.operands = true)
    (hn : s.queues.length + s.nodes.length < 1024) (hf : ∃ i < 1024, ∀ q ∈ s.queues, q.num ≠ i) :
    ∃ num < 1024, (∀ q ∈ s.queues, q.num ≠ num) ∧ exec (.queueAdd c.tenant c.block) s =
      .next (State.answer { s with queues := s.queues ++ [queueFrom c.ctx num c.operands] } 5 (c.put 8 (leBytes 2 num)) 0) := by
  have free (i : Nat) : (!s.queues.any (·.num == i)) = true ↔ ∀ q ∈ s.queues, q.num ≠ i := by simp
  obtain ⟨num, picked, hi, hp⟩ := filter_pick (Config.freePlace (8 * s.tick + 5)) (hf.imp fun i hi => ⟨hi.1, (free i).mpr hi.2⟩)
  refine ⟨num, hi, (free num).mp hp, (?_ : execQueueAdd c.tenant c.block s = _)⟩
  unfold execQueueAdd
  refine onContext_next h (CtxState.exists_of_ne hx) (congrArg some ?_)
  refine (if_neg (by simpa using hq)).trans ((if_neg (Nat.not_le.mpr hn)).trans ?_)
  rw [picked]

end

/-! ### Queues and contexts run and stop (R360, R366, R367, R371) -/

section
variable {s : State} {c : Cmd} {x : Context} {y : Queue}

theorem queueStart_starts (h : s.TakesFor c (c.clean 10) x) (hq : s.queueOf c.queue = some y) (hc : y.ctx = c.ctx) (hd : x.state ≠ .destroyed)
    (hs : x.state ≠ .suspended) (hy : y.state = .stopped) : exec (.queueStart c.tenant c.block) s =
      .next (((s.updQueue c.queue fun x => { x with state := QState.idle }).updCtx c.ctx fun x =>
        { x with state := if x.state = .created then s.standing c.ctx else x.state }).answer 6 c 0) := by
  show execQueueStart c.tenant c.block s = _
  unfold execQueueStart
  exact onQueue_next h (CtxState.runs_of_ne hd hs) hq hc (by rw [hy]; rfl)

theorem queueStop_stops (h : s.TakesFor c (c.clean 10) x) (hq : s.queueOf c.queue = some y) (hc : y.ctx = c.ctx) (hd : x.state ≠ .destroyed)
    (hs : x.state ≠ .suspended) (hy : y.state = .idle ∨ y.state = .active ∨ y.state = .waiting) :
    exec (.queueStop c.tenant c.block) s = .next ((s.updQueue c.queue Queue.stopped).answer 12 c 0) := by
  show execQueueStop c.tenant c.block s = _
  unfold execQueueStop
  exact onQueue_next h (CtxState.runs_of_ne hd hs) hq hc (by obtain hy | hy | hy := hy <;> rw [hy] <;> rfl)

theorem queueReset_stops (h : s.TakesFor c (c.clean 10) x) (hq : s.queueOf c.queue = some y) (hc : y.ctx = c.ctx) (hd : x.state ≠ .destroyed)
    (hy : y.state = .error) : exec (.queueReset c.tenant c.block) s = .next ((s.updQueue c.queue Queue.stopped).answer 7 c 0) := by
  show execQueueReset c.tenant c.block s = _
  unfold execQueueReset
  exact onQueue_next h (CtxState.exists_of_ne hd) hq hc (by rw [hy]; rfl)

theorem queues_refused (h : s.TakesFor c (c.clean 10) x) (hx : x.state = .destroyed ∨ x.state = .suspended) :
    exec (.queueStart c.tenant c.block) s = .next (s.answer 6 c 1) ∧ exec (.queueStop c.tenant c.block) s = .next (s.answer 12 c 1) := by
  have halts : x.state.runs = false := by obtain hx | hx := hx <;> rw [hx] <;> rfl
  refine ⟨(?start : execQueueStart c.tenant c.block s = _), (?stop : execQueueStop c.tenant c.block s = _)⟩
  case start =>
    unfold execQueueStart
    exact onContext_refused h halts
  case stop =>
    unfold execQueueStop
    exact onContext_refused h halts

/-- SUSPEND: the queues stop, the groups are to leave, and the states of the queues are kept (R367). -/
theorem suspend_starts (h : s.TakesFor c (c.clean 8) x) (hx : x.state = .created ∨ x.state = .idle ∨ x.state = .running ∨ x.state = .faulted) :
    exec (.suspend c) s = .next ((((s.stopQueues c.ctx).clearGroups c.ctx).updCtx c.ctx fun x =>
      { x with state := .evicting, savedQueues := (s.queues.filter (·.ctx == c.ctx)).map fun q => (q.num, q.state) }).startCommand 3 c) := by
  show execSuspend c s = _
  unfold execSuspend
  exact onContext_next h (by obtain hx | hx | hx | hx := hx <;> rw [hx] <;> rfl) rfl

theorem resume_starts (h : s.TakesFor c (c.clean 8) x) (hx : x.state = .suspended) :
    exec (.resume c) s = .next ((State.updCtx { s with queues := s.queues.map fun (q : Queue) =>
      match (x.savedQueues.find? fun (y : Nat × QState) => y.1 == q.num) with
      | some y => if q.ctx = c.ctx ∧ q.state = QState.stopped then { q with state := y.2 } else q
      | none => q } c.ctx fun x => { x with state := .resuming, savedQueues := [] }).startCommand 4 c) := by
  show execResume c s = _
  unfold execResume
  exact onContext_next h (by rw [hx]; rfl) rfl

theorem suspend_resume_refused (h : s.TakesFor c (c.clean 8) x) (hx : x.state = .destroyed) :
    exec (.suspend c) s = .next (s.answer 3 c 1) ∧ exec (.resume c) s = .next (s.answer 4 c 1) := by
  refine ⟨(?suspend : execSuspend c s = _), (?resume : execResume c s = _)⟩
  case suspend =>
    unfold execSuspend
    exact onContext_refused h (by rw [hx]; rfl)
  case resume =>
    unfold execResume
    exact onContext_refused h (by rw [hx]; rfl)

/-- MIGRATE: the queues stop and the launches are split between the devices (R371). -/
theorem migrate_starts (h : s.TakesFor c (c.clean 10) x) (hx : x.state = .running ∨ x.state = .idle) (ht : c.target < 2 ^ 11) :
    exec (.migrate c.tenant c.block) s =
      .next ((((s.stopQueues c.ctx).splitAll c.ctx).updCtx c.ctx fun x => { x with migrating := some c.target }).startCommand 11 c) := by
  show execMigrate c.tenant c.block s = _
  unfold execMigrate
  exact onContext_next h (by obtain hx | hx := hx <;> rw [hx] <;> rfl) (congrArg some (if_neg (Nat.not_le.mpr ht)))

theorem migrate_refused (h : s.TakesFor c (c.clean 10) x) (hx : x.state = .destroyed) :
    exec (.migrate c.tenant c.block) s = .next (s.answer 11 c 1) := by
  show execMigrate c.tenant c.block s = _
  unfold execMigrate
  exact onContext_refused h (by rw [hx]; rfl)

end

section
variable {s : State} {ctx : Nat} {c : Context}

theorem suspendComplete_ends (hc : s.ctxOf ctx = some c) (he : c.state = .evicting) (ha : s.allAway ctx = true) :
    exec (.suspendComplete ctx) s = .next ((s.updCtx ctx fun c => { c with state := .suspended }).endCommand ctx 0 id) := by
  show execSuspendComplete ctx s = _
  simp only [execSuspendComplete, hc]
  exact congrArg Host.Outcome.next (if_pos ⟨he, ha⟩)

theorem migrateComplete_ends (hc : s.ctxOf ctx = some c) (hm : c.migrating ≠ none) (hn : s.noneLeft ctx = true) :
    exec (.migrateComplete ctx) s = .next ((s.updCtx ctx fun c => { c with migrating := none }).endCommand ctx 0 id) := by
  show execMigrateComplete ctx s = _
  simp only [execMigrateComplete, hc]
  exact congrArg Host.Outcome.next (if_pos ⟨Option.isSome_iff_ne_none.mpr hm, hn⟩)

/-- The end of a command answers it and takes up the next one of its context (R365). -/
theorem State.endCommand_answers {n status : Nat} {k : Cmd} (put : Cmd → Cmd) (hc : s.ctxOf ctx = some c) (hk : c.cmd = some (n, k)) :
    s.endCommand ctx status put = ((s.updCtx ctx fun c => { c with cmd := none }).answer n (put k) status).nextCommand ctx := by
  unfold State.endCommand
  rw [hc, Option.bind_some, hk]

end

section
variable {s : State} {c : Cmd}

theorem setQuantum_sets (h : s.Takes c (zeros c.block 2 2 && c.clean 12)) (hl : 100 ≤ c.quantum) (hu : c.quantum ≤ 100000) :
    exec (.setQuantum c.tenant c.block) s =
      .next (State.answer { s with tenants := s.tenants.modify c.tenant fun t => { t with quantum := c.quantum } } 10 c 0) := by
  show execSetQuantum c.tenant c.block s = _
  unfold execSetQuantum
  exact (onCommand_next h).trans (congrArg Host.Outcome.next (if_neg (not_or.mpr ⟨Nat.not_lt.mpr hl, Nat.not_lt.mpr hu⟩)))

theorem setQuantum_refused (h : s.Takes c (zeros c.block 2 2 && c.clean 12)) (hq : c.quantum < 100 ∨ 100000 < c.quantum) :
    exec (.setQuantum c.tenant c.block) s = .next (s.answer 10 c 2) := by
  show execSetQuantum c.tenant c.block s = _
  unfold execSetQuantum
  exact (onCommand_next h).trans (congrArg Host.Outcome.next (if_pos hq))

end

/-- Settles O44: what every command does first is said once, of onCommand and onContext, over the list of the commands; each command's own
work is then one lemma for each answer. (The model's choices: which free number is taken, log entry 25; the places of the operands, log entry
124; status 2 for an unused field, log entry 112; a created context that QUEUE_START leaves running, log entry 111.) -/
theorem contextCommands : Obligations.ContextCommands := by
  unfold Obligations.ContextCommands
  refine ⟨⟨?create, ?queueAdd, ?first⟩, ?queues, ?suspends, ?migrates, ?ends, ?quantum⟩
  case create =>
    intro s c h live
    exact ⟨create_unsound h, create_makes h⟩
  case queueAdd =>
    intro s c x h hx
    refine ⟨queueAdd_unsound h hx, fun hq hn hf => ?_⟩
    obtain ⟨num, hlt, free, made⟩ := queueAdd_makes h hx hq hn hf
    exact ⟨queueFrom c.ctx num c.operands, hlt, free, rfl, made⟩
  case first =>
    intro s c edits h onCtx
    refine ⟨commands_unclean h edits, fun hx => commands_unknown h edits hx, fun x hx ht hu hw i hi hc => ?_⟩
    obtain ⟨acc, f, step⟩ := commandsOfContext_exec c edits i hi
    rw [step]
    exact onContext_waits h hc hx ht hu hw
  case queues =>
    intro s c x y h hq hc
    exact ⟨queueStart_starts h hq hc, queueStop_stops h hq hc, queueReset_stops h hq hc, queues_refused h⟩
  case suspends => exact fun s c x h => ⟨suspend_starts h, resume_starts h, suspend_resume_refused h⟩
  case migrates => exact fun s c x h => ⟨migrate_starts h, migrate_refused h⟩
  case ends =>
    exact fun s ctx c hc => ⟨suspendComplete_ends hc, migrateComplete_ends hc, fun n k status put hk => State.endCommand_answers put hc hk⟩
  case quantum => exact fun s c h => ⟨setQuantum_sets h, setQuantum_refused h⟩

end Sys2Proof.Machine
end

section
/-!
ENDINGS. How a halted group is resumed or aborted, how a context is destroyed, and split launches (18_context.md R368..R371).
-/
namespace Sys2Proof.Machine

/-! ### Halted groups (R368) -/

section
variable {s u w : State} {c : Cmd} {x : Context} {g : Group} {im : List Byte} {edits : List Edit}

/-- A halted group whose image is as the device holds it, but for what the host may change, returns to dispatch with the edits (R368). -/
theorem groupResume_returns (h : s.TakesFor c (c.clean 20) x) (hx : x.state = .faulted) (hg : s.groupOf c.group = some g) (hh : g.status = .halted)
    (hr : s.fwGet c.ctx g.image (g.desc.imageSize + g.returnSpace) = some (im, u)) (hu : g.unchanged im = true) :
    exec (.groupResume c.tenant c.block edits) s =
      .next ((((State.putImage { u with g := g.edited im edits }).putGroup
        (State.putImage { u with g := g.edited im edits }).g).unfault c.ctx).answer 8 c 0) := by
  show execGroupResume c.tenant c.block edits s = _
  unfold execGroupResume
  refine onHalted_next h hx hg hh ?_
  rw [show s.fwGet c.ctx g.image (g.desc.imageSize + g.returnSpace) = some (im, u) from hr, Option.map_some]
  exact congrArg some (if_neg (by simpa using hu))

theorem groupResume_refused (h : s.TakesFor c (c.clean 20) x) (hx : x.state = .faulted) (hg : s.groupOf c.group = some g) (hh : g.status = .halted)
    (hr : s.fwGet c.ctx g.image (g.desc.imageSize + g.returnSpace) = some (im, u)) (hu : g.unchanged im = false) :
    exec (.groupResume c.tenant c.block edits) s = .next (u.answer 8 c 2) := by
  show execGroupResume c.tenant c.block edits s = _
  unfold execGroupResume
  refine onHalted_next h hx hg hh ?_
  rw [show s.fwGet c.ctx g.image (g.desc.imageSize + g.returnSpace) = some (im, u) from hr, Option.map_some]
  exact congrArg some (if_pos (by simpa using hu))

/-- A group's discarded state, its launch aborted and its pending records dropped (R368). -/
def State.groupAborted (s : State) (c : Cmd) (g : Group) : State :=
  let t := State.retireGroup { s with g := g.discarded }
  ((t.putGroup t.g).dropPending c.ctx c.group.seq).updLaunch c.ctx c.group.seq fun l => { l with aborted := true }

theorem groupAbort_ends (h : s.TakesFor c (c.clean 20) x) (hx : x.state = .faulted) (hg : s.groupOf c.group = some g) (hh : g.status = .halted)
    (hw : (s.groupAborted c g).abortRecord c.ctx c.group.seq = some w) : exec (.groupAbort c) s = .next ((w.unfault c.ctx).answer 9 c 0) := by
  show execGroupAbort c s = _
  unfold execGroupAbort
  refine onHalted_next h hx hg hh ?_
  show ((s.groupAborted c g).abortRecord c.ctx c.group.seq).map _ = _
  rw [hw]
  rfl

end

/-! ### Contexts destroyed (R369) -/

section
variable {s : State} {c : Cmd} {x : Context} {ctx : Nat}

/-- DESTROY: the commands of the context end, its queues and its groups stop, and its own command is under way (R369). -/
theorem destroy_starts (h : s.Takes c (c.clean 8)) (hx : s.ctxOf c.ctx = some x) (ht : x.tenant = c.tenant) (hd : x.state ≠ .destroyed)
    (hs : x.destroying = false) :
    let u := (s.abortCommands x).stopQueues c.ctx
    exec (.destroy c) s =
      .next (((State.updCtx { u with groups := u.groups.map fun (g : Group) => if g.ref.ctx = c.ctx then g.destroyed else g } c.ctx fun x =>
        { x with state := .destroyed, destroying := true, migrating := none, heldTraps := [], lost := 0 }).startCommand 2 c).moveAbsent x) := by
  intro u
  show execDestroy c s = _
  unfold execDestroy
  rw [onCommand_next h, hx]
  exact congrArg Host.Outcome.next ((if_neg (not_not.mpr ht)).trans (if_neg (by simp [hs, hd])))

/-- A context is changed where it stands, by a change that keeps its number. -/
theorem State.ctxOf_updCtx {f : Context → Context} (hf : ∀ y, (f y).id = y.id) (hx : s.ctxOf ctx = some x) : (s.updCtx ctx f).ctxOf ctx = some (f x) := by
  have keys : ((fun y : Context => y.id == ctx) ∘ fun y => if y.id = ctx then f y else y) = fun y => y.id == ctx := by
    funext y
    simp only [Function.comp_apply]
    split <;> simp [hf y]
  have here : x.id = ctx := by simpa using List.find?_some hx
  unfold State.ctxOf State.updCtx at *
  rw [List.find?_map, keys, hx, Option.map_some, if_pos here]

/-- A context with no command that waits has no next one to take up. -/
theorem State.nextCommand_none (hx : s.ctxOf ctx = some x) (hw : x.waiting = []) : s.nextCommand ctx = s := by
  have none_waits : ((s.ctxOf ctx).bind fun c => if c.cmd.isSome then none else c.waiting.head?) = none := by
    rw [hx, Option.bind_some, hw]
    exact ite_self none
  unfold State.nextCommand
  rw [none_waits]

/-- A context with no command that waits, and with none under way. -/
def Context.unwaited (x : Context) : Context := { x with waiting := [] }

def Context.unbusy (x : Context) : Context := { x with cmd := none }

/-- DESTROY ends the command that is under way, and then those that wait, with status 4 (R369). -/
theorem State.abortCommands_ends {n : Nat} {k : Cmd} (hx : s.ctxOf x.id = some x) (hk : x.cmd = some (n, k)) :
    s.abortCommands x = x.waiting.foldl (fun t y => t.answer y.code y.cmd 4)
      (((s.updCtx x.id Context.unwaited).updCtx x.id Context.unbusy).answer n k 4) := by
  have clear : (s.updCtx x.id Context.unwaited).ctxOf x.id = some x.unwaited := State.ctxOf_updCtx (fun _ => rfl) hx
  have idle : (((s.updCtx x.id Context.unwaited).updCtx x.id Context.unbusy).answer n k 4).ctxOf x.id = some x.unwaited.unbusy :=
    State.ctxOf_updCtx (fun _ => rfl) clear
  have ends : (s.updCtx x.id Context.unwaited).endCommand x.id 4 id = ((s.updCtx x.id Context.unwaited).updCtx x.id Context.unbusy).answer n k 4 :=
    (State.endCommand_answers id clear hk).trans (State.nextCommand_none idle rfl)
  exact congrArg (x.waiting.foldl fun t y => t.answer y.code y.cmd 4) ends

theorem State.abortCommands_idle (hx : s.ctxOf x.id = some x) (hk : x.cmd = none) (hw : x.waiting = []) :
    s.abortCommands x = s.updCtx x.id fun c => { c with waiting := [] } := by
  have clear : (s.updCtx x.id fun c => { c with waiting := [] }).ctxOf x.id = some { x with waiting := [] } :=
    State.ctxOf_updCtx (f := fun c => { c with waiting := [] }) (fun _ => rfl) hx
  unfold State.abortCommands State.endCommand
  rw [clear, Option.bind_some, hk, hw]
  rfl

/-- DESTROY completes once everything of the context has landed: all that it owns goes, and its lost records are told (R369). -/
theorem destroyComplete_ends (hx : s.ctxOf ctx = some x) (hd : x.destroying = true) (hl : s.allLanded ctx = true) :
    let u := (s.moveAbsent x).purge ctx
    exec (.destroyComplete ctx) s =
      .next ((State.updCtx { u with
        groups := u.groups.filter (·.ref.ctx != ctx), launches := u.launches.filter (·.ctx != ctx),
        nodes := u.nodes.filter (·.ctx != ctx), queues := u.queues.filter (·.ctx != ctx) } ctx fun c =>
          { c with destroying := false, poolUsed := [] }).endCommand ctx 0 fun k =>
            k.put 8 (leBytes 4 (((u.ctxOf ctx).map (·.lost)).getD 0))) := by
  intro u
  show execDestroyComplete ctx s = _
  simp only [execDestroyComplete, hx]
  exact congrArg Host.Outcome.next (if_pos ⟨hd, hl⟩)

end

/-! ### Split launches (R371) -/

/-- A launch that another device has split arrives with the groups that this one is to run (R371). -/
theorem splitLaunchArrival_arrives {s : State} {ctx : Nat} {c : Context} {x : SplitLaunch} (hc : s.ctxOf ctx = some c) (hd : c.state ≠ .destroyed)
    (hl : s.launchOf ctx x.seq = none) :
    ∃ t l, exec (.splitLaunchArrival ctx x) s = .next t ∧ t.launches = s.launches ++ [l] ∧ l.ctx = ctx ∧ l.seq = x.seq ∧
      l.only = some (sortBy (fun a b => decide (a ≤ b)) x.groups) ∧ l.desc = descOf x.desc := by
  have fresh : ¬(c.state = .destroyed ∨ (s.launchOf ctx x.seq).isSome = true) := by simp [hd, hl]
  show ∃ t l, execSplitLaunchArrival ctx x s = .next t ∧ _
  simp only [execSplitLaunchArrival, hc]
  rw [if_neg fresh]
  exact ⟨_, _, rfl, rfl, rfl, rfl, rfl, rfl⟩

/-- Settles O45: the two commands of a halted group by onHalted, DESTROY by what its commands are answered, and its completion and a split
launch by their own branches. (The model's choices: that queues, nodes and launches go when DESTROY completes, log entry 57; where the pending
absent-fault records go and when they are lost, log entries 51, 54 and 56; what the edits change, log entry 78.) -/
theorem contextEndings : Obligations.ContextEndings := by
  unfold Obligations.ContextEndings
  refine ⟨fun s c x g h hx hg hh => ⟨?resume, ?abort⟩, fun s c x h hx ht hd hs => ⟨?destroy, ?ends, ?idle⟩, fun s ctx c hc => ⟨?gone, ?arrival⟩,
    fun s ctx seq => rfl⟩
  case resume =>
    exact fun edits im u hr => ⟨fun hu => ⟨⟨rfl, rfl, rfl⟩, groupResume_returns h hx hg hh hr hu⟩, fun hu => groupResume_refused h hx hg hh hr hu⟩
  case abort =>
    intro t v l q r u w hl hq hc hr hw
    refine groupAbort_ends h hx hg hh ?_
    rw [← hc] at hl
    have record : v.abortRecord q.ctx c.group.seq = some w := (abortRecord_eq hl hq hr).trans hw
    rwa [hc] at record
  case destroy => exact destroy_starts h hx ht hd hs
  case ends =>
    have here : x.id = c.ctx := by simpa using List.find?_some hx
    exact fun n k hk => State.abortCommands_ends (here ▸ hx) hk
  case idle =>
    have here : x.id = c.ctx := by simpa using List.find?_some hx
    exact fun hk hw => State.abortCommands_idle (here ▸ hx) hk hw
  case gone => exact fun hd hl => destroyComplete_ends hc hd hl
  case arrival => exact fun x hd hl => splitLaunchArrival_arrives hc hd hl

end Sys2Proof.Machine
end

section
/-!
PAGES. How the memory manager brings a page in, and how an invalidation begins and completes (19_page.md R378..R380).
-/
namespace Sys2Proof.Machine

/-! ### A page brought in (R378, R379) -/

section
variable {s : State} {tenant size pa : Nat}

theorem State.firstPlace_none {used : List (Nat × Nat)} (h : ∀ pa, s.placeFree tenant used size pa ≠ true) (n pa : Nat) :
    s.firstPlace tenant used size pa n = none := by
  induction n generalizing pa with
  | zero => rfl
  | succ n ih => exact (if_neg (h pa)).trans (ih (pa + size))

/-- A place that is free is one of those that the search tries (R378). -/
theorem State.pickPlace_free (hz : 0 < size) (ha : pa % size = 0) (hf : s.placeFree tenant (s.tenantUses tenant) size pa = true) :
    ∃ pa, s.pickPlace tenant size = some pa ∧ s.placeFree tenant (s.tenantUses tenant) size pa = true := by
  by_cases want : s.placeFree tenant (s.tenantUses tenant) size (Config.freePlace (8 * s.tick + 6)) = true
  · exact ⟨_, if_pos want, want⟩
  · have fits : pa + size ≤ hbmEnd := by
      simp only [State.placeFree, Bool.and_eq_true, decide_eq_true_eq] at hf
      exact hf.1.1.1.2
    have tried : pa / size < hbmEnd / size := by
      have := Nat.div_le_div_right (c := size) fits
      rw [Nat.add_div_right pa hz] at this
      exact this
    have there : s.placeFree tenant (s.tenantUses tenant) size (0 + size * (pa / size)) = true := by
      rwa [Nat.zero_add, Nat.mul_div_cancel' (Nat.dvd_of_mod_eq_zero ha)]
    obtain ⟨found, hp, free⟩ := firstPlace_some s tenant (s.tenantUses tenant) size (hbmEnd / size) 0 (pa / size) tried there
    exact ⟨found, (if_neg want).trans hp, free⟩

theorem State.pickPlace_none (h : ∀ pa, s.placeFree tenant (s.tenantUses tenant) size pa ≠ true) : s.pickPlace tenant size = none :=
  (if_neg (h _)).trans (State.firstPlace_none h _ _)

theorem levelSize_pos (level : Nat) : 0 < levelSize level := Nat.two_pow_pos _

theorem State.copyingIn_still (hm : s.moving = none) (pa n : Nat) : s.copyingIn pa n = false := by
  unfold State.copyingIn
  rw [hm]

end

section
variable {s : State} {ctx va ea level : Nat}

/-- An absent page that an access or the firmware stands at: the memory manager may bring it in (R378). -/
structure State.Absent (s : State) (ctx va ea level : Nat) : Prop where
  away : s.walk ctx va = .away ea level
  still : s.copying ea = false
  wanted : s.awaiting ctx (va / levelSize level * levelSize level) (levelSize level) ≠ [] ∨ s.firmwareAwaits ctx va = true

theorem State.Absent.due (h : s.Absent ctx va ea level) :
    ¬(s.copying ea = true ∨
      (s.awaiting ctx (va / levelSize level * levelSize level) (levelSize level)).isEmpty = true ∧ (!s.firmwareAwaits ctx va) = true) := by
  obtain ⟨-, still, wanted⟩ := h
  rintro (busy | ⟨empty, off⟩)
  · exact Bool.false_ne_true (still.symm.trans busy)
  · obtain waits | firmware := wanted
    · exact waits (List.isEmpty_iff.mp empty)
    · rw [firmware] at off
      exact Bool.false_ne_true off

/-- A page with no backing: its entry is cleared (R378). -/
theorem pageBringIn_unbacked (h : s.Absent ctx va ea level) : exec (.pageBringIn ctx va none) s =
    .next (s.putEntry ea (BitVec.ofNat 64 (leNat (s.homeRead ea 8)) &&& ~~~(0x9#64))).flushHeld := by
  show execPageBringIn ctx va none s = _
  simp only [execPageBringIn, h.away]
  exact congrArg Host.Outcome.next (if_neg h.due)

theorem pageBringIn_full {bs : List Byte} (h : s.Absent ctx va ea level) (hp : s.pickPlace (s.tenantOf ctx) (levelSize level) = none) :
    exec (.pageBringIn ctx va (some bs)) s =
      .next (s.noRoom ctx ea (va / levelSize level * levelSize level) (levelSize level)).flushHeld := by
  show execPageBringIn ctx va (some bs) s = _
  simp only [execPageBringIn, h.away, hp]
  exact congrArg Host.Outcome.next (if_neg h.due)

/-- A page as the memory manager writes it at a place, its entry mapping it (R378). -/
def State.broughtIn (s : State) (ctx ea level pa : Nat) (bs : List Byte) : State :=
  let e : DWord := BitVec.ofNat 64 (leNat (s.homeRead ea 8))
  let t := s.homeStore noCore (pteKey e) (cellsAt pa ((bs ++ List.replicate (levelSize level) 0).take (levelSize level)))
  State.flushHeld { t.putEntry ea ((e &&& ~~~(0x000FFFFFFFFFF000#64)) ||| BitVec.ofNat 64 pa ||| 0x21#64) with
    tick := t.tick + 1, noPage := t.noPage.filter fun x => !(x.ctx == ctx && x.entry == ea) }

theorem pageBringIn_placed {bs : List Byte} {pa : Nat} (h : s.Absent ctx va ea level)
    (hp : s.pickPlace (s.tenantOf ctx) (levelSize level) = some pa) (hm : s.moving = none) :
    exec (.pageBringIn ctx va (some bs)) s = .next (s.broughtIn ctx ea level pa bs) := by
  show execPageBringIn ctx va (some bs) s = _
  simp only [execPageBringIn, h.away, hp, State.copyingIn_still hm]
  exact congrArg Host.Outcome.next (if_neg h.due)

end

/-! ### Invalidation (R380) -/

section
variable {s u : State} {tenant : Nat} {req : List Byte} {x : Invalid}

/-- An invalidation request as the device holds it. -/
def invalidOf (tenant : Nat) (req : List Byte) : Invalid :=
  { tenant := tenant, ctx := field req 12 2, va := field req 0 8, pages := field req 8 4, compVa := field req 16 8, value := field req 24 8,
    removed := false }

/-- A sound invalidation request (R380). -/
def State.invalidSound (s : State) (tenant : Nat) (req : List Byte) : Bool :=
  field req 0 8 / 2 ^ 48 == 0 && field req 0 8 % 4096 == 0 && zeros req 14 2 && field req 16 8 % 8 == 0 &&
    s.ctxs.any fun c => c.id == field req 12 2 && c.tenant == tenant && c.state != .destroyed

theorem State.invalidSound_iff : s.invalidSound tenant req = true ↔ field req 0 8 < 2 ^ 48 ∧ field req 0 8 % 4096 = 0 ∧ zeros req 14 2 = true ∧
    field req 16 8 % 8 = 0 ∧ ∃ c ∈ s.ctxs, c.id = field req 12 2 ∧ c.tenant = tenant ∧ c.state ≠ .destroyed := by
  simp [State.invalidSound, Nat.div_eq_zero_iff, and_assoc]

theorem invalidationRequest_unsound (he : (s.tenants.getD tenant Tenant.fresh).enabled = true) (hs : s.invalidSound tenant req = false) :
    exec (.invalidationRequest tenant req) s = .next (s.hostRecord tenant req) := by
  show execInvalidationRequest tenant req s = _
  unfold execInvalidationRequest
  rw [if_neg (by rw [he]; exact Bool.false_ne_true)]
  exact congrArg Host.Outcome.next (if_pos (congrArg (! ·) hs))

theorem invalidationRequest_sound (he : (s.tenants.getD tenant Tenant.fresh).enabled = true) (hs : s.invalidSound tenant req = true) :
    exec (.invalidationRequest tenant req) s = .next (State.startInvalid { s with invalid := s.invalid ++ [invalidOf tenant req] } tenant) := by
  show execInvalidationRequest tenant req s = _
  unfold execInvalidationRequest
  rw [if_neg (by rw [he]; exact Bool.false_ne_true)]
  exact congrArg Host.Outcome.next (if_neg (show ¬(!s.invalidSound tenant req) = true by rw [hs]; exact Bool.false_ne_true))

/-- A tenant's only request begins at once: what it names leaves every cache (R380). -/
theorem State.startInvalid_first (hx : x.tenant = tenant) (hr : x.removed = false) (h : ∀ y ∈ s.invalid, y.tenant ≠ tenant) :
    State.startInvalid { s with invalid := s.invalid ++ [x] } tenant =
      { State.dropNamed { s with invalid := s.invalid ++ [x] } x with
        invalid := (s.invalid ++ [x]).map fun y => if y = x then { y with removed := true } else y } := by
  have found : (s.invalid ++ [x]).find? (·.tenant == tenant) = some x := by
    rw [List.find?_append, List.find?_eq_none.mpr (by simpa using h)]
    simp [hx]
  unfold State.startInvalid
  simp only [found, hr]
  rfl

/-- Nothing that a request names is left in a cache (R380). -/
theorem State.dropNamed_clears (s : State) (x : Invalid) :
    (∀ k ∈ (s.dropNamed x).cores, ∀ u ∈ k.tlb, x.names u.ctx u.va u.size = false) ∧
    (∀ k ∈ (s.dropNamed x).cores, ∀ l ∈ k.icache, x.names l.ctx l.va 128 = false) ∧
    ∀ d ∈ (s.dropNamed x).dies, ∀ u ∈ d.tlb, x.names u.ctx u.va u.size = false := by
  unfold State.dropNamed
  refine ⟨fun k hk u hu => ?_, fun k hk l hl => ?_, fun d hd u hu => ?_⟩
  · obtain ⟨k, -, rfl⟩ := List.mem_map.mp hk
    simpa using (List.mem_filter.mp hu).2
  · obtain ⟨k, -, rfl⟩ := List.mem_map.mp hk
    simpa using (List.mem_filter.mp hl).2
  · obtain ⟨d, -, rfl⟩ := List.mem_map.mp hd
    simpa using (List.mem_filter.mp hu).2

/-- An invalidation completes once every core's dirty bytes are written back and its value is stored (R380; log entry 60). -/
theorem invalidationComplete_ends {bs : List Byte} {h : List Tlb} (hx : (s.invalid.find? (·.tenant == tenant)) = some x) (hr : x.removed = true)
    (hn : s.heldNamed x = false) (ha : s.acked noCore = true) (hp : ∀ p ∈ s.writeBackCores.parked, p.core = noCore ∨ p.core = noCore + 1)
    (hu : s.writeBackCores.fwWrite x.ctx x.compVa (leBytes 8 x.value) = .ok bs h u) :
    exec (.invalidationComplete tenant) s = .next (State.startInvalid { u with invalid := u.invalid.erase x } tenant) := by
  have landed : (s.writeBackCores.parked.any fun p => p.core != noCore && p.core != noCore + 1) = false := by
    rw [List.any_eq_false]
    intro p hmem
    obtain hc | hc := hp p hmem <;> simp [hc]
  show execInvalidationComplete tenant s = _
  unfold execInvalidationComplete
  rw [hx]
  refine congrArg Host.Outcome.next ((if_neg (by simp [hr, hn, ha])).trans ((if_neg (landed ▸ Bool.false_ne_true)).trans ?_))
  rw [hu]

end

/-- Settles O46: a page by whether a place for it is found, a request by whether it is sound, and a completion once its value is stored. (The
model's choices: which free place is taken, log entry 23; that every core's dirty bytes are written back, log entry 60.) -/
theorem pageEvents : Obligations.PageEvents := by
  unfold Obligations.PageEvents
  refine ⟨?pages, ?requests, fun s tenant x bs h u hx hr hn ha hp hu => invalidationComplete_ends hx hr hn ha hp hu⟩
  case pages =>
    intro s ctx va ea level hw hc base hwait e free
    have absent : s.Absent ctx va ea level := ⟨hw, hc, hwait⟩
    refine ⟨pageBringIn_unbacked absent, fun bs hm ⟨pa, ha, hf⟩ => ?_, fun bs hf => pageBringIn_full absent (State.pickPlace_none hf)⟩
    obtain ⟨place, hp, hfree⟩ := State.pickPlace_free (levelSize_pos level) ha hf
    exact ⟨place, hfree, pageBringIn_placed absent hp hm⟩
  case requests =>
    intro s tenant req he
    refine ⟨fun h => invalidationRequest_unsound he ?_, fun h1 h2 h3 h4 h5 hn => ?_⟩
    · rw [Bool.eq_false_iff, Ne, State.invalidSound_iff]
      rintro ⟨h1, h2, h3, h4, c, hmem, hid, ht, hd⟩
      obtain h | h | h | h | h := h
      · exact Nat.not_le.mpr h1 h
      · exact h h2
      · exact Bool.false_ne_true (h.symm.trans h3)
      · exact h h4
      · exact hd (h c hmem hid ht)
    · have sound : s.invalidSound tenant req = true := State.invalidSound_iff.mpr ⟨h1, h2, h3, h4, h5⟩
      refine ⟨_, (invalidationRequest_sound he sound).trans (congrArg Host.Outcome.next (State.startInvalid_first rfl rfl hn)),
        ⟨{ invalidOf tenant req with removed := true }, ?_, rfl⟩, State.dropNamed_clears _ (invalidOf tenant req)⟩
      exact List.mem_map.mpr ⟨invalidOf tenant req, by simp, if_pos rfl⟩

end Sys2Proof.Machine
end

section
/-!
LINKS. How a port comes up and goes off, how flits are taken, and what an operation of another device does at its home (20_link.md R392..R396).
-/
namespace Sys2Proof.Machine

/-! ### Identity and ports (R392, R394) -/

section
variable {s : State} {p : Nat}

theorem linkId_given {id : BitVec 11} (hb : s.switor.boot = 0x10) (hi : s.links.identity = none) :
    exec (.linkId id) s = .next { s with links := { s.links with identity := some id.toNat } } := by
  have ready : s.ready = true := beq_iff_eq.mpr hb
  exact congrArg Host.Outcome.next ((if_pos ready).trans (if_pos hi))

theorem linkId_kept {id : BitVec 11} (hi : s.links.identity ≠ none) : exec (.linkId id) s = .next s := by
  have kept : s.giveIdentity id.toNat = s := if_neg hi
  exact congrArg Host.Outcome.next ((ite_congr rfl (fun _ => kept) fun _ => rfl).trans (ite_self s))

theorem portEnable_trains (hb : s.switor.boot = 0x10) (hi : s.links.identity ≠ none) (hp : (s.portAt p).state = .off) :
    exec (.portEnable p) s = .next (s.updPort p fun q =>
      { q with state := .training, attempts := 0, conflict := false, gaveUp := false, strands := 0, sendSeq := 0, recvSeq := 0,
               replay := [], sentAt := [], nakAt := [], answered := none }) :=
  congrArg Host.Outcome.next (if_pos ⟨beq_iff_eq.mpr hb, Option.isSome_iff_ne_none.mpr hi, hp⟩)

theorem portTrained_conflict {m : Nat} (hp : (s.portAt p).state = .training) :
    exec (.portTrained p m true) s = .next (s.updPort p fun q => { q with conflict := true }) :=
  congrArg Host.Outcome.next ((if_neg (not_not.mpr hp)).trans (if_pos rfl))

/-- A port that trains without a conflict comes up by the count of its strands that no record retires (R394). -/
theorem portTrained_counts {m : Nat} (hp : (s.portAt p).state = .training) :
    let x := BitVec.ofNat 8 m &&& ~~~(s.barred p)
    exec (.portTrained p m false) s = .next (
      if strandCount x = 8 then ((s.updPort p fun q => { q with state := .up, strands := x, conflict := false }).routesUp p).sendWaiting
      else if 4 ≤ strandCount x then
        ((s.updPort p fun q => { q with state := .degraded, strands := x, conflict := false }).routesUp p).sendWaiting
      else s.updPort p fun q =>
        { q with attempts := q.attempts + 1, state := if 2 ≤ q.attempts then .off else .training, gaveUp := decide (2 ≤ q.attempts) }) :=
  congrArg Host.Outcome.next ((if_neg (not_not.mpr hp)).trans (if_neg Bool.false_ne_true))

theorem portRetrain_up (hb : s.switor.boot = 0x10) (hp : (s.portAt p).state = .degraded) :
    exec (.portRetrain p true) s = .next (s.updPort p fun q => { q with state := .up, strands := 0xFF }) :=
  congrArg Host.Outcome.next (if_pos ⟨beq_iff_eq.mpr hb, rfl, hp⟩)

theorem Port.live_iff {q : Port} : q.live = true ↔ q.state = .up ∨ q.state = .degraded := by simp [Port.live]

theorem portDisable_drains (hb : s.switor.boot = 0x10) (hp : (s.portAt p).state = .up ∨ (s.portAt p).state = .degraded) :
    exec (.portDisable p) s = .next (s.drainPort p) :=
  congrArg Host.Outcome.next (if_pos ⟨beq_iff_eq.mpr hb, Port.live_iff.mpr hp⟩)

/-- What waits for a live route stays (R396). -/
theorem State.loseWaiting_live (h : ∀ x ∈ s.links.waiting, s.routePort x.1 ≠ none) : s.loseWaiting = s := by
  have dead : s.links.waiting.filter (fun x => (s.routePort x.1).isNone) = [] := by
    simpa [List.filter_eq_nil_iff] using h
  have kept : s.links.waiting.filter (fun x => !(s.routePort x.1).isNone) = s.links.waiting := by
    simpa [List.filter_eq_self, Option.isSome_iff_ne_none] using h
  unfold State.loseWaiting
  simp only [dead, kept, List.foldl_nil]

theorem portDrained_off (hp : (s.portAt p).state = .draining) (hr : (s.portAt p).replay = []) :
    exec (.portDrained p) s = .next ((s.updPort p fun q => { q with state := .off, strands := 0 }).routesDown p) :=
  congrArg Host.Outcome.next (if_pos ⟨hp, List.isEmpty_iff.mpr hr⟩)

theorem portDrained_waits (hr : (s.portAt p).replay ≠ []) : exec (.portDrained p) s = .next s :=
  congrArg Host.Outcome.next (if_neg fun h => hr (List.isEmpty_iff.mp h.2))

/-- The record of a strand that retires, and the host told of it (R394, R410). -/
def State.strandNoted (u : State) (p i : Nat) : State :=
  { u with flash := u.flash.retire (BitVec.ofNat 64 (8 + 2 ^ 8 * p + 2 ^ 32 * i)) u.time.toNat,
           switor := { u.switor with cause := u.switor.cause ||| 1 } }

/-- A strand that fails too often retires: its port goes on with the others, or drains where fewer than four are left (R394). -/
theorem strandRetire_drops {i : Nat} (hp : (s.portAt p).state = .up ∨ (s.portAt p).state = .degraded) (hi : i < 8)
    (hs : (s.portAt p).strands.getLsbD i = true) (hb : (s.portAt p).strandBad s.time.toNat i = true) :
    let x := (s.portAt p).strands &&& ~~~(BitVec.twoPow 8 i)
    let t := s.updPort p fun q => { q with strands := x, state := .degraded }
    exec (.strandRetire p i) s = .next ((if strandCount x < 4 then t.drainPort p else t).strandNoted p i) := by
  have retires : ((s.portAt p).live && decide (i < 8) && (s.portAt p).strands.getLsbD i && (s.portAt p).strandBad s.time.toNat i) = true := by
    rw [Port.live_iff.mpr hp, decide_eq_true hi, hs, hb]
    rfl
  exact congrArg Host.Outcome.next (if_pos retires)

end

/-! ### Flits (R393) -/

section
variable {s : State} {p : Nat} {seq : BitVec 16} {ack : Option (BitVec 16)} {body : Option Flit}

/-- A flit's acknowledgement taken up, what waits for a place then sent (R393). -/
def State.ackTaken (s : State) (p : Nat) (ack : Option (BitVec 16)) : State :=
  State.sendWaiting (match ack with | some n => s.updPort p (·.ackTo n) | none => s)

/-- A flit that is the next one counted and acknowledged (R393). -/
def State.flitCounted (s : State) (p : Nat) : State :=
  s.updPort p fun q => { q with recvSeq := q.recvSeq + 1, answered := some (true, q.recvSeq + 1) }

theorem Port.takes_iff {q : Port} : (q.live || q.state == .draining) = true ↔ q.state = .up ∨ q.state = .degraded ∨ q.state = .draining := by
  simp [Port.live, or_assoc]

theorem Port.takes (h : (s.portAt p).state = .up ∨ (s.portAt p).state = .degraded ∨ (s.portAt p).state = .draining) :
    ¬(!((s.portAt p).live || (s.portAt p).state == .draining)) = true := by
  rw [Port.takes_iff.mpr h]
  exact Bool.false_ne_true

theorem flitReceive_bad (h : (s.portAt p).state = .up ∨ (s.portAt p).state = .degraded ∨ (s.portAt p).state = .draining) :
    exec (.flitReceive p seq false ⟨ack, body⟩) s = .next (s.updPort p fun q => { q with answered := some (false, q.recvSeq) }) :=
  congrArg Host.Outcome.next ((if_neg (Port.takes h)).trans (if_pos rfl))

/-- A flit that is not the next one is a duplicate or has the next one asked for again (R393; log entry 62). -/
theorem flitReceive_other (h : (s.portAt p).state = .up ∨ (s.portAt p).state = .degraded ∨ (s.portAt p).state = .draining)
    (hn : seq ≠ (s.portAt p).recvSeq) : exec (.flitReceive p seq true ⟨ack, body⟩) s =
      .next ((s.ackTaken p ack).updPort p fun q => { q with answered := some (decide ((q.recvSeq - seq).toNat < 2 ^ 15), q.recvSeq) }) :=
  congrArg Host.Outcome.next ((if_neg (Port.takes h)).trans ((if_neg (by simp)).trans (if_pos hn)))

theorem flitReceive_empty (h : (s.portAt p).state = .up ∨ (s.portAt p).state = .degraded ∨ (s.portAt p).state = .draining) :
    exec (.flitReceive p (s.portAt p).recvSeq true ⟨ack, none⟩) s = .next ((s.ackTaken p ack).flitCounted p) :=
  congrArg Host.Outcome.next ((if_neg (Port.takes h)).trans ((if_neg (by simp)).trans (if_neg (not_not.mpr rfl))))

theorem flitReceive_taken {x : Flit} {u : State}
    (h : (s.portAt p).state = .up ∨ (s.portAt p).state = .degraded ∨ (s.portAt p).state = .draining)
    (hu : (s.ackTaken p ack).takeFlit x = some u) :
    exec (.flitReceive p (s.portAt p).recvSeq true ⟨ack, some x⟩) s = .next (u.flitCounted p) := by
  have taken : (((s.ackTaken p ack).takeFlit x).map (·.flitCounted p)).getD (s.ackTaken p ack) = u.flitCounted p := by
    rw [hu]
    rfl
  exact congrArg Host.Outcome.next ((if_neg (Port.takes h)).trans ((if_neg (by simp)).trans ((if_neg (not_not.mpr rfl)).trans taken)))

/-- A negative acknowledgement of a flit in the replay buffer leaves it and the later ones to be sent again (R393). -/
theorem flitNak_replays {strand : Nat} (h : ∃ x ∈ (s.portAt p).replay, x.1 = seq) : exec (.flitNak p ⟨seq, strand⟩) s =
    .next (s.updPort p fun q => { q.ackTo seq with nakAt := q.nakAt ++ [(strand, s.time.toNat)] }).sendWaiting :=
  congrArg Host.Outcome.next (if_pos (by simpa using h))

theorem flitNak_unknown {strand : Nat} (h : ∀ x ∈ (s.portAt p).replay, x.1 ≠ seq) : exec (.flitNak p ⟨seq, strand⟩) s = .next s :=
  congrArg Host.Outcome.next (if_neg (by rw [Bool.not_eq_true, List.any_eq_false]; simpa using h))

end

/-! ### Operations at their home (R395, R396, R416) -/

section
variable {s : State} {x : RemoteOp}

theorem remoteOperation_forwarded (h : s.links.identity ≠ some x.target) :
    exec (.remoteOperation x) s = .next (s.sendFlit x.target (.op x)).loseWaiting :=
  congrArg (fun o : Option State => Host.Outcome.next (o.getD s)) (if_pos h)

theorem remoteOperation_home (h : s.links.identity = some x.target) : exec (.remoteOperation x) s =
    .next (((s.performRemote x).map fun t => t.1.sendFlit x.source (.done x.source x.number t.2)).getD s) :=
  congrArg (fun o : Option State => Host.Outcome.next (o.getD s)) (if_neg (not_not.mpr h))

theorem State.performRemote_again {y : (Nat × Nat) × LinkAnswer} (hy : (s.links.performed.find? fun y => y.1 == (x.source, x.number)) = some y) :
    s.performRemote x = some (s, y.2) := by
  unfold State.performRemote
  rw [hy]

/-- An operation performed once, and kept with its answer (R396). -/
theorem State.performRemote_first (hf : ∀ y ∈ s.links.performed, y.1 ≠ (x.source, x.number)) (hc : s.copyingIn x.pa (opLength x.kind) = false)
    {t : State} {a : LinkAnswer} (ht : s.performHome x = (t, a)) : s.performRemote x =
      some ({ t with links := { t.links with performed := ((x.source, x.number), a) :: t.links.performed } }, a) := by
  unfold State.performRemote
  rw [List.find?_eq_none.mpr (by simpa using hf), ht, hc]
  rfl

theorem State.performRemote_waits (hf : ∀ y ∈ s.links.performed, y.1 ≠ (x.source, x.number)) (hc : s.copyingIn x.pa (opLength x.kind) = true) :
    s.performRemote x = none := by
  unfold State.performRemote
  rw [List.find?_eq_none.mpr (by simpa using hf), hc]
  rfl

theorem State.performHome_refused (hg : ∀ g ∈ s.links.grants, g.admits x = false) : s.performHome x = (s, .prot) :=
  if_pos (by simpa using hg)

/-- Some entry of the link access table admits the operation (R416). -/
theorem RemoteOp.grantFound (hg : ∃ g ∈ s.links.grants, g.admits x = true) : ¬(!s.links.grants.any fun g => g.admits x) = true := by
  rw [List.any_eq_true.mpr hg]
  exact Bool.false_ne_true

theorem State.performHome_outside (hg : ∃ g ∈ s.links.grants, g.admits x = true) (hl : hbmEnd < x.pa + opLength x.kind) :
    s.performHome x = (s, .addrFault) := (if_neg (RemoteOp.grantFound hg)).trans (if_pos hl)

theorem State.performHome_fails (hg : ∃ g ∈ s.links.grants, g.admits x = true) (hl : x.pa + opLength x.kind ≤ hbmEnd)
    (hf : s.homeFails x.pa (opLength x.kind) x.key (opReads x.kind) = some .eccUncorr) :
    s.performHome x = (s.afterFail .eccUncorr x.key x.pa, .eccUncorr) := by
  refine (if_neg (RemoteOp.grantFound hg)).trans ((if_neg (Nat.not_lt.mpr hl)).trans ?_)
  rw [hf]
  rfl

/-- An admitted operation that writes nothing: its data (R395). -/
theorem State.performHome_reads (hg : ∃ g ∈ s.links.grants, g.admits x = true) (hl : x.pa + opLength x.kind ≤ hbmEnd)
    (hf : s.homeFails x.pa (opLength x.kind) x.key (opReads x.kind) = none) (hr : opResult x.kind (s.homeRead x.pa (opLength x.kind)) = none) :
    s.performHome x = (s.opClock x, opAnswer x.kind (s.homeRead x.pa (opLength x.kind))) := by
  unfold State.performHome
  rw [if_neg (RemoteOp.grantFound hg), if_neg (Nat.not_lt.mpr hl), hf]
  simp only [hr]

/-- An admitted operation that writes: what it changes at its home, and its data (R395). -/
theorem State.performHome_writes {bs : List Byte} (hg : ∃ g ∈ s.links.grants, g.admits x = true) (hl : x.pa + opLength x.kind ≤ hbmEnd)
    (hf : s.homeFails x.pa (opLength x.kind) x.key (opReads x.kind) = none) (hr : opResult x.kind (s.homeRead x.pa (opLength x.kind)) = some bs) :
    s.performHome x =
      (((s.homeWrite noCore x.key x.pa bs).opClock x).noteStore 256 0 x.pa bs, opAnswer x.kind (s.homeRead x.pa (opLength x.kind))) := by
  unfold State.performHome
  rw [if_neg (RemoteOp.grantFound hg), if_neg (Nat.not_lt.mpr hl), hf]
  simp only [hr]

end

/-- Settles O48: one lemma for each event of a port and of a flit, and an operation by what performHome does with it. (The model's choices:
how acknowledgements are coded, which flit is a duplicate and when replay entries are freed, log entry 62; that an operation waits at a granule
being copied, log entry 63; a retrain to all strands, log entry 65; the mask that has trained, log entry 66; where a lost operation fails, log
entry 127.) -/
theorem linkEvents : Obligations.LinkEvents := by
  unfold Obligations.LinkEvents
  refine ⟨⟨fun s id => ⟨linkId_given, linkId_kept⟩, fun s p => ?ports⟩, fun s x => ⟨remoteOperation_forwarded, fun hi => ?operations⟩⟩
  case ports =>
    refine ⟨portEnable_trains, fun m hp => ?trained, portRetrain_up, portDisable_drains, ⟨rfl, State.loseWaiting_live⟩,
      fun target y => ⟨fun h => if_pos h, fun h => if_neg h⟩, fun hp => ⟨portDrained_off hp, portDrained_waits⟩, fun i hp hi hs hb => ?strand,
      fun f id n => ⟨fun h => Flash.retire_new h n, fun h => if_pos (by simpa using h)⟩, fun seq ack body hp => ?receive,
      fun seq strand => ⟨flitNak_replays, flitNak_unknown⟩⟩
    case trained =>
      intro x
      refine ⟨portTrained_conflict hp, fun h8 => ?_, fun h4 h8 => ?_, fun h4 => ?_⟩
      all_goals refine (portTrained_counts hp).trans (congrArg Host.Outcome.next ?_)
      · exact if_pos h8
      · exact (if_neg (Nat.ne_of_lt h8)).trans (if_pos h4)
      · exact (if_neg (Nat.ne_of_lt (h4.trans (by decide)))).trans (if_neg (Nat.not_le.mpr h4))
    case strand =>
      intro x t noted
      have retires : exec (.strandRetire p i) s = noted (if strandCount x < 4 then t.drainPort p else t) := strandRetire_drops hp hi hs hb
      exact ⟨fun h => retires.trans (congrArg noted (if_neg (Nat.not_lt.mpr h))), fun h => retires.trans (congrArg noted (if_pos h))⟩
    case receive =>
      intro q t taken
      exact ⟨flitReceive_bad hp, flitReceive_other hp, flitReceive_empty hp, fun x u hu => flitReceive_taken hp hu⟩
  case operations =>
    intro n acked once
    have answered {t : State} {a : LinkAnswer} (h : s.performRemote x = some (t, a)) : exec (.remoteOperation x) s = acked t a := by
      rw [remoteOperation_home hi, h]
      rfl
    refine ⟨fun y hy => answered (State.performRemote_again hy), fun hf => ⟨fun hc => ?waits, fun hc => ?performs⟩⟩
    case waits =>
      rw [remoteOperation_home hi, State.performRemote_waits hf hc]
      rfl
    case performs =>
      have first {t : State} {a : LinkAnswer} (h : s.performHome x = (t, a)) : exec (.remoteOperation x) s = once t a :=
        answered (State.performRemote_first hf hc h)
      refine ⟨fun hg => first (State.performHome_refused hg), fun hg => ⟨fun hl => first (State.performHome_outside hg hl), fun hl =>
        ⟨fun hh => first (State.performHome_fails hg hl hh), fun hh => ⟨fun m hm => ?load, fun bs hb => ?store⟩⟩⟩⟩
      case load =>
        have data : opAnswer x.kind (s.homeRead x.pa n) = .performed (s.homeRead x.pa n) := by
          rw [hm]
          rfl
        exact data ▸ first (State.performHome_reads hg hl hh (by rw [hm]; rfl))
      case store => exact first (State.performHome_writes hg hl hh hb)

end Sys2Proof.Machine
end

section
/-!
COLLECTIVES. How a collective starts, takes its peers' data, fails and completes (20_link.md R396..R401).
-/
namespace Sys2Proof.Machine

section
variable {s t u v z : State} {r : WRef} {i : CollItem} {l : List CollItem} {b ids bs : List Byte} {h : List Tlb}

/-- A collective goes on while every peer whose data it waits for has a live route (R401). -/
theorem State.collReach_reaches {f : State → Option State}
    (hr : s.engineRead s.g.core s.g.ref.ctx [] (pieces (field b 8 8) (2 * collM b)) = .ok ids h u)
    (live : ∀ q < collM b, q ≠ collRank b → u.routePort ((memberIds ids).getD q 0) ≠ none) : s.collReach i b f = f u := by
  have reached : (((List.range (collM b)).filter fun q => q != collRank b && !(i.peers.any (·.1 == q))).any
      fun q => (u.routePort ((memberIds ids).getD q 0)).isNone) = false := by
    rw [List.any_eq_false]
    intro q hq
    obtain ⟨hlt, hne⟩ := List.mem_filter.mp hq
    rw [Option.isNone_iff_eq_none]
    exact live q (List.mem_range.mp hlt) (bne_iff_ne.mp (Bool.and_eq_true_iff.mp hne).1)
  unfold State.collReach
  simp only [hr]
  rw [reached]
  rfl

/-- A peer whose data it waits for and that no live route reaches fails it (R401; log entry 37). -/
theorem State.collReach_lost {f : State → Option State} {q : Nat}
    (hr : s.engineRead s.g.core s.g.ref.ctx [] (pieces (field b 8 8) (2 * collM b)) = .ok ids h u) (hq : q < collM b) (hn : q ≠ collRank b)
    (hp : ∀ y ∈ i.peers, y.1 ≠ q) (lost : u.routePort ((memberIds ids).getD q 0) = none) :
    s.collReach i b f = some (u.collFails i .addrFault 0 none) := by
  have awaited : q ∈ (List.range (collM b)).filter fun q => q != collRank b && !(i.peers.any (·.1 == q)) := by
    simp only [List.mem_filter, List.mem_range, Bool.and_eq_true, bne_iff_ne, Bool.not_eq_true', List.any_eq_false, beq_iff_eq]
    exact ⟨hq, hn, hp⟩
  have unreached : (((List.range (collM b)).filter fun q => q != collRank b && !(i.peers.any (·.1 == q))).any
      fun q => (u.routePort ((memberIds ids).getD q 0)).isNone) = true :=
    List.any_eq_true.mpr ⟨q, awaited, Option.isNone_iff_eq_none.mpr lost⟩
  unfold State.collReach
  simp only [hr]
  rw [unreached]
  rfl

/-- A collective takes up its own source first (R397, R398). -/
theorem State.collStart_starts {h2 : List Tlb} (hr : s.engineRead s.g.core s.g.ref.ctx [] (pieces (field b 8 8) (2 * collM b)) = .ok ids h v)
    (live : ∀ q < collM b, q ≠ collRank b → v.routePort ((memberIds ids).getD q 0) ≠ none) (hm : collRank b ∈ collRanks b)
    (hz : v.engineRead v.g.core v.g.ref.ctx [] (pieces (field b 16 8) (4 * collSource b)) = .ok bs h2 z) :
    s.collStart i b = some (z.setColl { i with record := some b, peers := [(collRank b, wordsOf bs)] }) := by
  refine (State.collReach_reaches hr live).trans ((if_neg (by simpa using hm)).trans ?_)
  rw [hz]

/-- An entry of the collective queue that a fence does not hold and whose set lets it (R397). -/
structure Warp.CollFirst (w : Warp) (i : CollItem) : Prop where
  first : ∃ l, w.collQ = i :: l
  unfenced : i.fence = none
  allowed : w.setWaits i.set = false

/-- An entry whose record is not read yet begins with a sound one (R397). -/
theorem collEntryPerform_starts (ht : s.HoldsAny r t) (hq : t.w.passFences.CollFirst i) (hn : i.record = none)
    (hb : State.readGranules { t with w := t.w.passFences } t.g.core t.g.ref.ctx i.addr 2 = .ok b u) (hs : collSound b = true)
    (hv : u.collStart i b = some v) : exec (.collEntryPerform r) s = .next v.parkAny := by
  obtain ⟨⟨l, first⟩, unfenced, allowed⟩ := hq
  refine onWarpAny_next ht ?_
  simp only [first, unfenced, allowed, hn, hb, hs, hv]
  rfl

/-- An entry that waits for its peers looks whether they can still be reached (R401). -/
theorem collEntryPerform_looks (ht : s.HoldsAny r t) (hq : t.w.passFences.CollFirst i) (hn : i.record = some b) (hw : i.written = false)
    (hv : State.collReach { t with w := t.w.passFences } i b some = some v) : exec (.collEntryPerform r) s = .next v.parkAny := by
  obtain ⟨⟨l, first⟩, unfenced, allowed⟩ := hq
  refine onWarpAny_next ht ?_
  simp only [first, unfenced, allowed, hn, hw, hv]
  rfl

/-- Data of another rank that has none yet are looked at (R398). -/
theorem CollItem.awaits {rank : Nat} (hr : rank ≠ collRank b) (hm : rank < collM b) (hp : ∀ x ∈ i.peers, x.1 ≠ rank) :
    ¬(rank = collRank b ∨ collM b ≤ rank ∨ (i.peers.any (·.1 == rank)) = true) := by
  rintro (own | beyond | had)
  · exact hr own
  · exact Nat.not_le.mpr hm beyond
  · obtain ⟨x, hx, he⟩ := List.any_eq_true.mp had
    exact hp x hx (beq_iff_eq.mp he)

/-- Data with a record that disagrees fail the collective (R398). -/
theorem collPeerData_disagrees {rank : Nat} {data : List (BitVec 32)} {record : List Byte} (ht : s.HoldsAny r t) (hq : t.w.collQ = i :: l)
    (hb : i.record = some b) (hr : rank ≠ collRank b) (hm : rank < collM b) (hp : ∀ x ∈ i.peers, x.1 ≠ rank) (ha : collAgrees b record = false) :
    exec (.collPeerData r rank record data) s = .next (t.collFails i .badRecord 0 none).parkAny := by
  refine onWarpAny_next ht ?_
  simp only [hq, hb, ha]
  exact (if_neg (CollItem.awaits hr hm hp)).trans (if_pos rfl)

theorem collPeerData_kept {rank : Nat} {data : List (BitVec 32)} {record : List Byte} (ht : s.HoldsAny r t) (hq : t.w.collQ = i :: l)
    (hb : i.record = some b) (hr : rank ≠ collRank b) (hm : rank < collM b) (hp : ∀ x ∈ i.peers, x.1 ≠ rank) (ha : collAgrees b record = true)
    (hk : rank ∈ collRanks b) : exec (.collPeerData r rank record data) s =
      .next (t.setColl { i with peers := i.peers ++ [(rank, data.take (collSource b))] }).parkAny := by
  refine onWarpAny_next ht ?_
  simp only [hq, hb, ha]
  exact (if_neg (CollItem.awaits hr hm hp)).trans ((if_neg Bool.false_ne_true).trans (if_neg (by simpa using hk)))

/-- A collective that has every rank's data stores its result, and then signals (R399, R400). -/
theorem collComplete_next (ht : s.HoldsAny r t) (hq : t.w.collQ = i :: l) (hb : i.record = some b)
    (hp : ∀ q ∈ collRanks b, ∃ y ∈ i.peers, y.1 = q) (hv : (if i.written then t.collSignal i b else t.collStore i b) = some v) :
    exec (.collComplete r) s = .next v.parkAny := by
  have all : ((collRanks b).all fun q => i.peers.any (·.1 == q)) = true := by simpa using hp
  refine onWarpAny_next ht ?_
  simp only [hq, hb, all]
  exact hv

theorem State.collStore_writes {x : List Byte} (hu : (let bs := (collResult b i.peers).flatMap fun w => leBytes 4 w.toNat
      t.collWrite t.g.core t.g.ref.ctx (pieces (field b 24 8) bs.length) bs) = .ok x h u) : t.collStore i b =
    some ((u.noteSent t.links.nextOp (u.lateTrap .addrFault i.pc 0 (some (field b 24 8))) i.clk0).setColl { i with written := true }) := by
  unfold State.collStore
  dsimp only at hu ⊢
  rw [hu]

end

/-- Settles O49: an entry starts, or looks at its peers' routes, by collReach; peers' data and the completion by their own branches. (That a
failure is told at offset 0 with no address is the model's choice, log entry 37.) -/
theorem collectiveEvents : Obligations.CollectiveEvents := by
  unfold Obligations.CollectiveEvents
  intro s r t ht t1
  refine ⟨?starts, ?lost, ?data, ?completes⟩
  case starts =>
    intro i l b u ids h v bs h2 z hq hf hw hn hb hs hr live hm hz
    exact collEntryPerform_starts ht ⟨⟨l, hq⟩, hf, hw⟩ hn hb hs (State.collStart_starts hr live hm hz)
  case lost =>
    intro i l b ids h v q hq hf hw hn hwr hr hlt hne hp lost
    exact collEntryPerform_looks ht ⟨⟨l, hq⟩, hf, hw⟩ hn hwr (State.collReach_lost hr hlt hne hp lost)
  case data =>
    intro i l b rank data hq hb hr hm hp record
    exact ⟨collPeerData_disagrees ht hq hb hr hm hp, collPeerData_kept ht hq hb hr hm hp⟩
  case completes =>
    intro i l b hq hb hp
    exact ⟨fun x h u hw hu => collComplete_next ht hq hb hp ((if_neg (by simp [hw])).trans (State.collStore_writes hu)),
      fun v hw hv => collComplete_next ht hq hb hp ((if_pos hw).trans hv)⟩

end Sys2Proof.Machine
end

section
/-!
MANAGEMENT. Bring-up, mailboxes, power samples, the management registers and reports (21_firmware.md R403..R410).
-/
namespace Sys2Proof.Machine

/-! ### Bring-up (R404..R406) -/

section
variable {s t : State} {x : BootInput}

theorem bringUp_over (h : 6 ≤ s.switor.boot) : exec (.bringUp x) s = .next s := congrArg Host.Outcome.next (if_pos h)

/-- A step that its input fails leaves 0x80 plus its number (R404; log entry 74). -/
theorem bringUp_fails (h : s.switor.boot < 6) (hf : x.stepFails = true) : exec (.bringUp x) s = .next (s.booted (0x81 + s.switor.boot)) := by
  have number : s.bootFails (s.switor.boot + 1) = s.booted (0x81 + s.switor.boot) := congrArg s.booted (by omega)
  exact congrArg Host.Outcome.next ((if_neg (Nat.not_le.mpr h)).trans ((if_pos hf).trans number))

/-- The work of one step of bring-up that its input lets go on (R404). -/
def State.bootWork (s : State) (x : BootInput) : Nat → State
  | 0 => match s.verifyImage x.images 4 with | none => s.bootFails 1 | some t => t.booted 1
  | 1 => match s.verifyAll x.images [0, 1, 2, 3, 5, 6, 7] with | (t, ok) => if ok then t.booted 2 else t.bootFails 2
  | 2 => (s.flash.retired.foldl (fun t (r : BitVec 64 × Nat) => t.applyRecord r.1) s).booted 3
  | 3 => if x.hbmTrains then s.scrubbed.booted 4 else s.bootFails 4
  | 4 => (x.sweepFails.foldl State.sweepFail s).booted 5
  | _ => s.booted 0x10

theorem bringUp_works {n : Nat} (hn : s.switor.boot = n) (h : n < 6) (hf : x.stepFails = false) : exec (.bringUp x) s = .next (s.bootWork x n) := by
  subst hn
  refine congrArg Host.Outcome.next ((if_neg (Nat.not_le.mpr h)).trans ((if_neg (by simp [hf])).trans ?_))
  unfold State.bootWork
  rfl

/-- The switor core's image is verified before it runs (R404, R405). -/
theorem State.bootWork_unverified (h : ∀ y, x.images[4]? = some y → imageRuns s.flash.versions 4 y = false) : s.bootWork x 0 = s.booted 0x81 := by
  have unverified : s.verifyImage x.images 4 = none := by
    unfold State.verifyImage
    cases hy : x.images[4]? with
    | none => rfl
    | some y => exact if_neg (by simp [h y hy])
  unfold State.bootWork
  simp only [unverified]
  rfl

theorem State.bootWork_verified {y : BootImage} (hy : x.images[4]? = some y) (hr : imageRuns s.flash.versions 4 y = true) : s.bootWork x 0 =
    State.booted { s with flash := { s.flash with versions := s.flash.versions.set 4 (imageVersion y) },
                          switor := { s.switor with measurements := s.switor.measurements ++ [shake256 y.body] } } 1 := by
  have verified : s.verifyImage x.images 4 = some
      { s with flash := { s.flash with versions := s.flash.versions.set 4 (imageVersion y) },
               switor := { s.switor with measurements := s.switor.measurements ++ [shake256 y.body] } } := by
    unfold State.verifyImage
    rw [hy, Option.bind_some]
    exact if_pos hr
  unfold State.bootWork
  simp only [verified]

theorem State.bootWork_others (hl : s.flash.versions.length = 8)
    (h : ∀ k ∈ ([0, 1, 2, 3, 5, 6, 7] : List Nat), ∃ y, x.images[k]? = some y ∧ imageRuns s.flash.versions k y = true) :
    ∃ t : State, s.bootWork x 1 = t ∧ t.switor.boot = 2 ∧ t.flash.retired = s.flash.retired := by
  have places : ∀ k ∈ ([0, 1, 2, 3, 5, 6, 7] : List Nat), k < s.flash.versions.length := by
    rw [hl]
    decide
  obtain ⟨t, verified, retired, -⟩ := verifyAll_ok x.images [0, 1, 2, 3, 5, 6, 7] s (by decide) places h
  refine ⟨t.booted 2, ?_, rfl, retired⟩
  unfold State.bootWork
  simp only [verified]
  rfl

end

/-! ### Mailboxes and samples (R403, R409) -/

section
variable {s : State}

/-- A sender waits while the FIFO of its pair is full, and behind what it sent before (R403). -/
theorem State.sendMail_eq {m : List Byte} (hl : m.length = 64) (hs : field m 0 1 < 8) (hd : field m 1 1 < 8) : s.sendMail m =
    if 16 ≤ s.switor.mail.countP (fun x => field x 0 1 == field m 0 1 && field x 1 1 == field m 1 1) ∨
        ∃ x ∈ s.switor.mailWait, field x 0 1 = field m 0 1 then
      { s with switor := { s.switor with mailWait := s.switor.mailWait ++ [m] } }
    else { s with switor := { s.switor with mail := s.switor.mail ++ [m] } } := by
  have there : (s.switor.mailWait.any fun x => field x 0 1 == field m 0 1) = true ↔ ∃ x ∈ s.switor.mailWait, field x 0 1 = field m 0 1 := by simp
  simp only [← there]
  exact if_neg (by omega)

/-- A sample sets every die's ceiling and hold (R337, R409). -/
theorem powerSample_sets {x : PowerInput} (hb : s.switor.boot = 0x10) :
    ∃ t, exec (.powerSample x) s = .next t ∧ t.switor.watts = x.wattsAvg ∧ t.switor.hottest = x.temps.foldl max 0 ∧
      ∀ (d : Nat) (k : Die), s.dies[d]? = some k →
        t.dies[d]? = some { k with ceiling := nextCeiling x k.ceiling, hot := nextHot k.hot (x.temps.getD d 0) } := by
  have ready : ¬(!s.ready) = true := by simp [State.ready, hb]
  refine ⟨_, congrArg Host.Outcome.next (if_neg ready), rfl, rfl, fun d k hk => ?_⟩
  have placed : d < s.dies.length := (List.getElem?_eq_some_iff.mp hk).1
  simp [List.getElem?_range placed, hk]

end

/-! ### Registers (R410) -/

section
variable {s : State} {v : BitVec 64}

/-- Before bring-up has ended well, samples and writes do nothing (R404; log entry 75). -/
theorem unready_ignores (hb : s.switor.boot ≠ 0x10) (x : PowerInput) (b : BitVec 64) (o : Nat) (v : BitVec 64) :
    exec (.powerSample x) s = .next s ∧ exec (.eventCauseClear b) s = .next s ∧ exec (.registerWrite o v) s = .next s := by
  have unready : s.ready = false := by simpa [State.ready] using hb
  have off : (!s.ready) = true := by simp [unready]
  exact ⟨congrArg Host.Outcome.next (if_pos off), congrArg Host.Outcome.next (if_neg (by simp [unready])), congrArg Host.Outcome.next (if_pos off)⟩

theorem eventCauseClear_clears (hb : s.switor.boot = 0x10) (b : BitVec 64) :
    exec (.eventCauseClear b) s = .next { s with switor := { s.switor with cause := s.switor.cause &&& ~~~b } } :=
  congrArg Host.Outcome.next (if_pos (beq_iff_eq.mpr hb))

/-- What a write to an offset does once the device is ready, in the order of the register map (R410). -/
def State.registerWritten (s : State) (off : Nat) (val : BitVec 64) : State :=
  let w := s.switor
  if off = 0x010 then s.giveIdentity (val.toNat % 2 ^ 11)
  else if off = 0x018 then (if val = 1 then s.askReport else s)
  else if off = 0x020 then { s with switor := { w with attestAddr := val.toNat } }
  else if off = 0x028 ∨ off = 0x030 ∨ off = 0x038 ∨ off = 0x040 then
    { s with switor := { w with attestNonce := w.attestNonce.set ((off - 0x028) / 8) val.toNat } }
  else if off = 0x050 then s.writeDiag val
  else if off = 0x060 then { s with switor := { w with diagAddr := val.toNat } }
  else if off = 0x068 then s.clearCause val
  else if off = 0x100 then s.writePf val
  else if 0x108 ≤ off ∧ off ≤ 0x138 ∧ off % 8 = 0 then
    { s with switor := { w with pf := w.pf.take (off - 0x100) ++ leBytes 8 val.toNat ++ w.pf.drop (off - 0x100 + 8) } }
  else s

theorem registerWrite_ready (hb : s.switor.boot = 0x10) (off : Nat) : exec (.registerWrite off v) s = .next (s.registerWritten off v) :=
  congrArg Host.Outcome.next (if_neg (by simp [State.ready, hb]))

/-- The four words of the nonce (R408). -/
theorem State.registerWritten_nonce {i : Nat} (hi : i < 4) : s.registerWritten (0x028 + 8 * i) v =
    { s with switor := { s.switor with attestNonce := s.switor.attestNonce.set i v.toNat } } := by
  have word : (0x028 + 8 * i - 0x028) / 8 = i := by omega
  unfold State.registerWritten
  dsimp only
  rw [if_neg (by omega), if_neg (by omega), if_neg (by omega), if_pos (by omega), word]

/-- The words of the physical function's block after the first (R414; log entry 73). -/
theorem State.registerWritten_block {i : Nat} (h1 : 1 ≤ i) (h8 : i < 8) : s.registerWritten (0x100 + 8 * i) v =
    { s with switor := { s.switor with pf := s.switor.pf.take (8 * i) ++ leBytes 8 v.toNat ++ s.switor.pf.drop (8 * i + 8) } } := by
  have place : 0x100 + 8 * i - 0x100 = 8 * i := by omega
  unfold State.registerWritten
  dsimp only
  rw [if_neg (by omega), if_neg (by omega), if_neg (by omega), if_neg (by omega), if_neg (by omega), if_neg (by omega), if_neg (by omega),
    if_neg (by omega), if_pos (by omega), place]

/-- The registers that only the device writes (R410). -/
theorem State.registerWritten_readOnly : ∀ o ∈ ([0x000, 0x008, 0x048, 0x058] : List Nat), s.registerWritten o v = s := by
  simp [State.registerWritten]

end

/-! ### Reports (R407, R408) -/

section
variable {s : State} {r : Attest} {rest : List Attest}

theorem attestRequest_idle (h : s.switor.requests = []) : exec .attestRequest s = .next s := by
  show execAttestRequest s = _
  unfold execAttestRequest
  simp only [h]

/-- Flash passes an index before the report goes out, while one is left (R407; log entry 69). -/
theorem attestRequest_index (h : s.switor.requests = r :: rest) (hi : r.index = none) : exec .attestRequest s = .next (
    if 2 ^ 20 ≤ s.flash.gleku then { s with switor := { s.switor with requests := rest, attestCtl := 3 } }
    else { s with flash := { s.flash with gleku := s.flash.gleku + 1 },
                  switor := { s.switor with requests := { r with index := some s.flash.gleku } :: rest } }) := by
  show execAttestRequest s = _
  unfold execAttestRequest
  simp only [h, hi]

theorem attestRequest_report {i : Nat} (h : s.switor.requests = r :: rest) (hi : r.index = some i) : exec .attestRequest s =
    .next (State.physWrite { s with switor := { s.switor with requests := rest, attestCtl := 2 } }
      s.switor.attestAddr (s.report r.nonce i ++ Config.signature (s.report r.nonce i) i)) := by
  show execAttestRequest s = _
  unfold execAttestRequest
  simp only [h, hi]

end

/-- Settles O50: each step of bring-up by its work, a register by what a write to its offset does, and a report by its index. (The model's
choices: what power off leaves, log entry 6; the FIFOs of the mailboxes, 68; the two steps of a report, 69; an address kept as written, 70;
DIAG_CMD and the other bytes of the block, 71 and 73; a step that its input fails, 74; writes before bring-up has ended well, 75; power off as
an event, 76; the digest of an image, 118.) -/
theorem managementEvents : Obligations.ManagementEvents := by
  unfold Obligations.ManagementEvents
  refine ⟨⟨fun s x => ?bringUp, fun s => rfl, fun s src dst => rfl, fun s m hl hs hd => ?mail⟩,
    fun s hb x b o v => unready_ignores hb x b o v, fun s hb => ⟨fun x => powerSample_sets hb, eventCauseClear_clears hb, fun v => ?registers⟩,
    fun s => ⟨attestRequest_idle, fun r rest h hi => ?index, fun r rest i h hi => attestRequest_report h hi⟩⟩
  case bringUp =>
    intro at_
    refine ⟨bringUp_over, bringUp_fails, fun hf => ⟨fun h hy => ?_, fun y h hy hr => ?_, fun h hl himgs => ?_, fun h => bringUp_works h (by decide) hf,
      fun h ht => ?_, fun h ht => ?_, fun h => bringUp_works h (by decide) hf, fun h => bringUp_works h (by decide) hf⟩⟩
    · exact (bringUp_works h (by decide) hf).trans (congrArg Host.Outcome.next (State.bootWork_unverified hy))
    · exact (bringUp_works h (by decide) hf).trans (congrArg Host.Outcome.next (State.bootWork_verified hy hr))
    · obtain ⟨t, done, boot, retired⟩ := State.bootWork_others hl himgs
      exact ⟨t, (bringUp_works h (by decide) hf).trans (congrArg Host.Outcome.next done), boot, retired⟩
    · exact (bringUp_works h (by decide) hf).trans (congrArg Host.Outcome.next (if_pos ht))
    · exact (bringUp_works h (by decide) hf).trans (congrArg Host.Outcome.next (if_neg (by simp [ht])))
  case mail =>
    intro full behind
    exact ⟨fun hf hw => (State.sendMail_eq hl hs hd).trans (if_neg (not_or.mpr ⟨hf, hw⟩)), fun h => (State.sendMail_eq hl hs hd).trans (if_pos h)⟩
  case registers =>
    have writes (o : Nat) {t : State} (h : s.registerWritten o v = t) : exec (.registerWrite o v) s = .next t :=
      (registerWrite_ready hb o).trans (congrArg Host.Outcome.next h)
    refine ⟨writes _ rfl, writes _ rfl, fun i hi => writes _ (State.registerWritten_nonce hi), fun h => writes _ (if_pos h),
      fun h => writes _ (if_neg h), registerWrite_ready hb _, fun h => writes _ (if_neg h), fun h => writes _ (if_pos h), writes _ rfl, ?_, ?_,
      fun i h1 h8 => writes _ (State.registerWritten_block h1 h8), fun o ho => writes o (State.registerWritten_readOnly o ho)⟩
    · exact fun h => writes _ (if_neg (by simp [h]))
    · exact fun h => writes _ (if_pos (Option.isSome_iff_ne_none.mpr h))
  case index =>
    exact ⟨fun hg => (attestRequest_index h hi).trans (congrArg Host.Outcome.next (if_neg (Nat.not_le.mpr hg))),
      fun hg => (attestRequest_index h hi).trans (congrArg Host.Outcome.next (if_pos hg))⟩

end Sys2Proof.Machine
end

section
/-!
DIAGNOSTICS. The diagnostic commands and the commands of the physical function (21_firmware.md R410..R416).
-/
namespace Sys2Proof.Machine

/-! ### Diagnostic commands (R411..R413) -/

section
variable {s : State} {code : Nat} {named : Option (BitVec 64)} {f : BitVec 64 → State → Option State} {x : BitVec 64} {core : Nat}

/-- A diagnostic that is not the command under way does nothing (R411; log entry 71). -/
theorem onDiag_off (h : s.switor.diagStatus ≠ 1 ∨ named.any (· != s.switor.diagOperand) = true) : onDiag code named f s = .next s :=
  congrArg Host.Outcome.next (if_pos (h.imp id Or.inr))

/-- A step is a diagnostic: what it does before its own work is onDiag (R411). -/
def OfDiag (code : Nat) (named : Option (BitVec 64)) (e : State → Result) : Prop := ∃ f, e = onDiag code named f

theorem operandDiags (y : BitVec 64) (p : Bool) :
    ∀ i ∈ ([.diagCoreDump y, .diagRevive y p, .diagVacate y, .diagVacateEnd y] : List Instr), ∃ code, OfDiag code (some y) (exec i) := by
  have dump : OfDiag 2 (some y) (execDiagCoreDump y) := ⟨_, rfl⟩
  have revive : OfDiag 3 (some y) (execDiagRevive y p) := ⟨_, rfl⟩
  have vacate : OfDiag 4 (some y) (execDiagVacate y) := ⟨_, rfl⟩
  have vacateEnd : OfDiag 5 (some y) (execDiagVacateEnd y) := ⟨_, rfl⟩
  simp only [List.forall_mem_cons]
  exact ⟨⟨2, dump⟩, ⟨3, revive⟩, ⟨4, vacate⟩, ⟨5, vacateEnd⟩, fun i hi => absurd hi List.not_mem_nil⟩

/-- No diagnostic runs while DIAG_STATUS does not read 1 (R411). -/
theorem diag_idle (h : s.switor.diagStatus ≠ 1) (y : BitVec 64) (p : Bool) (b : List Byte) :
    ∀ i ∈ ([.diagCoreDump y, .diagRevive y p, .diagVacate y, .diagVacateEnd y] : List Instr),
      ∀ j ∈ i :: [.diagRetirementRecords, .diagSlotTable, .unlistedCommandCode .diag b], exec j s = .next s := by
  intro i hi
  obtain ⟨code, f, step⟩ := operandDiags y p i hi
  simp only [List.forall_mem_cons]
  refine ⟨?operand, (?records : execDiagRetirementRecords s = _), (?slots : execDiagSlotTable s = _), ?unlisted, fun j hj => absurd hj List.not_mem_nil⟩
  case operand =>
    rw [step]
    exact onDiag_off (.inl h)
  case records => exact onDiag_off (.inl h)
  case slots => exact onDiag_off (.inl h)
  case unlisted => exact congrArg Host.Outcome.next (if_neg fun busy => h busy.1)

theorem operandCore_number (hc : core < 192) : operandCore (BitVec.ofNat 64 (256 * core)) = some core := by
  have number : ((BitVec.ofNat 64 (256 * core)).extractLsb' 8 16).toNat = core := by
    simp only [BitVec.extractLsb'_toNat, BitVec.toNat_ofNat, Nat.shiftRight_eq_div_pow]
    omega
  unfold operandCore
  rw [number]
  exact if_pos ⟨rfl, hc⟩

theorem operandCore_none (h : ∀ core, core < 192 → x ≠ BitVec.ofNat 64 (256 * core)) : operandCore x = none :=
  if_neg fun ⟨he, hc⟩ => h _ hc he

/-- A diagnostic that is under way does its work, or fails (R411). -/
theorem onDiag_does {t : State} (hd : s.switor.diagStatus = 1) (hc : s.switor.diagCode = code) (hn : ∀ x ∈ named, x = s.switor.diagOperand)
    (ht : f s.switor.diagOperand s = some t) : onDiag code named f s = .next (t.diagEnds 2) := by
  rw [onDiag_next hd hc hn, ht]

theorem onDiag_fails (hd : s.switor.diagStatus = 1) (hc : s.switor.diagCode = code) (hn : ∀ x ∈ named, x = s.switor.diagOperand)
    (ht : f s.switor.diagOperand s = none) : onDiag code named f s = .next (s.diagEnds 3) := by
  rw [onDiag_next hd hc hn, ht]

/-- The two diagnostics with no operand fail where one is given (R412). -/
theorem plainDiags (hd : s.switor.diagStatus = 1) :
    (s.switor.diagCode = 1 → exec .diagRetirementRecords s = .next (if s.switor.diagOperand = 0 then
      (s.physWrite s.switor.diagAddr (leBytes 4 0x44520001 ++ leBytes 4 s.flash.retired.length ++ leBytes 56 0 ++
        s.flash.retired.flatMap fun (x : BitVec 64 × Nat) => leBytes 8 x.1.toNat ++ leBytes 8 x.2)).diagEnds 2 else s.diagEnds 3)) ∧
    (s.switor.diagCode = 6 → exec .diagSlotTable s = .next (if s.switor.diagOperand = 0 then
      (s.physWrite s.switor.diagAddr ((List.range 3072).flatMap fun k => leBytes 4 (s.slotEntry k).word)).diagEnds 2 else s.diagEnds 3)) := by
  refine ⟨fun hc => (?records : execDiagRetirementRecords s = _), fun hc => (?slots : execDiagSlotTable s = _)⟩
  case records =>
    unfold execDiagRetirementRecords
    split
    · exact onDiag_does hd hc (by simp) (if_neg (not_not.mpr ‹_›))
    · exact onDiag_fails hd hc (by simp) (if_pos ‹_›)
  case slots =>
    unfold execDiagSlotTable
    split
    · exact onDiag_does hd hc (by simp) (if_neg (not_not.mpr ‹_›))
    · exact onDiag_fails hd hc (by simp) (if_pos ‹_›)

/-- The three diagnostics of a core (R412, R413). -/
theorem coreDiags (hd : s.switor.diagStatus = 1) (hx : operandCore s.switor.diagOperand = some core) :
    (s.switor.diagCode = 2 → exec (.diagCoreDump s.switor.diagOperand) s =
      .next ((s.physWrite s.switor.diagAddr ((s.coreAt core).dump core)).diagEnds 2)) ∧
    (s.switor.diagCode = 4 → exec (.diagVacate s.switor.diagOperand) s =
      .next (((s.updCore core fun k => { k with vacated := true }).vacate core).diagEnds 2)) ∧
    (s.switor.diagCode = 5 → exec (.diagVacateEnd s.switor.diagOperand) s =
      .next ((s.updCore core fun k => { k with vacated := false }).diagEnds 2)) := by
  refine ⟨fun hc => (?dump : execDiagCoreDump _ s = _), fun hc => (?vacate : execDiagVacate _ s = _), fun hc => (?vacateEnd : execDiagVacateEnd _ s = _)⟩
  case dump =>
    unfold execDiagCoreDump
    exact onDiag_does hd hc (by simp) (by rw [hx]; rfl)
  case vacate =>
    unfold execDiagVacate
    exact onDiag_does hd hc (by simp) (by rw [hx]; rfl)
  case vacateEnd =>
    unfold execDiagVacateEnd
    exact onDiag_does hd hc (by simp) (by rw [hx]; rfl)

theorem coreDiags_fail (hd : s.switor.diagStatus = 1) (hx : operandCore s.switor.diagOperand = none) :
    (s.switor.diagCode = 2 → exec (.diagCoreDump s.switor.diagOperand) s = .next (s.diagEnds 3)) ∧
    (s.switor.diagCode = 4 → exec (.diagVacate s.switor.diagOperand) s = .next (s.diagEnds 3)) ∧
    (s.switor.diagCode = 5 → exec (.diagVacateEnd s.switor.diagOperand) s = .next (s.diagEnds 3)) := by
  refine ⟨fun hc => (?dump : execDiagCoreDump _ s = _), fun hc => (?vacate : execDiagVacate _ s = _), fun hc => (?vacateEnd : execDiagVacateEnd _ s = _)⟩
  case dump =>
    unfold execDiagCoreDump
    exact onDiag_fails hd hc (by simp) (by rw [hx]; rfl)
  case vacate =>
    unfold execDiagVacate
    exact onDiag_fails hd hc (by simp) (by rw [hx]; rfl)
  case vacateEnd =>
    unfold execDiagVacateEnd
    exact onDiag_fails hd hc (by simp) (by rw [hx]; rfl)

/-- A retired unit that passes its test is live again (R411, R412). -/
theorem diagRevive_returns {u : UnitId} (hd : s.switor.diagStatus = 1) (hc : s.switor.diagCode = 3) (hu : unitOf s.switor.diagOperand = some u)
    (hx : unitCode u = s.switor.diagOperand) (hk : u.core < 192) (hr : (s.coreAt u.core).unit u = some .retired) :
    exec (.diagRevive s.switor.diagOperand true) s = .next (State.diagEnds { s with
      cores := (s.updCore u.core fun k => k.setUnit u .live).cores,
      flash := { s.flash with retired := s.flash.retired.filter fun (y : BitVec 64 × Nat) => y.1 != s.switor.diagOperand } } 2) := by
  show execDiagRevive _ true s = _
  unfold execDiagRevive
  refine onDiag_does hd hc (by simp) ?_
  rw [hu, Option.bind_some]
  exact if_pos ⟨rfl, hx, hk, hr⟩

theorem diagRevive_fails (hd : s.switor.diagStatus = 1) (hc : s.switor.diagCode = 3) :
    exec (.diagRevive s.switor.diagOperand false) s = .next (s.diagEnds 3) := by
  show execDiagRevive _ false s = _
  unfold execDiagRevive
  refine onDiag_fails hd hc (by simp) ?_
  cases unitOf s.switor.diagOperand with
  | none => rfl
  | some u =>
    rw [Option.bind_some]
    refine if_neg ?_
    rintro ⟨passed, -⟩
    exact Bool.false_ne_true passed

end

/-! ### Commands of the physical function (R414..R416) -/

section
variable {s : State} {code : Nat} {byte word : Option Nat} {f : Nat → Nat → State → State × Nat} {b : List Byte}

/-- A step that is not the command under way does nothing (R414; log entry 71). -/
theorem onPf_off (hb : s.switor.pfRun = some b)
    (h : field b 0 1 ≠ code ∨ byte.any (· != field b 2 1) = true ∨ word.any (· != field b 8 8) = true) : onPf code byte word f s = .next s := by
  unfold onPf
  simp only [hb]
  exact congrArg Host.Outcome.next (if_pos h)

theorem onPf_unclean (hb : s.switor.pfRun = some b) (hc : field b 0 1 = code) (h1 : ∀ x ∈ byte, x = field b 2 1)
    (h2 : ∀ x ∈ word, x = field b 8 8) (hu : pfClean b (byte.isSome, word.isSome) = false) : onPf code byte word f s = .next (s.pfEnds 2) := by
  have named : ¬(field b 0 1 ≠ code ∨ byte.any (· != field b 2 1) = true ∨ word.any (· != field b 8 8) = true) := by
    rintro (other | other | other)
    · exact other hc
    · obtain ⟨x, hx, hne⟩ := Option.any_eq_true .. |>.mp other
      exact bne_iff_ne.mp hne (h1 x hx)
    · obtain ⟨x, hx, hne⟩ := Option.any_eq_true .. |>.mp other
      exact bne_iff_ne.mp hne (h2 x hx)
  unfold onPf
  simp only [hb]
  exact congrArg Host.Outcome.next ((if_neg named).trans (if_pos (by simp [hu])))

/-- A step is a command of the physical function: what it does before its own work is onPf (R414). -/
def OfPf (code : Nat) (byte word : Option Nat) (e : State → Result) : Prop := ∃ f, e = onPf code byte word f

theorem OfPf.off {e : State → Result} (h : OfPf code byte word e) (hb : s.switor.pfRun = some b)
    (hn : field b 0 1 ≠ code ∨ byte.any (· != field b 2 1) = true ∨ word.any (· != field b 8 8) = true) : e s = .next s := by
  obtain ⟨f, rfl⟩ := h
  exact onPf_off hb hn

theorem tenantSet_ofPf (n pa : Nat) : OfPf 0x21 (some n) (some pa) (exec (.tenantSet n pa)) := ⟨_, (rfl : execTenantSet n pa = _)⟩
theorem tenantClear_ofPf (n : Nat) : OfPf 0x22 (some n) none (exec (.tenantClear n)) := ⟨_, (rfl : execTenantClear n = _)⟩
theorem keyLoad_ofPf (n pa : Nat) : OfPf 0x23 (some n) (some pa) (exec (.keyLoad n pa)) := ⟨_, (rfl : execKeyLoad n pa = _)⟩
theorem keyClear_ofPf (n : Nat) : OfPf 0x24 (some n) none (exec (.keyClear n)) := ⟨_, (rfl : execKeyClear n = _)⟩
theorem linkGrant_ofPf (pa : Nat) : OfPf 0x25 none (some pa) (exec (.linkGrant pa)) := ⟨_, (rfl : execLinkGrant pa = _)⟩
theorem linkRevoke_ofPf (pa : Nat) : OfPf 0x26 none (some pa) (exec (.linkRevoke pa)) := ⟨_, (rfl : execLinkRevoke pa = _)⟩

theorem pfCommands (n pa : Nat) :
    ∀ i ∈ ([(0x21, (true, true), .tenantSet n pa), (0x22, (true, false), .tenantClear n), (0x23, (true, true), .keyLoad n pa),
        (0x24, (true, false), .keyClear n), (0x25, (false, true), .linkGrant pa), (0x26, (false, true), .linkRevoke pa)] :
        List (Nat × (Bool × Bool) × Instr)),
      OfPf i.1 (if i.2.1.1 then some n else none) (if i.2.1.2 then some pa else none) (exec i.2.2) := by
  simp only [List.forall_mem_cons]
  exact ⟨tenantSet_ofPf n pa, tenantClear_ofPf n, keyLoad_ofPf n pa, keyClear_ofPf n, linkGrant_ofPf pa, linkRevoke_ofPf pa,
    fun i hi => absurd hi List.not_mem_nil⟩

/-- A step that names another tenant or key than the command under way does nothing (R414; log entry 71). -/
theorem pf_otherByte (hb : s.switor.pfRun = some b) {m : Nat} (hm : m ≠ field b 2 1) (q : Nat) :
    ∀ i ∈ ([.tenantSet m q, .tenantClear m, .keyLoad m q, .keyClear m] : List Instr), exec i s = .next s := by
  have other : (some m).any (· != field b 2 1) = true := by simpa using hm
  simp only [List.forall_mem_cons]
  exact ⟨(tenantSet_ofPf m q).off hb (.inr (.inl other)), (tenantClear_ofPf m).off hb (.inr (.inl other)),
    (keyLoad_ofPf m q).off hb (.inr (.inl other)), (keyClear_ofPf m).off hb (.inr (.inl other)), fun i hi => absurd hi List.not_mem_nil⟩

theorem pf_otherWord (hb : s.switor.pfRun = some b) {q : Nat} (hq : q ≠ field b 8 8) (m : Nat) :
    ∀ i ∈ ([.tenantSet m q, .keyLoad m q, .linkGrant q, .linkRevoke q] : List Instr), exec i s = .next s := by
  have other : (some q).any (· != field b 8 8) = true := by simpa using hq
  simp only [List.forall_mem_cons]
  exact ⟨(tenantSet_ofPf m q).off hb (.inr (.inr other)), (keyLoad_ofPf m q).off hb (.inr (.inr other)),
    (linkGrant_ofPf q).off hb (.inr (.inr other)), (linkRevoke_ofPf q).off hb (.inr (.inr other)), fun i hi => absurd hi List.not_mem_nil⟩

/-- A command of the physical function that is under way does its work and ends with its status (R414). -/
theorem onPf_does {t : State} {status : Nat} (hb : s.switor.pfRun = some b) (hc : field b 0 1 = code) (h1 : ∀ x ∈ byte, x = field b 2 1)
    (h2 : ∀ x ∈ word, x = field b 8 8) (hu : pfClean b (byte.isSome, word.isSome) = true)
    (ht : f (field b 2 1) (field b 8 8) s = (t, status)) : onPf code byte word f s = .next (t.pfEnds status) := by
  rw [onPf_next hb hc h1 h2 hu, ht]

/-- The keys that are not one of a tenant's four are the other tenants'. -/
theorem filter_keys {α : Type} (l : List (Nat × α)) (n : Nat) :
    ((((l.filter fun x => x.1 != 4 * n + 0).filter fun x => x.1 != 4 * n + 1).filter fun x => x.1 != 4 * n + 2).filter fun x => x.1 != 4 * n + 3) =
      l.filter fun x => x.1 / 4 != n := by
  simp only [List.filter_filter]
  congr 1
  funext x
  rw [Bool.eq_iff_iff]
  simp only [Bool.and_eq_true, bne_iff_ne]
  omega

/-- The plain device key takes the place of a tenant's four keys (R389, R414). -/
theorem State.plainKeys (s : State) (n : Nat) : (List.range 4).foldl (fun u i => u.plainKey (4 * n + i)) s =
    { s with switor := { s.switor with keys := s.switor.keys.filter fun (x : Nat × Nat) => x.1 / 4 != n,
                                       material := s.switor.material.filter fun (x : Nat × List Byte) => x.1 / 4 != n } } := by
  show List.foldl (fun u i => State.plainKey u (4 * n + i)) s [0, 1, 2, 3] = _
  simp only [List.foldl_cons, List.foldl_nil, State.plainKey, filter_keys]

/-! The work of each command whose operands are as R414 has them. -/

theorem tenantSet_sets {r : List Byte} (hb : s.switor.pfRun = some b) (hc : field b 0 1 = 0x21) (hu : pfClean b (true, true) = true)
    (hn : field b 2 1 < 16) (hx : s.noContext (field b 2 1) = true) (hr : s.physRead (field b 8 8) 256 = some r)
    (hs : s.tenantSound (field b 2 1) r = true) : exec (.tenantSet (field b 2 1) (field b 8 8)) s =
      .next (State.pfEnds { s with tenants := s.tenants.modify (field b 2 1) fun x =>
        { x with enabled := true, windows := recordWindows r, ctxLimit := field r 9 1, errBase := field r 0 8, errLog2 := field r 8 1,
                 quantum := 2000 } } 0) := by
  show execTenantSet (field b 2 1) (field b 8 8) s = _
  unfold execTenantSet
  refine onPf_does hb hc (by simp) (by simp) hu ?_
  refine (if_neg (Nat.not_le.mpr hn)).trans ((if_neg (by simp [hx])).trans ?_)
  rw [hr]
  exact if_pos hs

theorem tenantSet_unsound {r : List Byte} (hb : s.switor.pfRun = some b) (hc : field b 0 1 = 0x21) (hu : pfClean b (true, true) = true)
    (hn : field b 2 1 < 16) (hx : s.noContext (field b 2 1) = true) (hr : s.physRead (field b 8 8) 256 = some r)
    (hs : s.tenantSound (field b 2 1) r = false) : exec (.tenantSet (field b 2 1) (field b 8 8)) s = .next (s.pfEnds 2) := by
  show execTenantSet (field b 2 1) (field b 8 8) s = _
  unfold execTenantSet
  refine onPf_does hb hc (by simp) (by simp) hu ?_
  refine (if_neg (Nat.not_le.mpr hn)).trans ((if_neg (by simp [hx])).trans ?_)
  rw [hr]
  exact if_neg (by simp [hs])

theorem tenantClear_clears (hb : s.switor.pfRun = some b) (hc : field b 0 1 = 0x22) (hu : pfClean b (true, false) = true)
    (hn : field b 2 1 < 16) (hx : s.noContext (field b 2 1) = true) : exec (.tenantClear (field b 2 1)) s =
      .next (State.pfEnds { s with
        switor := { s.switor with keys := s.switor.keys.filter fun (x : Nat × Nat) => x.1 / 4 != field b 2 1,
                                  material := s.switor.material.filter fun (x : Nat × List Byte) => x.1 / 4 != field b 2 1 },
        tenants := s.tenants.modify (field b 2 1) fun x => { x with enabled := false, windows := [], quantum := 2000 } } 0) := by
  show execTenantClear (field b 2 1) s = _
  unfold execTenantClear
  refine onPf_does hb hc (by simp) (by simp) hu ?_
  refine (if_neg (Nat.not_le.mpr hn)).trans ((if_neg (by simp [hx])).trans ?_)
  simp only [State.plainKeys]

theorem keyLoad_loads {r : List Byte} (hb : s.switor.pfRun = some b) (hc : field b 0 1 = 0x23) (hu : pfClean b (true, true) = true)
    (hn : field b 2 1 < 64) (ht : (s.tenants.getD (field b 2 1 / 4) Tenant.fresh).enabled = true)
    (hr : s.physRead (field b 8 8) 96 = some r) : exec (.keyLoad (field b 2 1) (field b 8 8)) s =
      .next (State.pfEnds (State.physWrite { s with switor := { s.switor with
        keys := (field b 2 1, s.switor.loads + 1) :: s.switor.keys.filter fun (x : Nat × Nat) => x.1 != field b 2 1,
        material := (field b 2 1, r) :: s.switor.material.filter fun (x : Nat × List Byte) => x.1 != field b 2 1,
        loads := s.switor.loads + 1 } } (field b 8 8) (leBytes 96 0)) 0) := by
  show execKeyLoad (field b 2 1) (field b 8 8) s = _
  unfold execKeyLoad
  refine onPf_does hb hc (by simp) (by simp) hu ?_
  refine (if_neg (Nat.not_le.mpr hn)).trans ((if_neg (by rw [ht]; exact Bool.false_ne_true)).trans ?_)
  rw [hr]

theorem keyClear_clears (hb : s.switor.pfRun = some b) (hc : field b 0 1 = 0x24) (hu : pfClean b (true, false) = true)
    (hn : field b 2 1 < 64) : exec (.keyClear (field b 2 1)) s = .next ((s.plainKey (field b 2 1)).pfEnds 0) := by
  show execKeyClear (field b 2 1) s = _
  unfold execKeyClear
  exact onPf_does hb hc (by simp) (by simp) hu (if_neg (Nat.not_le.mpr hn))

theorem linkGrant_grants {g : Grant} (hb : s.switor.pfRun = some b) (hc : field b 0 1 = 0x25) (hu : pfClean b (false, true) = true)
    (hg : (s.physRead (field b 8 8) 32).bind grantOf = some g) : exec (.linkGrant (field b 8 8)) s =
      if 256 ≤ s.links.grants.length then .next (s.pfEnds 3)
      else .next (State.pfEnds { s with links := { s.links with grants := s.links.grants ++ [g] } } 0) := by
  show execLinkGrant (field b 8 8) s = _
  unfold execLinkGrant
  split
  case isTrue full =>
    refine onPf_does hb hc (by simp) (by simp) hu ?_
    rw [hg]
    exact if_pos full
  case isFalse room =>
    refine onPf_does hb hc (by simp) (by simp) hu ?_
    rw [hg]
    exact if_neg room

theorem linkRevoke_revokes {g : Grant} (hb : s.switor.pfRun = some b) (hc : field b 0 1 = 0x26) (hu : pfClean b (false, true) = true)
    (hg : (s.physRead (field b 8 8) 32).bind grantOf = some g) (hs : ∃ x ∈ s.links.grants, g.same x = true) :
    exec (.linkRevoke (field b 8 8)) s =
      .next (State.pfEnds { s with links := { s.links with grants := s.links.grants.eraseP g.same } } 0) := by
  show execLinkRevoke (field b 8 8) s = _
  unfold execLinkRevoke
  refine onPf_does hb hc (by simp) (by simp) hu ?_
  rw [hg]
  exact if_pos (List.any_eq_true.mpr hs)

end

/-- Settles O51: what every diagnostic and every command of the physical function does first is said once, of onDiag and onPf; each one's own
work is a lemma of its own. (The model's choices: a command does its work in one step, and a step that names other operands does nothing, log
entry 71; how tables take up a unit that is returned, 72; the other bytes of the block, 73.) -/
theorem diagnosticEvents : Obligations.DiagnosticEvents := by
  unfold Obligations.DiagnosticEvents
  refine ⟨fun s y p b i hi => ⟨fun h => diag_idle h y p b i hi, fun h => ?otherOperand⟩, fun s hd => ?diags, fun s b hb => ?pf,
    fun s k ht he hc => ?context⟩
  case otherOperand =>
    obtain ⟨code, f, step⟩ := operandDiags y p i hi
    rw [step]
    exact onDiag_off (.inr (by simpa [Switor.diagOperand] using h))
  case diags =>
    intro code x ends
    obtain ⟨records, slots⟩ := plainDiags hd
    refine ⟨fun hc hx => ?_, fun hc hx => ?_, fun hx => ⟨fun hc => ?_, fun hc => ?_⟩, fun core hk hx => coreDiags hd ((congrArg operandCore hx).trans (operandCore_number hk)),
      fun hx => coreDiags_fail hd (operandCore_none hx),
      fun hc => ⟨fun u hu hx hk hr => diagRevive_returns hd hc hu hx hk hr, diagRevive_fails hd hc⟩, fun hc => ?unlisted⟩
    · exact (records hc).trans (congrArg Host.Outcome.next (if_pos hx))
    · exact (slots hc).trans (congrArg Host.Outcome.next (if_pos hx))
    · exact (records hc).trans (congrArg Host.Outcome.next (if_neg hx))
    · exact (slots hc).trans (congrArg Host.Outcome.next (if_neg hx))
    case unlisted => exact congrArg Host.Outcome.next (if_pos ⟨hd, rfl, hc⟩)
  case pf =>
    intro ends code n pa
    refine ⟨fun i hi => ⟨fun hc => (pfCommands n pa i hi).off hb (.inl hc), fun hc hu => ?unclean⟩, fun m hm q => pf_otherByte hb hm q,
      fun q hq m => pf_otherWord hb hq m,
      fun r hc hu hn hx hr => ⟨tenantSet_sets hb hc hu hn hx hr, tenantSet_unsound hb hc hu hn hx hr⟩,
      fun hc hu hn hx => tenantClear_clears hb hc hu hn hx, fun r hc hu hn ht hr => keyLoad_loads hb hc hu hn ht hr,
      fun hc hu hn => keyClear_clears hb hc hu hn, fun g hu hg => ⟨fun hc hl => ?room, fun hc hl => ?full, fun hc hs => linkRevoke_revokes hb hc hu hg hs⟩,
      fun hc => ?unlisted⟩
    case room => exact (linkGrant_grants hb hc hu hg).trans (if_neg (Nat.not_le.mpr hl))
    case full => exact (linkGrant_grants hb hc hu hg).trans (if_pos hl)
    case unclean =>
      obtain ⟨f, step⟩ := pfCommands n pa i hi
      obtain ⟨number, ⟨byte, word⟩, command⟩ := i
      rw [step]
      refine onPf_unclean hb hc ?_ ?_ ?_
      · cases byte <;> simp [n]
      · cases word <;> simp [pa]
      · cases byte <;> cases word <;> exact hu
    case unlisted => exact congrArg Host.Outcome.next (if_pos ⟨hb, by omega⟩)
  case context =>
    have takes : s.Takes k true := ⟨ht, he, rfl⟩
    exact (if_neg (show ¬(1 ≤ k.code ∧ k.code ≤ 12) by omega)).trans (onCommand_next takes)

end Sys2Proof.Machine
end
